-- ==== Sys2Proof/Word.lean ====
section
/-!
DEFINITION. The words of the model: bytes, 32-bit words of the Hob (R92), 64-bit words of registers and descriptors. -/

namespace Sys2Proof

/-- A byte of memory. -/
abbrev Byte := BitVec 8

/-- A word of the Hob's general registers. -/
abbrev Word := BitVec 32

/-- A 64-bit register, descriptor or map entry half. -/
abbrev DWord := BitVec 64

end Sys2Proof
end

