-- ==== Sys2Proof/Syntax/Operands.lean ====
section
/-!
DEFINITION. The operands that commands carry: who issues an instruction or an access, and the operand fields of
the Hob's encodings (R95 to R100) as the instruction's bytes spell them. -/

namespace Sys2Proof

/-- The context that issues an instruction: cottage c (R15) or Reeve core r (R91). -/
inductive Ctx where
  | cottage (c : Nat)
  | reeve (r : Nat)
  deriving DecidableEq, Repr

/-- The way by which a Reeve core reaches a register: IO space or a window of its default space (R106, R137), the private
port, or the private port's secure alias (R424). -/
inductive Path where
  | io | priv | secure
  deriving DecidableEq, Repr

/-- The agent that makes a register access: the PF or VF v (1 to 128) of a port, Reeve core r by one of its paths, or cottage
c through its own register window. -/
inductive Agent where
  | pf (port : Nat)
  | vf (port v : Nat)
  | reeve (r : Nat) (path : Path)
  | cottage (c : Nat)
  deriving DecidableEq, Repr

/-- An access of a register by address: a read, or a write of a value (R5, R9). -/
inductive BarAccess where
  | read
  | write (v : DWord)
  deriving DecidableEq, Repr

/-- The operand byte OB: A in bits 7 to 4, B in bits 3 to 0 (R97). -/
structure Ob where
  a : BitVec 4
  b : BitVec 4
  deriving DecidableEq, Repr

/-- The operands of a two-operand ALU operation, by form (R101): registers, or a register and an immediate; `quiet`
leaves FL unchanged. The immediate field holds 1 byte, or 4 under LIMM. -/
inductive AluArgs where
  | reg (ob : Ob) (quiet : Bool)
  | imm (ob : Ob) (value : Word) (quiet : Bool)
  deriving DecidableEq, Repr

/-- The operands of a memory operation or LEA: OB, the address byte AB (R98) and the displacement field (1 byte, or
4 under LIMM). -/
structure MemArgs where
  ob : Ob
  amode : BitVec 2
  scale : BitVec 2
  base : BitVec 4
  disp : Word
  deriving DecidableEq, Repr

/-- The target of JMP and CALL: a branch offset (1 byte, or 4 under LIMM) or a register (R100). -/
inductive JumpArgs where
  | rel (offset : Word)
  | reg (ob : Ob)
  deriving DecidableEq, Repr

/-- The operand of WAITLINE: a 16-bit line or a register. -/
inductive LineArgs where
  | imm (t : BitVec 16)
  | reg (ob : Ob)
  deriving DecidableEq, Repr

/-- What the memory system does with an access of an instruction beside serving it: a hit, a miss of L1D that hits L2, a miss
of both, poisoned data, or a map entry corrected or uncorrectable (R114, R124, R134, R311). -/
inductive AccessEvent where
  | hit | l1Miss | miss | poisoned | mapEccCorr | mapEcc
  deriving DecidableEq, Repr

/-- Where a Loom leaves a job before its end: at a safe point before pixel x, or before entry x of a blanking job, for an
earlier deadline (R142), having stalled for `stalled` CCLK; or at a pattern-cache miss before pixel x (R141). -/
inductive JobStop where
  | none
  | yield (x : Nat) (stalled : Nat)
  | miss (x : Nat)
  deriving DecidableEq, Repr

/-- An error that a Loom, Relief, the Porch or the Granary detects in a job (R178, R209, R242, R311). The control-store errors
and UC_FAULT name the control word; `pcacheEcc` the video RAM address of its line; `refEcc` the cell column whose reference
word is uncorrectable; the map errors are those of a map entry that the job uses. -/
inductive JobFlaw where
  | none
  | ucEccCorr (word : Nat)
  | ucEcc (word : Nat)
  | ucFault (word : Nat)
  | poison | tallyEcc
  | pcacheEcc (addr : Nat)
  | lbEccCorr | lbEcc | vsrcPoison
  | refEcc (i : Nat)
  | mapEccCorr | mapEcc
  deriving DecidableEq, Repr

/-- What a command finds in a Granary map entry that it uses: it is sound, has been corrected, or is uncorrectable (R311). -/
inductive MapEvent where
  | sound | corrected | uncorrectable
  deriving DecidableEq, Repr

/-- An error in the voice or journal state that a voice sample uses (R278), or in a map entry that it uses (R311). -/
inductive VoiceFlaw where
  | none | eccCorr | ecc
  | map (ev : MapEvent)
  deriving DecidableEq, Repr

/-- What the bridge of the cottage in context slot `k` of a parish (0 to 255) is to present at a mix sample (R259, R260): frame and
number of the voice sample of this output and of the one needed 64 mix samples ahead, the time since the former in parts that the
converter uses. -/
structure BridgeClock where
  k : Nat
  now : Nat × Nat
  ahead : Nat × Nat
  phase : Nat
  deriving DecidableEq, Repr

/-- A region of a parish's Larder (R313): the Tally, the pattern cache of a Loom, the L2 bins of a LARDER entry, the line buffers,
the Choir's state, staging. -/
inductive LarderRegion where
  | tally
  | pcache (j : Nat)
  | l2 (entry : Nat)
  | linebuf | choir | stage
  deriving DecidableEq, Repr

/-- Where an access of the Larder goes: a word of the bank, or word w of a region (R313). -/
inductive LarderPlace where
  | word (w : Nat)
  | region (r : LarderRegion) (w : Nat)
  deriving DecidableEq, Repr

/-- What an access of the Larder does (R314, R318): a read, with its ECC outcome (0 good, 1 corrected, 2 uncorrectable), or a write
under a mask of 16 bytes. -/
inductive LarderOp where
  | read (ecc : Nat)
  | write (data : BitVec 128) (mask : BitVec 16)
  deriving DecidableEq, Repr

/-- An access of a requester (0 Loom to 6 Reeve, R314) to the Larder. -/
structure LarderAcc where
  req : Nat
  place : LarderPlace
  op : LarderOp
  deriving DecidableEq, Repr

/-- An arbiter: a parish's port, or an HBM channel's (R322). -/
inductive Arbiter where
  | parish (n : Nat)
  | channel (q : Nat)
  deriving DecidableEq, Repr

/-- A request at an arbiter: requester in tie order, module address and length in bytes, how long it has waited in CCLK, and
whether it is a read. -/
structure ArbReq where
  req : Nat
  addr : Nat
  bytes : Nat
  waited : Nat
  read : Bool
  deriving DecidableEq, Repr

/-- What a channel finds in the 64-bit words that it reads for a grant (R320): the addresses of the words that it corrects and of
those it cannot; `report` says that a millisecond has passed since the channel's last record. -/
structure HbmEcc where
  corr : List Nat
  unc : List Nat
  report : Bool
  deriving DecidableEq, Repr

/-- A change of a function's MSI-X state (R344, R445): a vector's mask, the Function Mask, or MSI-X Enable. -/
inductive MsixChange where
  | vector (v : Nat) (masked : Bool)
  | function (masked : Bool)
  | enable (on : Bool)
  deriving DecidableEq, Repr

/-- What an eDP port learns of its panel (R232): plugged in, or the link trained, PSR2 offered or not. -/
inductive PanelEvent where
  | plugged
  | trained (psr2 : Bool)
  deriving DecidableEq, Repr

/-- A change that a configuration-space write makes (R340, R446, R449, R450, R452, R441): Bus Master Enable; VF Enable with
NumVFs; LTR Mechanism Enable; ASPM L1; L1 PM Substates; PTM Enable; PME_Status cleared; the completion timeout range. -/
inductive ConfigChange where
  | bme (on : Bool)
  | vfs (n : Nat)
  | ltr (on : Bool)
  | aspm (on : Bool)
  | l1ss (on : Bool)
  | ptm (on : Bool)
  | clearPme
  | cplTimeout (range : Nat)
  deriving DecidableEq, Repr

/-- How a read that a transfer engine or a fetch issued ended: well, unsuccessful, poisoned, timed out, or with
uncorrectable memory data (R310, R361, R366). -/
inductive ReadEnd where
  | ok | unsuccessful | poisoned | timeout | uncorrectable
  deriving DecidableEq, Repr

end Sys2Proof
end

