-- ==== Sys2Proof/Syntax.lean ====
section
/-!
DEFINITION. The commands of the block: one constructor per row of the opcode table, in the table's order. Numbers name
units (cottage c, parish n, function o = 129 × port + function, ring r, channel j, ...); the ranges they must lie in
are in WellFormed.lean. An operand that says what a command meets may be left out where it meets nothing out of the ordinary. -/

namespace Sys2Proof

/-- A command (one row of the table each; the docstring names the row and its rule). -/
inductive Instr where
  /-- REGISTER_WRITE (R5, R9): an access of `bytes` bytes at BAR0 offset `off`, for a core in the view of function `view`; of the
  reads, which need no row of their own, R9 reports those of a wrong size. -/
  | registerWrite (ag : Agent) (view : Nat) (off : Nat) (bytes : Nat) (acc : BarAccess)
  /-- MOV (R101): MOV in any of its forms. -/
  | aluMov (who : Ctx) (pre : List Byte) (x : AluArgs)
  /-- ADD (R101): ADD in any of its forms. -/
  | aluAdd (who : Ctx) (pre : List Byte) (x : AluArgs)
  /-- ADC (R101): ADC in any of its forms. -/
  | aluAdc (who : Ctx) (pre : List Byte) (x : AluArgs)
  /-- SUB (R101): SUB in any of its forms. -/
  | aluSub (who : Ctx) (pre : List Byte) (x : AluArgs)
  /-- SBC (R101): SBC in any of its forms. -/
  | aluSbc (who : Ctx) (pre : List Byte) (x : AluArgs)
  /-- CMP (R101): CMP in its forms. -/
  | aluCmp (who : Ctx) (pre : List Byte) (x : AluArgs)
  /-- AND (R101): AND in any of its forms. -/
  | aluAnd (who : Ctx) (pre : List Byte) (x : AluArgs)
  /-- OR (R101): OR in any of its forms. -/
  | aluOr (who : Ctx) (pre : List Byte) (x : AluArgs)
  /-- XOR (R101): XOR in any of its forms. -/
  | aluXor (who : Ctx) (pre : List Byte) (x : AluArgs)
  /-- TST (R101): TST in its forms. -/
  | aluTst (who : Ctx) (pre : List Byte) (x : AluArgs)
  /-- SHL (R119): SHL in any of its forms. -/
  | aluShl (who : Ctx) (pre : List Byte) (x : AluArgs)
  /-- SHR (R119): SHR in any of its forms. -/
  | aluShr (who : Ctx) (pre : List Byte) (x : AluArgs)
  /-- SAR (R119): SAR in any of its forms. -/
  | aluSar (who : Ctx) (pre : List Byte) (x : AluArgs)
  /-- ROL (R119): ROL in any of its forms. -/
  | aluRol (who : Ctx) (pre : List Byte) (x : AluArgs)
  /-- ROR (R119): ROR in any of its forms. -/
  | aluRor (who : Ctx) (pre : List Byte) (x : AluArgs)
  /-- MUL (R103): MUL in any of its forms. -/
  | aluMul (who : Ctx) (pre : List Byte) (x : AluArgs)
  /-- CMOVCC (R104): a conditional move. -/
  | cmovcc (who : Ctx) (pre : List Byte) (cc : BitVec 4) (ob : Ob)
  /-- NEG (R119): NEG of D. -/
  | aluNeg (who : Ctx) (pre : List Byte) (ob : Ob)
  /-- NOT (R118): NOT of D. -/
  | aluNot (who : Ctx) (pre : List Byte) (ob : Ob)
  /-- SEXT8 (R118): SEXT8 of D. -/
  | sext8 (who : Ctx) (pre : List Byte) (ob : Ob)
  /-- SEXT16 (R118): SEXT16 of D. -/
  | sext16 (who : Ctx) (pre : List Byte) (ob : Ob)
  /-- MULH (R103): MULH of D and S. -/
  | mulh (who : Ctx) (pre : List Byte) (ob : Ob)
  /-- MULHU (R103): MULHU of D and S. -/
  | mulhu (who : Ctx) (pre : List Byte) (ob : Ob)
  /-- DIVU (R119): DIVU of D by S. -/
  | divu (who : Ctx) (pre : List Byte) (ob : Ob)
  /-- DIVS (R119): DIVS of D by S. -/
  | divs (who : Ctx) (pre : List Byte) (ob : Ob)
  /-- SEL (R104): SEL D, S, T, cc. -/
  | sel (who : Ctx) (pre : List Byte) (ob : Ob) (t : BitVec 4) (cc : BitVec 4)
  /-- LEA (R98): LEA of an address into D. -/
  | lea (who : Ctx) (pre : List Byte) (m : MemArgs)
  /-- BCC (R100): a conditional branch. -/
  | bcc (who : Ctx) (pre : List Byte) (cc : BitVec 4) (off : Word)
  /-- BCC_ANNUL (R130): a conditional branch with annul. -/
  | bccAnnul (who : Ctx) (pre : List Byte) (cc : BitVec 4) (off : Word)
  /-- LD (R106): a zero-extending load. -/
  | ld (who : Ctx) (pre : List Byte) (m : MemArgs) (ev : AccessEvent)
  /-- LDS (R102): a sign-extending load. -/
  | lds (who : Ctx) (pre : List Byte) (m : MemArgs) (ev : AccessEvent)
  /-- ST (R106): a store. -/
  | st (who : Ctx) (pre : List Byte) (m : MemArgs) (ev : AccessEvent)
  /-- PUSH (R111): PUSH of a register. -/
  | push (who : Ctx) (pre : List Byte) (ob : Ob) (ev : AccessEvent)
  /-- POP (R111): POP of a register. -/
  | pop (who : Ctx) (pre : List Byte) (ob : Ob) (ev : AccessEvent)
  /-- STP (R100): a store of a register pair. -/
  | stp (who : Ctx) (pre : List Byte) (m : MemArgs) (ev : AccessEvent)
  /-- LDP (R100): a load of a register pair. -/
  | ldp (who : Ctx) (pre : List Byte) (m : MemArgs) (ev : AccessEvent)
  /-- JMP (R100): a jump. -/
  | jmp (who : Ctx) (pre : List Byte) (j : JumpArgs)
  /-- CALL (R111): a call. -/
  | call (who : Ctx) (pre : List Byte) (j : JumpArgs) (ev : AccessEvent)
  /-- RET (R111): a return. -/
  | ret (who : Ctx) (pre : List Byte) (ev : AccessEvent)
  /-- RETI (R122): a return from interrupt. -/
  | reti (who : Ctx) (pre : List Byte) (ev : AccessEvent)
  /-- WAITLINE (R19): WAITLINE of a line. -/
  | waitline (who : Ctx) (pre : List Byte) (t : LineArgs)
  /-- NOP (R100): the instruction of opcode byte `opc` without operands that is NOP (0x80) or reserved (R96). -/
  | nop (who : Ctx) (pre : List Byte) (opc : Byte := 0x80)
  /-- FENCE (R110): FENCE. -/
  | fence (who : Ctx) (pre : List Byte)
  /-- FLUSHP (R128): FLUSHP. -/
  | flushp (who : Ctx) (pre : List Byte)
  /-- BARP (R128): BARP. -/
  | barp (who : Ctx) (pre : List Byte)
  /-- UNBARP (R128): UNBARP. -/
  | unbarp (who : Ctx) (pre : List Byte)
  /-- MOVS_READ (R112): MOVS g[A] := special B. -/
  | movsRead (who : Ctx) (pre : List Byte) (ob : Ob)
  /-- MOVS_WRITE (R112): MOVS special B := g[A]. -/
  | movsWrite (who : Ctx) (pre : List Byte) (ob : Ob)
  /-- EI (R100): EI. -/
  | ei (who : Ctx) (pre : List Byte)
  /-- DI (R100): DI. -/
  | di (who : Ctx) (pre : List Byte)
  /-- WFI (R100): WFI. -/
  | wfi (who : Ctx) (pre : List Byte)
  /-- ERET (R124): ERET. -/
  | eret (who : Ctx) (pre : List Byte)
  /-- MISS_DATA_RETURN (R114): the data that cottage c's load misses have returned. -/
  | missDataReturn (c : Nat)
  /-- BEAM_WAIT_END (R44): what cottage c's beam wait awaits is exact. -/
  | beamWaitEnd (c : Nat)
  /-- TALLY_FULL_RESUME (R42): the fill of cottage c's Tally has fallen to 448. -/
  | tallyFullResume (c : Nat)
  /-- PARITY_HOLD_END (R43): the frame that cottage c's parity hold awaits is finished. -/
  | parityHoldEnd (c : Nat)
  /-- INTERRUPT_ENTRY (R122): cottage c takes its interrupt. -/
  | interruptEntry (c : Nat)
  /-- REEVE_INTERRUPT (R396): Reeve core r takes an interrupt. -/
  | reeveInterrupt (r : Nat)
  /-- SCHEDULER_PICK (R30): core `core` of parish n picks the context that issues next. -/
  | schedulerPick (n : Nat) (core : Nat)
  /-- BELL (R22): a Bell of parish n. -/
  | bell (n : Nat)
  /-- BELL_RATE_WRITE (R24): a write of BEL_PERIOD (custom) or of BEL_CTL. -/
  | bellRateWrite (ag : Agent) (n : Nat) (custom : Bool) (v : DWord)
  /-- BELL_SOURCE_WRITE (R26): a write of BEL_CTL.SRC. -/
  | bellSourceWrite (ag : Agent) (n : Nat) (src : BitVec 2)
  /-- BELL_SOURCE_LOST (R25): the source parish n's Bell is to lock to is lost. -/
  | bellSourceLost (n : Nat)
  /-- BELL_RELOCK (R25): the slewing of parish n's Bell to its source ends in lock. -/
  | bellRelock (n : Nat)
  /-- COT_CTL_RUN (R32): a write of COT_CTL.RUN of cottage c. -/
  | cotCtlRun (ag : Agent) (c : Nat) (run : Bool) (ev : MapEvent := .sound)
  /-- COT_CTL_RST (R35): a write of COT_CTL.RST of cottage c. -/
  | cotCtlRst (ag : Agent) (c : Nat)
  /-- COT_CTL_HALT (R36): a write of COT_CTL.HALT of cottage c. -/
  | cotCtlHalt (ag : Agent) (c : Nat) (on : Bool)
  /-- COT_CONTEXT_WRITE (R135): a write of COT_G[r] (r below 16), COT_SP (16), COT_PC (17) or COT_FL (18). -/
  | cotContextWrite (ag : Agent) (c : Nat) (r : Nat) (v : Word)
  /-- INPUT_PUSH (R47): a write of COT_IN_VAL of cottage c. -/
  | inputPush (ag : Agent) (c : Nat) (value : Word)
  /-- INPUT_APPLIED (R49): cottage c's beam has reached the applied stamp of its oldest event. -/
  | inputApplied (c : Nat)
  /-- VALIDATE_PARISH (R84): agent ag writes PF p's ARM_CMD with PMASK and VEC. -/
  | validateParish (ag : Agent) (p : Nat) (mask : Nat) (vec : Nat)
  /-- LOAD_PARISH (R87): agent ag writes PF p's ARM_CMD with PMASK and VEC. -/
  | loadParish (ag : Agent) (p : Nat) (mask : Nat) (vec : Nat)
  /-- VALIDATE_MODULE (R84): agent ag writes PF p's ARM_CMD with VEC. -/
  | validateModule (ag : Agent) (p : Nat) (vec : Nat)
  /-- LOAD_MODULE (R88): agent ag writes PF p's ARM_CMD with VEC. -/
  | loadModule (ag : Agent) (p : Nat) (vec : Nat)
  /-- ARM_FETCH_DONE (R85): with the bytes read, or the failure. -/
  | armFetchDone (how : ReadEnd)
  /-- ARM_CHECK_DONE (R84): the checks of the fetched image finish. -/
  | armCheckDone
  /-- ARM_COMPLETE (R89): the Lanes' pad levels being `pads`. -/
  | armComplete (pads : List Bool)
  /-- REEVE_HALT (R136): a write of RVE_CTL.HALT of core r. -/
  | reeveHalt (ag : Agent) (r : Nat) (on : Bool)
  /-- BMODE_WRITE (R131): a write of RVE_CTL.BMODE of core r. -/
  | bmodeWrite (ag : Agent) (r : Nat) (on : Bool)
  /-- PRED_OFF_WRITE (R129): a write of RVE_CTL.PRED_OFF of core r. -/
  | predOffWrite (ag : Agent) (r : Nat) (on : Bool)
  /-- VISIBLE_JOB (R138): Loom j takes cottage c's visible job, up to `stop`. -/
  | visibleJob (c : Nat) (j : Nat) (stop : JobStop) (flaw : JobFlaw)
  /-- BLANKING_JOB (R138): Loom j takes cottage c's blanking job. -/
  | blankingJob (c : Nat) (j : Nat) (stop : JobStop) (flaw : JobFlaw := .none)
  /-- JOB_RESUME (R139): Loom j resumes cottage c's parked or yielded job. -/
  | jobResume (c : Nat) (j : Nat) (stop : JobStop) (flaw : JobFlaw)
  /-- PATTERN_CACHE_FILL (R163): the fill that cottage c's stalled job awaits returns. -/
  | patternCacheFill (c : Nat) (stop : JobStop) (flaw : JobFlaw)
  /-- SAFE_GAP (R167): 64 CCLK without a safe word in cottage c's job on Loom j. -/
  | safeGap (c : Nat) (j : Nat) (path : List Nat := [])
  /-- PORCH_FLIP (R227): the last payload of stream s of cottage c's oldest closed frame is written. -/
  | porchFlip (c : Nat) (k : Nat) (late : Bool)
  /-- STREAM_ENABLE (R231): a write of POR_S0_CTL of cottage c. -/
  | streamEnable (ag : Agent) (c : Nat) (v : Word)
  /-- POR_S1_CTL_WRITE (R239): a write of POR_S1_CTL of cottage c. -/
  | porS1CtlWrite (ag : Agent) (c : Nat) (v : Word)
  /-- REFRESH (R239): a write of REFRESH of stream s of cottage c. -/
  | refresh (ag : Agent) (c : Nat) (k : Nat)
  /-- EDP_ENABLE (R235): a write of POR_EDP_CTL.EN of port e. -/
  | edpEnable (ag : Agent) (e : Nat) (en : Bool)
  /-- EDP_GEOMETRY_WRITE (R234): a write of POR_EDP_CTL or POR_EDP_DST of port e. -/
  | edpGeometryWrite (ag : Agent) (e : Nat) (dst : Bool) (v : DWord)
  /-- EDP_PANEL_FRAME (R233): a panel frame of port e begins. -/
  | edpPanelFrame (e : Nat) (gran : Nat) (unfinished : Bool)
  /-- EDP_LINK_LOST (R236): port e loses HPD, or link training alone. -/
  | edpLinkLost (e : Nat) (hpd : Bool := true)
  /-- AUX_TRANSACTION (R241): a transaction through POR_EDP_AUX of port e. -/
  | auxTransaction (ag : Agent) (e : Nat) (request : List Word)
  /-- VOICE_SAMPLE (R254): the Choir generates the next voice sample of cottage c. -/
  | voiceSample (c : Nat) (flaw : VoiceFlaw)
  /-- MIX_SAMPLE (R259): parish n produces one mix sample, by the clocks of its bridges; the phase errors of the contexts `realign` ask for
  realignment. -/
  | mixSample (n : Nat) (clocks : List BridgeClock) (realign : List Nat)
  /-- MIX_BLOCK_BOUNDARY (R265): a mix block of parish n begins. -/
  | mixBlockBoundary (n : Nat)
  /-- ROUTE_WRITE (R266): a write of CHR_RT of route r of cottage c. -/
  | routeWrite (ag : Agent) (c : Nat) (r : Nat) (v : Word)
  /-- CHR_BUS_WRITE (R262): a write of CHR_BUS of cottage c. -/
  | chrBusWrite (ag : Agent) (c : Nat) (v : Word)
  /-- HOST_AUDIO_ENABLE (R267): a write of CHR_S_CTL of cottage c. -/
  | hostAudioEnable (ag : Agent) (c : Nat) (v : Word)
  /-- AUDIO (R270): the last mix sample of cottage c's audio block is complete. -/
  | audio (c : Nat)
  /-- TDM_PORT_FRAME (R271): a frame of TDM port p begins, its data ready or not. -/
  | tdmPortFrame (p : Nat) (ready : Bool)
  /-- TDM_SLIP (R273): an FSYNC period of slave port p is off by more than one BCLK. -/
  | tdmSlip (p : Nat) (again : Bool := false)
  /-- TDM_CONFIG_WRITE (R272): a write of CHR_TDM_CTL of port p. -/
  | tdmConfigWrite (ag : Agent) (p : Nat) (v : Word)
  /-- AMCLK_SOURCE_WRITE (R274): a write of CHR_AMCLK. -/
  | amclkSourceWrite (ag : Agent) (v : Word)
  /-- AMCLK_LOST (R274): the source of AMCLK is lost. -/
  | amclkLost
  /-- AMCLK_LOCK (R274): the audio PLL locks. -/
  | amclkLock
  /-- CMAP_WRITE (R287): a write of GRN_CMAP[e] of cottage c, or of GRN_CVRAM (e = 256). -/
  | cmapWrite (ag : Agent) (c : Nat) (e : Nat) (v : DWord)
  /-- GRANULE_ARRIVAL (R294): granule g of frame f's page-in arrives. -/
  | granuleArrival (f : Nat) (g : Nat)
  /-- PAGEIN_FAIL (R310): the request for granule g of frame f's page-in fails. -/
  | pageinFail (f : Nat) (g : Nat) (how : ReadEnd)
  /-- COW_COPY_DONE (R298): the copy of granule g into frame f completes. -/
  | cowCopyDone (f : Nat) (g : Nat)
  /-- ALLOC (R309): a write of ALLOC to GRN_CMD of port p. -/
  | allocCmd (ag : Agent) (p : Nat) (vec : Nat)
  /-- FREE (R309): a write of FREE to GRN_CMD of port p. -/
  | freeCmd (ag : Agent) (p : Nat) (vec : Nat)
  /-- GRANARY_DROP (R309): a write of DROP to GRN_CMD of port p. -/
  | granaryDrop (ag : Agent) (p : Nat) (vec : Nat)
  /-- READ (R309): a write of READ to GRN_CMD of port p. -/
  | readCmd (ag : Agent) (p : Nat) (vec : Nat)
  /-- EVACUATE (R309): a write of EVACUATE to GRN_CMD of port p. -/
  | evacuate (ag : Agent) (p : Nat) (vec : Nat)
  /-- EVACUATE_RELEASE (R309): a write of EVACUATE to GRN_CMD of port p, with ARG0[63] set. -/
  | evacuateRelease (ag : Agent) (p : Nat) (vec : Nat)
  /-- EVACUATE_DONE (R309): the evacuation of channel q is complete. -/
  | evacuateDone (q : Nat)
  /-- CAPTURE (R300): a write of CAPTURE to HAY_CMD of cottage c. -/
  | capture (ag : Agent) (c : Nat) (slot : Nat) (vec : Nat)
  /-- CAPTURE_POINT (R300): the Hayloft captures cottage c at its capture point. -/
  | capturePoint (c : Nat) (ev : MapEvent := .sound)
  /-- RESTORE (R301): a write of RESTORE to HAY_CMD of cottage c. -/
  | restore (ag : Agent) (c : Nat) (slot : Nat) (vec : Nat)
  /-- RESTORE_TAKEN (R301): the Hayloft restores cottage c -/
  | restoreTaken (c : Nat) (ecc : Bool) (ev : MapEvent := .sound)
  /-- SNAPSHOT_DROP (R302): a write of DROP to HAY_CMD of cottage c. -/
  | snapshotDrop (ag : Agent) (c : Nat) (slot : Nat) (vec : Nat)
  /-- EXPORT (R303): a write of EXPORT to HAY_CMD of cottage c. -/
  | exportCmd (ag : Agent) (c : Nat) (slot : Nat) (vec : Nat)
  /-- EXPORT_DONE (R303): the writes of cottage c's EXPORT complete, or fail after so many bytes. -/
  | exportDone (c : Nat) (failed : Option Nat)
  /-- IMPORT (R305): a write of IMPORT to HAY_CMD of cottage c. -/
  | importCmd (ag : Agent) (c : Nat) (slot : Nat) (vec : Nat)
  /-- IMPORT_DONE (R305): the read of cottage c's IMPORT completes. -/
  | importDone (c : Nat) (how : ReadEnd)
  /-- CANCEL (R306): a write of CANCEL to HAY_CMD of cottage c. -/
  | cancel (ag : Agent) (c : Nat)
  /-- RETENTION_WRITE (R317): a write of LRD_RET of parish n. -/
  | retentionWrite (ag : Agent) (n : Nat) (v : DWord)
  /-- BANK_WAKE (R317): bank b of parish n finishes its wake. -/
  | bankWake (n : Nat) (b : Nat)
  /-- LARDER_BANK_ACCESS (R315): the accesses that meet at bank b of parish n in one CCLK. -/
  | larderBankAccess (n : Nat) (b : Nat) (accs : List LarderAcc)
  /-- SELF_REFRESH_ENTRY (R321): stack k has been idle for 4,096 CCLK, the Porch's next access of it `hint` µs away. -/
  | selfRefreshEntry (k : Nat) (hint : Nat)
  /-- SELF_REFRESH_EXIT (R321): a request wakes stack k. -/
  | selfRefreshExit (k : Nat)
  /-- ARB_WINDOW (R322): a window of 1,024 CCLK of an arbiter begins. -/
  | arbWindow (a : Arbiter)
  /-- ARBITER_GRANT (R322): an arbiter grants one of its requests. -/
  | arbiterGrant (a : Arbiter) (reqs : List ArbReq) (returned : List Nat) (withdrawn : Bool) (ecc : HbmEcc)
  /-- URGENT (R326): the wait of requester r of an arbiter passes its threshold. -/
  | urgent (a : Arbiter) (r : Nat) (waited : Nat)
  /-- REGION_REGISTER (R331): a write of COM_REGION_BASE, or COM_REGION_SIZE, of function o. -/
  | regionRegister (ag : Agent) (o : Nat) (isSize : Bool) (v : DWord)
  /-- BAR2_ENABLE (R332): a write of COM_BAR2 of function o. -/
  | bar2Enable (ag : Agent) (o : Nat) (v : Word)
  /-- INBOUND_BAR2_ACCESS (R332): an inbound write of `data`, or a read, of n bytes at an offset of BAR2 of function o. -/
  | inboundBar2Access (o : Nat) (off : Nat) (n : Nat) (data : Option (List Byte))
  /-- RING_ENABLE (R337): a write of COM_RING_CFG of ring r of function o. -/
  | ringEnable (ag : Agent) (o : Nat) (r : Nat) (v : Word)
  /-- COM_RING_RET (R338): a doorbell write of RET of ring r of function o. -/
  | comRingRet (ag : Agent) (o : Nat) (r : Nat) (v : Word)
  /-- RING_ERR (R340): the port cannot deliver a write of ring r of function o. -/
  | ringErr (o : Nat) (r : Nat)
  /-- ERRORS (R341): the ERRORS slot in progress of function o is flipped. -/
  | errors (o : Nat)
  /-- COM_EQ_WRITE (R527): a write of COM_EQ of function o. -/
  | comEqWrite (ag : Agent) (o : Nat) (v : Word)
  /-- HOLDOFF_EXPIRY (R343): the holdoff of a vector of function o ends. -/
  | holdoffExpiry (o : Nat) (vec : Nat)
  /-- MSIX_UNMASK (R344): a mask or the enable of MSI-X of function o changes. -/
  | msixUnmask (o : Nat) (x : MsixChange)
  /-- CARTER_START (R351): cottage c stores v, with START, to CAR_C_CTL. -/
  | carterStart (c : Nat) (v : Word)
  /-- REGISTER_TRANSFER_DONE (R352): register channel i of parish n finishes its transfer. -/
  | registerTransferDone (n : Nat) (i : Nat) (ev : MapEvent := .sound)
  /-- CHAIN_RUN (R356): a write of RUN to CAR_CH_CTL of chain channel j of parish n. -/
  | chainRun (ag : Agent) (n : Nat) (j : Nat)
  /-- DESCRIPTOR_FETCH (R356): the descriptor read of chain channel j of parish n returns. -/
  | descriptorFetch (n : Nat) (j : Nat)
  /-- DESCRIPTOR_DONE (R356): the last write of the descriptor of chain channel j of parish n completes. -/
  | descriptorDone (n : Nat) (j : Nat) (ev : MapEvent := .sound)
  /-- NEXT_READ (R358): the NEXT read of chain channel j of parish n returns. -/
  | nextRead (n : Nat) (j : Nat)
  /-- CAR_CH_DB (R358): a doorbell of chain channel j of parish n. -/
  | carChDb (ag : Agent) (n : Nat) (j : Nat)
  /-- PAUSE (R359): PAUSE of a register (reg) or chain channel of parish n is set. -/
  | pause (ag : Agent) (n : Nat) (reg : Bool) (j : Nat)
  /-- PAUSE_CLEAR (R359): PAUSE of a channel of parish n is cleared. -/
  | pauseClear (ag : Agent) (n : Nat) (reg : Bool) (j : Nat)
  /-- PAUSE_DRAINED (R359): the reads in flight of a paused channel, `bytes` more, are written. -/
  | pauseDrained (n : Nat) (reg : Bool) (j : Nat) (bytes : Nat)
  /-- CHAIN_ABORT (R362): ABORT of chain channel j of parish n, which drains `bytes` more. -/
  | chainAbort (ag : Agent) (n : Nat) (j : Nat) (bytes : Nat)
  /-- REGISTER_CHANNEL_ABORT (R362): ABORT of register channel i of parish n, which drains `bytes` more. -/
  | registerChannelAbort (ag : Agent) (n : Nat) (i : Nat) (bytes : Nat)
  /-- STOP_ALL (R361): a Carter read of parish n ends badly. -/
  | stopAll (n : Nat) (space : Nat) (addr : Nat) (how : ReadEnd) (port : Option Nat) (moved : List (Bool × Nat × Nat))
  /-- RESUME (R362): a write of RESUME to CAR_CTL of parish n. -/
  | resume (ag : Agent) (n : Nat)
  /-- CHISEL_START (R379): cottage c stores v, with START, to CHS_C_CTL. -/
  | chiselStart (c : Nat) (v : Word)
  /-- VRAM_BLIT_START (R381): the VRAM-destination blit at the head of normal channel i of parish n takes effect. -/
  | vramBlitStart (n : Nat) (i : Nat)
  /-- CHISEL_TRANSFER_DONE (R380): normal channel i of parish n finishes its transfer. -/
  | chiselTransferDone (n : Nat) (i : Nat) (ev : MapEvent := .sound)
  /-- PRIVILEGED_START (R383): a write of START to CHS_P_CTL of privileged channel m of parish n. -/
  | privilegedStart (ag : Agent) (n : Nat) (m : Nat) (v : Word)
  /-- PRIVILEGED_DONE (R383): privileged channel m of parish n completes. -/
  | privilegedDone (n : Nat) (m : Nat) (ev : MapEvent := .sound)
  /-- READ_FAIL (R384): a read of normal channel i of parish n fails, after `pixels` pixels. -/
  | readFail (n : Nat) (i : Nat) (pixels : Nat) (how : ReadEnd) (port : Nat)
  /-- P_READ_FAIL (R384): a read of privileged channel m of parish n fails, after `pixels` pixels. -/
  | pReadFail (n : Nat) (m : Nat) (pixels : Nat) (how : ReadEnd) (port : Nat)
  /-- PIC_TAKE (R389): a read of PIC_TAKE word w of parish n. -/
  | picTake (ag : Agent) (n : Nat) (w : Nat)
  /-- PIC_ACT (R389): a write of PIC_ACT word w of parish n. -/
  | picAct (ag : Agent) (n : Nat) (w : Nat) (v : Word)
  /-- PIC_SET (R398): a write of PIC_SET word w of parish n. -/
  | picSet (ag : Agent) (n : Nat) (w : Nat) (v : Word)
  /-- PIC_EN_WRITE (R388): a write of PIC_EN word w of parish n. -/
  | picEnWrite (ag : Agent) (n : Nat) (w : Nat) (v : Word)
  /-- NOTIFICATION (R394): the controller of parish n sends the notification of one CCLK. -/
  | notification (n : Nat)
  /-- VANISH_SAMPLE (R391): the level of source i of parish n is sampled, WIN after its claim. -/
  | vanishSample (n : Nat) (i : Nat)
  /-- CIB_TAKE (R402): cottage c loads CIB_TAKE. -/
  | cibTake (c : Nat)
  /-- CIB_ACT (R389): cottage c stores v to CIB_ACT. -/
  | cibAct (c : Nat) (v : Word)
  /-- CIB_SET (R400): cottage c stores v to CIB_SET. -/
  | cibSet (c : Nat) (v : Word)
  /-- CIB_VT_CTL (R404): cottage c stores v to CIB_VT_CTL of virtual timer k. -/
  | cibVtCtl (c : Nat) (k : Nat) (v : Word)
  /-- VT_FIRE (R404): a due firing of virtual timer k of cottage c. -/
  | vtFire (c : Nat) (k : Nat)
  /-- TMR_ARM (R408): a write of TMR_CTL with ARM of timer unit u. -/
  | tmrArm (ag : Agent) (u : Nat) (v : Word)
  /-- TMR_STOP (R408): a write of TMR_CTL with STOP of timer unit u. -/
  | tmrStop (ag : Agent) (u : Nat)
  /-- TMR_CMP_WRITE (R409): a write of TMR_CMP of timer unit u, in a CCLK without a tick. -/
  | tmrCmpWrite (ag : Agent) (u : Nat) (v : Word)
  /-- TIMER_TICK (R409): a tick of timer unit u, with its owner's write of TMR_CMP in the same CCLK or none. -/
  | timerTick (u : Nat) (cmp : Option Word)
  /-- TIMER_CAPTURE (R411): a synchronised capture edge of timer unit u. -/
  | timerCapture (u : Nat) (rising : Bool)
  /-- LFCLK_STEP (R412): an LFCLK edge at timer unit u in low-frequency mode. -/
  | lfclkStep (u : Nat)
  /-- PAIR_LOW_READ (R414): a read of the low half of timer pair m. -/
  | pairLowRead (ag : Agent) (m : Nat)
  /-- PAIR_HIGH_READ (R414): a read of the high half of timer pair m. -/
  | pairHighRead (ag : Agent) (m : Nat)
  /-- FUNCTION_SWITCH (R425): a write of LAN_CFG of Lane l, whose pad stands at `present` from outside. -/
  | functionSwitch (ag : Agent) (l : Nat) (v : Word) (present : Bool)
  /-- HANDOVER_TAKE (R425): c + 3 of a hand-over of Lane l. -/
  | handoverTake (l : Nat)
  /-- LAN_OUT_WRITE (R423): a write of LAN_OUT of bank b. -/
  | lanOutWrite (ag : Agent) (b : Nat) (v : Word)
  /-- LAN_SEC_WRITE (R421): a write of LAN_SEC. -/
  | lanSecWrite (ag : Agent) (v : Word)
  /-- WAKE_LANE (R427): wake Lane l has been at WPOL for 61 µs. -/
  | wakeLane (l : Nat)
  /-- BELL_REF_EDGE (R428): a rising edge on the BELL_REF input. -/
  | bellRefEdge
  /-- BELL_REF_LOST (R428): no BELL_REF edge within 1.5 Bell periods of parish n. -/
  | bellRefLost (n : Nat)
  /-- UART_TX (R429): a write of LAN_UART_TX of UART u. -/
  | uartTx (ag : Agent) (u : Nat) (b : Byte)
  /-- UART_RX (R429): a byte arrives at UART u, with error err. -/
  | uartRxByte (u : Nat) (b : Byte) (err : Nat)
  /-- SPI_TX (R429): a write of LAN_SPI_TX of SPI u, whose frame receives `miso`. -/
  | spiTx (ag : Agent) (u : Nat) (v : Word) (miso : Word)
  /-- I2C_CMD (R429): a write of LAN_I2C_CMD of I2C u, whose transaction gives `data` and `status`. -/
  | i2cCmd (ag : Agent) (u : Nat) (v : Word) (data : Word) (status : Word)
  /-- TREADLE_STEP (R432): a step of Treadle t on the pads' synchronised levels. -/
  | treadleStep (t : Nat) (pads : Nat) (parity : Bool)
  /-- TREADLE_ENABLE (R436): a write of TRD_CTL with EN 1 of Treadle t. -/
  | treadleEnable (ag : Agent) (t : Nat) (v : Word)
  /-- TREADLE_DISABLE (R436): a write of TRD_CTL with EN 0 of Treadle t. -/
  | treadleDisable (ag : Agent) (t : Nat) (v : Word)
  /-- TREADLE_COMMIT (R435): a write of COMMIT to TRD_CMD of Treadle t. -/
  | treadleCommit (ag : Agent) (t : Nat)
  /-- FLUSH (R436): a write of FLUSH to TRD_CMD of Treadle t. -/
  | flush (ag : Agent) (t : Nat)
  /-- TRD_TXF_WRITE (R437): a write of TRD_TXF of Treadle t. -/
  | trdTxfWrite (ag : Agent) (t : Nat) (v : Word)
  /-- TRD_RXF_READ (R437): a read of TRD_RXF of Treadle t. -/
  | trdRxfRead (ag : Agent) (t : Nat)
  /-- LUT_WRITE (R435): a write of LUT entry i of Treadle t. -/
  | lutWrite (ag : Agent) (t : Nat) (i : Nat) (v : Word)
  /-- STAGE (R171): agent ag writes PF p's LOM_STG_CMD with PMASK and VEC. -/
  | stage (ag : Agent) (p : Nat) (mask : Nat) (vec : Nat)
  /-- SWAP (R171): agent ag writes PF p's LOM_STG_CMD with PMASK and VEC. -/
  | swap (ag : Agent) (p : Nat) (mask : Nat) (vec : Nat)
  /-- STAGE_DONE (R171): with the bytes read, or the failure. -/
  | stageDone (how : ReadEnd)
  /-- MODULE_RESET (R453): power-on, or PERST# on both ports. -/
  | moduleReset
  /-- PORT_RESET (R453): port p resets: PERST# (kind 0), a hot reset (1), or a loss of DL_Active (2). -/
  | portReset (p : Nat) (kind : Nat)
  /-- LINK_UP (R481): port p reaches DL_Active at a rate code and width -/
  | linkUp (p : Nat) (rate : Nat) (width : Nat) (flit : Bool) (common : Nat)
  /-- FLR (R454): Initiate FLR of VF v of port p. -/
  | flr (p : Nat) (v : Nat)
  /-- PF_FLR (R456): FLR of the PF of port p. -/
  | pfFlr (p : Nat)
  /-- FLR_COMPLETE (R454): the FLR of function o is complete. -/
  | flrComplete (o : Nat)
  /-- VF_ENABLE_CLEAR (R446): VF Enable of port p is cleared (n = 0) or NumVFs lowered to n. -/
  | vfEnableClear (p : Nat) (n : Nat)
  /-- D3HOT_ENTRY (R451): function o enters D3hot. -/
  | d3hotEntry (o : Nat)
  /-- D0_RETURN (R451): function o returns to D0. -/
  | d0Return (o : Nat)
  /-- LTR_MESSAGE (R449): port p reviews its latency tolerance: `toBell` µs to the next Bell of a parish with a stream on the port, a payload write (`writing`) or a register channel's read (`regRead`) outstanding, 500 µs since the last message (`aged`). -/
  | ltrMessage (p : Nat) (toBell : Option Nat) (writing : Bool) (regRead : Bool) (aged : Bool)
  /-- ASPM_L1_ENTRY (R450): port p has had no TLP to send for L1IDLE µs. -/
  | aspmL1Entry (p : Nat)
  /-- L1_EXIT (R450): a TLP is due on port p. -/
  | l1Exit (p : Nat)
  /-- PTM_REFRESH (R452): the 10 ms refresh of port p's PTM context succeeds (ok) or not. -/
  | ptmRefresh (p : Nat) (ok : Bool)
  /-- PTM_LOST (R452): the PTM source of port p counts as lost. -/
  | ptmLost (p : Nat)
  /-- EPOCH_WRITE (R452): a write of FAB_PTM_EPOCH. -/
  | epochWrite (ag : Agent) (v : DWord)
  /-- UNSUPPORTED_REQUEST (R442): port p receives a request that uses an unsupported feature. -/
  | unsupportedRequest (p : Nat)
  /-- GET_VERSION (R461): request on connection i. -/
  | getVersion (i : Nat) (req : List Byte)
  /-- GET_CAPABILITIES (R461): request on connection i. -/
  | getCapabilities (i : Nat) (req : List Byte)
  /-- NEGOTIATE_ALGORITHMS (R461): request on connection i. -/
  | negotiateAlgorithms (i : Nat) (req : List Byte)
  /-- GET_DIGESTS (R461): request on connection i. -/
  | getDigests (i : Nat) (req : List Byte)
  /-- GET_CERTIFICATE (R461): request on connection i. -/
  | getCertificate (i : Nat) (req : List Byte)
  /-- CHALLENGE (R461): request on connection i. -/
  | challenge (i : Nat) (req : List Byte)
  /-- GET_MEASUREMENTS (R463): request on connection i. -/
  | getMeasurements (i : Nat) (req : List Byte)
  /-- SPDM_UNSUPPORTED (R461): a request on connection i that the responder does not support. -/
  | spdmUnsupported (i : Nat) (req : List Byte)
  /-- SET_ENDPOINT_ID (R466): a request with header byte `hdr`, operation and EID. -/
  | setEndpointId (hdr : Byte) (op : Nat) (eid : Byte)
  /-- GET_ENDPOINT_ID (R466): a request with header byte `hdr`. -/
  | getEndpointId (hdr : Byte)
  /-- GET_MCTP_VERSION_SUPPORT (R466): a request with header byte `hdr` for a message type. -/
  | getMctpVersionSupport (hdr : Byte) (type : Byte)
  /-- GET_MESSAGE_TYPE_SUPPORT (R466): a request with header byte `hdr`. -/
  | getMessageTypeSupport (hdr : Byte)
  /-- CLEAR_FAULTS (R467): with VIN at v (10 mV units) and hotspot, HBM and inlet at `temps` °C. -/
  | clearFaults (v : Nat) (temps : List Nat)
  /-- CAPABILITY (R467): a read. -/
  | capability
  /-- STATUS_BYTE (R467): a read. -/
  | statusByte
  /-- STATUS_WORD (R467): a read. -/
  | statusWord
  /-- STATUS_INPUT (R467): a read. -/
  | statusInputRead
  /-- STATUS_TEMPERATURE (R467): a read. -/
  | statusTemperature
  /-- STATUS_CML (R467): a read. -/
  | statusCmlRead
  /-- READ_VIN (R467): a read, the sensor's latest refresh being v (10 mV units). -/
  | readVin (v : Nat)
  /-- READ_IIN (R467): a read, the sensor's latest refresh being v mA. -/
  | readIin (v : Nat)
  /-- READ_PIN (R467): a read, the sensor's latest refresh being v (0.1 W units). -/
  | readPin (v : Nat)
  /-- READ_TEMPERATURE_1 (R467): a read, the die hotspot being at t °C. -/
  | readTemperature1 (t : Nat)
  /-- READ_TEMPERATURE_2 (R467): a read, the hottest HBM stack being at t °C. -/
  | readTemperature2 (t : Nat)
  /-- READ_TEMPERATURE_3 (R467): a read, the module inlet being at t °C. -/
  | readTemperature3 (t : Nat)
  /-- PMBUS_REVISION (R467): a read. -/
  | pmbusRevision
  /-- MFR_ID (R467): a read. -/
  | mfrId
  /-- MFR_MODEL (R467): a read. -/
  | mfrModel
  /-- UNSUPPORTED_COMMAND (R467): a command code that is not supported, or a write to a read-only one. -/
  | unsupportedCommand (code : Byte)
  /-- PEC_ERROR (R465): a transaction with a wrong PEC. -/
  | pecError
  /-- ALERT_RESPONSE (R465): the host's Alert Response read. -/
  | alertResponse
  /-- STANDBY_READY (R507): VIN at v (10 mV units), PERST# of PA (a), of PB (b) already released. -/
  | standbyReady (v : Nat) (a : Bool) (b : Bool)
  /-- UVLO_FALL (R507): VIN is at v (10 mV units). -/
  | uvloFall (v : Nat)
  /-- POWER_LOSS (R478): VIN is at v (10 mV units). -/
  | powerLoss (v : Nat)
  /-- LOWVIN_SET (R473): VIN, at v (10 mV units), has been below 10.8 V for 20 µs. -/
  | lowvinSet (v : Nat)
  /-- LOWVIN_CLEAR (R473): VIN, at v (10 mV units), has been at or above 11.2 V for 100 ms. -/
  | lowvinClear (v : Nat)
  /-- CCLK_SWITCH (R472): CCLK takes the frequency that is due. -/
  | cclkSwitch
  /-- OV_WARNING (R505): VIN is at v (10 mV units). -/
  | ovWarning (v : Nat)
  /-- SLEEP (R474): agent ag writes PWR_CTL with SLEEP 1 and FORCE_RS as given. -/
  | sleep (ag : Agent) (forceRs : Bool)
  /-- SLEEP_EXIT (R474): an access to BAR0, or another wake. -/
  | sleepExit
  /-- PWRFAIL (R476): PWR_WARN# low (pin), VIN at v with a mean over 100 ms (10 mV units). -/
  | pwrfail (pin : Bool) (v : Nat) (mean : Nat)
  /-- TEMP_WARN (R497): sensor k (1 hotspot, 2 HBM, 3 inlet) reads t °C. -/
  | tempWarn (k : Nat) (t : Nat)
  /-- THERM_CRIT (R496): sensor k (1 hotspot, 2 HBM) reads t °C. -/
  | thermCrit (k : Nat) (t : Nat)
  /-- CORE_RAIL_REMOVAL (R496): 1 ms after THERM_CRIT. -/
  | coreRailRemoval
  /-- GO (R484): PF p writes PWR_BOOT_CMD with OP 1 and VEC. -/
  | go (p : Nat) (vec : Nat)
  /-- BOOT_FETCH_DONE (R484): for the bank of PF p, with the bytes read or the failure. -/
  | bootFetchDone (p : Nat) (how : ReadEnd)
  /-- BOOT_CHECK_DONE (R484): for the bank of PF p. -/
  | bootCheckDone (p : Nat)
  /-- FIELD_ARMATURE_APPLY (R481): the boot ROM serves P0. -/
  | fieldArmatureApply
  /-- HBM_TRAINED (R481): channel q. -/
  | hbmTrained (q : Nat)
  /-- PARISH_CALIBRATED (R482): parish n. -/
  | parishCalibrated (n : Nat)
  /-- LARDER (R488): agent ag writes the test bank of PF p, naming parish n, with VEC. -/
  | larder (ag : Agent) (p : Nat) (n : Nat) (vec : Nat)
  /-- LOOM (R488): agent ag writes the test bank of PF p, naming parish n, with VEC. -/
  | loom (ag : Agent) (p : Nat) (n : Nat) (vec : Nat)
  /-- HBM_TEST (R488): agent ag writes the test bank of PF p, naming channel q, with VEC. -/
  | hbmTest (ag : Agent) (p : Nat) (q : Nat) (vec : Nat)
  /-- RETRAIN (R488): agent ag writes the test bank of PF p, naming channel q, with VEC. -/
  | retrain (ag : Agent) (p : Nat) (q : Nat) (vec : Nat)
  /-- TEST_DONE (R488): with the count of failing words and the first failing offset. -/
  | testDone (failing : Nat) (first : Nat)
  /-- INJECTED (R501): agent ag writes v to ERR_INJ. -/
  | injected (ag : Agent) (v : Word)
  /-- FW_STAGE (R499): agent ag writes RVE_FW_CMD with VEC. -/
  | fwStage (ag : Agent) (vec : Nat)
  /-- FW_STAGE_DONE (R502): with the bytes read, or the failure. -/
  | fwStageDone (how : ReadEnd)
  /-- SWITCH (R499): agent ag writes RVE_FW_CMD with VEC. -/
  | switch (ag : Agent) (vec : Nat)
  /-- ACK (R499): agent ag writes RVE_FW_CTL with ACK 1. -/
  | ack (ag : Agent)
  /-- FORCE (R499): agent ag writes RVE_FW_CMD with VEC. -/
  | force (ag : Agent) (vec : Nat)
  /-- PERST_RELEASE (R481): PERST# is released on PA (a), on PB (b). -/
  | perstRelease (a : Bool) (b : Bool)
  /-- CONFIG_SPACE_WRITE (R340): a write of function o's configuration space. -/
  | configSpaceWrite (o : Nat) (x : ConfigChange)
  /-- EDP_LINK_TRAINED (R232): port e's panel is plugged in, or its link training completes. -/
  | edpLinkTrained (e : Nat) (x : PanelEvent)
  /-- SMBUS_TIMEOUT (R465): a bus timeout ends a transaction in progress. -/
  | smbusTimeout
  deriving DecidableEq, Repr

end Sys2Proof
end

