-- ==== Sys2Proof/Decode.lean ====
section
/-!
DEFINITION. The command that a word of the opcode table spells. The table gives no row of this block any bits (every
row's `fields` is empty), so no word spells a command. -/

namespace Sys2Proof

/-- The command spelled by a word of the table: none, since the table numbers no bits of any row. -/
def decodeTableWord (_nbits _w : Nat) : Option Instr := none

end Sys2Proof
end

