-- ==== Sys2Proof/Config.lean ====
section
/-!
DEFINITION. What an implementation fixes (per die, per variant, straps, keys; key derivation, signing and certificates)
and the free values the spec leaves open. None has a body a proof could see. The published functions that the spec names
(SHA-384, HMAC, ECDSA verification, AES-GCM) are defined in Machine/Crypto.lean. -/

namespace Sys2Proof.Config

/-! ### Fixed at manufacture, by straps or by standards (log entry 4) -/

/-- `TOP_ID.VARIANT`, per variant (R2). -/
opaque topVariant : BitVec 4
/-- `TOP_ID.DIE_MINOR`, per die (R2). -/
opaque topDieMinor : BitVec 8
/-- `SEC_DEVSN`, the device serial number (R468). -/
opaque deviceSerial : DWord
/-- `SEC_OPKEY[k]`: bit 1 REVOKED, bit 0 FUSED, as fused (R464, R468). -/
opaque opKeyBits : BitVec 2 → BitVec 2
/-- The operator public key fused in slot k, x then y as a number of 768 bits (R464). -/
opaque opKey : BitVec 2 → BitVec 768
/-- Tridun's public keys: 0 boot firmware, 1 Loom microcode, 2 sealed patches, 3 Armature (R485, R168, R176). -/
opaque tridunKey : BitVec 2 → BitVec 768
/-- The straps SMB_A2 to SMB_A0 (R465). -/
opaque smbStrap : BitVec 3
/-- PROV_EN# sampled low (R461, R481). -/
opaque provEn : Bool
/-- The fault handler address that `RVE_VEC` holds at reset (R136): the boot ROM's. -/
opaque bootRomHandler : Word
/-- The boot ROM's bytes, by offset (R137). -/
opaque bootRom : Nat → Byte

/-- The ECDSA P-384 private key derived from a CDI (R459, R460). -/
opaque keyOf : BitVec 384 → BitVec 384
/-- SHA-384 of the public key of a private key. -/
opaque publicHash : BitVec 384 → BitVec 384
/-- ECDSA P-384 signature by a private key of a digest. -/
opaque ecdsaSign : BitVec 384 → BitVec 384 → List Byte
/-- The certificates of SPDM slot 0, from the Tridun intermediate to the alias certificate (R459 to R461): a function of the
alias public key's hash and of the boot ROM, firmware and patch measurements. -/
opaque certificates : List (BitVec 384) → List Byte
/-- The SHA-384 digest of the root certificate that the Tridun intermediate of R459 chains to. -/
opaque rootHash : BitVec 384
/-- DataTransferSize and MaxSPDMmsgSize of the SPDM responder, which the spec does not give (log entry 37). -/
opaque spdmSizes : BitVec 64
/-- The version words that MCTP Get MCTP Version Support reports for a message type (log entry 38). -/
opaque mctpVersion : Byte → Word
/-- The LINEAR11 word of the value num / den; exponent and rounding are the implementation's (R467, log entry 39). -/
opaque linear11 : Nat → Nat → BitVec 16
/-- The fused AES-256 key of sealed patches (R176). -/
opaque patchKey : BitVec 256
/-- The field microcode image's control words, and the hash of the image, in the boot ROM (R172). -/
opaque fieldUcWords : List (BitVec 256)
opaque fieldUcHash : BitVec 384
/-- The digest of the field armature's ROM image, and its VERSION (R90). -/
opaque fieldArmDigest : BitVec 384
opaque fieldArmVersion : BitVec 32
/-- The unique device secret, 48 bytes (R459). -/
opaque uds : List Byte

/-- The DETAIL of an error record whose contents the spec names without giving their places: a function of the source
block's code and of those contents (log entry 25). -/
opaque recordDetail : Nat → List Nat → DWord

/-- The function whose copies of banked registers a Reeve core reaches at an address of its IO space: core, address (R106; the
spec does not say, log entry 45). -/
opaque reeveView : Nat → Nat → Nat

/-- The converter of a bridge (R258), whose filters the spec gives by tolerances: the value that it makes, after so many halvings
and at a phase, of the voice samples of one channel, newest first (log entry 19). -/
opaque bridge : Nat → Nat → List Int → Int
/-- The product a × y of the DC blocker (R261) in its number format, which the spec does not give (log entry 19). -/
opaque dcDecay : Int → Int
/-- The 18 Hz high-pass of the mix bus (R262) in its number format: of its input, its two inputs before and its two outputs before
(log entry 19). -/
opaque subsonic : Int → Int → Int → Int → Int → Int

/-- The set of a pattern cache that a line goes to, modulo its number of sets (R163; the spec does not say, log entry 54). -/
opaque cacheSet : Nat → Nat

/-! ### Free values -/

/-- A value the spec leaves open, drawn afresh: applied to the counter `fresh` of State (log entry 14). -/
opaque freeValue : Nat → DWord

end Sys2Proof.Config
end

