-- ==== Sys2Proof/Machine/RegTable.lean ====
section
/-!
DEFINITION. The registers of BAR0, from the register tables of the spec's chapters (each register's rule is in
INVENTORY.md): names, banks, offsets, strides, widths, fields with their access types (R5) and reset values, and
the source block codes of R491. -/

namespace Sys2Proof.Machine

/-- A block, by the prefix of its registers, in the order of its source code (R491). -/
inductive Blk where
  | TOP | PWR | SEC | FAB | ERR | ARM | BEL | COT | TLY | LOM | RLF | PLN | POR | CHR | GRN | HAY | LRD | ARB | HBM | COM | CAR | CHS | PIC | CIB | TMR | LAN | TRD | RVE | SBD
  deriving DecidableEq, Repr

/-- Source block code (R491). -/
def Blk.code (b : Blk) : Nat := b.ctorIdx

/-- Access types (R5). -/
inductive Acc where
  | rw | ro | wo | w1c | w1s | rwl
  deriving DecidableEq, Repr

/-- Which copies a register has. `module`: one for the module. `perPf`: one per PF at the same offset of its view
(R500, R82). `perFn`: one per function at the same offset of its view (R345 to R347). `perPort`: one per port at
consecutive strides (R309). `perPortCot`: one per port and cottage, in the view of the port's PF (R239). `perCot`: one per context, in the view of the PF of its
cottage's port (R200).
`parish`, `cottage`: one per parish, per cottage (R12). -/
inductive Bank where
  | module | perPf | perFn | perPort | perPortCot | perCot | parish | cottage
  deriving DecidableEq, Repr

/-- One field of a register: bits `hi` to `lo`, access type, reset value. -/
structure FieldDesc where
  hi : Nat
  lo : Nat
  acc : Acc
  reset : Nat
  deriving DecidableEq, Repr

/-- One row of the register map. `base` is the BAR0 offset of its first copy, `bankStride` the distance of its
banks, and the register is an array of `n1` by `n2` at strides `s1` and `s2`; `width` is 32 or 64 bits. -/
structure RegDesc where
  blk : Blk
  bank : Bank
  base : Nat
  bankStride : Nat
  s1 : Nat
  n1 : Nat
  s2 : Nat
  n2 : Nat
  width : Nat
  fields : List FieldDesc
  deriving DecidableEq, Repr

/-- The registers of BAR0, under the manual's names. -/
inductive RegName where
  | TOP_ID | PWR_STAT | PWR_CTL | PWR_EVT | PWR_DROOP | PWR_TLIM
  | PWR_SENSE | PWR_CAL | PWR_HBMTR | PWR_TEST_CMD | PWR_TEST_STAT | PWR_TEST_RES
  | PWR_BOOT_FW | PWR_BOOT_FWLEN | PWR_BOOT_CMD | PWR_BOOT_PATCH | PWR_BOOT_PLEN | PWR_BOOT_STAT
  | ERR_STAT | ERR_MSEQ | ERR_CNT | ERR_FATAL | ERR_INJ | ARM_SRC
  | ARM_LEN | ARM_CMD | ARM_STAT | ARM_FAIL | ARM_MSTAT | ARM_PSTAT
  | ARM_PHASH | ARM_MHASH | LOM_STG_SRC | LOM_STG_LEN | LOM_STG_CMD | LOM_STG_STAT
  | CHR_TDM_CTL | CHR_TDM_STAT | CHR_TDM_FRAME | CHR_TDM_GAP | CHR_AMCLK | FAB_LINK
  | FAB_LTR | FAB_FLR | FAB_PTM | FAB_PTM_EPOCH | SEC_DEVSN | SEC_OPKEY
  | SEC_ALIAS | GRN_FREE | GRN_CNT_PAGEIN | GRN_CNT_EVICT | GRN_CNT_COW | GRN_FAIL
  | GRN_ARG0 | GRN_CMD | GRN_STAT | GRN_RESULT | GRN_OWN | HBM_STAT
  | HBM_SR_CTL | HBM_AGE | HBM_URG_STAT | HBM_CNT_DEAD | HBM_W | HBM_URG_THR
  | HBM_CNT_URG | HBM_CNT_CORR | HBM_CNT_UNC | HBM_CNT_SR | COM_REGION_BASE | COM_REGION_SIZE
  | COM_BAR2 | COM_EQ | COM_EQ_STAT | COM_RING_BASE | COM_RING_CFG | COM_RING_RET
  | COM_RING_PUB | COM_RING_STAT | COM_VMOD | POR_CTL | POR_LTR | POR_CNT_GAP
  | POR_CNT_OUTLATE | POR_HBM_HINT | POR_EDP_CTL | POR_EDP_STAT | POR_EDP_DST | POR_EDP_TIM
  | POR_EDP_FB | POR_EDP_BORDER | POR_EDP_DEFER | POR_EDP_SU | POR_EDP_AUX | POR_S1_CTL
  | POR_S1_STAT | PLN_CTL | PLN_CMD | PLN_BASE | PLN_PAL | PLN_RECT
  | PLN_PITCH | PLN_FALLBACK | PLN_STAT | LAN_CFG | LAN_IN | LAN_OUT
  | LAN_WAKE | LAN_SEC | LAN_BELL | LAN_UART | LAN_SPI | LAN_I2C
  | LAN_FAN | TRD_CTL | TRD_PCFG | TRD_DIV | TRD_CNT | TRD_CMD
  | TRD_STAT | TRD_FIFO | TRD_TXF | TRD_RXF | TRD_SHEAF | TRD_SKEIN
  | TRD_OWN | TRD_LUT | TMR_CTL | TMR_STAT | TMR_CNT | TMR_CMP
  | TMR_CAPR | TMR_CAPF | TMR_PAIR | TMR_OWN | RVE_CTL | RVE_STAT
  | RVE_EPC | RVE_EXC | RVE_VEC | RVE_PERF | RVE_IRQ | RVE_WIN
  | RVE_FW_SRC | RVE_FW_LEN | RVE_FW_CMD | RVE_FW_CTL | RVE_FW_STAT | SBD_CFG
  | SBD_STAT | SBD_CNT | BEL_CTL | BEL_PERIOD | BEL_COUNT | BEL_STAT
  | BEL_PACE | LOM_UC_VER | LOM_UC_STG | LOM_UC_PATCH | LOM_CTL | LOM_STAT
  | LOM_CNT_YIELD | LOM_PC_WAYS | RLF_LUM_CTL | RLF_CNT_SKIP | RLF_CNT_REFUSED | RLF_CNT_LBCORR
  | CHR_CTL | CHR_MIXPOS | CHR_CNT_LATE | CHR_CNT_CORR | CHR_RT | ARB_W
  | ARB_AGE | ARB_URG_THR | ARB_URG_STAT | ARB_CNT_URG | ARB_CNT_DEAD | ARB_CNT_AGED
  | ARB_TAGS | LRD_RET | LRD_RETSTAT | LRD_CNT_CONF | LRD_CNT_WAKE | LRD_CNT_CORR
  | LRD_ERR_POS | CAR_RC_SRC | CAR_RC_DST | CAR_RC_CNT | CAR_RC_CTL | CAR_CH_HEAD
  | CAR_CH_CUR | CAR_CH_SRC | CAR_CH_DST | CAR_CH_CNT | CAR_CH_CTL | CAR_CH_STAT
  | CAR_CH_RING | CAR_CH_DB | CAR_CH_OWN | CAR_STAT | CAR_CTL | CAR_ERR
  | CHS_N_STAT | CHS_N_DEAD | CHS_N_CNT | CHS_P_OWN | CHS_P_SRC | CHS_P_DST
  | CHS_P_PITCH | CHS_P_SPOS | CHS_P_DPOS | CHS_P_SIZE | CHS_P_END | CHS_P_COLOR
  | CHS_P_KEY | CHS_P_CLIP0 | CHS_P_CLIP1 | CHS_P_CTL | CHS_P_STAT | CHS_P_CFG
  | PIC_PEND | PIC_EN | PIC_TAKE | PIC_ACT | PIC_SET | PIC_LVL
  | PIC_TGT | PIC_MSIX | PIC_RR | PIC_VWIN | PIC_VANISHED | GRN_CMAP
  | GRN_CVRAM | GRN_CSTAT | GRN_CCNT | COT_CTL | COT_STATE | COT_BEAM
  | COT_BELL_OFS | COT_CNT_LATE | COT_CNT_BWAIT | COT_CNT_DHOLD | COT_CNT_LATEIN | COT_IN_TGT
  | COT_IN_VAL | COT_IN_STAT | TLY_STAT | TLY_HWM | COT_ARITH | COT_FAULT
  | COT_PERF | RLF_LSTAT | RLF_LCNT | RLF_FLASHCNT | COT_G | COT_SP
  | COT_PC | COT_FL | POR_S0_CTL | POR_S0_STAT | CHR_S_CTL | CHR_S_STAT
  | CHR_BUS | CHR_VSTAT | CHR_S_BLOCK | HAY_CMD | HAY_STAT | HAY_XADDR
  | HAY_XLEN | HAY_SLOTS | HAY_SFRAME
  deriving DecidableEq, Repr

/-- One register: its name, its bank (port, function, parish or cottage; 0 for the module's own) and its place in
its array (for a two-dimensional array, `n2` times the first index plus the second). -/
structure RegId where
  name : RegName
  bank : Nat
  idx : Nat
  deriving DecidableEq, Repr

/-- The order in which registers are listed: by map row, bank, place. -/
def RegId.lt (a b : RegId) : Bool :=
  a.name.ctorIdx < b.name.ctorIdx ||
    (a.name.ctorIdx == b.name.ctorIdx && (a.bank < b.bank || (a.bank == b.bank && a.idx < b.idx)))

/-- A field: the register it lies in and its bits. -/
structure Fld where
  reg : RegName
  hi : Nat
  lo : Nat
  deriving DecidableEq, Repr

/-- The register map, row by row. -/
def RegName.desc : RegName → RegDesc
  | .TOP_ID => ⟨.TOP, .module, 0x0, 0x0, 0x8, 1, 0x8, 1, 32, [⟨31, 16, .ro, 0x1000⟩, ⟨15, 12, .ro, 0⟩, ⟨11, 8, .ro, 0x1⟩, ⟨7, 0, .ro, 0⟩]⟩
  | .PWR_STAT => ⟨.PWR, .module, 0x100, 0x0, 0x8, 1, 0x8, 1, 32, [⟨5, 5, .ro, 0⟩, ⟨4, 4, .ro, 0⟩, ⟨3, 3, .ro, 1⟩, ⟨2, 2, .ro, 0⟩, ⟨1, 1, .w1c, 0⟩, ⟨0, 0, .ro, 0⟩]⟩
  | .PWR_CTL => ⟨.PWR, .module, 0x104, 0x0, 0x8, 1, 0x8, 1, 32, [⟨1, 1, .w1s, 0⟩, ⟨0, 0, .rw, 0⟩]⟩
  | .PWR_EVT => ⟨.PWR, .module, 0x108, 0x0, 0x4, 2, 0x8, 1, 32, [⟨31, 31, .rw, 0⟩, ⟨10, 0, .rw, 0⟩]⟩
  | .PWR_DROOP => ⟨.PWR, .module, 0x110, 0x0, 0x8, 1, 0x8, 1, 32, [⟨31, 16, .rw, 650⟩, ⟨5, 0, .rw, 15⟩]⟩
  | .PWR_TLIM => ⟨.PWR, .module, 0x114, 0x0, 0x8, 1, 0x8, 1, 32, [⟨15, 8, .rw, 95⟩, ⟨7, 0, .rw, 100⟩]⟩
  | .PWR_SENSE => ⟨.PWR, .module, 0x118, 0x0, 0x8, 1, 0x8, 1, 64, [⟨55, 48, .ro, 0⟩, ⟨47, 40, .ro, 0⟩, ⟨39, 32, .ro, 0⟩, ⟨31, 16, .ro, 0⟩, ⟨15, 0, .ro, 0⟩]⟩
  | .PWR_CAL => ⟨.PWR, .module, 0x120, 0x0, 0x8, 1, 0x8, 1, 32, [⟨31, 31, .ro, 0⟩, ⟨15, 0, .ro, 0⟩]⟩
  | .PWR_HBMTR => ⟨.PWR, .module, 0x128, 0x0, 0x8, 1, 0x8, 1, 64, [⟨63, 0, .ro, 0⟩]⟩
  | .PWR_TEST_CMD => ⟨.PWR, .perPf, 0x130, 0x0, 0x8, 1, 0x8, 1, 32, [⟨21, 16, .wo, 0⟩, ⟨15, 4, .wo, 0⟩, ⟨3, 0, .wo, 0⟩]⟩
  | .PWR_TEST_STAT => ⟨.PWR, .perPf, 0x134, 0x0, 0x8, 1, 0x8, 1, 32, [⟨31, 30, .ro, 0⟩, ⟨7, 0, .ro, 0⟩]⟩
  | .PWR_TEST_RES => ⟨.PWR, .perPf, 0x138, 0x0, 0x8, 1, 0x8, 1, 64, [⟨63, 0, .ro, 0⟩]⟩
  | .PWR_BOOT_FW => ⟨.PWR, .perPf, 0x140, 0x0, 0x8, 1, 0x8, 1, 64, [⟨63, 0, .rw, 0⟩]⟩
  | .PWR_BOOT_FWLEN => ⟨.PWR, .perPf, 0x148, 0x0, 0x8, 1, 0x8, 1, 32, [⟨31, 0, .rw, 0⟩]⟩
  | .PWR_BOOT_CMD => ⟨.PWR, .perPf, 0x14c, 0x0, 0x8, 1, 0x8, 1, 32, [⟨15, 4, .wo, 0⟩, ⟨3, 0, .wo, 0⟩]⟩
  | .PWR_BOOT_PATCH => ⟨.PWR, .perPf, 0x150, 0x0, 0x8, 1, 0x8, 1, 64, [⟨63, 0, .rw, 0⟩]⟩
  | .PWR_BOOT_PLEN => ⟨.PWR, .perPf, 0x158, 0x0, 0x8, 1, 0x8, 1, 32, [⟨31, 0, .rw, 0⟩]⟩
  | .PWR_BOOT_STAT => ⟨.PWR, .perPf, 0x15c, 0x0, 0x8, 1, 0x8, 1, 32, [⟨31, 30, .ro, 0⟩, ⟨23, 16, .ro, 0⟩, ⟨15, 8, .ro, 0⟩, ⟨7, 0, .ro, 0⟩]⟩
  | .ERR_STAT => ⟨.ERR, .module, 0x800, 0x0, 0x8, 1, 0x8, 1, 32, [⟨31, 31, .ro, 0⟩]⟩
  | .ERR_MSEQ => ⟨.ERR, .module, 0x804, 0x0, 0x8, 1, 0x8, 1, 32, [⟨31, 0, .ro, 0⟩]⟩
  | .ERR_CNT => ⟨.ERR, .module, 0x810, 0x0, 0x4, 3, 0x8, 1, 32, [⟨31, 0, .rw, 0⟩]⟩
  | .ERR_FATAL => ⟨.ERR, .module, 0x820, 0x0, 0x8, 4, 0x8, 1, 64, [⟨63, 0, .ro, 0⟩]⟩
  | .ERR_INJ => ⟨.ERR, .module, 0x840, 0x0, 0x8, 1, 0x8, 1, 32, [⟨31, 0, .wo, 0⟩]⟩
  | .ARM_SRC => ⟨.ARM, .perPf, 0x4000, 0x0, 0x8, 1, 0x8, 1, 64, [⟨63, 3, .rw, 0⟩, ⟨0, 0, .rw, 0⟩]⟩
  | .ARM_LEN => ⟨.ARM, .perPf, 0x4008, 0x0, 0x8, 1, 0x8, 1, 32, [⟨31, 0, .rw, 0⟩]⟩
  | .ARM_CMD => ⟨.ARM, .perPf, 0x400c, 0x0, 0x8, 1, 0x8, 1, 32, [⟨31, 16, .wo, 0⟩, ⟨15, 4, .wo, 0⟩, ⟨3, 0, .wo, 0⟩]⟩
  | .ARM_STAT => ⟨.ARM, .perPf, 0x4010, 0x0, 0x8, 1, 0x8, 1, 32, [⟨31, 30, .ro, 0⟩, ⟨7, 0, .ro, 0⟩]⟩
  | .ARM_FAIL => ⟨.ARM, .perPf, 0x4014, 0x0, 0x8, 1, 0x8, 1, 32, [⟨31, 16, .ro, 0xFFFF⟩, ⟨15, 0, .ro, 0⟩]⟩
  | .ARM_MSTAT => ⟨.ARM, .module, 0x4020, 0x0, 0x8, 1, 0x8, 1, 32, [⟨31, 28, .ro, 0⟩, ⟨26, 24, .ro, 0⟩, ⟨9, 0, .ro, 0⟩]⟩
  | .ARM_PSTAT => ⟨.ARM, .module, 0x4040, 0x0, 0x4, 16, 0x8, 1, 32, [⟨31, 28, .ro, 0⟩, ⟨27, 27, .ro, 1⟩, ⟨26, 24, .ro, 0⟩, ⟨11, 0, .ro, 0⟩]⟩
  | .ARM_PHASH => ⟨.ARM, .module, 0x4080, 0x0, 0x4, 16, 0x8, 1, 32, [⟨31, 0, .ro, 0⟩]⟩
  | .ARM_MHASH => ⟨.ARM, .module, 0x40c0, 0x0, 0x8, 1, 0x8, 1, 32, [⟨31, 0, .ro, 0⟩]⟩
  | .LOM_STG_SRC => ⟨.LOM, .perPf, 0x5000, 0x0, 0x8, 1, 0x8, 1, 64, [⟨63, 3, .rw, 0⟩, ⟨0, 0, .rw, 0⟩]⟩
  | .LOM_STG_LEN => ⟨.LOM, .perPf, 0x5008, 0x0, 0x8, 1, 0x8, 1, 32, [⟨31, 0, .rw, 0⟩]⟩
  | .LOM_STG_CMD => ⟨.LOM, .perPf, 0x500c, 0x0, 0x8, 1, 0x8, 1, 32, [⟨31, 16, .wo, 0⟩, ⟨15, 4, .wo, 0⟩, ⟨3, 0, .wo, 0⟩]⟩
  | .LOM_STG_STAT => ⟨.LOM, .perPf, 0x5010, 0x0, 0x8, 1, 0x8, 1, 32, [⟨31, 30, .ro, 0⟩, ⟨7, 0, .ro, 0⟩]⟩
  | .CHR_TDM_CTL => ⟨.CHR, .module, 0x6000, 0x0, 0x20, 2, 0x8, 1, 32, [⟨31, 31, .rw, 0⟩, ⟨20, 16, .rw, 2⟩, ⟨13, 12, .rw, 0⟩, ⟨9, 8, .rw, 0⟩, ⟨4, 4, .rw, 0⟩]⟩
  | .CHR_TDM_STAT => ⟨.CHR, .module, 0x6004, 0x0, 0x20, 2, 0x8, 1, 32, [⟨5, 5, .w1c, 0⟩, ⟨4, 4, .w1c, 0⟩, ⟨3, 3, .w1c, 0⟩, ⟨2, 2, .w1c, 0⟩, ⟨1, 1, .w1c, 0⟩, ⟨0, 0, .ro, 0⟩]⟩
  | .CHR_TDM_FRAME => ⟨.CHR, .module, 0x6008, 0x0, 0x20, 2, 0x8, 1, 64, [⟨63, 0, .ro, 0⟩]⟩
  | .CHR_TDM_GAP => ⟨.CHR, .module, 0x6010, 0x0, 0x20, 2, 0x8, 1, 32, [⟨31, 0, .rw, 0⟩]⟩
  | .CHR_AMCLK => ⟨.CHR, .module, 0x6040, 0x0, 0x8, 1, 0x8, 1, 32, [⟨31, 31, .ro, 0⟩, ⟨30, 30, .w1c, 0⟩, ⟨0, 0, .rw, 0⟩]⟩
  | .FAB_LINK => ⟨.FAB, .module, 0x8000, 0x0, 0x100, 2, 0x8, 1, 32, [⟨19, 16, .ro, 0⟩, ⟨12, 8, .ro, 0⟩, ⟨3, 3, .w1c, 0⟩, ⟨2, 2, .ro, 0⟩, ⟨1, 1, .ro, 0⟩, ⟨0, 0, .ro, 0⟩]⟩
  | .FAB_LTR => ⟨.FAB, .module, 0x8008, 0x0, 0x100, 2, 0x8, 1, 64, [⟨63, 48, .ro, 0⟩, ⟨47, 32, .rw, 0x14⟩, ⟨31, 16, .rw, 0x3E80⟩, ⟨15, 0, .rw, 0xA⟩]⟩
  | .FAB_FLR => ⟨.FAB, .module, 0x8010, 0x0, 0x100, 2, 0x8, 1, 32, [⟨23, 16, .ro, 0⟩, ⟨15, 0, .rw, 0⟩]⟩
  | .FAB_PTM => ⟨.FAB, .module, 0x8200, 0x0, 0x8, 1, 0x8, 1, 32, [⟨31, 31, .ro, 0⟩, ⟨0, 0, .rw, 0⟩]⟩
  | .FAB_PTM_EPOCH => ⟨.FAB, .module, 0x8208, 0x0, 0x8, 1, 0x8, 1, 64, [⟨63, 0, .rw, 0⟩]⟩
  | .SEC_DEVSN => ⟨.SEC, .module, 0x9000, 0x0, 0x8, 1, 0x8, 1, 64, [⟨63, 0, .ro, 0⟩]⟩
  | .SEC_OPKEY => ⟨.SEC, .module, 0x9010, 0x0, 0x4, 4, 0x8, 1, 32, [⟨1, 1, .ro, 0⟩, ⟨0, 0, .ro, 0⟩]⟩
  | .SEC_ALIAS => ⟨.SEC, .module, 0x9020, 0x0, 0x8, 1, 0x8, 1, 32, [⟨31, 0, .ro, 0⟩]⟩
  | .GRN_FREE => ⟨.GRN, .module, 0x100000, 0x0, 0x8, 1, 0x8, 1, 32, [⟨16, 0, .ro, 0⟩]⟩
  | .GRN_CNT_PAGEIN => ⟨.GRN, .module, 0x100010, 0x0, 0x8, 1, 0x8, 1, 64, [⟨63, 0, .rw, 0⟩]⟩
  | .GRN_CNT_EVICT => ⟨.GRN, .module, 0x100018, 0x0, 0x8, 1, 0x8, 1, 64, [⟨63, 0, .rw, 0⟩]⟩
  | .GRN_CNT_COW => ⟨.GRN, .module, 0x100020, 0x0, 0x8, 1, 0x8, 1, 64, [⟨63, 0, .rw, 0⟩]⟩
  | .GRN_FAIL => ⟨.GRN, .module, 0x100030, 0x0, 0x8, 1, 0x8, 1, 64, [⟨63, 48, .ro, 0⟩, ⟨47, 47, .ro, 0⟩, ⟨45, 0, .ro, 0⟩]⟩
  | .GRN_ARG0 => ⟨.GRN, .perPort, 0x100100, 0x40, 0x8, 1, 0x8, 1, 64, [⟨63, 0, .rw, 0⟩]⟩
  | .GRN_CMD => ⟨.GRN, .perPort, 0x100110, 0x40, 0x8, 1, 0x8, 1, 32, [⟨15, 4, .wo, 0⟩, ⟨3, 0, .wo, 0⟩]⟩
  | .GRN_STAT => ⟨.GRN, .perPort, 0x100114, 0x40, 0x8, 1, 0x8, 1, 32, [⟨31, 30, .ro, 0⟩, ⟨7, 0, .ro, 0⟩]⟩
  | .GRN_RESULT => ⟨.GRN, .perPort, 0x100120, 0x40, 0x8, 2, 0x8, 1, 64, [⟨63, 0, .ro, 0⟩]⟩
  | .GRN_OWN => ⟨.GRN, .module, 0x101000, 0x0, 0x8, 258, 0x8, 1, 64, [⟨63, 32, .ro, 0⟩, ⟨31, 0, .ro, 0⟩]⟩
  | .HBM_STAT => ⟨.HBM, .module, 0x104000, 0x0, 0x8, 1, 0x8, 1, 32, [⟨3, 0, .ro, 0⟩]⟩
  | .HBM_SR_CTL => ⟨.HBM, .module, 0x104004, 0x0, 0x8, 1, 0x8, 1, 32, [⟨19, 4, .rwl, 0x64⟩, ⟨3, 0, .rwl, 0⟩]⟩
  | .HBM_AGE => ⟨.HBM, .module, 0x104008, 0x0, 0x8, 1, 0x8, 1, 32, [⟨6, 0, .rwl, 0x10⟩]⟩
  | .HBM_URG_STAT => ⟨.HBM, .module, 0x10400c, 0x0, 0x8, 1, 0x8, 1, 32, [⟨31, 31, .rwl, 0⟩, ⟨20, 0, .w1c, 0⟩]⟩
  | .HBM_CNT_DEAD => ⟨.HBM, .module, 0x104010, 0x0, 0x8, 1, 0x8, 1, 32, [⟨31, 0, .rw, 0⟩]⟩
  | .HBM_W => ⟨.HBM, .module, 0x104040, 0x0, 0x4, 21, 0x8, 1, 32, [⟨7, 0, .rwl, 0⟩]⟩
  | .HBM_URG_THR => ⟨.HBM, .module, 0x1040a0, 0x0, 0x4, 21, 0x8, 1, 32, [⟨15, 0, .rwl, 0⟩]⟩
  | .HBM_CNT_URG => ⟨.HBM, .module, 0x104100, 0x0, 0x4, 21, 0x8, 1, 32, [⟨31, 0, .rw, 0⟩]⟩
  | .HBM_CNT_CORR => ⟨.HBM, .module, 0x104200, 0x0, 0x4, 64, 0x8, 1, 32, [⟨31, 0, .rw, 0⟩]⟩
  | .HBM_CNT_UNC => ⟨.HBM, .module, 0x104300, 0x0, 0x4, 64, 0x8, 1, 32, [⟨31, 0, .rw, 0⟩]⟩
  | .HBM_CNT_SR => ⟨.HBM, .module, 0x104400, 0x0, 0x4, 4, 0x8, 1, 32, [⟨31, 0, .rw, 0⟩]⟩
  | .COM_REGION_BASE => ⟨.COM, .perFn, 0x110000, 0x0, 0x8, 1, 0x8, 1, 64, [⟨45, 12, .rw, 0⟩, ⟨0, 0, .rw, 0⟩]⟩
  | .COM_REGION_SIZE => ⟨.COM, .perFn, 0x110008, 0x0, 0x8, 1, 0x8, 1, 32, [⟨12, 0, .rw, 0⟩]⟩
  | .COM_BAR2 => ⟨.COM, .perFn, 0x110010, 0x0, 0x8, 1, 0x8, 1, 32, [⟨31, 31, .rw, 0⟩, ⟨30, 30, .ro, 0⟩, ⟨14, 0, .rw, 0⟩]⟩
  | .COM_EQ => ⟨.COM, .perFn, 0x110018, 0x0, 0x8, 1, 0x8, 1, 32, [⟨31, 31, .rw, 0⟩, ⟨25, 16, .rw, 10⟩, ⟨12, 0, .rw, 0⟩]⟩
  | .COM_EQ_STAT => ⟨.COM, .perFn, 0x11001c, 0x0, 0x8, 1, 0x8, 1, 32, [⟨31, 0, .rw, 0⟩]⟩
  | .COM_RING_BASE => ⟨.COM, .perFn, 0x120000, 0x0, 0x20, 8192, 0x8, 1, 64, [⟨45, 12, .rw, 0⟩, ⟨0, 0, .rw, 0⟩]⟩
  | .COM_RING_CFG => ⟨.COM, .perFn, 0x120008, 0x0, 0x20, 8192, 0x8, 1, 32, [⟨31, 31, .rw, 0⟩, ⟨27, 16, .rw, 0⟩, ⟨15, 15, .rw, 0⟩, ⟨4, 0, .rw, 1⟩]⟩
  | .COM_RING_RET => ⟨.COM, .perFn, 0x12000c, 0x0, 0x20, 8192, 0x8, 1, 32, [⟨31, 0, .rw, 0⟩]⟩
  | .COM_RING_PUB => ⟨.COM, .perFn, 0x120010, 0x0, 0x20, 8192, 0x8, 1, 32, [⟨31, 0, .ro, 0⟩]⟩
  | .COM_RING_STAT => ⟨.COM, .perFn, 0x120014, 0x0, 0x20, 8192, 0x8, 1, 32, [⟨2, 2, .w1c, 0⟩, ⟨1, 1, .w1c, 0⟩, ⟨0, 0, .ro, 0⟩]⟩
  | .COM_VMOD => ⟨.COM, .perFn, 0x160000, 0x0, 0x4, 2048, 0x8, 1, 32, [⟨31, 31, .ro, 0⟩, ⟨23, 16, .rw, 0⟩, ⟨11, 0, .rw, 0⟩]⟩
  | .POR_CTL => ⟨.POR, .module, 0x200000, 0x0, 0x8, 1, 0x8, 1, 32, [⟨15, 0, .rwl, 0x7D0⟩]⟩
  | .POR_LTR => ⟨.POR, .module, 0x200008, 0x0, 0x8, 1, 0x8, 1, 64, [⟨47, 32, .rwl, 0x3E80⟩, ⟨31, 16, .rwl, 0x1F4⟩, ⟨15, 0, .rwl, 0xA⟩]⟩
  | .POR_CNT_GAP => ⟨.POR, .module, 0x200010, 0x0, 0x8, 1, 0x8, 1, 32, [⟨31, 0, .rw, 0⟩]⟩
  | .POR_CNT_OUTLATE => ⟨.POR, .module, 0x200014, 0x0, 0x8, 1, 0x8, 1, 32, [⟨31, 0, .rw, 0⟩]⟩
  | .POR_HBM_HINT => ⟨.POR, .module, 0x200018, 0x0, 0x8, 1, 0x8, 1, 64, [⟨63, 48, .ro, 0xFFFF⟩, ⟨47, 32, .ro, 0xFFFF⟩, ⟨31, 16, .ro, 0xFFFF⟩, ⟨15, 0, .ro, 0xFFFF⟩]⟩
  | .POR_EDP_CTL => ⟨.POR, .module, 0x201000, 0x0, 0x100, 2, 0x8, 1, 32, [⟨31, 20, .rw, 0⟩, ⟨8, 8, .rw, 0⟩, ⟨7, 6, .rw, 1⟩, ⟨5, 4, .rw, 2⟩, ⟨3, 2, .rw, 3⟩, ⟨1, 1, .rw, 1⟩, ⟨0, 0, .rw, 0⟩]⟩
  | .POR_EDP_STAT => ⟨.POR, .module, 0x201004, 0x0, 0x100, 2, 0x8, 1, 32, [⟨6, 6, .w1c, 0⟩, ⟨5, 5, .ro, 0⟩, ⟨4, 4, .ro, 0⟩, ⟨3, 3, .ro, 0⟩, ⟨2, 2, .w1c, 0⟩, ⟨1, 1, .w1c, 0⟩, ⟨0, 0, .ro, 0⟩]⟩
  | .POR_EDP_DST => ⟨.POR, .module, 0x201008, 0x0, 0x100, 2, 0x8, 1, 64, [⟨60, 48, .rw, 0⟩, ⟨44, 32, .rw, 0⟩, ⟨28, 16, .rw, 0⟩, ⟨12, 0, .rw, 0⟩]⟩
  | .POR_EDP_TIM => ⟨.POR, .module, 0x201010, 0x0, 0x100, 2, 0x4, 4, 32, [⟨31, 0, .rw, 0⟩]⟩
  | .POR_EDP_FB => ⟨.POR, .module, 0x201020, 0x0, 0x100, 2, 0x8, 1, 64, [⟨47, 12, .rw, 0⟩]⟩
  | .POR_EDP_BORDER => ⟨.POR, .module, 0x201028, 0x0, 0x100, 2, 0x8, 1, 32, [⟨23, 0, .rw, 0⟩]⟩
  | .POR_EDP_DEFER => ⟨.POR, .module, 0x20102c, 0x0, 0x100, 2, 0x8, 1, 32, [⟨31, 0, .rw, 0⟩]⟩
  | .POR_EDP_SU => ⟨.POR, .module, 0x201030, 0x0, 0x100, 2, 0x8, 1, 32, [⟨31, 0, .rw, 0⟩]⟩
  | .POR_EDP_AUX => ⟨.POR, .module, 0x201040, 0x0, 0x100, 2, 0x4, 8, 32, [⟨31, 0, .rw, 0⟩]⟩
  | .POR_S1_CTL => ⟨.POR, .perPortCot, 0x210000, 0x0, 0x10, 4096, 0x8, 1, 32, [⟨31, 16, .rw, 0⟩, ⟨15, 12, .rw, 0⟩, ⟨9, 8, .rw, 1⟩, ⟨7, 5, .rw, 0⟩, ⟨1, 1, .w1s, 0⟩, ⟨0, 0, .rw, 0⟩]⟩
  | .POR_S1_STAT => ⟨.POR, .perPortCot, 0x210004, 0x0, 0x10, 4096, 0x8, 1, 32, [⟨31, 16, .ro, 0⟩, ⟨3, 3, .w1c, 0⟩, ⟨2, 2, .w1c, 0⟩, ⟨1, 1, .w1c, 0⟩, ⟨0, 0, .ro, 0⟩]⟩
  | .PLN_CTL => ⟨.PLN, .perCot, 0x280000, 0x0, 0x40, 4096, 0x8, 1, 32, [⟨1, 1, .rw, 0⟩, ⟨0, 0, .rw, 0⟩]⟩
  | .PLN_CMD => ⟨.PLN, .perCot, 0x280004, 0x0, 0x40, 4096, 0x8, 1, 32, [⟨0, 0, .wo, 0⟩]⟩
  | .PLN_BASE => ⟨.PLN, .perCot, 0x280008, 0x0, 0x40, 4096, 0x8, 1, 64, [⟨47, 6, .rw, 0⟩]⟩
  | .PLN_PAL => ⟨.PLN, .perCot, 0x280010, 0x0, 0x40, 4096, 0x8, 1, 64, [⟨47, 10, .rw, 0⟩]⟩
  | .PLN_RECT => ⟨.PLN, .perCot, 0x280018, 0x0, 0x40, 4096, 0x8, 1, 64, [⟨58, 48, .rw, 0⟩, ⟨42, 32, .rw, 0⟩, ⟨26, 16, .rw, 0⟩, ⟨10, 0, .rw, 0⟩]⟩
  | .PLN_PITCH => ⟨.PLN, .perCot, 0x280020, 0x0, 0x40, 4096, 0x8, 1, 32, [⟨14, 6, .rw, 0⟩]⟩
  | .PLN_FALLBACK => ⟨.PLN, .perCot, 0x280024, 0x0, 0x40, 4096, 0x8, 1, 32, [⟨23, 0, .rw, 0⟩]⟩
  | .PLN_STAT => ⟨.PLN, .perCot, 0x280028, 0x0, 0x40, 4096, 0x8, 1, 32, [⟨31, 16, .ro, 0⟩, ⟨3, 3, .ro, 0⟩, ⟨2, 2, .ro, 0⟩, ⟨1, 1, .w1c, 0⟩, ⟨0, 0, .ro, 0⟩]⟩
  | .LAN_CFG => ⟨.LAN, .module, 0x300000, 0x0, 0x4, 48, 0x8, 1, 32, [⟨30, 28, .rw, 0⟩, ⟨27, 24, .rw, 0⟩, ⟨23, 20, .rw, 0⟩, ⟨15, 15, .rw, 0⟩, ⟨14, 14, .rw, 0⟩, ⟨11, 10, .rw, 1⟩, ⟨9, 9, .rw, 0⟩, ⟨8, 8, .rw, 0⟩, ⟨5, 4, .rw, 0⟩, ⟨3, 0, .rw, 0⟩]⟩
  | .LAN_IN => ⟨.LAN, .module, 0x300100, 0x0, 0x4, 3, 0x8, 1, 32, [⟨15, 0, .ro, 0⟩]⟩
  | .LAN_OUT => ⟨.LAN, .module, 0x300110, 0x0, 0x4, 3, 0x8, 1, 32, [⟨31, 16, .wo, 0⟩, ⟨15, 0, .rw, 0⟩]⟩
  | .LAN_WAKE => ⟨.LAN, .module, 0x300120, 0x0, 0x8, 1, 0x8, 1, 32, [⟨31, 31, .w1c, 0⟩, ⟨5, 0, .ro, 0⟩]⟩
  | .LAN_SEC => ⟨.LAN, .module, 0x300124, 0x0, 0x8, 1, 0x8, 1, 32, [⟨31, 31, .ro, 0⟩, ⟨1, 0, .rw, 0⟩]⟩
  | .LAN_BELL => ⟨.LAN, .module, 0x300128, 0x0, 0x8, 1, 0x8, 1, 32, [⟨15, 8, .rw, 1⟩, ⟨3, 0, .rw, 0⟩]⟩
  | .LAN_UART => ⟨.LAN, .module, 0x301000, 0x0, 0x40, 2, 0x4, 6, 32, [⟨31, 0, .rw, 0⟩]⟩
  | .LAN_SPI => ⟨.LAN, .module, 0x301100, 0x0, 0x40, 2, 0x4, 7, 32, [⟨31, 0, .rw, 0⟩]⟩
  | .LAN_I2C => ⟨.LAN, .module, 0x301200, 0x0, 0x40, 2, 0x4, 7, 32, [⟨31, 0, .rw, 0⟩]⟩
  | .LAN_FAN => ⟨.LAN, .module, 0x301300, 0x0, 0x10, 8, 0x4, 3, 32, [⟨31, 0, .rw, 0⟩]⟩
  | .TRD_CTL => ⟨.TRD, .module, 0x310000, 0x0, 0x2000, 8, 0x8, 1, 32, [⟨31, 31, .rw, 0⟩, ⟨29, 24, .rw, 0⟩, ⟨23, 12, .rw, 0⟩]⟩
  | .TRD_PCFG => ⟨.TRD, .module, 0x310004, 0x0, 0x2000, 8, 0x8, 1, 32, [⟨29, 24, .rw, 32⟩, ⟨21, 16, .rw, 32⟩, ⟨15, 15, .rw, 0⟩, ⟨14, 14, .rw, 0⟩, ⟨13, 13, .rw, 0⟩, ⟨12, 12, .rw, 0⟩, ⟨11, 0, .rw, 0⟩]⟩
  | .TRD_DIV => ⟨.TRD, .module, 0x310008, 0x0, 0x2000, 8, 0x8, 1, 32, [⟨23, 8, .rw, 1⟩, ⟨7, 0, .rw, 0⟩]⟩
  | .TRD_CNT => ⟨.TRD, .module, 0x31000c, 0x0, 0x2000, 8, 0x8, 1, 32, [⟨31, 16, .rw, 0⟩, ⟨15, 0, .ro, 0⟩]⟩
  | .TRD_CMD => ⟨.TRD, .module, 0x310010, 0x0, 0x2000, 8, 0x8, 1, 32, [⟨1, 1, .wo, 0⟩, ⟨0, 0, .wo, 0⟩]⟩
  | .TRD_STAT => ⟨.TRD, .module, 0x310014, 0x0, 0x2000, 8, 0x8, 1, 32, [⟨31, 26, .ro, 0⟩, ⟨25, 22, .ro, 0⟩, ⟨21, 18, .ro, 0⟩, ⟨17, 12, .ro, 0⟩, ⟨11, 6, .ro, 0⟩, ⟨5, 5, .w1c, 0⟩, ⟨4, 4, .w1c, 0⟩, ⟨3, 3, .w1c, 0⟩, ⟨2, 2, .w1c, 0⟩, ⟨1, 1, .ro, 0⟩, ⟨0, 0, .ro, 0⟩]⟩
  | .TRD_FIFO => ⟨.TRD, .module, 0x310018, 0x0, 0x2000, 8, 0x8, 1, 32, [⟨31, 31, .w1c, 0⟩, ⟨30, 30, .w1c, 0⟩, ⟨8, 8, .ro, 1⟩, ⟨7, 4, .ro, 0⟩, ⟨3, 0, .ro, 0⟩]⟩
  | .TRD_TXF => ⟨.TRD, .module, 0x31001c, 0x0, 0x2000, 8, 0x8, 1, 32, [⟨31, 0, .wo, 0⟩]⟩
  | .TRD_RXF => ⟨.TRD, .module, 0x310020, 0x0, 0x2000, 8, 0x8, 1, 32, [⟨31, 0, .ro, 0⟩]⟩
  | .TRD_SHEAF => ⟨.TRD, .module, 0x310024, 0x0, 0x2000, 8, 0x8, 1, 32, [⟨31, 0, .ro, 0⟩]⟩
  | .TRD_SKEIN => ⟨.TRD, .module, 0x310028, 0x0, 0x2000, 8, 0x8, 1, 32, [⟨31, 0, .ro, 0⟩]⟩
  | .TRD_OWN => ⟨.TRD, .module, 0x310030, 0x0, 0x2000, 8, 0x8, 1, 32, [⟨2, 0, .rw, 0⟩]⟩
  | .TRD_LUT => ⟨.TRD, .module, 0x311000, 0x0, 0x2000, 8, 0x4, 1024, 32, [⟨31, 0, .rw, 0⟩]⟩
  | .TMR_CTL => ⟨.TMR, .module, 0x320000, 0x0, 0x40, 16, 0x8, 1, 32, [⟨31, 28, .rw, 0⟩, ⟨27, 24, .rw, 0⟩, ⟨22, 20, .rw, 0⟩, ⟨19, 18, .rw, 0⟩, ⟨17, 17, .rw, 0⟩, ⟨16, 16, .rw, 0⟩, ⟨2, 2, .wo, 0⟩, ⟨1, 1, .wo, 0⟩, ⟨0, 0, .wo, 0⟩]⟩
  | .TMR_STAT => ⟨.TMR, .module, 0x320004, 0x0, 0x40, 16, 0x8, 1, 32, [⟨7, 7, .ro, 0⟩, ⟨6, 6, .ro, 0⟩, ⟨5, 5, .w1c, 0⟩, ⟨4, 4, .w1c, 0⟩, ⟨3, 3, .w1c, 0⟩, ⟨2, 2, .w1c, 0⟩, ⟨1, 1, .w1c, 0⟩, ⟨0, 0, .ro, 0⟩]⟩
  | .TMR_CNT => ⟨.TMR, .module, 0x320008, 0x0, 0x40, 16, 0x8, 1, 32, [⟨31, 0, .rw, 0⟩]⟩
  | .TMR_CMP => ⟨.TMR, .module, 0x32000c, 0x0, 0x40, 16, 0x8, 1, 32, [⟨31, 0, .rw, 0xFFFFFFFF⟩]⟩
  | .TMR_CAPR => ⟨.TMR, .module, 0x320010, 0x0, 0x40, 16, 0x8, 1, 32, [⟨31, 0, .ro, 0⟩]⟩
  | .TMR_CAPF => ⟨.TMR, .module, 0x320014, 0x0, 0x40, 16, 0x8, 1, 32, [⟨31, 0, .ro, 0⟩]⟩
  | .TMR_PAIR => ⟨.TMR, .module, 0x320400, 0x0, 0x8, 8, 0x8, 1, 64, [⟨63, 0, .ro, 0⟩]⟩
  | .TMR_OWN => ⟨.TMR, .module, 0x320500, 0x0, 0x4, 16, 0x8, 1, 32, [⟨2, 0, .rw, 0⟩]⟩
  | .RVE_CTL => ⟨.RVE, .module, 0x340000, 0x0, 0x1000, 4, 0x8, 1, 32, [⟨3, 3, .rw, 0⟩, ⟨2, 2, .rw, 1⟩, ⟨1, 1, .rw, 0⟩, ⟨0, 0, .rw, 0⟩]⟩
  | .RVE_STAT => ⟨.RVE, .module, 0x340004, 0x0, 0x1000, 4, 0x8, 1, 32, [⟨31, 16, .rw, 0⟩, ⟨0, 0, .ro, 0⟩]⟩
  | .RVE_EPC => ⟨.RVE, .module, 0x340008, 0x0, 0x1000, 4, 0x8, 1, 32, [⟨31, 0, .rw, 0⟩]⟩
  | .RVE_EXC => ⟨.RVE, .module, 0x34000c, 0x0, 0x1000, 4, 0x8, 1, 32, [⟨31, 24, .rw, 0⟩, ⟨8, 8, .rw, 0⟩, ⟨7, 0, .rw, 0⟩]⟩
  | .RVE_VEC => ⟨.RVE, .module, 0x340010, 0x0, 0x1000, 4, 0x8, 1, 32, [⟨31, 2, .rw, 0⟩]⟩
  | .RVE_PERF => ⟨.RVE, .module, 0x340020, 0x0, 0x1000, 4, 0x8, 1, 64, [⟨63, 32, .rw, 0⟩, ⟨31, 0, .rw, 0⟩]⟩
  | .RVE_IRQ => ⟨.RVE, .module, 0x340030, 0x0, 0x1000, 4, 0x8, 1, 32, [⟨15, 0, .w1c, 0⟩]⟩
  | .RVE_WIN => ⟨.RVE, .module, 0x340100, 0x0, 0x1000, 4, 0x8, 16, 64, [⟨47, 20, .rw, 0⟩, ⟨0, 0, .rw, 0⟩]⟩
  | .RVE_FW_SRC => ⟨.RVE, .module, 0x348000, 0x0, 0x8, 1, 0x8, 1, 64, [⟨63, 3, .rw, 0⟩, ⟨0, 0, .rw, 0⟩]⟩
  | .RVE_FW_LEN => ⟨.RVE, .module, 0x348008, 0x0, 0x8, 1, 0x8, 1, 32, [⟨31, 0, .rw, 0⟩]⟩
  | .RVE_FW_CMD => ⟨.RVE, .module, 0x34800c, 0x0, 0x8, 1, 0x8, 1, 32, [⟨15, 4, .wo, 0⟩, ⟨3, 0, .wo, 0⟩]⟩
  | .RVE_FW_CTL => ⟨.RVE, .module, 0x348010, 0x0, 0x8, 1, 0x8, 1, 32, [⟨2, 2, .ro, 0⟩, ⟨1, 1, .w1s, 0⟩, ⟨0, 0, .ro, 0⟩]⟩
  | .RVE_FW_STAT => ⟨.RVE, .module, 0x348014, 0x0, 0x8, 1, 0x8, 1, 32, [⟨31, 30, .ro, 0⟩, ⟨7, 0, .ro, 0⟩]⟩
  | .SBD_CFG => ⟨.SBD, .module, 0x360000, 0x0, 0x8, 1, 0x8, 1, 32, [⟨22, 16, .ro, 0⟩, ⟨8, 8, .ro, 0⟩, ⟨7, 0, .ro, 0⟩]⟩
  | .SBD_STAT => ⟨.SBD, .module, 0x360004, 0x0, 0x8, 1, 0x8, 1, 32, [⟨2, 2, .w1c, 0⟩, ⟨1, 1, .w1c, 0⟩, ⟨0, 0, .w1c, 0⟩]⟩
  | .SBD_CNT => ⟨.SBD, .module, 0x360008, 0x0, 0x8, 1, 0x8, 1, 32, [⟨31, 0, .rw, 0⟩]⟩
  | .BEL_CTL => ⟨.BEL, .parish, 0x1001000, 0x200000, 0x8, 1, 0x8, 1, 32, [⟨7, 6, .rwl, 0⟩, ⟨2, 1, .rw, 0⟩, ⟨0, 0, .ro, 0⟩]⟩
  | .BEL_PERIOD => ⟨.BEL, .parish, 0x1001008, 0x200000, 0x8, 1, 0x8, 1, 64, [⟨63, 32, .rw, 0⟩, ⟨31, 0, .rw, 0⟩]⟩
  | .BEL_COUNT => ⟨.BEL, .parish, 0x1001010, 0x200000, 0x8, 1, 0x8, 1, 64, [⟨63, 0, .ro, 0⟩]⟩
  | .BEL_STAT => ⟨.BEL, .parish, 0x1001018, 0x200000, 0x8, 1, 0x8, 1, 32, [⟨2, 2, .w1c, 0⟩, ⟨1, 1, .ro, 0⟩, ⟨0, 0, .w1c, 0⟩]⟩
  | .BEL_PACE => ⟨.BEL, .parish, 0x100101c, 0x200000, 0x8, 1, 0x8, 1, 32, [⟨7, 0, .rwl, 0⟩]⟩
  | .LOM_UC_VER => ⟨.LOM, .parish, 0x1002000, 0x200000, 0x8, 1, 0x8, 1, 64, [⟨63, 32, .ro, 0⟩, ⟨31, 0, .ro, 0⟩]⟩
  | .LOM_UC_STG => ⟨.LOM, .parish, 0x1002008, 0x200000, 0x8, 1, 0x8, 1, 64, [⟨63, 32, .ro, 0⟩, ⟨31, 0, .ro, 0⟩]⟩
  | .LOM_UC_PATCH => ⟨.LOM, .parish, 0x1002010, 0x200000, 0x8, 1, 0x8, 1, 32, [⟨15, 0, .ro, 0⟩]⟩
  | .LOM_CTL => ⟨.LOM, .parish, 0x1002014, 0x200000, 0x8, 1, 0x8, 1, 32, [⟨15, 8, .rwl, 0x10⟩, ⟨0, 0, .rwl, 0⟩]⟩
  | .LOM_STAT => ⟨.LOM, .parish, 0x1002020, 0x200000, 0x4, 4, 0x8, 1, 32, [⟨31, 31, .ro, 0⟩, ⟨26, 24, .ro, 0⟩, ⟨23, 16, .ro, 0⟩, ⟨8, 8, .ro, 0⟩, ⟨7, 0, .ro, 0⟩]⟩
  | .LOM_CNT_YIELD => ⟨.LOM, .parish, 0x1002030, 0x200000, 0x4, 4, 0x8, 1, 32, [⟨31, 0, .rw, 0⟩]⟩
  | .LOM_PC_WAYS => ⟨.LOM, .parish, 0x1002040, 0x200000, 0x8, 1, 0x8, 1, 64, [⟨63, 0, .ro, 0⟩]⟩
  | .RLF_LUM_CTL => ⟨.RLF, .parish, 0x1002100, 0x200000, 0x8, 1, 0x8, 1, 32, [⟨25, 16, .rwl, 0x66⟩, ⟨6, 0, .rwl, 0x10⟩]⟩
  | .RLF_CNT_SKIP => ⟨.RLF, .parish, 0x1002108, 0x200000, 0x8, 1, 0x8, 1, 64, [⟨63, 0, .rw, 0⟩]⟩
  | .RLF_CNT_REFUSED => ⟨.RLF, .parish, 0x1002110, 0x200000, 0x8, 1, 0x8, 1, 32, [⟨31, 0, .rw, 0⟩]⟩
  | .RLF_CNT_LBCORR => ⟨.RLF, .parish, 0x1002114, 0x200000, 0x8, 1, 0x8, 1, 32, [⟨31, 0, .rw, 0⟩]⟩
  | .CHR_CTL => ⟨.CHR, .parish, 0x1003000, 0x200000, 0x8, 1, 0x8, 1, 32, [⟨3, 0, .rwl, 2⟩]⟩
  | .CHR_MIXPOS => ⟨.CHR, .parish, 0x1003008, 0x200000, 0x8, 1, 0x8, 1, 64, [⟨63, 0, .ro, 0⟩]⟩
  | .CHR_CNT_LATE => ⟨.CHR, .parish, 0x1003010, 0x200000, 0x8, 1, 0x8, 1, 32, [⟨31, 0, .rw, 0⟩]⟩
  | .CHR_CNT_CORR => ⟨.CHR, .parish, 0x1003014, 0x200000, 0x8, 1, 0x8, 1, 32, [⟨31, 0, .rw, 0⟩]⟩
  | .CHR_RT => ⟨.CHR, .parish, 0x1004000, 0x200000, 0x10, 256, 0x4, 4, 32, [⟨31, 31, .ro, 0⟩, ⟨30, 30, .ro, 0⟩, ⟨28, 16, .rw, 4096⟩, ⟨7, 0, .rw, 0⟩]⟩
  | .ARB_W => ⟨.ARB, .parish, 0x1006000, 0x200000, 0x8, 1, 0x8, 1, 64, [⟨47, 40, .rwl, 0⟩, ⟨39, 32, .rwl, 0⟩, ⟨31, 24, .rwl, 0⟩, ⟨23, 16, .rwl, 0⟩, ⟨15, 8, .rwl, 0⟩, ⟨7, 0, .rwl, 0⟩]⟩
  | .ARB_AGE => ⟨.ARB, .parish, 0x1006008, 0x200000, 0x8, 1, 0x8, 1, 32, [⟨6, 0, .rwl, 0⟩]⟩
  | .ARB_URG_THR => ⟨.ARB, .parish, 0x1006010, 0x200000, 0x4, 6, 0x8, 1, 32, [⟨15, 0, .rwl, 0⟩]⟩
  | .ARB_URG_STAT => ⟨.ARB, .parish, 0x1006028, 0x200000, 0x8, 1, 0x8, 1, 32, [⟨8, 8, .rwl, 0⟩, ⟨5, 0, .w1c, 0⟩]⟩
  | .ARB_CNT_URG => ⟨.ARB, .parish, 0x1006030, 0x200000, 0x4, 6, 0x8, 1, 32, [⟨31, 0, .rw, 0⟩]⟩
  | .ARB_CNT_DEAD => ⟨.ARB, .parish, 0x1006048, 0x200000, 0x8, 1, 0x8, 1, 32, [⟨31, 0, .rw, 0⟩]⟩
  | .ARB_CNT_AGED => ⟨.ARB, .parish, 0x100604c, 0x200000, 0x8, 1, 0x8, 1, 32, [⟨31, 0, .rw, 0⟩]⟩
  | .ARB_TAGS => ⟨.ARB, .parish, 0x1006050, 0x200000, 0x8, 1, 0x8, 1, 32, [⟨28, 16, .rw, 0⟩, ⟨12, 0, .ro, 0⟩]⟩
  | .LRD_RET => ⟨.LRD, .parish, 0x1006100, 0x200000, 0x8, 1, 0x8, 1, 64, [⟨63, 0, .rwl, 0⟩]⟩
  | .LRD_RETSTAT => ⟨.LRD, .parish, 0x1006108, 0x200000, 0x8, 1, 0x8, 1, 64, [⟨63, 0, .ro, 0⟩]⟩
  | .LRD_CNT_CONF => ⟨.LRD, .parish, 0x1006110, 0x200000, 0x8, 1, 0x8, 1, 32, [⟨31, 0, .rw, 0⟩]⟩
  | .LRD_CNT_WAKE => ⟨.LRD, .parish, 0x1006114, 0x200000, 0x8, 1, 0x8, 1, 32, [⟨31, 0, .rw, 0⟩]⟩
  | .LRD_CNT_CORR => ⟨.LRD, .parish, 0x1006118, 0x200000, 0x8, 1, 0x8, 1, 32, [⟨31, 0, .rw, 0⟩]⟩
  | .LRD_ERR_POS => ⟨.LRD, .parish, 0x1006120, 0x200000, 0x8, 1, 0x8, 1, 64, [⟨31, 31, .ro, 0⟩, ⟨19, 14, .ro, 0⟩, ⟨13, 0, .ro, 0⟩]⟩
  | .CAR_RC_SRC => ⟨.CAR, .parish, 0x1007000, 0x200000, 0x20, 16, 0x8, 1, 64, [⟨63, 0, .ro, 0⟩]⟩
  | .CAR_RC_DST => ⟨.CAR, .parish, 0x1007008, 0x200000, 0x20, 16, 0x8, 1, 64, [⟨63, 0, .ro, 0⟩]⟩
  | .CAR_RC_CNT => ⟨.CAR, .parish, 0x1007010, 0x200000, 0x20, 16, 0x8, 1, 32, [⟨23, 0, .ro, 0⟩]⟩
  | .CAR_RC_CTL => ⟨.CAR, .parish, 0x1007014, 0x200000, 0x20, 16, 0x8, 1, 32, [⟨31, 29, .ro, 0⟩, ⟨19, 16, .ro, 0⟩, ⟨15, 4, .ro, 0⟩, ⟨1, 1, .wo, 0⟩, ⟨0, 0, .rw, 0⟩]⟩
  | .CAR_CH_HEAD => ⟨.CAR, .parish, 0x1007200, 0x200000, 0x40, 8, 0x8, 1, 64, [⟨63, 0, .rw, 0⟩]⟩
  | .CAR_CH_CUR => ⟨.CAR, .parish, 0x1007208, 0x200000, 0x40, 8, 0x8, 1, 64, [⟨63, 0, .ro, 0⟩]⟩
  | .CAR_CH_SRC => ⟨.CAR, .parish, 0x1007210, 0x200000, 0x40, 8, 0x8, 1, 64, [⟨63, 0, .ro, 0⟩]⟩
  | .CAR_CH_DST => ⟨.CAR, .parish, 0x1007218, 0x200000, 0x40, 8, 0x8, 1, 64, [⟨63, 0, .ro, 0⟩]⟩
  | .CAR_CH_CNT => ⟨.CAR, .parish, 0x1007220, 0x200000, 0x40, 8, 0x8, 1, 32, [⟨31, 0, .ro, 0⟩]⟩
  | .CAR_CH_CTL => ⟨.CAR, .parish, 0x1007224, 0x200000, 0x40, 8, 0x8, 1, 32, [⟨2, 2, .wo, 0⟩, ⟨1, 1, .rw, 0⟩, ⟨0, 0, .wo, 0⟩]⟩
  | .CAR_CH_STAT => ⟨.CAR, .parish, 0x1007228, 0x200000, 0x40, 8, 0x8, 1, 32, [⟨15, 8, .ro, 0⟩, ⟨3, 3, .ro, 0⟩, ⟨2, 0, .ro, 0⟩]⟩
  | .CAR_CH_RING => ⟨.CAR, .parish, 0x100722c, 0x200000, 0x40, 8, 0x8, 1, 32, [⟨12, 0, .rw, 0⟩]⟩
  | .CAR_CH_DB => ⟨.CAR, .parish, 0x1007230, 0x200000, 0x40, 8, 0x8, 1, 32, [⟨31, 0, .wo, 0⟩]⟩
  | .CAR_CH_OWN => ⟨.CAR, .parish, 0x1007400, 0x200000, 0x4, 8, 0x8, 1, 32, [⟨8, 0, .rw, 0⟩]⟩
  | .CAR_STAT => ⟨.CAR, .parish, 0x1007500, 0x200000, 0x8, 1, 0x8, 1, 32, [⟨15, 8, .ro, 0⟩, ⟨0, 0, .ro, 0⟩]⟩
  | .CAR_CTL => ⟨.CAR, .parish, 0x1007504, 0x200000, 0x8, 1, 0x8, 1, 32, [⟨0, 0, .wo, 0⟩]⟩
  | .CAR_ERR => ⟨.CAR, .parish, 0x1007508, 0x200000, 0x8, 1, 0x8, 1, 64, [⟨63, 60, .ro, 0⟩, ⟨59, 56, .ro, 0⟩, ⟨55, 0, .ro, 0⟩]⟩
  | .CHS_N_STAT => ⟨.CHS, .parish, 0x1008000, 0x200000, 0x10, 6, 0x8, 1, 32, [⟨31, 29, .ro, 0⟩, ⟨11, 0, .ro, 0⟩]⟩
  | .CHS_N_DEAD => ⟨.CHS, .parish, 0x1008004, 0x200000, 0x10, 6, 0x8, 1, 32, [⟨7, 0, .rwl, 0⟩]⟩
  | .CHS_N_CNT => ⟨.CHS, .parish, 0x1008008, 0x200000, 0x10, 6, 0x8, 1, 32, [⟨31, 0, .rw, 0⟩]⟩
  | .CHS_P_OWN => ⟨.CHS, .parish, 0x1008080, 0x200000, 0x4, 2, 0x8, 1, 32, [⟨9, 9, .rw, 0⟩, ⟨8, 8, .rw, 0⟩]⟩
  | .CHS_P_SRC => ⟨.CHS, .parish, 0x1008100, 0x200000, 0x80, 2, 0x8, 1, 64, [⟨63, 0, .rw, 0⟩]⟩
  | .CHS_P_DST => ⟨.CHS, .parish, 0x1008108, 0x200000, 0x80, 2, 0x8, 1, 64, [⟨63, 0, .rw, 0⟩]⟩
  | .CHS_P_PITCH => ⟨.CHS, .parish, 0x1008110, 0x200000, 0x80, 2, 0x8, 1, 32, [⟨31, 16, .rw, 0⟩, ⟨15, 0, .rw, 0⟩]⟩
  | .CHS_P_SPOS => ⟨.CHS, .parish, 0x1008114, 0x200000, 0x80, 2, 0x8, 1, 32, [⟨26, 16, .rw, 0⟩, ⟨10, 0, .rw, 0⟩]⟩
  | .CHS_P_DPOS => ⟨.CHS, .parish, 0x1008118, 0x200000, 0x80, 2, 0x8, 1, 32, [⟨26, 16, .rw, 0⟩, ⟨10, 0, .rw, 0⟩]⟩
  | .CHS_P_SIZE => ⟨.CHS, .parish, 0x100811c, 0x200000, 0x80, 2, 0x8, 1, 32, [⟨26, 16, .rw, 0⟩, ⟨10, 0, .rw, 0⟩]⟩
  | .CHS_P_END => ⟨.CHS, .parish, 0x1008120, 0x200000, 0x80, 2, 0x8, 1, 32, [⟨26, 16, .rw, 0⟩, ⟨10, 0, .rw, 0⟩]⟩
  | .CHS_P_COLOR => ⟨.CHS, .parish, 0x1008124, 0x200000, 0x80, 2, 0x8, 1, 32, [⟨31, 0, .rw, 0⟩]⟩
  | .CHS_P_KEY => ⟨.CHS, .parish, 0x1008128, 0x200000, 0x80, 2, 0x8, 1, 32, [⟨31, 0, .rw, 0⟩]⟩
  | .CHS_P_CLIP0 => ⟨.CHS, .parish, 0x1008130, 0x200000, 0x80, 2, 0x8, 4, 32, [⟨31, 31, .rw, 0⟩, ⟨30, 30, .rw, 0⟩, ⟨26, 16, .rw, 0⟩, ⟨10, 0, .rw, 0⟩]⟩
  | .CHS_P_CLIP1 => ⟨.CHS, .parish, 0x1008134, 0x200000, 0x80, 2, 0x8, 4, 32, [⟨26, 16, .rw, 0⟩, ⟨10, 0, .rw, 0⟩]⟩
  | .CHS_P_CTL => ⟨.CHS, .parish, 0x1008150, 0x200000, 0x80, 2, 0x8, 1, 32, [⟨15, 12, .rw, 0⟩, ⟨11, 9, .rw, 0⟩, ⟨8, 8, .rw, 0⟩, ⟨6, 6, .rw, 0⟩, ⟨5, 5, .rw, 0⟩, ⟨2, 1, .rw, 0⟩, ⟨0, 0, .wo, 0⟩]⟩
  | .CHS_P_STAT => ⟨.CHS, .parish, 0x1008154, 0x200000, 0x80, 2, 0x8, 1, 32, [⟨31, 29, .ro, 0⟩, ⟨7, 0, .ro, 0⟩]⟩
  | .CHS_P_CFG => ⟨.CHS, .parish, 0x1008158, 0x200000, 0x80, 2, 0x8, 1, 32, [⟨31, 20, .rw, 0⟩, ⟨7, 0, .rw, 0⟩]⟩
  | .PIC_PEND => ⟨.PIC, .parish, 0x1009000, 0x200000, 0x4, 16, 0x8, 1, 32, [⟨31, 0, .ro, 0⟩]⟩
  | .PIC_EN => ⟨.PIC, .parish, 0x1009040, 0x200000, 0x4, 16, 0x8, 1, 32, [⟨31, 0, .rw, 0⟩]⟩
  | .PIC_TAKE => ⟨.PIC, .parish, 0x1009080, 0x200000, 0x4, 16, 0x8, 1, 32, [⟨31, 0, .ro, 0⟩]⟩
  | .PIC_ACT => ⟨.PIC, .parish, 0x10090c0, 0x200000, 0x4, 16, 0x8, 1, 32, [⟨31, 0, .w1c, 0⟩]⟩
  | .PIC_SET => ⟨.PIC, .parish, 0x1009100, 0x200000, 0x4, 16, 0x8, 1, 32, [⟨31, 0, .w1s, 0⟩]⟩
  | .PIC_LVL => ⟨.PIC, .parish, 0x1009140, 0x200000, 0x4, 16, 0x8, 1, 32, [⟨31, 0, .ro, 0⟩]⟩
  | .PIC_TGT => ⟨.PIC, .parish, 0x1009200, 0x200000, 0x4, 128, 0x8, 1, 32, [⟨31, 0, .rw, 0⟩]⟩
  | .PIC_MSIX => ⟨.PIC, .parish, 0x1009400, 0x200000, 0x4, 4, 0x8, 1, 32, [⟨31, 31, .rw, 0⟩, ⟨16, 16, .rw, 0⟩, ⟨10, 0, .rw, 0⟩]⟩
  | .PIC_RR => ⟨.PIC, .parish, 0x1009410, 0x200000, 0x8, 1, 0x8, 1, 32, [⟨2, 0, .ro, 7⟩]⟩
  | .PIC_VWIN => ⟨.PIC, .parish, 0x1009414, 0x200000, 0x8, 1, 0x8, 1, 32, [⟨15, 0, .rwl, 64⟩]⟩
  | .PIC_VANISHED => ⟨.PIC, .parish, 0x1009418, 0x200000, 0x8, 1, 0x8, 1, 32, [⟨31, 0, .rw, 0⟩]⟩
  | .GRN_CMAP => ⟨.GRN, .parish, 0x1100000, 0x200000, 0x1000, 256, 0x8, 256, 64, [⟨61, 36, .rw, 0⟩, ⟨35, 20, .ro, 0⟩, ⟨2, 2, .ro, 0⟩, ⟨1, 0, .rw, 0⟩]⟩
  | .GRN_CVRAM => ⟨.GRN, .parish, 0x1100800, 0x200000, 0x1000, 256, 0x8, 1, 64, [⟨35, 20, .ro, 0⟩, ⟨2, 2, .ro, 0⟩]⟩
  | .GRN_CSTAT => ⟨.GRN, .parish, 0x1100808, 0x200000, 0x1000, 256, 0x8, 1, 32, [⟨31, 24, .ro, 0⟩, ⟨3, 3, .ro, 0⟩, ⟨2, 2, .w1c, 0⟩, ⟨1, 1, .w1c, 0⟩, ⟨0, 0, .w1c, 0⟩]⟩
  | .GRN_CCNT => ⟨.GRN, .parish, 0x110080c, 0x200000, 0x1000, 256, 0x8, 1, 32, [⟨31, 16, .rw, 0⟩, ⟨15, 0, .rw, 0⟩]⟩
  | .COT_CTL => ⟨.COT, .cottage, 0x3000000, 0x1000, 0x8, 1, 0x8, 1, 32, [⟨4, 4, .rwl, 0⟩, ⟨2, 2, .rw, 0⟩, ⟨1, 1, .wo, 0⟩, ⟨0, 0, .rw, 0⟩]⟩
  | .COT_STATE => ⟨.COT, .cottage, 0x3000004, 0x1000, 0x8, 1, 0x8, 1, 32, [⟨3, 0, .ro, 0⟩]⟩
  | .COT_BEAM => ⟨.COT, .cottage, 0x3000008, 0x1000, 0x8, 1, 0x8, 1, 64, [⟨63, 32, .ro, 0⟩, ⟨22, 22, .ro, 0⟩, ⟨21, 12, .ro, 0⟩, ⟨11, 0, .ro, 0⟩]⟩
  | .COT_BELL_OFS => ⟨.COT, .cottage, 0x3000010, 0x1000, 0x8, 1, 0x8, 1, 64, [⟨63, 0, .ro, 0⟩]⟩
  | .COT_CNT_LATE => ⟨.COT, .cottage, 0x3000018, 0x1000, 0x8, 1, 0x8, 1, 32, [⟨31, 0, .rw, 0⟩]⟩
  | .COT_CNT_BWAIT => ⟨.COT, .cottage, 0x300001c, 0x1000, 0x8, 1, 0x8, 1, 32, [⟨31, 0, .rw, 0⟩]⟩
  | .COT_CNT_DHOLD => ⟨.COT, .cottage, 0x3000020, 0x1000, 0x8, 1, 0x8, 1, 32, [⟨31, 16, .rw, 0⟩, ⟨15, 0, .rw, 0⟩]⟩
  | .COT_CNT_LATEIN => ⟨.COT, .cottage, 0x3000024, 0x1000, 0x8, 1, 0x8, 1, 32, [⟨31, 0, .rw, 0⟩]⟩
  | .COT_IN_TGT => ⟨.COT, .cottage, 0x3000028, 0x1000, 0x8, 1, 0x8, 1, 64, [⟨47, 44, .rw, 0⟩, ⟨41, 32, .rw, 0⟩, ⟨31, 0, .rw, 0⟩]⟩
  | .COT_IN_VAL => ⟨.COT, .cottage, 0x3000030, 0x1000, 0x8, 1, 0x8, 1, 32, [⟨31, 0, .wo, 0⟩]⟩
  | .COT_IN_STAT => ⟨.COT, .cottage, 0x3000034, 0x1000, 0x8, 1, 0x8, 1, 32, [⟨13, 8, .ro, 0⟩, ⟨1, 1, .w1c, 0⟩, ⟨0, 0, .w1c, 0⟩]⟩
  | .TLY_STAT => ⟨.TLY, .cottage, 0x3000040, 0x1000, 0x8, 1, 0x8, 1, 32, [⟨25, 16, .ro, 0⟩, ⟨11, 0, .ro, 0⟩]⟩
  | .TLY_HWM => ⟨.TLY, .cottage, 0x3000044, 0x1000, 0x8, 1, 0x8, 1, 32, [⟨9, 0, .rw, 0⟩]⟩
  | .COT_ARITH => ⟨.COT, .cottage, 0x3000048, 0x1000, 0x8, 1, 0x8, 1, 32, [⟨31, 31, .rwl, 0⟩, ⟨15, 0, .rw, 0⟩]⟩
  | .COT_FAULT => ⟨.COT, .cottage, 0x3000050, 0x1000, 0x8, 1, 0x8, 1, 64, [⟨63, 32, .ro, 0⟩, ⟨31, 24, .ro, 0⟩, ⟨23, 0, .ro, 0⟩]⟩
  | .COT_PERF => ⟨.COT, .cottage, 0x3000060, 0x1000, 0x4, 6, 0x8, 1, 32, [⟨31, 0, .rw, 0⟩]⟩
  | .RLF_LSTAT => ⟨.RLF, .cottage, 0x30000c0, 0x1000, 0x8, 1, 0x8, 1, 64, [⟨63, 32, .ro, 0⟩, ⟨31, 31, .ro, 0⟩, ⟨30, 30, .ro, 0⟩, ⟨29, 29, .ro, 0⟩, ⟨25, 16, .ro, 0⟩, ⟨9, 0, .ro, 0⟩]⟩
  | .RLF_LCNT => ⟨.RLF, .cottage, 0x30000c8, 0x1000, 0x8, 1, 0x8, 1, 32, [⟨31, 16, .ro, 0⟩, ⟨14, 8, .ro, 0⟩, ⟨6, 0, .ro, 0⟩]⟩
  | .RLF_FLASHCNT => ⟨.RLF, .cottage, 0x30000cc, 0x1000, 0x8, 1, 0x8, 1, 32, [⟨31, 0, .rw, 0⟩]⟩
  | .COT_G => ⟨.COT, .cottage, 0x3000100, 0x1000, 0x4, 16, 0x8, 1, 32, [⟨31, 0, .rwl, 0⟩]⟩
  | .COT_SP => ⟨.COT, .cottage, 0x3000140, 0x1000, 0x8, 1, 0x8, 1, 32, [⟨31, 0, .rwl, 0⟩]⟩
  | .COT_PC => ⟨.COT, .cottage, 0x3000144, 0x1000, 0x8, 1, 0x8, 1, 32, [⟨31, 0, .rwl, 0⟩]⟩
  | .COT_FL => ⟨.COT, .cottage, 0x3000148, 0x1000, 0x8, 1, 0x8, 1, 32, [⟨31, 0, .rwl, 0⟩]⟩
  | .POR_S0_CTL => ⟨.POR, .cottage, 0x3000180, 0x1000, 0x8, 1, 0x8, 1, 32, [⟨31, 16, .rw, 0⟩, ⟨15, 12, .rw, 0⟩, ⟨9, 8, .rw, 1⟩, ⟨7, 5, .ro, 0⟩, ⟨1, 1, .w1s, 0⟩, ⟨0, 0, .rw, 0⟩]⟩
  | .POR_S0_STAT => ⟨.POR, .cottage, 0x3000184, 0x1000, 0x8, 1, 0x8, 1, 32, [⟨31, 16, .ro, 0⟩, ⟨3, 3, .w1c, 0⟩, ⟨2, 2, .w1c, 0⟩, ⟨1, 1, .w1c, 0⟩, ⟨0, 0, .ro, 0⟩]⟩
  | .CHR_S_CTL => ⟨.CHR, .cottage, 0x3000190, 0x1000, 0x8, 1, 0x8, 1, 32, [⟨31, 16, .rw, 0⟩, ⟨0, 0, .rw, 0⟩]⟩
  | .CHR_S_STAT => ⟨.CHR, .cottage, 0x3000194, 0x1000, 0x8, 1, 0x8, 1, 32, [⟨31, 16, .ro, 0⟩, ⟨3, 3, .w1c, 0⟩, ⟨2, 2, .w1c, 0⟩, ⟨1, 1, .w1c, 0⟩, ⟨0, 0, .ro, 0⟩]⟩
  | .CHR_BUS => ⟨.CHR, .cottage, 0x3000198, 0x1000, 0x8, 1, 0x8, 1, 32, [⟨31, 31, .rw, 1⟩, ⟨21, 16, .rw, 5⟩, ⟨12, 0, .rw, 4096⟩]⟩
  | .CHR_VSTAT => ⟨.CHR, .cottage, 0x300019c, 0x1000, 0x8, 1, 0x8, 1, 32, [⟨31, 16, .rw, 0⟩, ⟨15, 8, .rw, 0⟩, ⟨4, 0, .ro, 0⟩]⟩
  | .CHR_S_BLOCK => ⟨.CHR, .cottage, 0x30001a0, 0x1000, 0x8, 1, 0x8, 1, 64, [⟨63, 0, .ro, 0⟩]⟩
  | .HAY_CMD => ⟨.HAY, .cottage, 0x30001c0, 0x1000, 0x8, 1, 0x8, 1, 32, [⟨27, 16, .wo, 0⟩, ⟨6, 4, .wo, 0⟩, ⟨3, 0, .wo, 0⟩]⟩
  | .HAY_STAT => ⟨.HAY, .cottage, 0x30001c4, 0x1000, 0x8, 1, 0x8, 1, 32, [⟨31, 31, .ro, 0⟩, ⟨30, 30, .ro, 0⟩, ⟨7, 0, .ro, 0⟩]⟩
  | .HAY_XADDR => ⟨.HAY, .cottage, 0x30001c8, 0x1000, 0x8, 1, 0x8, 1, 64, [⟨63, 3, .rw, 0⟩, ⟨0, 0, .rw, 0⟩]⟩
  | .HAY_XLEN => ⟨.HAY, .cottage, 0x30001d0, 0x1000, 0x8, 1, 0x8, 1, 32, [⟨31, 0, .rw, 0⟩]⟩
  | .HAY_SLOTS => ⟨.HAY, .cottage, 0x30001d4, 0x1000, 0x8, 1, 0x8, 1, 32, [⟨7, 0, .ro, 0⟩]⟩
  | .HAY_SFRAME => ⟨.HAY, .cottage, 0x30001e0, 0x1000, 0x4, 8, 0x8, 1, 32, [⟨31, 0, .ro, 0⟩]⟩

/-- A part of `RegName.all`. -/
def RegName.all0 : List RegName :=
  [.TOP_ID, .PWR_STAT, .PWR_CTL, .PWR_EVT, .PWR_DROOP, .PWR_TLIM, .PWR_SENSE, .PWR_CAL, .PWR_HBMTR, .PWR_TEST_CMD, .PWR_TEST_STAT, .PWR_TEST_RES, .PWR_BOOT_FW, .PWR_BOOT_FWLEN, .PWR_BOOT_CMD, .PWR_BOOT_PATCH, .PWR_BOOT_PLEN, .PWR_BOOT_STAT, .ERR_STAT, .ERR_MSEQ, .ERR_CNT, .ERR_FATAL, .ERR_INJ, .ARM_SRC, .ARM_LEN, .ARM_CMD, .ARM_STAT, .ARM_FAIL, .ARM_MSTAT, .ARM_PSTAT, .ARM_PHASH, .ARM_MHASH, .LOM_STG_SRC, .LOM_STG_LEN, .LOM_STG_CMD, .LOM_STG_STAT, .CHR_TDM_CTL, .CHR_TDM_STAT, .CHR_TDM_FRAME, .CHR_TDM_GAP]

/-- A part of `RegName.all`. -/
def RegName.all1 : List RegName :=
  [.CHR_AMCLK, .FAB_LINK, .FAB_LTR, .FAB_FLR, .FAB_PTM, .FAB_PTM_EPOCH, .SEC_DEVSN, .SEC_OPKEY, .SEC_ALIAS, .GRN_FREE, .GRN_CNT_PAGEIN, .GRN_CNT_EVICT, .GRN_CNT_COW, .GRN_FAIL, .GRN_ARG0, .GRN_CMD, .GRN_STAT, .GRN_RESULT, .GRN_OWN, .HBM_STAT, .HBM_SR_CTL, .HBM_AGE, .HBM_URG_STAT, .HBM_CNT_DEAD, .HBM_W, .HBM_URG_THR, .HBM_CNT_URG, .HBM_CNT_CORR, .HBM_CNT_UNC, .HBM_CNT_SR, .COM_REGION_BASE, .COM_REGION_SIZE, .COM_BAR2, .COM_EQ, .COM_EQ_STAT, .COM_RING_BASE, .COM_RING_CFG, .COM_RING_RET, .COM_RING_PUB, .COM_RING_STAT]

/-- A part of `RegName.all`. -/
def RegName.all2 : List RegName :=
  [.COM_VMOD, .POR_CTL, .POR_LTR, .POR_CNT_GAP, .POR_CNT_OUTLATE, .POR_HBM_HINT, .POR_EDP_CTL, .POR_EDP_STAT, .POR_EDP_DST, .POR_EDP_TIM, .POR_EDP_FB, .POR_EDP_BORDER, .POR_EDP_DEFER, .POR_EDP_SU, .POR_EDP_AUX, .POR_S1_CTL, .POR_S1_STAT, .PLN_CTL, .PLN_CMD, .PLN_BASE, .PLN_PAL, .PLN_RECT, .PLN_PITCH, .PLN_FALLBACK, .PLN_STAT, .LAN_CFG, .LAN_IN, .LAN_OUT, .LAN_WAKE, .LAN_SEC, .LAN_BELL, .LAN_UART, .LAN_SPI, .LAN_I2C, .LAN_FAN, .TRD_CTL, .TRD_PCFG, .TRD_DIV, .TRD_CNT, .TRD_CMD]

/-- A part of `RegName.all`. -/
def RegName.all3 : List RegName :=
  [.TRD_STAT, .TRD_FIFO, .TRD_TXF, .TRD_RXF, .TRD_SHEAF, .TRD_SKEIN, .TRD_OWN, .TRD_LUT, .TMR_CTL, .TMR_STAT, .TMR_CNT, .TMR_CMP, .TMR_CAPR, .TMR_CAPF, .TMR_PAIR, .TMR_OWN, .RVE_CTL, .RVE_STAT, .RVE_EPC, .RVE_EXC, .RVE_VEC, .RVE_PERF, .RVE_IRQ, .RVE_WIN, .RVE_FW_SRC, .RVE_FW_LEN, .RVE_FW_CMD, .RVE_FW_CTL, .RVE_FW_STAT, .SBD_CFG, .SBD_STAT, .SBD_CNT, .BEL_CTL, .BEL_PERIOD, .BEL_COUNT, .BEL_STAT, .BEL_PACE, .LOM_UC_VER, .LOM_UC_STG, .LOM_UC_PATCH]

/-- A part of `RegName.all`. -/
def RegName.all4 : List RegName :=
  [.LOM_CTL, .LOM_STAT, .LOM_CNT_YIELD, .LOM_PC_WAYS, .RLF_LUM_CTL, .RLF_CNT_SKIP, .RLF_CNT_REFUSED, .RLF_CNT_LBCORR, .CHR_CTL, .CHR_MIXPOS, .CHR_CNT_LATE, .CHR_CNT_CORR, .CHR_RT, .ARB_W, .ARB_AGE, .ARB_URG_THR, .ARB_URG_STAT, .ARB_CNT_URG, .ARB_CNT_DEAD, .ARB_CNT_AGED, .ARB_TAGS, .LRD_RET, .LRD_RETSTAT, .LRD_CNT_CONF, .LRD_CNT_WAKE, .LRD_CNT_CORR, .LRD_ERR_POS, .CAR_RC_SRC, .CAR_RC_DST, .CAR_RC_CNT, .CAR_RC_CTL, .CAR_CH_HEAD, .CAR_CH_CUR, .CAR_CH_SRC, .CAR_CH_DST, .CAR_CH_CNT, .CAR_CH_CTL, .CAR_CH_STAT, .CAR_CH_RING, .CAR_CH_DB]

/-- A part of `RegName.all`. -/
def RegName.all5 : List RegName :=
  [.CAR_CH_OWN, .CAR_STAT, .CAR_CTL, .CAR_ERR, .CHS_N_STAT, .CHS_N_DEAD, .CHS_N_CNT, .CHS_P_OWN, .CHS_P_SRC, .CHS_P_DST, .CHS_P_PITCH, .CHS_P_SPOS, .CHS_P_DPOS, .CHS_P_SIZE, .CHS_P_END, .CHS_P_COLOR, .CHS_P_KEY, .CHS_P_CLIP0, .CHS_P_CLIP1, .CHS_P_CTL, .CHS_P_STAT, .CHS_P_CFG, .PIC_PEND, .PIC_EN, .PIC_TAKE, .PIC_ACT, .PIC_SET, .PIC_LVL, .PIC_TGT, .PIC_MSIX, .PIC_RR, .PIC_VWIN, .PIC_VANISHED, .GRN_CMAP, .GRN_CVRAM, .GRN_CSTAT, .GRN_CCNT, .COT_CTL, .COT_STATE, .COT_BEAM]

/-- A part of `RegName.all`. -/
def RegName.all6 : List RegName :=
  [.COT_BELL_OFS, .COT_CNT_LATE, .COT_CNT_BWAIT, .COT_CNT_DHOLD, .COT_CNT_LATEIN, .COT_IN_TGT, .COT_IN_VAL, .COT_IN_STAT, .TLY_STAT, .TLY_HWM, .COT_ARITH, .COT_FAULT, .COT_PERF, .RLF_LSTAT, .RLF_LCNT, .RLF_FLASHCNT, .COT_G, .COT_SP, .COT_PC, .COT_FL, .POR_S0_CTL, .POR_S0_STAT, .CHR_S_CTL, .CHR_S_STAT, .CHR_BUS, .CHR_VSTAT, .CHR_S_BLOCK, .HAY_CMD, .HAY_STAT, .HAY_XADDR, .HAY_XLEN, .HAY_SLOTS, .HAY_SFRAME]

/-- Every register of the map, in its order. -/
def RegName.all : List RegName :=
  RegName.all0 ++ RegName.all1 ++ RegName.all2 ++ RegName.all3 ++ RegName.all4 ++ RegName.all5 ++ RegName.all6

/-- What the fields of a register hold after the reset of its domain, for registers whose reset value does not
depend on the instance. -/
def RegDesc.resetBits (d : RegDesc) : Nat :=
  d.fields.foldl (fun n f => n + f.reset <<< f.lo) 0

/-- The reset value of a register (R12): the Reset column of its table. An entry A is 0 until an Armature takes
effect (log entry 3); an entry per variant, per die or strapped is a constant of Config (log entry 4). -/
def RegId.reset (r : RegId) : BitVec 64 :=
  let base := r.name.desc.resetBits
  BitVec.ofNat 64 <| match r.name with
  | .TOP_ID => base + (Config.topVariant.toNat <<< 12) + Config.topDieMinor.toNat
  | .SEC_DEVSN => Config.deviceSerial.toNat
  | .SEC_OPKEY => Config.opKeyBits (BitVec.ofNat 2 r.idx) |>.toNat
  | .SBD_CFG => base + (0x58 + Config.smbStrap.toNat) <<< 16
  | .RVE_CTL => base + (if r.bank = 0 ∧ r.idx = 0 then 2 else 1)
  | .RVE_VEC => Config.bootRomHandler.toNat / 4 * 4
  | .RVE_WIN => if r.idx % 16 = 0 then 0x1100000000 + 1 else 0
  | .TMR_OWN => if r.idx < 8 then 5 else 6
  | .HBM_W => if r.idx < 16 then 16 else if r.idx = 16 then 32 else if r.idx = 19 then 4
      else if r.idx = 20 then 16 else 8
  | .GRN_FREE => 0
  | .HAY_SFRAME => 0
  | _ => base

/-! The fields, by register and field name. -/
namespace F
abbrev TOP_ID_PART : Fld := ⟨.TOP_ID, 31, 16⟩
abbrev TOP_ID_VARIANT : Fld := ⟨.TOP_ID, 15, 12⟩
abbrev TOP_ID_DIE_MAJOR : Fld := ⟨.TOP_ID, 11, 8⟩
abbrev TOP_ID_DIE_MINOR : Fld := ⟨.TOP_ID, 7, 0⟩
abbrev PWR_STAT_SLEEP : Fld := ⟨.PWR_STAT, 5, 5⟩
abbrev PWR_STAT_TWARN : Fld := ⟨.PWR_STAT, 4, 4⟩
abbrev PWR_STAT_RS : Fld := ⟨.PWR_STAT, 3, 3⟩
abbrev PWR_STAT_WARN : Fld := ⟨.PWR_STAT, 2, 2⟩
abbrev PWR_STAT_PWRFAIL : Fld := ⟨.PWR_STAT, 1, 1⟩
abbrev PWR_STAT_LOWVIN : Fld := ⟨.PWR_STAT, 0, 0⟩
abbrev PWR_CTL_SLEEP : Fld := ⟨.PWR_CTL, 1, 1⟩
abbrev PWR_CTL_FORCE_RS : Fld := ⟨.PWR_CTL, 0, 0⟩
abbrev PWR_EVT_EN : Fld := ⟨.PWR_EVT, 31, 31⟩
abbrev PWR_EVT_VEC : Fld := ⟨.PWR_EVT, 10, 0⟩
abbrev PWR_DROOP_ABS : Fld := ⟨.PWR_DROOP, 31, 16⟩
abbrev PWR_DROOP_PCT : Fld := ⟨.PWR_DROOP, 5, 0⟩
abbrev PWR_TLIM_HBM : Fld := ⟨.PWR_TLIM, 15, 8⟩
abbrev PWR_TLIM_HOT : Fld := ⟨.PWR_TLIM, 7, 0⟩
abbrev PWR_SENSE_INLET : Fld := ⟨.PWR_SENSE, 55, 48⟩
abbrev PWR_SENSE_HBMT : Fld := ⟨.PWR_SENSE, 47, 40⟩
abbrev PWR_SENSE_HOTSPOT : Fld := ⟨.PWR_SENSE, 39, 32⟩
abbrev PWR_SENSE_PIN : Fld := ⟨.PWR_SENSE, 31, 16⟩
abbrev PWR_SENSE_VIN : Fld := ⟨.PWR_SENSE, 15, 0⟩
abbrev PWR_CAL_HBM : Fld := ⟨.PWR_CAL, 31, 31⟩
abbrev PWR_CAL_PARISH : Fld := ⟨.PWR_CAL, 15, 0⟩
abbrev PWR_HBMTR_CHAN : Fld := ⟨.PWR_HBMTR, 63, 0⟩
abbrev PWR_TEST_CMD_TARGET : Fld := ⟨.PWR_TEST_CMD, 21, 16⟩
abbrev PWR_TEST_CMD_VEC : Fld := ⟨.PWR_TEST_CMD, 15, 4⟩
abbrev PWR_TEST_CMD_OP : Fld := ⟨.PWR_TEST_CMD, 3, 0⟩
abbrev PWR_TEST_STAT_STATE : Fld := ⟨.PWR_TEST_STAT, 31, 30⟩
abbrev PWR_TEST_STAT_CODE : Fld := ⟨.PWR_TEST_STAT, 7, 0⟩
abbrev PWR_TEST_RES_RES : Fld := ⟨.PWR_TEST_RES, 63, 0⟩
abbrev PWR_BOOT_FW_ADDR : Fld := ⟨.PWR_BOOT_FW, 63, 0⟩
abbrev PWR_BOOT_FWLEN_LEN : Fld := ⟨.PWR_BOOT_FWLEN, 31, 0⟩
abbrev PWR_BOOT_CMD_VEC : Fld := ⟨.PWR_BOOT_CMD, 15, 4⟩
abbrev PWR_BOOT_CMD_OP : Fld := ⟨.PWR_BOOT_CMD, 3, 0⟩
abbrev PWR_BOOT_PATCH_ADDR : Fld := ⟨.PWR_BOOT_PATCH, 63, 0⟩
abbrev PWR_BOOT_PLEN_LEN : Fld := ⟨.PWR_BOOT_PLEN, 31, 0⟩
abbrev PWR_BOOT_STAT_STATE : Fld := ⟨.PWR_BOOT_STAT, 31, 30⟩
abbrev PWR_BOOT_STAT_PATCHOK : Fld := ⟨.PWR_BOOT_STAT, 23, 16⟩
abbrev PWR_BOOT_STAT_NPATCH : Fld := ⟨.PWR_BOOT_STAT, 15, 8⟩
abbrev PWR_BOOT_STAT_CODE : Fld := ⟨.PWR_BOOT_STAT, 7, 0⟩
abbrev ERR_STAT_FATAL : Fld := ⟨.ERR_STAT, 31, 31⟩
abbrev ERR_MSEQ_NEXT : Fld := ⟨.ERR_MSEQ, 31, 0⟩
abbrev ERR_CNT_COUNT : Fld := ⟨.ERR_CNT, 31, 0⟩
abbrev ERR_FATAL_REC : Fld := ⟨.ERR_FATAL, 63, 0⟩
abbrev ERR_INJ_VALUE : Fld := ⟨.ERR_INJ, 31, 0⟩
abbrev ARM_SRC_ADDR : Fld := ⟨.ARM_SRC, 63, 3⟩
abbrev ARM_SRC_SPACE : Fld := ⟨.ARM_SRC, 0, 0⟩
abbrev ARM_LEN_LEN : Fld := ⟨.ARM_LEN, 31, 0⟩
abbrev ARM_CMD_PMASK : Fld := ⟨.ARM_CMD, 31, 16⟩
abbrev ARM_CMD_VEC : Fld := ⟨.ARM_CMD, 15, 4⟩
abbrev ARM_CMD_OP : Fld := ⟨.ARM_CMD, 3, 0⟩
abbrev ARM_STAT_STATE : Fld := ⟨.ARM_STAT, 31, 30⟩
abbrev ARM_STAT_CODE : Fld := ⟨.ARM_STAT, 7, 0⟩
abbrev ARM_FAIL_REC : Fld := ⟨.ARM_FAIL, 31, 16⟩
abbrev ARM_FAIL_FAILMASK : Fld := ⟨.ARM_FAIL, 15, 0⟩
abbrev ARM_MSTAT_MODE : Fld := ⟨.ARM_MSTAT, 31, 28⟩
abbrev ARM_MSTAT_KEYSLOT : Fld := ⟨.ARM_MSTAT, 26, 24⟩
abbrev ARM_MSTAT_EXPERT : Fld := ⟨.ARM_MSTAT, 9, 0⟩
abbrev ARM_PSTAT_MODE : Fld := ⟨.ARM_PSTAT, 31, 28⟩
abbrev ARM_PSTAT_DRAINED : Fld := ⟨.ARM_PSTAT, 27, 27⟩
abbrev ARM_PSTAT_KEYSLOT : Fld := ⟨.ARM_PSTAT, 26, 24⟩
abbrev ARM_PSTAT_EXPERT : Fld := ⟨.ARM_PSTAT, 11, 0⟩
abbrev ARM_PHASH_HASH : Fld := ⟨.ARM_PHASH, 31, 0⟩
abbrev ARM_MHASH_HASH : Fld := ⟨.ARM_MHASH, 31, 0⟩
abbrev LOM_STG_SRC_ADDR : Fld := ⟨.LOM_STG_SRC, 63, 3⟩
abbrev LOM_STG_SRC_SPACE : Fld := ⟨.LOM_STG_SRC, 0, 0⟩
abbrev LOM_STG_LEN_LEN : Fld := ⟨.LOM_STG_LEN, 31, 0⟩
abbrev LOM_STG_CMD_PMASK : Fld := ⟨.LOM_STG_CMD, 31, 16⟩
abbrev LOM_STG_CMD_VEC : Fld := ⟨.LOM_STG_CMD, 15, 4⟩
abbrev LOM_STG_CMD_OP : Fld := ⟨.LOM_STG_CMD, 3, 0⟩
abbrev LOM_STG_STAT_STATE : Fld := ⟨.LOM_STG_STAT, 31, 30⟩
abbrev LOM_STG_STAT_CODE : Fld := ⟨.LOM_STG_STAT, 7, 0⟩
abbrev CHR_TDM_CTL_EN : Fld := ⟨.CHR_TDM_CTL, 31, 31⟩
abbrev CHR_TDM_CTL_SLOTS : Fld := ⟨.CHR_TDM_CTL, 20, 16⟩
abbrev CHR_TDM_CTL_RATE : Fld := ⟨.CHR_TDM_CTL, 13, 12⟩
abbrev CHR_TDM_CTL_MODE : Fld := ⟨.CHR_TDM_CTL, 9, 8⟩
abbrev CHR_TDM_CTL_SLAVE : Fld := ⟨.CHR_TDM_CTL, 4, 4⟩
abbrev CHR_TDM_STAT_UNUSED : Fld := ⟨.CHR_TDM_STAT, 5, 5⟩
abbrev CHR_TDM_STAT_CFG_REJ : Fld := ⟨.CHR_TDM_STAT, 4, 4⟩
abbrev CHR_TDM_STAT_SLIP : Fld := ⟨.CHR_TDM_STAT, 3, 3⟩
abbrev CHR_TDM_STAT_CLIP : Fld := ⟨.CHR_TDM_STAT, 2, 2⟩
abbrev CHR_TDM_STAT_UNDERRUN : Fld := ⟨.CHR_TDM_STAT, 1, 1⟩
abbrev CHR_TDM_STAT_ACTIVE : Fld := ⟨.CHR_TDM_STAT, 0, 0⟩
abbrev CHR_TDM_FRAME_FRAME : Fld := ⟨.CHR_TDM_FRAME, 63, 0⟩
abbrev CHR_TDM_GAP_GAP : Fld := ⟨.CHR_TDM_GAP, 31, 0⟩
abbrev CHR_AMCLK_LOCKED : Fld := ⟨.CHR_AMCLK, 31, 31⟩
abbrev CHR_AMCLK_LOCK_LOST : Fld := ⟨.CHR_AMCLK, 30, 30⟩
abbrev CHR_AMCLK_SRC : Fld := ⟨.CHR_AMCLK, 0, 0⟩
abbrev FAB_LINK_RATE : Fld := ⟨.FAB_LINK, 19, 16⟩
abbrev FAB_LINK_WIDTH : Fld := ⟨.FAB_LINK, 12, 8⟩
abbrev FAB_LINK_DEGRADED : Fld := ⟨.FAB_LINK, 3, 3⟩
abbrev FAB_LINK_L1SS : Fld := ⟨.FAB_LINK, 2, 2⟩
abbrev FAB_LINK_FLIT : Fld := ⟨.FAB_LINK, 1, 1⟩
abbrev FAB_LINK_UP : Fld := ⟨.FAB_LINK, 0, 0⟩
abbrev FAB_LTR_SENT : Fld := ⟨.FAB_LTR, 63, 48⟩
abbrev FAB_LTR_L1IDLE : Fld := ⟨.FAB_LTR, 47, 32⟩
abbrev FAB_LTR_IDLE : Fld := ⟨.FAB_LTR, 31, 16⟩
abbrev FAB_LTR_ACTIVE : Fld := ⟨.FAB_LTR, 15, 0⟩
abbrev FAB_FLR_LAST : Fld := ⟨.FAB_FLR, 23, 16⟩
abbrev FAB_FLR_COUNT : Fld := ⟨.FAB_FLR, 15, 0⟩
abbrev FAB_PTM_VALID : Fld := ⟨.FAB_PTM, 31, 31⟩
abbrev FAB_PTM_PORT : Fld := ⟨.FAB_PTM, 0, 0⟩
abbrev FAB_PTM_EPOCH_EPOCH : Fld := ⟨.FAB_PTM_EPOCH, 63, 0⟩
abbrev SEC_DEVSN_SN : Fld := ⟨.SEC_DEVSN, 63, 0⟩
abbrev SEC_OPKEY_REVOKED : Fld := ⟨.SEC_OPKEY, 1, 1⟩
abbrev SEC_OPKEY_FUSED : Fld := ⟨.SEC_OPKEY, 0, 0⟩
abbrev SEC_ALIAS_HASH : Fld := ⟨.SEC_ALIAS, 31, 0⟩
abbrev GRN_FREE_FREE : Fld := ⟨.GRN_FREE, 16, 0⟩
abbrev GRN_CNT_PAGEIN_PAGEIN : Fld := ⟨.GRN_CNT_PAGEIN, 63, 0⟩
abbrev GRN_CNT_EVICT_EVICT : Fld := ⟨.GRN_CNT_EVICT, 63, 0⟩
abbrev GRN_CNT_COW_COW : Fld := ⟨.GRN_CNT_COW, 63, 0⟩
abbrev GRN_FAIL_FRAME : Fld := ⟨.GRN_FAIL, 63, 48⟩
abbrev GRN_FAIL_PORT : Fld := ⟨.GRN_FAIL, 47, 47⟩
abbrev GRN_FAIL_ADDR : Fld := ⟨.GRN_FAIL, 45, 0⟩
abbrev GRN_ARG0_ARG0 : Fld := ⟨.GRN_ARG0, 63, 0⟩
abbrev GRN_CMD_VEC : Fld := ⟨.GRN_CMD, 15, 4⟩
abbrev GRN_CMD_OP : Fld := ⟨.GRN_CMD, 3, 0⟩
abbrev GRN_STAT_STATE : Fld := ⟨.GRN_STAT, 31, 30⟩
abbrev GRN_STAT_CODE : Fld := ⟨.GRN_STAT, 7, 0⟩
abbrev GRN_RESULT_RESULT : Fld := ⟨.GRN_RESULT, 63, 0⟩
abbrev GRN_OWN_QUOTA : Fld := ⟨.GRN_OWN, 63, 32⟩
abbrev GRN_OWN_USED : Fld := ⟨.GRN_OWN, 31, 0⟩
abbrev HBM_STAT_SR : Fld := ⟨.HBM_STAT, 3, 0⟩
abbrev HBM_SR_CTL_MIN_IDLE : Fld := ⟨.HBM_SR_CTL, 19, 4⟩
abbrev HBM_SR_CTL_EN : Fld := ⟨.HBM_SR_CTL, 3, 0⟩
abbrev HBM_AGE_N : Fld := ⟨.HBM_AGE, 6, 0⟩
abbrev HBM_URG_STAT_REP : Fld := ⟨.HBM_URG_STAT, 31, 31⟩
abbrev HBM_URG_STAT_URG : Fld := ⟨.HBM_URG_STAT, 20, 0⟩
abbrev HBM_CNT_DEAD_DEAD : Fld := ⟨.HBM_CNT_DEAD, 31, 0⟩
abbrev HBM_W_W : Fld := ⟨.HBM_W, 7, 0⟩
abbrev HBM_URG_THR_THR : Fld := ⟨.HBM_URG_THR, 15, 0⟩
abbrev HBM_CNT_URG_URG : Fld := ⟨.HBM_CNT_URG, 31, 0⟩
abbrev HBM_CNT_CORR_CORR : Fld := ⟨.HBM_CNT_CORR, 31, 0⟩
abbrev HBM_CNT_UNC_UNC : Fld := ⟨.HBM_CNT_UNC, 31, 0⟩
abbrev HBM_CNT_SR_SR : Fld := ⟨.HBM_CNT_SR, 31, 0⟩
abbrev COM_REGION_BASE_ADDR : Fld := ⟨.COM_REGION_BASE, 45, 12⟩
abbrev COM_REGION_BASE_EN : Fld := ⟨.COM_REGION_BASE, 0, 0⟩
abbrev COM_REGION_SIZE_MIB : Fld := ⟨.COM_REGION_SIZE, 12, 0⟩
abbrev COM_BAR2_EN : Fld := ⟨.COM_BAR2, 31, 31⟩
abbrev COM_BAR2_FAIL : Fld := ⟨.COM_BAR2, 30, 30⟩
abbrev COM_BAR2_MIB : Fld := ⟨.COM_BAR2, 14, 0⟩
abbrev COM_EQ_EN : Fld := ⟨.COM_EQ, 31, 31⟩
abbrev COM_EQ_FLUSH : Fld := ⟨.COM_EQ, 25, 16⟩
abbrev COM_EQ_RING : Fld := ⟨.COM_EQ, 12, 0⟩
abbrev COM_EQ_STAT_LOST : Fld := ⟨.COM_EQ_STAT, 31, 0⟩
abbrev COM_RING_BASE_ADDR : Fld := ⟨.COM_RING_BASE, 45, 12⟩
abbrev COM_RING_BASE_SPACE : Fld := ⟨.COM_RING_BASE, 0, 0⟩
abbrev COM_RING_CFG_EN : Fld := ⟨.COM_RING_CFG, 31, 31⟩
abbrev COM_RING_CFG_VEC : Fld := ⟨.COM_RING_CFG, 27, 16⟩
abbrev COM_RING_CFG_IE : Fld := ⟨.COM_RING_CFG, 15, 15⟩
abbrev COM_RING_CFG_LOG2SIZE : Fld := ⟨.COM_RING_CFG, 4, 0⟩
abbrev COM_RING_RET_RET : Fld := ⟨.COM_RING_RET, 31, 0⟩
abbrev COM_RING_PUB_PUB : Fld := ⟨.COM_RING_PUB, 31, 0⟩
abbrev COM_RING_STAT_ERR : Fld := ⟨.COM_RING_STAT, 2, 2⟩
abbrev COM_RING_STAT_DB_REJ : Fld := ⟨.COM_RING_STAT, 1, 1⟩
abbrev COM_RING_STAT_BLOCKED : Fld := ⟨.COM_RING_STAT, 0, 0⟩
abbrev COM_VMOD_PEND : Fld := ⟨.COM_VMOD, 31, 31⟩
abbrev COM_VMOD_PKTS : Fld := ⟨.COM_VMOD, 23, 16⟩
abbrev COM_VMOD_HOLDOFF : Fld := ⟨.COM_VMOD, 11, 0⟩
abbrev POR_CTL_OUTWIN : Fld := ⟨.POR_CTL, 15, 0⟩
abbrev POR_LTR_IDLE_CAP : Fld := ⟨.POR_LTR, 47, 32⟩
abbrev POR_LTR_GUARD : Fld := ⟨.POR_LTR, 31, 16⟩
abbrev POR_LTR_ACTIVE : Fld := ⟨.POR_LTR, 15, 0⟩
abbrev POR_CNT_GAP_GAP : Fld := ⟨.POR_CNT_GAP, 31, 0⟩
abbrev POR_CNT_OUTLATE_OUTLATE : Fld := ⟨.POR_CNT_OUTLATE, 31, 0⟩
abbrev POR_HBM_HINT_S3 : Fld := ⟨.POR_HBM_HINT, 63, 48⟩
abbrev POR_HBM_HINT_S2 : Fld := ⟨.POR_HBM_HINT, 47, 32⟩
abbrev POR_HBM_HINT_S1 : Fld := ⟨.POR_HBM_HINT, 31, 16⟩
abbrev POR_HBM_HINT_S0 : Fld := ⟨.POR_HBM_HINT, 15, 0⟩
abbrev POR_EDP_CTL_SRC : Fld := ⟨.POR_EDP_CTL, 31, 20⟩
abbrev POR_EDP_CTL_REPL : Fld := ⟨.POR_EDP_CTL, 8, 8⟩
abbrev POR_EDP_CTL_BPC : Fld := ⟨.POR_EDP_CTL, 7, 6⟩
abbrev POR_EDP_CTL_LANES : Fld := ⟨.POR_EDP_CTL, 5, 4⟩
abbrev POR_EDP_CTL_RATE : Fld := ⟨.POR_EDP_CTL, 3, 2⟩
abbrev POR_EDP_CTL_PSR2 : Fld := ⟨.POR_EDP_CTL, 1, 1⟩
abbrev POR_EDP_CTL_EN : Fld := ⟨.POR_EDP_CTL, 0, 0⟩
abbrev POR_EDP_STAT_FB_REJ : Fld := ⟨.POR_EDP_STAT, 6, 6⟩
abbrev POR_EDP_STAT_HPD : Fld := ⟨.POR_EDP_STAT, 5, 5⟩
abbrev POR_EDP_STAT_TRAINED : Fld := ⟨.POR_EDP_STAT, 4, 4⟩
abbrev POR_EDP_STAT_PSR2_ACT : Fld := ⟨.POR_EDP_STAT, 3, 3⟩
abbrev POR_EDP_STAT_LINK_LOST : Fld := ⟨.POR_EDP_STAT, 2, 2⟩
abbrev POR_EDP_STAT_GEOM_REJ : Fld := ⟨.POR_EDP_STAT, 1, 1⟩
abbrev POR_EDP_STAT_ACTIVE : Fld := ⟨.POR_EDP_STAT, 0, 0⟩
abbrev POR_EDP_DST_DH : Fld := ⟨.POR_EDP_DST, 60, 48⟩
abbrev POR_EDP_DST_DW : Fld := ⟨.POR_EDP_DST, 44, 32⟩
abbrev POR_EDP_DST_DY : Fld := ⟨.POR_EDP_DST, 28, 16⟩
abbrev POR_EDP_DST_DX : Fld := ⟨.POR_EDP_DST, 12, 0⟩
abbrev POR_EDP_TIM_TIM : Fld := ⟨.POR_EDP_TIM, 31, 0⟩
abbrev POR_EDP_FB_ADDR : Fld := ⟨.POR_EDP_FB, 47, 12⟩
abbrev POR_EDP_BORDER_RGB : Fld := ⟨.POR_EDP_BORDER, 23, 0⟩
abbrev POR_EDP_DEFER_DEFER : Fld := ⟨.POR_EDP_DEFER, 31, 0⟩
abbrev POR_EDP_SU_SU : Fld := ⟨.POR_EDP_SU, 31, 0⟩
abbrev POR_EDP_AUX_AUX : Fld := ⟨.POR_EDP_AUX, 31, 0⟩
abbrev POR_S1_CTL_RING : Fld := ⟨.POR_S1_CTL, 31, 16⟩
abbrev POR_S1_CTL_I8PAL : Fld := ⟨.POR_S1_CTL, 15, 12⟩
abbrev POR_S1_CTL_CSC : Fld := ⟨.POR_S1_CTL, 9, 8⟩
abbrev POR_S1_CTL_FMT : Fld := ⟨.POR_S1_CTL, 7, 5⟩
abbrev POR_S1_CTL_REFRESH : Fld := ⟨.POR_S1_CTL, 1, 1⟩
abbrev POR_S1_CTL_EN : Fld := ⟨.POR_S1_CTL, 0, 0⟩
abbrev POR_S1_STAT_NEXTSEQ : Fld := ⟨.POR_S1_STAT, 31, 16⟩
abbrev POR_S1_STAT_RING_ERR : Fld := ⟨.POR_S1_STAT, 3, 3⟩
abbrev POR_S1_STAT_GAP : Fld := ⟨.POR_S1_STAT, 2, 2⟩
abbrev POR_S1_STAT_OUT_LATE : Fld := ⟨.POR_S1_STAT, 1, 1⟩
abbrev POR_S1_STAT_STOPPED : Fld := ⟨.POR_S1_STAT, 0, 0⟩
abbrev PLN_CTL_FMT : Fld := ⟨.PLN_CTL, 1, 1⟩
abbrev PLN_CTL_EN : Fld := ⟨.PLN_CTL, 0, 0⟩
abbrev PLN_CMD_COMMIT : Fld := ⟨.PLN_CMD, 0, 0⟩
abbrev PLN_BASE_ADDR : Fld := ⟨.PLN_BASE, 47, 6⟩
abbrev PLN_PAL_ADDR : Fld := ⟨.PLN_PAL, 47, 10⟩
abbrev PLN_RECT_H : Fld := ⟨.PLN_RECT, 58, 48⟩
abbrev PLN_RECT_W : Fld := ⟨.PLN_RECT, 42, 32⟩
abbrev PLN_RECT_Y : Fld := ⟨.PLN_RECT, 26, 16⟩
abbrev PLN_RECT_X : Fld := ⟨.PLN_RECT, 10, 0⟩
abbrev PLN_PITCH_PITCH : Fld := ⟨.PLN_PITCH, 14, 6⟩
abbrev PLN_FALLBACK_RGB : Fld := ⟨.PLN_FALLBACK, 23, 0⟩
abbrev PLN_STAT_FRAME : Fld := ⟨.PLN_STAT, 31, 16⟩
abbrev PLN_STAT_ACTIVE : Fld := ⟨.PLN_STAT, 3, 3⟩
abbrev PLN_STAT_FALLBACK : Fld := ⟨.PLN_STAT, 2, 2⟩
abbrev PLN_STAT_REFUSED : Fld := ⟨.PLN_STAT, 1, 1⟩
abbrev PLN_STAT_PENDING : Fld := ⟨.PLN_STAT, 0, 0⟩
abbrev LAN_CFG_OWNER : Fld := ⟨.LAN_CFG, 30, 28⟩
abbrev LAN_CFG_UNIT : Fld := ⟨.LAN_CFG, 27, 24⟩
abbrev LAN_CFG_SIG : Fld := ⟨.LAN_CFG, 23, 20⟩
abbrev LAN_CFG_WAKE : Fld := ⟨.LAN_CFG, 15, 15⟩
abbrev LAN_CFG_WPOL : Fld := ⟨.LAN_CFG, 14, 14⟩
abbrev LAN_CFG_DRV : Fld := ⟨.LAN_CFG, 11, 10⟩
abbrev LAN_CFG_OD : Fld := ⟨.LAN_CFG, 9, 9⟩
abbrev LAN_CFG_OE : Fld := ⟨.LAN_CFG, 8, 8⟩
abbrev LAN_CFG_PULL : Fld := ⟨.LAN_CFG, 5, 4⟩
abbrev LAN_CFG_FUNC : Fld := ⟨.LAN_CFG, 3, 0⟩
abbrev LAN_IN_IN : Fld := ⟨.LAN_IN, 15, 0⟩
abbrev LAN_OUT_MASK : Fld := ⟨.LAN_OUT, 31, 16⟩
abbrev LAN_OUT_VAL : Fld := ⟨.LAN_OUT, 15, 0⟩
abbrev LAN_WAKE_VALID : Fld := ⟨.LAN_WAKE, 31, 31⟩
abbrev LAN_WAKE_LANE : Fld := ⟨.LAN_WAKE, 5, 0⟩
abbrev LAN_SEC_LOCK : Fld := ⟨.LAN_SEC, 31, 31⟩
abbrev LAN_SEC_CORE : Fld := ⟨.LAN_SEC, 1, 0⟩
abbrev LAN_BELL_WIDTH : Fld := ⟨.LAN_BELL, 15, 8⟩
abbrev LAN_BELL_PAR : Fld := ⟨.LAN_BELL, 3, 0⟩
abbrev LAN_UART_UART : Fld := ⟨.LAN_UART, 31, 0⟩
abbrev LAN_SPI_SPI : Fld := ⟨.LAN_SPI, 31, 0⟩
abbrev LAN_I2C_I2C : Fld := ⟨.LAN_I2C, 31, 0⟩
abbrev LAN_FAN_FAN : Fld := ⟨.LAN_FAN, 31, 0⟩
abbrev TRD_CTL_EN : Fld := ⟨.TRD_CTL, 31, 31⟩
abbrev TRD_CTL_START : Fld := ⟨.TRD_CTL, 29, 24⟩
abbrev TRD_CTL_VEC : Fld := ⟨.TRD_CTL, 23, 12⟩
abbrev TRD_PCFG_SHEAF_AT : Fld := ⟨.TRD_PCFG, 29, 24⟩
abbrev TRD_PCFG_SKEIN_AT : Fld := ⟨.TRD_PCFG, 21, 16⟩
abbrev TRD_PCFG_AUTOBIND : Fld := ⟨.TRD_PCFG, 15, 15⟩
abbrev TRD_PCFG_AUTODRAW : Fld := ⟨.TRD_PCFG, 14, 14⟩
abbrev TRD_PCFG_SHEAF_LSB : Fld := ⟨.TRD_PCFG, 13, 13⟩
abbrev TRD_PCFG_SKEIN_LSB : Fld := ⟨.TRD_PCFG, 12, 12⟩
abbrev TRD_PCFG_INSEL : Fld := ⟨.TRD_PCFG, 11, 0⟩
abbrev TRD_DIV_INT : Fld := ⟨.TRD_DIV, 23, 8⟩
abbrev TRD_DIV_FRAC : Fld := ⟨.TRD_DIV, 7, 0⟩
abbrev TRD_CNT_RELOAD : Fld := ⟨.TRD_CNT, 31, 16⟩
abbrev TRD_CNT_COUNT : Fld := ⟨.TRD_CNT, 15, 0⟩
abbrev TRD_CMD_FLUSH : Fld := ⟨.TRD_CMD, 1, 1⟩
abbrev TRD_CMD_COMMIT : Fld := ⟨.TRD_CMD, 0, 0⟩
abbrev TRD_STAT_STATE : Fld := ⟨.TRD_STAT, 31, 26⟩
abbrev TRD_STAT_IN : Fld := ⟨.TRD_STAT, 25, 22⟩
abbrev TRD_STAT_OUT : Fld := ⟨.TRD_STAT, 21, 18⟩
abbrev TRD_STAT_SHC : Fld := ⟨.TRD_STAT, 17, 12⟩
abbrev TRD_STAT_SKC : Fld := ⟨.TRD_STAT, 11, 6⟩
abbrev TRD_STAT_CHANGED_IN_STALL : Fld := ⟨.TRD_STAT, 5, 5⟩
abbrev TRD_STAT_OVERRUN : Fld := ⟨.TRD_STAT, 4, 4⟩
abbrev TRD_STAT_UNDERRUN : Fld := ⟨.TRD_STAT, 3, 3⟩
abbrev TRD_STAT_EVT : Fld := ⟨.TRD_STAT, 2, 2⟩
abbrev TRD_STAT_STALLED : Fld := ⟨.TRD_STAT, 1, 1⟩
abbrev TRD_STAT_RUN : Fld := ⟨.TRD_STAT, 0, 0⟩
abbrev TRD_FIFO_TXDROP : Fld := ⟨.TRD_FIFO, 31, 31⟩
abbrev TRD_FIFO_RXEMPTY : Fld := ⟨.TRD_FIFO, 30, 30⟩
abbrev TRD_FIFO_EMPTY : Fld := ⟨.TRD_FIFO, 8, 8⟩
abbrev TRD_FIFO_RXLEVEL : Fld := ⟨.TRD_FIFO, 7, 4⟩
abbrev TRD_FIFO_TXLEVEL : Fld := ⟨.TRD_FIFO, 3, 0⟩
abbrev TRD_TXF_DATA : Fld := ⟨.TRD_TXF, 31, 0⟩
abbrev TRD_RXF_DATA : Fld := ⟨.TRD_RXF, 31, 0⟩
abbrev TRD_SHEAF_BITS : Fld := ⟨.TRD_SHEAF, 31, 0⟩
abbrev TRD_SKEIN_BITS : Fld := ⟨.TRD_SKEIN, 31, 0⟩
abbrev TRD_OWN_OWNER : Fld := ⟨.TRD_OWN, 2, 0⟩
abbrev TRD_LUT_ENTRY : Fld := ⟨.TRD_LUT, 31, 0⟩
abbrev TMR_CTL_PIC : Fld := ⟨.TMR_CTL, 31, 28⟩
abbrev TMR_CTL_PRE : Fld := ⟨.TMR_CTL, 27, 24⟩
abbrev TMR_CTL_HALTSRC : Fld := ⟨.TMR_CTL, 22, 20⟩
abbrev TMR_CTL_CAPEV : Fld := ⟨.TMR_CTL, 19, 18⟩
abbrev TMR_CTL_MIE : Fld := ⟨.TMR_CTL, 17, 17⟩
abbrev TMR_CTL_LINK : Fld := ⟨.TMR_CTL, 16, 16⟩
abbrev TMR_CTL_CLR : Fld := ⟨.TMR_CTL, 2, 2⟩
abbrev TMR_CTL_STOP : Fld := ⟨.TMR_CTL, 1, 1⟩
abbrev TMR_CTL_ARM : Fld := ⟨.TMR_CTL, 0, 0⟩
abbrev TMR_STAT_DWELL : Fld := ⟨.TMR_STAT, 7, 7⟩
abbrev TMR_STAT_LF : Fld := ⟨.TMR_STAT, 6, 6⟩
abbrev TMR_STAT_CAPOVR : Fld := ⟨.TMR_STAT, 5, 5⟩
abbrev TMR_STAT_CAPF_V : Fld := ⟨.TMR_STAT, 4, 4⟩
abbrev TMR_STAT_CAPR_V : Fld := ⟨.TMR_STAT, 3, 3⟩
abbrev TMR_STAT_MISSED : Fld := ⟨.TMR_STAT, 2, 2⟩
abbrev TMR_STAT_MATCH : Fld := ⟨.TMR_STAT, 1, 1⟩
abbrev TMR_STAT_RUN : Fld := ⟨.TMR_STAT, 0, 0⟩
abbrev TMR_CNT_CNT : Fld := ⟨.TMR_CNT, 31, 0⟩
abbrev TMR_CMP_CMP : Fld := ⟨.TMR_CMP, 31, 0⟩
abbrev TMR_CAPR_CAPR : Fld := ⟨.TMR_CAPR, 31, 0⟩
abbrev TMR_CAPF_CAPF : Fld := ⟨.TMR_CAPF, 31, 0⟩
abbrev TMR_PAIR_PAIR : Fld := ⟨.TMR_PAIR, 63, 0⟩
abbrev TMR_OWN_OWNER : Fld := ⟨.TMR_OWN, 2, 0⟩
abbrev RVE_CTL_DBG_EN : Fld := ⟨.RVE_CTL, 3, 3⟩
abbrev RVE_CTL_PRED_OFF : Fld := ⟨.RVE_CTL, 2, 2⟩
abbrev RVE_CTL_BMODE : Fld := ⟨.RVE_CTL, 1, 1⟩
abbrev RVE_CTL_HALT : Fld := ⟨.RVE_CTL, 0, 0⟩
abbrev RVE_STAT_DZCNT : Fld := ⟨.RVE_STAT, 31, 16⟩
abbrev RVE_STAT_HALTED : Fld := ⟨.RVE_STAT, 0, 0⟩
abbrev RVE_EPC_EPC : Fld := ⟨.RVE_EPC, 31, 0⟩
abbrev RVE_EXC_SFL : Fld := ⟨.RVE_EXC, 31, 24⟩
abbrev RVE_EXC_BD : Fld := ⟨.RVE_EXC, 8, 8⟩
abbrev RVE_EXC_CAUSE : Fld := ⟨.RVE_EXC, 7, 0⟩
abbrev RVE_VEC_VEC : Fld := ⟨.RVE_VEC, 31, 2⟩
abbrev RVE_PERF_CORRECT : Fld := ⟨.RVE_PERF, 63, 32⟩
abbrev RVE_PERF_WRONG : Fld := ⟨.RVE_PERF, 31, 0⟩
abbrev RVE_IRQ_PARISH : Fld := ⟨.RVE_IRQ, 15, 0⟩
abbrev RVE_WIN_BASE : Fld := ⟨.RVE_WIN, 47, 20⟩
abbrev RVE_WIN_EN : Fld := ⟨.RVE_WIN, 0, 0⟩
abbrev RVE_FW_SRC_ADDR : Fld := ⟨.RVE_FW_SRC, 63, 3⟩
abbrev RVE_FW_SRC_SPACE : Fld := ⟨.RVE_FW_SRC, 0, 0⟩
abbrev RVE_FW_LEN_LEN : Fld := ⟨.RVE_FW_LEN, 31, 0⟩
abbrev RVE_FW_CMD_VEC : Fld := ⟨.RVE_FW_CMD, 15, 4⟩
abbrev RVE_FW_CMD_OP : Fld := ⟨.RVE_FW_CMD, 3, 0⟩
abbrev RVE_FW_CTL_ACTIVE : Fld := ⟨.RVE_FW_CTL, 2, 2⟩
abbrev RVE_FW_CTL_ACK : Fld := ⟨.RVE_FW_CTL, 1, 1⟩
abbrev RVE_FW_CTL_REQ : Fld := ⟨.RVE_FW_CTL, 0, 0⟩
abbrev RVE_FW_STAT_STATE : Fld := ⟨.RVE_FW_STAT, 31, 30⟩
abbrev RVE_FW_STAT_CODE : Fld := ⟨.RVE_FW_STAT, 7, 0⟩
abbrev SBD_CFG_ADDR : Fld := ⟨.SBD_CFG, 22, 16⟩
abbrev SBD_CFG_EIDV : Fld := ⟨.SBD_CFG, 8, 8⟩
abbrev SBD_CFG_EID : Fld := ⟨.SBD_CFG, 7, 0⟩
abbrev SBD_STAT_TIMEOUT : Fld := ⟨.SBD_STAT, 2, 2⟩
abbrev SBD_STAT_BADCMD : Fld := ⟨.SBD_STAT, 1, 1⟩
abbrev SBD_STAT_PEC : Fld := ⟨.SBD_STAT, 0, 0⟩
abbrev SBD_CNT_XFERS : Fld := ⟨.SBD_CNT, 31, 0⟩
abbrev BEL_CTL_SRC : Fld := ⟨.BEL_CTL, 7, 6⟩
abbrev BEL_CTL_PRESET : Fld := ⟨.BEL_CTL, 2, 1⟩
abbrev BEL_CTL_EN : Fld := ⟨.BEL_CTL, 0, 0⟩
abbrev BEL_PERIOD_NS : Fld := ⟨.BEL_PERIOD, 63, 32⟩
abbrev BEL_PERIOD_FRAC : Fld := ⟨.BEL_PERIOD, 31, 0⟩
abbrev BEL_COUNT_COUNT : Fld := ⟨.BEL_COUNT, 63, 0⟩
abbrev BEL_STAT_LOCK_LOST : Fld := ⟨.BEL_STAT, 2, 2⟩
abbrev BEL_STAT_LOCKED : Fld := ⟨.BEL_STAT, 1, 1⟩
abbrev BEL_STAT_RATE_REJ : Fld := ⟨.BEL_STAT, 0, 0⟩
abbrev BEL_PACE_PACE : Fld := ⟨.BEL_PACE, 7, 0⟩
abbrev LOM_UC_VER_HASH : Fld := ⟨.LOM_UC_VER, 63, 32⟩
abbrev LOM_UC_VER_VER : Fld := ⟨.LOM_UC_VER, 31, 0⟩
abbrev LOM_UC_STG_HASH : Fld := ⟨.LOM_UC_STG, 63, 32⟩
abbrev LOM_UC_STG_VER : Fld := ⟨.LOM_UC_STG, 31, 0⟩
abbrev LOM_UC_PATCH_LEVEL : Fld := ⟨.LOM_UC_PATCH, 15, 0⟩
abbrev LOM_CTL_SLICE : Fld := ⟨.LOM_CTL, 15, 8⟩
abbrev LOM_CTL_PRECISE : Fld := ⟨.LOM_CTL, 0, 0⟩
abbrev LOM_STAT_STOPPED : Fld := ⟨.LOM_STAT, 31, 31⟩
abbrev LOM_STAT_STATE : Fld := ⟨.LOM_STAT, 26, 24⟩
abbrev LOM_STAT_CAUSE : Fld := ⟨.LOM_STAT, 23, 16⟩
abbrev LOM_STAT_VALID : Fld := ⟨.LOM_STAT, 8, 8⟩
abbrev LOM_STAT_CTX : Fld := ⟨.LOM_STAT, 7, 0⟩
abbrev LOM_CNT_YIELD_YIELD : Fld := ⟨.LOM_CNT_YIELD, 31, 0⟩
abbrev LOM_PC_WAYS_OWNER : Fld := ⟨.LOM_PC_WAYS, 63, 0⟩
abbrev RLF_LUM_CTL_THR : Fld := ⟨.RLF_LUM_CTL, 25, 16⟩
abbrev RLF_LUM_CTL_AREA : Fld := ⟨.RLF_LUM_CTL, 6, 0⟩
abbrev RLF_CNT_SKIP_SKIP : Fld := ⟨.RLF_CNT_SKIP, 63, 0⟩
abbrev RLF_CNT_REFUSED_REFUSED : Fld := ⟨.RLF_CNT_REFUSED, 31, 0⟩
abbrev RLF_CNT_LBCORR_LBCORR : Fld := ⟨.RLF_CNT_LBCORR, 31, 0⟩
abbrev CHR_CTL_LAT : Fld := ⟨.CHR_CTL, 3, 0⟩
abbrev CHR_MIXPOS_POS : Fld := ⟨.CHR_MIXPOS, 63, 0⟩
abbrev CHR_CNT_LATE_LATE : Fld := ⟨.CHR_CNT_LATE, 31, 0⟩
abbrev CHR_CNT_CORR_CORR : Fld := ⟨.CHR_CNT_CORR, 31, 0⟩
abbrev CHR_RT_PENDING : Fld := ⟨.CHR_RT, 31, 31⟩
abbrev CHR_RT_BUSY : Fld := ⟨.CHR_RT, 30, 30⟩
abbrev CHR_RT_GAIN : Fld := ⟨.CHR_RT, 28, 16⟩
abbrev CHR_RT_SINK : Fld := ⟨.CHR_RT, 7, 0⟩
abbrev ARB_W_CHS : Fld := ⟨.ARB_W, 47, 40⟩
abbrev ARB_W_CAR : Fld := ⟨.ARB_W, 39, 32⟩
abbrev ARB_W_GRN : Fld := ⟨.ARB_W, 31, 24⟩
abbrev ARB_W_CHR : Fld := ⟨.ARB_W, 23, 16⟩
abbrev ARB_W_HOB : Fld := ⟨.ARB_W, 15, 8⟩
abbrev ARB_W_LOM : Fld := ⟨.ARB_W, 7, 0⟩
abbrev ARB_AGE_N : Fld := ⟨.ARB_AGE, 6, 0⟩
abbrev ARB_URG_THR_THR : Fld := ⟨.ARB_URG_THR, 15, 0⟩
abbrev ARB_URG_STAT_REP : Fld := ⟨.ARB_URG_STAT, 8, 8⟩
abbrev ARB_URG_STAT_URG : Fld := ⟨.ARB_URG_STAT, 5, 0⟩
abbrev ARB_CNT_URG_URG : Fld := ⟨.ARB_CNT_URG, 31, 0⟩
abbrev ARB_CNT_DEAD_DEAD : Fld := ⟨.ARB_CNT_DEAD, 31, 0⟩
abbrev ARB_CNT_AGED_AGED : Fld := ⟨.ARB_CNT_AGED, 31, 0⟩
abbrev ARB_TAGS_HWM : Fld := ⟨.ARB_TAGS, 28, 16⟩
abbrev ARB_TAGS_INUSE : Fld := ⟨.ARB_TAGS, 12, 0⟩
abbrev LRD_RET_BANK : Fld := ⟨.LRD_RET, 63, 0⟩
abbrev LRD_RETSTAT_BANK : Fld := ⟨.LRD_RETSTAT, 63, 0⟩
abbrev LRD_CNT_CONF_CONF : Fld := ⟨.LRD_CNT_CONF, 31, 0⟩
abbrev LRD_CNT_WAKE_WAKE : Fld := ⟨.LRD_CNT_WAKE, 31, 0⟩
abbrev LRD_CNT_CORR_CORR : Fld := ⟨.LRD_CNT_CORR, 31, 0⟩
abbrev LRD_ERR_POS_UNC : Fld := ⟨.LRD_ERR_POS, 31, 31⟩
abbrev LRD_ERR_POS_BANKNO : Fld := ⟨.LRD_ERR_POS, 19, 14⟩
abbrev LRD_ERR_POS_WORD : Fld := ⟨.LRD_ERR_POS, 13, 0⟩
abbrev CAR_RC_SRC_SRC : Fld := ⟨.CAR_RC_SRC, 63, 0⟩
abbrev CAR_RC_DST_DST : Fld := ⟨.CAR_RC_DST, 63, 0⟩
abbrev CAR_RC_CNT_CNT : Fld := ⟨.CAR_RC_CNT, 23, 0⟩
abbrev CAR_RC_CTL_STATE : Fld := ⟨.CAR_RC_CTL, 31, 29⟩
abbrev CAR_RC_CTL_QUEUE : Fld := ⟨.CAR_RC_CTL, 19, 16⟩
abbrev CAR_RC_CTL_CTX : Fld := ⟨.CAR_RC_CTL, 15, 4⟩
abbrev CAR_RC_CTL_ABORT : Fld := ⟨.CAR_RC_CTL, 1, 1⟩
abbrev CAR_RC_CTL_PAUSE : Fld := ⟨.CAR_RC_CTL, 0, 0⟩
abbrev CAR_CH_HEAD_HEAD : Fld := ⟨.CAR_CH_HEAD, 63, 0⟩
abbrev CAR_CH_CUR_CUR : Fld := ⟨.CAR_CH_CUR, 63, 0⟩
abbrev CAR_CH_SRC_SRC : Fld := ⟨.CAR_CH_SRC, 63, 0⟩
abbrev CAR_CH_DST_DST : Fld := ⟨.CAR_CH_DST, 63, 0⟩
abbrev CAR_CH_CNT_CNT : Fld := ⟨.CAR_CH_CNT, 31, 0⟩
abbrev CAR_CH_CTL_ABORT : Fld := ⟨.CAR_CH_CTL, 2, 2⟩
abbrev CAR_CH_CTL_PAUSE : Fld := ⟨.CAR_CH_CTL, 1, 1⟩
abbrev CAR_CH_CTL_RUN : Fld := ⟨.CAR_CH_CTL, 0, 0⟩
abbrev CAR_CH_STAT_CODE : Fld := ⟨.CAR_CH_STAT, 15, 8⟩
abbrev CAR_CH_STAT_DBPEND : Fld := ⟨.CAR_CH_STAT, 3, 3⟩
abbrev CAR_CH_STAT_STATE : Fld := ⟨.CAR_CH_STAT, 2, 0⟩
abbrev CAR_CH_RING_RING : Fld := ⟨.CAR_CH_RING, 12, 0⟩
abbrev CAR_CH_DB_DB : Fld := ⟨.CAR_CH_DB, 31, 0⟩
abbrev CAR_CH_OWN_OWNER : Fld := ⟨.CAR_CH_OWN, 8, 0⟩
abbrev CAR_STAT_CAUSE : Fld := ⟨.CAR_STAT, 15, 8⟩
abbrev CAR_STAT_HALTED : Fld := ⟨.CAR_STAT, 0, 0⟩
abbrev CAR_CTL_RESUME : Fld := ⟨.CAR_CTL, 0, 0⟩
abbrev CAR_ERR_SPACE : Fld := ⟨.CAR_ERR, 63, 60⟩
abbrev CAR_ERR_KIND : Fld := ⟨.CAR_ERR, 59, 56⟩
abbrev CAR_ERR_ADDR : Fld := ⟨.CAR_ERR, 55, 0⟩
abbrev CHS_N_STAT_STATE : Fld := ⟨.CHS_N_STAT, 31, 29⟩
abbrev CHS_N_STAT_CTX : Fld := ⟨.CHS_N_STAT, 11, 0⟩
abbrev CHS_N_DEAD_DEAD : Fld := ⟨.CHS_N_DEAD, 7, 0⟩
abbrev CHS_N_CNT_DONE : Fld := ⟨.CHS_N_CNT, 31, 0⟩
abbrev CHS_P_OWN_REEVE : Fld := ⟨.CHS_P_OWN, 9, 9⟩
abbrev CHS_P_OWN_PORT : Fld := ⟨.CHS_P_OWN, 8, 8⟩
abbrev CHS_P_SRC_ADDR : Fld := ⟨.CHS_P_SRC, 63, 0⟩
abbrev CHS_P_DST_ADDR : Fld := ⟨.CHS_P_DST, 63, 0⟩
abbrev CHS_P_PITCH_DPITCH : Fld := ⟨.CHS_P_PITCH, 31, 16⟩
abbrev CHS_P_PITCH_SPITCH : Fld := ⟨.CHS_P_PITCH, 15, 0⟩
abbrev CHS_P_SPOS_SY : Fld := ⟨.CHS_P_SPOS, 26, 16⟩
abbrev CHS_P_SPOS_SX : Fld := ⟨.CHS_P_SPOS, 10, 0⟩
abbrev CHS_P_DPOS_DY : Fld := ⟨.CHS_P_DPOS, 26, 16⟩
abbrev CHS_P_DPOS_DX : Fld := ⟨.CHS_P_DPOS, 10, 0⟩
abbrev CHS_P_SIZE_H : Fld := ⟨.CHS_P_SIZE, 26, 16⟩
abbrev CHS_P_SIZE_W : Fld := ⟨.CHS_P_SIZE, 10, 0⟩
abbrev CHS_P_END_EY : Fld := ⟨.CHS_P_END, 26, 16⟩
abbrev CHS_P_END_EX : Fld := ⟨.CHS_P_END, 10, 0⟩
abbrev CHS_P_COLOR_COLOR : Fld := ⟨.CHS_P_COLOR, 31, 0⟩
abbrev CHS_P_KEY_KEY : Fld := ⟨.CHS_P_KEY, 31, 0⟩
abbrev CHS_P_CLIP0_EN : Fld := ⟨.CHS_P_CLIP0, 31, 31⟩
abbrev CHS_P_CLIP0_MODE : Fld := ⟨.CHS_P_CLIP0, 30, 30⟩
abbrev CHS_P_CLIP0_Y0 : Fld := ⟨.CHS_P_CLIP0, 26, 16⟩
abbrev CHS_P_CLIP0_X0 : Fld := ⟨.CHS_P_CLIP0, 10, 0⟩
abbrev CHS_P_CLIP1_Y1 : Fld := ⟨.CHS_P_CLIP1, 26, 16⟩
abbrev CHS_P_CLIP1_X1 : Fld := ⟨.CHS_P_CLIP1, 10, 0⟩
abbrev CHS_P_CTL_ROP : Fld := ⟨.CHS_P_CTL, 15, 12⟩
abbrev CHS_P_CTL_FMT : Fld := ⟨.CHS_P_CTL, 11, 9⟩
abbrev CHS_P_CTL_KEYEN : Fld := ⟨.CHS_P_CTL, 8, 8⟩
abbrev CHS_P_CTL_YDIR : Fld := ⟨.CHS_P_CTL, 6, 6⟩
abbrev CHS_P_CTL_XDIR : Fld := ⟨.CHS_P_CTL, 5, 5⟩
abbrev CHS_P_CTL_OP : Fld := ⟨.CHS_P_CTL, 2, 1⟩
abbrev CHS_P_CTL_START : Fld := ⟨.CHS_P_CTL, 0, 0⟩
abbrev CHS_P_STAT_STATE : Fld := ⟨.CHS_P_STAT, 31, 29⟩
abbrev CHS_P_STAT_ERR : Fld := ⟨.CHS_P_STAT, 7, 0⟩
abbrev CHS_P_CFG_VEC : Fld := ⟨.CHS_P_CFG, 31, 20⟩
abbrev CHS_P_CFG_DEAD : Fld := ⟨.CHS_P_CFG, 7, 0⟩
abbrev PIC_PEND_PEND : Fld := ⟨.PIC_PEND, 31, 0⟩
abbrev PIC_EN_EN : Fld := ⟨.PIC_EN, 31, 0⟩
abbrev PIC_TAKE_TAKE : Fld := ⟨.PIC_TAKE, 31, 0⟩
abbrev PIC_ACT_ACT : Fld := ⟨.PIC_ACT, 31, 0⟩
abbrev PIC_SET_SET : Fld := ⟨.PIC_SET, 31, 0⟩
abbrev PIC_LVL_LVL : Fld := ⟨.PIC_LVL, 31, 0⟩
abbrev PIC_TGT_MASK : Fld := ⟨.PIC_TGT, 31, 0⟩
abbrev PIC_MSIX_EN : Fld := ⟨.PIC_MSIX, 31, 31⟩
abbrev PIC_MSIX_PORT : Fld := ⟨.PIC_MSIX, 16, 16⟩
abbrev PIC_MSIX_VEC : Fld := ⟨.PIC_MSIX, 10, 0⟩
abbrev PIC_RR_LAST : Fld := ⟨.PIC_RR, 2, 0⟩
abbrev PIC_VWIN_WIN : Fld := ⟨.PIC_VWIN, 15, 0⟩
abbrev PIC_VANISHED_VANISHED : Fld := ⟨.PIC_VANISHED, 31, 0⟩
abbrev GRN_CMAP_SRC : Fld := ⟨.GRN_CMAP, 61, 36⟩
abbrev GRN_CMAP_FRAME : Fld := ⟨.GRN_CMAP, 35, 20⟩
abbrev GRN_CMAP_RES : Fld := ⟨.GRN_CMAP, 2, 2⟩
abbrev GRN_CMAP_KIND : Fld := ⟨.GRN_CMAP, 1, 0⟩
abbrev GRN_CVRAM_FRAME : Fld := ⟨.GRN_CVRAM, 35, 20⟩
abbrev GRN_CVRAM_RES : Fld := ⟨.GRN_CVRAM, 2, 2⟩
abbrev GRN_CSTAT_CAUSE : Fld := ⟨.GRN_CSTAT, 31, 24⟩
abbrev GRN_CSTAT_ADM_WAIT : Fld := ⟨.GRN_CSTAT, 3, 3⟩
abbrev GRN_CSTAT_ADM_REJ : Fld := ⟨.GRN_CSTAT, 2, 2⟩
abbrev GRN_CSTAT_POISONED : Fld := ⟨.GRN_CSTAT, 1, 1⟩
abbrev GRN_CSTAT_EXHAUST : Fld := ⟨.GRN_CSTAT, 0, 0⟩
abbrev GRN_CCNT_COW : Fld := ⟨.GRN_CCNT, 31, 16⟩
abbrev GRN_CCNT_PAGEIN : Fld := ⟨.GRN_CCNT, 15, 0⟩
abbrev COT_CTL_PUB : Fld := ⟨.COT_CTL, 4, 4⟩
abbrev COT_CTL_HALT : Fld := ⟨.COT_CTL, 2, 2⟩
abbrev COT_CTL_RST : Fld := ⟨.COT_CTL, 1, 1⟩
abbrev COT_CTL_RUN : Fld := ⟨.COT_CTL, 0, 0⟩
abbrev COT_STATE_STATE : Fld := ⟨.COT_STATE, 3, 0⟩
abbrev COT_BEAM_FRAME : Fld := ⟨.COT_BEAM, 63, 32⟩
abbrev COT_BEAM_PARITY : Fld := ⟨.COT_BEAM, 22, 22⟩
abbrev COT_BEAM_LINE : Fld := ⟨.COT_BEAM, 21, 12⟩
abbrev COT_BEAM_CYCLE : Fld := ⟨.COT_BEAM, 11, 0⟩
abbrev COT_BELL_OFS_OFS : Fld := ⟨.COT_BELL_OFS, 63, 0⟩
abbrev COT_CNT_LATE_LATE : Fld := ⟨.COT_CNT_LATE, 31, 0⟩
abbrev COT_CNT_BWAIT_BWAIT : Fld := ⟨.COT_CNT_BWAIT, 31, 0⟩
abbrev COT_CNT_DHOLD_PARITY : Fld := ⟨.COT_CNT_DHOLD, 31, 16⟩
abbrev COT_CNT_DHOLD_FULL : Fld := ⟨.COT_CNT_DHOLD, 15, 0⟩
abbrev COT_CNT_LATEIN_LATEIN : Fld := ⟨.COT_CNT_LATEIN, 31, 0⟩
abbrev COT_IN_TGT_PORT : Fld := ⟨.COT_IN_TGT, 47, 44⟩
abbrev COT_IN_TGT_LINE : Fld := ⟨.COT_IN_TGT, 41, 32⟩
abbrev COT_IN_TGT_FRAME : Fld := ⟨.COT_IN_TGT, 31, 0⟩
abbrev COT_IN_VAL_VALUE : Fld := ⟨.COT_IN_VAL, 31, 0⟩
abbrev COT_IN_STAT_LEVEL : Fld := ⟨.COT_IN_STAT, 13, 8⟩
abbrev COT_IN_STAT_OVF : Fld := ⟨.COT_IN_STAT, 1, 1⟩
abbrev COT_IN_STAT_ORDER : Fld := ⟨.COT_IN_STAT, 0, 0⟩
abbrev TLY_STAT_FILL : Fld := ⟨.TLY_STAT, 25, 16⟩
abbrev TLY_STAT_NEXTSEQ : Fld := ⟨.TLY_STAT, 11, 0⟩
abbrev TLY_HWM_HWM : Fld := ⟨.TLY_HWM, 9, 0⟩
abbrev COT_ARITH_DZ_REP : Fld := ⟨.COT_ARITH, 31, 31⟩
abbrev COT_ARITH_DZCNT : Fld := ⟨.COT_ARITH, 15, 0⟩
abbrev COT_FAULT_PC : Fld := ⟨.COT_FAULT, 63, 32⟩
abbrev COT_FAULT_CAUSE : Fld := ⟨.COT_FAULT, 31, 24⟩
abbrev COT_FAULT_STAMP : Fld := ⟨.COT_FAULT, 23, 0⟩
abbrev COT_PERF_COUNT : Fld := ⟨.COT_PERF, 31, 0⟩
abbrev RLF_LSTAT_FRAME : Fld := ⟨.RLF_LSTAT, 63, 32⟩
abbrev RLF_LSTAT_VALID : Fld := ⟨.RLF_LSTAT, 31, 31⟩
abbrev RLF_LSTAT_FIRST : Fld := ⟨.RLF_LSTAT, 30, 30⟩
abbrev RLF_LSTAT_FLASH : Fld := ⟨.RLF_LSTAT, 29, 29⟩
abbrev RLF_LSTAT_MAXD : Fld := ⟨.RLF_LSTAT, 25, 16⟩
abbrev RLF_LSTAT_MEAN : Fld := ⟨.RLF_LSTAT, 9, 0⟩
abbrev RLF_LCNT_FRAME : Fld := ⟨.RLF_LCNT, 31, 16⟩
abbrev RLF_LCNT_DOWN : Fld := ⟨.RLF_LCNT, 14, 8⟩
abbrev RLF_LCNT_UP : Fld := ⟨.RLF_LCNT, 6, 0⟩
abbrev RLF_FLASHCNT_FLASH : Fld := ⟨.RLF_FLASHCNT, 31, 0⟩
abbrev COT_G_G : Fld := ⟨.COT_G, 31, 0⟩
abbrev COT_SP_SP : Fld := ⟨.COT_SP, 31, 0⟩
abbrev COT_PC_PC : Fld := ⟨.COT_PC, 31, 0⟩
abbrev COT_FL_FL : Fld := ⟨.COT_FL, 31, 0⟩
abbrev POR_S0_CTL_RING : Fld := ⟨.POR_S0_CTL, 31, 16⟩
abbrev POR_S0_CTL_I8PAL : Fld := ⟨.POR_S0_CTL, 15, 12⟩
abbrev POR_S0_CTL_CSC : Fld := ⟨.POR_S0_CTL, 9, 8⟩
abbrev POR_S0_CTL_FMT : Fld := ⟨.POR_S0_CTL, 7, 5⟩
abbrev POR_S0_CTL_REFRESH : Fld := ⟨.POR_S0_CTL, 1, 1⟩
abbrev POR_S0_CTL_EN : Fld := ⟨.POR_S0_CTL, 0, 0⟩
abbrev POR_S0_STAT_NEXTSEQ : Fld := ⟨.POR_S0_STAT, 31, 16⟩
abbrev POR_S0_STAT_RING_ERR : Fld := ⟨.POR_S0_STAT, 3, 3⟩
abbrev POR_S0_STAT_GAP : Fld := ⟨.POR_S0_STAT, 2, 2⟩
abbrev POR_S0_STAT_OUT_LATE : Fld := ⟨.POR_S0_STAT, 1, 1⟩
abbrev POR_S0_STAT_STOPPED : Fld := ⟨.POR_S0_STAT, 0, 0⟩
abbrev CHR_S_CTL_RING : Fld := ⟨.CHR_S_CTL, 31, 16⟩
abbrev CHR_S_CTL_EN : Fld := ⟨.CHR_S_CTL, 0, 0⟩
abbrev CHR_S_STAT_NEXTSEQ : Fld := ⟨.CHR_S_STAT, 31, 16⟩
abbrev CHR_S_STAT_RING_ERR : Fld := ⟨.CHR_S_STAT, 3, 3⟩
abbrev CHR_S_STAT_GAP : Fld := ⟨.CHR_S_STAT, 2, 2⟩
abbrev CHR_S_STAT_LATE : Fld := ⟨.CHR_S_STAT, 1, 1⟩
abbrev CHR_S_STAT_STOPPED : Fld := ⟨.CHR_S_STAT, 0, 0⟩
abbrev CHR_BUS_SUBSONIC : Fld := ⟨.CHR_BUS, 31, 31⟩
abbrev CHR_BUS_RAMP : Fld := ⟨.CHR_BUS, 21, 16⟩
abbrev CHR_BUS_BGAIN : Fld := ⟨.CHR_BUS, 12, 0⟩
abbrev CHR_VSTAT_JSTALL : Fld := ⟨.CHR_VSTAT, 31, 16⟩
abbrev CHR_VSTAT_VFAULT : Fld := ⟨.CHR_VSTAT, 15, 8⟩
abbrev CHR_VSTAT_JFILL : Fld := ⟨.CHR_VSTAT, 4, 0⟩
abbrev CHR_S_BLOCK_BLOCK : Fld := ⟨.CHR_S_BLOCK, 63, 0⟩
abbrev HAY_CMD_VEC : Fld := ⟨.HAY_CMD, 27, 16⟩
abbrev HAY_CMD_SLOT : Fld := ⟨.HAY_CMD, 6, 4⟩
abbrev HAY_CMD_OP : Fld := ⟨.HAY_CMD, 3, 0⟩
abbrev HAY_STAT_PENDING : Fld := ⟨.HAY_STAT, 31, 31⟩
abbrev HAY_STAT_ACTIVE : Fld := ⟨.HAY_STAT, 30, 30⟩
abbrev HAY_STAT_CODE : Fld := ⟨.HAY_STAT, 7, 0⟩
abbrev HAY_XADDR_ADDR : Fld := ⟨.HAY_XADDR, 63, 3⟩
abbrev HAY_XADDR_SPACE : Fld := ⟨.HAY_XADDR, 0, 0⟩
abbrev HAY_XLEN_LEN : Fld := ⟨.HAY_XLEN, 31, 0⟩
abbrev HAY_SLOTS_VALID : Fld := ⟨.HAY_SLOTS, 7, 0⟩
abbrev HAY_SFRAME_FRAME : Fld := ⟨.HAY_SFRAME, 31, 0⟩
end F

end Sys2Proof.Machine
end

