-- ==== Sys2Proof/Machine/Sparse.lean ====
section
/-!
DEFINITION. Finite maps held as sorted lists: the one canonical form of every sparse table of State (registers,
memory, cottages, frames). Keys rise strictly by `lt`, and no entry equals what an unlisted key reads as, so equal
maps are equal lists. -/

namespace Sys2Proof.Machine

/-- A table from `κ` to `α`; what an unlisted key reads as is given at each use. -/
abbrev Table (κ α : Type) := List (κ × α)

/-- A table keyed by numbers. -/
abbrev NTable (α : Type) := Table Nat α

/-- Reads key `k`; `d` is what an unlisted key reads as. -/
def Table.get {κ α : Type} [DecidableEq κ] (d : α) : Table κ α → κ → α
  | [], _ => d
  | (k', v) :: m, k => if k' = k then v else Table.get d m k

/-- Stores at key `k`, in the order of `lt`. -/
def Table.put {κ α : Type} [DecidableEq κ] (lt : κ → κ → Bool) : Table κ α → κ → α → Table κ α
  | [], k, v => [(k, v)]
  | (k', v') :: m, k, v =>
    if k' = k then (k, v) :: m
    else if lt k k' then (k, v) :: (k', v') :: m
    else (k', v') :: Table.put lt m k v

/-- Forgets key `k`. -/
def Table.erase {κ α : Type} [DecidableEq κ] (m : Table κ α) (k : κ) : Table κ α :=
  m.filter fun e => e.1 ≠ k

/-- Writes key `k`, keeping the canonical form: the value an unlisted key reads as is not listed. -/
def Table.set {κ α : Type} [DecidableEq κ] [DecidableEq α] (lt : κ → κ → Bool) (d : α) (m : Table κ α) (k : κ)
    (v : α) : Table κ α :=
  if v = d then m.erase k else m.put lt k v

/-- Reads a numbered entry. -/
def NTable.get {α : Type} (d : α) (m : NTable α) (k : Nat) : α := Table.get d m k

/-- Writes a numbered entry. -/
def NTable.set {α : Type} [DecidableEq α] (d : α) (m : NTable α) (k : Nat) (v : α) : NTable α :=
  Table.set Nat.blt d m k v

/-- The canonical form, as a test. -/
def Table.wf {κ α : Type} [DecidableEq α] (lt : κ → κ → Bool) (dflt : κ → α) : Table κ α → Bool
  | [] => true
  | (k, v) :: m => (m.all fun e => lt k e.1) && decide (v ≠ dflt k) && Table.wf lt dflt m

end Sys2Proof.Machine
end

