-- ==== Sys2Proof/Machine/Parts.lean ====
section
/-!
DEFINITION. The parts of the machine's state, as plain data: the records that State collects. Registers of BAR0 that
hold no more than software and hardware store in them live in one register table; everything else has a record here.
Each field's rule and reset value stand in INVENTORY.md. -/

namespace Sys2Proof.Machine

/-! ### Stamps, the Tally and input (R17, R18, R37, R47) -/

/-- A beam position: frame and virtual cycle of the frame (R17); line and cycle follow from the class's VCPL. The frame is
counted without bound, so that stamps compare across the wrap of the 32-bit count that every view of it shows (R16). -/
structure Stamp where
  frame : Nat
  vc : Nat
  deriving DecidableEq, Repr, Inhabited

/-- The kinds of Tally entry (R37). -/
inductive TallyKind where
  | videoReg | palette | vramWord | vramBytes | marker
  deriving DecidableEq, Repr

/-- A Tally entry (R37), its stamp kept as frame and virtual cycle. -/
structure TallyEntry where
  value : Word
  seq : Nat
  mask : BitVec 4
  addr : Nat
  kind : TallyKind
  stamp : Stamp
  deriving DecidableEq, Repr

/-- An input event in the queue (R47, R48): its port and value, target, applied stamp and sequence number. -/
structure InputEvent where
  port : Nat
  value : Word
  tgtFrame : Nat
  tgtLine : Nat
  applied : Stamp
  deriving DecidableEq, Repr

/-! ### The Hob (R92) -/

/-- What a pending write changes (R115). -/
inductive Target where
  | g (n : BitVec 4)
  | fl
  | sp
  deriving DecidableEq, Repr

/-- A pending write (R113 to R115): it lands when `dist` instructions of the context have issued after its own;
`mask` says which bits it changes, `orBits` are bits it only sets. -/
structure PendingWrite where
  target : Target
  dist : Nat
  mask : Word
  value : Word
  orBits : Word
  deriving DecidableEq, Repr

/-- A context's processor state (R92), with its prediction tables (R127, R128) and the delay-slot state of a Reeve
core (R130). -/
structure Hob where
  g : Vector Word 16
  sp : Word
  pc : Word
  fl : Word
  queue : List PendingWrite
  barred : Bool
  dirTable : NTable Nat
  indTable : NTable Word
  hist : Nat
  deriving DecidableEq, Repr

/-- A context after reset (R94); prediction tables empty (log entry 6). -/
def Hob.reset : Hob :=
  { g := Vector.replicate 16 0, sp := 0, pc := 0, fl := 0, queue := [], barred := false, dirTable := [],
    indTable := [], hist := 0 }

/-- A transfer whose B-mode delay slot comes next (R130): its own address, where it goes after the slot if it is taken, and the
mode at that target (R131). -/
structure DelaySlot where
  transferPc : Word
  goesTo : Option Word
  bmode : Bool
  deriving DecidableEq, Repr

/-- A Reeve core beyond its RVE registers, one of which says halted (R136): the B-mode in force (R131), the transfer awaiting its slot,
and waiting in WFI. -/
structure Reeve where
  hob : Hob
  bmode : Bool
  slot : Option DelaySlot
  waiting : Bool
  deriving DecidableEq, Repr

/-! ### Cottages (R34) -/

/-- The context states (R34), in code order. -/
inductive CotState where
  | off | ready | run | miss | bwait | dhold | thold | snap | halt | cont
  deriving DecidableEq, Repr

/-- Why a context is in MISS, BWAIT or DHOLD (R42 to R44, R114, R161, R294, R298, R352): `cache` says whether the load missed L2
too, `beam` whether it waits for pixels; `ending` is a wait that is over, while the instruction it held completes. -/
inductive WaitFor where
  | none
  | cache (l2 : Bool)
  | ending (beam : Bool)
  | tallyFull
  | parity
  | granule (frame g : Nat)
  | transfer
  | beam (pixels : Bool)
  | frameStart
  deriving DecidableEq, Repr

/-- How far a context whose beam is at a frame start has come with what R35, R43, R22 and R161 make of it: nothing to do; all
of it to do; its parity hold over; its Bell passed, so that only the wait of R161 remains. -/
inductive StartStage where
  | none | arrived | held | begun
  deriving DecidableEq, Repr

/-- What the context view registers show of a processor (R135). -/
structure HobView where
  g : Vector Word 16
  sp : Word
  pc : Word
  fl : Word
  deriving DecidableEq, Repr

/-- The context and beam of a cottage (R16, R17, R34), its Tally and input (R37, R47). `issued` is the stamp of the
last instruction issued since the last reset or restore (R48); `held` is a load or store that a wait holds and that
completes when the wait ends (R42, R44, R114); `admitted` says the cottage has been admitted and not
left for OFF. `restored` says that a restore has replaced the beam since the last Bell; `beamWas` is the frame the beam
was in before. `start` is the stage of a frame start; `landed` says that the instruction at PC has issued and a wait has
interrupted its completion; `ahead` that the context became eligible with an earlier deadline than the one its core runs
(R30); `seen` is the processor as the context last left RUN (R135). -/
structure Context where
  st : CotState
  haltFrom : CotState
  start : StartStage
  landed : Bool
  ahead : Bool
  seen : HobView
  admitted : Bool
  restored : Bool
  beamWas : Nat
  frame : Nat
  vc : Nat
  bellOfs : DWord
  issued : Option Stamp
  hob : Hob
  wait : WaitFor
  held : Option Instr
  tally : List TallyEntry
  nextSeq : Nat
  inq : List InputEvent
  lastApplied : Option Stamp
  ports : Vector Word 16
  inSeq : Nat
  booting : Bool
  deriving DecidableEq, Repr

/-- A note of a frame-close (R223). -/
inductive Note where
  | input (port seq reqFrame reqLine appLine appFrame : Nat)
  | stats (first flash : Bool) (mean frame maxd up down : Nat)
  deriving DecidableEq, Repr

/-! ### Loom progress of a cottage (R138 to R162, R189 to R206) -/

/-- A sprite selected for a line (R156, R157): its index, left column, priority and the row's pixel values, already
flipped, none where the class lacks its depth; its width; palette and entry bank for depths below 16. -/
structure SpriteRow where
  index : Nat
  x : Int
  w : Nat
  pri : Nat
  depth : Nat
  pal : Nat
  bank : Nat
  pixels : List Nat
  deriving DecidableEq, Repr

/-- Where a cottage's next job stands: not started, parked, yielded, or on Loom j (stalled on a fill or a page-in if
`stalled`). -/
inductive JobPhase where
  | idle
  | parked
  | yielded
  | onLoom (j : Nat)
  | stalled (j : Nat)
  deriving DecidableEq, Repr

/-- The Loom side of a cottage: the job in progress or next (frame, line, next pixel), the register file and palettes
(R145), the latched values (R144), the selected sprites, the collision results (R159), whether the frame before had a
collision or a drop (R161), the Relief latches, and the notes of input events whose markers are still to be applied
(R50, R162). `parkedAt` is the stamp up to which a parked job has composed (R139), `latched` says that the line's latches are
taken, `skips` the layers skipped in the span in hand once that is judged (R187), `awaits` the granule of a video source that
a stalled job waits for (R198). -/
structure LoomState where
  frame : Nat
  line : Nat
  x : Nat
  phase : JobPhase
  parkedAt : Stamp
  latched : Bool
  skips : Option (List Nat)
  awaits : Option (Nat × Nat)
  vreg : NTable Word
  pal : NTable Nat
  lreg : NTable Word
  freg : NTable Word
  framePal : NTable Nat
  sprites : List SpriteRow
  coll : Nat
  collPrev : Bool
  collPos : Word
  ovfPos : Word
  hits : NTable Word
  vreason : List Nat
  markers : List Note
  deriving DecidableEq, Repr

/-- A Plinth set (R201, R202); `rgb` is the colour of PLN_FALLBACK. -/
structure PlinthSet where
  en : Bool
  rgb : Nat
  i8 : Bool
  base : Nat
  palBase : Nat
  x : Nat
  y : Nat
  w : Nat
  h : Nat
  pitch : Nat
  deriving DecidableEq, Repr

/-- The Plinth of a context (R205) and its luminance statistics (R206); `firstAt` is the frame of the latest admission, which
is compared with none before it. -/
structure ReliefState where
  pending : Option PlinthSet
  inUse : Option PlinthSet
  fallback : Bool
  zoneSum : NTable Nat
  total : Nat
  prevMeans : Option (List Nat)
  firstAt : Option Nat
  deriving DecidableEq, Repr

/-! ### Porch (R211 to R236) -/

/-- A cell composed after the freeze of its frame and not yet written as CARRIED (R229): its pixels, row by row, each with its
index tag. -/
structure HeldCell where
  cell : Nat
  frame : Nat
  px : List (Nat × Option (Nat × Nat))
  deriving DecidableEq, Repr

/-- The record set in progress on a stream (R219): the slot of its FRAME_OPEN, and the gap, discontinuity and palette that it
carries; the cells due in it and those written; its counts, the cells dropped for want of room, and OUT_LATE. -/
structure PorchSet where
  opened : Option Nat
  gap : Option (Nat × Nat × Nat)
  disc : Bool
  pal : Option (List Nat)
  due : List Nat
  sent : List Nat
  nreg : Nat
  ncell : Nat
  ncarried : Nat
  dropped : List Nat
  outLate : Bool
  deriving DecidableEq, Repr

/-- What waits for a stream's next frame (R231, R242): nothing, a resumption after a ring error, or a start. -/
inductive StreamStart where
  | none | resumes | starts
  deriving DecidableEq, Repr

/-- A picture stream's state beyond its registers (R214 to R231). `live` says EN is in force; ring, fmt, csc and i8pal are the
values in force, `start` and `moved` say that EN or another of them has been written since; `held` are cells still to be
carried, `set` is the set in progress; `gap` holds first, last and count of the frames owed as a gap. -/
structure Stream where
  live : Bool
  start : StreamStart
  moved : Bool
  ring : Nat
  fmt : Nat
  csc : Nat
  i8pal : Nat
  seq : Nat
  owed : List Nat
  held : List HeldCell
  set : PorchSet
  gap : Option (Nat × Nat × Nat)
  disc : Bool
  nvoid : Nat
  notes : List Note
  lastPal : Option (List Nat)
  deriving DecidableEq, Repr

/-- The Porch's state of a cottage: the reference image; the index tags of the cell row being composed; which of its
cells have changed and how many columns of it have gone to the sinks; the frame whose set is being built; the two
streams. -/
structure PorchState where
  ref : NTable Nat
  tags : List (Nat × Nat × Nat)
  changed : List Nat
  flushed : Nat
  next : Nat
  pub : Bool
  s0 : Stream
  s1 : Stream
  deriving DecidableEq, Repr

/-- An eDP port's state: link training under way, cells owed, cells due at the source's next publication, and the panel
line ranges awaiting a selective update, rising (R232 to R236). -/
structure EdpPort where
  training : Bool
  src : Nat
  owed : List Nat
  due : List Nat
  lines : List (Nat × Nat)
  deriving DecidableEq, Repr

/-- A record written into a ring and not yet flipped, in ring order (R217, R218, R229): its producer (cottage, and
stream 0 or 1 or the audio stream 2), type, frame of its set, first slot index and slot lengths, whether it
goes out as VOID, and whether its flip is due. -/
structure RingRec where
  cot : Nat
  stream : Nat
  type : Nat
  set : Nat
  first : Nat
  lens : List Nat
  void : Bool
  ready : Bool
  deriving DecidableEq, Repr

/-! ### Choir (R244 to R279) -/

/-- A voice (R254, R255): generator and gain state. `gl` and `gr` are target, start and effective gains with the ramp's
progress. -/
structure Voice where
  sounding : Bool
  keyed : Bool
  ended : Bool
  ph : Word
  opPh : List Word
  lastOp0 : Int
  lfsr : Nat
  pos : Nat
  decoded : Nat
  pred : Int
  stepIx : Int
  loopState : Option (Int × Int)
  el : Int
  er : Int
  startL : Int
  startR : Int
  tgtL : Int
  tgtR : Int
  rampK : Nat
  rampN : Nat
  deriving DecidableEq, Repr, Inhabited

/-- An entry of the voice journal (R246). -/
structure JournalEntry where
  addr : Nat
  value : Word
  stamp : Stamp
  deriving DecidableEq, Repr

/-- A TDM port beyond its registers (R271 to R274): stopped by a configuration change, stopped until the PLL locks, owing
a gap record on its resumption, the run of zero frames in progress (first frame and count), and the slots sent latest. -/
structure TdmPort where
  last : List Word
  stopped : Bool
  noClock : Bool
  resumes : Bool
  zeros : Option (Nat × Nat)
  deriving DecidableEq, Repr

/-- A route's change in progress or waiting (R265, R266). -/
structure RouteMove where
  oldSink : Nat
  oldGain : Nat
  newSink : Nat
  newGain : Nat
  start : Nat
  len : Nat
  deriving DecidableEq, Repr

/-- A voice bus sample that awaits its presentation at the bridge (R256, R259): its frame and number, left and right. -/
structure BusSample where
  frame : Nat
  n : Nat
  l : Int
  r : Int
  deriving DecidableEq, Repr

/-- The filters of one channel of a mix bus: the DC blocker's latest input and output (R261), the high-pass filter's two latest
inputs and outputs (R262). -/
structure MixFilter where
  dcIn : Int
  dcOut : Int
  in1 : Int
  in2 : Int
  out1 : Int
  out2 : Int
  deriving DecidableEq, Repr, Inhabited

/-- A ramp over mix samples (R262, R265): from a value to another over `len` samples from mix sample `start`. -/
structure Ramp where
  from_ : Nat
  to_ : Nat
  start : Nat
  len : Nat
  deriving DecidableEq, Repr, Inhabited

/-- A mix sample of a host stream's block (R269): left and right, whether R260 affected it, whether it was clipped, and the frame
whose voice samples fed it. -/
structure AudioSample where
  l : Int
  r : Int
  late : Bool
  clip : Bool
  fed : Option Nat
  deriving DecidableEq, Repr

/-- The Choir's state of a cottage: program view of the voice registers (R247), the registers in force, the journal,
the voices, the next sample, and the granule that a voice waits for (R250). Of the bridge: the samples awaiting presentation, the
latest presented, the converter's window, newest first, the gain in 1/64 and whether lateness lowered it (R260). The
mix bus: filters, bus gain, and the part of SUBSONIC in 1/4,096 (R262). `outs` holds what the routes sent at
the latest 17 mix samples, newest first. Of the host stream: `mute` says that it publishes no more blocks until it is
resumed, `restart` the boundary at which EN, written again, begins a new stream behind the block in progress, `gaps`
the runs of blocks owed, first and count (R270). -/
structure ChoirState where
  shown : NTable Word
  vreg : NTable Word
  journal : List JournalEntry
  stalled : Option JournalEntry
  voices : NTable Voice
  frame : Nat
  sample : Nat
  awaits : Option (Nat × Nat)
  bridge : List BusSample
  presented : Option (Nat × Nat)
  taps : List (Int × Int)
  fade : Nat
  fadeLate : Bool
  left : MixFilter
  right : MixFilter
  gain : Ramp
  sub : Ramp
  outs : List (List (Nat × Int × Int))
  routes : NTable RouteMove
  routePend : NTable Nat
  routeDue : NTable Nat
  busDue : Nat
  mute : Bool
  live : Bool
  restart : Option Nat
  ring : Nat
  stopping : Bool
  contained : Bool
  startAt : Nat
  block : Nat
  samples : List AudioSample
  gaps : List (Nat × Nat)
  disc : Bool
  seq : Nat
  deriving DecidableEq, Repr

/-! ### Transfers of a cottage (R351, R379), its interrupts (R400) and the Hayloft (R299) -/

/-- A started Carter or Chisel transfer (R351, R352, R379): the latched registers, V, whether it is under way; `awaits` is the
granule of a frame that it waits for (R298, R310). -/
structure CotTransfer where
  regs : NTable Word
  start : Stamp
  v : Stamp
  running : Bool
  done : Bool
  result : Word
  awaits : Option (Nat × Nat)
  deriving DecidableEq, Repr, Inhabited

/-- A virtual timer (R404): the absolute count of its next firing while it is armed, and P as latched at the arming. -/
structure VTimer where
  next : Option Nat
  per : Nat
  deriving DecidableEq, Repr, Inhabited

/-- The cottage interrupt block and IO-window registers (R365, R385, R400, R404): words by IO address, the pending
and active sources with overrun bits, the latest stamp at which events coalesced with their bits (R392), the stamps at which
LATE is to be raised (R405), the virtual timers, and the transfers. -/
structure CotIo where
  words : NTable Word
  pend : Word
  act : Word
  ovr : Word
  ovrAt : Option (Stamp × Word)
  late : List Stamp
  timers : List VTimer
  carter : Option CotTransfer
  carterRes : Word
  chisel : Option CotTransfer
  deriving DecidableEq, Repr, Inhabited

/-- The part of a snapshot that an image's AUDIO section holds (R251, R304). -/
structure AudioPart where
  shown : NTable Word
  vreg : NTable Word
  voices : NTable Voice
  deriving DecidableEq, Repr, Inhabited

/-- The part of a snapshot that an image's COTTAGE section holds (R299, R304). -/
structure CottagePart where
  ports : Vector Word 16
  inSeq : Nat
  io : CotIo
  pub : Nat
  deriving DecidableEq, Repr, Inhabited

/-- A snapshot (R299): the parts of a cottage captured at stamp (frame, 0, 0), the map and the slab's place. -/
structure Snapshot where
  frame : Nat
  vc : Nat
  hob : Hob
  vreg : NTable Word
  pal : NTable Nat
  tally : List TallyEntry
  nextSeq : Nat
  audio : AudioPart
  cottage : CottagePart
  map : List (Nat × DWord)
  vram : DWord
  slab : Nat × Nat
  ucver : DWord
  patch : Nat
  booting : Bool
  deriving DecidableEq, Repr

/-- A Hayloft command that waits or runs (R306): operation, slot, vector, the function that wrote it (258 for Reeve firmware),
and HAY_XADDR and HAY_XLEN as it found them (log entry 58). -/
structure HayCmd where
  op : Nat
  slot : Nat
  vec : Nat
  fn : Nat
  addr : DWord
  len : Nat
  deriving DecidableEq, Repr

/-- One cottage (R15). -/
structure Cottage where
  ctx : Context
  loom : LoomState
  relief : ReliefState
  porch : PorchState
  choir : ChoirState
  io : CotIo
  hay : Option HayCmd
  snaps : List (Option Snapshot)
  deriving DecidableEq, Repr

/-! ### Parishes -/

/-- A CLASS record (R69), with its 64 bytes. -/
structure ClassRec where
  id : Nat
  layers : Nat
  forms : Nat
  voices : Nat
  width : Nat
  height : Nat
  tl : Nat
  vcpl : Nat
  hstart : Nat
  pixcyc : Nat
  vspl : Nat
  sprFrame : Nat
  sprLine : Nat
  vramKib : Nat
  wramKib : Nat
  vsrcMax : Nat
  timing : List Nat
  body : List Byte
  deriving DecidableEq, Repr

/-- A SLOTS record (R72); `owner` is the function number 129 × port + function. -/
structure SlotsRec where
  coreFirst : Nat
  coreCount : Nat
  slotFirst : Nat
  slotCount : Nat
  cls : Nat
  flags : Nat
  owner : Nat
  sinkfmt : Nat
  audio : Nat
  routes : List Nat
  deriving DecidableEq, Repr

/-- A LARDER record (R74). -/
structure LarderRec where
  pcache : List Nat
  l2 : Nat
  linebuf : Nat
  choir : Nat
  entries : List (Nat × Nat)
  deriving DecidableEq, Repr

/-- The records of a parish Armature (R67, R76), as far as the parser has them. -/
structure ParishArm where
  classes : List ClassRec
  slots : List SlotsRec
  larder : Option LarderRec
  ucHash : BitVec 384
  ucVer : Nat
  hasUcode : Bool
  arbW : List Nat
  ageN : Nat
  urg : List Nat
  hasArb : Bool
  src : Nat
  preset : Nat
  pace : Nat
  bellMax : Nat
  period : DWord
  hasBell : Bool
  expert : Nat
  keySlot : Nat
  version : Nat
  digest : BitVec 384
  mode : Nat
  deriving DecidableEq, Repr

/-- The records of the module Armature (R76). -/
structure ModuleArm where
  pins : List (Nat × Nat × Nat × Nat)
  publics : List (Nat × Nat)
  quotas : List (Nat × Nat)
  expert : Nat
  keySlot : Nat
  version : Nat
  digest : BitVec 384
  deriving DecidableEq, Repr

/-- A Loom microcode image in a bank (R168, R172): hash, version, signer, patch level, control words. -/
structure UcImage where
  hash : BitVec 384
  ver : Nat
  signer : Nat
  level : Nat
  words : List (BitVec 256)
  deriving DecidableEq, Repr

/-- A latched chain descriptor (R354): its address as in NEXT, its fields. -/
structure ChainDesc where
  addr : DWord
  src : DWord
  dst : DWord
  count : Nat
  ctrl : Word
  deriving DecidableEq, Repr

/-- A CHAIN_DONE slot that a channel owes (R357). -/
structure ChainSlot where
  first : DWord
  last : DWord
  count : Nat
  status : Nat
  result : DWord
  deriving DecidableEq, Repr

/-- A chain channel's state beyond its registers (R356 to R362): the descriptor in progress; the state a stop-all left;
whether the descriptor at CUR is still to be fetched; the descriptors not yet covered by a slot and the slots owed; its
slots' SEQ; a PAUSE that drains; the compare result so far; the last descriptor written back. -/
structure ChainCh where
  desc : Option ChainDesc
  leftState : Nat
  fetching : Bool
  firstUncovered : Option DWord
  uncovered : Nat
  owed : List ChainSlot
  seq : Nat
  draining : Bool
  result : DWord
  lastDone : DWord
  deriving DecidableEq, Repr

/-- A register channel (R353): the queue of cottages, the first of them served; the state a stop-all left; a PAUSE that
drains. -/
structure RegCh where
  queue : List Nat
  leftState : Nat
  draining : Bool
  deriving DecidableEq, Repr

/-- Where a side of a transfer lies: fabric memory by module address, a function's BAR2, a cottage's default space, a
cottage's video RAM. -/
inductive Side where
  | fabric (a : Nat)
  | bar2 (o a : Nat)
  | cot (c a : Nat)
  | vram (c a : Nat)
  | hbm (a : Nat)
  deriving DecidableEq, Repr

/-- A Chisel operation, with its registers latched (R368 to R376): surfaces, rectangles, line end, clips (enable, mode,
X0, Y0, X1, Y1), and the order: bottom-up, descending. -/
structure Blit where
  op : Nat
  fmt : Nat
  keyen : Bool
  rop : Nat
  src : Side
  dst : Side
  spitch : Nat
  dpitch : Nat
  sx : Nat
  sy : Nat
  dx : Nat
  dy : Nat
  w : Nat
  rows : Nat
  ex : Nat
  ey : Nat
  color : Nat
  key : Nat
  clips : List (Bool × Bool × Nat × Nat × Nat × Nat)
  up : Bool
  left : Bool
  deriving DecidableEq, Repr

/-- A normal Chisel channel (R382): the cottages it holds, the first of them served. -/
structure ChiselCh where
  queue : List Nat
  deriving DecidableEq, Repr

/-- One interrupt controller (R387): levels driven by blocks, pending and active sources. -/
structure Pic where
  level : List Nat
  pend : List Nat
  act : List Nat
  notify : List Nat
  sampling : List Nat
  deriving DecidableEq, Repr

/-- One arbiter (R322, R323, R327): credit by requester, grants since its Armature took effect, read tags held by
requester. -/
structure ArbState where
  credit : NTable Nat
  grants : Nat
  tags : NTable Nat
  deriving DecidableEq, Repr

/-- Bells at one rate (R24, R30): from Bell number `first`, rung at `time` after Bell 0, they are `period` apart, in thirds of
2⁻³² ns. -/
structure BellRate where
  first : Nat
  time : Nat
  period : Nat
  deriving DecidableEq, Repr

/-- A line of a Loom's pattern cache (R163): the Loom, the set and way that hold it, and which 128 bytes of HBM it copies. -/
structure CacheLine where
  loom : Nat
  set : Nat
  way : Nat
  line : Nat
  deriving DecidableEq, Repr

/-- One parish. `bellRuns`, the pending rate and source changes, the rates since Bell 0, latest first (R24 to R30), and the
units of the parish. `larder` holds the words written by accesses of the Larder, as 16,384 × bank + word; `banksWaking` are the
banks in retention that wake, `banksAwaited` those that an access waits for, `banksRetiring` those of them that enter retention
again once it is served (R317); `bankStalls` counts consecutive stalls by 8 × bank + requester (R316), `poisoned` lists uncorrectable
Larder words as 16,384 × bank + word (R318), `corrSeen` the banks with a record since the last Bell (R330), `refEdge` says that
the BELL_REF source gives edges (R428). `captures` are the cottages whose CAPTURE has reached its capture point, in order of
arrival (R300). -/
structure Parish where
  arm : Option ParishArm
  bellRuns : Bool
  bellPend : Bool
  rates : List BellRate
  srcInForce : Nat
  srcPend : Bool
  lockLostNow : Bool
  bell0Due : Bool
  refEdge : Bool
  active : Option UcImage
  shadow : Option UcImage
  refPool : List Nat
  captures : List Nat
  pcache : List CacheLine
  chains : NTable ChainCh
  regChs : NTable RegCh
  chisel : NTable ChiselCh
  privChisel : NTable (Option Blit)
  pic : Pic
  larder : NTable (BitVec 128)
  banksWaking : List Nat
  banksAwaited : List Nat
  banksRetiring : List Nat
  bankStalls : NTable Nat
  poisoned : List Nat
  corrSeen : List Nat
  deriving DecidableEq, Repr

/-! ### Granary (R280 to R311) -/

/-- States of a memory frame (R282). -/
inductive FrameState where
  | free | priv | sharedRo | cow | inFlight | poisoned
  deriving DecidableEq, Repr

/-- A Granary map entry (R282). `owner` is the function number, or 0x3FF for module frames; `live` counts the live
references among `sharers` (R284). -/
structure Frame where
  lvalid : Bool
  link : Nat
  age : Nat
  gran : Nat
  sharers : Nat
  live : Nat
  owner : Nat
  ref : Bool
  isPublic : Bool
  state : FrameState
  deriving DecidableEq, Repr

/-- A state slab frame (R299): which of its 16 slabs are in use. -/
structure SlabFrame where
  frame : Nat
  owner : Nat
  used : List Nat
  deriving DecidableEq, Repr

/-- A granule copy in progress (R297, R298): the frame and granule it fills, and the cottage of the write that asked for it. -/
structure GranuleCopy where
  frame : Nat
  g : Nat
  cot : Nat
  deriving DecidableEq, Repr

/-- The Granary's tables: the map, the title index keyed by port and source for an owner, clock hands, the channel of
the last allocation, evacuated channels, the evacuations and copies in progress, and the frames being paged in, each with the
granule requested first and how many have been requested (R294). -/
structure Granary where
  map : NTable Frame
  index : List (Nat × Nat × Nat)
  hands : NTable Nat
  lastChannel : Nat
  evacuated : List Nat
  evacuating : List (Nat × Nat)
  copies : List GranuleCopy
  pageins : List (Nat × Nat × Nat)
  slabs : List SlabFrame
  deriving DecidableEq, Repr

/-! ### Functions, ports, errors (R331 to R347, R441 to R458, R489) -/

/-- An error record (R489) without FSEQ. -/
structure ErrRec where
  mseq : Nat
  severity : Nat
  scope : Nat
  source : Nat
  cause : Nat
  index : Nat
  bell : DWord
  detail : DWord
  deriving DecidableEq, Repr

/-- A vector's holdoff (R343): whether it runs and the events since its message. -/
structure Holdoff where
  running : Bool
  count : Nat
  deriving DecidableEq, Repr

/-- A function's state beyond its registers: enables of configuration space (R340, R344, R446, R451), moderation
(R343), messages of D3hot and PME (R344, R451), error queue slot in progress (R341), BAR2 and ALLOC frames (R309, R332), ring indices written, rings that a ring
error holds until they are enabled again (R340), records written and not flipped by ring; `quiet` from an FLR until MSI-X is
enabled again (R456). -/
structure Fn where
  enabled : Bool
  d3 : Bool
  bme : Bool
  flr : Bool
  msixEn : Bool
  fmask : Bool
  vmask : List Nat
  pba : List Nat
  heldMsgs : List Nat
  holdoff : NTable Holdoff
  pmeSent : Bool
  pmeStatus : Bool
  eqRing : Option Nat
  eqSlot : List (Nat × ErrRec)
  eqSeq : Nat
  eqLost : Nat
  fseq : Nat
  bar2 : List Nat
  allocs : List Nat
  ringDown : List Nat
  wr : NTable Nat
  rq : NTable (List RingRec)
  quiet : Bool
  deriving DecidableEq, Repr

/-- A fabric port (R441 to R453). -/
structure Port where
  perst : Bool
  up : Bool
  l1 : Bool
  ltrEn : Bool
  aspmEn : Bool
  l1ssEn : Bool
  ptmEn : Bool
  vfEn : Bool
  numVfs : Nat
  cplTimeout : Nat
  ltrSent : Option Nat
  ptmFresh : Bool
  deriving DecidableEq, Repr

/-! ### Timers, Lanes, Treadles (R407 to R440) -/

/-- A timer unit beyond its registers: the fraction of low-frequency mode (R412) and the readers' high latches, Reeve 0 to 3
as 0 to 3 and the PFs as 4 and 5 (R414). -/
structure TimerUnit where
  frac : Nat
  latches : NTable (Option Nat)
  deriving DecidableEq, Repr

/-- A Treadle beyond its registers (R430 to R438): the thread latch, the output enables, the FIFOs, the last word drawn, the
TRD_PCFG fields in force, those of a COMMIT that awaits the next step, the entries written since a stall began. -/
structure Treadle where
  thread : Bool
  oe : Nat
  txf : List Word
  rxf : List Word
  lastDrawn : Word
  pcfg : Word
  committed : Option Word
  written : List Nat
  deriving DecidableEq, Repr

/-! ### What leaves the block -/

/-- What has left the block on its buses and pins. -/
inductive Out where
  | msix (fn vec : Nat)
  | pme (fn : Nat)
  | ltr (port value : Nat)
  | aer (port kind : Nat)
  | linkWake (port : Nat)
  | tdm (port frame mode : Nat) (slave : Bool) (slots : List Word)
  | uart (unit : Nat) (b : Byte)
  | spi (unit : Nat) (w : Word)
  | i2c (unit : Nat) (w : Word)
  | lane (l : Nat) (level : Bool)
  | spdm (conn : Nat) (bytes : List Byte)
  | mctp (bytes : List Byte)
  | pmbus (bytes : List Byte)
  | nack
  | smbAlert (on : Bool)
  | edpSu (e : Nat) (lines : List (Nat × Nat))
  | edpScan (e : Nat)
  | aux (e : Nat) (w : Word)
  | ur (port : Nat)
  | readData (fn : Nat) (value : DWord)
  | readPoisoned (fn : Nat)
  | granule (fn addr : Nat)
  | larder (n req : Nat) (value : Option (BitVec 128))
  deriving DecidableEq, Repr

end Sys2Proof.Machine
end

