-- ==== Sys2Proof/Machine/Hw.lean ====
section
/-!
DEFINITION. Hw: the whole of the block but the queue of waiting commands, as plain data, with its reset value. -/

namespace Sys2Proof.Machine

/-- A command of the Armature, staging, test or firmware banks in progress (R84, R171, R488, R499): its bank, the port
whose PF wrote it (2 for Reeve firmware), operation, parish mask or target, vector, what FETCH and CHECK have obtained,
and the checks' result: code, FAILMASK, first refused record. -/
structure BankJob where
  kind : Nat
  port : Nat
  op : Nat
  mask : Nat
  vec : Nat
  image : List Byte
  parish : Option ParishArm
  modArm : Option ModuleArm
  uc : Option UcImage
  result : Option (Nat × Nat × Nat)
  deriving DecidableEq, Repr

/-- The stage of start-up (R481, R483): module reset held, the boot window before GO, fabric released. -/
inductive BootStage where
  | held | window | released
  deriving DecidableEq, Repr

/-- An accepted sealed patch (R175, R176): level, version range, entries of word address and word. -/
structure SealedPatch where
  level : Nat
  verMin : Nat
  verMax : Nat
  entries : List (Nat × BitVec 256)
  deriving DecidableEq, Repr

/-- The power controller (R471 to R476, R497, R507): VIN in 10 mV units, rails, sleep, present PWRFAIL sources, and
which temperature sensors have a warning standing. -/
structure Power where
  vin : Nat
  standby : Bool
  coreOn : Bool
  asleep : Bool
  fullSpeed : Bool
  warnPin : Bool
  droop : Bool
  warned : List Nat
  critPending : Bool
  deriving DecidableEq, Repr

/-- Start-up and firmware (R481 to R485, R499, R512): the stage, provisioning mode, measurements taken, accepted
patches, the two firmware banks with entry, version and digest, and who wrote a SWITCH that awaits its ACK, with its vector. -/
structure Boot where
  stage : BootStage
  prov : Bool
  winner : Option Nat
  image : List Byte
  patchArea : List Byte
  patches : List SealedPatch
  fwA : Option (Nat × Nat × BitVec 384)
  fwB : Option (Nat × Nat × BitVec 384)
  fwMeasured : BitVec 384
  patchMeasured : BitVec 384
  cdi0 : BitVec 384
  aliasKey : Option (BitVec 384)
  fieldLoaded : Bool
  switchBy : Option (Nat × Nat)
  deriving DecidableEq, Repr

/-- One SPDM connection (R461): how far its negotiation has come, and the transcripts that a signature covers. -/
structure SpdmConn where
  stage : Nat
  vca : List Byte
  m1 : List Byte
  l1 : List Byte
  deriving DecidableEq, Repr

/-- The sideband target (R465 to R467): PMBus status bits, whether SMBALERT# is asserted. -/
structure Sideband where
  statusInput : BitVec 8
  statusTemp : BitVec 8
  statusCml : BitVec 8
  alert : Bool
  deriving DecidableEq, Repr

/-- The whole block but its queue. `fresh` is the model's own counter from which free values are drawn; `out` lists
what has left the block, newest first. `lanes` holds the level that each Lane's keeper holds during a hand-over (R425),
`uartRx` the receive FIFOs (R429). -/
structure Hw where
  regs : Table RegId (BitVec 64)
  mem : List Host.Cell
  cots : NTable Cottage
  par : NTable Parish
  reeves : NTable Reeve
  gran : Granary
  fns : NTable Fn
  ports : NTable Port
  timers : NTable TimerUnit
  lanes : NTable (Option Bool)
  uartRx : NTable (List Byte)
  treadles : NTable Treadle
  edp : NTable EdpPort
  tdm : NTable TdmPort
  arb : NTable ArbState
  modArm : Option ModuleArm
  job : Option BankJob
  power : Power
  boot : Boot
  spdm : NTable SpdmConn
  sbd : Sideband
  memPoison : List Nat
  out : List Out
  fresh : Nat
  deriving DecidableEq, Repr

/-! ### Reset values of the parts (INVENTORY.md, State) -/

/-- A context never admitted. -/
def Context.reset : Context :=
  { st := .off, haltFrom := .off, start := .none, landed := false, ahead := false, seen := ⟨Vector.replicate 16 0, 0, 0, 0⟩,
    admitted := false, restored := false, beamWas := 0, frame := 0, vc := 0,
    bellOfs := 0, issued := none, hob := Hob.reset, wait := .none, held := none, tally := [], nextSeq := 0,
    inq := [], lastApplied := none, ports := Vector.replicate 16 0, inSeq := 0, booting := false }

/-- Loom progress of a cottage at reset: frame 0, line 0, every video register 0 (R145). -/
def LoomState.reset : LoomState :=
  { frame := 0, line := 0, x := 0, phase := .idle, parkedAt := ⟨0, 0⟩, latched := false, skips := none, awaits := none, vreg := [], pal := [], lreg := [], freg := [], framePal := [],
    sprites := [], coll := 0, collPrev := false, collPos := 0, ovfPos := 0, hits := [],
    vreason := [0, 0], markers := [] }

/-- No Plinth set in use, no statistics yet (R201, R206). -/
def ReliefState.reset : ReliefState :=
  { pending := none, inUse := none, fallback := false, zoneSum := [], total := 0, prevMeans := none, firstAt := none }

/-- What a reset of context or parish leaves of Relief's state: the Plinth (R205). -/
def ReliefState.keepPlinth (r : ReliefState) : ReliefState :=
  { ReliefState.reset with pending := r.pending, inUse := r.inUse, fallback := r.fallback }

/-- A set with nothing in it. -/
def PorchSet.reset : PorchSet :=
  { opened := none, gap := none, disc := false, pal := none, due := [], sent := [], nreg := 0, ncell := 0, ncarried := 0,
    dropped := [], outLate := false }

/-- A stream that does not publish (R239). -/
def Stream.reset : Stream :=
  { live := false, start := .none, moved := false, ring := 0, fmt := 0, csc := 1, i8pal := 0, seq := 0, owed := [], held := [],
    set := PorchSet.reset, gap := none, disc := false, nvoid := 0, notes := [], lastPal := none }

/-- No cell composed; a reference image of zeros (log entry 8). -/
def PorchState.reset : PorchState :=
  { ref := [], tags := [], changed := [], flushed := 0, next := 0, pub := false, s0 := Stream.reset, s1 := Stream.reset }

/-- A silent voice (R252); its LFSR before a key-on is 0 (log entry 9). -/
def Voice.reset : Voice :=
  { sounding := false, keyed := false, ended := false, ph := 0, opPh := [0, 0, 0, 0], lastOp0 := 0, lfsr := 0,
    pos := 0, decoded := 0, pred := 0, stepIx := 0, loopState := none, el := 0, er := 0, startL := 0, startR := 0,
    tgtL := 0, tgtR := 0, rampK := 0, rampN := 0 }

/-- The Choir's state of a cottage at reset: CHR_VRAMP 5, everything else 0 (R252, R275). -/
def ChoirState.reset : ChoirState :=
  { shown := [(0x808, 5)], vreg := [(0x808, 5)], journal := [], stalled := none, voices := [], frame := 0,
    sample := 0, awaits := none, bridge := [], presented := none, taps := [], fade := 0, fadeLate := false,
    left := default, right := default, gain := ⟨4096, 4096, 0, 0⟩, sub := ⟨4096, 4096, 0, 0⟩,
    outs := [], routes := [], routePend := [], routeDue := [], busDue := 0, mute := false,
    live := false, restart := none, ring := 0, stopping := false, contained := false, startAt := 0, block := 0, samples := [],
    gaps := [], disc := false, seq := 0 }

/-- The IO window of a cottage at reset (R365, R385, R406). -/
def CotIo.reset : CotIo :=
  { words := [], pend := 0, act := 0, ovr := 0, ovrAt := none, late := [], timers := List.replicate 4 ⟨none, 1⟩, carter := none,
    carterRes := 0, chisel := none }

/-- A cottage at reset. -/
def Cottage.reset : Cottage :=
  { ctx := Context.reset, loom := LoomState.reset, relief := ReliefState.reset, porch := PorchState.reset,
    choir := ChoirState.reset, io := CotIo.reset, hay := none, snaps := List.replicate 8 none }

/-- A chain channel in IDLE (R356). -/
def ChainCh.reset : ChainCh :=
  { desc := none, leftState := 0, fetching := false, firstUncovered := none, uncovered := 0, owed := [], seq := 0,
    draining := false, result := BitVec.allOnes 64, lastDone := 0 }

/-- A register channel in IDLE (R353). -/
def RegCh.reset : RegCh := { queue := [], leftState := 0, draining := false }

/-- A Chisel channel in IDLE. -/
def ChiselCh.reset : ChiselCh := { queue := [] }

/-- An arbiter before its first window. -/
def ArbState.reset : ArbState := { credit := [], grants := 0, tags := [] }

/-- A parish without an Armature (R83). -/
def Parish.reset : Parish :=
  { arm := none, bellRuns := false, bellPend := false, rates := [], srcInForce := 0, srcPend := false,
    lockLostNow := false, bell0Due := false, refEdge := false, active := none, shadow := none, refPool := [], captures := [], pcache := [],
    chains := [], regChs := [], chisel := [], privChisel := [], pic := ⟨[], [], [], [], []⟩, larder := [], banksWaking := [], banksAwaited := [], banksRetiring := [],
    bankStalls := [], poisoned := [], corrSeen := [] }

/-- What no reset clears of a parish: the Larder's words (R13, R318). -/
def Parish.larderOnly (p : Parish) : Parish := { Parish.reset with larder := p.larder, poisoned := p.poisoned }

/-- Reeve core r after module reset (R132): Reeve 0 runs the boot ROM in B-mode from its entry (log entry 10). -/
def Reeve.reset (r : Nat) : Reeve :=
  { hob := Hob.reset, bmode := r == 0, slot := none, waiting := false }

/-- A free frame. -/
def Frame.free : Frame :=
  { lvalid := false, link := 0, age := 0, gran := 0, sharers := 0, live := 0, owner := 0, ref := false,
    isPublic := false, state := .free }

/-- The map entry of a reserved frame (R280). -/
def Frame.reserved : Frame :=
  { lvalid := false, link := 0, age := 0, gran := 0xFFFF, sharers := 1, live := 1, owner := 0x3FF, ref := false,
    isPublic := false, state := .priv }

/-- Every frame free but the reserved ones (R280, R281). -/
def Granary.reset : Granary :=
  { map := [], index := [], hands := [], lastChannel := 63, evacuated := [], evacuating := [], copies := [], pageins := [],
    slabs := [] }

/-- A function after reset: a PF is enabled, a VF is not (R444, R446); nothing is enabled in its configuration
space. -/
def Fn.reset (o : Nat) : Fn :=
  { enabled := o % 129 == 0, d3 := false, bme := false, flr := false, msixEn := false, fmask := false, vmask := [],
    pba := [], heldMsgs := [], holdoff := [], pmeSent := false, pmeStatus := false, eqRing := none, eqSlot := [], eqSeq := 0, eqLost := 0,
    fseq := 0, bar2 := [], allocs := [], ringDown := [], wr := [], rq := [], quiet := false }

/-- A port with PERST# asserted (R453). -/
def Port.reset : Port :=
  { perst := true, up := false, l1 := false, ltrEn := false, aspmEn := false, l1ssEn := false, ptmEn := false,
    vfEn := false, numVfs := 0, cplTimeout := 0, ltrSent := none, ptmFresh := false }

/-- A timer unit at reset (R407). -/
def TimerUnit.reset : TimerUnit := { frac := 0, latches := [] }

/-- A Treadle at reset (R436, R440). -/
def Treadle.reset : Treadle :=
  { thread := false, oe := 0, txf := [], rxf := [], lastDrawn := 0, pcfg := 0x20200000, committed := none, written := [] }

/-- An eDP port at reset. -/
def EdpPort.reset : EdpPort := { training := false, src := 0, owed := [], due := [], lines := [] }

/-- A TDM port at reset. -/
def TdmPort.reset : TdmPort := { last := [], stopped := false, noClock := false, resumes := false, zeros := none }

/-- The power controller with the standby domain ready (R471). -/
def Power.reset : Power :=
  { vin := 1200, standby := true, coreOn := true, asleep := false, fullSpeed := false, warnPin := false,
    droop := false, warned := [], critPending := false }

/-- Start-up at module reset: PERST# still asserted (R481). -/
def Boot.reset : Boot :=
  { stage := .held, prov := false, winner := none, image := [], patchArea := [], patches := [], fwA := none,
    fwB := none, fwMeasured := 0, patchMeasured := 0, cdi0 := 0, aliasKey := none, fieldLoaded := false, switchBy := none }

/-- A fresh SPDM connection. -/
def SpdmConn.reset : SpdmConn := { stage := 0, vca := [], m1 := [], l1 := [] }

/-- No status bit set. -/
def Sideband.reset : Sideband := { statusInput := 0, statusTemp := 0, statusCml := 0, alert := false }

/-- The block right after a module reset with PERST# still asserted on both ports. -/
def Hw.reset : Hw :=
  { regs := [], mem := [], cots := [], par := [], reeves := [], gran := Granary.reset, fns := [],
    ports := [], timers := [], lanes := [], uartRx := [], treadles := [], edp := [], tdm := [], arb := [], modArm := none, job := none,
    power := Power.reset, boot := Boot.reset, spdm := [], sbd := Sideband.reset, memPoison := [],
    out := [], fresh := 0 }

end Sys2Proof.Machine
end

