-- ==== Sys2Proof/Machine/Ops.lean ====
section
/-!
DEFINITION. The named operations over Hw that every block uses: bit fields, registers and their fields, memory bytes,
the tables of units, functions and owners, free values. -/

namespace Sys2Proof.Machine

/-! ### Bit fields and bytes (R3) -/

/-- Bits hi to lo of a number. -/
def bits (n hi lo : Nat) : Nat := n / 2 ^ lo % 2 ^ (hi + 1 - lo)

/-- The number with bits hi to lo replaced. -/
def setBits (n hi lo v : Nat) : Nat :=
  n - bits n hi lo * 2 ^ lo + v % 2 ^ (hi + 1 - lo) * 2 ^ lo

/-- Bit b of a number. -/
def bit (n b : Nat) : Bool := n / 2 ^ b % 2 == 1

/-- 1 for true. -/
def b2n (b : Bool) : Nat := if b then 1 else 0

/-- The n low bytes of a value, byte 0 first (R3). -/
def leBytes (n v : Nat) : List Byte := (List.range n).map fun k => BitVec.ofNat 8 (v / 256 ^ k)

/-- The value of bytes, byte 0 first (R3). -/
def fromLe : List Byte → Nat
  | [] => 0
  | b :: bs => b.toNat + 256 * fromLe bs

/-- A SHA-384 digest as its 48 bytes, in the order of the standard. -/
def digestBytes (d : BitVec 384) : List Byte := (leBytes 48 d.toNat).reverse

/-- The digest that 48 bytes spell. -/
def digestOf (l : List Byte) : BitVec 384 := BitVec.ofNat 384 (fromLe l.reverse)

/-- A signed reading of an n-bit number. -/
def signed (n v : Nat) : Int := if 2 * (v % 2 ^ n) < 2 ^ n then (v % 2 ^ n : Nat) else (v % 2 ^ n : Nat) - (2 ^ n : Nat)

/-- The number between lo and hi nearest to v. -/
def clampI (lo hi v : Int) : Int := if v < lo then lo else if v > hi then hi else v

/-- ceil(a / b). -/
def ceilDiv (a b : Nat) : Nat := (a + b - 1) / b

/-! ### Stamps (R17, R39) -/

/-- Stamp a is earlier than stamp b. -/
def Stamp.lt (a b : Stamp) : Bool := a.frame < b.frame || (a.frame == b.frame && a.vc < b.vc)

/-- Stamp a is at or before stamp b. -/
def Stamp.le (a b : Stamp) : Bool := !b.lt a

/-- The later of two stamps. -/
def Stamp.max (a b : Stamp) : Stamp := if a.lt b then b else a

namespace Hw

/-! ### Registers -/

/-- The value of a register; a register never written since its domain's reset holds its Reset value (R12). -/
def reg (h : Hw) (n : RegName) (i : Nat := 0) (j : Nat := 0) : BitVec 64 :=
  Table.get (RegId.reset ⟨n, i, j⟩) h.regs ⟨n, i, j⟩

/-- Stores a register whole. -/
def setReg (h : Hw) (n : RegName) (i j : Nat) (v : BitVec 64) : Hw :=
  { h with regs := Table.set RegId.lt (RegId.reset ⟨n, i, j⟩) h.regs ⟨n, i, j⟩ v }

/-- The value of a field. -/
def fld (h : Hw) (f : Fld) (i : Nat := 0) (j : Nat := 0) : Nat := bits (h.reg f.reg i j).toNat f.hi f.lo

/-- Stores a field, leaving the register's other bits. -/
def setFld (h : Hw) (f : Fld) (i j v : Nat) : Hw :=
  h.setReg f.reg i j (BitVec.ofNat 64 (setBits (h.reg f.reg i j).toNat f.hi f.lo v))

/-- A one-bit field is 1. -/
def flag (h : Hw) (f : Fld) (i : Nat := 0) (j : Nat := 0) : Bool := h.fld f i j == 1

/-- Advances an event counter, which saturates at all ones (R8). -/
def count (h : Hw) (f : Fld) (i : Nat := 0) (j : Nat := 0) (n : Nat := 1) : Hw :=
  h.setFld f i j (min (h.fld f i j + n) (2 ^ (f.hi + 1 - f.lo) - 1))

/-- Advances a counter that wraps. -/
def countWrap (h : Hw) (f : Fld) (i : Nat := 0) (j : Nat := 0) (n : Nat := 1) : Hw :=
  h.setFld f i j (h.fld f i j + n)

/-- Forgets what the registers of a set of names hold in one bank: they take their Reset values (R12). -/
def resetRegs (h : Hw) (p : RegId → Bool) : Hw := { h with regs := h.regs.filter fun e => !p e.1 }

/-! ### Free values -/

/-- The next free value is another one. -/
def bump (h : Hw) : Hw := { h with fresh := h.fresh + 1 }

/-- Draws a value the spec leaves open (log entry 14). -/
def draw (h : Hw) : DWord × Hw := (Config.freeValue h.fresh, h.bump)

/-- Notes what leaves the block. -/
def emit (h : Hw) (o : Out) : Hw := { h with out := o :: h.out }

/-! ### Memory: the module address space of R137 -/

/-- What a byte of memory that nothing has written reads as (log entry 11). -/
def memDefault : Byte := 0

/-- Reads a byte of HBM or fabric memory, by module address. -/
def rb (h : Hw) (a : Nat) : Byte := Table.get memDefault h.mem a

/-- Writes a byte of HBM or fabric memory. -/
def wb (h : Hw) (a : Nat) (v : Byte) : Hw := { h with mem := Table.set Nat.blt memDefault h.mem a v }

/-- Reads n bytes from a upward. -/
def rbs (h : Hw) (a n : Nat) : List Byte := (List.range n).map fun k => h.rb (a + k)

/-- Stores bytes from a upward. -/
def putBytes (h : Hw) (a : Nat) : List Byte → Hw
  | [] => h
  | b :: bs => (h.wb a b).putBytes (a + 1) bs

/-- A write of n bytes at a clears the poison of every 64-bit word it covers whole (R320). -/
def mend (h : Hw) (a n : Nat) : Hw :=
  { h with memPoison := h.memPoison.filter fun w => !(decide (a ≤ w / 8 * 8) && decide (w / 8 * 8 + 8 ≤ a + n)) }

/-- Writes bytes from a upward. -/
def wbs (h : Hw) (a : Nat) (l : List Byte) : Hw := (h.putBytes a l).mend a l.length

/-- Reads an n-byte little-endian value. -/
def rv (h : Hw) (a n : Nat) : Nat := fromLe (h.rbs a n)

/-- Writes an n-byte little-endian value. -/
def wv (h : Hw) (a n v : Nat) : Hw := h.wbs a (leBytes n v)

/-- Writes 0 to n bytes from a upward. -/
def zero (h : Hw) (a n : Nat) : Hw :=
  { h.mend a n with mem := h.mem.filter fun c => c.1 < a || a + n ≤ c.1 }

/-- Writes n bytes at dst with the bytes at src, as through a buffer. -/
def copyMem (h : Hw) (src dst n : Nat) : Hw :=
  let moved := h.mem.filter fun c => src ≤ c.1 && c.1 < src + n
  moved.foldl (fun g c => g.wb (c.1 - src + dst) c.2) (h.zero dst n)

/-- The module address of fabric address 0 of a port (R137). -/
def portBase (port : Nat) : Nat := if port = 0 then 0x400000000000 else 0x800000000000

/-- The module address of a memory frame (R280). -/
def frameBase (f : Nat) : Nat := f * 0x100000

/-! ### Units -/

def cot (h : Hw) (c : Nat) : Cottage := NTable.get Cottage.reset h.cots c
def setCot (h : Hw) (c : Nat) (x : Cottage) : Hw := { h with cots := NTable.set Cottage.reset h.cots c x }
def ctx (h : Hw) (c : Nat) : Context := (h.cot c).ctx
def setCtx (h : Hw) (c : Nat) (x : Context) : Hw := h.setCot c { h.cot c with ctx := x }
def modCtx (h : Hw) (c : Nat) (f : Context → Context) : Hw := h.setCtx c (f (h.ctx c))
def modLoom (h : Hw) (c : Nat) (f : LoomState → LoomState) : Hw :=
  h.setCot c { h.cot c with loom := f (h.cot c).loom }
def modRelief (h : Hw) (c : Nat) (f : ReliefState → ReliefState) : Hw :=
  h.setCot c { h.cot c with relief := f (h.cot c).relief }
def modPorch (h : Hw) (c : Nat) (f : PorchState → PorchState) : Hw :=
  h.setCot c { h.cot c with porch := f (h.cot c).porch }
def modChoir (h : Hw) (c : Nat) (f : ChoirState → ChoirState) : Hw :=
  h.setCot c { h.cot c with choir := f (h.cot c).choir }
def modIo (h : Hw) (c : Nat) (f : CotIo → CotIo) : Hw := h.setCot c { h.cot c with io := f (h.cot c).io }

def parish (h : Hw) (n : Nat) : Parish := NTable.get Parish.reset h.par n
def setParish (h : Hw) (n : Nat) (x : Parish) : Hw := { h with par := NTable.set Parish.reset h.par n x }
def modParish (h : Hw) (n : Nat) (f : Parish → Parish) : Hw := h.setParish n (f (h.parish n))

def reeve (h : Hw) (r : Nat) : Reeve := NTable.get (Reeve.reset r) h.reeves r
def setReeve (h : Hw) (r : Nat) (x : Reeve) : Hw := { h with reeves := NTable.set (Reeve.reset r) h.reeves r x }

def fn (h : Hw) (o : Nat) : Fn := NTable.get (Fn.reset o) h.fns o
def setFn (h : Hw) (o : Nat) (x : Fn) : Hw := { h with fns := NTable.set (Fn.reset o) h.fns o x }
def modFn (h : Hw) (o : Nat) (f : Fn → Fn) : Hw := h.setFn o (f (h.fn o))

def port (h : Hw) (p : Nat) : Port := NTable.get Port.reset h.ports p
def setPort (h : Hw) (p : Nat) (x : Port) : Hw := { h with ports := NTable.set Port.reset h.ports p x }

/-- The Granary map entry of a frame; a frame never touched is reserved (R280) or FREE. -/
def frame (h : Hw) (f : Nat) : Frame := NTable.get (if f < 64 then Frame.reserved else Frame.free) h.gran.map f
def setFrame (h : Hw) (f : Nat) (x : Frame) : Hw :=
  { h with gran := { h.gran with map := NTable.set (if f < 64 then Frame.reserved else Frame.free) h.gran.map f x } }

/-! ### Cottages, owners and classes (R15, R69, R72) -/

/-- The SLOTS record of an Armature that covers context k of the parish (R72). -/
def armSlot (a : ParishArm) (k : Nat) : Option SlotsRec :=
  let core := k / 16
  let slot := k % 16
  a.slots.find? fun s => s.coreFirst ≤ core && core < s.coreFirst + s.coreCount && s.slotFirst ≤ slot &&
    slot < s.slotFirst + s.slotCount

/-- The SLOTS record that covers cottage c in the Armature in effect (R72). -/
def slotOf (h : Hw) (c : Nat) : Option SlotsRec :=
  match (h.parish (c / 256)).arm with
  | none => none
  | some a => armSlot a (c % 256)

/-- The function that owns cottage c. -/
def ownerOf (h : Hw) (c : Nat) : Option Nat := (h.slotOf c).map (·.owner)

/-- The contexts of parish n that hold a cottage: those that a SLOTS record covers. -/
def parishCots (h : Hw) (n : Nat) : List Nat :=
  match (h.parish n).arm with
  | none => []
  | some _ => ((List.range 256).map (256 * n + ·)).filter fun c => (h.slotOf c).isSome

/-- The port of cottage c: its owner's. -/
def portOf (h : Hw) (c : Nat) : Option Nat := (h.ownerOf c).map (· / 129)

/-- The class of cottage c (R69). -/
def classOf (h : Hw) (c : Nat) : Option ClassRec :=
  match (h.parish (c / 256)).arm, h.slotOf c with
  | some a, some s => a.classes.find? fun k => k.id == s.cls
  | _, _ => none

/-- The class, or one without lines where the context holds no cottage. -/
def cls (h : Hw) (c : Nat) : ClassRec :=
  (h.classOf c).getD ⟨0, 0, 0, 0, 0, 0, 0, 0, 0, 0, 0, 0, 0, 0, 0, 0, [], []⟩

/-- The function number of an agent that is a function (R309). -/
def agentFn : Agent → Option Nat
  | .pf p => some (129 * p)
  | .vf p v => some (129 * p + v)
  | _ => none

/-- The present stamp of cottage c's beam (R18). -/
def stamp (h : Hw) (c : Nat) : Stamp := ⟨(h.ctx c).frame, (h.ctx c).vc⟩

/-- Virtual cycles of a frame of a class (R17). -/
def frameLen (k : ClassRec) : Nat := k.vcpl * k.tl

/-- A stamp laid out as the Tally's STAMP field (R37). -/
def stampBits (k : ClassRec) (s : Stamp) : Nat :=
  (s.frame % 2) * 0x400000 + (s.vc / k.vcpl % 1024) * 0x1000 + s.vc % k.vcpl % 4096

/-- The configuration word of a Lane. -/
def lanCfg (h : Hw) (l : Nat) : Nat := (h.reg .LAN_CFG 0 l).toNat

/-- The level that a Lane's keeper holds during a hand-over (R425). -/
def laneHold (h : Hw) (l : Nat) : Option Bool := NTable.get none h.lanes l

/-- Starts or ends a hold. -/
def setLaneHold (h : Hw) (l : Nat) (x : Option Bool) : Hw := { h with lanes := NTable.set none h.lanes l x }

/-- The Lane that carries a signal of a unit: the lowest-numbered one, and none during its hand-over (R417, R418, R425). -/
def laneOf (h : Hw) (func unit sig : Nat) : Option Nat :=
  ((List.range 48).find? fun l =>
    let v := h.lanCfg l
    bits v 3 0 == func && bits v 23 20 == sig && (decide (1 ≤ func ∧ func ≤ 8) || bits v 27 24 == unit)).filter fun l =>
      (h.laneHold l).isNone

/-- The core domain works: powered, clocked, out of module reset and not in the Module-fatal state (R471, R474,
R495, R453). Commands of the core domain have their effect only then. -/
def act (h : Hw) : Bool :=
  h.power.standby && h.power.coreOn && !h.power.asleep && !h.flag F.ERR_STAT_FATAL && decide (h.boot.stage ≠ .held)

/-- The effect of a core-domain command: none while the core domain does not work. -/
def live (h : Hw) (f : Hw → Hw) : Hw := if h.act then f h else h

/-- Stores the power controller's condition whole. -/
def setPower (h : Hw) (p : Power) : Hw := { h with power := p }

/-- Repeats an effect over a list. -/
def each {α : Type} (h : Hw) (l : List α) (f : Hw → α → Hw) : Hw := l.foldl f h

end Hw

/-- The canonical form of memory: addresses strictly rising, no byte listed that reads as an unlisted one does. -/
abbrev Memory.wf (m : List Host.Cell) : Prop := Table.wf Nat.blt (fun _ => Hw.memDefault) m = true

end Sys2Proof.Machine
end

