-- ==== Sys2Proof/Machine/Crypto.lean ====
section
/-!
DEFINITION. The published functions that the spec names by standard (log entry 4): SHA-384 and HMAC over it (FIPS 180-4 and
198-1), ECDSA P-384 verification (FIPS 186-5) with a signature as R67 stores it, and AES-256-GCM decryption (FIPS 197 and
SP 800-38D) as R175 uses it. -/

namespace Sys2Proof.Machine.Crypto

/-- The value of bytes, most significant first. -/
def fromBe (l : List Byte) : Nat := fromLe l.reverse

/-- The n low bytes of a value, most significant first. -/
def beBytes (n v : Nat) : List Byte := (leBytes n v).reverse

/-- Cuts the first `count` pieces of n elements. -/
def pieces {α : Type} (n : Nat) : Nat → List α → List (List α)
  | 0, _ => []
  | count + 1, l => l.take n :: pieces n count (l.drop n)

/-! ### SHA-384 and HMAC -/

/-- The round constants of SHA-512, rounds 0 to 39. -/
def roundLow : List DWord :=
  [0x428A2F98D728AE22, 0x7137449123EF65CD, 0xB5C0FBCFEC4D3B2F, 0xE9B5DBA58189DBBC, 0x3956C25BF348B538,
   0x59F111F1B605D019, 0x923F82A4AF194F9B, 0xAB1C5ED5DA6D8118, 0xD807AA98A3030242, 0x12835B0145706FBE,
   0x243185BE4EE4B28C, 0x550C7DC3D5FFB4E2, 0x72BE5D74F27B896F, 0x80DEB1FE3B1696B1, 0x9BDC06A725C71235,
   0xC19BF174CF692694, 0xE49B69C19EF14AD2, 0xEFBE4786384F25E3, 0x0FC19DC68B8CD5B5, 0x240CA1CC77AC9C65,
   0x2DE92C6F592B0275, 0x4A7484AA6EA6E483, 0x5CB0A9DCBD41FBD4, 0x76F988DA831153B5, 0x983E5152EE66DFAB,
   0xA831C66D2DB43210, 0xB00327C898FB213F, 0xBF597FC7BEEF0EE4, 0xC6E00BF33DA88FC2, 0xD5A79147930AA725,
   0x06CA6351E003826F, 0x142929670A0E6E70, 0x27B70A8546D22FFC, 0x2E1B21385C26C926, 0x4D2C6DFC5AC42AED,
   0x53380D139D95B3DF, 0x650A73548BAF63DE, 0x766A0ABB3C77B2A8, 0x81C2C92E47EDAEE6, 0x92722C851482353B]

/-- The round constants of SHA-512, rounds 40 to 79. -/
def roundHigh : List DWord :=
  [0xA2BFE8A14CF10364, 0xA81A664BBC423001, 0xC24B8B70D0F89791, 0xC76C51A30654BE30, 0xD192E819D6EF5218,
   0xD69906245565A910, 0xF40E35855771202A, 0x106AA07032BBD1B8, 0x19A4C116B8D2D0C8, 0x1E376C085141AB53,
   0x2748774CDF8EEB99, 0x34B0BCB5E19B48A8, 0x391C0CB3C5C95A63, 0x4ED8AA4AE3418ACB, 0x5B9CCA4F7763E373,
   0x682E6FF3D6B2B8A3, 0x748F82EE5DEFB2FC, 0x78A5636F43172F60, 0x84C87814A1F0AB72, 0x8CC702081A6439EC,
   0x90BEFFFA23631E28, 0xA4506CEBDE82BDE9, 0xBEF9A3F7B2C67915, 0xC67178F2E372532B, 0xCA273ECEEA26619C,
   0xD186B8C721C0C207, 0xEADA7DD6CDE0EB1E, 0xF57D4F7FEE6ED178, 0x06F067AA72176FBA, 0x0A637DC5A2C898A6,
   0x113F9804BEF90DAE, 0x1B710B35131C471B, 0x28DB77F523047D84, 0x32CAAB7B40C72493, 0x3C9EBE0A15C9BEBC,
   0x431D67C49C100D4C, 0x4CC5D4BECB3E42B6, 0x597F299CFC657E2A, 0x5FCB6FAB3AD6FAEC, 0x6C44198C4A475817]

/-- The initial hash value of SHA-384. -/
def hashStart : List DWord :=
  [0xCBBB9D5DC1059ED8, 0x629A292A367CD507, 0x9159015A3070DD17, 0x152FECD8F70E5939, 0x67332667FFC00B31,
   0x8EB44A8768581511, 0xDB0C2E0D64F98FA7, 0x47B5481DBEFA4FA4]

/-- The message schedule, latest word first, extended by n words. -/
def schedule : Nat → List DWord → List DWord
  | 0, w => w
  | n + 1, w =>
    let at_ := fun (i : Nat) => w.getD i 0
    let s0 := (at_ 14).rotateRight 1 ^^^ (at_ 14).rotateRight 8 ^^^ (at_ 14) >>> 7
    let s1 := (at_ 1).rotateRight 19 ^^^ (at_ 1).rotateRight 61 ^^^ (at_ 1) >>> 6
    schedule n ((s1 + at_ 6 + s0 + at_ 15) :: w)

/-- One round, with its constant and schedule word. -/
def hashRound (v : List DWord) (k w : DWord) : List DWord :=
  match v with
  | [a, b, c, d, e, f, g, h] =>
    let t1 := h + (e.rotateRight 14 ^^^ e.rotateRight 18 ^^^ e.rotateRight 41) + ((e &&& f) ^^^ (~~~e &&& g)) + k + w
    let t2 := (a.rotateRight 28 ^^^ a.rotateRight 34 ^^^ a.rotateRight 39) + ((a &&& b) ^^^ (a &&& c) ^^^ (b &&& c))
    [t1 + t2, a, b, c, d + t1, e, f, g]
  | _ => v

/-- The hash value after one block of 128 bytes. -/
def hashBlock (v : List DWord) (block : List Byte) : List DWord :=
  let words := (pieces 8 16 block).map fun p => BitVec.ofNat 64 (fromBe p)
  let w := (schedule 64 words.reverse).reverse
  let r := ((roundLow ++ roundHigh).zip w).foldl (fun v e => hashRound v e.1 e.2) v
  List.zipWith (· + ·) v r

/-- The SHA-384 digest of a list of bytes. -/
@[irreducible] def sha384 (l : List Byte) : BitVec 384 :=
  let padded := l ++ [0x80] ++ List.replicate ((239 - l.length % 128) % 128) 0 ++ beBytes 16 (8 * l.length)
  let v := (pieces 128 (padded.length / 128) padded).foldl hashBlock hashStart
  BitVec.ofNat 384 (fromBe ((v.take 6).flatMap fun w => beBytes 8 w.toNat))

/-- HMAC-SHA-384 of a key of at most 128 bytes and a message. -/
@[irreducible] def hmac384 (key message : List Byte) : BitVec 384 :=
  let k := key ++ List.replicate (128 - key.length) 0
  sha384 (k.map (· ^^^ 0x5C) ++ digestBytes (sha384 (k.map (· ^^^ 0x36) ++ message)))

/-! ### ECDSA P-384 -/

/-- The prime of the curve P-384. -/
def curveP : Nat := 2 ^ 384 - 2 ^ 128 - 2 ^ 96 + 2 ^ 32 - 1

/-- The order of its base point. -/
def curveN : Nat :=
  0xFFFFFFFFFFFFFFFFFFFFFFFFFFFFFFFFFFFFFFFFFFFFFFFFC7634D81F4372DDF581A0DB248B0A77AECEC196ACCC52973

/-- The coefficient b of the curve y² = x³ − 3x + b. -/
def curveB : Nat :=
  0xB3312FA7E23EE7E4988E056BE3F82D19181D9C6EFE8141120314088F5013875AC656398D8A2ED19D2A85C8EDD3EC2AEF

/-- A point: `none` is the neutral one. -/
abbrev Point := Option (Nat × Nat)

/-- The base point. -/
def curveG : Point :=
  some (0xAA87CA22BE8B05378EB1C71EF320AD746E1D3B628BA79B9859F741E082542A385502F25DBF55296C3A545E3872760AB7,
    0x3617DE4A96262C6F5D9E98BF9292DC29F8F41DBD289A147CE9DA3113B5F0B8C00A60B1CE1D7E819D7A431D7C90EA0E5F)

/-- a to the power whose `fuel` bits, from the top, are those of e, modulo m. -/
def powMod (m a e : Nat) : Nat → Nat → Nat
  | 0, acc => acc
  | fuel + 1, acc => powMod m a e fuel (if bit e fuel then acc * acc % m * a % m else acc * acc % m)

/-- The inverse modulo a prime of at most 384 bits. -/
def invMod (m a : Nat) : Nat := powMod m (a % m) (m - 2) 384 1

/-- The sum of two points of the curve. -/
def addPoints : Point → Point → Point
  | none, b => b
  | a, none => a
  | some (x1, y1), some (x2, y2) =>
    if x1 = x2 ∧ (y1 + y2) % curveP = 0 then none
    else
      let l := if x1 = x2 then (3 * x1 * x1 + curveP - 3) * invMod curveP (2 * y1) % curveP
        else (y2 + curveP - y1) * invMod curveP (x2 + curveP - x1) % curveP
      let x := (l * l + 2 * curveP - x1 - x2) % curveP
      some (x, (l * (x1 + curveP - x) + curveP - y1) % curveP)

/-- A point times the number whose `fuel` bits, from the top, are those of k. -/
def timesPoint (k : Nat) (a : Point) : Nat → Point → Point
  | 0, acc => acc
  | fuel + 1, acc =>
    let twice := addPoints acc acc
    timesPoint k a fuel (if bit k fuel then addPoints twice a else twice)

/-- A signature of 96 bytes, r then s, each a little-endian integer (R67), verifies a digest under a public key, whose high
384 bits are x and whose low 384 bits are y. -/
@[irreducible] def ecdsaVerify (key : BitVec 768) (digest : BitVec 384) (sig : List Byte) : Bool :=
  let x := key.toNat / 2 ^ 384
  let y := key.toNat % 2 ^ 384
  let r := fromLe (sig.take 48)
  let s := fromLe (sig.drop 48)
  let w := invMod curveN s
  let point := addPoints (timesPoint (digest.toNat * w % curveN) curveG 384 none)
    (timesPoint (r * w % curveN) (some (x, y)) 384 none)
  decide (sig.length = 96) && decide (x < curveP ∧ y < curveP) && decide ((y * y + 3 * x) % curveP = (x * x * x + curveB) % curveP) &&
    decide (1 ≤ r ∧ r < curveN) && decide (1 ≤ s ∧ s < curveN) &&
    match point with
    | none => false
    | some (px, _) => px % curveN == r

/-! ### AES-256-GCM -/

/-- Twice a byte in the field of AES. -/
def twice (a : Byte) : Byte := if a.msb then a <<< 1 ^^^ 0x1B else a <<< 1

/-- The product of two bytes in the field of AES, over the n low bits of b. -/
def timesByte (a b : Byte) : Nat → Byte
  | 0 => 0
  | n + 1 => twice (timesByte a (b >>> 1) n) ^^^ (if b.getLsbD 0 then a else 0)

/-- a to the power n in the field of AES. -/
def powByte (a : Byte) : Nat → Byte
  | 0 => 1
  | n + 1 => timesByte (powByte a n) a 8

/-- The substitution of AES: the inverse, then the affine map. -/
def subByte (a : Byte) : Byte :=
  let b := powByte a 254
  b ^^^ b.rotateLeft 1 ^^^ b.rotateLeft 2 ^^^ b.rotateLeft 3 ^^^ b.rotateLeft 4 ^^^ 0x63

/-- Bytewise exclusive or. -/
def xorBytes (a b : List Byte) : List Byte := List.zipWith (· ^^^ ·) a b

/-- The key schedule of AES-256 extended by n words, latest word first; `i` numbers the next word. -/
def keyWords : Nat → Nat → List (List Byte) → List (List Byte)
  | 0, _, l => l
  | n + 1, i, l =>
    let t := l.getD 0 []
    let t := if i % 8 = 0 then xorBytes ((t.drop 1 ++ t.take 1).map subByte) [powByte 2 (i / 8 - 1), 0, 0, 0]
      else if i % 8 = 4 then t.map subByte else t
    keyWords n (i + 1) (xorBytes t (l.getD 7 []) :: l)

/-- The 15 round keys of a key of 256 bits. -/
def roundKeys (key : BitVec 256) : List (List Byte) :=
  let words := (keyWords 52 8 (pieces 4 8 (beBytes 32 key.toNat)).reverse).reverse
  (pieces 4 15 words).map (·.flatten)

/-- The mixing of one column. -/
def mixColumn (c : List Byte) : List Byte :=
  (List.range 4).map fun i =>
    let at_ := fun (k : Nat) => c.getD ((i + k) % 4) 0
    twice (at_ 0) ^^^ twice (at_ 1) ^^^ at_ 1 ^^^ at_ 2 ^^^ at_ 3

/-- AES-256 of a block of 16 bytes under round keys. -/
def aesBlock (keys : List (List Byte)) (block : List Byte) : List Byte :=
  (keys.zip (List.range 15)).foldl (fun s e =>
    if e.2 = 0 then xorBytes s e.1
    else
      let t := s.map subByte
      let t := (List.range 16).map fun k => t.getD ((k + 4 * (k % 4)) % 16) 0
      let t := if e.2 = 14 then t else (pieces 4 4 t).flatMap mixColumn
      xorBytes t e.1) block

/-- The product in the field of GCM, over the n low bits of x, v being the multiple of the next higher bit. -/
def timesGcm (x : Nat) : Nat → Nat → Nat → Nat
  | 0, _, z => z
  | n + 1, v, z =>
    timesGcm x n (if v % 2 = 1 then v / 2 ^^^ 0xE1000000000000000000000000000000 else v / 2) (if bit x n then z ^^^ v else z)

/-- Bytes filled up with zeros to whole blocks. -/
def wholeBlocks (l : List Byte) : List Byte := l ++ List.replicate ((16 - l.length % 16) % 16) 0

/-- The plain text of a cipher text with additional data, or none where the tag does not match. -/
@[irreducible] def gcmOpen (key : BitVec 256) (iv aad cipher tag : List Byte) : Option (List Byte) :=
  let keys := roundKeys key
  let hash := fromBe (aesBlock keys (List.replicate 16 0))
  let text := wholeBlocks aad ++ wholeBlocks cipher ++ beBytes 8 (8 * aad.length) ++ beBytes 8 (8 * cipher.length)
  let sum := (pieces 16 (text.length / 16) text).foldl (fun y b => timesGcm (y ^^^ fromBe b) 128 hash 0) 0
  let pad := fun (n : Nat) => aesBlock keys (iv ++ beBytes 4 n)
  if xorBytes (beBytes 16 sum) (pad 1) = tag then
    some ((List.range ((cipher.length + 15) / 16)).flatMap fun i =>
      xorBytes ((cipher.drop (16 * i)).take 16) (pad (i + 2)))
  else none

end Sys2Proof.Machine.Crypto
end

