-- ==== Sys2Proof/Machine/Errors.lean ====
section
/-!
DEFINITION. Commons rings (R334 to R340), events and interrupt moderation (R342 to R344), error records and the error
queues (R341, R489 to R494, R527). -/

namespace Sys2Proof.Machine.Hw

/-! ### Events and MSI-X (R342 to R344) -/

/-- The port of a link in L1 or an L1 PM substate wakes it (R344, R450). -/
def leaveL1 (h : Hw) (p : Nat) : Hw :=
  ((h.setPort p { h.port p with l1 := false }).setFld F.FAB_LINK_L1SS 0 p 0).emit (.linkWake p)

/-- Sends the message of a vector: held in D3hot, with PME; pending in the PBA while MSI-X is disabled or the vector is
masked (R445); otherwise out, after the link has been woken from L1 (R344). -/
def sendMsix (h : Hw) (o vec : Nat) : Hw :=
  let f := h.fn o
  if f.d3 then
    let h := h.setFn o { f with heldMsgs := f.heldMsgs.filter (· ≠ vec) ++ [vec], pmeSent := true, pmeStatus := true }
    if f.pmeSent then h else h.emit (.pme o)
  else if !f.msixEn || f.fmask || f.vmask.contains vec then h.setFn o { f with pba := f.pba.filter (· ≠ vec) ++ [vec] }
  else
    let h := if (h.port (o / 129)).l1 then h.leaveL1 (o / 129) else h
    h.emit (.msix o vec)

/-- Starts a vector's holdoff, if its HOLDOFF is not 0, and sends its message (R343). -/
def sendAndHold (h : Hw) (o vec : Nat) : Hw :=
  let h := h.setFld F.COM_VMOD_PEND o vec 0
  let f := h.fn o
  let h := h.setFn o { f with holdoff := NTable.set ⟨false, 0⟩ f.holdoff vec ⟨h.fld F.COM_VMOD_HOLDOFF o vec ≠ 0, 0⟩ }
  h.sendMsix o vec

/-- An event on vector `vec` of function `o` (R343). -/
def event (h : Hw) (o vec : Nat) : Hw :=
  let f := h.fn o
  let v := NTable.get ⟨false, 0⟩ f.holdoff vec
  let pkts := h.fld F.COM_VMOD_PKTS o vec
  if !v.running then h.sendAndHold o vec
  else if pkts ≠ 0 && decide (pkts ≤ v.count + 1) then h.sendAndHold o vec
  else
    (h.setFn o { f with holdoff := NTable.set ⟨false, 0⟩ f.holdoff vec ⟨true, v.count + 1⟩ }).setFld
      F.COM_VMOD_PEND o vec 1

/-! ### Advanced error reporting (R470) -/

/-- What AER of a port logs for a read that ended badly on the fabric: 3 poisoned, 4 a completion timeout, 5 an unsuccessful
completion. Kind 1 is an internal error (R495), kind 2 an unsupported request (R442). -/
def aerRead (h : Hw) (port : Nat) (e : ReadEnd) : Hw :=
  match e with
  | .poisoned => h.emit (.aer port 3)
  | .timeout => h.emit (.aer port 4)
  | .unsuccessful => h.emit (.aer port 5)
  | _ => h

/-! ### Sideband status (R465, R467) -/

/-- Status bits set: SMBALERT# is asserted while any is. The bits' places: log entry 40. -/
def sbdRaise (h : Hw) (input temp cml : BitVec 8) : Hw :=
  let h := if h.sbd.alert then h else h.emit (.smbAlert true)
  { h with sbd := { statusInput := h.sbd.statusInput ||| input, statusTemp := h.sbd.statusTemp ||| temp,
                    statusCml := h.sbd.statusCml ||| cml, alert := true } }

/-! ### Rings -/

/-- Slots of a ring (R337). -/
def ringSize (h : Hw) (o r : Nat) : Nat := 2 ^ h.fld F.COM_RING_CFG_LOG2SIZE o r

/-- The function cannot write the ring now: not in D0 or not bus master, and the ring not in BAR2 (R340, R346). -/
def ringBlocked (h : Hw) (o r : Nat) : Bool :=
  ((h.fn o).d3 || !(h.fn o).bme) && h.fld F.COM_RING_BASE_SPACE o r == 0

/-- The function issues requests under its requester ID: not in D3hot, nor in an FLR (R451, R454). -/
def fnIssues (h : Hw) (o : Nat) : Bool := !(h.fn o).d3 && !(h.fn o).flr

/-- The ring takes writes: enabled, not held by a ring error, not blocked (R340). -/
def ringUp (h : Hw) (o r : Nat) : Bool :=
  h.flag F.COM_RING_CFG_EN o r && !(h.fn o).ringDown.contains r && !h.ringBlocked o r

/-- The index of the next slot a producer writes (R338). -/
def ringNext (h : Hw) (o r : Nat) : Nat := NTable.get 0 (h.fn o).wr r

/-- Device-owned slots that no producer has written (R338). -/
def ringFree (h : Hw) (o r : Nat) : Nat :=
  (h.fld F.COM_RING_RET_RET o r + 2 ^ 32 - h.ringNext o r % 2 ^ 32) % 2 ^ 32

/-- The module address of byte `off` of a Commons address of function o (R332, R333). -/
def commonsAddr (h : Hw) (o space addr : Nat) : Nat :=
  if space = 0 then portBase (o / 129) + addr
  else frameBase ((h.fn o).bar2.getD (addr / 0x100000) 0) + addr % 0x100000

/-- A Commons range lies in the function's registered region, or in its backed BAR2 (R333). -/
def commonsOk (h : Hw) (o space addr len : Nat) : Bool :=
  if space = 0 then
    let base := h.fld F.COM_REGION_BASE_ADDR o * 4096
    h.flag F.COM_REGION_BASE_EN o && base ≤ addr &&
      addr + len ≤ base + h.fld F.COM_REGION_SIZE_MIB o * 0x100000
  else h.flag F.COM_BAR2_EN o && decide (addr + len ≤ (h.fn o).bar2.length * 0x100000)

/-- Reads bytes at a Commons address. -/
def commonsRead (h : Hw) (o space addr len : Nat) : List Byte :=
  (List.range len).map fun k => h.rb (h.commonsAddr o space (addr + k))

/-- Stores bytes at a Commons address. -/
def commonsPut (h : Hw) (o space addr : Nat) : List Byte → Hw
  | [] => h
  | b :: bs => (h.wb (h.commonsAddr o space addr) b).commonsPut o space (addr + 1) bs

/-- The 64-bit words that a Commons range covers whole have correct data from now on (R320). -/
def commonsMend (h : Hw) (o space addr n : Nat) : Hw :=
  h.each (List.range (n / 8 + 1)) fun h i =>
    let w := ceilDiv addr 8 * 8 + 8 * i
    if w + 8 ≤ addr + n then h.mend (h.commonsAddr o space w) 8 else h

/-- Writes bytes at a Commons address. -/
def commonsWrite (h : Hw) (o space addr : Nat) (l : List Byte) : Hw :=
  (h.commonsPut o space addr l).commonsMend o space addr l.length

/-- A Commons range holds a poisoned 64-bit word (R320). -/
def commonsPoisoned (h : Hw) (o space addr n : Nat) : Bool :=
  (List.range (n / 8 + 2)).any fun i =>
    let w := addr / 8 * 8 + 8 * i
    decide (w < addr + n) && h.memPoison.contains (h.commonsAddr o space w)

/-- Where slot i of the count lies in the ring (R338). -/
def slotAt (h : Hw) (o r i : Nat) : Nat := h.fld F.COM_RING_BASE_ADDR o r * 4096 + i % h.ringSize o r * 4096

/-- Writes a slot's payload and bytes 8 to 15, before its flip, and claims it (R335). Answers the slot's index. -/
def slotWrite (h : Hw) (o r tag : Nat) (payload : List Byte) : Nat × Hw :=
  let i := h.ringNext o r
  let sp := h.fld F.COM_RING_BASE_SPACE o r
  let h := h.commonsWrite o sp (h.slotAt o r i + 8) (leBytes 8 tag ++ payload)
  (i, h.modFn o fun f => { f with wr := NTable.set 0 f.wr r ((i + 1) % 2 ^ 32) })

/-- The header's first 8 bytes with OWN 0 (R334). -/
def slotHeader (len seq flags type : Nat) : Nat := len * 2 ^ 32 + seq % 2 ^ 16 * 2 ^ 16 + flags * 2 ^ 8 + type * 2 ^ 4

/-- Flips slot i: one aligned 8-byte write, last of the slot (R335); PUB advances (R338), and with IE set an event
follows (R342). -/
def slotFlip (h : Hw) (o r i len seq flags type : Nat) : Hw :=
  let sp := h.fld F.COM_RING_BASE_SPACE o r
  let h := h.commonsWrite o sp (h.slotAt o r i) (leBytes 8 (slotHeader len seq flags type))
  let h := h.setFld F.COM_RING_PUB_PUB o r (i + 1)
  if h.flag F.COM_RING_CFG_IE o r then h.event o (h.fld F.COM_RING_CFG_VEC o r) else h

/-- Writes and flips one slot, for producers that publish at once. -/
def slotPublish (h : Hw) (o r tag : Nat) (payload : List Byte) (seq flags type : Nat) : Hw :=
  let (i, h) := h.slotWrite o r tag payload
  h.slotFlip o r i payload.length seq flags type

/-! ### The error queue (R341) -/

/-- A record as 32 bytes, with its FSEQ (R489). -/
def recBytes (fseq : Nat) (e : ErrRec) : List Byte :=
  leBytes 4 fseq ++ leBytes 4 e.mseq ++ leBytes 1 e.severity ++ leBytes 1 e.scope ++ leBytes 1 e.source ++
    leBytes 1 e.cause ++ leBytes 4 e.index ++ leBytes 8 e.bell.toNat ++ leBytes 8 e.detail.toNat

/-- n records of function o are not queued (R341). -/
def eqLose (h : Hw) (o n : Nat) : Hw :=
  (h.count F.COM_EQ_STAT_LOST o 0 n).modFn o fun f => { f with eqLost := min (f.eqLost + n) (2 ^ 32 - 1) }

/-- Flips the ERRORS slot in progress, if any, into its ring; if the ring cannot take it, its records are lost
(R341, R527). -/
def eqFlip (h : Hw) (o : Nat) : Hw :=
  let f := h.fn o
  match f.eqRing with
  | none => h
  | some r =>
    let h' := h.setFn o { f with eqRing := none, eqSlot := [] }
    if h.ringUp o r then
      let payload := leBytes 2 f.eqSlot.length ++ leBytes 2 0 ++ leBytes 4 f.eqLost ++ leBytes 8 0 ++
        f.eqSlot.flatMap fun e => recBytes e.1 e.2
      (h'.slotPublish o r 0 payload f.eqSeq 0 9).modFn o fun f =>
        { f with eqSeq := (f.eqSeq + 1) % 2 ^ 16, eqLost := 0 }
    else h'.eqLose o f.eqSlot.length

/-- Queues a record to function o: FSEQ advances whether it is queued or lost (R490); a full slot is flipped. -/
def eqPut (h : Hw) (o : Nat) (e : ErrRec) : Hw :=
  let n := (h.fn o).fseq
  let h := h.modFn o fun f => { f with fseq := (f.fseq + 1) % 2 ^ 32 }
  let r := h.fld F.COM_EQ_RING o
  let f := h.fn o
  if !h.flag F.COM_EQ_EN o then h.eqLose o 1
  else
    match f.eqRing with
    | some _ =>
      let h := h.setFn o { f with eqSlot := f.eqSlot ++ [(n, e)] }
      if f.eqSlot.length + 1 ≥ 127 then h.eqFlip o else h
    | none =>
      if h.ringUp o r && decide (1 ≤ h.ringFree o r) then
        h.setFn o { f with eqRing := some r, eqSlot := [(n, e)] }
      else h.eqLose o 1

/-! ### Records (R489 to R493) -/

/-- The lowest-numbered parish whose Bell runs. -/
def bellParish (h : Hw) : Option Nat := (List.range 16).find? fun n => (h.parish n).bellRuns

/-- The BELL field: VALID, parish and BEL_COUNT, of the scope's parish where it has one (R489, R490). -/
def bellField (h : Hw) (p : Option Nat) : DWord :=
  match p <|> h.bellParish with
  | none => 0
  | some n =>
    BitVec.ofNat 64 (b2n (h.parish n).bellRuns * 2 ^ 63 + n * 2 ^ 56 + h.fld F.BEL_COUNT_COUNT n % 2 ^ 56)

/-- Raises a record: MSEQ advances, the severity's counter counts, and each function gets a copy (R341, R490). -/
def raise (h : Hw) (sev scope : Nat) (src : Blk) (cause index : Nat) (p : Option Nat) (dests : List Nat)
    (detail : Nat) : Hw :=
  let e : ErrRec := ⟨h.fld F.ERR_MSEQ_NEXT, sev, scope, src.code, cause, index, h.bellField p, BitVec.ofNat 64 detail⟩
  let h := h.countWrap F.ERR_MSEQ_NEXT
  let h := h.count F.ERR_CNT_COUNT 0 sev
  let h := if sev = 2 then
      let b := recBytes 0 e
      h.each (List.range 4) fun h i => h.setFld F.ERR_FATAL_REC 0 i (fromLe ((b.drop (8 * i)).take 8))
    else h
  h.each dests fun h o => h.eqPut o e

/-- Both PFs (R341). -/
def bothPfs : List Nat := [0, 129]

/-- Who receives a record of cottage scope: the owner, and the PF of its port if the owner is a VF (R341). A context
without an owner reports to both PFs. -/
def cotDests (h : Hw) (c : Nat) : List Nat :=
  match h.ownerOf c with
  | none => bothPfs
  | some o => if o % 129 = 0 then [o] else [o, o / 129 * 129]

/-- A record of cottage scope. -/
def raiseCot (h : Hw) (sev : Nat) (src : Blk) (cause c detail : Nat) : Hw :=
  h.raise sev 2 src cause c (some (c / 256)) (h.cotDests c) detail

/-- A record of parish scope. -/
def raiseParish (h : Hw) (sev : Nat) (src : Blk) (cause n detail : Nat) : Hw :=
  h.raise sev 1 src cause n (some n) bothPfs detail

/-- A record of module scope. -/
def raiseModule (h : Hw) (sev : Nat) (src : Blk) (cause detail : Nat) : Hw :=
  h.raise sev 0 src cause 0 none bothPfs detail

/-- A DETAIL whose layout the spec does not give (log entry 25). -/
def detailOf (src : Blk) (l : List Nat) : Nat := (Config.recordDetail src.code l).toNat

/-- The INDEX of a channel: KIND, port, function, number (R493). -/
def chanIndex (kind o num : Nat) : Nat := kind * 2 ^ 28 + o / 129 * 2 ^ 24 + o % 129 * 2 ^ 16 + num % 2 ^ 16

/-- A record of channel scope for a channel of function o. -/
def raiseChan (h : Hw) (sev : Nat) (src : Blk) (cause kind o num : Nat) (p : Option Nat) (detail : Nat) : Hw :=
  h.raise sev 3 src cause (chanIndex kind o num) p [o] detail

/-- A record of channel scope that goes to both PFs: TDM, eDP and register channels (R341). -/
def raiseShared (h : Hw) (sev : Nat) (src : Blk) (cause kind num : Nat) (p : Option Nat) (detail : Nat) : Hw :=
  h.raise sev 3 src cause (chanIndex kind 0 num) p bothPfs detail

/-! ### Dropped and reported writes (R6, R492) -/

/-- The agent field of a WRITE_DROPPED record (R492). -/
def agentBits : Agent → Nat
  | .pf p => p * 256
  | .vf p v => p * 256 + v
  | .reeve r _ => 0x8000 + r
  | .cottage c => c

/-- The scope of a register's instance (R6, R493, R524): the cottage, the parish, a channel, or the module. -/
def droppedAt (h : Hw) (b : Blk) (kind : Bank) (i j : Nat) (cause detail : Nat) : Hw :=
  match kind with
  | .cottage => h.raiseCot 0 b cause i detail
  | .perPortCot | .perCot => h.raiseCot 0 b cause j detail
  | .parish => if b = .GRN then h.raiseCot 0 b cause (i * 256 + j / 256) detail else h.raiseParish 0 b cause i detail
  | .perFn => h.raiseChan 0 b cause 9 i 0 none detail
  | _ => h.raiseModule 0 b cause detail

/-- The function that owns chain channel j of parish n (R366). -/
def chainOwner (h : Hw) (n j : Nat) : Nat :=
  let v := h.fld F.CAR_CH_OWN_OWNER n j
  v / 256 * 129 + v % 256

/-- A record common to every block (R492) about register n[i][j]: the scope is that of the register's instance, a channel
where the instance is one (R6, R493; for other blocks than COM, log entry 15). -/
def dropRecord (h : Hw) (n : RegName) (i j cause detail : Nat) : Hw :=
  let d := n.desc
  match n with
  | .COM_RING_BASE | .COM_RING_CFG | .COM_RING_RET | .COM_RING_PUB | .COM_RING_STAT =>
    h.raiseChan 0 .COM cause 0 i j none detail
  | .CHR_RT => h.raiseCot 0 .CHR cause (i * 256 + j / 4) detail
  | .GRN_CVRAM | .GRN_CSTAT | .GRN_CCNT => h.raiseCot 0 .GRN cause (i * 256 + j) detail
  | .CAR_CH_HEAD | .CAR_CH_CUR | .CAR_CH_SRC | .CAR_CH_DST | .CAR_CH_CNT | .CAR_CH_CTL | .CAR_CH_STAT
  | .CAR_CH_RING | .CAR_CH_DB | .CAR_CH_OWN =>
    h.raiseChan 0 .CAR cause 1 (h.chainOwner i j) (8 * i + j) (some i) detail
  | .CAR_RC_SRC | .CAR_RC_DST | .CAR_RC_CNT | .CAR_RC_CTL => h.raiseShared 0 .CAR cause 2 (16 * i + j) (some i) detail
  | .CHS_P_OWN | .CHS_P_SRC | .CHS_P_DST | .CHS_P_PITCH | .CHS_P_SPOS | .CHS_P_DPOS | .CHS_P_SIZE | .CHS_P_END
  | .CHS_P_COLOR | .CHS_P_KEY | .CHS_P_CLIP0 | .CHS_P_CLIP1 | .CHS_P_CTL | .CHS_P_STAT | .CHS_P_CFG =>
    let m := j / d.n2
    let o := h.fld F.CHS_P_OWN_PORT i m * 129
    if h.flag F.CHS_P_OWN_REEVE i m then h.raise 0 3 .CHS cause (chanIndex 10 o (2 * i + m)) (some i) bothPfs detail
    else h.raiseChan 0 .CHS cause 10 o (2 * i + m) (some i) detail
  | .CHR_TDM_CTL | .CHR_TDM_STAT | .CHR_TDM_FRAME | .CHR_TDM_GAP => h.raiseShared 0 .CHR cause 5 j none detail
  | .POR_EDP_CTL | .POR_EDP_STAT | .POR_EDP_DST | .POR_EDP_TIM | .POR_EDP_FB | .POR_EDP_BORDER | .POR_EDP_DEFER
  | .POR_EDP_SU | .POR_EDP_AUX => h.raiseShared 0 .POR cause 6 (j / d.n2) none detail
  | .TRD_CTL | .TRD_PCFG | .TRD_DIV | .TRD_CNT | .TRD_CMD | .TRD_STAT | .TRD_FIFO | .TRD_TXF | .TRD_RXF | .TRD_SHEAF
  | .TRD_SKEIN | .TRD_OWN | .TRD_LUT => h.raiseShared 0 .TRD cause 7 (j / d.n2) none detail
  | _ => h.droppedAt d.blk d.bank i j cause detail

/-- The address that a WRITE_DROPPED record names: the BAR0 offset, which IO space shares, or for a core on its private port
that port's address (R424, R492). -/
def pathAddr (ag : Agent) (n : RegName) (j off : Nat) : Nat :=
  match ag, n with
  | .reeve _ .secure, _ => off - 0x2C0000
  | .reeve _ .priv, .LAN_OUT => 4 * j
  | .reeve _ .priv, .TRD_TXF => 0x100 + 8 * j
  | _, _ => off

/-- Reports a dropped write of register n[i][j] at BAR0 offset `off` by `ag` (R6, R492). -/
def dropWrite (h : Hw) (ag : Agent) (n : RegName) (i j off : Nat) : Hw :=
  h.dropRecord n i j 0xF0 (agentBits ag * 2 ^ 48 + pathAddr ag n j off % 2 ^ 32)

/-- The BAR0 offset of a register's copy (R12), in the view of the function where it is banked per function. -/
def regOffset (n : RegName) (i j : Nat) : Nat :=
  let d := n.desc
  (match d.bank with
    | .perPort | .parish | .cottage => d.base + i * d.bankStride
    | _ => d.base) + j / d.n2 * d.s1 + j % d.n2 * d.s2

end Sys2Proof.Machine.Hw
end

