-- ==== Sys2Proof/Machine/Access.lean ====
section
/-!
DEFINITION. Writes of BAR0 registers (R5, R6, R78, R79, R447, R448, R523): who sees a register, which locked fields a
write may change, what each access type stores. -/

namespace Sys2Proof.Machine

/-- The expert mask bit of a parish block (R78). -/
def parishExpertBit (b : Blk) : Option Nat :=
  match b with
  | .BEL => some 0 | .COT => some 1 | .TLY => some 2 | .LOM => some 3 | .RLF => some 4 | .CHR => some 5
  | .LRD => some 6 | .ARB => some 7 | .CAR => some 8 | .CHS => some 9 | .PIC => some 10 | .CIB => some 11
  | _ => none

/-- The expert mask bit of a module block (R78). -/
def moduleExpertBit (b : Blk) : Option Nat :=
  match b with
  | .POR => some 0 | .GRN => some 1 | .HAY => some 2 | .HBM => some 3 | .COM => some 4 | .TMR => some 5
  | .LAN => some 6 | .TRD => some 7 | .RVE => some 8 | .SBD => some 9
  | _ => none

/-- What a write of v stores in a field that holds old, by access type (R5). -/
def Acc.store (a : Acc) (old v : Nat) : Nat :=
  match a with
  | .rw | .rwl => v
  | .ro | .wo => old
  | .w1c => old &&& (old ^^^ v)
  | .w1s => old ||| v

namespace Hw

/-- A context that a SLOTS record covers, on port p. -/
def cotOnPort (h : Hw) (c p : Nat) : Bool := h.portOf c == some p

/-- The cottage that a register's instance belongs to, if it belongs to one. -/
def regCot (n : RegName) (i j : Nat) : Option Nat :=
  match n with
  | .GRN_CMAP => some (i * 256 + j / 256)
  | .GRN_CVRAM | .GRN_CSTAT | .GRN_CCNT => some (i * 256 + j)
  | .CHR_RT => some (i * 256 + j / 4)
  | _ =>
    match n.desc.bank with
    | .cottage => some i
    | .perPortCot | .perCot => some j
    | _ => none

/-- A register of a chain channel, which is in its owner's view (R366). -/
def isChainReg (n : RegName) : Bool :=
  match n with
  | .CAR_CH_HEAD | .CAR_CH_CUR | .CAR_CH_SRC | .CAR_CH_DST | .CAR_CH_CNT | .CAR_CH_CTL | .CAR_CH_STAT | .CAR_CH_RING
  | .CAR_CH_DB => true
  | _ => false

/-- A register of a privileged Chisel channel, which is in its owner's view (R386). -/
def isPrivChisel (n : RegName) : Bool :=
  match n with
  | .CHS_P_SRC | .CHS_P_DST | .CHS_P_PITCH | .CHS_P_SPOS | .CHS_P_DPOS | .CHS_P_SIZE | .CHS_P_END | .CHS_P_COLOR
  | .CHS_P_KEY | .CHS_P_CLIP0 | .CHS_P_CLIP1 | .CHS_P_CTL | .CHS_P_STAT | .CHS_P_CFG => true
  | _ => false

/-- What a PF sees in the boot window (R483): TOP_ID and its own PWR_BOOT bank. -/
def bootView (n : RegName) (i p : Nat) : Bool :=
  match n with
  | .TOP_ID => true
  | .PWR_BOOT_FW | .PWR_BOOT_FWLEN | .PWR_BOOT_CMD | .PWR_BOOT_PATCH | .PWR_BOOT_PLEN | .PWR_BOOT_STAT => i == p
  | _ => false

/-- A function's writes are dropped without report: the boot window shows (R483). -/
def unreported (h : Hw) (ag : Agent) : Bool := h.boot.stage == .window && (agentFn ag).isSome

/-- A request completes as Unsupported Request and is logged (R442). -/
def unsupported (h : Hw) (port : Nat) : Hw := (h.emit (.ur port)).emit (.aer port 2)

/-- A function's BARs answer: it is enabled, in D0 and not in FLR, and its link is up (R446, R451, R454). -/
def barAnswers (h : Hw) (o : Nat) : Bool :=
  (h.fn o).enabled && !(h.fn o).d3 && !(h.fn o).flr && (h.port (o / 129)).up

/-- The agent's access reaches the block: a core's always, a function's while its BARs answer. -/
def reaches (h : Hw) (ag : Agent) : Bool := ((agentFn ag).map h.barAnswers).getD true

/-- The register's instance lies in the view of an agent whose access reaches the block (R447, R483). -/
def inView (h : Hw) (ag : Agent) (n : RegName) (i j : Nat) : Bool :=
  match ag with
  | .reeve _ _ => !(n.desc.bank == .cottage && (h.slotOf i).isNone)
  | .cottage _ => false
  | .pf p =>
    if h.boot.stage == .window then bootView n i p
    else match n.desc.bank with
    | .perPf | .perPort => i == p
    | .perFn => i == 129 * p
    | _ =>
      match regCot n i j with
      | some c => h.cotOnPort c p
      | none =>
        if isPrivChisel n then
          let m := j / n.desc.n2
          !h.flag F.CHS_P_OWN_REEVE i m && h.fld F.CHS_P_OWN_PORT i m == p
        else true
  | .vf p v =>
    let o := 129 * p + v
    match n.desc.bank with
    | .perFn => i == o
    | .parish =>
      match regCot n i j with
      | some c => n.desc.blk = .GRN && h.ownerOf c == some o
      | none => isChainReg n && h.chainOwner i j == o
    | .cottage => h.ownerOf i == some o
    | _ => n == .TOP_ID

/-- The agent's access reaches the register's instance. -/
def sees (h : Hw) (ag : Agent) (n : RegName) (i j : Nat) : Bool := h.reaches ag && h.inView ag n i j

/-- Locked fields of the instance may be changed by the agent (R79). -/
def unlocked (h : Hw) (ag : Agent) (n : RegName) (i : Nat) : Bool :=
  let d := n.desc
  let parishMask := fun (q : Nat) => ((h.parish q).arm.map (·.expert)).getD 0
  let inParish := fun (q : Nat) =>
    match parishExpertBit d.blk with
    | some b => bit (parishMask q) b
    | none => false
  let inModule :=
    match moduleExpertBit d.blk with
    | some b => bit ((h.modArm.map (·.expert)).getD 0) b
    | none => false
  let open_ :=
    match d.bank with
    | .cottage => inParish (i / 256)
    | .parish => inParish i
    | _ => inModule
  match ag with
  | .vf _ _ =>
    open_ && (d.blk == .COT || d.blk == .TLY || d.blk == .CIB) && ((h.slotOf i).map fun s => bit s.flags 0).getD false
  | _ => open_

/-- The value a register takes when every field of v is stored by its access type (R5). -/
def mergeFields (fs : List FieldDesc) (old v : Nat) : Nat :=
  fs.foldl (fun acc f => setBits acc f.hi f.lo (f.acc.store (bits old f.hi f.lo) (bits v f.hi f.lo))) old

/-- The write would change a locked field (R523). -/
def changesLocked (h : Hw) (ag : Agent) (n : RegName) (i j v : Nat) : Bool :=
  !h.unlocked ag n i && n.desc.fields.any fun f =>
    f.acc == .rwl && bits (h.reg n i j).toNat f.hi f.lo != bits v f.hi f.lo

/-- Stores the fields of a write by their access types, without checks. -/
def storeFields (h : Hw) (n : RegName) (i j v : Nat) : Hw :=
  h.setReg n i j (BitVec.ofNat 64 (mergeFields n.desc.fields (h.reg n i j).toNat v))

/-- A write of the register is dropped and reported (R6). -/
def refuse (h : Hw) (ag : Agent) (n : RegName) (i j : Nat) : Hw :=
  if h.unreported ag then h else h.dropWrite ag n i j (regOffset n i j)

/-- The access of a function that does not answer completes as Unsupported Request. -/
def unreached (h : Hw) (ag : Agent) : Hw :=
  match agentFn ag with
  | some o => h.unsupported (o / 129)
  | none => h

/-- A write outside the agent's view is dropped and reported with cottage scope in a cottage page and module scope
otherwise (R448). The page of a context without a cottage holds no register, so a write of it is dropped without report (R11,
R73). -/
def refuseView (h : Hw) (ag : Agent) (n : RegName) (i j : Nat) : Hw :=
  let d := n.desc
  let detail := agentBits ag * 2 ^ 48 + regOffset n i j % 2 ^ 32
  if !h.reaches ag then h.unreached ag
  else if h.unreported ag then h
  else match d.bank with
    | .cottage => if (h.slotOf i).isNone then h else h.raiseCot 0 d.blk 0xF0 i detail
    | _ => h.raiseModule 0 d.blk 0xF0 detail

/-- The frame of every register write that has checks of its own: outside the view it is refused with its scope;
a change of a locked field, or a write that `ok` refuses, is dropped and reported; otherwise `act` has its effect. -/
def guarded (h : Hw) (ag : Agent) (n : RegName) (i j v : Nat) (ok : Bool) (act : Hw → Hw) : Hw :=
  if !h.sees ag n i j then h.refuseView ag n i j
  else if h.changesLocked ag n i j v || !ok then h.refuse ag n i j
  else act h

/-! ### Owners and readers (R414, R420, R421) -/

/-- The access comes from the security domain (R421). -/
def secureAgent (h : Hw) (ag : Agent) : Bool :=
  match ag with
  | .reeve r .secure => h.fld F.LAN_SEC_CORE == r
  | _ => false

/-- The agent is the owner that a code names (R420). -/
def ownsCode (h : Hw) (code : Nat) (ag : Agent) : Bool :=
  match ag with
  | .reeve r _ => if code = 0 then h.secureAgent ag else code == r + 1
  | .pf p => code == p + 5
  | _ => false

/-- A reader of module registers: Reeve 0 to 3 as 0 to 3, the PFs as 4 and 5 (R414). -/
def readerNo (ag : Agent) : Option Nat :=
  match ag with
  | .reeve r _ => some r
  | .pf p => some (4 + p)
  | _ => none

/-- A read by a function returns a value to it; a core's read returns it to the core's load. -/
def answer (h : Hw) (ag : Agent) (v : Nat) : Hw :=
  match agentFn ag with
  | some o => if h.barAnswers o then h.emit (.readData o (BitVec.ofNat 64 v)) else h.unsupported (o / 129)
  | none => h

end Hw

end Sys2Proof.Machine
end

