-- ==== Sys2Proof/Machine/Granary.lean ====
section
/-!
DEFINITION. The Granary's operations (R280 to R298, R528): frames, references, quotas, eviction, titles,
copy-on-write, and how an access of a cottage resolves. The Granary's commands stand in GranaryCmd.lean. -/

namespace Sys2Proof.Machine

/-- The owner number of module frames (R282). -/
def moduleOwner : Nat := 0x3FF

/-- How an access through a cottage map resolves (R290): to a byte of a frame; to a Hob fault cause; to a wait for a
granule; or to a containment with a Granary cause (R310, R311). -/
inductive Res where
  | at (frame off : Nat)
  | fault (cause : Nat)
  | wait (frame g : Nat)
  | contain (cause : Nat)
  deriving DecidableEq, Repr

namespace Hw

/-! ### References (R283, R284) -/

/-- Private-class frames are PRIVATE while their only reference is live, COW otherwise (R284). -/
def settle (f : Frame) : Frame :=
  match f.state with
  | .priv | .cow => { f with state := if f.sharers = 1 ∧ f.live = 1 then .priv else .cow }
  | _ => f

/-- Adds a reference to a frame. -/
def addRef (h : Hw) (f : Nat) (live : Bool) : Hw :=
  let e := h.frame f
  h.setFrame f (settle { e with sharers := e.sharers + 1, live := e.live + b2n live })

/-- Forgets a frame in the title index, and what was under way for it. -/
def unindex (h : Hw) (f : Nat) : Hw :=
  { h with gran := { h.gran with
    index := h.gran.index.filter fun e => e.2.2 ≠ f,
    copies := h.gran.copies.filter fun e => e.frame ≠ f,
    pageins := h.gran.pageins.filter fun e => e.1 ≠ f } }

/-- Frees a frame whose last reference went: it no longer counts against its owner (R292), leaves the title index, and
loses its LINK as a reference. Answers the frame its LINK named, if that was a link reference. -/
def releaseFrame (h : Hw) (f : Nat) : Option Nat × Hw :=
  let e := h.frame f
  let linked := if e.lvalid && (e.state == .priv || e.state == .cow) then some e.link else none
  let h := if e.owner = moduleOwner then h else
    h.setFld F.GRN_OWN_USED 0 e.owner (h.fld F.GRN_OWN_USED 0 e.owner - 1)
  (linked, (h.setFrame f Frame.free).unindex f)

/-- Drops a reference to a frame, and those of the chain it frees (R284, R297); a chain holds at most 9 frames. A
POISONED frame stays until DROP (R310). -/
def dropRefs : Nat → Hw → Nat → Bool → Hw
  | 0, h, _, _ => h
  | fuel + 1, h, f, live =>
    let e := h.frame f
    if e.state = .free then h
    else if e.state = .poisoned ∧ e.sharers ≤ 1 then h.setFrame f { e with sharers := 0, live := 0 }
    else if e.sharers ≤ 1 then
      match h.releaseFrame f with
      | (some l, h) => dropRefs fuel h l false
      | (none, h) => h
    else h.setFrame f (settle { e with sharers := e.sharers - 1, live := e.live - b2n live })

/-- Drops one reference to a frame. -/
def dropRef (h : Hw) (f : Nat) (live : Bool) : Hw := dropRefs 16 h f live

/-! ### Cottage map entries (R285 to R287) -/

/-- The map entry e of cottage c. -/
def cmap (h : Hw) (c e : Nat) : Nat := (h.reg .GRN_CMAP (c / 256) (c % 256 * 256 + e)).toNat

/-- The frame that entry e of cottage c is resolved to. -/
def cmapFrame (h : Hw) (c e : Nat) : Option Nat :=
  if bit (h.cmap c e) 2 then some (bits (h.cmap c e) 35 20) else none

/-- Names a frame in entry e of cottage c. -/
def setCmapFrame (h : Hw) (c e : Nat) (f : Option Nat) : Hw :=
  let i := c / 256
  let j := c % 256 * 256 + e
  (h.setFld F.GRN_CMAP_FRAME i j (f.getD 0)).setFld F.GRN_CMAP_RES i j (b2n f.isSome)

/-- The video RAM frame of cottage c. -/
def vramFrame (h : Hw) (c : Nat) : Option Nat :=
  if h.flag F.GRN_CVRAM_RES (c / 256) (c % 256) then some (h.fld F.GRN_CVRAM_FRAME (c / 256) (c % 256)) else none

/-- Names the video RAM frame of cottage c. -/
def setVramFrame (h : Hw) (c : Nat) (f : Option Nat) : Hw :=
  (h.setFld F.GRN_CVRAM_FRAME (c / 256) (c % 256) (f.getD 0)).setFld F.GRN_CVRAM_RES (c / 256) (c % 256) (b2n f.isSome)

/-- Every live reference to a frame in some cottage map is dropped; the entries fall back to the title index (R296,
R309, R310). -/
def dropMapRefs (h : Hw) (f : Nat) : Hw :=
  h.each (h.regs.filterMap fun e =>
      if e.1.name = .GRN_CMAP ∧ bit e.2.toNat 2 ∧ bits e.2.toNat 35 20 = f then some e.1 else none)
    fun h r => h.setCmapFrame (r.bank * 256 + r.idx / 256) (r.idx % 256) none

/-! ### Quotas, eviction and allocation (R281, R292, R296) -/

/-- The quota of owner o in frames (R292, R309). -/
def quotaOf (h : Hw) (o : Nat) : Nat :=
  match h.modArm with
  | none => 0xFFFFFFFF
  | some m => ((m.quotas.find? fun q => q.1 == o).map (·.2)).getD 0

/-- A channel may serve an allocation: trained (R482), not evacuated nor being evacuated (R309). -/
def channelOpen (h : Hw) (q : Nat) : Bool :=
  bit (h.fld F.PWR_HBMTR_CHAN) q && !h.gran.evacuated.contains q && !h.gran.evacuating.any fun e => e.2 == q

/-- The lowest-numbered free frame of a channel (which of a channel's free frames is taken: log entry 16). -/
def freeIn (h : Hw) (q : Nat) : Option Nat :=
  if h.channelOpen q then
    (List.range 1024).findSome? fun i =>
      if (h.frame (q * 1024 + i)).state = .free then some (q * 1024 + i) else none
  else none

/-- A free frame from the channel after that of the previous allocation, in rising order modulo 64 (R281). -/
def pickFrame (h : Hw) : Option Nat :=
  (List.range 64).findSome? fun k => h.freeIn ((h.gran.lastChannel + 1 + k) % 64)

/-- Removes a SHARED_RO frame: its references fall back to the title index, and it is freed (R296). -/
def evictFrame (h : Hw) (f : Nat) : Hw :=
  let h := h.dropMapRefs f
  ((h.releaseFrame f).2).countWrap F.GRN_CNT_EVICT_EVICT

/-- The clock hand of owner o passes the frames of `l` in turn, and says whether it evicted one (R296). -/
def clock : List Nat → Hw → Nat → Bool × Hw
  | [], h, _ => (false, h)
  | f :: l, h, o =>
    let e := h.frame f
    let h := { h with gran := { h.gran with hands := NTable.set 0 h.gran.hands o (f + 1) } }
    if e.owner ≠ o then clock l h o
    else if e.ref then clock l (h.setFrame f { e with ref := false, age := 0 }) o
    else if e.state = .sharedRo then (true, h.evictFrame f)
    else clock l (h.setFrame f { e with age := min (e.age + 1) 255 }) o

/-- Evicts one title frame of owner o within two revolutions of its hand, if it can (R296). -/
def evict (h : Hw) (o : Nat) : Bool × Hw :=
  let mine := (h.gran.map.filter fun e => decide (e.2.owner = o ∧ e.2.state ≠ .free)).map (·.1)
  let start := NTable.get 0 h.gran.hands o
  let turn := mine.filter (start ≤ ·) ++ mine.filter (· < start)
  clock (turn ++ turn) h o

/-- Takes a free frame for owner o with the given entry; a zero-filled one unless a page-in or a copy writes all of it
(R281). -/
def takeFrame (h : Hw) (o : Nat) (e : Frame) : Option Nat × Hw :=
  match h.pickFrame with
  | none => (none, h)
  | some f =>
    let h := { h with gran := { h.gran with lastChannel := f / 1024 } }
    let h := (h.zero (frameBase f) 0x100000).setFrame f { e with owner := o }
    (some f, if o = moduleOwner then h else h.countWrap F.GRN_OWN_USED 0 o)

/-- Allocates a frame to owner o, evicting where the quota, or without a module Armature the want of a FREE frame,
asks for it (R292); none when nothing can be evicted, with what the hand did on its way. -/
def allocFrame (h : Hw) (o : Nat) (e : Frame) : Option Nat × Hw :=
  if o = moduleOwner then h.takeFrame o e
  else if h.fld F.GRN_OWN_USED 0 o + 1 > h.quotaOf o ∨ (h.modArm = none ∧ h.pickFrame = none) then
    match h.evict o with
    | (false, h) => (none, h)
    | (true, h) => h.takeFrame o e
  else h.takeFrame o e

/-- The entry of a newly allocated private frame with one live reference. -/
def privFrame : Frame :=
  { lvalid := false, link := 0, age := 0, gran := 0xFFFF, sharers := 1, live := 1, owner := 0, ref := true,
    isPublic := false, state := .priv }

/-! ### Chains and copies (R297, R298) -/

/-- The first frame along the LINK chain of f that holds granule g (R297). -/
def granuleHome : Nat → Hw → Nat → Nat → Nat
  | 0, _, f, _ => f
  | fuel + 1, h, f, g =>
    let e := h.frame f
    if bit e.gran g || !e.lvalid || e.state = .sharedRo || e.state = .inFlight then f
    else granuleHome fuel h e.link g

/-- The module address that holds byte `off` of frame f, read through its chain (R297). -/
def frameAddr (h : Hw) (f off : Nat) : Nat := frameBase (granuleHome 9 h f (off / 0x10000)) + off

/-- Completes the copy of granule g into frame f: the bytes, the GRAN bit, the counters; when GRAN is full the link
reference is dropped (R297, R298). It counts for the cottage whose write asked for it. -/
def copyGranule (h : Hw) (f g c : Nat) : Hw :=
  let e := h.frame f
  if bit e.gran g || !e.lvalid then h
  else
    let src := granuleHome 9 h f g
    let origin := frameBase src + g * 0x10000
    let target := frameBase f + g * 0x10000
    let h := h.copyMem origin target 0x10000
    let gran := e.gran + 2 ^ g
    let h := (h.countWrap F.GRN_CNT_COW_COW).count F.GRN_CCNT_COW (c / 256) (c % 256)
    let spoiled := (h.memPoison.filter fun w => w / 0x10000 == origin / 0x10000).map fun w =>
      w % 0x10000 + target
    let h := { h with memPoison := h.memPoison ++ spoiled }
    if gran = 0xFFFF then (h.setFrame f { e with gran := gran, lvalid := false, link := 0 }).dropRef e.link false
    else h.setFrame f { e with gran := gran }

/-- The number of frames of the LINK chain that begins at frame f. -/
def chainLength : Nat → Hw → Nat → Nat
  | 0, _, _ => 0
  | fuel + 1, h, f => if (h.frame f).lvalid then 1 + chainLength fuel h (h.frame f).link else 1

/-- Frame p takes over the granules that it lacks of the frame which it links to, and that frame's LINK; the frame, which nothing
else names, becomes FREE. -/
def foldFrame (h : Hw) (p : Nat) : Hw :=
  let e := h.frame p
  let q := e.link
  let x := h.frame q
  let h := h.each ((List.range 16).filter fun g => !bit e.gran g && bit x.gran g) fun h g =>
    h.copyMem (frameBase q + g * 0x10000) (frameBase p + g * 0x10000) 0x10000
  let h := h.setFrame p { e with gran := e.gran ||| x.gran, lvalid := x.lvalid, link := x.link }
  (h.releaseFrame q).2

/-- Folds the first frame of the chain of f, beyond f, that only the frame before it names (log entry 59). -/
def foldChain : Nat → Hw → Nat → Hw
  | 0, h, _ => h
  | fuel + 1, h, f =>
    let e := h.frame f
    if !e.lvalid then h
    else if (h.frame e.link).sharers = 1 then h.foldFrame f
    else foldChain fuel h e.link

/-- A chain that holds 9 frames, the most R297 allows, is shortened before another frame links to it. -/
def keepChain (h : Hw) (f : Nat) : Hw := if 9 ≤ chainLength 10 h f then foldChain 9 h f else h

/-- What a write needs before it can be performed (R297): nothing, a granule copy into the frame, or an allocation that
failed. -/
inductive WriteReady where
  | ready (f : Nat)
  | copy (f : Nat)
  | exhausted

/-- Steps 1 and 2 of R297 for a write to granule g through a live reference to frame x: allocates the linked frame of a
COW frame, and says whether the granule must be copied. `move` names the new frame in the reference. -/
def prepareWrite (h : Hw) (x g : Nat) (move : Hw → Nat → Hw) : WriteReady × Hw :=
  let e := h.frame x
  if e.state = .cow then
    match h.allocFrame e.owner { privFrame with lvalid := true, link := x, gran := 0 } with
    | (none, h) => (.exhausted, h)
    | (some y, h) =>
      let ex := h.frame x
      let h := (h.setFrame x (settle { ex with live := ex.live - 1 })).keepChain x
      (.copy y, move h y)
  else if bit e.gran g then (.ready x, h)
  else (.copy x, h)

/-- The frame's channel is being evacuated: its writers wait (R298, R309). -/
def evacuates (h : Hw) (f : Nat) : Bool := h.gran.evacuating.any fun e => e.2 == f / 1024

/-- Asks for the copy of granule g into frame f for a write of cottage c, unless it is under way. -/
def askCopy (h : Hw) (f g c : Nat) : Hw :=
  if h.gran.copies.any fun e => e.frame == f && e.g == g then h
  else { h with gran := { h.gran with copies := h.gran.copies ++ [⟨f, g, c⟩] } }

/-- Whether a write may be performed (R298): in frame f; after a wait for granule g of frame f; never, copy-on-write being
exhausted. -/
inductive WriteGate where
  | ready (f : Nat)
  | wait (f g : Nat)
  | exhausted

/-- Makes ready a write of cottage c to byte `off` of frame f through a live reference (R297, R298). -/
def writeGate (h : Hw) (c f off : Nat) (move : Hw → Nat → Hw) : WriteGate × Hw :=
  let g := off / 0x10000
  if h.evacuates f then (.wait f g, h)
  else
    match h.prepareWrite f g move with
    | (.ready f, h) => (.ready f, h)
    | (.copy f, h) => (.wait f g, h.askCopy f g c)
    | (.exhausted, h) => (.exhausted, h)

/-! ### Titles (R294, R295) -/

/-- A fabric source lies in a public region of the module Armature (R294). -/
def isPublicSrc (h : Hw) (src : Nat) : Bool :=
  match h.modArm with
  | none => false
  | some m => m.publics.any fun p => decide (p.1 ≤ src * 0x100000 ∧ src * 0x100000 + 0x100000 ≤ p.1 + p.2)

/-- The indexed frame of a source that R291 and R295 let a cottage of owner o resolve to. -/
def titleFrame (h : Hw) (o src : Nat) : Option Nat :=
  (h.gran.index.find? fun e =>
      e.1 == o / 129 && e.2.1 == src &&
        (let f := h.frame e.2.2
         (f.owner == o || (f.isPublic && (f.state == .sharedRo || f.state == .inFlight))) &&
           (decide (f.sharers < 4095) || f.state == .poisoned))).map (·.2.2)

/-- The granules of a page-in in the order of their requests: the missed one, those above it, those below it (R294). -/
def requestOrder (first : Nat) : List Nat := (List.range 16).map fun i => (first + i) % 16

/-- The granules of frame f's page-in that are requested and not there: at most 8 (R294). -/
def outstanding (h : Hw) (f : Nat) : List Nat :=
  match h.gran.pageins.find? fun e => e.1 == f with
  | none => []
  | some (_, first, asked) => ((requestOrder first).take asked).filter fun g => !bit (h.frame f).gran g

/-- Whose requester ID the requests for a frame carry: for a public page-in that of the PF of the port, otherwise the owner's (R294). -/
def requester (h : Hw) (f : Nat) : Nat :=
  let e := h.frame f
  if e.isPublic then e.owner / 129 * 129 else e.owner

/-- The request for granule g of frame f's page-in. -/
def requestGranule (h : Hw) (f g : Nat) : Hw :=
  h.emit (.granule (h.requester f) ((h.frame f).link * 0x100000 + g * 0x10000))

/-- A page-in's next granules are requested, so that 8 are outstanding, while its requester issues requests (R294, R451). -/
def requestMore (h : Hw) (f : Nat) : Hw :=
  match h.gran.pageins.find? fun e => e.1 == f with
  | none => h
  | some (_, first, asked) =>
    if !h.fnIssues (h.requester f) then h
    else
      let there := ((List.range 16).filter (bit (h.frame f).gran)).length
      let upTo := min 16 (there + 8)
      let h := h.each (((requestOrder first).take upTo).drop asked) fun h g => h.requestGranule f g
      { h with gran := { h.gran with pageins := h.gran.pageins.map fun e =>
          if e.1 = f then (f, first, max asked upTo) else e } }

/-- Starts a page-in of a source for owner o on a miss of granule g: a frame IN_FLIGHT, indexed, and the first 8 requests
(R294). -/
def startPageIn (h : Hw) (c o src g : Nat) : Option Nat × Hw :=
  let pub := h.isPublicSrc src
  let entry : Frame :=
    { privFrame with link := src, lvalid := true, gran := 0, state := .inFlight, isPublic := pub }
  match h.allocFrame o entry with
  | (none, h) => (none, h)
  | (some f, h) =>
    let h : Hw := { h with gran := { h.gran with
      index := h.gran.index ++ [(o / 129, src, f)], pageins := h.gran.pageins ++ [(f, g, 0)] } }
    let h := (h.countWrap F.GRN_CNT_PAGEIN_PAGEIN).count F.GRN_CCNT_PAGEIN (c / 256) (c % 256)
    (some f, h.requestMore f)

/-- Marks an access to a frame (R296). -/
def touch (h : Hw) (f : Nat) : Hw := h.setFrame f { h.frame f with ref := true }

/-- A load, fetch or store by cottage c at address a of its default space (R290, R294, R295, R528). Causes of faults
are the Hob's (R124), of containments the Granary's (R311). -/
def resolve (h : Hw) (c a : Nat) (store : Bool) : Res × Hw :=
  let e := a / 0x100000
  let off := a % 0x100000
  let m := h.cmap c e
  match bits m 1 0, h.ownerOf c with
  | _, none => (.fault 0x05, h)
  | 1, some o =>
    match h.cmapFrame c e with
    | some f => (.at f off, h.touch f)
    | none =>
      match h.allocFrame o privFrame with
      | (none, h) => (.fault 0x05, h)
      | (some f, h) => (.at f off, h.setCmapFrame c e (some f))
  | 2, some o =>
    if store then (.fault 0x06, h)
    else
      let src := bits m 61 36
      let found : Option Nat × Hw :=
        match h.cmapFrame c e with
        | some f => (some f, h)
        | none =>
          match h.titleFrame o src with
          | some f =>
            if (h.frame f).state = .poisoned then (some f, h)
            else (some f, (h.addRef f true).setCmapFrame c e (some f))
          | none =>
            match h.startPageIn c o src (off / 0x10000) with
            | (some f, h) => (some f, h.setCmapFrame c e (some f))
            | (none, h) => (none, h)
      match found with
      | (none, h) => (.contain 0x03, h)
      | (some f, h) =>
        let h := h.touch f
        if (h.frame f).state = .poisoned then (.contain 0x01, h)
        else if bit (h.frame f).gran (off / 0x10000) then (.at f off, h)
        else (.wait f (off / 0x10000), h)
  | _, _ => (.fault 0x05, h)

/-- Poisoned words (8 bytes) of memory lie in a range (R298, R124). -/
def poisonedAt (h : Hw) (a n : Nat) : Bool := h.memPoison.any fun w => decide (w / 8 * 8 < a + n ∧ a < w / 8 * 8 + 8)

/-- What a read through a cottage map gives. -/
inductive Got where
  | value (v : Nat)
  | fault (cause : Nat)
  | wait (frame g : Nat)
  | contain (cause : Nat)
  | poison

/-- Reads n bytes at address a of cottage c's default space, within one frame (R107, R290). -/
def loadAt (h : Hw) (c a n : Nat) : Got × Hw :=
  if 2 ^ 28 < a + n then (.fault 0x04, h)
  else
    match h.resolve c a false with
    | (.at f off, h) =>
      let m := h.frameAddr f off
      if h.poisonedAt m n then (.poison, h) else (.value (h.rv m n), h)
    | (.fault k, h) => (.fault k, h)
    | (.wait f g, h) => (.wait f g, h)
    | (.contain k, h) => (.contain k, h)

/-- The frame that cottage c's map entry or video RAM moves to on a copy (R297). -/
def moveEntry (c e : Nat) (h : Hw) (y : Nat) : Hw := h.setCmapFrame c e (some y)

/-- Makes byte `off` of frame f writable for cottage c within one step: for a restore, and for writes that were made before the
step they are told of. None when the allocation fails (COW_EXHAUST). -/
def writableNow (h : Hw) (c f off : Nat) (move : Hw → Nat → Hw) : Option Nat × Hw :=
  match h.prepareWrite f (off / 0x10000) move with
  | (.ready f, h) => (some f, h)
  | (.copy f, h) => (some f, h.copyGranule f (off / 0x10000) c)
  | (.exhausted, h) => (none, h)

/-- The video RAM frame of cottage c, which is given a zero-filled one where it has none (R528). -/
def vramHome (h : Hw) (c : Nat) : Option Nat × Hw :=
  match h.vramFrame c, h.ownerOf c with
  | some f, _ => (some f, h)
  | none, none => (none, h)
  | none, some o =>
    match h.allocFrame o privFrame with
    | (some f, h) => (some f, h.setVramFrame c (some f))
    | (none, h) => (none, h)

/-- The frame y becomes the cottage's video RAM frame (R297). -/
def moveVram (c : Nat) (h : Hw) (y : Nat) : Hw := h.setVramFrame c (some y)

/-! ### Waits for a granule (R250, R290, R298, R310) -/

/-- Cottage c waits for granule g of frame f: its context, a Loom or the Choir for it, or a transfer of it. -/
def waitsFor (h : Hw) (c f g : Nat) : Bool :=
  let x := h.cot c
  let there := fun (o : Option (Nat × Nat)) => o == some (f, g)
  (x.ctx.st == .miss && x.ctx.wait == .granule f g) || there x.loom.awaits || there x.choir.awaits ||
    there (x.io.carter.bind (·.awaits)) || there (x.io.chisel.bind (·.awaits))

/-- The cottages that wait for a granule of a list of frame f's. -/
def waiters (h : Hw) (f : Nat) (gs : List Nat) : List Nat :=
  (h.cots.map (·.1)).filter fun c => gs.any (h.waitsFor c f)

/-- Nothing of cottage c but its context waits for granule g of frame f any more. -/
def clearAwaits (h : Hw) (c f g : Nat) : Hw :=
  let x := h.cot c
  let gone := fun (o : Option (Nat × Nat)) => if o = some (f, g) then none else o
  let transfer := fun (t : CotTransfer) => { t with awaits := gone t.awaits }
  h.setCot c { x with
    loom := { x.loom with awaits := gone x.loom.awaits },
    choir := { x.choir with awaits := gone x.choir.awaits },
    io := { x.io with carter := x.io.carter.map transfer, chisel := x.io.chisel.map transfer } }

end Hw

end Sys2Proof.Machine
end

