-- ==== Sys2Proof/Machine/Move.lean ====
section
/-!
DEFINITION. The Carter's byte movement (R349, R350, R355): the sides of a transfer, whether its bytes are ready, and moving them;
the transfer of a cottage's registers (R365). -/

namespace Sys2Proof.Machine

/-! ### Sides of a transfer (R349, R355) -/

/-- How the work on a stretch of bytes ends: done; it waits for granule g of frame f; a fault in a cottage map (cause of R124); a
Granary cause (R311); poisoned data at a module address. -/
inductive MoveEnd where
  | ok
  | wait (f g : Nat)
  | fault (cause : Nat)
  | contain (c cause : Nat)
  | poison (a : Nat)
  deriving DecidableEq, Repr

/-- The side at a later byte. -/
def Side.plus (s : Side) (k : Nat) : Side :=
  match s with
  | .fabric a => .fabric (a + k)
  | .bar2 o a => .bar2 o (a + k)
  | .hbm a => .hbm (a + k)
  | .cot c a => .cot c (a + k)
  | .vram c a => .vram c (a + k)

/-- Two sides lie in one address space, as written (R350). -/
def Side.same : Side → Side → Bool
  | .fabric _, .fabric _ => true
  | .bar2 o _, .bar2 p _ => o == p
  | .hbm _, .hbm _ => true
  | .cot c _, .cot d _ => c == d
  | .vram c _, .vram d _ => c == d
  | _, _ => false

/-- The address within its space. -/
def Side.addr : Side → Nat
  | .fabric a | .bar2 _ a | .cot _ a | .vram _ a | .hbm a => a

namespace Hw

/-- Reads the byte at a side. -/
def sideGet (h : Hw) (s : Side) : MoveEnd × Byte × Hw :=
  let hbm := fun (h : Hw) (m : Nat) => if h.poisonedAt m 1 then (MoveEnd.poison m, 0, h) else (.ok, h.rb m, h)
  match s with
  | .fabric a => (.ok, h.rb a, h)
  | .bar2 o a => hbm h (h.commonsAddr o 1 a)
  | .hbm a => hbm h a
  | .cot c a =>
    if 2 ^ 28 ≤ a then (.fault 0x04, 0, h)
    else
      match h.resolve c a false with
      | (.at f off, h) => hbm h (h.frameAddr f off)
      | (.fault k, h) => (.fault k, 0, h)
      | (.wait f g, h) => (.wait f g, 0, h)
      | (.contain k, h) => (.contain c k, 0, h)
  | .vram c a =>
    match h.vramHome c with
    | (some f, h) => hbm h (h.frameAddr f a)
    | (none, h) => (.fault 0x05, 0, h)

/-- Writes the byte at a side; a write into a copy-on-write granule copies it first (R297, R355). -/
def sideSet (h : Hw) (s : Side) (b : Byte) : MoveEnd × Hw :=
  match s with
  | .fabric a => (.ok, h.wb a b)
  | .bar2 o a => (.ok, h.wb (h.commonsAddr o 1 a) b)
  | .hbm a => (.ok, h.wb a b)
  | .cot c a =>
    if 2 ^ 28 ≤ a then (.fault 0x04, h)
    else
      match h.resolve c a true with
      | (.at f off, h) =>
        match h.writableNow c f off (moveEntry c (a / 0x100000)) with
        | (some f, h) => (.ok, h.wb (frameBase f + off) b)
        | (none, h) => (.contain c 0x02, h)
      | (.fault k, h) => (.fault k, h)
      | (.wait f g, h) => (.wait f g, h)
      | (.contain k, h) => (.contain c k, h)
  | .vram c a =>
    match h.vramHome c with
    | (some f, h) =>
      match h.writableNow c f a (moveVram c) with
      | (some f, h) => (.ok, h.wb (frameBase f + a) b)
      | (none, h) => (.contain c 0x02, h)
    | (none, h) => (.fault 0x05, h)

/-- Requests to a side leave under function o's requester ID only while it issues any (R451). -/
def sideIssues (h : Hw) (o : Nat) (s : Side) : Bool :=
  match s with
  | .fabric _ => h.fnIssues o
  | _ => true

/-- How a write may go on, for cottage c. -/
def gateEnd (c : Nat) : WriteGate × Hw → MoveEnd × Hw
  | (.ready _, h) => (.ok, h)
  | (.wait f g, h) => (.wait f g, h)
  | (.exhausted, h) => (.contain c 0x02, h)

/-- Whether a byte of a side can be read, or written if `store`, now: a page-in or a copy is started where one is needed (R290,
R297, R298, R355, R528). -/
def sideReady (h : Hw) (s : Side) (store : Bool) : MoveEnd × Hw :=
  match s with
  | .cot c a =>
    match h.resolve c a store with
    | (.at f off, h) => if store then gateEnd c (h.writeGate c f off (moveEntry c (a / 0x100000))) else (.ok, h)
    | (.fault k, h) => (.fault k, h)
    | (.wait f g, h) => (.wait f g, h)
    | (.contain k, h) => (.contain c k, h)
  | .vram c a =>
    match h.vramHome c with
    | (some f, h) => if store then gateEnd c (h.writeGate c f a (moveVram c)) else (.ok, h)
    | (none, h) => (.fault 0x05, h)
  | _ => (.ok, h)

/-- Whether bytes of a side at each of the given offsets are ready. -/
def sidesReady : List Nat → Hw → Side → Bool → MoveEnd × Hw
  | [], h, _, _ => (.ok, h)
  | k :: l, h, s, store =>
    match h.sideReady (s.plus k) store with
    | (.ok, h) => sidesReady l h s store
    | r => r

/-- One offset in each granule that n bytes of a side from offset k on touch. -/
def granuleOffsets (s : Side) (k n : Nat) : List Nat :=
  let a := s.addr
  if n = 0 then []
  else k :: ((List.range ((a + k + n - 1) / 0x10000 - (a + k) / 0x10000)).map fun i =>
    ((a + k) / 0x10000 + 1 + i) * 0x10000 - a)

/-- Reads n bytes of a side from offset k on, from the top one if `down`; a fixed side repeats its four bytes. Answers what it
could read, in order. -/
def sideReads : Nat → Hw → Side → Bool → Bool → Nat → MoveEnd × List Byte × Hw
  | 0, h, _, _, _, _ => (.ok, [], h)
  | n + 1, h, s, fixed, down, k =>
    match h.sideGet (s.plus (if fixed then k % 4 else if down then k + n else k)) with
    | (.ok, b, h) =>
      let (e, l, h) := sideReads n h s fixed down (if down then k else k + 1)
      (e, b :: l, h)
    | (e, _, h) => (e, [], h)

/-- The module address of a side's byte, where a write has just made it writable. -/
def sideModule (h : Hw) (s : Side) : Option Nat :=
  match s with
  | .fabric a | .hbm a => some a
  | .bar2 o a => some (h.commonsAddr o 1 a)
  | .cot c a => (h.cmapFrame c (a / 0x100000)).map fun f => frameBase f + a % 0x100000
  | .vram c a => (h.vramFrame c).map fun f => frameBase f + a

/-- A write of n bytes at a side clears the poison of the 64-bit words it covers (R320). -/
def sideMend (h : Hw) (s : Side) (n : Nat) : Hw :=
  if h.memPoison.isEmpty then h
  else h.each ((List.range n).filter fun k => (s.addr + k) % 8 == 0 && decide (k + 8 ≤ n)) fun h k =>
    match h.sideModule (s.plus k) with
    | some a => h.mend a 8
    | none => h

/-- Writes bytes, in that order, to a side from offset k on, or down to it. -/
def sideWrites : List Byte → Hw → Side → Bool → Bool → Nat → MoveEnd × Hw
  | [], h, _, _, _, _ => (.ok, h)
  | b :: l, h, s, fixed, down, k =>
    match h.sideSet (s.plus (if fixed then k % 4 else if down then k + l.length else k)) b with
    | (.ok, h) => sideWrites l h s fixed down (if down then k else k + 1)
    | r => r

/-- Replaces the bytes from index k on by free values (R350). -/
def freeFrom (h : Hw) (k : Nat) : List Byte → List Byte × Hw
  | [] => ([], h)
  | b :: l =>
    let (x, h) := if k = 0 then (BitVec.ofNat 8 h.draw.1.toNat, h.draw.2) else (b, h)
    let (r, h) := freeFrom h (k - 1) l
    (x :: r, h)

/-- A transfer (R349): operation (0 copy, 1 fill, 2 compare), sides, which are fixed, COUNT and the fill constant. -/
structure Move where
  op : Nat
  src : Side
  dst : Side
  sfix : Bool
  dfix : Bool
  count : Nat
  fill : Nat

/-- A copy that goes down from its top byte: overlapping, its destination above its source (R350). -/
def Move.down (m : Move) : Bool :=
  m.op == 0 && !m.sfix && !m.dfix && m.src.same m.dst && decide (m.src.addr < m.dst.addr) &&
    decide (m.dst.addr < m.src.addr + m.count)

/-- Where a fixed source lies inside the destination range: the offset from which bytes are undefined (R350). -/
def Move.spoiled (m : Move) : Option Nat :=
  let len := if m.dfix then 4 else m.count
  if m.op = 0 ∧ m.sfix ∧ m.src.same m.dst ∧ m.dst.addr ≤ m.src.addr ∧ m.src.addr < m.dst.addr + len then
    some (m.src.addr - m.dst.addr)
  else none

/-- The index of the first differing byte of two lists. -/
def firstDiff : Nat → List Byte → List Byte → Option Nat
  | k, a :: l, b :: m => if a = b then firstDiff (k + 1) l m else some k
  | _, _, _ => none

/-- The poison that writing bytes k to k + n − 1 of a destination clears. -/
def moveMend (h : Hw) (m : Move) (k n : Nat) : Hw := if m.dfix then h else h.sideMend (m.dst.plus k) n

/-- Whether everything that the bytes k to k + n − 1 of a transfer touch is ready: the channel holds its burst until it is (R298). -/
def moveReady (h : Hw) (m : Move) (k n : Nat) : MoveEnd × Hw :=
  let offsets := fun (s : Side) (fixed : Bool) => if fixed then granuleOffsets s 0 (min n 4) else granuleOffsets s k n
  match (if m.op = 1 then (.ok, h) else sidesReady (offsets m.src m.sfix) h m.src false) with
  | (.ok, h) => sidesReady (offsets m.dst m.dfix) h m.dst (m.op != 2)
  | r => r

/-- Works on the bytes k to k + n − 1 of a transfer, up to one that cannot be read. Answers how it ended, the bytes that are over,
and a compare's first difference. -/
def moveRange (h : Hw) (m : Move) (k n : Nat) : MoveEnd × Nat × Option Nat × Hw :=
  match m.op with
  | 1 =>
    let l := (List.range n).map fun i => BitVec.ofNat 8 (m.fill / 256 ^ ((k + i) % 4))
    let (e, h) := sideWrites l h m.dst m.dfix false k
    let n := if e = .ok then n else 0
    (e, n, none, h.moveMend m k n)
  | 2 =>
    let (e, a, h) := sideReads n h m.src m.sfix false k
    let (f, b, h) := sideReads a.length h m.dst m.dfix false k
    (if f = .ok then e else f, b.length, firstDiff k a b, h)
  | _ =>
    let (e, a, h) := sideReads n h m.src m.sfix m.down k
    let (a, h) := match m.spoiled with
      | some j => h.freeFrom (j - k) a
      | none => (a, h)
    let low := if m.down then k + (n - a.length) else k
    let (f, h) := sideWrites a h m.dst m.dfix m.down low
    let p := if f = .ok then a.length else 0
    (if f = .ok then e else f, p, none, h.moveMend m low p)

/-- The lowest of the next n bytes of a transfer with `left` bytes to go: from the bottom, or from the top of a descending copy. -/
def Move.next (m : Move) (left n : Nat) : Nat := if m.down then left - n else m.count - left

/-- Where a side's next byte lies, from its start: what a live register names (R359, R361). -/
def Move.live (m : Move) (fixed : Bool) (left : Nat) : Nat :=
  if fixed then 0 else if m.down then left - 1 else m.count - left

/-- The most bytes that reads in flight carry: 32 reads of 128 bytes, of 4 bytes at a fixed source; 1 KiB ahead of a fixed
destination (R348 to R350). -/
def Move.inFlight (m : Move) : Nat := if m.sfix then 128 else if m.dfix then 1024 else 4096

/-- The transfer that a cottage's latched registers ask for (R349, R365). -/
def carterMove (c : Nat) (t : CotTransfer) : Move :=
  let r := fun a => (NTable.get 0 t.regs a).toNat
  let ctl := r 0xB00C
  { op := bits ctl 2 1, src := if bit (r 0xB000) 31 then .vram c (bits (r 0xB000) 27 0) else .cot c (bits (r 0xB000) 27 0),
    dst := .cot c (bits (r 0xB004) 27 0), sfix := bit ctl 3, dfix := bit ctl 4, count := r 0xB008, fill := r 0xB010 }

end Hw

end Sys2Proof.Machine
end

