-- ==== Sys2Proof/Machine/Blit.lean ====
section
/-!
DEFINITION. What the Chisel does to pixels (R368 to R377): surfaces and formats, raster operations, clips, lines and orders; the
operation of a cottage's registers (R385). -/

namespace Sys2Proof.Machine

/-! ### Surfaces and pixels (R368 to R374) -/

/-- Bits per pixel of a format (R369). -/
def chisBpp (fmt : Nat) : Nat :=
  match fmt with
  | 0 => 4 | 1 => 8 | 2 => 16 | 3 => 16 | _ => 32

/-- What base and pitch must be multiples of (R369). -/
def chisUnit (fmt : Nat) : Nat := if fmt = 2 ∨ fmt = 3 then 2 else if fmt = 4 then 4 else 1

/-- The raster operation on pixels of bpp bits (R371). -/
def ropOf (rop bpp s d : Nat) : Nat :=
  (List.range bpp).foldl (fun acc b =>
    acc + b2n (bit rop (2 * b2n (bit s b) + b2n (bit d b))) * 2 ^ b) 0

/-- The operation reads d: any code but 0x0, 0x3, 0xC and 0xF (R381). -/
def ropReadsD (rop : Nat) : Bool := rop % 16 != 0 && rop % 16 != 3 && rop % 16 != 12 && rop % 16 != 15

/-- A destination pixel may be written (R374). -/
def clipped (clips : List (Bool × Bool × Nat × Nat × Nat × Nat)) (x y : Nat) : Bool :=
  let covers := fun (k : Bool × Bool × Nat × Nat × Nat × Nat) =>
    decide (k.2.2.1 ≤ x ∧ x ≤ k.2.2.2.2.1 ∧ k.2.2.2.1 ≤ y ∧ y ≤ k.2.2.2.2.2)
  let on := clips.filter (·.1)
  let incl := on.filter (!·.2.1)
  (!incl.isEmpty && !incl.any covers) || (on.filter (·.2.1)).any covers

/-- The points of a line by its major coordinate (R372): `n` of them, with the error term e and the coordinates. -/
def linePoints : Nat → Int → Int → Int → Int → Int → Int → Int → List (Int × Int)
  | 0, _, _, _, _, _, _, _ => []
  | n + 1, e, x, y, sx, sy, ax, ay =>
    let y' := if e > 0 then y + sy else y
    let e' := if e > 0 then e - 2 * ax else e
    (x, y) :: linePoints n (e' + 2 * ay) (x + sx) y' sx sy ax ay

/-- The pixels of the line from (dx, dy) to (ex, ey), in order (R372). -/
def lineOf (dx dy ex ey : Nat) : List (Nat × Nat) :=
  let ax := Int.natAbs ((ex : Int) - dx)
  let ay := Int.natAbs ((ey : Int) - dy)
  let sx : Int := if dx ≤ ex then 1 else -1
  let sy : Int := if dy ≤ ey then 1 else -1
  let nat := fun (p : Int × Int) => (p.1.toNat, p.2.toNat)
  if ay ≤ ax then (linePoints (ax + 1) (2 * ay - ax) dx dy sx sy ax ay).map nat
  else (linePoints (ay + 1) (2 * ax - ay) dy dx sy sx ay ax).map fun p => (nat p).swap

/-- Destination pixels in the order of the operation (R372, R375). -/
def Blit.points (b : Blit) : List (Nat × Nat) :=
  if b.op = 2 then lineOf b.dx b.dy b.ex b.ey
  else
    let rows := (List.range b.rows).map (b.dy + ·)
    let cols := (List.range b.w).map (b.dx + ·)
    let rows := if b.up then rows.reverse else rows
    let cols := if b.left then cols.reverse else cols
    rows.flatMap fun y => cols.map fun x => (x, y)

/-- Pixels of one burst: at most 256 bytes, within a row (R377). -/
def bursts (per : Nat) (l : List (Nat × Nat)) : List (List (Nat × Nat)) :=
  l.foldr (fun p acc =>
    match acc with
    | (q :: b) :: rest => if q.2 = p.2 ∧ b.length + 1 < per then (p :: q :: b) :: rest else [p] :: (q :: b) :: rest
    | _ => [p] :: acc) []

/-- The side of pixel (x, y) of a surface (R368). -/
def pixelSide (base : Side) (pitch bpp x y : Nat) : Side := base.plus (y * pitch + x * bpp / 8)

namespace Hw

/-- Reads the pixel at a side. -/
def pixelGet (h : Hw) (s : Side) (bpp x : Nat) : MoveEnd × Nat × Hw :=
  match sideReads (max 1 (bpp / 8)) h s false false 0 with
  | (.ok, l, h) => (.ok, if bpp = 4 then fromLe l / (if x % 2 = 0 then 1 else 16) % 16 else fromLe l, h)
  | (e, _, h) => (e, 0, h)

/-- Writes the pixel at a side; the other nibble of an I4 byte stays (R371). -/
def pixelSet (h : Hw) (s : Side) (bpp x v : Nat) : MoveEnd × Hw :=
  if bpp = 4 then
    match h.sideGet s with
    | (.ok, b, h) =>
      h.sideSet s (BitVec.ofNat 8 (if x % 2 = 0 then b.toNat / 16 * 16 + v % 16 else v % 16 * 16 + b.toNat % 16))
    | (e, _, h) => (e, h)
  else sideWrites (leBytes (bpp / 8) v) h s false false 0

/-- The operation on one destination pixel. -/
def blitPixel (h : Hw) (b : Blit) (x y : Nat) : MoveEnd × Hw :=
  let bpp := chisBpp b.fmt
  let dst := pixelSide b.dst b.dpitch bpp x y
  let write := fun (h : Hw) (s : Nat) =>
    if clipped b.clips x y then (MoveEnd.ok, h)
    else if ropReadsD b.rop then
      match h.pixelGet dst bpp x with
      | (.ok, d, h) => h.pixelSet dst bpp x (ropOf b.rop bpp s d)
      | (e, _, h) => (e, h)
    else h.pixelSet dst bpp x (ropOf b.rop bpp s 0)
  if b.op = 0 then
    let sx := x - b.dx + b.sx
    match h.pixelGet (pixelSide b.src b.spitch bpp sx (y - b.dy + b.sy)) bpp sx with
    | (.ok, s, h) => if b.keyen && s % 2 ^ bpp == b.key % 2 ^ bpp then (.ok, h) else write h s
    | (e, _, h) => (e, h)
  else write h b.color

/-- The operation on pixels in order, until one fails. -/
def blitPixels : List (Nat × Nat) → Hw → Blit → MoveEnd × Hw
  | [], h, _ => (.ok, h)
  | p :: l, h, b =>
    match h.blitPixel b p.1 p.2 with
    | (.ok, h) => blitPixels l h b
    | r => r

/-- The operation in bursts: of a burst that meets poison, nothing is written (R384). -/
def blitBursts : List (List (Nat × Nat)) → Hw → Blit → MoveEnd × Hw
  | [], h, _ => (.ok, h)
  | l :: rest, h, b =>
    match blitPixels l h b with
    | (.ok, g) => blitBursts rest g b
    | (.poison a, _) => (.poison a, h)
    | r => r

/-- Whether everything the operation touches is ready (R290, R298). -/
def blitReady : List (Nat × Nat) → Hw → Blit → MoveEnd × Hw
  | [], h, _ => (.ok, h)
  | p :: l, h, b =>
    let bpp := chisBpp b.fmt
    let src := if b.op = 0 then h.sideReady (pixelSide b.src b.spitch bpp (p.1 - b.dx + b.sx) (p.2 - b.dy + b.sy)) false
      else (.ok, h)
    match src with
    | (.ok, h) =>
      match h.sideReady (pixelSide b.dst b.dpitch bpp p.1 p.2) true with
      | (.ok, h) => blitReady l h b
      | r => r
    | r => r

/-- The whole operation; with a page-in to wait for, nothing is written yet. -/
def blitRun (h : Hw) (b : Blit) : MoveEnd × Hw :=
  match blitReady b.points h b with
  | (.ok, h) => blitBursts (bursts (max 1 (2048 / chisBpp b.fmt)) b.points) h b
  | r => r

/-- An operation from register words: `r` gives the word at an offset of R385, `ctl` the control word. -/
def blitOf (r : Nat → Nat) (ctl : Nat) (src dst : Side) (up left : Bool) : Blit :=
  let lo := fun v => bits v 10 0
  let hi := fun v => bits v 26 16
  { op := bits ctl 2 1, fmt := bits ctl 11 9, keyen := bit ctl 8, rop := bits ctl 15 12, src := src, dst := dst,
    spitch := bits (r 0x08) 15 0, dpitch := bits (r 0x08) 31 16, sx := lo (r 0x0C), sy := hi (r 0x0C),
    dx := lo (r 0x10), dy := hi (r 0x10), w := lo (r 0x14), rows := hi (r 0x14), ex := lo (r 0x18), ey := hi (r 0x18),
    color := r 0x1C, key := r 0x20,
    clips := (List.range 4).map fun k =>
      let a := r (0x30 + 8 * k)
      let z := r (0x34 + 8 * k)
      (bit a 31, bit a 30, lo a, hi a, lo z, hi z),
    up := up, left := left }

/-- The cottage's operation, from its latched registers. -/
def cotBlit (c : Nat) (t : CotTransfer) : Blit :=
  let r := fun a => (NTable.get 0 t.regs (0xC000 + a)).toNat
  let side := fun v => if bit v 31 then Side.vram c (bits v 27 0) else .cot c (bits v 27 0)
  blitOf r (r 0x28) (side (r 0)) (side (r 4)) (bit (r 0x28) 6) (bit (r 0x28) 5)

end Hw

end Sys2Proof.Machine
end

