-- ==== Sys2Proof/Machine/Scale.lean ====
section
/-!
DEFINITION. The scaler (R195 to R197) and 10-bit colour (R183), shared by Relief and the eDP ports. -/

namespace Sys2Proof.Machine

/-- An 8-bit component as 10 bits (R183). -/
def expand10 (c : Nat) : Nat := c * 4 + c / 64

/-- A 24-bit RGB colour as a reference word of three 10-bit components (R183, R212). -/
def expandRgb (rgb : Nat) : Nat :=
  expand10 (bits rgb 23 16) * 2 ^ 20 + expand10 (bits rgb 15 8) * 2 ^ 10 + expand10 (bits rgb 7 0)

/-- A reference word of components r, g, b. -/
def packRgb (r g b : Nat) : Nat := r * 2 ^ 20 + g * 2 ^ 10 + b

/-- Quotient rounded half away from zero (R197), for a positive divisor. -/
def roundDiv (n : Int) (d : Nat) : Int :=
  if n < 0 then -(((2 * n.natAbs + d) / (2 * d) : Nat) : Int) else ((2 * n.natAbs + d) / (2 * d) : Nat)

/-- The coefficients c₋₁, c₀, c₁, c₂ of the 4-tap filter at phase p (R197). -/
def taps4 (p : Nat) : List Int :=
  let q : Int := p
  let cm := roundDiv (-q * q * q + 128 * q * q - 4096 * q) 2048
  let c1 := roundDiv (-3 * q * q * q + 256 * q * q + 4096 * q) 2048
  let c2 := roundDiv (q * q * q - 64 * q * q) 2048
  [cm, 256 - cm - c1 - c2, c1, c2]

/-- The coefficients of the 2-tap filter at phase p (R197). -/
def taps2 (p : Nat) : List Int := [256 - 4 * (p : Int), 4 * (p : Int)]

/-- The 2-tap filter serves an axis when 2 × D < S (R195). -/
def twoTap (s d : Nat) : Bool := decide (2 * d < s)

/-- Source position and phase of destination index dx on an axis of source size s and destination size d (R196). -/
def scalePos (s d dx : Nat) : Int × Nat :=
  let step := s * 65536 / d
  let pos : Int := (dx * step + step / 2 : Nat) - 32768
  (pos / 65536, (pos / 1024 % 64).toNat)

/-- The taps of an axis at dx: clamped source positions with their coefficients (R196, R197). -/
def axisTaps (s d dx : Nat) : List (Nat × Int) :=
  let (i, p) := scalePos s d dx
  let at_ := fun (k : Int) => (clampI 0 ((s : Int) - 1) (i + k)).toNat
  if twoTap s d then ([0, 1].map at_).zip (taps2 p) else (([-1, 0, 1, 2] : List Int).map at_).zip (taps4 p)

/-- One filter pass over one component (R196). -/
def filterPass (l : List (Int × Nat)) : Nat :=
  (clampI 0 1023 (((l.map fun e => e.1 * (e.2 : Int)).sum + 128) / 256)).toNat

/-- Scales one component: vertically over the source rows, then horizontally (R196). -/
def scaleAt (sw sh dw dh dx dy : Nat) (src : Nat → Nat → Nat) : Nat :=
  filterPass ((axisTaps sw dw dx).map fun tx =>
    (tx.2, filterPass ((axisTaps sh dh dy).map fun ty => (ty.2, src tx.1 ty.1))))

end Sys2Proof.Machine
end

