-- ==== Sys2Proof/Machine/Porch.lean ====
section
/-!
DEFINITION. The Porch's operations (R211 to R231, R233): cells and damage, pixel formats, records written into rings
and flipped in ring order, freezing and closing a frame. Its commands stand in PorchCmd.lean. -/

namespace Sys2Proof.Machine

/-! ### Pixel formats (R225) -/

/-- Rounds and shifts a sum of the YCbCr equations (R225). -/
def csc12 (v : Int) : Int := (v + 2048) / 4096

/-- The luma coefficients of a CSC (R225). -/
def kCoef (csc : Nat) : Int × Int × Int :=
  if csc = 0 then (1049, 2059, 400) else if csc = 1 then (746, 2509, 253) else (921, 2378, 208)

/-- BR, BG, RG, RB of a CSC (R225). -/
def chromaCoef (csc : Nat) : Int × Int × Int × Int :=
  if csc = 0 then (605, 1189, 1502, 292) else if csc = 1 then (411, 1383, 1630, 164) else (501, 1293, 1650, 144)

/-- The components of a reference word. -/
def rgbOf (w : Nat) : Int × Int × Int := (bits w 29 20, bits w 19 10, bits w 9 0)

/-- Y of a pixel (R225). -/
def lumaOf (csc w : Nat) : Nat :=
  let (r, g, b) := rgbOf w
  let (kr, kg, kb) := kCoef csc
  (64 + csc12 (kr * r + kg * g + kb * b)).toNat

/-- Cb and Cr of a pixel (R225). -/
def chromaOf (csc w : Nat) : Nat × Nat :=
  let (r, g, b) := rgbOf w
  let (br, bg, rg, rb) := chromaCoef csc
  ((512 + csc12 (1794 * b - br * r - bg * g)).toNat, (512 + csc12 (1794 * r - rg * g - rb * b)).toNat)

/-- One component of NV12 or P010 (R225). -/
def yuvBytes (p010 : Bool) (v : Nat) : List Byte :=
  if p010 then leBytes 2 (v * 64) else [BitVec.ofNat 8 (min 255 ((v + 2) / 4))]

/-- Bytes per row of a region's first plane (R221). -/
def fmtPitch (fmt w : Nat) : Nat := if fmt = 1 then 3 * w else if fmt = 2 ∨ fmt = 4 then 2 * w else w

/-- The pixel bytes of a rectangle in a format (R221, R225); `at` gives reference words, `idx` index tags. -/
def regionBytes (fmt csc x0 y0 w h : Nat) (px : Nat → Nat → Nat) (idx : Nat → Nat → Nat) : List Byte :=
  let rows := (List.range h).flatMap fun j => (List.range w).flatMap fun i =>
    let v := px (x0 + i) (y0 + j)
    if fmt = 1 then leBytes 1 (bits v 29 22) ++ leBytes 1 (bits v 19 12) ++ leBytes 1 (bits v 9 2)
    else if fmt = 2 then leBytes 2 (bits v 29 25 * 2048 + bits v 19 14 * 32 + bits v 9 5)
    else if fmt = 5 then leBytes 1 (idx (x0 + i) (y0 + j))
    else yuvBytes (fmt == 4) (lumaOf csc v)
  if fmt = 3 ∨ fmt = 4 then
    rows ++ (List.range (h / 2)).flatMap fun j => (List.range (w / 2)).flatMap fun i =>
      let four := [px (x0 + 2 * i) (y0 + 2 * j), px (x0 + 2 * i + 1) (y0 + 2 * j), px (x0 + 2 * i) (y0 + 2 * j + 1),
        px (x0 + 2 * i + 1) (y0 + 2 * j + 1)].map (chromaOf csc)
      yuvBytes (fmt == 4) (((four.map (·.1)).sum + 2) / 4) ++ yuvBytes (fmt == 4) (((four.map (·.2)).sum + 2) / 4)
  else rows

/-- Payload cut into slots of at most 4,080 bytes; at least one slot (R217). -/
def cutSlots (l : List Byte) : List (List Byte) :=
  if l.isEmpty then [[]]
  else (List.range (ceilDiv l.length 4080)).map fun k => (l.drop (4080 * k)).take 4080

namespace Hw

/-! ### Streams, their registers and owners (R215, R239) -/

/-- The state of stream s of cottage c. -/
def stream (h : Hw) (c s : Nat) : Stream := if s = 0 then (h.cot c).porch.s0 else (h.cot c).porch.s1

/-- Changes the state of stream s of cottage c. -/
def modStream (h : Hw) (c s : Nat) (f : Stream → Stream) : Hw :=
  h.modPorch c fun p => if s = 0 then { p with s0 := f p.s0 } else { p with s1 := f p.s1 }

/-- The function whose ring stream s writes into: the owner, or the PF of its port (R215). -/
def streamFn (h : Hw) (c s : Nat) : Nat :=
  let o := (h.ownerOf c).getD 0
  if s = 0 then o else o / 129 * 129

/-- A field of a stream's control or status register: cottage page for stream 0, module range for stream 1 (R239). -/
def streamFld (h : Hw) (f0 f1 : Fld) (c s : Nat) : Nat :=
  if s = 0 then h.fld f0 c else h.fld f1 ((h.portOf c).getD 0) c

/-- Stores such a field. -/
def setStreamFld (h : Hw) (f0 f1 : Fld) (c s v : Nat) : Hw :=
  if s = 0 then h.setFld f0 c 0 v else h.setFld f1 ((h.portOf c).getD 0) c v

/-- Cell columns and rows of a class (R211). -/
def cellCols (k : ClassRec) : Nat := k.width / 16
def cellRows (k : ClassRec) : Nat := ceilDiv k.height 16

/-- Every cell of a class, in row order. -/
def allCells (k : ClassRec) : List Nat := List.range (cellCols k * cellRows k)

/-- Every cell is owed on a stream, and its next frame is a discontinuity (R214, R242). -/
def oweAll (h : Hw) (c s : Nat) (disc : Bool) : Hw :=
  let k := h.cls c
  h.modStream c s fun t => { t with owed := allCells k, disc := t.disc || disc }

/-- Every sink of a cottage is owed every cell (R242). -/
def oweSinks (h : Hw) (c : Nat) : Hw :=
  let h := (h.oweAll c 0 true).oweAll c 1 true
  h.each [0, 1] fun h e =>
    let p := NTable.get EdpPort.reset h.edp e
    if p.src = c then { h with edp := NTable.set EdpPort.reset h.edp e { p with owed := allCells (h.cls c) } } else h

/-! ### Records into rings (R217, R218, R230) -/

/-- The records of a ring written and not flipped, in ring order. -/
def ringQueue (h : Hw) (o r : Nat) : List RingRec := NTable.get [] (h.fn o).rq r

/-- Replaces them. -/
def setRingQueue (h : Hw) (o r : Nat) (q : List RingRec) : Hw :=
  h.modFn o fun f => { f with rq := NTable.set [] f.rq r q }

/-- The TAG of picture and audio slots (R216, R268). -/
def porchTag (c s set : Nat) : Nat := c % 4096 + (if s = 1 then 4096 else 0) + set % 2 ^ 32 * 2 ^ 16

/-- Writes a record of payload `pay` into consecutive slots and queues it for its flip, as VOID if it is to be (R217, R218,
R229). -/
def writeRec (h : Hw) (o r c s type set tagNo : Nat) (pay : List Byte) (void ready : Bool) : Hw :=
  let parts := cutSlots pay
  let first := h.ringNext o r
  let h := h.each parts fun h b => (h.slotWrite o r (porchTag c s tagNo) b).2
  h.setRingQueue o r (h.ringQueue o r ++ [⟨c, s, type, set, first, parts.map (·.length), void, ready⟩])

/-- The stream's next SEQ, taken (R216). -/
def takeSeq (h : Hw) (c s : Nat) : Nat × Hw :=
  if s = 2 then
    let q := (h.cot c).choir.seq
    (q, (h.modChoir c fun t => { t with seq := (q + 1) % 65536 }).setFld F.CHR_S_STAT_NEXTSEQ c 0 (q + 1))
  else
    let q := (h.stream c s).seq
    (q, (h.modStream c s fun t => { t with seq := (q + 1) % 65536 }).setStreamFld F.POR_S0_STAT_NEXTSEQ
      F.POR_S1_STAT_NEXTSEQ c s (q + 1))

/-- Flips the slots of one record, first to last; VOID slots have LEN 0 (R216, R224). A GAP record published shows in the
stream's status. -/
def flipRec (h : Hw) (o r : Nat) (e : RingRec) : Hw :=
  let h := if e.type = 5 ∧ ¬ e.void then h.setStreamFld F.POR_S0_STAT_GAP F.POR_S1_STAT_GAP e.cot e.stream 1 else h
  h.each ((List.range e.lens.length).zip e.lens) fun h (k, len) =>
    let (q, h) := h.takeSeq e.cot e.stream
    if e.void then h.slotFlip o r (e.first + k) 0 q 0 0xF
    else h.slotFlip o r (e.first + k) len q (b2n (k + 1 ≠ e.lens.length)) e.type

/-- Flips the ready records at the head of a ring, strictly in ring order (R218). -/
def drainRing (h : Hw) (o r : Nat) : Hw :=
  if h.ringUp o r then
    let q := h.ringQueue o r
    let ready := q.takeWhile (·.ready)
    (h.each ready fun h e => h.flipRec o r e).setRingQueue o r (q.drop ready.length)
  else h

/-- Marks the records of a stream that satisfy p, in whichever rings hold them: a ring changed at a Bell (R231) may still hold a
closed set. -/
def markRecs (h : Hw) (c s : Nat) (p : RingRec → Bool) (f : RingRec → RingRec) : Hw :=
  h.modFn (h.streamFn c s) fun x =>
    { x with rq := x.rq.map fun q => (q.1, q.2.map fun e => if e.cot == c && e.stream == s && p e then f e else e) }

/-- Flips what is ready in the rings that hold records of a stream. -/
def drainStream (h : Hw) (c s : Nat) : Hw :=
  let o := h.streamFn c s
  h.each (((h.fn o).rq.filter fun q => q.2.any fun e => e.cot == c && e.stream == s).map (·.1)) fun h r => h.drainRing o r

/-- A stream can take k more slots: its ring works and has them free. -/
def streamRoom (h : Hw) (c s k : Nat) : Bool :=
  let o := h.streamFn c s
  let r := (h.stream c s).ring
  h.ringUp o r && decide (k ≤ h.ringFree o r)

/-- The stream publishes: enabled, in force, and not stopped by a ring error (R54, R242). -/
def streamRuns (h : Hw) (c s : Nat) : Bool :=
  (h.stream c s).live && h.streamFld F.POR_S0_STAT_STOPPED F.POR_S1_STAT_STOPPED c s == 0

/-- The cottage publishes as rendered (R23): the value of COT_CTL.PUB in force since the last Bell (R60). -/
def asRendered (h : Hw) (c : Nat) : Bool := (h.cot c).porch.pub

/-! ### FRAME_OPEN, PALETTE, GAP (R219, R220, R222, R224) -/

/-- Changes the set in progress on a stream. -/
def modSet (h : Hw) (c s : Nat) (f : PorchSet → PorchSet) : Hw := h.modStream c s fun t => { t with set := f t.set }

/-- The 256 entries of the stream's palette in force at the latest F latch (R222; a frame whose F latch is still to come when
its set is written has the one before: log entry 55). -/
def streamPal (h : Hw) (c s : Nat) : List Nat :=
  let t := h.stream c s
  (List.range 256).map fun e => NTable.get 0 (h.cot c).loom.framePal (t.i8pal * 256 + e)

/-- Opens the set of frame `porch.next` on a stream: GAP if owed, then FRAME_OPEN. False if the ring cannot take them with
`need` slots kept behind them (R219, R230). -/
def openSet (h : Hw) (c s need : Nat) : Bool × Hw :=
  let t := h.stream c s
  if t.set.opened.isSome then (true, h)
  else if h.streamRoom c s (1 + need + b2n t.gap.isSome) then
    let o := h.streamFn c s
    let k := h.cls c
    let f := (h.cot c).porch.next
    let ready := h.asRendered c
    let h := match t.gap with
      | none => h
      | some (a, b, n) =>
        h.writeRec o t.ring c s 5 f f (leBytes 4 a ++ leBytes 4 b ++ leBytes 4 n ++ leBytes 4 0) false ready
    let flags := b2n t.disc + 2 * b2n (t.owed.length == (allCells k).length)
    let bell := ((h.ctx c).bellOfs + BitVec.ofNat 64 f).toNat
    let pay := leBytes 4 f ++ leBytes 2 flags ++ leBytes 2 k.width ++ leBytes 2 k.height ++ leBytes 1 t.fmt ++
      leBytes 1 (if t.fmt = 3 ∨ t.fmt = 4 then t.csc else 0) ++ leBytes 4 0 ++ leBytes 8 bell ++ leBytes 8 0
    let slot := h.ringNext o t.ring
    let h := h.writeRec o t.ring c s 1 f f pay false ready
    (true, h.modStream c s fun t =>
      { t with set := { t.set with opened := some slot, gap := t.gap, disc := t.disc }, gap := none, disc := false })
  else (false, h)

/-- The set in progress holds the PALETTE record that an I8 stream requires of it (R222), which is written now if it does not
yet and the ring takes it with `need` slots kept. -/
def openPalette (h : Hw) (c s need : Nat) : Bool × Hw :=
  let t := h.stream c s
  let pal := h.streamPal c s
  if t.fmt ≠ 5 || t.set.pal.isSome || (!t.set.disc && t.lastPal == some pal) then (true, h)
  else if h.streamRoom c s (1 + need) then
    let f := (h.cot c).porch.next
    (true, (h.writeRec (h.streamFn c s) t.ring c s 3 f f (pal.flatMap (leBytes 4)) false (h.asRendered c)).modSet c s
      fun x => { x with pal := some pal })
  else (false, h)

/-! ### Regions (R221, R226, R229, R230) -/

/-- The reference word of pixel (x, y) (R212). -/
def refAt (h : Hw) (c x y : Nat) : Nat := NTable.get 0 (h.cot c).porch.ref (y * 1024 + x)

/-- The index tag of pixel (x, y) of the row being composed. -/
def tagAt (h : Hw) (c x y : Nat) : Option (Nat × Nat) :=
  ((h.cot c).porch.tags.find? fun t => t.1 == y * 1024 + x).map (·.2)

/-- Pixel (x, y) as composed latest: its reference word and tag. -/
def shownAt (h : Hw) (c x y : Nat) : Nat × Option (Nat × Nat) := (h.refAt c x y, h.tagAt c x y)

/-- Pixel (x, y) of cells held to be carried. -/
def heldPixel (cols : Nat) (l : List HeldCell) (x y : Nat) : Nat × Option (Nat × Nat) :=
  match l.find? fun q => q.cell == y / 16 * cols + x / 16 with
  | some q => q.px.getD (y % 16 * 16 + x % 16) (0, none)
  | none => (0, none)

/-- Lines of cell row r. -/
def rowLines (k : ClassRec) (r : Nat) : Nat := min 16 (k.height - 16 * r)

/-- The format of cell (i, r) on a stream: its own, or RGB888 on an I8 stream where some pixel is not indexable (R226). -/
def cellFmt (h : Hw) (c s i r : Nat) (px : Nat → Nat → Nat × Option (Nat × Nat)) : Nat :=
  let t := h.stream c s
  let pal := h.streamPal c s
  let ok := (List.range (rowLines (h.cls c) r)).all fun y => (List.range 16).all fun x =>
    match px (16 * i + x) (16 * r + y) with
    | (w, some (p, e)) => p == t.i8pal && expandRgb (pal.getD e 0) == w
    | _ => false
  if t.fmt = 5 ∧ ¬ ok then 1 else t.fmt

/-- Maximal runs of consecutive columns that share a format. -/
def runs : List (Nat × Nat) → List (Nat × Nat × Nat)
  | [] => []
  | (i, f) :: l =>
    match runs l with
    | (j, n, g) :: rest => if j = i + 1 ∧ f = g then (i, n + 1, f) :: rest else (i, 1, f) :: (j, n, g) :: rest
    | [] => [(i, 1, f)]

/-- Items of l that are not in l', added to l'. -/
def addNew (l' l : List Nat) : List Nat := l' ++ l.filter (!l'.contains ·)

/-- The cells of a run of row r. -/
def runCells (k : ClassRec) (r : Nat) (run : Nat × Nat × Nat) : List Nat :=
  (List.range run.2.1).map fun d => r * cellCols k + run.1 + d

/-- Writes one region of row r, composed for frame cf, on a stream (R221): as rendered it is published at once; a region to be
voided goes out as VOID, and its cells are owed (R229). Where the ring cannot take it its cells are dropped (R230). -/
def writeRegion (h : Hw) (c s r cf : Nat) (px : Nat → Nat → Nat × Option (Nat × Nat)) (void : Bool) (run : Nat × Nat × Nat) :
    Hw :=
  let (i, n, fmt) := run
  let k := h.cls c
  let cells := runCells k r run
  let (opened, h) := h.openSet c s 1
  let (ready, h) := if opened then h.openPalette c s 1 else (false, h)
  let t := h.stream c s
  let f := (h.cot c).porch.next
  let rows := rowLines k r
  let carried := decide (cf < f)
  let bytes := regionBytes fmt t.csc (16 * i) (16 * r) (16 * n) rows (fun x y => (px x y).1)
    fun x y => ((px x y).2.map (·.2)).getD 0
  let pay := leBytes 2 (16 * i) ++ leBytes 2 (16 * r) ++ leBytes 2 (16 * n) ++ leBytes 2 rows ++ leBytes 1 fmt ++
    leBytes 1 (b2n carried) ++ leBytes 2 0 ++ leBytes 4 (fmtPitch fmt (16 * n)) ++ leBytes 4 cf ++
    leBytes 4 bytes.length ++ leBytes 8 0 ++ bytes
  let slots := ceilDiv pay.length 4080
  if ready && h.streamRoom c s (slots + 1) then
    let h := h.writeRec (h.streamFn c s) t.ring c s 2 f f pay void (h.asRendered c)
    if void then h.modStream c s fun t => { t with nvoid := t.nvoid + slots, owed := addNew t.owed cells }
    else
      h.modStream c s fun t =>
        { t with owed := if h.asRendered c then t.owed.filter (!cells.contains ·) else t.owed,
                 set := { t.set with nreg := t.set.nreg + 1, ncell := t.set.ncell + n,
                                     ncarried := t.set.ncarried + (if carried then n else 0),
                                     sent := addNew t.set.sent cells } }
  else
    h.modStream c s fun t =>
      { t with owed := addNew t.owed cells,
               set := { t.set with dropped := if carried then t.set.dropped else t.set.dropped ++ cells, outLate := true } }

/-- Writes the cells of row r that a stream holds to carry, each run of one frame and format a CARRIED region in the cells' own
place of the set (R219, R221, R229): all of them, or with `hit` only the regions that hold a cell of `hit`, as VOID. -/
def writeHeldRow (h : Hw) (c s r : Nat) (hit : Option (List Nat)) : Hw :=
  let k := h.cls c
  let cols := cellCols k
  let l := (h.stream c s).held.filter fun q => q.cell / cols == r
  h.each (l.map (·.frame)).eraseDups fun h f =>
    let mine := l.filter (·.frame == f)
    let px := heldPixel cols mine
    h.each (runs (mine.map fun q => (q.cell % cols, h.cellFmt c s (q.cell % cols) r px))) fun h run =>
      let cells := runCells k r run
      let void := (hit.map fun x => cells.any x.contains).getD false
      if hit.isSome && !void then h
      else (h.writeRegion c s r f px void run).modStream c s fun t =>
        { t with held := t.held.filter fun q => !(q.frame == f && cells.contains q.cell) }

/-- Writes every cell that a stream still holds to carry, row by row. -/
def writeHeld (h : Hw) (c s : Nat) : Hw := h.each (List.range (cellRows (h.cls c))) fun h r => h.writeHeldRow c s r none

/-- The due cells among columns `here` of row r on a stream (R214). -/
def dueOn (h : Hw) (c s r : Nat) (here : List Nat) : List Nat :=
  let cols := cellCols (h.cls c)
  here.filter fun i => (h.cot c).porch.changed.contains i || (h.stream c s).owed.contains (r * cols + i)

/-- Hands columns a to b − 1 of row r of frame cf to a stream (R214, R221, R227 to R229). Cells of a frame frozen already are
held, for their own place in the next set (log entry 55). -/
def flushStream (h : Hw) (c r cf a b s : Nat) : Hw :=
  if h.streamRuns c s then
    let k := h.cls c
    let cols := cellCols k
    let here := (List.range (b - a)).map fun d => a + d
    if cf < (h.cot c).porch.next then
      let due := h.dueOn c s r here
      let held := due.map fun i => (⟨r * cols + i, cf, (List.range (16 * rowLines k r)).map fun n =>
        h.shownAt c (16 * i + n % 16) (16 * r + n / 16)⟩ : HeldCell)
      h.modStream c s fun t =>
        { t with held := t.held ++ held, set := { t.set with due := addNew t.set.due (due.map (r * cols + ·)) } }
    else
      let h := h.writeHeldRow c s r (if h.asRendered c then none else some (here.map (r * cols + ·)))
      let due := h.dueOn c s r here
      let h := h.modSet c s fun x => { x with due := addNew x.due (due.map (r * cols + ·)) }
      let rs := runs (due.map fun i => (i, h.cellFmt c s i r (h.shownAt c)))
      let h := h.each rs fun h run => h.writeRegion c s r cf (h.shownAt c) false run
      if h.asRendered c then h.drainStream c s else h
  else h

/-- Notes the due cells of columns a to b − 1 of row r for an eDP port that shows the cottage (R233). -/
def flushEdp (h : Hw) (c r a b e : Nat) : Hw :=
  let p := NTable.get EdpPort.reset h.edp e
  if h.flag F.POR_EDP_STAT_ACTIVE 0 e && p.src == c then
    let cols := cellCols (h.cls c)
    let cells := ((List.range (b - a)).map fun d => a + d).filter fun i =>
      (h.cot c).porch.changed.contains i || p.owed.contains (r * cols + i)
    let new := cells.map fun i => r * cols + i
    let p := { p with due := p.due.filter (!new.contains ·) ++ new, owed := p.owed.filter (!new.contains ·) }
    { h with edp := NTable.set EdpPort.reset h.edp e p }
  else h

/-- Hands the composed columns of the current cell row that have not gone yet to every sink: when the row is complete,
and at a freeze in its last line (R213, R227). `ss` are the streams. -/
def flushRow (h : Hw) (c r cf b : Nat) (ss : List Nat) : Hw :=
  let a := (h.cot c).porch.flushed
  let h := h.each ss fun h s => h.flushStream c r cf a b s
  let h := h.each [0, 1] fun h e => h.flushEdp c r a b e
  h.modPorch c fun p => { p with flushed := b }

/-- Receives a composed pixel: compares it with the reference image and stores it (R212, R213). The comparison is kept
per cell column of the row. -/
def porchPixel (h : Hw) (c x y word : Nat) (tag : Option (Nat × Nat)) : Hw :=
  h.modPorch c fun p =>
    let key := y * 1024 + x
    let p := if NTable.get 0 p.ref key = word then p
      else { p with ref := NTable.set 0 p.ref key word,
                    changed := if p.changed.contains (x / 16) then p.changed else p.changed ++ [x / 16] }
    match tag with
    | some t => { p with tags := p.tags ++ [(key, t)] }
    | none => p

/-- The cells composed so far of the row in its last line go to the sinks as the frame is frozen or closed (R211, R227). -/
def flushComposed (h : Hw) (c : Nat) (ss : List Nat) : Hw :=
  let k := h.cls c
  let l := (h.cot c).loom
  if l.frame ≤ (h.cot c).porch.next ∧ l.line < k.height ∧ (l.line % 16 = 15 ∨ l.line + 1 = k.height) then
    h.flushRow c (l.line / 16) l.frame (l.x / 16) ss
  else h

/-- A cell row of frame cf is complete: it goes to the sinks and the next row begins. -/
def porchRowDone (h : Hw) (c r cf : Nat) : Hw :=
  (h.flushRow c r cf (cellCols (h.cls c)) [0, 1]).modPorch c fun p => { p with tags := [], changed := [], flushed := 0 }

/-! ### Scan buffers (R233, R234) -/

/-- One destination pixel of an eDP port's picture: replicated, or scaled by the 4-tap filter (R234). -/
def edpPixel (h : Hw) (e dx dy : Nat) : Nat :=
  let c := (NTable.get EdpPort.reset h.edp e).src
  let k := h.cls c
  let dw := h.fld F.POR_EDP_DST_DW 0 e
  let dh := h.fld F.POR_EDP_DST_DH 0 e
  if h.flag F.POR_EDP_CTL_REPL 0 e then h.refAt c (dx / (dw / k.width)) (dy / (dh / k.height))
  else
    let comp := fun hi lo => scaleAt k.width k.height dw dh dx dy fun x y => bits (h.refAt c x y) hi lo
    packRgb (comp 29 20) (comp 19 10) (comp 9 0)

/-- Panel width of a port, as POR_EDP_TIM gives it (layout: log entry 18). -/
def edpHact (h : Hw) (e : Nat) : Nat := bits (h.fld F.POR_EDP_TIM_TIM 0 (4 * e)) 15 0
/-- Panel height of a port. -/
def edpVact (h : Hw) (e : Nat) : Nat := bits (h.fld F.POR_EDP_TIM_TIM 0 (4 * e + 1)) 15 0

/-- Writes destination pixels [x0, x1) × [y0, y1) of the rectangle into the scan buffer (R233). -/
def edpWrite (h : Hw) (e x0 x1 y0 y1 : Nat) : Hw :=
  let fb := h.fld F.POR_EDP_FB_ADDR 0 e * 4096
  let px := h.fld F.POR_EDP_DST_DX 0 e
  let py := h.fld F.POR_EDP_DST_DY 0 e
  h.each (List.range (y1 - y0)) fun h j => h.each (List.range (x1 - x0)) fun h i =>
    h.wv (fb + ((py + y0 + j) * h.edpHact e + px + x0 + i) * 4) 4 (h.edpPixel e (x0 + i) (y0 + j))

/-- Adds a range of lines to rising ranges, joining those that meet. -/
def addRange : List (Nat × Nat) → Nat × Nat → List (Nat × Nat)
  | [], r => [r]
  | (a, b) :: l, (x, y) =>
    if y < a then (x, y) :: (a, b) :: l
    else if b < x then (a, b) :: addRange l (x, y)
    else addRange l (min a x, max b y)

/-- The source of port e has published: the scaled pixels of its due cells go to the scan buffer, and their lines await
a selective update (R233). -/
def edpPublish (h : Hw) (e : Nat) : Hw :=
  let p := NTable.get EdpPort.reset h.edp e
  let k := h.cls p.src
  if p.due.isEmpty || k.width = 0 || k.height = 0 then h
  else
    let dw := h.fld F.POR_EDP_DST_DW 0 e
    let dh := h.fld F.POR_EDP_DST_DH 0 e
    let m := if h.flag F.POR_EDP_CTL_REPL 0 e then 0 else 2
    let cols := cellCols k
    let area := fun (cell : Nat) =>
      let sx0 := cell % cols * 16 - m
      let sx1 := min k.width (cell % cols * 16 + 16 + m)
      let sy0 := cell / cols * 16 - m
      let sy1 := min k.height (cell / cols * 16 + 16 + m)
      (sx0 * dw / k.width, ceilDiv (sx1 * dw) k.width, sy0 * dh / k.height, ceilDiv (sy1 * dh) k.height)
    let h := h.each p.due fun h cell =>
      let (x0, x1, y0, y1) := area cell
      h.edpWrite e x0 (min x1 dw) y0 (min y1 dh)
    let py := h.fld F.POR_EDP_DST_DY 0 e
    let lines := p.due.foldl (fun acc cell =>
      let (_, _, y0, y1) := area cell
      addRange acc (py + y0, py + min y1 dh)) p.lines
    { h with edp := NTable.set EdpPort.reset h.edp e { p with due := [], lines := lines } }

/-! ### Freezing and closing (R223, R227, R229, R230) -/

/-- The cells of frame f that the Looms have not composed (R52, R211). -/
def missingCells (h : Hw) (c f : Nat) : List Nat :=
  let k := h.cls c
  let l := (h.cot c).loom
  if l.frame > f || (h.ctx c).restored then []
  else
    let line := if l.frame < f then 0 else l.line
    let x := if l.frame < f then 0 else l.x
    (allCells k).filter fun cell =>
      let last := min (cell / cellCols k * 16 + 15) (k.height - 1)
      !(decide (last < line) || (decide (last = line) && decide (cell % cellCols k * 16 + 15 < x)))

/-- Maximal rectangles of cells within a cell row, as X, Y, W, H (R223). -/
def missingRects (k : ClassRec) (cells : List Nat) : List (List Nat) :=
  (List.range (cellRows k)).flatMap fun r =>
    (runs ((List.range (cellCols k)).filterMap fun i =>
      if cells.contains (r * cellCols k + i) then some (i, 0) else none)).map fun (i, n, _) =>
        [16 * i, 16 * r, 16 * n, min 16 (k.height - 16 * r)]

/-- A note as 16 bytes (R223). -/
def noteBytes : Note → List Byte
  | .input port seq rf rl al af =>
    leBytes 1 1 ++ leBytes 1 port ++ leBytes 2 seq ++ leBytes 4 rf ++ leBytes 2 rl ++ leBytes 2 al ++ leBytes 4 af
  | .stats first flash mean frame maxd up down =>
    leBytes 1 2 ++ leBytes 1 (b2n first + 2 * b2n flash) ++ leBytes 2 mean ++ leBytes 4 frame ++ leBytes 2 maxd ++
      leBytes 1 up ++ leBytes 1 down ++ leBytes 4 0

/-- Frame f joins the gap that a stream owes (R224). -/
def gapFrame (h : Hw) (c s f : Nat) : Hw :=
  h.modStream c s fun t =>
    { t with gap := match t.gap with
      | none => some (f, f, 1)
      | some (a, _, n) => some (a, f, n + 1) }

/-- A frame that a stream does not publish for want of ring space: its slots not yet flipped go out as VOID, its due cells are
owed, and a GAP is owed, with the gap and the discontinuity that its voided records were to carry (R230). -/
def skipFrame (h : Hw) (c s f : Nat) : Hw :=
  let t := h.stream c s
  let mine := (h.ringQueue (h.streamFn c s) t.ring).filter fun e => e.cot == c && e.stream == s && e.set == f
  let lost := fun (type : Nat) => mine.any (·.type == type)
  let h := h.markRecs c s (·.set == f) fun e => { e with void := true, ready := true }
  let h := h.count F.POR_CNT_GAP_GAP
  let h := h.modStream c s fun t =>
    { t with owed := addNew (addNew t.owed t.set.due) (t.held.map (·.cell)),
             held := [],
             gap := if t.set.opened.isSome then (if lost 5 then t.set.gap else none) else t.gap,
             disc := t.disc || (t.set.disc && lost 1),
             lastPal := if t.set.pal.isSome && !lost 3 then t.set.pal else t.lastPal,
             nvoid := t.nvoid + ((mine.filter (!·.void)).map (·.lens.length)).sum,
             set := PorchSet.reset }
  (h.gapFrame c s f).drainStream c s

/-- The payload of the close of frame f on a stream: lateness and CONTAINED bits `cflags`, the missing cells (R223). -/
def closePay (h : Hw) (c s f cflags : Nat) (miss : List Nat) : List Byte :=
  let t := h.stream c s
  let x := t.set
  let rects := missingRects (h.cls c) miss
  leBytes 4 f ++ leBytes 2 (cflags + (if x.outLate then 4 else 0)) ++ leBytes 2 x.nreg ++ leBytes 2 x.ncell ++
    leBytes 2 x.ncarried ++ leBytes 2 miss.length ++ leBytes 2 rects.length ++ leBytes 2 t.notes.length ++ leBytes 2 0 ++
    leBytes 4 t.nvoid ++ leBytes 8 0 ++ rects.flatMap (fun l => l.flatMap (leBytes 2)) ++ t.notes.flatMap noteBytes

/-- Every cell of the frame was due: FRAME_OPEN says ALL, unless its slot is published already (R220, R228). -/
def showAll (h : Hw) (c s : Nat) : Hw :=
  let t := h.stream c s
  match t.set.opened with
  | some slot =>
    if (allCells (h.cls c)).all (fun i => t.set.due.contains i || t.owed.contains i) && !h.asRendered c then
      let o := h.streamFn c s
      h.commonsWrite o (h.fld F.COM_RING_BASE_SPACE o t.ring) (h.slotAt o t.ring slot + 20)
        [BitVec.ofNat 8 (b2n t.set.disc + 2)]
    else h
  | none => h

/-- Writes the close of frame f on a stream behind what is still to be carried, or skips the frame; a stopped stream owes it as a
gap (R223, R227, R229, R230, R242). -/
def closeStream (h : Hw) (c f cflags : Nat) (missing : List Nat) (s : Nat) : Hw :=
  if h.streamRuns c s then
    let h := h.writeHeld c s
    let miss := addNew missing (h.stream c s).set.dropped
    let slots := ceilDiv (h.closePay c s f cflags miss).length 4080
    let (opened, h) := h.openSet c s slots
    let h := if opened then (h.openPalette c s slots).2 else h
    if opened && h.streamRoom c s slots then
      let h := h.showAll c s
      let t := h.stream c s
      let h := h.writeRec (h.streamFn c s) t.ring c s 4 f f (h.closePay c s f cflags miss) false false
      let h := if t.set.outLate then
          (h.count F.POR_CNT_OUTLATE_OUTLATE).setStreamFld F.POR_S0_STAT_OUT_LATE F.POR_S1_STAT_OUT_LATE c s 1
        else h
      h.modStream c s fun t =>
        { t with owed := addNew (t.owed.filter (!t.set.sent.contains ·)) miss,
                 lastPal := if t.set.pal.isSome then t.set.pal else t.lastPal,
                 nvoid := 0, notes := [], set := PorchSet.reset }
    else h.skipFrame c s f
  else if (h.stream c s).live then h.gapFrame c s f
  else h

/-- The values of a stream's control register come into force with the next frame. -/
def takeStream (h : Hw) (c s : Nat) : Hw :=
  h.modStream c s fun t =>
    { t with ring := h.streamFld F.POR_S0_CTL_RING F.POR_S1_CTL_RING c s,
             fmt := h.streamFld F.POR_S0_CTL_FMT F.POR_S1_CTL_FMT c s,
             csc := h.streamFld F.POR_S0_CTL_CSC F.POR_S1_CTL_CSC c s,
             i8pal := h.streamFld F.POR_S0_CTL_I8PAL F.POR_S1_CTL_I8PAL c s }

/-- A stream begins anew with the next frame: DISC, every cell owed, no palette published yet (R214, R222, R231, R242). -/
def beginStream (h : Hw) (c s : Nat) : Hw :=
  (h.takeStream c s).modStream c s fun t =>
    { t with live := true, start := .none, moved := false, disc := true, owed := allCells (h.cls c), held := [],
             set := PorchSet.reset, lastPal := none }

/-- Stream starts and changes take effect (R231): values written since the last frame begin with this one, marked DISC. A start
takes SEQ back to 0 (R216); a stream that resumes after a ring error goes on with its SEQ. -/
def syncStream (h : Hw) (c s : Nat) : Hw :=
  let t := h.stream c s
  let en := h.streamFld F.POR_S0_CTL_EN F.POR_S1_CTL_EN c s == 1
  let stopped := h.streamFld F.POR_S0_STAT_STOPPED F.POR_S1_STAT_STOPPED c s == 1
  let h := if h.streamFld F.POR_S0_CTL_REFRESH F.POR_S1_CTL_REFRESH c s = 1 then
      (h.oweAll c s false).setStreamFld F.POR_S0_CTL_REFRESH F.POR_S1_CTL_REFRESH c s 0
    else h
  if !en then h.modStream c s fun t => { t with live := false, start := .none, held := [], set := PorchSet.reset }
  else if t.start = .starts || !t.live then
    (((h.setStreamFld F.POR_S0_STAT_STOPPED F.POR_S1_STAT_STOPPED c s 0).beginStream c s).modStream c s fun t =>
      { t with seq := 0 }).setStreamFld F.POR_S0_STAT_NEXTSEQ F.POR_S1_STAT_NEXTSEQ c s 0
  else if t.start = .resumes then (h.setStreamFld F.POR_S0_STAT_STOPPED F.POR_S1_STAT_STOPPED c s 0).beginStream c s
  else if stopped then h
  else if t.moved then
    (h.takeStream c s).modStream c s fun t => { t with moved := false, disc := true, owed := allCells (h.cls c) }
  else h.takeStream c s

/-- The lateness of frame f at its Bell (R52): PROC_LATE, RENDER_LATE, and whether every visible line is composed.
`procFrame` is the frame the beam has reached. -/
def lateness (h : Hw) (c f : Nat) : Nat × Bool :=
  let k := h.cls c
  let x := h.ctx c
  let l := (h.cot c).loom
  let composed := if l.frame > f || x.restored then k.height else if l.frame = f then min k.height l.line else 0
  let passed := if x.frame > f || x.restored then k.height else if x.frame = f then min k.height (x.vc / k.vcpl) else 0
  (b2n (x.frame ≤ f && !x.restored) + 2 * b2n (composed < passed), composed < k.height)

/-- Publication of frame f at its Bell (R22, R23, R52, R227): the partly composed row goes out, lateness is fixed, each
stream's close is written; its headers are flipped by PORCH_FLIP. -/
def freezeFrame (h : Hw) (c f : Nat) : Hw :=
  let k := h.cls c
  let h := h.flushComposed c [0, 1]
  let (fl, short) := h.lateness c f
  let h := if fl % 2 = 1 ∨ short then h.count F.COT_CNT_LATE_LATE c else h
  let missing := h.missingCells c f
  let h := h.each [0, 1] fun h s => h.closeStream c f fl missing s
  let h := h.each [0, 1] fun h e =>
    let p := NTable.get EdpPort.reset h.edp e
    if h.flag F.POR_EDP_CTL_EN 0 e && h.fld F.POR_EDP_CTL_SRC 0 e == c && p.src != c then
      { h with edp := NTable.set EdpPort.reset h.edp e { p with src := c, owed := allCells k, due := [] } }
    else if p.src = c && h.flag F.POR_EDP_STAT_ACTIVE 0 e then
      let h := h.edpPublish e
      let p := NTable.get EdpPort.reset h.edp e
      { h with edp := NTable.set EdpPort.reset h.edp e
                 { p with owed := addNew p.owed missing } }
    else h
  h.modPorch c fun p => { p with next := f + 1 }

/-- Closes the frame in progress of cottage c on streams `ss` with CONTAINED at once, its composed cells published, and flips it
(R55, R242, R495). -/
def closeNow (h : Hw) (c : Nat) (ss : List Nat) : Hw :=
  let h := h.flushComposed c ss
  let f := (h.cot c).porch.next
  let missing := h.missingCells c f
  h.each ss fun h s =>
    ((h.closeStream c f 8 missing s).markRecs c s (fun e => decide (e.set ≤ f)) fun e =>
      { e with ready := true }).drainStream c s

/-- Closes the frame in progress with CONTAINED, and owes every sink every cell (R55, R242). -/
def closeContained (h : Hw) (c : Nat) : Hw :=
  let h := h.closeNow c [0, 1]
  let h := h.modPorch c fun p => { p with tags := [], changed := [], flushed := 0 }
  h.oweSinks c

end Hw

end Sys2Proof.Machine
end

