-- ==== Sys2Proof/Machine/Choir.lean ====
section
/-!
DEFINITION. The Choir's operations (R244 to R270): the voice journal, voices and the voice bus, the mix bus and routes,
host audio blocks. The Choir's commands stand in ChoirCmd.lean. -/

namespace Sys2Proof.Machine

/-! ### Tables: S(j) of R254 over a quarter period, and the step sizes of IMA ADPCM (PRESUMED, log entry 20) -/

/-- Part of `sineQuarter`. -/
def sine0 : List Nat :=
  [0, 201, 402, 603, 804, 1005, 1206, 1407, 1608, 1809, 2009, 2210, 2410, 2611, 2811, 3012,
   3212, 3412, 3612, 3811, 4011, 4210, 4410, 4609, 4808, 5007, 5205, 5404, 5602, 5800, 5998, 6195,
   6393, 6590, 6786, 6983, 7179, 7375, 7571, 7767, 7962, 8157, 8351, 8545, 8739, 8933, 9126, 9319,
   9512, 9704, 9896, 10087, 10278, 10469, 10659, 10849, 11039, 11228, 11417, 11605, 11793, 11980, 12167, 12353]

/-- Part of `sineQuarter`. -/
def sine1 : List Nat :=
  [12539, 12725, 12910, 13094, 13279, 13462, 13645, 13828, 14010, 14191, 14372, 14553, 14732, 14912, 15090, 15269,
   15446, 15623, 15800, 15976, 16151, 16325, 16499, 16673, 16846, 17018, 17189, 17360, 17530, 17700, 17869, 18037,
   18204, 18371, 18537, 18703, 18868, 19032, 19195, 19357, 19519, 19680, 19841, 20000, 20159, 20317, 20475, 20631,
   20787, 20942, 21096, 21250, 21403, 21554, 21705, 21856, 22005, 22154, 22301, 22448, 22594, 22739, 22884, 23027]

/-- Part of `sineQuarter`. -/
def sine2 : List Nat :=
  [23170, 23311, 23452, 23592, 23731, 23870, 24007, 24143, 24279, 24413, 24547, 24680, 24811, 24942, 25072, 25201,
   25329, 25456, 25582, 25708, 25832, 25955, 26077, 26198, 26319, 26438, 26556, 26674, 26790, 26905, 27019, 27133,
   27245, 27356, 27466, 27575, 27683, 27790, 27896, 28001, 28105, 28208, 28310, 28411, 28510, 28609, 28706, 28803,
   28898, 28992, 29085, 29177, 29268, 29358, 29447, 29534, 29621, 29706, 29791, 29874, 29956, 30037, 30117, 30195]

/-- Part of `sineQuarter`. -/
def sine3 : List Nat :=
  [30273, 30349, 30424, 30498, 30571, 30643, 30714, 30783, 30852, 30919, 30985, 31050, 31113, 31176, 31237, 31297,
   31356, 31414, 31470, 31526, 31580, 31633, 31685, 31736, 31785, 31833, 31880, 31926, 31971, 32014, 32057, 32098,
   32137, 32176, 32213, 32250, 32285, 32318, 32351, 32382, 32412, 32441, 32469, 32495, 32521, 32545, 32567, 32589,
   32609, 32628, 32646, 32663, 32678, 32692, 32705, 32717, 32728, 32737, 32745, 32752, 32757, 32761, 32765, 32766]

/-- Part of `sineQuarter`. -/
def sine4 : List Nat :=
  [32767]

/-- round(32,767 × sin(2πj / 1,024)) for j = 0 to 256. -/
def sineQuarter : List Nat := sine0 ++ sine1 ++ sine2 ++ sine3 ++ sine4

/-- S(j) of R254. -/
def sineS (j : Nat) : Int :=
  let k := j % 512
  let v : Int := sineQuarter.getD (if k ≤ 256 then k else 512 - k) 0
  if j % 1024 < 512 then v else -v

/-- Step sizes of IMA ADPCM. -/
def imaSteps : List Nat :=
  [7, 8, 9, 10, 11, 12, 13, 14, 16, 17, 19, 21, 23, 25, 28,
   31, 34, 37, 41, 45, 50, 55, 60, 66, 73, 80, 88, 97, 107, 118,
   130, 143, 157, 173, 190, 209, 230, 253, 279, 307, 337, 371, 408, 449, 494,
   544, 598, 658, 724, 796, 876, 963, 1060, 1166, 1282, 1411, 1552, 1707, 1878, 2066,
   2272, 2499, 2749, 3024, 3327, 3660, 4026, 4428, 4871, 5358, 5894, 6484, 7132, 7845, 8630,
   9493, 10442, 11487, 12635, 13899, 15289, 16818, 18500, 20350, 22385, 24623, 27086, 29794, 32767]

/-- Step index changes of IMA ADPCM. -/
def imaIndex (n : Nat) : Int := if n % 8 < 4 then -1 else 2 * ((n % 8 : Nat) : Int) - 6

/-- Decodes one IMA ADPCM nibble: predictor and step index. -/
def imaDecode (n : Nat) (s : Int × Int) : Int × Int :=
  let step := imaSteps.getD s.2.toNat 7
  let diff : Int := (step / 8 + (if bit n 2 then step else 0) + (if bit n 1 then step / 2 else 0) +
    (if bit n 0 then step / 4 else 0) : Nat)
  (clampI (-32768) 32767 (if bit n 3 then s.1 - diff else s.1 + diff), clampI 0 88 (s.2 + imaIndex n))

/-! ### Voice registers (R247, R252, R253) -/

/-- The bits of a voice register that a store keeps (R253): by offset in 0xA000-0xAFFF. -/
def voiceMask (off : Nat) : Nat :=
  if off < 0x800 then
    match off % 0x40 with
    | 0x00 => 0xF
    | 0x04 => 0xFFFFFFFF
    | 0x08 => 0x1FFF1FFF
    | 0x0C => 0x017301FF
    | 0x10 => 0x0FFFFFFF
    | 0x14 => 0xFFFFF
    | 0x18 => 0xFFFFF
    | 0x1C => 0
    | _ => 0xFFFFFFFF
  else if off = 0x808 then 0x3F
  else if off = 0x80C then 0x800003FF
  else 0

/-- A voice register's word in a table of them. -/
def voiceReg (t : NTable Word) (v off : Nat) : Nat := (NTable.get 0 t (v * 0x40 + off)).toNat

/-! ### Gains and ramps (R255) -/

/-- N of R255 for a class and CHR_VRAMP. -/
def rampLen (k : ClassRec) (t : NTable Word) : Nat :=
  min (bits (NTable.get 0 t 0x808).toNat 5 0) 50 * k.vspl * k.tl * 60 / 1000

/-- New targets: a ramp from the present gains over n samples, at once if n is 0. -/
def Voice.aim (v : Voice) (l r : Int) (n : Nat) : Voice :=
  if n = 0 then { v with startL := l, startR := r, tgtL := l, tgtR := r, el := l, er := r, rampK := 0, rampN := 0 }
  else { v with startL := v.el, startR := v.er, tgtL := l, tgtR := r, rampK := 0, rampN := n }

/-- The next sample of the ramp: the k-th sample uses e0 + ((target − e0) × k) / N (R255). -/
def Voice.rampStep (v : Voice) : Voice :=
  if v.rampK < v.rampN then
    let k := v.rampK + 1
    { v with rampK := k, el := v.startL + ((v.tgtL - v.startL) * k).tdiv v.rampN,
             er := v.startR + ((v.tgtR - v.startR) * k).tdiv v.rampN }
  else v

/-- GL and GR of CHR_VGAIN; values above 4,096 act as 4,096 (R253). -/
def gainsOf (t : NTable Word) (v : Nat) : Int × Int :=
  (min (bits (voiceReg t v 8) 28 16) 4096, min (bits (voiceReg t v 8) 12 0) 4096)

/-- A key-on (R254, R255). -/
def Voice.keyOn (v : Voice) (l r : Int) (n : Nat) : Voice :=
  ({ v with sounding := true, keyed := true, ended := false, ph := 0, opPh := [0, 0, 0, 0], lastOp0 := 0,
            lfsr := 0x7FFF, pos := 0, decoded := 0, pred := 0, stepIx := 0, loopState := none }).aim l r n

/-- A key-off (R255). -/
def Voice.keyOff (v : Voice) (n : Nat) : Voice := if v.keyed then { v.aim 0 0 n with keyed := false } else v

/-- A journal entry takes effect: the register in force changes; key-on, key-off and gain act (R246, R252 to R255). -/
def ChoirState.applyEntry (k : ClassRec) (s : ChoirState) (e : JournalEntry) : ChoirState :=
  let word := e.value.toNat &&& voiceMask e.addr
  let s := { s with vreg := NTable.set 0 s.vreg e.addr (BitVec.ofNat 32 word) }
  let n := rampLen k s.vreg
  let every (f : Nat → Voice → Voice) : ChoirState :=
    { s with voices := (List.range 32).foldl (fun t v =>
        if bit e.value.toNat v then NTable.set Voice.reset t v (f v (NTable.get Voice.reset t v)) else t) s.voices }
  if e.addr = 0x800 then every fun v x => x.keyOn (gainsOf s.vreg v).1 (gainsOf s.vreg v).2 n
  else if e.addr = 0x804 then every fun _ x => x.keyOff n
  else if e.addr < 0x800 ∧ e.addr % 0x40 = 8 then
    let v := e.addr / 0x40
    let x := NTable.get Voice.reset s.voices v
    if x.keyed then
      { s with voices := NTable.set Voice.reset s.voices v (x.aim (gainsOf s.vreg v).1 (gainsOf s.vreg v).2 n) }
    else s
  else s

/-! ### Generators (R254) -/

/-- FM operators 0 to 3 in order: outputs and advanced phases (R254). -/
def fmStep (t : NTable Word) (v : Nat) (x : Voice) : Int × Voice :=
  let shape := voiceReg t v 0xC
  let alg := bits shape 17 16
  let fb := bits shape 22 20
  let inc := voiceReg t v 4
  let op := fun k => voiceReg t v (0x20 + 4 * k)
  let out := fun k (m : Int) =>
    let ph := ((((x.opPh.getD k 0).toNat : Int) + m * 65536) % 4294967296).toNat
    sineS (ph / 4194304) * (bits (op k) 25 16 : Nat) / 1024
  let o0 := out 0 (if fb = 0 then 0 else x.lastOp0 / (2 ^ (8 - fb) : Nat))
  let o1 := out 1 (if alg = 3 then 0 else o0)
  let o2 := out 2 (if alg = 0 then o1 else if alg = 2 then o0 else 0)
  let o3 := out 3 (if alg = 0 ∨ alg = 1 then o2 else if alg = 2 then o0 else 0)
  let sum := if alg = 0 then o3 else if alg = 1 then o1 + o3 else if alg = 2 then o1 + o2 + o3 else o0 + o1 + o2 + o3
  let adv := (List.range 4).map fun k =>
    let mul := bits (op k) 31 28
    let step : Int := ((if mul = 0 then inc / 2 else inc * mul : Nat) : Int) + signed 16 (op k)
    BitVec.ofInt 32 (((x.opPh.getD k 0).toNat : Int) + step)
  (clampI (-32768) 32767 sum, { x with opPh := adv, lastOp0 := o0 })

/-- Advances ph by INC (R254). -/
def Voice.advance (x : Voice) (inc : Nat) : Voice := { x with ph := x.ph + BitVec.ofNat 32 inc }

/-- One sample of a voice that reads no memory, by TYPE (R254). -/
def synthStep (t : NTable Word) (v : Nat) (x : Voice) : Int × Voice :=
  let shape := voiceReg t v 0xC
  let inc := voiceReg t v 4
  let ph := x.ph.toNat
  match bits (voiceReg t v 0) 3 0 with
  | 1 => (if bits ph 31 24 < bits shape 7 0 then 32767 else -32768, x.advance inc)
  | 2 =>
    let u := bits ph 31 16
    (if u < 32768 then 2 * (u : Int) - 32768 else 98303 - 2 * (u : Int), x.advance inc)
  | 3 =>
    let o : Int := if bit x.lfsr 0 then -32768 else 32767
    let y := x.advance inc
    if ph + inc < 2 ^ 32 then (o, y)
    else
      let b := (x.lfsr + x.lfsr / 2) % 2
      let l := setBits (x.lfsr / 2) 14 14 b
      (o, { y with lfsr := if bit shape 8 then setBits l 6 6 b else l })
  | 4 =>
    let i := bits ph 31 27
    (signed 8 (voiceReg t v (0x20 + i / 4 * 4) / 256 ^ (i % 4)) * 256, x.advance inc)
  | 5 => fmStep t v x
  | _ => (0, x)

/-- Sample i of a PCM voice lies at or beyond its end, and no loop takes it back (R254). -/
def pcmOver (t : NTable Word) (v i : Nat) : Bool :=
  decide (voiceReg t v 0x14 ≤ i) && !(bit (voiceReg t v 0xC) 24 && decide (voiceReg t v 0x18 < voiceReg t v 0x14))

/-- The position after a PCM step: wrapped into the loop, or ended (R254). -/
def pcmNext (t : NTable Word) (v : Nat) (x : Voice) : Voice :=
  let len := voiceReg t v 0x14
  let lp := voiceReg t v 0x18
  let p := x.pos + voiceReg t v 4
  if p / 65536 < len then { x with pos := p }
  else if bit (voiceReg t v 0xC) 24 && decide (lp < len) then
    let spill := p / 65536 - len
    let i := lp + spill % (len - lp)
    let x := match x.loopState with
      | some s => { x with decoded := lp, pred := s.1, stepIx := s.2 }
      | none => x
    { x with pos := i * 65536 + p % 65536 }
  else { x with ended := true }

/-! ### Bridge samples and mix ramps (R260, R262) -/

/-- A voice bus sample goes to the bridge, unless the time of its presentation has passed (R260). -/
def ChoirState.toBridge (s : ChoirState) (b : BusSample) : ChoirState :=
  let past := match s.presented with
    | some (f, n) => decide (b.frame < f) || (b.frame == f && decide (b.n ≤ n))
    | none => false
  if past then s else { s with bridge := s.bridge ++ [b] }

/-- The value of a ramp at mix sample m: its k-th sample uses from + ((to − from) × k) / len (R262, R265). -/
def Ramp.at (x : Ramp) (m : Nat) : Nat :=
  if m < x.start then x.from_
  else
    let k := m - x.start + 1
    if x.len ≤ k then x.to_ else ((x.from_ : Int) + (((x.to_ : Int) - x.from_) * k).tdiv x.len).toNat

/-- At boundary m a ramp to a new value begins from the present one (R262). -/
def Ramp.aim (x : Ramp) (v m len : Nat) : Ramp := if v = x.to_ then x else ⟨x.at (m - 1), v, m, len⟩

namespace Hw

/-- What the generation of one voice's sample met: it went on, or the sample must wait for a granule, or the cottage
is to be contained. -/
inductive VoiceEnd where
  | ok
  | waits (frame g : Nat)
  | contain (cause : Nat)

/-- Reads a PCM byte or halfword for a voice (R250): the value, or the end of the voice in unmapped memory. -/
def pcmRead (h : Hw) (c a n : Nat) : Got × Hw := h.loadAt c a n

/-- Decodes the ADPCM nibbles from `decoded` up to and including nibble i; the state on first reaching LOOP is kept
(R254). Fuel bounds the nibbles of one step. -/
def adpcmTo : Nat → Hw → Nat → Nat → Nat → Nat → Voice → Got × Voice × Hw
  | 0, h, _, _, _, _, x => (.value 0, x, h)
  | fuel + 1, h, c, base, lp, i, x =>
    if x.decoded ≤ i then
      let x := if x.decoded = lp && x.loopState.isNone then { x with loopState := some (x.pred, x.stepIx) } else x
      match h.pcmRead c (base + x.decoded / 2) 1 with
      | (.value b, h) =>
        let (p, s) := imaDecode (b / (if x.decoded % 2 = 0 then 1 else 16) % 16) (x.pred, x.stepIx)
        adpcmTo fuel h c base lp i { x with pred := p, stepIx := s, decoded := x.decoded + 1 }
      | (g, h) => (g, x, h)
    else (.value 0, x, h)

/-- One sample of a PCM voice (R254). -/
def pcmStep (h : Hw) (c : Nat) (t : NTable Word) (v : Nat) (x : Voice) : Got × Int × Voice × Hw :=
  let i := x.pos / 65536
  let base := bits (voiceReg t v 0x10) 27 0
  match bits (voiceReg t v 0) 3 0 with
  | 6 =>
    match h.pcmRead c (base + i) 1 with
    | (.value b, h) => (.value b, signed 8 b * 256, pcmNext t v x, h)
    | (g, h) => (g, 0, x, h)
  | 7 =>
    match h.pcmRead c (base / 2 * 2 + 2 * i) 2 with
    | (.value b, h) => (.value b, signed 16 b, pcmNext t v x, h)
    | (g, h) => (g, 0, x, h)
  | _ =>
    let len := voiceReg t v 0x14
    match adpcmTo 131072 h c base (voiceReg t v 0x18) i x with
    | (.value b, y, h) =>
      let wraps := decide (len ≤ (y.pos + voiceReg t v 4) / 65536) && bit (voiceReg t v 0xC) 24
      if wraps then
        match adpcmTo 1048576 h c base (voiceReg t v 0x18) (len - 1) y with
        | (.value _, z, h) => (.value b, y.pred, pcmNext t v z, h)
        | (g, _, h) => (g, 0, x, h)
      else (.value b, y.pred, pcmNext t v y, h)
    | (g, _, h) => (g, 0, x, h)

/-- What one sample of a voice gives: its end, its output with both gains applied, the voice after, and whether it ended in
unmapped memory (R250, R254, R255). -/
structure VoiceOut where
  ends : VoiceEnd
  l : Int
  r : Int
  voice : Voice
  fault : Bool

/-- One sample of voice v (R254 to R256). -/
def voiceStep (h : Hw) (c v : Nat) : VoiceOut × Hw :=
  let s := (h.cot c).choir
  let x := NTable.get Voice.reset s.voices v
  let rest := fun (y : Voice) => if !y.keyed && y.el == 0 && y.er == 0 then { y with sounding := false } else y
  if !x.sounding then (⟨.ok, 0, 0, x, false⟩, h)
  else
    let y := x.rampStep
    let type := bits (voiceReg s.vreg v 0) 3 0
    let gives := fun (o : Int) (z : Voice) => (⟨.ok, o * y.el / 16, o * y.er / 16, rest z, false⟩ : VoiceOut)
    if y.ended then (gives 0 y, h)
    else if type = 6 ∨ type = 7 ∨ type = 8 then
      if pcmOver s.vreg v (y.pos / 65536) then (gives 0 { y with ended := true }, h)
      else
        match h.pcmStep c s.vreg v y with
        | (.value _, o, z, h) => (gives o z, h)
        | (.fault _, _, _, h) => ({ gives 0 { y with ended := true } with fault := true }, h)
        | (.wait f g, _, _, h) => (⟨.waits f g, 0, 0, x, false⟩, h)
        | (.contain k, _, _, h) => (⟨.contain k, 0, 0, x, false⟩, h)
        | (.poison, _, _, h) => (⟨.contain 0x100, 0, 0, x, false⟩, h)
    else
      let (o, z) := synthStep s.vreg v y
      (gives o z, h)

/-- What the voices of a sample give together: their end, the sums, the voices after, and how many ended in unmapped memory. -/
structure VoicesOut where
  ends : VoiceEnd
  l : Int
  r : Int
  voices : NTable Voice
  faults : Nat

/-- The voices of a list in turn, summed (R256). -/
def voicesStep : List Nat → Hw → Nat → VoicesOut → VoicesOut × Hw
  | [], h, _, a => (a, h)
  | v :: vs, h, c, a =>
    let (x, h) := h.voiceStep c v
    match x.ends with
    | .ok => voicesStep vs h c { a with l := a.l + x.l, r := a.r + x.r, faults := a.faults + b2n x.fault,
                                        voices := NTable.set Voice.reset a.voices v x.voice }
    | e => ({ a with ends := e }, h)

/-- The stamp of the cottage's next voice sample (R245). -/
def samplePos (h : Hw) (c : Nat) : Stamp :=
  let k := h.cls c
  let s := (h.cot c).choir
  ⟨s.frame, s.sample / k.vspl * k.vcpl + s.sample % k.vspl * k.vcpl / k.vspl⟩

/-- The next voice sample may be generated: the beam has passed its line, or a stalled store waits at or after its
position (R248, R249). -/
def sampleDue (h : Hw) (c : Nat) : Bool :=
  let k := h.cls c
  let s := (h.cot c).choir
  let p := h.samplePos c
  let lineEnd : Stamp := ⟨s.frame, (s.sample / k.vspl + 1) * k.vcpl⟩
  k.vspl ≠ 0 && k.vcpl ≠ 0 &&
    (lineEnd.le (h.stamp c) || decide ((h.ctx c).frame > s.frame) ||
      (match s.stalled with | some e => p.le e.stamp | none => false))

/-- A store to the voice registers: it enters the journal, or stalls while the journal is full (R246 to R248). -/
def journalStore (h : Hw) (c off : Nat) (value : Word) (st : Stamp) : Hw :=
  let e : JournalEntry := ⟨off, value, st⟩
  let shown := BitVec.ofNat 32 (value.toNat &&& voiceMask off)
  let h := h.modChoir c fun s => { s with shown := NTable.set 0 s.shown off shown }
  if (h.cot c).choir.journal.length < 16 then
    (h.modChoir c fun s => { s with journal := s.journal ++ [e] }).setFld F.CHR_VSTAT_JFILL c 0
      ((h.cot c).choir.journal.length + 1)
  else (h.modChoir c fun s => { s with stalled := some e }).count F.CHR_VSTAT_JSTALL c

/-- After an entry has been applied, a stalled store enters the journal with its stamp (R248). -/
def journalUnstall (h : Hw) (c : Nat) : Hw :=
  let s := (h.cot c).choir
  let h := match s.stalled with
    | some e =>
      if s.journal.length < 16 then
        h.modChoir c fun s => { s with journal := s.journal ++ [e], stalled := none }
      else h
    | none => h
  h.setFld F.CHR_VSTAT_JFILL c 0 (h.cot c).choir.journal.length

/-- Entries of the journal stamped before p take effect, and a stalled store goes on (R246, R248). -/
def applyJournal (h : Hw) (c : Nat) (p : Stamp) : Hw :=
  let due := (h.cot c).choir.journal.takeWhile fun e => e.stamp.lt p
  (h.modChoir c fun s =>
    { due.foldl (ChoirState.applyEntry (h.cls c)) s with journal := s.journal.drop due.length }).journalUnstall c

/-- A stalled store waits although every voice sample at or before its stamp is generated: no sample lies between the journal's
entries and it, so they take effect (R248, DEDUCED). -/
def journalServed (h : Hw) (c : Nat) : Bool :=
  match (h.cot c).choir.stalled with
  | some e => (h.cls c).vspl == 0 || !(h.samplePos c).le e.stamp
  | none => false

/-- Generates the next voice sample (R245, R246, R254 to R256). A page-in only delays it: no voice has stepped until it is there
(R250). Answers a containment cause, if one is met. -/
def genSample (h : Hw) (c : Nat) : Option Nat × Hw :=
  if h.sampleDue c then
    let k := h.cls c
    let h := (h.applyJournal c (h.samplePos c)).modChoir c fun s => { s with awaits := none }
    let (x, h) := voicesStep (List.range k.voices) h c ⟨.ok, 0, 0, (h.cot c).choir.voices, 0⟩
    match x.ends with
    | .ok =>
      let h := h.count F.CHR_VSTAT_VFAULT c 0 x.faults
      (none, h.modChoir c fun s =>
        let last := decide (k.vspl * k.tl ≤ s.sample + 1)
        let l := clampI (-8388608) 8388607 x.l
        let r := clampI (-8388608) 8388607 x.r
        { s.toBridge ⟨s.frame, s.sample, l, r⟩ with
          voices := x.voices, sample := if last then 0 else s.sample + 1, frame := if last then s.frame + 1 else s.frame })
    | .waits f g => (none, h.modChoir c fun s => { s with awaits := some (f, g) })
    | .contain cause => (some cause, h)
  else if h.journalServed c then (none, h.applyJournal c ⟨(h.ctx c).frame + 2, 0⟩)
  else (none, h)

/-! ### Mix bus and routes (R262 to R266) -/

/-- What a route sends at mix sample m: sinks with their gains (R265). -/
def routeGains (h : Hw) (c r m : Nat) : List (Nat × Nat) :=
  let n := c / 256
  let j := c % 256 * 4 + r
  let sink := h.fld F.CHR_RT_SINK n j
  let gain := h.fld F.CHR_RT_GAIN n j
  match ((h.cot c).choir.routes.find? fun e => e.1 == r).map (·.2) with
  | none => if sink = 0 then [] else [(sink, gain)]
  | some mv =>
    let k := m - mv.start + 1
    if mv.len ≤ k then [(mv.newSink, mv.newGain)]
    else if mv.oldSink = mv.newSink then
      [(mv.newSink, ((mv.oldGain : Int) + (((mv.newGain : Int) - mv.oldGain) * k).tdiv mv.len).toNat)]
    else [(mv.newSink, mv.newGain * k / mv.len), (mv.oldSink, mv.oldGain - mv.oldGain * k / mv.len)]

/-- A route's output: clamp((bus × gain) >> 12) to 24 bits (R264). -/
def routeOut (bus : Int) (gain : Nat) : Int := clampI (-8388608) 8388607 (bus * gain / 4096)

/-- M of R262: CHR_BUS.RAMP × 48 mix samples. -/
def mixRamp (h : Hw) (c : Nat) : Nat := h.fld F.CHR_BUS_RAMP c * 48

/-- The next mix-block boundary after mix sample m (R265). -/
def nextBoundary (m : Nat) : Nat := 64 * (m / 64 + 1)

/-- Starts or schedules a change of route r to a sink and gain: it waits as PENDING for its boundary (R265, R266). -/
def routeAsk (h : Hw) (c r sink gain : Nat) : Hw :=
  (h.modChoir c fun s =>
    { s with routePend := NTable.set 0 s.routePend r (gain * 256 + sink + 1),
             routeDue := NTable.set 0 s.routeDue r (nextBoundary (h.fld F.CHR_MIXPOS_POS (c / 256))) }).setFld
    F.CHR_RT_PENDING (c / 256) (c % 256 * 4 + r) 1

/-- At a mix-block boundary: a route change that has ended leaves BUSY, and a pending one begins (R265, R266). -/
def routeBoundary (h : Hw) (c m r : Nat) : Hw :=
  let n := c / 256
  let j := c % 256 * 4 + r
  let s := (h.cot c).choir
  let mv := (s.routes.find? fun e => e.1 == r).map (·.2)
  let busy := match mv with | some v => decide (m < v.start + v.len) | none => false
  if busy then h
  else
    let h := h.setFld F.CHR_RT_BUSY n j 0
    let none_ : RouteMove := ⟨0, 0, 0, 0, 0, 0⟩
    let h := h.modChoir c fun s => { s with routes := s.routes.filter fun e => e.1 ≠ r }
    match NTable.get 0 s.routePend r with
    | 0 => h
    | code =>
     if m < NTable.get 0 s.routeDue r then h else
      let sink := (code - 1) % 256
      let gain := (code - 1) / 256
      let move : RouteMove :=
        { none_ with oldSink := h.fld F.CHR_RT_SINK n j, oldGain := h.fld F.CHR_RT_GAIN n j, newSink := sink,
                     newGain := gain, start := m, len := h.mixRamp c }
      let h := h.modChoir c fun s =>
        { s with routePend := NTable.set 0 s.routePend r 0,
                 routes := if h.mixRamp c = 0 then s.routes else s.routes ++ [(r, move)] }
      (((h.setFld F.CHR_RT_SINK n j sink).setFld F.CHR_RT_GAIN n j gain).setFld F.CHR_RT_PENDING n j 0).setFld
        F.CHR_RT_BUSY n j (b2n (h.mixRamp c ≠ 0))

/-- After mix sample m: a change that it ended leaves BUSY (R265, R266). -/
def routeSettle (h : Hw) (c m : Nat) : Hw :=
  let spill := (h.cot c).choir.routes.filter fun e => decide (e.2.start + e.2.len ≤ m + 1)
  let h := h.each spill fun h e => h.setFld F.CHR_RT_BUSY (c / 256) (c % 256 * 4 + e.1) 0
  h.modChoir c fun s => { s with routes := s.routes.filter fun e => !decide (e.2.start + e.2.len ≤ m + 1) }

/-- At mix-block boundary m: a new bus gain begins its ramp, and a new SUBSONIC its crossfade, from what is in force (R262). -/
def busBoundary (h : Hw) (c m : Nat) : Hw :=
  if (h.cot c).choir.busDue ≤ m then
    h.modChoir c fun s =>
      { s with gain := s.gain.aim (h.fld F.CHR_BUS_BGAIN c) m (h.mixRamp c),
               sub := s.sub.aim (4096 * h.fld F.CHR_BUS_SUBSONIC c) m (h.mixRamp c) }
  else h

/-! ### Host audio blocks (R267 to R270) -/

/-- One audio sample as a 32-bit word (R269). -/
def sampleWord (v : Int) : List Byte := leBytes 4 (v % 4294967296).toNat

/-- The AUDIO payload of a block (R269). -/
def audioPayload (block mixpos flags : Nat) (l : List AudioSample) : List Byte :=
  leBytes 8 block ++ leBytes 8 mixpos ++ leBytes 4 ((l.head?.bind (·.fed)).getD 0xFFFFFFFF) ++ leBytes 2 flags ++
    leBytes 2 ((l.filter (·.late)).length) ++ leBytes 2 240 ++ leBytes 6 0 ++
    l.flatMap fun p => sampleWord p.l ++ sampleWord p.r

/-- The stream's ring takes k records of one slot. -/
def audioRoom (h : Hw) (c k : Nat) : Bool :=
  let o := (h.ownerOf c).getD 0
  let r := (h.cot c).choir.ring
  h.ringUp o r && decide (k ≤ h.ringFree o r) && !h.flag F.CHR_S_STAT_STOPPED c

/-- The cottage's host stream starts at mix sample m: block 0, SEQ 0, with DISC; what an earlier stream owes stays owed
(R216, R270, R279). A contained cottage publishes none of its blocks (R270). -/
def audioStart (h : Hw) (c m : Nat) (l : List AudioSample) : Hw :=
  ((h.modChoir c fun s =>
    { s with live := true, restart := none, stopping := false, contained := false, mute := (h.ctx c).st == .cont,
             startAt := m, block := 0, samples := l, disc := true, seq := 0,
             ring := h.fld F.CHR_S_CTL_RING c }).setFld F.CHR_S_BLOCK_BLOCK c 0 0).setFld F.CHR_S_STAT_NEXTSEQ c 0 0

/-- The block in progress is over: the next one begins, or the stream ends; a stream that EN has begun anew meanwhile has its
samples from its own start (R270). -/
def audioNext (h : Hw) (c : Nat) : Hw :=
  let s := (h.cot c).choir
  match s.restart with
  | some m => h.audioStart c m (s.samples.drop (m - (s.startAt + 240 * s.block)))
  | none =>
    (h.modChoir c fun s =>
      { s with block := s.block + 1, samples := s.samples.drop 240, live := s.live && !s.stopping,
               mute := s.mute || s.contained, contained := false, stopping := false }).setFld F.CHR_S_BLOCK_BLOCK c 0
      (s.block + 1)

/-- Block b joins the runs of blocks owed. -/
def oweBlock : List (Nat × Nat) → Nat → List (Nat × Nat)
  | [], b => [(b, 1)]
  | [(a, n)], b => if a + n = b then [(a, n + 1)] else [(a, n), (b, 1)]
  | x :: l, b => x :: oweBlock l b

/-- The block in progress is complete: it is published, with an AUDIO_GAP before it if one is owed, or owed as a gap
(R270). -/
def publishBlock (h : Hw) (c : Nat) : Hw :=
  let s := (h.cot c).choir
  let o := (h.ownerOf c).getD 0
  let l := s.samples.take 240
  let late := l.any (·.late)
  if !s.mute && h.audioRoom c (1 + s.gaps.length) then
    let h := h.each s.gaps fun h g =>
      h.writeRec o s.ring c 2 7 0 s.block (leBytes 8 g.1 ++ leBytes 4 g.2 ++ leBytes 4 0) false true
    let flags := b2n s.disc + 2 * b2n late + 4 * b2n (l.any (·.clip)) + 8 * b2n s.contained
    let h := h.writeRec o s.ring c 2 6 0 s.block (audioPayload s.block (s.startAt + 240 * s.block) flags l) false true
    let h := if late then h.setFld F.CHR_S_STAT_LATE c 0 1 else h
    let h := h.modChoir c fun s => { s with gaps := [], disc := false }
    (h.drainRing o s.ring).audioNext c
  else
    ((h.setFld F.CHR_S_STAT_GAP c 0 1).modChoir c fun s => { s with gaps := oweBlock s.gaps s.block }).audioNext c

/-- The cottage's audio stream is to continue with a discontinuity (R270). -/
def audioDisc (h : Hw) (c : Nat) : Hw := h.modChoir c fun s => { s with disc := true, contained := false, mute := false }

/-- The cottage is contained: its block in progress will be the last, with CONTAINED (R270). -/
def audioContain (h : Hw) (c : Nat) : Hw := h.modChoir c fun s => { s with contained := s.live && !s.mute }

end Hw

end Sys2Proof.Machine
end

