-- ==== Sys2Proof/Machine/Irq.lean ====
section
/-!
DEFINITION. Interrupt sources (R387 to R393, R400, R405): events and levels of the parish controllers, events of the
cottage interrupt blocks. Claims and completions stand in PicCmd.lean. -/

namespace Sys2Proof.Machine.Hw

/-! ### Parish interrupt controllers -/

/-- A source of parish n is enabled (R388). -/
def picEnabled (h : Hw) (n i : Nat) : Bool := bit (h.fld F.PIC_EN_EN n (i / 32)) (i % 32)

/-- A source is a level source (R393). -/
def picIsLevel (i : Nat) : Bool := decide (i < 256) || [258, 259, 260].contains i

/-- The source is to be delivered, if it is enabled and pending without being active (R388). -/
def picDue (h : Hw) (n i : Nat) : Hw :=
  let p := (h.parish n).pic
  if p.pend.contains i && !p.act.contains i && h.picEnabled n i then
    h.modParish n fun x => { x with pic := { x.pic with notify := x.pic.notify.filter (· ≠ i) ++ [i] } }
  else h

/-- An event on a source: Idle goes to Pending, Active to Active-pending; otherwise it coalesces (R387). -/
def picEvent (h : Hw) (n i : Nat) : Hw :=
  let p := (h.parish n).pic
  if p.pend.contains i then h
  else (h.modParish n fun x => { x with pic := { x.pic with pend := x.pic.pend ++ [i] } }).picDue n i

/-- The input level of a level source (R390): PEND follows it while the source is not active. -/
def picLevel (h : Hw) (n i : Nat) (high : Bool) : Hw :=
  let p := (h.parish n).pic
  let was := p.level.contains i
  let h := h.modParish n fun x =>
    { x with pic := { x.pic with level := if high then (if was then x.pic.level else x.pic.level ++ [i])
                                          else x.pic.level.filter (· ≠ i) } }
  if p.act.contains i then h
  else if high then (if was then h else h.picEvent n i)
  else h.modParish n fun x =>
    { x with pic := { x.pic with pend := x.pic.pend.filter (· ≠ i), notify := x.pic.notify.filter (· ≠ i) } }

/-! ### Cottage interrupt blocks -/

/-- The levels that registers of parish n drive: CAR_HALT, LOM_STOP and ARB_URG (R393). -/
def picSync (h : Hw) (n : Nat) : Hw :=
  let stopped := (List.range 4).any fun j => h.flag F.LOM_STAT_STOPPED n j
  ((h.picLevel n 258 (h.flag F.CAR_STAT_HALTED n)).picLevel n 259 stopped).picLevel n 260
    (decide (h.fld F.ARB_URG_STAT_URG n ≠ 0))

/-- A word of a cottage's IO window, by IO address. -/
def ioWord (h : Hw) (c a : Nat) : Nat := (NTable.get 0 (h.cot c).io.words a).toNat

/-- Stores a word of a cottage's IO window. -/
def setIoWord (h : Hw) (c a v : Nat) : Hw :=
  h.modIo c fun t => { t with words := NTable.set 0 t.words a (BitVec.ofNat 32 v) }

/-- An event on source i of cottage c at a stamp (R387); a coalescing event sets its CIB_OVR bit. -/
def cibEvent (h : Hw) (c i : Nat) (st : Stamp) : Hw :=
  h.modIo c fun t =>
    let b := BitVec.ofNat 32 (2 ^ i)
    if bit t.pend.toNat i then
      { t with ovr := t.ovr ||| b,
               ovrAt := match t.ovrAt with
                 | some (s, m) => if s.lt st then some (st, b) else if s = st then some (s, m ||| b) else some (s, m)
                 | none => some (st, b) }
    else { t with pend := t.pend ||| b }

/-- LATE becomes pending only while it is enabled (R405). -/
def lateEvent (h : Hw) (c : Nat) (st : Stamp) : Hw := if bit (h.ioWord c 0x9004) 11 then h.cibEvent c 11 st else h

/-- The earliest line start that the beam has not passed (R48). -/
def nextLineStart (h : Hw) (c : Nat) : Stamp :=
  let k := h.cls c
  let x := h.ctx c
  let (f, l) := match x.issued with
    | some s => (s.frame, s.vc / k.vcpl + 1)
    | none => (x.frame, ceilDiv x.vc k.vcpl)
  if k.tl ≤ l then ⟨f + 1, 0⟩ else ⟨f, l * k.vcpl⟩

/-- A close with PROC_LATE or RENDER_LATE raises LATE at the earliest line start that the beam has not passed (R405). -/
def cibLate (h : Hw) (c : Nat) : Hw :=
  let st := h.nextLineStart c
  if st.le (h.stamp c) then h.lateEvent c st else h.modIo c fun t => { t with late := t.late ++ [st] }

/-- The oldest input event of cottage c is due: the beam has reached its applied stamp (R49). -/
def inputDue (h : Hw) (c : Nat) : Bool :=
  match (h.ctx c).inq with
  | [] => false
  | e :: _ => e.applied.le (h.stamp c)

/-- Some source is pending, not active and enabled (R401). -/
def cibReady (h : Hw) (c : Nat) : Bool :=
  let t := (h.cot c).io
  decide (t.pend.toNat &&& h.ioWord c 0x9004 &&& (0xFFFFFFFF - t.act.toNat) ≠ 0)

/-- The absolute count of a stamp (R404). -/
def absCount (k : ClassRec) (s : Stamp) : Nat := s.frame * frameLen k + s.vc

/-- The stamp at an absolute count. -/
def stampAt (k : ClassRec) (a : Nat) : Stamp := ⟨a / frameLen k, a % frameLen k⟩

/-- The sources that the beam raises in frame f after `lo` and up to `hi` virtual cycles, with their stamps: VBL, LINE, AUDIO
(R257, R400). -/
def beamSources (h : Hw) (c f : Nat) (lo hi : Int) : List (Nat × Stamp) :=
  let k := h.cls c
  let hit := fun (i line : Nat) =>
    let a := line * k.vcpl
    if lo < (a : Int) ∧ (a : Int) ≤ hi ∧ line < k.tl then [(i, (⟨f, a⟩ : Stamp))] else []
  let audio := (NTable.get 0 (h.cot c).choir.shown 0x80C).toNat
  hit 0 k.height ++ hit 1 (bits (h.ioWord c 0x9018) 9 0) ++ (if bit audio 31 then hit 6 (bits audio 9 0) else [])

/-- A started transfer with IE reaches V between stamps a and b (R352, R380). `ctl` is the IO address of its control
word and `ie` the place of IE in it. -/
def transferRaises (x : Option CotTransfer) (i ctl ie : Nat) (a b : Stamp) : List (Nat × Stamp) :=
  match x with
  | some t => if bit (NTable.get 0 t.regs ctl).toNat ie && a.lt t.v && t.v.le b then [(i, t.v)] else []
  | none => []

/-- The beam of cottage c has moved from stamp a to stamp b, at most into the next frame: the sources in between
become pending (R401). Virtual timers fire by VT_FIRE, input by INPUT_APPLIED. -/
def beamMoved (h : Hw) (c : Nat) (a b : Stamp) : Hw :=
  let l := if a.frame = b.frame then h.beamSources c a.frame a.vc b.vc
    else h.beamSources c a.frame a.vc (frameLen (h.cls c)) ++ h.beamSources c b.frame (-1) b.vc
  let t := (h.cot c).io
  let l := l ++ transferRaises t.carter 8 0xB00C 5 a b ++ transferRaises t.chisel 9 0xC028 7 a b
  let h := h.each l fun h e => h.cibEvent c e.1 e.2
  let h := h.each (t.late.filter (·.le b)) fun h st => h.lateEvent c st
  h.modIo c fun t => { t with late := t.late.filter fun st => b.lt st }

end Sys2Proof.Machine.Hw
end

