-- ==== Sys2Proof/Machine/Cottage.lean ====
section
/-!
DEFINITION. The life of a cottage's context (R15 to R55): states and waits, the beam's charge and what happens at a
frame start, containment, faults, cottage reset, admission, and the Module-fatal event (R495). -/

namespace Sys2Proof.Machine.Hw

/-! ### Hayloft commands that wait (R300, R301, R306) -/

/-- A Hayloft command ends with a code; its vector is signalled, if a function wrote it, unless an FLR ends it (R307). -/
def hayDone (h : Hw) (c code : Nat) (signal : Bool) : Hw :=
  let cmd := (h.cot c).hay
  let h := h.setCot c { h.cot c with hay := none }
  let h := h.modParish (c / 256) fun p => { p with captures := p.captures.filter (· ≠ c) }
  let h := ((h.setFld F.HAY_STAT_PENDING c 0 0).setFld F.HAY_STAT_ACTIVE c 0 0).setFld F.HAY_STAT_CODE c 0 code
  match cmd with
  | some k => if signal && decide (k.fn < 258) then h.event k.fn k.vec else h
  | none => h

/-- The pending command awaits its capture point. -/
def hayPending (h : Hw) (c : Nat) : Bool := h.flag F.HAY_STAT_PENDING c

/-- A CAPTURE at its capture point joins the others of its parish, in order of arrival (R300). -/
def hayArrives (h : Hw) (c : Nat) : Hw :=
  match (h.cot c).hay with
  | some k =>
    if k.op = 1 then h.modParish (c / 256) fun p => { p with captures := p.captures.filter (· ≠ c) ++ [c] } else h
  | none => h

/-- The pending command has reached its capture point: it runs, first waiting for the conditions of R300 or R301. -/
def hayTake (h : Hw) (c : Nat) : Hw :=
  if h.hayPending c then ((h.setFld F.HAY_STAT_PENDING c 0 0).setFld F.HAY_STAT_ACTIVE c 0 1).hayArrives c else h

/-- A capture or restore at its capture point keeps the context in THOLD, its Bell passed or not (R300, R301). -/
def hayHolds (h : Hw) (c : Nat) : Bool :=
  match (h.cot c).hay with
  | some k => decide (k.op ≤ 2) && h.flag F.HAY_STAT_ACTIVE c
  | none => false

/-! ### The line deadlines of the beam scheduler (R30) -/

/-- The Bell rate in force. -/
def bellRate (h : Hw) (n : Nat) : BellRate := (h.parish n).rates.headD ⟨0, 0, 0⟩

/-- When Bell b of parish n rings or rang, in thirds of 2⁻³² ns after Bell 0 (log entry 48). -/
def bellTime (h : Hw) (n b : Nat) : Nat :=
  match (h.parish n).rates.find? fun r => decide (r.first ≤ b) with
  | some r => r.time + (b - r.first) * r.period
  | none => 0

/-- The deadline of line l of the cottage's frame f (R30), in thirds of 2⁻³² ns over 256 × TL. -/
def lineDeadline (h : Hw) (c f l : Nat) : Nat × Nat :=
  let n := c / 256
  let begun := h.bellTime n ((h.ctx c).bellOfs.toInt + f).toNat
  let den := 256 * (h.cls c).tl
  (begun * den + (l + 1) * (h.bellRate n).period * h.fld F.BEL_PACE_PACE n, den)

/-- The line deadline of a context (R30). -/
def deadline (h : Hw) (c : Nat) : Nat × Nat :=
  h.lineDeadline c (h.ctx c).frame ((h.ctx c).vc / (h.cls c).vcpl)

/-- Context a has an earlier deadline than context b. -/
def earlier (h : Hw) (a b : Nat) : Bool :=
  let (x, p) := h.deadline a
  let (y, q) := h.deadline b
  decide (x * q < y * p)

/-- The context that core `core` of parish n runs. -/
def running (h : Hw) (n core : Nat) : Option Nat :=
  ((List.range 16).map fun slot => 256 * n + 16 * core + slot).find? fun c => (h.ctx c).st = .run

/-- Context c has an earlier deadline than the one its core runs. -/
def outruns (h : Hw) (c : Nat) : Bool :=
  match h.running (c / 256) (c % 256 / 16) with
  | some d => h.earlier c d
  | none => false

/-! ### States (R34, R36) -/

/-- What the context view registers show of a processor. -/
def hobView (x : Hob) : HobView := ⟨x.g, x.sp, x.pc, x.fl⟩

/-- The context enters a state; COT_ATTN is high in CONT and HALT (R393); THOLD and OFF are the capture point of a pending
Hayloft command (R300, R301, R307). -/
def setSt (h : Hw) (c : Nat) (st : CotState) : Hw :=
  let ahead := st == .ready && h.outruns c
  let h := h.modCtx c fun x =>
    { x with st := st, ahead := ahead, seen := if x.st = .run ∧ st ≠ .run then hobView x.hob else x.seen }
  let h := h.picLevel (c / 256) (c % 256) (st == .cont || st == .halt)
  if st = .thold ∨ st = .off then h.hayTake c else h

/-- The context would enter READY: HALT instead while a halt is pending (R36). -/
def toReady (h : Hw) (c : Nat) : Hw :=
  let h := h.modCtx c fun x => { x with wait := .none }
  if h.flag F.COT_CTL_HALT c then (h.modCtx c fun x => { x with haltFrom := .ready }).setSt c .halt
  else h.setSt c .ready

/-- The context would enter THOLD: HALT instead while a halt is pending (R36). -/
def toThold (h : Hw) (c : Nat) : Hw :=
  let h := h.modCtx c fun x => { x with wait := .none }
  if h.flag F.COT_CTL_HALT c then (h.modCtx c fun x => { x with haltFrom := .thold }).setSt c .halt
  else h.setSt c .thold

/-- The context waits in a state, for a reason (R42 to R44, R114). -/
def waitIn (h : Hw) (c : Nat) (st : CotState) (w : WaitFor) : Hw :=
  (h.modCtx c fun x => { x with wait := w }).setSt c st

/-- The Bell number of the parish: the Bells rung, less one; none before Bell 0 (R29). -/
def bellNow (h : Hw) (n : Nat) : Nat := h.fld F.BEL_COUNT_COUNT n

/-- Bell f of the cottage has passed: Bell number f + COT_BELL_OFS of the parish (R16, R22). -/
def bellPassed (h : Hw) (c f : Nat) : Bool :=
  decide (((h.ctx c).bellOfs + BitVec.ofNat 64 f).toInt ≤ (h.bellNow (c / 256) : Nat))

/-! ### Containment (R55) -/

/-- Register channel i of parish n. -/
def regCh (h : Hw) (n i : Nat) : RegCh := NTable.get RegCh.reset (h.parish n).regChs i
/-- Replaces it. -/
def setRegCh (h : Hw) (n i : Nat) (x : RegCh) : Hw :=
  h.modParish n fun p => { p with regChs := NTable.set RegCh.reset p.regChs i x }

/-- CAR_STAT.HALTED and its interrupt source follow the channels' states (R366, R393). -/
def haltedShown (h : Hw) (n : Nat) : Hw :=
  let some4 := ((List.range 8).any fun j => h.fld F.CAR_CH_STAT_STATE n j == 4) ||
    (List.range 16).any fun i => h.fld F.CAR_RC_CTL_STATE n i == 4
  (h.setFld F.CAR_STAT_HALTED n 0 (b2n some4)).picSync n

/-- The live registers of register channel i, with `left` bytes of cottage c's transfer to go (R359, R366). -/
def regLive (h : Hw) (n i c left : Nat) (t : CotTransfer) : Hw :=
  let m := carterMove c t
  let at0 := fun a => c * 2 ^ 48 + (NTable.get 0 t.regs a).toNat
  let src := at0 0xB000 + (if m.op = 1 then 0 else m.live m.sfix left)
  ((h.setFld F.CAR_RC_SRC_SRC n i src).setFld F.CAR_RC_DST_DST n i (at0 0xB004 + m.live m.dfix left)).setFld
    F.CAR_RC_CNT_CNT n i left

/-- A VRAM source is read only after every Tally entry stamped before the START has been applied (R46, R352). -/
def regWaits (h : Hw) (c : Nat) (t : CotTransfer) : Bool :=
  bit (NTable.get 0 t.regs 0xB000).toNat 31 && (h.ctx c).tally.any fun e => e.stamp.lt t.start

/-- The transfer that register channel i serves, with its cottage (R353). -/
def regServed (h : Hw) (n i : Nat) : Option (Nat × CotTransfer) :=
  (h.regCh n i).queue.head?.bind fun c => (h.cot c).io.carter.map fun t => (c, t)

/-- Whether the next n bytes of register channel i's transfer can move now; what its transfer waits for is noted. -/
def regReady (h : Hw) (n i bytes : Nat) : MoveEnd × Hw :=
  match h.regServed n i with
  | none => (.ok, h)
  | some (c, t) =>
    let m := carterMove c t
    let left := h.fld F.CAR_RC_CNT_CNT n i
    let b := min bytes left
    match h.moveReady m (m.next left b) b with
    | (.wait f g, h) =>
      (.wait f g, h.modIo c fun x => { x with carter := x.carter.map fun t => { t with awaits := some (f, g) } })
    | r => r

/-- Moves the next n bytes of register channel i's transfer, up to one that cannot be read: its live registers follow (R359,
R361). -/
def regAdvance (h : Hw) (n i bytes : Nat) : MoveEnd × Hw :=
  match h.regServed n i with
  | none => (.ok, h)
  | some (c, t) =>
    let m := carterMove c t
    let left := h.fld F.CAR_RC_CNT_CNT n i
    let b := if h.regWaits c t then 0 else min bytes left
    let (e, moved, r, h) := h.moveRange m (m.next left b) b
    let h := h.regLive n i c (left - moved) t
    match r with
    | some k => (e, h.modIo c fun x => { x with carter := x.carter.map fun t =>
        if t.result = 0 then { t with result := BitVec.ofNat 32 (k + 1) } else t })
    | none => (e, h)

/-- The reads in flight of a running register channel are written, `bytes` more, which no channel has more of (R348, R359). -/
def regDrain (h : Hw) (n i bytes : Nat) : MoveEnd × Hw :=
  match h.regServed n i with
  | some (c, t) =>
    if h.fld F.CAR_RC_CTL_STATE n i = 1 then h.regAdvance n i (min bytes (carterMove c t).inFlight) else (.ok, h)
  | none => (.ok, h)

/-- A register channel takes up the transfer at the head of its queue, or is idle (R353, R366). -/
def regChNext (h : Hw) (n i : Nat) : Hw :=
  let st := h.fld F.CAR_RC_CTL_STATE n i
  let h := h.setRegCh n i { h.regCh n i with draining := false }
  let h := h.setFld F.CAR_RC_CTL_QUEUE n i ((h.regCh n i).queue.length - 1)
  match h.regServed n i with
  | none =>
    (((h.setFld F.CAR_RC_CTL_STATE n i 0).setFld F.CAR_RC_CTL_CTX n i 0).setFld F.CAR_RC_CNT_CNT n i 0).haltedShown n
  | some (c, t) =>
    let state := if st = 4 then 4 else if h.flag F.CAR_RC_CTL_PAUSE n i then 3 else 1
    ((h.setFld F.CAR_RC_CTL_STATE n i state).setFld F.CAR_RC_CTL_CTX n i c).regLive n i c (carterMove c t).count t

/-- A cottage's transfer leaves its register channel, which goes on with the next; reads in flight of a running one, as many as
there happen to be, are written first (R353). -/
def leaveRegCh (h : Hw) (c : Nat) : Hw :=
  let n := c / 256
  let i := c % 256 / 16
  let first := (h.regCh n i).queue.head? == some c
  let h := if first then
      let (v, h) := h.draw
      (h.regDrain n i (v.toNat % 4097)).2
    else h
  let x := h.regCh n i
  let h := h.setRegCh n i { x with queue := x.queue.filter (· ≠ c) }
  if first then h.regChNext n i else h.setFld F.CAR_RC_CTL_QUEUE n i ((h.regCh n i).queue.length - 1)

/-- Normal Chisel channel i of parish n. -/
def chiselCh (h : Hw) (n i : Nat) : ChiselCh := NTable.get ChiselCh.reset (h.parish n).chisel i
/-- Replaces it. -/
def setChiselCh (h : Hw) (n i : Nat) (x : ChiselCh) : Hw :=
  h.modParish n fun p => { p with chisel := NTable.set ChiselCh.reset p.chisel i x }

/-- The cottage's started blit has its destination in VRAM space, and has not taken effect (R381). -/
def vramBlit (h : Hw) (c : Nat) : Option CotTransfer :=
  (h.cot c).io.chisel.filter fun t => !t.done && bit (NTable.get 0 t.regs 0xC004).toNat 31

/-- What CHS_N_STAT shows of a normal channel: its state and the cottage it serves. -/
def showChisel (h : Hw) (n i : Nat) : Hw :=
  match (h.chiselCh n i).queue with
  | [] => (h.setFld F.CHS_N_STAT_STATE n i 0).setFld F.CHS_N_STAT_CTX n i 0
  | c :: _ =>
    let waits := ((h.vramBlit c).map fun t => !t.running).getD false
    (h.setFld F.CHS_N_STAT_STATE n i (if waits then 2 else 1)).setFld F.CHS_N_STAT_CTX n i c

/-- The head of a normal channel may move data: a VRAM destination has started, a VRAM source has every entry stamped before
the START applied (R380, R381). -/
def blitMoves (h : Hw) (c : Nat) (t : CotTransfer) : Bool :=
  let b := cotBlit c t
  let vramSrc := match b.src with
    | .vram _ _ => b.op == 0
    | _ => false
  (((h.vramBlit c).isNone || t.running) && !(vramSrc && (h.ctx c).tally.any fun e => e.stamp.lt t.start))

/-- The cottage's blit is over: it leaves its normal channel, which takes the next (R382, R384). -/
def blitEnded (h : Hw) (c : Nat) : Hw :=
  let h := h.each (List.range 6) fun h i =>
    let q := (h.chiselCh (c / 256) i).queue
    if q.contains c then (h.setChiselCh (c / 256) i { queue := q.filter (· ≠ c) }).showChisel (c / 256) i else h
  h.modIo c fun x => { x with chisel := none }

/-- A running blit that is removed ends at its next burst boundary: as many of its pixels as happen to be done are written (R382). -/
def blitPart (h : Hw) (c : Nat) (t : CotTransfer) : Hw :=
  if h.blitMoves c t then
    let (v, h) := h.draw
    let b := cotBlit c t
    let l := bursts (max 1 (2048 / chisBpp b.fmt)) b.points
    (blitBursts (l.take (v.toNat % (l.length + 1))) h b).2
  else h

/-- A cottage's blit is removed: a running one is ended part done (R382). -/
def leaveChisel (h : Hw) (c : Nat) : Hw :=
  match (h.cot c).io.chisel with
  | none => h
  | some t =>
    let serving := (List.range 6).any fun i => (h.chiselCh (c / 256) i).queue.head? == some c
    (if serving then h.blitPart c t else h).blitEnded c

/-- The cottage's Carter and Chisel transfers are removed from their channels (R353, R382). -/
def dropTransfers (h : Hw) (c : Nat) : Hw :=
  let h := if (h.cot c).io.carter.isSome then h.leaveRegCh c else h
  (h.leaveChisel c).modIo c fun t => { t with carter := none }

/-- Lines of the pattern caches of the cottage's parish become invalid. -/
def cacheDrop (h : Hw) (c : Nat) (lines : Nat → Bool) : Hw :=
  h.modParish (c / 256) fun p => { p with pcache := p.pcache.filter fun e => !lines e.line }

/-- The cottage's lines become invalid: those of the frames that hold its video RAM (R164). -/
def cacheForget (h : Hw) (c : Nat) : Hw :=
  match h.vramFrame c with
  | none => h
  | some f =>
    let homes := (List.range 16).map (granuleHome 9 h f)
    h.cacheDrop c fun line => homes.contains (line / 8192)

/-- The Looms drop the cottage's job; a Loom that it stalled is free again (R142, R180). -/
def dropJob (h : Hw) (c : Nat) : Hw :=
  let h := match (h.cot c).loom.phase with
    | .stalled j | .onLoom j => h.setReg .LOM_STAT (c / 256) j (h.reg .LOM_STAT (c / 256) j &&& 0x80FF0000)
    | _ => h
  h.modLoom c fun l => { l with phase := .idle, awaits := none }

/-- An error contains the cottage: CONT, its frame closed as CONTAINED, its audio block the last, its job dropped, its
transfers removed; a pending CAPTURE completes with STATE and a pending RESTORE is taken at once (R55, R270, R307).
A contained cottage is not contained again, nor an OFF one whose frames are all closed; one that is OFF while the Looms
still finish a frame of it is (R143). -/
def contain (h : Hw) (c : Nat) : Hw :=
  let x := h.ctx c
  if x.st = .cont ∨ (x.st = .off ∧ ¬ x.admitted) then h
  else
    let h := h.modCtx c fun x =>
      { x with admitted := false, wait := .none, held := none, start := .none, landed := false }
    let h := h.setSt c .cont
    let h := ((h.closeContained c).audioContain c).dropTransfers c
    let h := (h.dropJob c).modRelief c fun r => { r with prevMeans := none }
    match (h.cot c).hay with
    | some k =>
      if k.op = 1 then h.hayDone c 0x04 true
      else if k.op = 2 then h.hayTake c
      else h
    | none => h

/-- A record of an error that contains cottage c, and the containment. -/
def containWith (h : Hw) (c : Nat) (src : Blk) (cause detail : Nat) : Hw :=
  (h.raiseCot 1 src cause c detail).contain c

/-- Contains a cottage with a Granary cause: GRN_CSTAT names it (R308, R311). -/
def containGrn (h : Hw) (c cause detail : Nat) : Hw :=
  let i := c / 256
  let j := c % 256
  let h := h.setFld F.GRN_CSTAT_CAUSE i j cause
  let h := if cause = 0x01 then h.setFld F.GRN_CSTAT_POISONED i j 1
    else if cause = 0x02 then h.setFld F.GRN_CSTAT_EXHAUST i j 1 else h
  h.containWith c .GRN cause detail

/-! ### The Hob's pending writes landing (R115, R116) -/

/-- A pending write changes its target. -/
def Hob.landOne (x : Hob) (w : PendingWrite) : Hob :=
  let put := fun (old : Word) => (old &&& ~~~w.mask) ||| (w.value &&& w.mask) ||| w.orBits
  match w.target with
  | .g n => { x with g := x.g.set n.toNat (put x.g[n.toNat]) n.isLt }
  | .fl => { x with fl := put x.fl }
  | .sp => { x with sp := put x.sp }

/-- Every pending write lands, in issue order (R116). -/
def Hob.landAll (x : Hob) : Hob := { x.queue.foldl Hob.landOne x with queue := [] }

/-! ### Faults of a cottage context (R124) -/

/-- A cottage instruction faults: COT_FAULT, one Contained record, CONT; earlier pending writes land (R124). -/
def hobFault (h : Hw) (c cause pc : Nat) : Hw :=
  let st := stampBits (h.cls c) (h.stamp c)
  let h := h.modCtx c fun x => { x with hob := Hob.landAll x.hob }
  let h := ((h.setFld F.COT_FAULT_STAMP c 0 st).setFld F.COT_FAULT_CAUSE c 0 cause).setFld F.COT_FAULT_PC c 0 pc
  h.containWith c .COT cause (h.reg .COT_FAULT c).toNat

/-! ### Frame starts (R22, R35, R43, R161) -/

/-- The Looms and the Choir have finished frame f of cottage c: every job, every voice sample (R43, R249). -/
def rendered (h : Hw) (c f : Nat) : Bool :=
  decide (f < (h.cot c).loom.frame) && (decide (f < (h.cot c).choir.frame) || (h.cls c).vspl == 0)

/-- The Looms have finished every visible job of frame f. -/
def visibleDone (h : Hw) (c f : Nat) : Bool :=
  decide (f < (h.cot c).loom.frame) || ((h.cot c).loom.frame == f && decide ((h.cls c).height ≤ (h.cot c).loom.line))

/-- The frame-start wait of R161 applies: COLL is enabled, and a frame has ended. -/
def collWaits (h : Hw) (c : Nat) : Bool := bit (h.ioWord c 0x9004) 10 && decide (0 < (h.ctx c).frame)

/-- A collision or drop in the frame just ended raises COLL at the frame's start (R161). -/
def collRaise (h : Hw) (c : Nat) : Hw :=
  let l := (h.cot c).loom
  let f := (h.ctx c).frame
  if (if f ≤ l.frame then l.collPrev else decide (l.coll ≠ 0)) then h.cibEvent c 10 ⟨f, 0⟩ else h

/-- The context has reached a stage of its frame start. -/
def setStart (h : Hw) (c : Nat) (s : StartStage) : Hw := h.modCtx c fun x => { x with start := s }

/-- The tick hold at a frame start is over: the beam wait of R161, if COLL is enabled, and the frame begins. -/
def frameGo (h : Hw) (c : Nat) : Hw :=
  if h.collWaits c then
    let h := h.count F.COT_CNT_BWAIT_BWAIT c
    if h.visibleDone c ((h.ctx c).frame - 1) then (h.collRaise c).setStart c .none
    else h.waitIn c .bwait .frameStart
  else h.setStart c .none

/-- The context at a frame start stops if RUN is 0 (R35), is in tick hold until its Bell (R22), and begins the frame
otherwise. -/
def bellWait (h : Hw) (c : Nat) : Hw :=
  if h.bellPassed c (h.ctx c).frame then (h.setStart c .begun).frameGo c
  else if !h.flag F.COT_CTL_RUN c then (h.setStart c .none).setSt c .off
  else h.toThold c

/-- A running context whose beam is at a frame start, with every input event up to there applied: it stops if RUN is 0
(R35), is in parity hold until the Looms and the Choir have finished the frame before the last (R43, R249), in tick hold
until its Bell (R22), in beam wait until COLL is known (R161), and then begins the frame. -/
def frameStart (h : Hw) (c : Nat) : Hw :=
  let x := h.ctx c
  if x.st ≠ .run ∨ h.inputDue c then h
  else
    match x.start with
    | .none => h
    | .arrived =>
      if !h.flag F.COT_CTL_RUN c then (h.setStart c .none).setSt c .off
      else if 2 ≤ x.frame ∧ ¬ h.rendered c (x.frame - 2) then (h.count F.COT_CNT_DHOLD_PARITY c).waitIn c .dhold .parity
      else h.bellWait c
    | .held => h.bellWait c
    | .begun => h.frameGo c

/-- The Bell of a context in tick hold has passed: READY, with the wait of R161 to come (R32, R34). -/
def tickOver (h : Hw) (c : Nat) : Hw := (h.setStart c .begun).toReady c

/-- Charges n virtual cycles after an instruction (R17, R18): the excess over a frame is carried; sources become
pending; at a new frame what `frameStart` says applies, once the context runs. -/
def charge (h : Hw) (c n : Nat) : Hw :=
  let k := h.cls c
  let a := h.stamp c
  let len := frameLen k
  let b : Stamp := if len ≤ a.vc + n then ⟨a.frame + 1, a.vc + n - len⟩ else ⟨a.frame, a.vc + n⟩
  let h := (h.modCtx c fun x => { x with frame := b.frame, vc := b.vc }).beamMoved c a b
  if b.frame ≠ a.frame then (h.setStart c .arrived).frameStart c else h

/-! ### Admission and cottage reset (R32, R35, R94) -/

/-- The two loads of R94 that give a reset cottage its PC and SP: they are made as its context first runs (log entry 49). A
page-in takes the context to MISS, and the loads are made anew when it runs again. -/
def bootLoad (h : Hw) (c : Nat) : Hw :=
  match h.loadAt c 0 4 with
  | (.value pc, h) =>
    match h.loadAt c 4 4 with
    | (.value sp, h) =>
      h.modCtx c fun x =>
        { x with booting := false, hob := { x.hob with pc := BitVec.ofNat 32 pc, sp := BitVec.ofNat 32 sp } }
    | (.wait f g, h) => h.waitIn c .miss (.granule f g)
    | (.contain k, h) => h.containGrn c k 0
    | (.poison, h) => h.hobFault c 0x08 0
    | (.fault k, h) => h.hobFault c k 0
  | (.wait f g, h) => h.waitIn c .miss (.granule f g)
  | (.contain k, h) => h.containGrn c k 0
  | (.poison, h) => h.hobFault c 0x08 0
  | (.fault k, h) => h.hobFault c k 0

/-- The core runs the context: a reset cottage makes its two loads (R94), and a frame start goes on. -/
def runCot (h : Hw) (c : Nat) : Hw :=
  let h := h.setSt c .run
  (if (h.ctx c).booting then h.bootLoad c else h).frameStart c

/-- Frame F of the cottage begins at Bell B: COT_BELL_OFS = B − F; its sinks are owed every cell and its streams begin
with DISC (R16, R32, R242, R270). -/
def beginAt (h : Hw) (c b : Nat) : Hw :=
  let f := (h.ctx c).frame
  let h := h.modCtx c fun x =>
    { x with admitted := true, restored := false, start := .begun, bellOfs := BitVec.ofNat 64 b - BitVec.ofNat 64 f }
  let h := h.modPorch c fun p => { p with next := f }
  let h := h.modRelief c fun r => { r with firstAt := some f }
  (h.oweSinks c).audioDisc c

/-- A cottage set to RUN while OFF is admitted at Bell B, at F 0 after a reset or at the F it holds (R32). -/
def admitCot (h : Hw) (c b : Nat) : Hw :=
  let h := h.beginAt c b
  let h := if (h.ctx c).vc = 0 then h.each (h.beamSources c (h.ctx c).frame (-1) 0) fun h e => h.cibEvent c e.1 e.2 else h
  (h.setFld F.GRN_CSTAT_ADM_WAIT (c / 256) (c % 256) 0).toReady c

/-- The reset values of the cottage domain that the Armature supplies: PUB, FMT, audio EN and video EN (R60, R72). -/
def cottageRegs (h : Hw) (c : Nat) : Hw :=
  let h := h.resetRegs fun r => r.name.desc.bank == .cottage && r.bank == c
  match h.slotOf c with
  | none => h
  | some s =>
    let h := h.setFld F.COT_CTL_PUB c 0 (bits s.flags 2 2)
    let h := (h.setFld F.POR_S0_CTL_FMT c 0 s.sinkfmt).setFld F.POR_S0_CTL_EN c 0 (b2n (s.sinkfmt ≠ 0))
    h.setFld F.CHR_S_CTL_EN c 0 (bits s.audio 0 0)

/-- What the stream registers show of streams that go on: the next SEQ, the next block. -/
def streamViews (h : Hw) (c : Nat) : Hw :=
  ((h.setFld F.POR_S0_STAT_NEXTSEQ c 0 (h.stream c 0).seq).setFld F.CHR_S_STAT_NEXTSEQ c 0
    (h.cot c).choir.seq).setFld F.CHR_S_BLOCK_BLOCK c 0 (h.cot c).choir.block

/-- The parts that a cottage reset returns to their reset values: the processor with its Tally, input and ports, the
Looms' progress and registers, Relief's statistics, voices and IO window (R35, R94, R145, R252, R365, R403). The
Plinth, the snapshots, routes, filters and the host streams' ring positions stay. -/
def cottageClear (h : Hw) (c : Nat) : Hw :=
  let x := h.cot c
  let ch := x.choir
  let fresh := { ch with
    shown := ChoirState.reset.shown, vreg := ChoirState.reset.vreg, journal := [], stalled := none, voices := [], frame := 0,
    sample := 0, awaits := none, bridge := [], presented := none,
    live := ch.live && h.flag F.CHR_S_CTL_EN c, restart := none, stopping := false, ring := h.fld F.CHR_S_CTL_RING c }
  h.setCot c { x with
    ctx := { Context.reset with booting := true, ports := Vector.replicate 16 0 },
    loom := LoomState.reset,
    relief := x.relief.keepPlinth,
    porch := { x.porch with tags := [], changed := [], flushed := 0, next := 0 },
    choir := fresh,
    io := CotIo.reset }

/-- A cottage reset (R35): from any state, at once. The frame in progress of an admitted cottage is closed first; a
pending Hayloft command completes with CANCELLED (R307). -/
def cottageReset (h : Hw) (c : Nat) : Hw :=
  let open_ := (h.ctx c).admitted
  let h := if open_ then h.closeContained c else h
  let cancel := ((h.cot c).hay.map fun k => decide (k.op ≤ 2)).getD false
  let h := if cancel then h.hayDone c 0x08 true else h
  let h := ((h.dropTransfers c).dropJob c).cacheForget c
  let h := ((h.cottageRegs c).cottageClear c).streamViews c
  let h := h.setFld F.HAY_STAT_ACTIVE c 0 (b2n (h.cot c).hay.isSome)
  let h := h.setFld F.GRN_CSTAT_ADM_WAIT (c / 256) (c % 256) 0
  let h := (h.setSt c .off).audioDisc c
  h.oweSinks c

/-! ### Module-fatal (R495) -/

/-- The streams of a cottage whose rings lie in host or pooled memory close with CONTAINED (R495 step 3). -/
def fatalClose (h : Hw) (c : Nat) : Hw :=
  if (h.ctx c).admitted then
    let h := h.closeNow c ([0, 1].filter fun s =>
      h.streamRuns c s && h.fld F.COM_RING_BASE_SPACE (h.streamFn c s) (h.stream c s).ring == 0)
    let ch := (h.cot c).choir
    if ch.live && h.fld F.COM_RING_BASE_SPACE ((h.ownerOf c).getD 0) ch.ring == 0 then
      (h.modChoir c fun t => { t with contained := true, samples := t.samples ++ List.replicate 240 ⟨0, 0, false, false, none⟩ }).publishBlock c
    else h
  else h

/-- A Module-fatal event (R495): the record, held and flipped at once; AER on both ports; STATUS_CML bit 0; the closes
of open streams; then nothing but TOP, PWR and ERR answers. -/
def moduleFatal (h : Hw) (src : Blk) (cause detail : Nat) : Hw :=
  let h := h.raise 2 0 src cause 0 none bothPfs detail
  let h := (h.eqFlip 0).eqFlip 129
  let h := (h.emit (.aer 0 1)).emit (.aer 1 1)
  let h := h.sbdRaise 0 0 1
  let h := h.each (h.cots.map (·.1)) fun h c => h.fatalClose c
  h.setFld F.ERR_STAT_FATAL 0 0 1

/-- A Granary map entry was used corrected (R311). -/
def mapEccCorrected (h : Hw) : Hw := h.raiseModule 0 .GRN 0x05 (detailOf .GRN [0x05])

/-- A Granary map entry is uncorrectable: every access to the module's memory stops (R311). -/
def mapEccFatal (h : Hw) : Hw := h.moduleFatal .GRN 0x06 (detailOf .GRN [0x06])

/-- Goes on with a map entry that is used, unless it is uncorrectable (R311). -/
def mapFound (h : Hw) (ev : MapEvent) (go : Hw → Hw) : Hw :=
  match ev with
  | .sound => go h
  | .corrected => go h.mapEccCorrected
  | .uncorrectable => h.mapEccFatal

end Sys2Proof.Machine.Hw
end

