-- ==== Sys2Proof/Machine/State.lean ====
section
/-!
DEFINITION. State: the block and the queue of waiting commands, as plain data; the outcomes a command can stop with;
the reset state. -/

namespace Sys2Proof.Machine

/-- The machine: everything the spec gives the block, and the commands that wait, first in, first out. -/
structure State where
  hw : Hw
  pending : List Instr
  deriving DecidableEq, Repr

/-- Faults. No command of this block faults: the spec gives every event an effect, be it none (log entry 1). -/
inductive Fault where
  /-- Raised by nothing; safe. -/
  | none
  deriving DecidableEq, Repr

/-- Refusals. -/
inductive Refusal where
  /-- Raised by an arm whose command has no meaning yet; safe. -/
  | notModelled (mnemonic : String)
  deriving DecidableEq, Repr

/-- The block right after reset, with no command waiting. -/
def State.reset : State := { hw := Hw.reset, pending := [] }

end Sys2Proof.Machine
end

