-- ==== Sys2Proof/Machine/Run.lean ====
section
/-!
DEFINITION. How a command's effect on the block becomes its outcome on State. Which rails stand and whether the module
sleeps is changed by the commands of the power controller alone (R471, R474); the other runners keep it, whatever the
effect they are given. -/

namespace Sys2Proof.Machine

/-- The state with an effect on the block. -/
def State.run (s : State) (f : Hw → Hw) : Host.Outcome State Fault Refusal := .next { s with hw := f s.hw }

/-- The state with an effect on the block that leaves the power controller as it is. -/
def State.runKeep (s : State) (f : Hw → Hw) : Host.Outcome State Fault Refusal :=
  s.run fun h => (f h).setPower h.power

/-- The state with the effect of a sensor's reading: the rails, the sleep and the clock stay. -/
def State.runSense (s : State) (f : Hw → Hw) : Host.Outcome State Fault Refusal :=
  s.run fun h => (f h).setPower { (f h).power with
    standby := h.power.standby, coreOn := h.power.coreOn, asleep := h.power.asleep, fullSpeed := h.power.fullSpeed }

/-- The state with an effect that can begin or end module sleep and changes nothing else of the power controller. Only a
module that sleeps or works already can be asleep after it. -/
def State.runWake (s : State) (f : Hw → Hw) : Host.Outcome State Fault Refusal :=
  s.run fun h => (f h).setPower { h.power with asleep := (f h).power.asleep && (h.power.asleep || h.act) }

/-- The state with an effect on the core domain, which has none while the core domain does not work. Nothing of the power
controller but module sleep can change by it. -/
def State.runLive (s : State) (f : Hw → Hw) : Host.Outcome State Fault Refusal :=
  s.run fun h => h.live fun h => (f h).setPower { h.power with asleep := (f h).power.asleep }

end Sys2Proof.Machine
end

