-- ==== Sys2Proof/Machine/CotCmd.lean ====
section
/-!
DEFINITION. The host's control of a cottage (R32, R35, R36, R60, R135, R288), the Tally's entry point (R37, R38, R42)
and input events (R47 to R50). -/

namespace Sys2Proof.Machine.Hw

/-! ### COT_CTL (R32, R35, R36, R60, R288, R446) -/

/-- Allocates a frame for each of the given private map entries that has none; false when one cannot be had (R288). -/
def admAlloc : List Nat → Hw → Nat → Nat → Bool × Hw
  | [], h, _, _ => (true, h)
  | e :: es, h, c, o =>
    if bits (h.cmap c e) 1 0 = 1 ∧ (h.cmapFrame c e).isNone then
      match h.allocFrame o privFrame with
      | (none, h) => (false, h)
      | (some f, h) => admAlloc es (h.setCmapFrame c e (some f)) c o
    else admAlloc es h c o

/-- The frames of the given map entries of cottage c go back: its allocation is undone (R288). -/
def admUndo (h : Hw) (c : Nat) (entries : List Nat) : Hw :=
  h.each entries fun h e =>
    match h.cmapFrame c e with
    | some f => (h.setCmapFrame c e none).dropRef f true
    | none => h

/-- Every frame that admission needs is allocated (R288). -/
def admReady (h : Hw) (c : Nat) : Bool :=
  (h.vramFrame c).isSome && (List.range 256).all fun e => bits (h.cmap c e) 1 0 != 1 || (h.cmapFrame c e).isSome

/-- Allocates the frames of a cottage set to RUN while OFF, which then awaits its admitting Bell (ADM_WAIT); or refuses the
admission: ADM_REJ and a Corrected record of block GRN (R288, R308, R311). -/
def admission (h : Hw) (c : Nat) : Hw :=
  match h.ownerOf c with
  | none => h
  | some o =>
    let bare := (List.range 256).filter fun e => bits (h.cmap c e) 1 0 == 1 && (h.cmapFrame c e).isNone
    let (ok, h) := admAlloc (List.range 256) h c o
    let (vram, h) := if ok then h.vramHome c else (none, h)
    if vram.isSome then h.setFld F.GRN_CSTAT_ADM_WAIT (c / 256) (c % 256) 1
    else ((h.admUndo c bare).setFld F.GRN_CSTAT_ADM_REJ (c / 256) (c % 256) 1).raiseCot 0 .GRN 0x04 c 0

/-- A context is halted, at once or when its wait ends (R36). -/
def haltCot (h : Hw) (c : Nat) : Hw :=
  match (h.ctx c).st with
  | .ready | .run => (h.modCtx c fun x => { x with haltFrom := .ready }).setSt c .halt
  | .thold => (h.modCtx c fun x => { x with haltFrom := .thold }).setSt c .halt
  | _ => h

/-- The halt is released: to READY, or, if it came in THOLD and its Bell has not passed, to THOLD (R36), which a cottage whose
RUN is 0 leaves for OFF (R34). -/
def releaseCot (h : Hw) (c : Nat) : Hw :=
  let x := h.ctx c
  if x.st = .halt then
    if x.haltFrom = .thold then
      if h.bellPassed c x.frame && !x.restored && !h.hayHolds c then h.tickOver c
      else
        let h := h.setSt c .thold
        if h.flag F.COT_CTL_RUN c then h else (h.setStart c .none).setSt c .off
    else h.setSt c .ready
  else h

/-- RUN has been written: 1 while OFF asks for admission; 0 in THOLD stops the cottage (R32, R34, R35, R288). -/
def runWritten (h : Hw) (c : Nat) (run : Bool) (ev : MapEvent) : Hw :=
  let st := (h.ctx c).st
  if run then (if st = .off then h.mapFound ev fun h => h.admission c else h)
  else
    let h := h.setFld F.GRN_CSTAT_ADM_WAIT (c / 256) (c % 256) 0
    if st = .thold then (h.setStart c .none).setSt c .off else h

/-- The agent may write COT_CTL.HALT (R36). -/
def mayHalt (ag : Agent) : Bool :=
  match ag with
  | .pf _ | .reeve _ _ => true
  | _ => false

/-- The owner of a cottage is enabled on its port (R446). -/
def ownerEnabled (h : Hw) (c : Nat) : Bool :=
  match h.ownerOf c with
  | some o => (h.fn o).enabled
  | none => false

/-- A PF's write of COT_CTL, which holds RUN, in the page of a context without a cottage is dropped and reported (R73). -/
def runWithout (h : Hw) (ag : Agent) (c : Nat) : Bool :=
  match ag with
  | .pf _ => h.reaches ag && (h.slotOf c).isNone
  | _ => false

/-- A write of COT_CTL (R60). A reset takes precedence over the other fields of the same write (log entry 24). -/
def cotCtlWrite (h : Hw) (ag : Agent) (c v : Nat) (ev : MapEvent) : Hw :=
  let halt := bit v 2
  let run := bit v 0
  let ok := (mayHalt ag || halt == h.flag F.COT_CTL_HALT c) && (!run || h.ownerEnabled c)
  if h.runWithout ag c then h.refuse ag .COT_CTL c 0
  else h.guarded ag .COT_CTL c 0 v ok fun h =>
    if bit v 1 then h.cottageReset c
    else
      let wasHalt := h.flag F.COT_CTL_HALT c
      let h := h.storeFields .COT_CTL c 0 v
      let h := h.runWritten c run ev
      if halt && !wasHalt then h.haltCot c
      else if wasHalt && !halt then h.releaseCot c
      else h

/-- COT_CTL as it reads, RST 0, with one bit changed. -/
def cotCtlWith (h : Hw) (c b : Nat) (v : Bool) : Nat := setBits (setBits (h.reg .COT_CTL c).toNat 1 1 0) b b (b2n v)

def cotCtlRun (h : Hw) (ag : Agent) (c : Nat) (run : Bool) (ev : MapEvent) : Hw :=
  h.cotCtlWrite ag c (h.cotCtlWith c 0 run) ev
def cotCtlRst (h : Hw) (ag : Agent) (c : Nat) : Hw := h.cotCtlWrite ag c (h.cotCtlWith c 1 true) .sound
def cotCtlHalt (h : Hw) (ag : Agent) (c : Nat) (on : Bool) : Hw := h.cotCtlWrite ag c (h.cotCtlWith c 2 on) .sound

/-! ### The context view (R135) -/

/-- The processor that the context view registers show: exact in HALT, THOLD, CONT and OFF, and as the context last left RUN in
any other state (R135). -/
def viewed (h : Hw) (c : Nat) : HobView :=
  let x := h.ctx c
  if x.st = .halt ∨ x.st = .thold ∨ x.st = .cont ∨ x.st = .off then hobView x.hob else x.seen

/-- The committed value that a context view register shows: 0 to 15 COT_G, 16 COT_SP, 17 COT_PC, 18 COT_FL. -/
def ctxView (h : Hw) (c r : Nat) : Word :=
  let x := h.viewed c
  if r = 16 then x.sp else if r = 17 then x.pc else if r = 18 then x.fl else x.g.toList.getD r 0

/-- The register name of a context view index. -/
def ctxName (r : Nat) : RegName :=
  if r = 16 then .COT_SP else if r = 17 then .COT_PC else if r = 18 then .COT_FL else .COT_G

/-- A debug write of a context view register: stored only in HALT, under the COT expert bit (R135, R523). -/
def cotContextWrite (h : Hw) (ag : Agent) (c r : Nat) (v : Word) : Hw :=
  let n := ctxName r
  let j := if r < 16 then r else 0
  if !h.sees ag n c j then h.refuseView ag n c j
  else if v = h.ctxView c r then h
  else if (h.ctx c).st ≠ .halt ∨ ¬ h.unlocked ag n c then h.refuse ag n c j
  else h.modCtx c fun x =>
    let p := x.hob
    { x with hob := if r = 16 then { p with sp := v } else if r = 17 then { p with pc := v }
        else if r = 18 then { p with fl := v &&& 0x9F } else { p with g := p.g.setIfInBounds r v } }

/-! ### The Tally (R37, R38) -/

/-- Entries pending. -/
def tallyFill (h : Hw) (c : Nat) : Nat := (h.ctx c).tally.length

/-- TLY_HWM is at least the present fill (R63). -/
def tallyMark (h : Hw) (c : Nat) : Hw := h.setFld F.TLY_HWM_HWM c 0 (max (h.fld F.TLY_HWM_HWM c) (h.tallyFill c))

/-- A write of TLY_HWM: the highest fill is kept from here on, and is never below the present one (R63). -/
def hwmWrite (h : Hw) (ag : Agent) (c v : Nat) : Hw :=
  h.guarded ag .TLY_HWM c 0 v true fun h => (h.storeFields .TLY_HWM c 0 v).tallyMark c

/-- An entry enters the Tally with the next SEQ (R37, R38). -/
def tallyPush (h : Hw) (c : Nat) (kind : TallyKind) (addr : Nat) (mask : BitVec 4) (value : Word) (st : Stamp) : Hw :=
  let h := h.modCtx c fun x =>
    { x with tally := x.tally ++ [⟨value, x.nextSeq, mask, addr, kind, st⟩], nextSeq := (x.nextSeq + 1) % 4096 }
  h.tallyMark c

/-! ### Input events (R47 to R50) -/

/-- A write of COT_IN_VAL pushes an event: refused with OVF when the queue is full or LINE is TL or more; otherwise its
applied stamp is fixed (R47, R48). -/
def inputPush (h : Hw) (ag : Agent) (c : Nat) (value : Word) : Hw :=
  let k := h.cls c
  let x := h.ctx c
  let line := h.fld F.COT_IN_TGT_LINE c
  let frame := h.fld F.COT_IN_TGT_FRAME c
  if !h.sees ag .COT_IN_VAL c 0 then h.refuseView ag .COT_IN_VAL c 0
  else if 32 ≤ x.inq.length ∨ k.tl ≤ line then
    (h.setFld F.COT_IN_STAT_OVF c 0 1).refuse ag .COT_IN_VAL c 0
  else
    let target : Stamp := ⟨x.frame / 2 ^ 32 * 2 ^ 32 + frame, line * k.vcpl⟩
    let beam := h.nextLineStart c
    let least := Stamp.max target beam
    let applied := match x.lastApplied with
      | some s => Stamp.max least s
      | none => least
    let ordered := least.lt applied
    let h := h.modCtx c fun x =>
      { x with inq := x.inq ++ [⟨h.fld F.COT_IN_TGT_PORT c, value, frame, line, applied⟩], lastApplied := some applied }
    let h := h.setFld F.COT_IN_STAT_LEVEL c 0 (x.inq.length + 1)
    if target.lt applied then
      let h := h.count F.COT_CNT_LATEIN_LATEIN c
      if ordered then h.setFld F.COT_IN_STAT_ORDER c 0 1 else h
    else h

/-- The event at the head of the queue is applied: the port, the marker, INPUT, and its note (R49, R50, R162). -/
def applyInput (h : Hw) (c : Nat) : Hw :=
  match (h.ctx c).inq with
  | [] => h
  | e :: rest =>
    let x := h.ctx c
    let seq := x.inSeq % 65536
    let h := h.modCtx c fun x =>
      { x with inq := rest, inSeq := (x.inSeq + 1) % 65536, ports := x.ports.setIfInBounds e.port e.value }
    let h := h.setFld F.COT_IN_STAT_LEVEL c 0 rest.length
    let h := h.tallyPush c .marker (e.port * 65536 + seq) 0 e.value e.applied
    let k := h.cls c
    let note : Note := .input e.port seq e.tgtFrame e.tgtLine (e.applied.vc / k.vcpl) e.applied.frame
    (h.modLoom c fun l => { l with markers := l.markers ++ [note] }).cibEvent c 7 e.applied

/-- The context's state takes events: an OFF, contained or captured cottage has no beam that moves, and a Tally-full hold is
waited out first. -/
def takesInput (h : Hw) (c : Nat) : Bool :=
  let x := h.ctx c
  match x.st with
  | .off | .cont | .snap => false
  | _ => x.wait != .tallyFull

/-- The beam has reached an event's applied stamp: the event is applied, or the running context waits in DHOLD while the
Tally is full (R49). A frame start that the event held up goes on. -/
def inputApplied (h : Hw) (c : Nat) : Hw :=
  if h.inputDue c && h.takesInput c then
    if h.tallyFill c < 512 then (h.applyInput c).frameStart c
    else if (h.ctx c).st = .run then (h.count F.COT_CNT_DHOLD_FULL c).waitIn c .dhold .tallyFull
    else h
  else h

/-! ### Parity hold (R43, R249) -/

/-- The Looms and the Choir have finished the frame that a parity hold awaits: the context goes on as at any frame
start, from READY (R34). -/
def parityHoldEnd (h : Hw) (c : Nat) : Hw :=
  let x := h.ctx c
  if x.st = .dhold ∧ x.wait = .parity ∧ h.rendered c (x.frame - 2) then (h.setStart c .held).toReady c else h

end Sys2Proof.Machine.Hw

/-! ### The commands -/

namespace Sys2Proof.Machine

/-- PARITY_HOLD_END (R43): the frame that cottage c's parity hold awaits is finished. -/
def execParityHoldEnd (c : Nat) (s : State) : Host.Outcome State Fault Refusal :=
  s.runLive fun h => h.parityHoldEnd c

/-- COT_CTL_RUN (R32): a write of COT_CTL.RUN of cottage c. -/
def execCotCtlRun (ag : Agent) (c : Nat) (run : Bool) (s : State) (ev : MapEvent := .sound) :
    Host.Outcome State Fault Refusal :=
  s.runLive fun h => h.cotCtlRun ag c run ev

/-- COT_CTL_RST (R35): a write of COT_CTL.RST of cottage c. -/
def execCotCtlRst (ag : Agent) (c : Nat) (s : State) : Host.Outcome State Fault Refusal :=
  s.runLive fun h => h.cotCtlRst ag c

/-- COT_CTL_HALT (R36): a write of COT_CTL.HALT of cottage c. -/
def execCotCtlHalt (ag : Agent) (c : Nat) (on : Bool) (s : State) : Host.Outcome State Fault Refusal :=
  s.runLive fun h => h.cotCtlHalt ag c on

/-- COT_CONTEXT_WRITE (R135): a write of COT_G[r] (r below 16), COT_SP (16), COT_PC (17) or COT_FL (18). -/
def execCotContextWrite (ag : Agent) (c : Nat) (r : Nat) (v : Word) (s : State) : Host.Outcome State Fault Refusal :=
  s.runLive fun h => h.cotContextWrite ag c r v

/-- INPUT_PUSH (R47): a write of COT_IN_VAL of cottage c. -/
def execInputPush (ag : Agent) (c : Nat) (value : Word) (s : State) : Host.Outcome State Fault Refusal :=
  s.runLive fun h => h.inputPush ag c value

/-- INPUT_APPLIED (R49): cottage c's beam has reached the applied stamp of its oldest event. -/
def execInputApplied (c : Nat) (s : State) : Host.Outcome State Fault Refusal :=
  s.runLive fun h => h.inputApplied c

end Sys2Proof.Machine
end

