-- ==== Sys2Proof/Machine/Rings.lean ====
section
/-!
DEFINITION. Who names a Commons ring (R217, R339), vectors of a function (R445), and the OUTPUT sum of a port (R81). -/

namespace Sys2Proof.Machine.Hw

/-- The highest ring number of function o (R444). -/
def ringLimit (o : Nat) : Nat := if o % 129 = 0 then 8191 else 1023

/-- The number of MSI-X vectors of function o (R444). -/
def vectors (o : Nat) : Nat := if o % 129 = 0 then 2048 else 64

/-- The cottages whose picture or audio streams name ring r of function o: those with EN 1. -/
def ringUsers (h : Hw) (o r : Nat) : List Nat :=
  h.regs.filterMap fun e =>
    let v := e.2.toNat
    let names := bit v 0 && bits v 31 16 == r
    match e.1.name with
    | .POR_S0_CTL | .CHR_S_CTL => if names && h.ownerOf e.1.bank == some o then some e.1.bank else none
    | .POR_S1_CTL => if names && 129 * e.1.bank == o then some e.1.idx else none
    | _ => none

/-- A picture or audio stream names ring r of function o. -/
def ringStreams (h : Hw) (o r : Nat) : Bool := !(h.ringUsers o r).isEmpty

/-- A chain channel from its RUN until it is IDLE, or an enabled error queue, names ring r of function o (R339). -/
def ringExclusive (h : Hw) (o r : Nat) : Bool :=
  (h.flag F.COM_EQ_EN o && h.fld F.COM_EQ_RING o == r) ||
    (List.range 16).any fun n => (List.range 8).any fun j =>
      h.fld F.CAR_CH_STAT_STATE n j != 0 && h.chainOwner n j == o && h.fld F.CAR_CH_RING_RING n j == r

/-- The ring exists for the function and is enabled. -/
def ringOpen (h : Hw) (o r : Nat) : Bool := decide (r ≤ ringLimit o) && h.flag F.COM_RING_CFG_EN o r

/-- A stream of cottage c may name ring r of function o: no channel and no error queue does, and the streams that do belong to
cottages of its parish (R217, R339). -/
def streamRingOk (h : Hw) (c o r : Nat) : Bool :=
  h.ringOpen o r && !h.ringExclusive o r && (h.ringUsers o r).all fun d => d / 256 == c / 256

/-- A chain channel or error queue may name ring r of function o (R339). -/
def soleRingOk (h : Hw) (o r : Nat) : Bool := h.ringOpen o r && !h.ringExclusive o r && !h.ringStreams o r

/-- Bits per pixel of a stream format for OUTPUT (R81). -/
def fmtBpp (fmt : Nat) : Nat :=
  match fmt with
  | 1 => 24 | 2 => 16 | 3 => 12 | 4 => 24 | 5 => 8 | _ => 0

/-- The OUTPUT share, in mbit/s, of one cottage's picture in a format at its parish's BELL_MAX in mHz (R81). -/
def pictureRate (k : ClassRec) (fmt bellMax : Nat) : Nat := k.width * k.height * fmtBpp fmt * bellMax

/-- The OUTPUT share of a parish Armature for a port (R81). -/
def armOutput (a : ParishArm) (port : Nat) : Nat :=
  (a.slots.map fun s =>
    if s.owner / 129 = port ∧ ¬ bit s.flags 1 then
      match a.classes.find? fun k => k.id == s.cls with
      | some k => s.coreCount * s.slotCount * (pictureRate k s.sinkfmt a.bellMax + s.audio % 2 * 3072000000)
      | none => 0
    else 0).sum

/-- BELL_MAX of a cottage's parish. -/
def bellMaxOf (h : Hw) (c : Nat) : Nat := ((h.parish (c / 256)).arm.map (·.bellMax)).getD 0

/-- The cottage is DAMAGE_RELIANT (R81). -/
def damageReliant (h : Hw) (c : Nat) : Bool := ((h.slotOf c).map fun s => bit s.flags 1).getD false

/-- What the enabled stream 1 of context k adds on a port under its parish's Armature, in a format (R215). -/
def streamOutput (a : ParishArm) (k port fmt : Nat) : Nat :=
  match armSlot a k with
  | some s =>
    if s.owner / 129 = port ∧ ¬ bit s.flags 1 then
      ((a.classes.find? fun x => x.id == s.cls).map fun x => pictureRate x fmt a.bellMax).getD 0
    else 0
  | none => 0

/-- What enabled streams 1 and audio streams without a SLOTS source add on a port, `arms` being the parishes' Armatures
(R215, R267). A parish in `fresh` has just been reset: its audio streams stand as its SLOTS records say, its streams 1, module
registers, as they did. -/
def addedOutput (h : Hw) (arms : Nat → Option ParishArm) (fresh : List Nat) (port : Nat) : Nat :=
  (h.regs.map fun e =>
    let v := e.2.toNat
    match e.1.name with
    | .POR_S1_CTL =>
      if e.1.bank = port ∧ bit v 0 then
        ((arms (e.1.idx / 256)).map fun a => streamOutput a (e.1.idx % 256) port (bits v 7 5)).getD 0
      else 0
    | .CHR_S_CTL =>
      if h.portOf e.1.bank = some port ∧ bit v 0 ∧ ((h.slotOf e.1.bank).map (·.audio)) = some 0 ∧
          ¬ fresh.contains (e.1.bank / 256) then 3072000000 else 0
    | _ => 0).sum

/-- The OUTPUT sum of a port under Armatures `arms`, in mbit/s (R81, R215, R267). -/
def outputWith (h : Hw) (arms : Nat → Option ParishArm) (fresh : List Nat) (port : Nat) : Nat :=
  ((List.range 16).map fun n => ((arms n).map (armOutput · port)).getD 0).sum + h.addedOutput arms fresh port

/-- The OUTPUT sum of a port over the Armatures in effect. -/
def outputSum (h : Hw) (port : Nat) : Nat := h.outputWith (fun n => (h.parish n).arm) [] port

/-- 920 Gbit/s. -/
def outputLimit : Nat := 920000000000000

end Sys2Proof.Machine.Hw
end

