-- ==== Sys2Proof/Machine/Carter.lean ====
section
/-!
DEFINITION. The Carter (R348 to R366): byte movement between address spaces, cottage transfers, chain channels, pauses,
stop-all and aborts. -/

namespace Sys2Proof.Machine

namespace Hw

/-! ### Stop-all (R361, R364) -/

/-- The live state of a chain channel beside its registers. -/
def chain (h : Hw) (n j : Nat) : ChainCh := NTable.get ChainCh.reset (h.parish n).chains j
/-- Replaces it. -/
def setChain (h : Hw) (n j : Nat) (x : ChainCh) : Hw :=
  h.modParish n fun p => { p with chains := NTable.set ChainCh.reset p.chains j x }
/-- Changes it. -/
def modChain (h : Hw) (n j : Nat) (f : ChainCh → ChainCh) : Hw := h.setChain n j (f (h.chain n j))

/-- The state code of a chain channel (R356). -/
def chainState (h : Hw) (n j : Nat) : Nat := h.fld F.CAR_CH_STAT_STATE n j
/-- Enters a state. -/
def setChainState (h : Hw) (n j v : Nat) : Hw := h.setFld F.CAR_CH_STAT_STATE n j v

/-- Every channel of parish n halts: CAR_ERR and CAR_STAT say why, one Contained record is written, whose DETAIL holds CAR_ERR
(R361, R364). -/
def haltCarter (h : Hw) (n space addr : Nat) (how : ReadEnd) (port : Option Nat) : Hw :=
  let kind := match how with
    | .unsuccessful => 1 | .poisoned => 2 | .timeout => 3 | .uncorrectable => 4 | .ok => 0
  let cause := if how = .uncorrectable then 2 else 1
  let h := h.each (List.range 8) fun h j =>
    let st := h.chainState n j
    if st = 0 ∨ st = 4 then h
    else (h.modChain n j fun x => { x with leftState := st, draining := false }).setChainState n j 4
  let h := h.each (List.range 16) fun h i =>
    let st := h.fld F.CAR_RC_CTL_STATE n i
    if st = 0 ∨ st = 4 then h
    else (h.setRegCh n i { h.regCh n i with leftState := st, draining := false }).setFld F.CAR_RC_CTL_STATE n i 4
  let h := ((h.setFld F.CAR_ERR_SPACE n 0 space).setFld F.CAR_ERR_KIND n 0 kind).setFld F.CAR_ERR_ADDR n 0 addr
  let h := (h.setFld F.CAR_STAT_CAUSE n 0 cause).haltedShown n
  let h := match port with
    | some p => h.aerRead p how
    | none => h
  h.raiseParish 1 .CAR cause n (h.reg .CAR_ERR n).toNat

/-! ### Cottage transfers (R351 to R353, R365) -/

/-- A word of the Carter's cottage registers, as last stored. -/
def carWord (h : Hw) (c a : Nat) : Nat := h.ioWord c a

/-- A transfer that has passed V: its result becomes the program's, and it is over (R352). -/
def carterSettle (h : Hw) (c : Nat) (st : Stamp) : Hw :=
  match (h.cot c).io.carter with
  | some t =>
    if t.done && t.v.le st then
      let op := bits (NTable.get 0 t.regs 0xB00C).toNat 2 1
      h.modIo c fun x => { x with carter := none, carterRes := if op = 2 then t.result else x.carterRes }
    else h
  | none => h

/-- CAR_C_CTL.BUSY at a stamp (R352). -/
def carterBusy (h : Hw) (c : Nat) (st : Stamp) : Bool :=
  match (h.cot c).io.carter with
  | some t => st.lt t.v
  | none => false

/-- Every byte of a default-space range lies in an entry whose kind satisfies p. -/
def rangeKinds (h : Hw) (c a n : Nat) (p : Nat → Bool) : Bool :=
  (List.range ((a + n - 1) / 0x100000 - a / 0x100000 + 1)).all fun k => p (bits (h.cmap c (a / 0x100000 + k)) 1 0)

/-- The result of the checks of a START (R351): 0 if it passes. -/
def carterCheck (h : Hw) (c src dst count ctl : Nat) (st : Stamp) : Nat :=
  let op := bits ctl 2 1
  let sfix := bit ctl 3
  let dfix := bit ctl 4
  let vram := bit src 31
  let a := bits src 27 0
  let d := bits dst 27 0
  let slen := if sfix then 4 else count
  let dlen := if dfix then 4 else count
  let usesSrc := op ≠ 1
  if h.carterBusy c st then 0x01
  else if count = 0 ∨ op = 3 then 0x06
  else if usesSrc ∧ vram ∧ (sfix ∨ (h.cls c).vramKib * 1024 < a + count) ∨
      usesSrc ∧ ¬ vram ∧ 2 ^ 28 < a + slen ∨ 2 ^ 28 < d + dlen then 0x02
  else if (usesSrc ∧ sfix ∧ (a % 4 ≠ 0 ∨ count % 4 ≠ 0)) ∨ ((dfix ∨ op = 1) ∧ (d % 4 ≠ 0 ∨ count % 4 ≠ 0)) then 0x03
  else if (usesSrc ∧ ¬ vram ∧ ¬ h.rangeKinds c a slen fun k => k == 1 || k == 2) ∨
      ¬ h.rangeKinds c d dlen (fun k => k == 1 || k == 2) then 0x04
  else if op ≠ 2 ∧ ¬ h.rangeKinds c d dlen (fun k => k != 2) then 0x05
  else 0

/-- V of a transfer (R352): the completion count, or the next frame start. -/
def carterV (k : ClassRec) (st : Stamp) (count : Nat) : Stamp :=
  let v := st.vc + 16 + ceilDiv count 16
  if frameLen k ≤ v then ⟨st.frame + 1, 0⟩ else ⟨st.frame, v⟩

/-- A store to CAR_C_CTL with START = 1, at a stamp (R351). -/
def carterStore (h : Hw) (c v : Nat) (st : Stamp) : Hw :=
  let h := h.carterSettle c st
  let src := h.carWord c 0xB000
  let dst := h.carWord c 0xB004
  let count := h.carWord c 0xB008
  let err := h.carterCheck c src dst count v st
  let h := h.setIoWord c 0xB00C (err * 2 ^ 16 + bits v 5 1 * 2)
  if err ≠ 0 then h
  else
    let word := fun a => (a, BitVec.ofNat 32 (h.carWord c a))
    let t : CotTransfer :=
      { regs := [word 0xB000, word 0xB004, word 0xB008, word 0xB00C, word 0xB010], start := st,
        v := carterV (h.cls c) st count, running := true, done := false, result := 0, awaits := none }
    let n := c / 256
    let i := c % 256 / 16
    let h := h.modIo c fun x => { x with carter := some t }
    let x := h.regCh n i
    let h := h.setRegCh n i { x with queue := x.queue ++ [c] }
    if x.queue.isEmpty then h.regChNext n i else h.setFld F.CAR_RC_CTL_QUEUE n i x.queue.length

/-- The CARTER_START command: the store at the context's present stamp. -/
def carterStart (h : Hw) (c : Nat) (v : Word) : Hw :=
  if (h.ctx c).st = .run ∧ bit v.toNat 0 then h.carterStore c v.toNat (h.stamp c) else h

/-- A transfer of cottage c ends badly: poison halts the Carter, anything else contains the cottage (R310, R361). A fault in its
map contains it with the cause that an access of its own would have (R124, R290; log entry 60). -/
def regFailed (h : Hw) (n c : Nat) (e : MoveEnd) : Hw :=
  match e with
  | .poison a => h.haltCarter n 0xF a .uncorrectable none
  | .contain c k => h.containGrn c k (detailOf .GRN [k, c])
  | .fault k => h.containWith c .COT k (detailOf .COT [k, c])
  | _ => h

/-- The context of cottage c waits at the V of its transfer, which is now done: it goes on (R352). -/
def releaseTransfer (h : Hw) (c : Nat) : Hw :=
  if (h.ctx c).st = .miss ∧ (h.ctx c).wait = .transfer then h.toReady c else h

/-- Register channel i finishes its transfer in real time (R352, R353); a page-in or a copy on the way is started and waited
for. -/
def registerTransferDone (h : Hw) (n i : Nat) (ev : MapEvent) : Hw :=
  match h.regServed n i with
  | none => h
  | some (c, t) =>
    if h.fld F.CAR_RC_CTL_STATE n i ≠ 1 ∨ h.regWaits c t then h
    else h.mapFound ev fun h =>
      let all := h.fld F.CAR_RC_CNT_CNT n i
      match h.regReady n i all with
      | (.ok, h) =>
        match h.regAdvance n i all with
        | (.ok, h) =>
          let h := h.modIo c fun x => { x with carter := x.carter.map fun t =>
            { t with done := true, running := false, result := t.result - 1 } }
          let h := (h.setRegCh n i { h.regCh n i with queue := (h.regCh n i).queue.drop 1 }).regChNext n i
          h.releaseTransfer c
        | (e, h) => h.regFailed n c e
      | (e, h) => h.regFailed n c e

/-! ### Completion slots (R357) -/

/-- Publishes the slots a channel owes, while its ring takes them. -/
def chainPublish : Nat → Hw → Nat → Nat → Hw
  | 0, h, _, _ => h
  | fuel + 1, h, n, j =>
    let x := h.chain n j
    let o := h.chainOwner n j
    let r := h.fld F.CAR_CH_RING_RING n j
    match x.owed with
    | [] => h
    | s :: rest =>
      if h.ringUp o r && decide (1 ≤ h.ringFree o r) then
        let pay := leBytes 8 s.first.toNat ++ leBytes 8 s.last.toNat ++ leBytes 4 s.count ++ leBytes 1 s.status ++
          leBytes 3 0 ++ leBytes 8 s.result.toNat
        let h := h.slotPublish o r (n + j * 16) pay x.seq 0 8
        chainPublish fuel (h.setChain n j { x with owed := rest, seq := (x.seq + 1) % 65536 }) n j
      else h

/-- A slot that covers the descriptors not yet covered, with D last, is owed and published if the ring takes it. -/
def chainSlot (h : Hw) (n j : Nat) (last : DWord) (status : Nat) (result : DWord) : Hw :=
  let x := h.chain n j
  let s : ChainSlot := ⟨x.firstUncovered.getD last, last, x.uncovered, status, result⟩
  let h := h.setChain n j { x with owed := x.owed ++ [s], firstUncovered := none, uncovered := 0 }
  chainPublish ((h.chain n j).owed.length + 1) h n j

/-- Rings of function o have room again: channels that owe slots to ring r publish them. -/
def chainsGoOn (h : Hw) (o r : Nat) : Hw :=
  h.each (List.range 16) fun h n => h.each ((h.parish n).chains.map (·.1)) fun h j =>
    if h.chainOwner n j = o ∧ h.fld F.CAR_CH_RING_RING n j = r then
      chainPublish ((h.chain n j).owed.length + 1) h n j
    else h

/-! ### Chain channels (R354 to R360, R529) -/

/-- Where a descriptor's own address lies, if it is 32-aligned and names SPACE 0 or 1 (R355, R529): a status otherwise. -/
def descSide (h : Hw) (o : Nat) (a : DWord) : Except Nat Side :=
  let v := a.toNat
  if v % 32 ≠ 0 then .error 0x03
  else
    match bits v 63 60 with
    | 0 => .ok (.fabric (portBase (o / 129) + bits v 45 0))
    | 1 => if h.commonsOk o 1 (bits v 45 0) 32 then .ok (.bar2 o (bits v 45 0)) else .error 0x04
    | _ => .error 0x04

/-- Where a data address lies (R355), or status SPACE. -/
def dataSide (h : Hw) (o : Nat) (a : DWord) (len : Nat) : Except Nat Side :=
  let v := a.toNat
  match bits v 63 60 with
  | 0 => .ok (.fabric (portBase (o / 129) + bits v 45 0))
  | 1 => if h.commonsOk o 1 (bits v 45 0) len then .ok (.bar2 o (bits v 45 0)) else .error 0x04
  | 2 => if h.ownerOf (bits v 59 48) = some o then .ok (.cot (bits v 59 48) (bits v 27 0)) else .error 0x04
  | _ => .error 0x04

/-- A read of a descriptor of function o, or of its NEXT: its n bytes are used, or it ends badly and every channel halts (R361);
none is issued while the function issues no request (R451). -/
def descRead (h : Hw) (n o : Nat) (s : Side) (len : Nat) (use : List Byte → Hw) : Hw :=
  if !h.sideIssues o s then h
  else
    match sideReads len h s false false 0 with
    | (.poison a, _, _) => h.haltCarter n 0xF a .uncorrectable none
    | (_, l, _) => use l

/-- Stores bytes at a side, for write-backs. -/
def sidePut (h : Hw) (s : Side) (l : List Byte) : Hw := ((sideWrites l h s false false 0).2).sideMend s l.length

/-- A channel error (R360, R529): the record; the channel is IDLE with CUR naming the descriptor. -/
def chainIdle (h : Hw) (n j : Nat) : Hw :=
  ((h.modChain n j fun x => { x with desc := none, fetching := false, draining := false }).setChainState n j 0).haltedShown n

/-- The descriptor in progress, or the one just read, is written back with a status (R356). -/
def writeBack (h : Hw) (n j : Nat) (d : ChainDesc) (status : Nat) : Hw :=
  let ctrl := setBits (setBits d.ctrl.toNat 31 31 0) 30 24 status
  let h := match h.descSide (h.chainOwner n j) d.addr with
    | .ok s => h.sidePut (s.plus 0x1C) (leBytes 4 ctrl)
    | .error _ => h
  let h := h.setFld F.CAR_CH_STAT_CODE n j status
  h.modChain n j fun x =>
    { x with desc := none, fetching := false, uncovered := x.uncovered + 1, lastDone := d.addr,
             firstUncovered := x.firstUncovered <|> some d.addr }

/-- The CHAN_ERR record (R364); its detail holds the STATUS. -/
def chanErr (h : Hw) (n j status : Nat) : Hw :=
  h.raiseChan 0 .CAR 0x03 1 (h.chainOwner n j) (8 * n + j) (some n) status

/-- A channel error at a descriptor that has been read. -/
def chainError (h : Hw) (n j : Nat) (d : ChainDesc) (status : Nat) : Hw :=
  let h := h.writeBack n j d status
  let h := h.chainSlot n j d.addr status (BitVec.allOnes 64)
  (h.chainIdle n j).chanErr n j status

/-- A channel error at a descriptor's address, before any read of it (R529). -/
def chainAddrError (h : Hw) (n j : Nat) (a : DWord) (status : Nat) : Hw :=
  let h := h.setReg .CAR_CH_CUR n j a
  let h := h.chainSlot n j a status (BitVec.allOnes 64)
  (h.chainIdle n j).chanErr n j status

/-- The channel goes to the descriptor at an address: it is fetched next, or its address is an error. -/
def chainTo (h : Hw) (n j : Nat) (a : DWord) : Hw :=
  match h.descSide (h.chainOwner n j) a with
  | .error k => h.chainAddrError n j a k
  | .ok _ => (h.setReg .CAR_CH_CUR n j a).modChain n j fun x => { x with fetching := true, desc := none }

/-- RUN in IDLE: from HEAD (R356). -/
def chainBegin (h : Hw) (n j : Nat) : Hw :=
  let h := h.modChain n j fun x => { x with firstUncovered := none, uncovered := 0 }
  let h := h.setChainState n j 1
  let h := h.chainTo n j (h.reg .CAR_CH_HEAD n j)
  if h.chainState n j = 1 ∧ h.flag F.CAR_CH_CTL_PAUSE n j then h.setChainState n j 3 else h

/-- ALIGN, SPACE or reserved OP of a descriptor, by its fields (R349, R360); 0 if it is sound. -/
def descCheck (h : Hw) (o : Nat) (d : ChainDesc) : Nat :=
  let ctl := d.ctrl.toNat
  let op := bits ctl 1 0
  let sfix := bit ctl 5
  let dfix := bit ctl 6
  let odd := fun (a : DWord) => a.toNat % 4 ≠ 0 ∨ d.count % 4 ≠ 0
  if d.count = 0 then 0
  else if (op ≠ 1 ∧ sfix ∧ odd d.src) ∨ ((dfix ∨ op = 1) ∧ odd d.dst) then 0x03
  else if op = 3 then 0x04
  else
    match (if op = 1 then .ok (.fabric 0) else h.dataSide o d.src (if sfix then 4 else d.count)),
        h.dataSide o d.dst (if dfix then 4 else d.count) with
    | .ok _, .ok _ => 0
    | _, _ => 0x04

/-- The live registers of chain channel j, with `left` bytes of its descriptor to go (R359, R366). -/
def chainLive (h : Hw) (n j left : Nat) (d : ChainDesc) (m : Move) : Hw :=
  let src := d.src.toNat + (if m.op = 1 then 0 else m.live m.sfix left)
  ((h.setFld F.CAR_CH_SRC_SRC n j src).setFld F.CAR_CH_DST_DST n j (d.dst.toNat + m.live m.dfix left)).setFld
    F.CAR_CH_CNT_CNT n j left

/-- The channel starts no further descriptor: it owes a slot, or its ring has no room or takes no writes (R340, R357). -/
def chainHeld (h : Hw) (n j : Nat) : Bool :=
  let o := h.chainOwner n j
  let r := h.fld F.CAR_CH_RING_RING n j
  !(h.chain n j).owed.isEmpty || !h.ringUp o r || h.ringFree o r == 0

/-- The transfer of a latched descriptor. -/
def descMove (h : Hw) (o : Nat) (d : ChainDesc) : Option Move :=
  let ctl := d.ctrl.toNat
  let op := bits ctl 1 0
  let sfix := bit ctl 5
  let dfix := bit ctl 6
  match (if op = 1 then .ok (.fabric 0) else h.dataSide o d.src (if sfix then 4 else d.count)),
      h.dataSide o d.dst (if dfix then 4 else d.count) with
  | .ok s, .ok t => some ⟨op, s, t, sfix, dfix, d.count, d.src.toNat % 2 ^ 32⟩
  | _, _ => none

/-- The 32-byte read of the descriptor at CUR returns: it is latched, or ends the chain (R356, R360). -/
def descriptorFetch (h : Hw) (n j : Nat) : Hw :=
  let x := h.chain n j
  let o := h.chainOwner n j
  let a := h.reg .CAR_CH_CUR n j
  if h.chainState n j ≠ 1 ∨ ¬ x.fetching ∨ x.draining ∨ h.chainHeld n j then h
  else
    match h.descSide o a with
    | .error k => h.chainAddrError n j a k
    | .ok s => h.descRead n o s 32 fun b =>
      let f := fun (k m : Nat) => fromLe ((b.drop k).take m)
      let d : ChainDesc := ⟨a, BitVec.ofNat 64 (f 8 8), BitVec.ofNat 64 (f 16 8), f 24 4, BitVec.ofNat 32 (f 28 4)⟩
      let status := if !bit d.ctrl.toNat 31 then 0x06 else h.descCheck o d
      if status ≠ 0 then h.chainError n j d status
      else
        let h := h.setChain n j { x with fetching := false, desc := some d, result := BitVec.allOnes 64 }
        match h.descMove o d with
        | some m => h.chainLive n j d.count d m
        | none => h.setFld F.CAR_CH_CNT_CNT n j d.count

/-- Whether the next bytes of chain channel j's descriptor can move now. -/
def chainReady (h : Hw) (n j bytes : Nat) : MoveEnd × Hw :=
  match (h.chain n j).desc with
  | none => (.ok, h)
  | some d =>
    match h.descMove (h.chainOwner n j) d with
    | none => (.ok, h)
    | some m =>
      let left := h.fld F.CAR_CH_CNT_CNT n j
      let b := min bytes left
      h.moveReady m (m.next left b) b

/-- Moves the next bytes of chain channel j's descriptor, up to one that cannot be read: its live registers follow (R359, R361). -/
def chainAdvance (h : Hw) (n j bytes : Nat) : MoveEnd × Hw :=
  match (h.chain n j).desc with
  | none => (.ok, h)
  | some d =>
    match h.descMove (h.chainOwner n j) d with
    | none => (.ok, h)
    | some m =>
      let left := h.fld F.CAR_CH_CNT_CNT n j
      let b := min bytes left
      let (e, moved, r, h) := h.moveRange m (m.next left b) b
      let h := h.chainLive n j (left - moved) d m
      match r with
      | some k => (e, h.modChain n j fun x =>
          if x.result = BitVec.allOnes 64 then { x with result := BitVec.ofNat 64 k } else x)
      | none => (e, h)

/-- The reads in flight of a running chain channel are written, `bytes` more, which no channel has more of (R348, R359). -/
def chainDrain (h : Hw) (n j bytes : Nat) : MoveEnd × Hw :=
  match (h.chain n j).desc.bind (h.descMove (h.chainOwner n j)) with
  | some m => if h.chainState n j = 1 then h.chainAdvance n j (min bytes m.inFlight) else (.ok, h)
  | none => (.ok, h)

/-- A descriptor's data access ends badly: poison halts the Carter; the rest is ACCESS, and an exhausted copy also contains
the cottage (R298, R529). -/
def chainFailed (h : Hw) (n j : Nat) (d : ChainDesc) (e : MoveEnd) : Hw :=
  match e with
  | .poison a => h.haltCarter n 0xF a .uncorrectable none
  | .fault _ => h.chainError n j d 0x05
  | .contain c k =>
    let h := if k = 0x02 then h.containGrn c 0x02 (detailOf .GRN [0x02, c]) else h
    h.chainError n j d 0x05
  | _ => h

/-- The last write of the descriptor in progress completes: the write-back, and a slot where one is due (R356, R357). -/
def descriptorDone (h : Hw) (n j : Nat) (ev : MapEvent) : Hw :=
  match (h.chain n j).desc with
  | none => h
  | some d =>
    let o := h.chainOwner n j
    let issues := ((h.descMove o d).map fun m => h.sideIssues o m.src && h.sideIssues o m.dst).getD true
    if h.chainState n j ≠ 1 ∨ ¬ issues then h
    else h.mapFound ev fun h =>
      let all := h.fld F.CAR_CH_CNT_CNT n j
      match h.chainReady n j all with
      | (.ok, h) =>
        match h.chainAdvance n j all with
        | (.ok, h) =>
          let result := (h.chain n j).result
          let status := if bits d.ctrl.toNat 1 0 = 2 ∧ result ≠ BitVec.allOnes 64 then 0x01 else 0x00
          let h := h.writeBack n j d status
          if bit d.ctrl.toNat 7 ∨ status ≠ 0 ∨ 65535 ≤ (h.chain n j).uncovered then h.chainSlot n j d.addr status result
          else h
        | (e, h) => h.chainFailed n j d e
      | (e, h) => h.chainFailed n j d e

/-- The read of NEXT at CUR returns: the channel follows it, reads it again, or parks (R357, R358). While a slot is owed it
starts no further descriptor. -/
def nextRead (h : Hw) (n j : Nat) : Hw :=
  let x := h.chain n j
  if h.chainState n j ≠ 1 ∨ x.fetching ∨ x.draining ∨ x.desc.isSome then h
  else
    let a := h.reg .CAR_CH_CUR n j
    match h.descSide (h.chainOwner n j) a with
    | .error _ => h
    | .ok s => h.descRead n (h.chainOwner n j) s 8 fun b =>
      let next := fromLe b
      if bit next 0 then
        if h.flag F.CAR_CH_STAT_DBPEND n j then h.setFld F.CAR_CH_STAT_DBPEND n j 0
        else
          let h := h.setChainState n j 2
          if x.uncovered = 0 then h
          else h.chainSlot n j a (h.fld F.CAR_CH_STAT_CODE n j) x.result
      else if h.chainHeld n j then h
      else h.chainTo n j (BitVec.ofNat 64 next)

/-- A doorbell (R358). -/
def carChDb (h : Hw) (ag : Agent) (n j : Nat) : Hw :=
  if !h.sees ag .CAR_CH_DB n j then h.refuseView ag .CAR_CH_DB n j
  else
    match h.chainState n j with
    | 0 => h
    | 2 => (h.setFld F.CAR_CH_STAT_DBPEND n j 0).setChainState n j 1
    | _ => h.setFld F.CAR_CH_STAT_DBPEND n j 1

/-! ### Pauses (R359) -/

/-- PAUSE of a chain channel has been set. -/
def chainPause (h : Hw) (n j : Nat) : Hw :=
  match h.chainState n j with
  | 1 => h.modChain n j fun x => { x with draining := true }
  | 2 => h.setChainState n j 3
  | _ => h

/-- PAUSE of a chain channel has been cleared: it goes on, a parked one by reading the tail's NEXT again. -/
def chainUnpause (h : Hw) (n j : Nat) : Hw :=
  let h := h.modChain n j fun x => { x with draining := false }
  if h.chainState n j = 3 then h.setChainState n j 1 else h

/-- PAUSE of a register channel has been written. -/
def regPause (h : Hw) (n i : Nat) (on : Bool) : Hw :=
  let st := h.fld F.CAR_RC_CTL_STATE n i
  if on then (if st = 1 then h.setRegCh n i { h.regCh n i with draining := true } else h)
  else
    let h := h.setRegCh n i { h.regCh n i with draining := false }
    if st = 3 then h.setFld F.CAR_RC_CTL_STATE n i 1 else h

/-- The reads in flight of a paused channel are written: `bytes` more have moved, and it reads PAUSED. -/
def pauseDrained (h : Hw) (n : Nat) (reg : Bool) (j bytes : Nat) : Hw :=
  if reg then
    if (h.regCh n j).draining then
      match h.regDrain n j bytes with
      | (.ok, h) => (h.setRegCh n j { h.regCh n j with draining := false }).setFld F.CAR_RC_CTL_STATE n j 3
      | (e, h) => h.regFailed n (h.fld F.CAR_RC_CTL_CTX n j) e
    else h
  else if (h.chain n j).draining then
    match h.chainDrain n j bytes with
    | (.ok, h) => (h.modChain n j fun x => { x with draining := false }).setChainState n j 3
    | (e, h) =>
      match (h.chain n j).desc with
      | some d => h.chainFailed n j d e
      | none => h
  else h

/-! ### Aborts (R362) -/

/-- ABORT of a chain channel after `bytes` more have drained: ABORTED is written back, one slot published, IDLE. -/
def chainAborts (h : Hw) (n j bytes : Nat) : Hw :=
  if h.chainState n j = 0 then h
  else
    let h := (h.chainDrain n j bytes).2
    let x := h.chain n j
    let h := match x.desc with
      | some d => (h.writeBack n j d 0x02).chainSlot n j d.addr 0x02 (BitVec.allOnes 64)
      | none =>
        if x.uncovered = 0 then h else h.chainSlot n j x.lastDone (h.fld F.CAR_CH_STAT_CODE n j) x.result
    h.chainIdle n j

/-- ABORT of a register channel: every cottage whose transfer it holds is contained with CARTER_ABORT. -/
def regAborts (h : Hw) (n i bytes : Nat) : Hw :=
  if h.fld F.CAR_RC_CTL_STATE n i = 0 then h
  else
    let h := (h.regDrain n i bytes).2
    let all := (h.regCh n i).queue
    let h := (h.setRegCh n i { h.regCh n i with queue := [] }).regChNext n i
    h.each all fun h c => h.containWith c .CAR 0x04 (detailOf .CAR [0x04, c])

/-! ### Channel control registers (R366) -/

/-- A write of CAR_CH_CTL; `bytes` is what an ABORT still drains. -/
def chainCtlWrite (h : Hw) (ag : Agent) (n j v bytes : Nat) : Hw :=
  let o := h.chainOwner n j
  let starts := bit v 0 && h.chainState n j == 0
  let ok := !starts || h.soleRingOk o (h.fld F.CAR_CH_RING_RING n j)
  h.guarded ag .CAR_CH_CTL n j v ok fun h =>
    let was := h.flag F.CAR_CH_CTL_PAUSE n j
    let h := h.storeFields .CAR_CH_CTL n j v
    let h := if bit v 1 && !was then h.chainPause n j else if !bit v 1 && was then h.chainUnpause n j else h
    if bit v 2 then h.chainAborts n j bytes else if starts then h.chainBegin n j else h

/-- A write of CAR_RC_CTL. -/
def regCtlWrite (h : Hw) (ag : Agent) (n i v bytes : Nat) : Hw :=
  h.guarded ag .CAR_RC_CTL n i v true fun h =>
    let was := h.flag F.CAR_RC_CTL_PAUSE n i
    let h := h.storeFields .CAR_RC_CTL n i v
    let h := if bit v 0 ≠ was then h.regPause n i (bit v 0) else h
    if bit v 1 then h.regAborts n i bytes else h

/-- A write of CAR_CTL: RESUME returns every HALTED channel to the state it left: PAUSED while PAUSE is set, and RUN when it left
PAUSED and PAUSE has been cleared since (R356, R362). -/
def carCtlWrite (h : Hw) (ag : Agent) (n v : Nat) : Hw :=
  h.guarded ag .CAR_CTL n 0 v true fun h =>
    if bit v 0 && h.flag F.CAR_STAT_HALTED n then
      let goOn := fun (paused : Bool) (left : Nat) => if paused then 3 else if left = 2 then 2 else 1
      let h := h.each (List.range 8) fun h j =>
        if h.chainState n j = 4 then h.setChainState n j (goOn (h.flag F.CAR_CH_CTL_PAUSE n j) (h.chain n j).leftState) else h
      let h := h.each (List.range 16) fun h i =>
        if h.fld F.CAR_RC_CTL_STATE n i = 4 then h.setFld F.CAR_RC_CTL_STATE n i (goOn (h.flag F.CAR_RC_CTL_PAUSE n i) 1) else h
      h.haltedShown n
    else h

def chainRun (h : Hw) (ag : Agent) (n j : Nat) : Hw :=
  h.chainCtlWrite ag n j (setBits (h.reg .CAR_CH_CTL n j).toNat 0 0 1) 0

def pause (h : Hw) (ag : Agent) (n : Nat) (reg : Bool) (j : Nat) : Hw :=
  if reg then h.regCtlWrite ag n j (setBits (h.reg .CAR_RC_CTL n j).toNat 0 0 1) 0
  else h.chainCtlWrite ag n j (setBits (h.reg .CAR_CH_CTL n j).toNat 1 1 1) 0

def pauseClear (h : Hw) (ag : Agent) (n : Nat) (reg : Bool) (j : Nat) : Hw :=
  if reg then h.regCtlWrite ag n j (setBits (h.reg .CAR_RC_CTL n j).toNat 0 0 0) 0
  else h.chainCtlWrite ag n j (setBits (h.reg .CAR_CH_CTL n j).toNat 1 1 0) 0

def chainAbort (h : Hw) (ag : Agent) (n j bytes : Nat) : Hw :=
  h.chainCtlWrite ag n j (setBits (h.reg .CAR_CH_CTL n j).toNat 2 2 1) bytes

def registerChannelAbort (h : Hw) (ag : Agent) (n i bytes : Nat) : Hw :=
  h.regCtlWrite ag n i (setBits (h.reg .CAR_RC_CTL n i).toNat 1 1 1) bytes

/-- RESUME. -/
def resume (h : Hw) (ag : Agent) (n : Nat) : Hw := h.carCtlWrite ag n 1

/-- Of n bytes that may still move, those before the failed module address, where it lies in what the transfer has still to
read (R361). -/
def beforeFailed (m : Move) (left n : Nat) (failed : Option Nat) : Nat :=
  let inside := fun (s : Side) (fixed : Bool) => match s, failed with
    | .fabric a, some x =>
      if fixed then (if a ≤ x ∧ x < a + 4 then some (m.count - left) else none)
      else if a ≤ x ∧ x < a + m.count then some (x - a) else none
    | _, _ => none
  let cut := fun (n : Nat) (k : Option Nat) => match k with
    | some k => min n (if m.down then left - (k + 1) else k - (m.count - left))
    | none => n
  cut (if m.op = 1 then n else cut n (inside m.src m.sfix)) (if m.op = 2 then inside m.dst m.dfix else none)

/-- A Carter read of parish n ends badly: `moved` gives, for chain channels (false) and register channels (true), the bytes
still written before they halt; SPACE and ADDR name the failed bytes, `port` the port of a fabric read (R361). -/
def stopAll (h : Hw) (n space addr : Nat) (how : ReadEnd) (port : Option Nat) (moved : List (Bool × Nat × Nat)) : Hw :=
  if how = .ok then h
  else
    let failed := port.map fun p => portBase p + addr
    let h := h.each moved fun h e =>
      if e.1 then (h.regDrain n e.2.1 e.2.2).2
      else
        let m := (h.chain n e.2.1).desc.bind (h.descMove (h.chainOwner n e.2.1))
        let b := (m.map fun m => beforeFailed m (h.fld F.CAR_CH_CNT_CNT n e.2.1) e.2.2 failed).getD 0
        (h.chainDrain n e.2.1 b).2
    h.haltCarter n space addr how port

/-- FLR of a chain channel's owner: nothing further is written, and the registers but the owner's are at reset (R363). -/
def chainFlr (h : Hw) (n j : Nat) : Hw :=
  ((h.setChain n j ChainCh.reset).resetRegs fun r => isChainReg r.name && r.bank == n && r.idx == j).haltedShown n

end Hw

end Sys2Proof.Machine

/-! ### The commands -/

namespace Sys2Proof.Machine

/-- CARTER_START (R351): cottage c stores v, with START, to CAR_C_CTL. -/
def execCarterStart (c : Nat) (v : Word) (s : State) : Host.Outcome State Fault Refusal :=
  s.runLive fun h => h.carterStart c v

/-- REGISTER_TRANSFER_DONE (R352): register channel i of parish n finishes its transfer. -/
def execRegisterTransferDone (n : Nat) (i : Nat) (s : State) (ev : MapEvent := .sound) : Host.Outcome State Fault Refusal :=
  s.runLive fun h => h.registerTransferDone n i ev

/-- CHAIN_RUN (R356): a write of RUN to CAR_CH_CTL of chain channel j of parish n. -/
def execChainRun (ag : Agent) (n : Nat) (j : Nat) (s : State) : Host.Outcome State Fault Refusal :=
  s.runLive fun h => h.chainRun ag n j

/-- DESCRIPTOR_FETCH (R356): the descriptor read of chain channel j of parish n returns. -/
def execDescriptorFetch (n : Nat) (j : Nat) (s : State) : Host.Outcome State Fault Refusal :=
  s.runLive fun h => h.descriptorFetch n j

/-- DESCRIPTOR_DONE (R356): the last write of the descriptor of chain channel j of parish n completes. -/
def execDescriptorDone (n : Nat) (j : Nat) (s : State) (ev : MapEvent := .sound) : Host.Outcome State Fault Refusal :=
  s.runLive fun h => h.descriptorDone n j ev

/-- NEXT_READ (R358): the NEXT read of chain channel j of parish n returns. -/
def execNextRead (n : Nat) (j : Nat) (s : State) : Host.Outcome State Fault Refusal :=
  s.runLive fun h => h.nextRead n j

/-- CAR_CH_DB (R358): a doorbell of chain channel j of parish n. -/
def execCarChDb (ag : Agent) (n : Nat) (j : Nat) (s : State) : Host.Outcome State Fault Refusal :=
  s.runLive fun h => h.carChDb ag n j

/-- PAUSE (R359): PAUSE of a register (reg) or chain channel of parish n is set. -/
def execPause (ag : Agent) (n : Nat) (reg : Bool) (j : Nat) (s : State) : Host.Outcome State Fault Refusal :=
  s.runLive fun h => h.pause ag n reg j

/-- PAUSE_CLEAR (R359): PAUSE of a channel of parish n is cleared. -/
def execPauseClear (ag : Agent) (n : Nat) (reg : Bool) (j : Nat) (s : State) : Host.Outcome State Fault Refusal :=
  s.runLive fun h => h.pauseClear ag n reg j

/-- PAUSE_DRAINED (R359): the reads in flight of a paused channel, `bytes` more, are written. -/
def execPauseDrained (n : Nat) (reg : Bool) (j : Nat) (bytes : Nat) (s : State) : Host.Outcome State Fault Refusal :=
  s.runLive fun h => h.pauseDrained n reg j bytes

/-- CHAIN_ABORT (R362): ABORT of chain channel j of parish n, which drains `bytes` more. -/
def execChainAbort (ag : Agent) (n : Nat) (j : Nat) (bytes : Nat) (s : State) : Host.Outcome State Fault Refusal :=
  s.runLive fun h => h.chainAbort ag n j bytes

/-- REGISTER_CHANNEL_ABORT (R362): ABORT of register channel i of parish n, which drains `bytes` more. -/
def execRegisterChannelAbort (ag : Agent) (n : Nat) (i : Nat) (bytes : Nat) (s : State) : Host.Outcome State
    Fault Refusal :=
  s.runLive fun h => h.registerChannelAbort ag n i bytes

/-- STOP_ALL (R361): a Carter read of parish n ends badly. -/
def execStopAll (n : Nat) (space : Nat) (addr : Nat) (how : ReadEnd) (port : Option Nat) (moved : List (Bool ×
    Nat × Nat)) (s : State) : Host.Outcome State Fault Refusal :=
  s.runLive fun h => h.stopAll n space addr how port moved

/-- RESUME (R362): a write of RESUME to CAR_CTL of parish n. -/
def execResume (ag : Agent) (n : Nat) (s : State) : Host.Outcome State Fault Refusal :=
  s.runLive fun h => h.resume ag n

end Sys2Proof.Machine
end

