-- ==== Sys2Proof/Machine/CommonsCmd.lean ====
section
/-!
DEFINITION. The Commons commands (R331 to R347, R527): regions, BAR2, ring enables and doorbells, ring errors, the error
queue, holdoffs and MSI-X. -/

namespace Sys2Proof.Machine.Hw

/-- Some ring of function o is enabled (R331). -/
def ringInUse (h : Hw) (o : Nat) : Bool :=
  h.regs.any fun e => e.1.name == .COM_RING_CFG && e.1.bank == o && bit e.2.toNat 31

/-- An enabled ring of function o lies in BAR2 (R332). -/
def ringInBar2 (h : Hw) (o : Nat) : Bool :=
  h.regs.any fun e => e.1.name == .COM_RING_CFG && e.1.bank == o && bit e.2.toNat 31 &&
    h.fld F.COM_RING_BASE_SPACE o e.1.idx == 1

/-! ### Regions (R331) -/

/-- A region obeys the rules of R331. -/
def regionOk (base mib : Nat) : Bool :=
  decide (1 ≤ mib ∧ mib ≤ 4096 ∧ base * 4096 + mib * 0x100000 ≤ 2 ^ 46)

/-- A write of COM_REGION_BASE (which holds EN), or of COM_REGION_SIZE if `isSize`. -/
def regionRegister (h : Hw) (ag : Agent) (o : Nat) (isSize : Bool) (v : DWord) : Hw :=
  let v := v.toNat
  let n : RegName := if isSize then .COM_REGION_SIZE else .COM_REGION_BASE
  let old := (h.reg n o).toNat
  let base := if isSize then h.fld F.COM_REGION_BASE_ADDR o else bits v 45 12
  let mib := if isSize then bits v 12 0 else h.fld F.COM_REGION_SIZE_MIB o
  let en := if isSize then h.flag F.COM_REGION_BASE_EN o else bit v 0
  let changes := if isSize then bits v 12 0 != bits old 12 0 else bits v 45 12 != bits old 45 12 || bit v 0 != bit old 0
  let ok := (!en || regionOk base mib) && !(changes && h.ringInUse o)
  h.guarded ag n o 0 v ok fun h => h.storeFields n o 0 v

/-! ### BAR2 (R332) -/

/-- The most MiB that a function may back. -/
def bar2Limit (o : Nat) : Nat := if o % 129 = 0 then 16384 else 64

/-- Allocates k frames for BAR2 of function o; false when one cannot be had. -/
def bar2Alloc : Nat → Hw → Nat → Bool × Hw
  | 0, h, _ => (true, h)
  | k + 1, h, o =>
    match h.allocFrame o privFrame with
    | (none, h) => (false, h)
    | (some f, h) => bar2Alloc k (h.modFn o fun x => { x with bar2 := x.bar2 ++ [f] }) o

/-- Releases the frames of BAR2. -/
def bar2Release (h : Hw) (o : Nat) : Hw :=
  (h.each (h.fn o).bar2 fun h f => h.dropRef f true).modFn o fun f => { f with bar2 := [] }

/-- A write of COM_BAR2. -/
def bar2Enable (h : Hw) (ag : Agent) (o : Nat) (v : Word) : Hw :=
  let v := v.toNat
  let was := h.flag F.COM_BAR2_EN o
  let ok := decide (bits v 14 0 ≤ bar2Limit o) && !(was && !bit v 31 && h.ringInBar2 o)
  h.guarded ag .COM_BAR2 o 0 v ok fun h =>
    let h := h.storeFields .COM_BAR2 o 0 v
    if bit v 31 && !was then
      match bar2Alloc (bits v 14 0) (h.modFn o fun f => { f with bar2 := [] }) o with
      | (true, h) => h.setFld F.COM_BAR2_FAIL o 0 0
      | (false, h) => ((h.bar2Release o).setFld F.COM_BAR2_EN o 0 0).setFld F.COM_BAR2_FAIL o 0 1
    else if !bit v 31 && was then h.bar2Release o
    else h

/-- An inbound access of n bytes at offset `off` of BAR2 of function o: a write of `data`, or a read. -/
def inboundBar2Access (h : Hw) (o off n : Nat) (data : Option (List Byte)) : Hw :=
  if !h.barAnswers o || decide ((h.fn o).bar2.length * 0x100000 < off + n) then h.unsupported (o / 129)
  else
    match data with
    | some l => h.commonsWrite o 1 off (l.take n)
    | none =>
      if h.commonsPoisoned o 1 off n then h.emit (.readPoisoned o)
      else h.emit (.readData o (BitVec.ofNat 64 (fromLe (h.commonsRead o 1 off n))))

/-! ### Rings (R337 to R340) -/

/-- Something names ring r of function o (R339). -/
def ringNamed (h : Hw) (o r : Nat) : Bool := h.ringStreams o r || h.ringExclusive o r

/-- A ring is enabled: every slot is device-owned, PUB 0, RET 2^LOG2SIZE (R337, R338); what a ring error held goes on. -/
def ringStart (h : Hw) (o r : Nat) : Hw :=
  let h := (h.setFld F.COM_RING_PUB_PUB o r 0).setFld F.COM_RING_RET_RET o r (h.ringSize o r)
  let h := h.modFn o fun f =>
    { f with ringDown := f.ringDown.filter (· ≠ r), wr := NTable.set 0 f.wr r 0, rq := NTable.set [] f.rq r [] }
  h.chainsGoOn o r

/-- A write of COM_RING_CFG of ring r. -/
def ringEnable (h : Hw) (ag : Agent) (o r : Nat) (v : Word) : Hw :=
  let v := v.toNat
  let was := h.flag F.COM_RING_CFG_EN o r
  let size := bits v 4 0
  let sound := decide (1 ≤ size ∧ size ≤ 16) && decide (bits v 27 16 < vectors o)
  let fits := h.commonsOk o (h.fld F.COM_RING_BASE_SPACE o r) (h.fld F.COM_RING_BASE_ADDR o r * 4096) (2 ^ size * 4096)
  let ok := decide (r ≤ ringLimit o) && sound && (!bit v 31 || was || fits) &&
    !(was && size != h.fld F.COM_RING_CFG_LOG2SIZE o r) &&
    !(was && !bit v 31 && h.ringNamed o r && !h.flag F.COM_RING_STAT_ERR o r)
  h.guarded ag .COM_RING_CFG o r v ok fun h =>
    let h := h.storeFields .COM_RING_CFG o r v
    if bit v 31 && !was then h.ringStart o r else h

/-- A write of COM_RING_BASE of ring r: BASE changes only while EN is 0 (R337). -/
def ringBaseWrite (h : Hw) (ag : Agent) (o r v : Nat) : Hw :=
  let old := (h.reg .COM_RING_BASE o r).toNat
  let changes := bits v 45 12 != bits old 45 12 || bit v 0 != bit old 0
  h.guarded ag .COM_RING_BASE o r v (!(changes && h.flag F.COM_RING_CFG_EN o r)) fun h =>
    h.storeFields .COM_RING_BASE o r v

/-- A doorbell write of RET (R338): accepted when it returns no more slots than the host holds. -/
def comRingRet (h : Hw) (ag : Agent) (o r : Nat) (v : Word) : Hw :=
  let pub := h.fld F.COM_RING_PUB_PUB o r
  let a := (v.toNat + 2 ^ 32 - pub) % 2 ^ 32
  let b := (h.fld F.COM_RING_RET_RET o r + 2 ^ 32 - pub) % 2 ^ 32
  if !h.sees ag .COM_RING_RET o r then h.refuseView ag .COM_RING_RET o r
  else if b ≤ a ∧ a ≤ h.ringSize o r then (h.setFld F.COM_RING_RET_RET o r v.toNat).chainsGoOn o r
  else (h.setFld F.COM_RING_STAT_DB_REJ o r 1).refuse ag .COM_RING_RET o r

/-- A picture stream stops on a ring error (R242). -/
def streamStops (h : Hw) (c s : Nat) : Hw :=
  let h := h.setStreamFld F.POR_S0_STAT_STOPPED F.POR_S1_STAT_STOPPED c s 1
  let h := h.setStreamFld F.POR_S0_STAT_RING_ERR F.POR_S1_STAT_RING_ERR c s 1
  let h := h.modStream c s fun t => { t with held := [], set := PorchSet.reset }
  let o := h.streamFn c s
  h.raiseChan 1 .POR 0x02 3 o (2 * c + s) (some (c / 256)) (detailOf .POR [0x02, h.streamFld F.POR_S0_CTL_RING F.POR_S1_CTL_RING c s])

/-- An audio stream stops on a ring error (R278). -/
def audioStops (h : Hw) (c : Nat) : Hw :=
  let h := (h.setFld F.CHR_S_STAT_STOPPED c 0 1).setFld F.CHR_S_STAT_RING_ERR c 0 1
  h.raiseChan 1 .CHR 0x04 4 ((h.ownerOf c).getD 0) c (some (c / 256)) (detailOf .CHR [0x04, h.fld F.CHR_S_CTL_RING c])

/-- A ring write that the fabric port cannot deliver (R340). -/
def ringErr (h : Hw) (o r : Nat) : Hw :=
  if !h.flag F.COM_RING_CFG_EN o r || h.fld F.COM_RING_BASE_SPACE o r == 1 || (h.fn o).ringDown.contains r then h
  else
    let h := (h.modFn o fun f => { f with ringDown := f.ringDown ++ [r] }).setFld F.COM_RING_STAT_ERR o r 1
    let h := if (h.fn o).eqRing = some r then h.eqFlip o else h
    let h := h.raiseChan 1 .COM 0x01 0 o r none (detailOf .COM [0x01, o, r])
    h.each (h.cots.map (·.1)) fun h c =>
      let h := h.each [0, 1] fun h s =>
        if h.streamRuns c s && (h.stream c s).ring == r && h.streamFn c s == o then h.streamStops c s else h
      let t := (h.cot c).choir
      if t.live && t.ring == r && h.ownerOf c == some o && !h.flag F.CHR_S_STAT_STOPPED c then h.audioStops c else h

/-- The rings of a function take writes again (R340): ready records are flipped, channels publish what they owe. -/
def ringsGoOn (h : Hw) (o : Nat) : Hw :=
  let l := (h.regs.filter fun e => e.1.name == .COM_RING_CFG && e.1.bank == o && bit e.2.toNat 31).map (·.1.idx)
  h.each l fun h r => (h.drainRing o r).chainsGoOn o r

/-! ### The error queue (R341, R527) -/

/-- The ERRORS slot in progress is flipped: it is full, or FLUSH has passed since its first record. -/
def errors (h : Hw) (o : Nat) : Hw := h.eqFlip o

/-- A write of COM_EQ (R339, R527); FSEQ restarts at 0 when EN goes from 0 to 1 (R490). -/
def comEqWrite (h : Hw) (ag : Agent) (o : Nat) (v : Word) : Hw :=
  let v := v.toNat
  let was := h.flag F.COM_EQ_EN o
  let en := bit v 31
  let moved := bits v 12 0 != h.fld F.COM_EQ_RING o
  let names := en && (!was || moved)
  let ok := decide (bits v 25 16 ≠ 0) && (!names || h.soleRingOk o (bits v 12 0))
  h.guarded ag .COM_EQ o 0 v ok fun h =>
    let h := if was && (!en || moved) then h.eqFlip o else h
    let h := if en && !was then h.modFn o fun f => { f with fseq := 0 } else h
    h.storeFields .COM_EQ o 0 v

/-! ### Moderation and MSI-X (R343, R344, R445) -/

/-- A vector's holdoff ends: a message is sent if the vector is pending. -/
def holdoffExpiry (h : Hw) (o vec : Nat) : Hw :=
  let f := h.fn o
  if !(NTable.get ⟨false, 0⟩ f.holdoff vec).running then h
  else if h.flag F.COM_VMOD_PEND o vec then h.sendAndHold o vec
  else h.setFn o { f with holdoff := NTable.set ⟨false, 0⟩ f.holdoff vec ⟨false, 0⟩ }

/-- Sends the messages that the PBA holds and that nothing holds back any longer. -/
def sendPending (h : Hw) (o : Nat) : Hw :=
  let f := h.fn o
  if f.d3 || !f.msixEn || f.fmask then h
  else
    let due := f.pba.filter fun v => !f.vmask.contains v
    let h := h.setFn o { f with pba := f.pba.filter f.vmask.contains }
    h.each due fun h v => h.sendMsix o v

/-- Sends the messages that D3hot has held. -/
def sendHeld (h : Hw) (o : Nat) : Hw :=
  let l := (h.fn o).heldMsgs
  (h.modFn o fun f => { f with heldMsgs := [] }).each l fun h v => h.sendMsix o v

/-- A change of a function's MSI-X masks or enable; what it held is sent. -/
def msixUnmask (h : Hw) (o : Nat) (x : MsixChange) : Hw :=
  let h := h.modFn o fun f =>
    match x with
    | .vector v m => { f with vmask := if m then f.vmask.filter (· ≠ v) ++ [v] else f.vmask.filter (· ≠ v) }
    | .function m => { f with fmask := m }
    | .enable on => { f with msixEn := on, quiet := f.quiet && !on }
  h.sendPending o

end Sys2Proof.Machine.Hw

/-! ### The commands -/

namespace Sys2Proof.Machine

/-- REGION_REGISTER (R331): a write of COM_REGION_BASE, or COM_REGION_SIZE, of function o. -/
def execRegionRegister (ag : Agent) (o : Nat) (isSize : Bool) (v : DWord) (s : State) : Host.Outcome State Fault
    Refusal :=
  s.runLive fun h => h.regionRegister ag o isSize v

/-- BAR2_ENABLE (R332): a write of COM_BAR2 of function o. -/
def execBar2Enable (ag : Agent) (o : Nat) (v : Word) (s : State) : Host.Outcome State Fault Refusal :=
  s.runLive fun h => h.bar2Enable ag o v

/-- INBOUND_BAR2_ACCESS (R332): an inbound write of `data`, or a read, of n bytes at an offset of BAR2 of function
o. -/
def execInboundBar2Access (o : Nat) (off : Nat) (n : Nat) (data : Option (List Byte)) (s : State) : Host.Outcome
    State Fault Refusal :=
  s.runLive fun h => h.inboundBar2Access o off n data

/-- RING_ENABLE (R337): a write of COM_RING_CFG of ring r of function o. -/
def execRingEnable (ag : Agent) (o : Nat) (r : Nat) (v : Word) (s : State) : Host.Outcome State Fault Refusal :=
  s.runLive fun h => h.ringEnable ag o r v

/-- COM_RING_RET (R338): a doorbell write of RET of ring r of function o. -/
def execComRingRet (ag : Agent) (o : Nat) (r : Nat) (v : Word) (s : State) : Host.Outcome State Fault Refusal :=
  s.runLive fun h => h.comRingRet ag o r v

/-- RING_ERR (R340): the port cannot deliver a write of ring r of function o. -/
def execRingErr (o : Nat) (r : Nat) (s : State) : Host.Outcome State Fault Refusal :=
  s.runLive fun h => h.ringErr o r

/-- ERRORS (R341): the ERRORS slot in progress of function o is flipped. -/
def execErrors (o : Nat) (s : State) : Host.Outcome State Fault Refusal :=
  s.runLive fun h => h.errors o

/-- COM_EQ_WRITE (R527): a write of COM_EQ of function o. -/
def execComEqWrite (ag : Agent) (o : Nat) (v : Word) (s : State) : Host.Outcome State Fault Refusal :=
  s.runLive fun h => h.comEqWrite ag o v

/-- HOLDOFF_EXPIRY (R343): the holdoff of a vector of function o ends. -/
def execHoldoffExpiry (o : Nat) (vec : Nat) (s : State) : Host.Outcome State Fault Refusal :=
  s.runLive fun h => h.holdoffExpiry o vec

/-- MSIX_UNMASK (R344): a mask or the enable of MSI-X of function o changes. -/
def execMsixUnmask (o : Nat) (x : MsixChange) (s : State) : Host.Outcome State Fault Refusal :=
  s.runLive fun h => h.msixUnmask o x

end Sys2Proof.Machine
end

