-- ==== Sys2Proof/Machine/Microcode.lean ====
section
/-!
DEFINITION. The Looms' control words (R165 to R167): the groups of a word, the words that raise UC_FAULT, and the paths that
pass no safe word. What the words' ops do to a job is what R138 to R162 say of the job (R143); the spec gives the ops by
name only (log entry 53). -/

namespace Sys2Proof.Machine

/-- The groups of a control word that decide how its sequencer goes on (R165). -/
structure UcSeq where
  safe : Bool
  op : Nat
  cond : Nat
  target : Nat
  err : Nat
  deriving DecidableEq, Repr

/-- The SEQ group of a word. -/
def ucSeq (w : BitVec 256) : UcSeq :=
  let f := bits w.toNat
  { safe := bit w.toNat 255, op := f 254 252, cond := f 251 247, target := f 246 236, err := f 231 224 }

/-- A word that raises UC_FAULT when it is executed: its ERR is not 0, or a group holds an op code that R165 does not list
(R165, R166). -/
def ucFaults (w : BitVec 256) : Bool :=
  let f := bits w.toNat
  (ucSeq w).err != 0 || decide (6 < f 223 220) || decide (7 < f 191 188) || decide (8 < f 143 140) ||
    decide (6 < f 79 76) || decide (6 < f 47 44) || decide (4 < f 31 28)

/-- The sequencer may go from the word w at address a to address b (R165). A return may lead anywhere: the stack's contents
are the path's. -/
def ucFollows (w : BitVec 256) (a b : Nat) : Bool :=
  let s := ucSeq w
  let next := b == (a + 1) % 2048
  match s.op with
  | 0 => next
  | 1 | 3 => b == s.target
  | 2 => b == s.target || (next && s.cond != 0)
  | 4 => true
  | 5 => decide (s.target ≤ b ∧ b < s.target + 16)
  | 6 => b == s.target || next
  | _ => false

/-- Word a of an image; words above WORDS are 0 (R168). -/
def ucWord (words : List (BitVec 256)) (a : Nat) : BitVec 256 := words.getD a 0

/-- A path of words, one executed in each CCLK, none of them safe and none raising UC_FAULT (R167). -/
def unsafePath (words : List (BitVec 256)) : List Nat → Bool
  | [] => true
  | a :: l =>
    let w := ucWord words a
    decide (a < 2048) && !(ucSeq w).safe && !ucFaults w &&
      (match l with
       | [] => true
       | b :: _ => ucFollows w a b) && unsafePath words l

end Sys2Proof.Machine
end

