-- ==== Sys2Proof/Machine/Relief.lean ====
section
/-!
DEFINITION. The samples of a pixel and their composition (R144 to R161, R181 to R204): video registers, tile planes,
window, sprites, video layers, the Plinth, opaque spans, luminance statistics. The jobs that run them stand in
Loom.lean. -/

namespace Sys2Proof.Machine

/-! ### Video registers (R145 to R149, R189, R190) -/

/-- The writable bits of a video register, by IO address; 0 for an unlisted one (R146 to R149, R190). -/
def videoMask (a : Nat) : Nat :=
  if a = 0x0000 then 0x80
  else if a = 0x0004 then 0xFFFFFF
  else if 0x0010 ≤ a ∧ a < 0x0050 then
    (match a % 16 with | 0 => 0x3F | 4 => 0x07FF07FF | 8 => 0xFFFFC | 12 => 0xFFFC0 | _ => 0)
  else if a = 0x0050 then 0xBF
  else if a = 0x0054 ∨ a = 0x0058 then 0x07FF07FF
  else if a = 0x005C then 0xFFFFC
  else if a = 0x0060 then 0xFFFC0
  else if a = 0x0070 then 0x01FFFF01
  else if a = 0x0074 then 0xFFFF8
  else if a = 0x0078 then 0xFFFC0
  else if 0x0100 ≤ a ∧ a < 0x0180 then
    (match a % 0x40 with
      | 0x00 => 0x00FF037F | 0x04 => 0x0FFFFFC0 | 0x08 => 0x0FFFFFC0 | 0x0C => 0x7FC0 | 0x10 => 0x0FFF0FFF
      | 0x14 => 0x0FFF0FFF | 0x18 => 0x1FFF1FFF | 0x20 => 0x3FFF3FFF | 0x24 => 0x3FFF3FFF | 0x28 => 0x3FFF3FFF
      | 0x2C => 0x3FFF3FFF | 0x30 => 0x3FFF | 0x34 => 0x3FFFFFFF | 0x38 => 0x3FFFFFFF | _ => 0)
  else 0

/-- A video register's value in a table of them, by IO address. -/
def vget (t : NTable Word) (a : Nat) : Nat := (NTable.get 0 t a).toNat &&& videoMask a

/-- The register address of video layer v (R189). -/
def vbase (v : Nat) : Nat := 0x100 + 0x40 * v

/-! ### Class features (R69, R146) -/

/-- The class has a depth form: 0 2-bit, 1 4-bit, 2 8-bit, 3 16-bit. -/
def hasDepth (k : ClassRec) (d : Nat) : Bool := bit k.forms d
/-- The class has a tile size: 0 8 × 8, 1 16 × 16. -/
def hasTile (k : ClassRec) (t : Nat) : Bool := bit k.forms (4 + t)
/-- The number of tile planes. -/
def planes (k : ClassRec) : Nat := bits k.layers 2 0
/-- The class has the window plane. -/
def hasWindow (k : ClassRec) : Bool := bit k.layers 3
/-- The number of video layers. -/
def videoLayers (k : ClassRec) : Nat := bits k.layers 5 4

/-- Bits per pixel of a depth code. -/
def depthBits (d : Nat) : Nat := 2 ^ (d + 1)

/-- Map width and height in tiles of a MAPSZ code (R147). -/
def mapSize (m : Nat) : Nat × Nat :=
  match m with
  | 0 => (32, 32)
  | 1 => (64, 32)
  | 2 => (64, 64)
  | _ => (128, 128)

/-- One opaque tenant sample of a pixel (R184): its key, colour as three 10-bit components, alpha, and the palette and
entry of an indexed sample. -/
structure Sample where
  key : Nat
  rgb : Nat
  alpha : Nat
  tag : Option (Nat × Nat)
  deriving DecidableEq, Repr

/-- The colour of a pixel value: none where transparent (R153). -/
def colourOf (pal : NTable Nat) (d p bank v : Nat) : Option (Nat × Option (Nat × Nat)) :=
  let entry := fun (e : Nat) => some (expandRgb (NTable.get 0 pal (p * 256 + e)), some (p, e))
  match d with
  | 0 => if v = 0 then none else entry (bits bank 5 0 * 4 + v)
  | 1 => if v = 0 then none else entry (bits bank 3 0 * 16 + v)
  | 2 => if v = 0 then none else entry v
  | _ =>
    if bit v 15 then
      let c := fun (n : Nat) => expand10 (n * 8 + n / 4)
      some (packRgb (c (bits v 14 10)) (c (bits v 9 5)) (c (bits v 4 0)), none)
    else none

/-- blend(a, fg, bg) of one component (R185). -/
def blend1 (a fg bg : Nat) : Nat := (a * fg + (255 - a) * bg + 127) / 255

/-- blend of a colour. -/
def blend (a fg bg : Nat) : Nat :=
  packRgb (blend1 a (bits fg 29 20) (bits bg 29 20)) (blend1 a (bits fg 19 10) (bits bg 19 10))
    (blend1 a (bits fg 9 0) (bits bg 9 0))

/-- Inserts a sample in increasing key order. -/
def insertSample (s : Sample) : List Sample → List Sample
  | [] => [s]
  | t :: l => if s.key ≤ t.key then s :: t :: l else t :: insertSample s l

/-- Composes opaque samples over the backdrop, in increasing key (R185); the tag is that of R186. -/
def composeSamples (bg : Nat) (l : List Sample) : Nat × Option (Nat × Nat) :=
  (l.foldr insertSample []).foldl (fun acc s =>
    match s.tag with
    | some t => (s.rgb, some t)
    | none => (blend s.alpha s.rgb acc.1, if s.alpha = 0 then acc.2 else none)) (bg, none)

/-! ### Video layer colour (R193, R194) -/

/-- Rows of the matrix and the offsets: for each output, three coefficients; input and output offsets. -/
def cscOf (t : NTable Word) (v csc : Nat) : List (List Int) × List Int × List Int :=
  let oi : List Int := [0, 512, 512]
  let oo : List Int := [0, 0, 0]
  match csc with
  | 0 => ([[4096, 0, 5743], [4096, -1410, -2925], [4096, 7258, 0]], oi, oo)
  | 1 => ([[4096, 0, 6450], [4096, -767, -1917], [4096, 7601, 0]], oi, oo)
  | 2 => ([[4096, 0, 6040], [4096, -674, -2340], [4096, 7706, 0]], oi, oo)
  | _ =>
    let m := fun (k : Nat) => signed 14 (bits (vget t (vbase v + 0x20 + 4 * (k / 2))) (if k % 2 = 0 then 13 else 29)
      (if k % 2 = 0 then 0 else 16))
    let i := vget t (vbase v + 0x34)
    let o := vget t (vbase v + 0x38)
    ([[m 0, m 1, m 2], [m 3, m 4, m 5], [m 6, m 7, m 8]],
      [bits i 9 0, bits i 19 10, bits i 29 20].map fun (n : Nat) => (n : Int),
      [bits o 9 0, bits o 19 10, bits o 29 20].map (signed 10))

/-- YCbCr components of 10 bits to RGB (R193). -/
def yccToRgb (m : List (List Int) × List Int × List Int) (limited : Bool) (y cb cr : Int) : Nat :=
  let ex := fun (v k : Int) => (v * k + 2048) / 4096
  let y := if limited then clampI 0 1023 (ex (y - 64) 4783) else y
  let chroma := fun (v : Int) => if limited then clampI 0 1023 (ex (v - 512) 4677 + 512) else v
  let ins := [y, chroma cb, chroma cr]
  let out := fun (i : Nat) =>
    let row := m.1.getD i []
    let s := ((List.range 3).map fun j => row.getD j 0 * (ins.getD j 0 - m.2.1.getD j 0)).sum
    (clampI 0 1023 ((s + 2048) / 4096 + m.2.2.getD i 0)).toNat
  packRgb (out 0) (out 1) (out 2)

namespace Hw

/-! ### Video RAM (R154, R297) -/

/-- Reads n bytes of cottage c's video RAM; each address is taken modulo the class's size (R154). -/
def vramRead (h : Hw) (c a n : Nat) : Nat :=
  match h.vramFrame c with
  | none => 0
  | some f =>
    fromLe ((List.range n).map fun i => h.rb (h.frameAddr f ((a + i) % ((h.cls c).vramKib * 1024))))

/-- Poisoned data lie among n bytes of cottage c's video RAM (R178). -/
def vramPoisoned (h : Hw) (c a n : Nat) : Bool :=
  match h.vramFrame c with
  | none => false
  | some f => (List.range n).any fun i => h.poisonedAt (h.frameAddr f ((a + i) % ((h.cls c).vramKib * 1024))) 1

/-- The bytes that hold pixel i of the row at a, in depth code d (R152). -/
def pixelBytes (a d i : Nat) : Nat × Nat := if d = 3 then (a + 2 * i, 2) else (a + i * depthBits d / 8, 1)

/-- A pixel value of depth code d: pixel i of the row at a (R152). -/
def pixelAt (h : Hw) (c a d i : Nat) : Nat :=
  let (at_, n) := pixelBytes a d i
  if d = 3 then h.vramRead c at_ n
  else
    let b := depthBits d
    h.vramRead c at_ n / 2 ^ (i * b % 8) % 2 ^ b

/-! ### Tile planes and window (R150, R151) -/

/-- A read of a tile map (R150): the depth code, the map entry with its address, the address of its pattern's row and the
column in it. -/
structure TileRead where
  depth : Nat
  entry : Nat
  entryAt : Nat
  rowAt : Nat
  col : Nat
  deriving DecidableEq, Repr

/-- The read of a tile map at map pixel (px, py), where the plane is enabled and the class has its form. -/
def tileRead (h : Hw) (c ctl map pat px py : Nat) : Option TileRead :=
  let k := h.cls c
  let d := bits ctl 2 1
  let ts := bits ctl 3 3
  if bit ctl 0 && hasDepth k d && hasTile k ts then
    let t := if ts = 1 then 16 else 8
    let (mw, mh) := mapSize (bits ctl 5 4)
    let x := px % (mw * t)
    let y := py % (mh * t)
    let at_ := map + 4 * (y / t * mw + x / t)
    let ent := h.vramRead c at_ 4
    let col := if bit ent 28 then t - 1 - x % t else x % t
    let row := if bit ent 29 then t - 1 - y % t else y % t
    let b := depthBits d
    some ⟨d, ent, at_, pat + bits ent 15 0 * (t * t * b / 8) + row * (t * b / 8), col⟩
  else none

/-- The sample that a tile read yields: priority and colour (R153). -/
def tileSample (h : Hw) (c : Nat) (r : TileRead) : Option (Nat × Nat × Option (Nat × Nat)) :=
  (colourOf (h.cot c).loom.pal r.depth (bits r.entry 27 24) (bits r.entry 23 16) (h.pixelAt c r.rowAt r.depth r.col)).map
    fun q => (bits r.entry 31 30, q.1, q.2)

/-- The video RAM bytes of a tile read. -/
def TileRead.bytes (r : TileRead) : List (Nat × Nat) := [(r.entryAt, 4), pixelBytes r.rowAt r.depth r.col]

/-- What tile plane p reads for pixel x of line l. -/
def planeRead (h : Hw) (c p l x : Nat) : Option TileRead :=
  if p < planes (h.cls c) then
    let t := (h.cot c).loom.lreg
    let r := 0x10 + 0x10 * p
    let scr := vget t (r + 4)
    h.tileRead c (vget t r) (vget t (r + 8)) (vget t (r + 12)) (x + bits scr 10 0) (l + bits scr 26 16)
  else none

/-- What the window plane reads for a pixel (R150): its columns are of class P, the rest of class L. -/
def windowRead (h : Hw) (c l x : Nat) : Option TileRead :=
  if hasWindow (h.cls c) then
    let t := (h.cot c).loom.lreg
    let ctl := vget t 0x50
    let wx := vget (h.cot c).loom.vreg 0x54
    let wy := vget t 0x58
    let inside := decide (bits wx 10 0 ≤ x) && decide (x < bits wx 26 16) && decide (bits wy 10 0 ≤ l) &&
      decide (l < bits wy 26 16)
    if inside != bit ctl 7 then h.tileRead c ctl (vget t 0x5C) (vget t 0x60) x l else none
  else none

/-- The sample of tile plane p at pixel x of line l. -/
def planeSample (h : Hw) (c p l x : Nat) : Option (Nat × Nat × Option (Nat × Nat)) :=
  (h.planeRead c p l x).bind (h.tileSample c)

/-- The sample of the window plane. -/
def windowSample (h : Hw) (c l x : Nat) : Option (Nat × Nat × Option (Nat × Nat)) :=
  (h.windowRead c l x).bind (h.tileSample c)

/-! ### Sprites (R155 to R157) -/

/-- The entries on line l in index order: index and attribute word (R156). -/
def spritesOnLine (h : Hw) (c l count base : Nat) : List (Nat × Nat) :=
  (List.range count).filterMap fun i =>
    let e := h.vramRead c (base + 8 * i) 8
    let y := signed 11 (bits e 26 16)
    let ht := 8 * 2 ^ bits e 56 55
    if bit e 63 && decide (y ≤ (l : Int)) && decide ((l : Int) < y + (ht : Nat)) then some (i, e) else none

/-- The row of a sprite's pattern that line l shows: its address, and its width in pixels (R155, R157). -/
def spriteRowAt (l pat e : Nat) : Nat × Nat :=
  let w := 8 * 2 ^ bits e 54 53
  let ht := 8 * 2 ^ bits e 56 55
  let dy := ((l : Int) - signed 11 (bits e 26 16)).toNat
  let row := if bit e 60 then ht - 1 - dy else dy
  (pat + bits e 15 0 * 64 + row * (w * depthBits (bits e 58 57) / 8), w)

/-- The row of a selected sprite on line l: its pixel values, flipped; no pixels where the class lacks its depth. -/
def spriteRow (h : Hw) (c l pat : Nat) (ie : Nat × Nat) : SpriteRow :=
  let e := ie.2
  let d := bits e 58 57
  let (a, w) := spriteRowAt l pat e
  let px := if hasDepth (h.cls c) d then
      (List.range w).map fun i => h.pixelAt c a d (if bit e 59 then w - 1 - i else i)
    else []
  ⟨ie.1, signed 11 (bits e 42 32), w, bits e 62 61, d, bits e 52 49, bits e 48 43, px⟩

/-- COUNT or LIMIT as it counts: 0, or a value above the class's, means the class's (R149). -/
def spriteMost (n most : Nat) : Nat := if n = 0 ∨ most < n then most else n

/-- The entries that line l's evaluation scans (R149, R156); none while the sprite plane is off. -/
def spriteCount (h : Hw) (c : Nat) : Nat :=
  let ctl := vget (h.cot c).loom.lreg 0x70
  if bit ctl 0 then spriteMost (bits ctl 24 16) (h.cls c).sprFrame else 0

/-- The video RAM bytes that sprite evaluation of line l reads: the attribute entries, and the rows of the selected sprites. -/
def spriteReads (h : Hw) (c l : Nat) : List (Nat × Nat) :=
  let k := h.cls c
  let t := (h.cot c).loom.lreg
  let n := h.spriteCount c
  let base := vget t 0x74
  let chosen := (h.spritesOnLine c l n base).take (spriteMost (bits (vget t 0x70) 15 8) k.sprLine)
  (List.range n).map (fun i => (base + 8 * i, 8)) ++ chosen.filterMap fun ie =>
    let d := bits ie.2 58 57
    let (a, w) := spriteRowAt l (vget t 0x78) ie.2
    if hasDepth k d then some (a, w * depthBits d / 8) else none

/-- Sprite evaluation for line l with the L-latched registers: the selected rows; drops set OVF and are recorded once
a frame (R156). -/
def evalSprites (h : Hw) (c l : Nat) : Hw :=
  let k := h.cls c
  let t := (h.cot c).loom.lreg
  let ctl := vget t 0x70
  if bit ctl 0 then
    let on := h.spritesOnLine c l (h.spriteCount c) (vget t 0x74)
    let limit := spriteMost (bits ctl 15 8) k.sprLine
    let rows := (on.take limit).map (h.spriteRow c l (vget t 0x78))
    h.modLoom c fun m =>
      match on.drop limit with
      | [] => { m with sprites := rows }
      | (i, _) :: _ =>
        { m with sprites := rows, coll := m.coll ||| 0x10000,
                 ovfPos := if m.ovfPos = 0 then BitVec.ofNat 32 (0x80000000 + l * 65536 + i) else m.ovfPos }
  else h.modLoom c fun m => { m with sprites := [] }

/-- The opaque sprite pixels at column x: index, priority, colour. -/
def spritesAt (h : Hw) (c x : Nat) : List (Nat × Nat × Nat × Option (Nat × Nat)) :=
  (h.cot c).loom.sprites.filterMap fun s =>
    let dx := (x : Int) - s.x
    if 0 ≤ dx ∧ dx < (s.pixels.length : Nat) then
      (colourOf (h.cot c).loom.pal s.depth s.pal s.bank (s.pixels.getD dx.toNat 0)).map fun q =>
        (s.index, s.pri, q.1, q.2)
    else none

/-! ### Video layers (R189 to R198) -/

/-- Bytes of a row of the two planes of a format. -/
def vrow (fmt sw : Nat) : Nat := if fmt = 0 then sw else if fmt = 1 then 2 * sw else 4 * sw

/-- A byte range of the default space lies in mapped entries within 0x0FFF_FFFF. -/
def mappedRange (h : Hw) (c a n : Nat) : Bool :=
  decide (a + n ≤ 2 ^ 28) && (List.range (ceilDiv (a % 0x100000 + n) 0x100000)).all fun i =>
    bits (h.cmap c (a / 0x100000 + i)) 1 0 == 1 || bits (h.cmap c (a / 0x100000 + i)) 1 0 == 2

/-- REASON of a video layer at an F latch (R192). -/
def videoReason (h : Hw) (c v : Nat) : Nat :=
  let k := h.cls c
  let t := (h.cot c).loom.freg
  let b := vbase v
  let ctl := vget t b
  let fmt := bits ctl 3 1
  let pitch := bits (vget t (b + 0xC)) 14 6 * 64
  let sw := bits (vget t (b + 0x10)) 11 0
  let sh := bits (vget t (b + 0x10)) 27 16
  let dw := bits (vget t (b + 0x18)) 12 0
  let dh := bits (vget t (b + 0x18)) 28 16
  let planar := decide (fmt ≤ 1)
  let rowsOk := fun (base rows : Nat) => (List.range rows).all fun y => h.mappedRange c (base + y * pitch) (vrow fmt sw)
  if !bit ctl 0 then 0
  else if videoLayers k ≤ v then 1
  else if 2 < fmt ∨ sw = 0 ∨ sh = 0 ∨ dw = 0 ∨ dh = 0 ∨ pitch < vrow fmt sw ∨
      (planar = true ∧ (sw % 2 = 1 ∨ sh % 2 = 1)) then 2
  else if k.vsrcMax < sw ∨ 2048 < sw ∨ 2048 < sh then 3
  else if 8 * sw < dw ∨ 8 * sh < dh then 4
  else if 4 * dw < sw ∨ 4 * dh < sh then 5
  else if rowsOk (vget t (b + 4)) sh && (!planar || rowsOk (vget t (b + 8)) (sh / 2)) then 0
  else 6

/-- A byte of a video source through the cottage map. -/
def srcByte (h : Hw) (c a n : Nat) : Nat :=
  match (h.loadAt c a n).1 with
  | .value v => v
  | _ => 0

/-- The addresses of source pixel (x, y): luma or RGB, and chroma. -/
def srcAddrs (t : NTable Word) (v x y : Nat) : List (Nat × Nat) :=
  let b := vbase v
  let pitch := bits (vget t (b + 0xC)) 14 6 * 64
  let src := vget t (b + 4)
  let src2 := vget t (b + 8)
  match bits (vget t b) 3 1 with
  | 0 => [(src + y * pitch + x, 1), (src2 + y / 2 * pitch + x / 2 * 2, 1), (src2 + y / 2 * pitch + x / 2 * 2 + 1, 1)]
  | 1 => [(src + y * pitch + 2 * x, 2), (src2 + y / 2 * pitch + x / 2 * 4, 2),
          (src2 + y / 2 * pitch + x / 2 * 4 + 2, 2)]
  | _ => [(src + y * pitch + 4 * x, 4)]

/-- Source pixel (x, y) of video layer v as 10-bit RGB (R191, R193). -/
def srcPixel (h : Hw) (c v x y : Nat) : Nat :=
  let t := (h.cot c).loom.freg
  let ctl := vget t (vbase v)
  let raw := (srcAddrs t v x y).map fun a => h.srcByte c a.1 a.2
  let comp := fun (i : Nat) => let n := raw.getD i 0; ((if bits ctl 3 1 = 0 then expand10 n else n / 64 : Nat) : Int)
  if bits ctl 3 1 = 2 then expandRgb (raw.getD 0 0 % 2 ^ 24)
  else yccToRgb (cscOf t v (bits ctl 6 5)) (bit ctl 4) (comp 0) (comp 1) (comp 2)

/-- The geometry of layer v: signed destination origin, destination and source sizes. -/
def videoGeo (t : NTable Word) (v : Nat) : Int × Int × Nat × Nat × Nat × Nat :=
  let b := vbase v
  let pos := vget t (b + 0x14)
  (signed 12 (bits pos 11 0), signed 12 (bits pos 27 16), bits (vget t (b + 0x18)) 12 0, bits (vget t (b + 0x18)) 28 16,
    bits (vget t (b + 0x10)) 11 0, bits (vget t (b + 0x10)) 27 16)

/-- Layer v shows in this frame and covers pixel (x, l) (R192, R196). -/
def videoCovers (h : Hw) (c v l x : Nat) : Bool :=
  let t := (h.cot c).loom.freg
  let (dx, dy, dw, dh, _, _) := videoGeo t v
  bit (vget t (vbase v)) 0 && (h.cot c).loom.vreason.getD v 0 == 0 && decide (dx ≤ (x : Int)) &&
    decide ((x : Int) < dx + (dw : Nat)) && decide (dy ≤ (l : Int)) && decide ((l : Int) < dy + (dh : Nat))

/-- The sample of video layer v: priority, colour and alpha (R184, R195 to R197). -/
def videoSample (h : Hw) (c v l x : Nat) : Option (Nat × Nat × Nat) :=
  if h.videoCovers c v l x then
    let t := (h.cot c).loom.freg
    let ctl := vget (h.cot c).loom.lreg (vbase v)
    let (dx, dy, dw, dh, sw, sh) := videoGeo t v
    let comp := fun (hi lo : Nat) => scaleAt sw sh dw dh ((x : Int) - dx).toNat ((l : Int) - dy).toNat
      fun i j => bits (h.srcPixel c v i j) hi lo
    some (bits ctl 9 8, packRgb (comp 29 20) (comp 19 10) (comp 9 0), bits ctl 23 16)
  else none

/-- The source reads that the pixel of layer v needs. -/
def videoReads (h : Hw) (c v l x : Nat) : List (Nat × Nat) :=
  if h.videoCovers c v l x then
    let t := (h.cot c).loom.freg
    let (dx, dy, dw, dh, sw, sh) := videoGeo t v
    (axisTaps sw dw ((x : Int) - dx).toNat).flatMap fun a =>
      (axisTaps sh dh ((l : Int) - dy).toNat).flatMap fun b => srcAddrs t v a.1 b.1
  else []

/-! ### Opaque spans (R187, R188) -/

/-- The opaque samples of a pixel, by layer order number (R184). -/
def layerSample (h : Hw) (c l x order : Nat) : Option Sample :=
  let graphic := fun (q : Option (Nat × Nat × Option (Nat × Nat))) =>
    q.map fun (s : Nat × Nat × Option (Nat × Nat)) => (⟨s.1 * 8 + order, s.2.1, 255, s.2.2⟩ : Sample)
  let video := fun (v : Nat) => (h.videoSample c v l x).map fun s => (⟨s.1 * 8 + order, s.2.1, s.2.2, none⟩ : Sample)
  match order with
  | 7 => match h.spritesAt c x with
    | [] => none
    | s :: _ => some ⟨s.2.1 * 8 + 7, s.2.2.1, 255, s.2.2.2⟩
  | 6 => graphic (h.windowSample c l x)
  | 5 => video 0
  | 4 => video 1
  | o => graphic (h.planeSample c (3 - o) l x)

/-- A layer has something to fetch in the span that begins at column x0 of line l, by order number: it is enabled, and a video
layer's rectangle reaches into the span. -/
def layerOn (h : Hw) (c l x0 order : Nat) : Bool :=
  let m := (h.cot c).loom
  let shows := fun (v : Nat) => (List.range 16).any fun i => h.videoCovers c v l (x0 + i)
  match order with
  | 7 => bit (vget m.lreg 0x70) 0
  | 6 => hasWindow (h.cls c) && bit (vget m.lreg 0x50) 0
  | 5 => shows 0
  | 4 => shows 1
  | o => decide (3 - o < planes (h.cls c)) && bit (vget m.lreg (0x10 + 0x10 * (3 - o))) 0

/-- The layers skipped in the span of line l whose columns are the first components of `at_`, each with the state in which it is
sampled, judged in fetch order: sprite, window, V0, V1, planes 0 to 3 (R187). -/
def skipped (h : Hw) (c l x0 : Nat) (at_ : List (Nat × Hw)) : List Nat :=
  let m := (h.cot c).loom
  let overlapped := m.sprites.any fun s => at_.any fun (e : Nat × Hw) =>
    decide (s.x ≤ (e.1 : Int)) && decide ((e.1 : Int) < s.x + (s.w : Nat))
  let step := fun (acc : List Nat × List Nat) (o : Nat) =>
    let (fetched, skip) := acc
    if !h.layerOn c l x0 o then acc
    else
      let top := (if o = 5 then bits (vget m.lreg (vbase 0)) 9 8 else if o = 4 then bits (vget m.lreg (vbase 1)) 9 8
        else 3) * 8 + o
      let covered := at_.all fun (e : Nat × Hw) => fetched.any fun q =>
        match e.2.layerSample c l e.1 q with
        | some s => decide (top < s.key) && s.alpha == 255
        | none => false
      if o ≠ 7 && covered && (o == 5 || o == 4 || !overlapped) then (fetched, skip ++ [o]) else (fetched ++ [o], skip)
  (([7, 6, 5, 4, 3, 2, 1, 0] : List Nat).foldl step ([], [])).2

/-! ### The Plinth (R201 to R204) -/

/-- The pixel of the Plinth set in use: alpha and colour; none outside its rectangle. -/
def plinthPixel (h : Hw) (c l x : Nat) : Option (Nat × Nat × Bool) :=
  let r := (h.cot c).relief
  match r.inUse with
  | none => none
  | some p =>
    if p.en && decide (p.x ≤ x) && decide (x < p.x + p.w) && decide (p.y ≤ l) && decide (l < p.y + p.h) then
      if r.fallback then some (255, expandRgb p.rgb, false)
      else
        let a := p.base + (l - p.y) * p.pitch + (x - p.x) * (if p.i8 then 1 else 4)
        let b := p.palBase + h.rv a 1 * 4
        let bad := h.poisonedAt a (if p.i8 then 1 else 4) || (p.i8 && h.poisonedAt b 4)
        let argb := if p.i8 then h.rv b 4 else h.rv a 4
        some (bits argb 31 24, expandRgb (bits argb 23 0), bad)
    else none

/-- Frames of a byte range are private and owned by the PF of a port (R202). -/
def ownedBy (h : Hw) (port a n : Nat) : Bool :=
  (List.range (ceilDiv (a % 0x100000 + n) 0x100000)).all fun i =>
    let e := h.frame (a / 0x100000 + i)
    e.state == .priv && e.owner == 129 * port

/-- The pending Plinth set is checked and applied, or refused, as line 0 of a frame starts on Loom j (R202, R209). -/
def plinthApply (h : Hw) (c j f : Nat) : Hw :=
  let r := (h.cot c).relief
  let port := (h.portOf c).getD 0
  match r.pending with
  | none => h
  | some p =>
    let row := p.w * (if p.i8 then 1 else 4)
    let ok := !p.en || (((List.range p.h).all fun y => h.ownedBy port (p.base + y * p.pitch) row) &&
      (!p.i8 || h.ownedBy port p.palBase 1024))
    let h := (h.modRelief c fun r => { r with pending := none }).setFld F.PLN_STAT_PENDING 0 c 0
    if ok then
      let h := h.modRelief c fun r => { r with inUse := some p, fallback := false }
      ((h.setFld F.PLN_STAT_FALLBACK 0 c 0).setFld F.PLN_STAT_ACTIVE 0 c (b2n p.en)).setFld F.PLN_STAT_FRAME 0 c f
    else (h.setFld F.PLN_STAT_REFUSED 0 c 1).raiseCot 0 .PLN 0x04 c (detailOf .PLN [j, 0x04, c])

/-- Loom j meets poisoned Plinth data: fallback from this pixel on (R204, R209). -/
def plinthPoison (h : Hw) (c j : Nat) : Hw :=
  let h := h.modRelief c fun r => { r with fallback := true }
  (h.setFld F.PLN_STAT_FALLBACK 0 c 1).raiseCot 1 .PLN 0x05 c (detailOf .PLN [j, 0x05, c])

/-! ### Collisions (R158) -/

/-- Adds the collisions of pixel (x, l). -/
def collide (h : Hw) (c l x : Nat) : Hw :=
  let opaqueSprites := (h.spritesAt c x).map (·.1)
  if opaqueSprites.isEmpty then h
  else
    let planeBits := (List.range 4).foldl (fun n p => n + b2n (h.planeSample c p l x).isSome * 2 ^ p)
      (b2n (h.windowSample c l x).isSome * 16)
    let ss := decide (2 ≤ opaqueSprites.length)
    if planeBits = 0 ∧ ss = false then h
    else h.modLoom c fun m =>
      { m with coll := m.coll ||| planeBits ||| (b2n ss * 256),
               collPos := if m.collPos = 0 then BitVec.ofNat 32 (0x80000000 + l * 65536 + x) else m.collPos,
               hits := opaqueSprites.foldl (fun t i =>
                 NTable.set 0 t (i / 32) (NTable.get 0 t (i / 32) ||| BitVec.ofNat 32 (2 ^ (i % 32)))) m.hits }

/-! ### Luminance statistics (R206, R207) -/

/-- The zone of a coordinate: the i with (i × size) div 8 ≤ v < ((i + 1) × size) div 8. -/
def zoneOf (size v : Nat) : Nat :=
  ((List.range 8).find? fun i => decide (i * size / 8 ≤ v) && decide (v < (i + 1) * size / 8)).getD 7

/-- Adds a composed pixel's luminance to the frame mean and its zone. -/
def lumAdd (h : Hw) (c l x w : Nat) : Hw :=
  let k := h.cls c
  let y := (871 * bits w 29 20 + 2929 * bits w 19 10 + 296 * bits w 9 0 + 2048) / 4096
  let z := zoneOf k.height l * 8 + zoneOf k.width x
  h.modRelief c fun r =>
    { r with total := r.total + y, zoneSum := NTable.set 0 r.zoneSum z (NTable.get 0 r.zoneSum z + y) }

/-- Pixels of zone z. -/
def zonePixels (k : ClassRec) (z : Nat) : Nat :=
  ((z % 8 + 1) * k.width / 8 - z % 8 * k.width / 8) * ((z / 8 + 1) * k.height / 8 - z / 8 * k.height / 8)

/-- The statistics of frame f at the end of its last visible job. -/
def lumDone (h : Hw) (c f : Nat) : Hw :=
  let k := h.cls c
  let n := c / 256
  let r := (h.cot c).relief
  let means := (List.range 64).map fun z => NTable.get 0 r.zoneSum z / zonePixels k z
  let mean := r.total / (k.width * k.height)
  let first := r.prevMeans.isNone || r.firstAt == some f
  let prev := r.prevMeans.getD means
  let ds : List Int := (means.zip prev).map fun p => (p.1 : Int) - (p.2 : Nat)
  let thr : Int := (h.fld F.RLF_LUM_CTL_THR n : Nat)
  let up := (ds.filter fun d => !first && decide (thr ≤ d)).length
  let down := (ds.filter fun d => !first && decide (thr ≤ -d)).length
  let maxd := ds.foldl (fun m d => max m d.natAbs) 0
  let area := h.fld F.RLF_LUM_CTL_AREA n
  let flash := !first && (decide (area ≤ up) || decide (area ≤ down))
  let h := if flash then h.count F.RLF_FLASHCNT_FLASH c else h
  let h := h.setReg .RLF_LSTAT c 0 (BitVec.ofNat 64 (f % 2 ^ 32 * 2 ^ 32 + 2 ^ 31 + b2n first * 2 ^ 30 +
    b2n flash * 2 ^ 29 + maxd * 2 ^ 16 + mean))
  let h := h.setReg .RLF_LCNT c 0 (BitVec.ofNat 64 (f % 65536 * 2 ^ 16 + down * 256 + up))
  let note : Note := .stats first flash mean f maxd up down
  let h := h.each [0, 1] fun h s => h.modStream c s fun t => if t.live then { t with notes := t.notes ++ [note] } else t
  h.modRelief c fun r =>
    { r with prevMeans := some means, firstAt := if r.firstAt = some f then none else r.firstAt, zoneSum := [], total := 0 }

end Hw

end Sys2Proof.Machine
end

