-- ==== Sys2Proof/Machine/Loom.lean ====
section
/-!
DEFINITION. Line jobs of the Looms (R39 to R41, R138 to R145, R162, R167, R178 to R180): application of Tally entries,
latches, composition pixel by pixel, parking, yielding, stalls and the errors found in a job. -/

namespace Sys2Proof.Machine.Hw

/-! ### Positions and readiness (R20, R138, R139) -/

/-- The virtual cycle at which pixel x of line l is sampled: C(x) after the line's start (R20). -/
def samplePosOf (k : ClassRec) (f l x : Nat) : Stamp := ⟨f, l * k.vcpl + k.hstart + x * k.pixcyc / 16⟩

/-- The end of the range of the job on line l, or of the blanking job (R138). -/
def jobEnd (k : ClassRec) (f l : Nat) : Stamp :=
  if l < k.height then (if l + 1 = k.tl then ⟨f + 1, 0⟩ else ⟨f, (l + 1) * k.vcpl⟩) else ⟨f + 1, 0⟩

/-- How far composition may go: the beam's stamp, or V of a blit into video RAM that has not taken effect (R40, R381). -/
def renderLimit (h : Hw) (c : Nat) : Stamp :=
  match h.vramBlit c with
  | some t => if t.v.lt (h.stamp c) then t.v else h.stamp c
  | none => h.stamp c

/-- The stamp before which entries are applied when the work has reached p: none at or after V of such a blit. -/
def applyLimit (h : Hw) (c : Nat) (p : Stamp) : Stamp :=
  match h.vramBlit c with
  | some t => if t.v.lt p then t.v else p
  | none => p

/-- The beam has passed the range of the cottage's next job. -/
def jobReady (h : Hw) (c : Nat) : Bool :=
  let l := (h.cot c).loom
  (jobEnd (h.cls c) l.frame l.line).le (h.renderLimit c)

/-- The Looms compose the cottage pixel-precise (R40, R139, R381). -/
def precise (h : Hw) (c : Nat) : Bool :=
  (h.vramBlit c).isSome || (h.ctx c).st == .bwait || (h.ctx c).st == .dhold || h.flag F.LOM_CTL_PRECISE (c / 256)

/-- Loom j of the cottage's parish can take a job: in service and free. -/
def loomFree (h : Hw) (c j : Nat) : Bool :=
  !h.flag F.LOM_STAT_STOPPED (c / 256) j && !h.flag F.LOM_STAT_VALID (c / 256) j

/-- Jobs of the cottage exist: its class is known, and it is not contained (R180). -/
def hasJobs (h : Hw) (c : Nat) : Bool := (h.classOf c).isSome && (h.ctx c).st != .cont

/-- A job of the cottage is queued, on a Loom, parked or yielded (R143). -/
def jobsLeft (h : Hw) (c : Nat) : Bool := h.hasJobs c && ((h.cot c).loom.phase != .idle || h.jobReady c)

/-- The cottage's next job is ready and on no Loom: the beam has passed its range, or the Looms work pixel-precise and, if it is
parked, may go further than where it parked (R138, R139). -/
def jobWaits (h : Hw) (c : Nat) : Bool :=
  let m := (h.cot c).loom
  h.hasJobs c &&
    match m.phase with
    | .idle | .yielded => h.jobReady c || h.precise c
    | .parked => h.jobReady c || (h.precise c && m.parkedAt.lt (h.renderLimit c))
    | _ => false

/-- The deadline of the cottage's next job: that of its frame and line, of line TL − 1 for a blanking job (R140). -/
def jobDeadline (h : Hw) (c : Nat) : Nat × Nat :=
  let m := (h.cot c).loom
  let k := h.cls c
  h.lineDeadline c m.frame (if m.line < k.height then m.line else k.tl - 1)

/-- The next job of cottage a comes before that of cottage b in the parish's queue (R140). -/
def jobAhead (h : Hw) (a b : Nat) : Bool :=
  let (x, p) := h.jobDeadline a
  let (y, q) := h.jobDeadline b
  decide (x * q < y * p ∨ x * q = y * p ∧ a < b)

/-- Loom j takes the cottage's next job: the job waits, none that waits comes before it, and the Loom is free (R140). -/
def takesJob (h : Hw) (c j : Nat) : Bool :=
  h.jobWaits c && h.loomFree c j && (h.parishCots (c / 256)).all fun d => d == c || !h.jobWaits d || !h.jobAhead d c

/-- The YIELD condition of Loom j with the job of cottage c after `cost` CCLK (R142): its slice is over, and a ready job with an
earlier deadline waits with no Loom free. -/
def yieldDue (h : Hw) (c j cost : Nat) : Bool :=
  decide (64 * h.fld F.LOM_CTL_SLICE (c / 256) ≤ cost) &&
    (List.range 4).all (fun i => i == j || !h.loomFree c i) &&
    (h.parishCots (c / 256)).any fun d => d != c && h.jobWaits d &&
      (let (x, p) := h.jobDeadline d
       let (y, q) := h.jobDeadline c
       decide (x * q < y * p))

/-! ### Applying Tally entries (R39, R41, R162) -/

/-- What becomes of an entry: it is applied; it waits for a granule copy (R298); copy-on-write is exhausted. -/
inductive Applied where
  | ok
  | waits (f g : Nat)
  | exhausted
  deriving DecidableEq, Repr

/-- Writes a word of video RAM under byte enables, once its granule is copied where the frame is shared (R41, R297, R298); with
`now` the copy is made within the step. -/
def vramStore (h : Hw) (c a : Nat) (mask : BitVec 4) (v : Word) (now : Bool) : Applied × Hw :=
  let put := fun (h : Hw) (f : Nat) => h.each (List.range 4) fun h i =>
    if mask.getLsbD i then h.wb (frameBase f + a + i) (BitVec.ofNat 8 (v.toNat / 256 ^ i)) else h
  match h.vramFrame c with
  | none => (.ok, h)
  | some f =>
    if now then
      match h.writableNow c f a (moveVram c) with
      | (none, h) => (.exhausted, h)
      | (some f, h) => (.ok, put h f)
    else
      match h.writeGate c f a (moveVram c) with
      | (.exhausted, h) => (.exhausted, h)
      | (.wait f g, h) => (.waits f g, h)
      | (.ready f, h) => (.ok, put h f)

/-- The note of an input event goes to the frame-close when its marker is applied (R50, R162). -/
def passMarker (h : Hw) (c addr : Nat) : Hw :=
  let hit := fun (n : Note) => match n with
    | .input port seq _ _ _ _ => port * 65536 + seq == addr
    | _ => false
  match (h.cot c).loom.markers.find? hit with
  | none => h
  | some n =>
    let h := h.modLoom c fun m => { m with markers := m.markers.filter fun x => !hit x }
    h.each [0, 1] fun h s => h.modStream c s fun t => if t.live then { t with notes := t.notes ++ [n] } else t

/-- Applies one entry, or says why it cannot be applied yet. -/
def applyEntry (h : Hw) (c : Nat) (e : TallyEntry) (now : Bool) : Applied × Hw :=
  match e.kind with
  | .videoReg => (.ok, h.modLoom c fun m => { m with vreg := NTable.set 0 m.vreg (e.addr * 4) e.value })
  | .palette => (.ok, h.modLoom c fun m => { m with pal := NTable.set 0 m.pal e.addr (e.value.toNat % 2 ^ 24) })
  | .vramWord | .vramBytes => h.vramStore c (e.addr * 4) e.mask e.value now
  | .marker => (.ok, h.passMarker c e.addr)

/-- Applies the entries of a list in turn, each of which then leaves the Tally, up to one that cannot be applied, which stays in it
(R180, R298). -/
def applyAll : List TallyEntry → Hw → Nat → Bool → Applied × Hw
  | [], h, _, _ => (.ok, h)
  | e :: es, h, c, now =>
    match h.applyEntry c e now with
    | (.ok, h) => applyAll es (h.modCtx c fun x => { x with tally := x.tally.tail }) c now
    | r => r

/-- The entries stamped before p that may be applied. -/
def dueEntries (h : Hw) (c : Nat) (p : Stamp) : List TallyEntry :=
  let p := h.applyLimit c p
  (h.ctx c).tally.takeWhile fun e => e.stamp.lt p

/-- Applies every entry stamped before p that may be applied. -/
def applyBefore (h : Hw) (c : Nat) (p : Stamp) : Applied × Hw := applyAll (h.dueEntries c p) h c false

/-- The state with every entry stamped before p applied that may be, as if no copy were waited for: what a Loom looks ahead to. -/
def lookAhead (h : Hw) (c : Nat) (p : Stamp) : Hw := (applyAll (h.dueEntries c p) h c true).2

/-! ### Composition -/

/-- How the work on a job goes on after a step; a stall may be for a granule of a frame. -/
inductive JobEnd where
  | ok
  | stall (on : Option (Nat × Nat))
  | contain (src : Blk) (cause : Nat)

/-- How it goes on after entries were to be applied. -/
def Applied.jobEnd : Applied → JobEnd
  | .ok => .ok
  | .waits f g => .stall (some (f, g))
  | .exhausted => .contain .GRN 0x02

/-- Resolves the source reads of a pixel's video layers: a page-in stalls the Loom; poison contains (R198). -/
def probe : List (Nat × Nat) → Hw → Nat → JobEnd × Hw
  | [], h, _ => (.ok, h)
  | (a, n) :: l, h, c =>
    match h.loadAt c a n with
    | (.value _, h) => probe l h c
    | (.fault _, h) => probe l h c
    | (.wait f g, h) => (.stall (some (f, g)), h)
    | (.contain k, h) => (.contain .GRN k, h)
    | (.poison, h) => (.contain .RLF 0x03, h)

/-! ### The pattern caches (R163, R164) -/

/-- The lines of HBM that hold n bytes at address a of cottage c's video RAM. -/
def vramLines (h : Hw) (c : Nat) (e : Nat × Nat) : List Nat :=
  match h.vramFrame c with
  | none => []
  | some f =>
    let size := (h.cls c).vramKib * 1024
    [h.frameAddr f (e.1 % size) / 128, h.frameAddr f ((e.1 + e.2 - 1) % size) / 128].eraseDups

/-- Loom j's pattern cache holds a line. -/
def cacheHit (h : Hw) (n j line : Nat) : Bool := (h.parish n).pcache.any fun e => e.loom == j && e.line == line

/-- The ways of a pattern cache that serve cottage c: those of its owner's entry of the LARDER record, as LOM_PC_WAYS shows them. -/
def cacheWaysOf (h : Hw) (c : Nat) : List Nat :=
  let entries := (((h.parish (c / 256)).arm.bind (·.larder)).map (·.entries)).getD []
  let mine := entries.findIdx fun e => some e.1 == h.ownerOf c
  let ways := (h.reg .LOM_PC_WAYS (c / 256)).toNat
  (List.range 16).filter fun w => bits ways (4 * w + 3) (4 * w) == mine

/-- A line enters Loom j's pattern cache for cottage c, unless it is there: in a free way of its owner's, or in the place of a
line of the owner's, which the spec leaves open (log entry 54). -/
def cacheFill (h : Hw) (c j line : Nat) : Hw :=
  let n := c / 256
  let bins := ((((h.parish n).arm.bind (·.larder)).map (·.pcache)).getD []).getD j 0
  let ways := h.cacheWaysOf c
  if h.cacheHit n j line ∨ bins = 0 ∨ ways = [] then h
  else
    let set := Config.cacheSet line % (32 * bins)
    let taken := fun (w : Nat) => (h.parish n).pcache.any fun e => e.loom == j && e.set == set && e.way == w
    let put := fun (h : Hw) (w : Nat) => h.modParish n fun p =>
      { p with pcache := p.pcache.filter (fun e => !(e.loom == j && e.set == set && e.way == w)) ++ [⟨j, set, w, line⟩] }
    match ways.find? fun w => !taken w with
    | some w => put h w
    | none => put h.draw.2 (ways.getD (h.draw.1.toNat % ways.length) 0)

/-- The lines of a list of video RAM reads enter the cache. -/
def cacheReads (h : Hw) (c j : Nat) (l : List (Nat × Nat)) : Hw :=
  h.each (l.flatMap (h.vramLines c)) fun h line => h.cacheFill c j line

/-- The video RAM bytes that pixel x of line l needs beyond its sprites', of the layers that its span does not skip. -/
def pixelReads (h : Hw) (c l x : Nat) (skips : List Nat) : List (Nat × Nat) :=
  ((List.range 4).filter fun p => !skips.contains (3 - p)).flatMap (fun p =>
      ((h.planeRead c p l x).map TileRead.bytes).getD []) ++
    (if skips.contains 6 then [] else ((h.windowRead c l x).map TileRead.bytes).getD [])

/-! ### Latches and pixels -/

/-- The latches of pixel 0 of a line: the F latch on line 0, the L latch, sprite evaluation (R144, R156, R192). They are taken
once, whatever stalls follow. -/
def latch (h : Hw) (c l : Nat) : Hw :=
  if (h.cot c).loom.latched then h
  else
    let h := if l = 0 then
        let h := h.modLoom c fun m => { m with freg := m.vreg, framePal := m.pal }
        let rs := [h.videoReason c 0, h.videoReason c 1]
        let h := h.modLoom c fun m => { m with vreason := rs }
        h.count F.RLF_CNT_REFUSED_REFUSED (c / 256) 0 (rs.filter (· ≠ 0)).length
      else h
    let h := h.modLoom c fun m => { m with lreg := m.vreg, latched := true }
    if bit (vget (h.cot c).loom.freg 0) 7 then h.modLoom c fun m => { m with sprites := [] } else h.evalSprites c l

/-- The columns of the span that begins at x, each with the state in which it is sampled, as far as the Tally says. -/
def spanStates (h : Hw) (c l x : Nat) : List (Nat × Hw) :=
  (List.range 16).map fun i =>
    (x + i, if i = 0 then h else h.lookAhead c (samplePosOf (h.cls c) (h.cot c).loom.frame l (x + i)))

/-- Judges the span that begins at column x of line l, unless that is done, and counts the layers it skips (R187, R188). -/
def judgeSpan (h : Hw) (c l x : Nat) : Hw :=
  if x % 16 ≠ 0 ∨ (h.cot c).loom.skips.isSome then h
  else
    let skips := if bit (vget (h.cot c).loom.freg 0) 7 then [] else h.skipped c l x (h.spanStates c l x)
    (h.countWrap F.RLF_CNT_SKIP_SKIP (c / 256) 0 skips.length).modLoom c fun m => { m with skips := some skips }

/-- Composes pixel x of line l on Loom j (R185, R186): the reads through the pattern cache, the samples, the Plinth, collisions,
statistics, the Porch. -/
def composePixel (h : Hw) (c j l x : Nat) : JobEnd × Hw :=
  let h := h.judgeSpan c l x
  let blank := bit (vget (h.cot c).loom.freg 0) 7
  let skips := (h.cot c).loom.skips.getD []
  let need := if blank then []
    else [0, 1].flatMap fun v => if skips.contains (5 - v) then [] else h.videoReads c v l x
  let reads := if blank then [] else h.pixelReads c l x skips ++ (if x = 0 then h.spriteReads c l else [])
  match probe need h c with
  | (.ok, h) =>
    let h := h.cacheReads c j reads
    if reads.any fun e => h.vramPoisoned c e.1 e.2 then (.contain .LOM 0x05, h)
    else
      let bg := expandRgb (vget (h.cot c).loom.vreg 4)
      let samples := if blank then []
        else (List.range 8).filterMap fun o => if skips.contains o then none else h.layerSample c l x o
      let (acc, tag) := composeSamples bg samples
      let h := if blank then h else h.collide c l x
      let (word, tag, h) :=
        match h.plinthPixel c l x with
        | none => (acc, tag, h)
        | some (_, _, true) =>
          (((h.cot c).relief.inUse.map fun (q : PlinthSet) => expandRgb q.rgb).getD 0, none, h.plinthPoison c j)
        | some (a, rgb, false) => (blend a rgb acc, if a = 0 then tag else none, h)
      let h := h.modLoom c fun m => { m with skips := if x % 16 = 15 then none else m.skips }
      (.ok, (h.porchPixel c x l word tag).lumAdd c l x word)
  | (e, h) => (e, h)

/-- Works on line l from the next pixel up to `stop`, or as far as composition may go when `limit` (R40, R139, R142):
each pixel after the entries stamped before its sample position. -/
def runPixels : Nat → Hw → Nat → Nat → Nat → Bool → JobEnd × Hw
  | 0, h, _, _, _, _ => (.ok, h)
  | fuel + 1, h, c, j, stop, limit =>
    let k := h.cls c
    let m := (h.cot c).loom
    let p := samplePosOf k m.frame m.line m.x
    if stop ≤ m.x ∨ k.width ≤ m.x then (.ok, h)
    else
      match h.applyBefore c p with
      | (.ok, h) =>
        if limit && (h.renderLimit c).lt p then (.ok, h)
        else
          let h := if m.x = 0 then h.latch c m.line else h
          match h.composePixel c j m.line m.x with
          | (.ok, h) => runPixels fuel (h.modLoom c fun m => { m with x := m.x + 1 }) c j stop limit
          | (e, h) => (e, h)
      | (a, h) => (a.jobEnd, h)

/-- Line l of frame f is composed: the Porch's row, the statistics after the last visible line, the next job. -/
def lineDone (h : Hw) (c f l : Nat) : Hw :=
  let k := h.cls c
  let h := if l % 16 = 15 ∨ l + 1 = k.height then h.porchRowDone c (l / 16) f else h
  let h := if l + 1 = k.height then h.lumDone c f else h
  h.modLoom c fun m => { m with line := l + 1, x := 0, phase := .idle, latched := false, skips := none, sprites := [] }

/-- The frame's last job is done: the next frame begins; its collision results start from 0 (R138, R159). -/
def frameDone (h : Hw) (c : Nat) : Hw :=
  h.modLoom c fun m =>
    { m with frame := m.frame + 1, line := 0, x := 0, phase := .idle, collPrev := decide (m.coll ≠ 0), coll := 0,
             collPos := 0, ovfPos := 0, hits := [] }

/-- Marks what Loom j shows (R173): a job of cottage c stalled on it, or nothing. -/
def loomShows (h : Hw) (c j : Nat) (busy : Bool) (blanking : Bool) : Hw :=
  let n := c / 256
  ((h.setFld F.LOM_STAT_VALID n j (b2n busy)).setFld F.LOM_STAT_CTX n j (if busy then c % 256 else 0)).setFld
    F.LOM_STAT_STATE n j (if !busy then 0 else if blanking then 2 else 1)

/-- Contains a cottage for an error found by a Loom (R178, R209). -/
def loomContain (h : Hw) (c j : Nat) (src : Blk) (cause : Nat) : Hw :=
  match src with
  | .GRN => h.containGrn c cause 0
  | .RLF => h.containWith c .RLF cause (detailOf .RLF [j, cause, c])
  | _ => h.containWith c src cause (detailOf src [j, cause, c % 256])

/-- The cottage's job parks, having composed as far as composition may go (R139). -/
def parkJob (h : Hw) (c : Nat) : Hw :=
  let p := h.renderLimit c
  h.modLoom c fun m => { m with phase := .parked, parkedAt := p }

/-- The cottage's job stalls on Loom j, for a fill, a granule of a video source, or a granule copy (R141, R198, R298). -/
def stallJob (h : Hw) (c j : Nat) (on : Option (Nat × Nat)) : Hw :=
  let blanking := decide ((h.cls c).height ≤ (h.cot c).loom.line)
  (h.modLoom c fun m => { m with phase := .stalled j, awaits := on }).loomShows c j true blanking

/-- The cottage's job yields Loom j (R142). -/
def yieldJob (h : Hw) (c j : Nat) : Hw :=
  (h.modLoom c fun m => { m with phase := .yielded }).count F.LOM_CNT_YIELD_YIELD (c / 256) j

/-- CCLK that a visible job has cost from state h to state g without its stalls (R141). -/
def jobCost (h g : Hw) (c : Nat) : Nat :=
  let (m, m') := ((h.cot c).loom, (g.cot c).loom)
  16 + ((h.ctx c).tally.length - (g.ctx c).tally.length) + (m'.x - m.x) +
    (if m'.latched && !m.latched then ceilDiv (g.spriteCount c) 4 else 0)

/-- The lines of HBM that the pixel which the cottage's job comes to next reads through the pattern cache. -/
def nextLines (h : Hw) (c : Nat) : List Nat :=
  let m := (h.cot c).loom
  let g := h.lookAhead c (samplePosOf (h.cls c) m.frame m.line m.x)
  let g := (if m.x = 0 then g.latch c m.line else g).judgeSpan c m.line m.x
  let n := (g.cot c).loom
  if bit (vget n.freg 0) 7 then []
  else
    (g.pixelReads c m.line m.x (n.skips.getD []) ++ (if m.x = 0 then g.spriteReads c m.line else [])).flatMap
      (g.vramLines c)

/-- The pixel that the cottage's job comes to next needs a line that Loom j's pattern cache lacks. -/
def misses (h : Hw) (c j : Nat) : Bool := (h.nextLines c).any fun line => !h.cacheHit (c / 256) j line

/-- The column before which a job is to be left. -/
def stopColumn (s : JobStop) : Nat :=
  match s with
  | .none => 2048
  | .yield x _ | .miss x => x

/-- A visible job that stands before the column where it is to be left goes on all the same: LIMIT does not hold there, nor, as
`stop` has it, YIELD or a miss (R142). `start` is the state in which the job was taken. -/
def passesStop (start h : Hw) (c j : Nat) (stop : JobStop) (limit : Bool) : Bool :=
  let m := (h.cot c).loom
  let p := samplePosOf (h.cls c) m.frame m.line m.x
  decide (m.x < (h.cls c).width) && !(limit && (h.renderLimit c).lt p) &&
    match stop with
    | .none => false
    | .yield _ stalled => !h.yieldDue c j (jobCost start h c + stalled)
    | .miss _ => !h.misses c j

/-- Composes the pixels of a visible job up to where it is to be left, and beyond that where it goes on. -/
def workPixels (h : Hw) (c j : Nat) (stop : JobStop) (limit : Bool) : JobEnd × Hw :=
  match runPixels 2048 h c j (stopColumn stop) limit with
  | (.ok, g) => if passesStop h g c j stop limit then runPixels 2048 g c j 2048 limit else (.ok, g)
  | (e, g) => (e, g)

/-- Ends the work on a job by how it went: at the end of its line it is done, or parks while the beam is still in its range;
before it, LIMIT parks it, and else it is left as `stop` has it. -/
def jobLeft (h : Hw) (c j : Nat) (e : JobEnd) (stop : JobStop) (limit : Bool) : Hw :=
  let k := h.cls c
  let m := (h.cot c).loom
  match e with
  | .contain src cause => h.loomContain c j src cause
  | .stall on => h.stallJob c j on
  | .ok =>
    if k.width ≤ m.x then
      match h.applyBefore c (jobEnd k m.frame m.line) with
      | (.exhausted, h) => h.loomContain c j .GRN 0x02
      | (.waits f g, h) => h.stallJob c j (some (f, g))
      | (.ok, h) =>
        if h.jobReady c then
          let h := h.lineDone c m.frame m.line
          if m.line + 1 = k.height ∧ k.height = k.tl then h.frameDone c else h
        else h.parkJob c
    else if limit && (h.renderLimit c).lt (samplePosOf k m.frame m.line m.x) then h.parkJob c
    else
      match stop with
      | .none => h.parkJob c
      | .yield _ _ => h.yieldJob c j
      | .miss _ => h.stallJob c j none

/-- An error found in the job of cottage c on Loom j (R178, R179, R209, R242, R311); false when it ends the job. UC_FAULT needs a
word that raises it (R165). -/
def jobFlaw (h : Hw) (c j : Nat) (flaw : JobFlaw) : Bool × Hw :=
  let n := c / 256
  match flaw with
  | .none => (true, h)
  | .ucEccCorr w => (true, h.raiseParish 0 .LOM 0x01 n (detailOf .LOM [j, 0x01, w]))
  | .ucEcc w =>
    let h := (h.raiseParish 1 .LOM 0x02 n (detailOf .LOM [j, 0x02, w])).contain c
    (false, (h.setReg .LOM_STAT n j (BitVec.ofNat 64 (2 ^ 31 + 3 * 2 ^ 24 + 2 * 2 ^ 16))).picSync n)
  | .ucFault w =>
    if ucFaults (ucWord (((h.parish n).active.map (·.words)).getD []) w) then
      (false, h.containWith c .LOM 0x04 (detailOf .LOM [j, 0x04, w]))
    else (true, h)
  | .poison => (false, h.loomContain c j .LOM 0x05)
  | .tallyEcc => (false, h.loomContain c j .LOM 0x06)
  | .pcacheEcc a =>
    let lines := h.vramLines c (a, 1)
    (false, (h.cacheDrop c lines.contains).loomContain c j .LOM 0x07)
  | .lbEccCorr => (true, (h.count F.RLF_CNT_LBCORR_LBCORR n).raiseParish 0 .RLF 0x01 n (detailOf .RLF [j, 0x01, c]))
  | .lbEcc => (false, h.loomContain c j .RLF 0x02)
  | .vsrcPoison => (false, h.loomContain c j .RLF 0x03)
  | .refEcc i =>
    (true, (h.modPorch c fun p =>
      { p with changed := if p.changed.contains i then p.changed else p.changed ++ [i] }).raiseCot 0 .POR 0x01 c
        (detailOf .POR [(h.cot c).loom.line / 16, i]))
  | .mapEccCorr => (true, h.mapEccCorrected)
  | .mapEcc => (false, h.mapEccFatal)

/-- Works on the visible job of cottage c on Loom j, from where it stands. -/
def visibleWork (h : Hw) (c j : Nat) (stop : JobStop) (flaw : JobFlaw) : Hw :=
  match h.jobFlaw c j flaw with
  | (false, h) => h
  | (true, h) =>
    let limit := !h.jobReady c
    let (e, h) := h.workPixels c j stop limit
    h.jobLeft c j e stop limit

/-- Works on the blanking job: its entries, then the next frame; it parks while the beam is still in it, and may yield before
entry x. -/
def blankingWork (h : Hw) (c j : Nat) (stop : JobStop) (flaw : JobFlaw) : Hw :=
  match h.jobFlaw c j flaw with
  | (false, h) => h
  | (true, h) =>
    let m := (h.cot c).loom
    let after := fun (r : Applied × Hw) (go : Hw → Hw) =>
      match r with
      | (.exhausted, h) => h.loomContain c j .GRN 0x02
      | (.waits f g, h) => h.stallJob c j (some (f, g))
      | (.ok, h) => go h
    let finish := fun (h : Hw) => after (h.applyBefore c ⟨m.frame + 1, 0⟩) fun h =>
      if h.jobReady c then h.frameDone c else h.parkJob c
    match stop with
    | .yield x stalled => after (applyAll ((h.dueEntries c ⟨m.frame + 1, 0⟩).take x) h c false) fun h =>
      if h.yieldDue c j (16 + x + stalled) then h.yieldJob c j else finish h
    | _ => finish h

/-! ### The commands' effects -/

/-- Loom j takes the ready visible job of cottage c. Line 0 of a frame begins with the pending Plinth set and fresh
statistics (R138, R202). -/
def visibleJob (h : Hw) (c j : Nat) (stop : JobStop) (flaw : JobFlaw) : Hw :=
  let m := (h.cot c).loom
  if m.phase == .idle && decide (m.line < (h.cls c).height) && h.takesJob c j then
    let h := if m.line = 0 then
        (h.plinthApply c j m.frame).modRelief c fun r => { r with zoneSum := [], total := 0 }
      else h
    h.visibleWork c j stop flaw
  else h

/-- Loom j takes the ready blanking job of cottage c. -/
def blankingJob (h : Hw) (c j : Nat) (stop : JobStop) (flaw : JobFlaw) : Hw :=
  let m := (h.cot c).loom
  if m.phase == .idle && decide ((h.cls c).height ≤ m.line) && h.takesJob c j then h.blankingWork c j stop flaw
  else h

/-- Loom j resumes the parked or yielded job of cottage c (R139, R142). -/
def jobResume (h : Hw) (c j : Nat) (stop : JobStop) (flaw : JobFlaw) : Hw :=
  let m := (h.cot c).loom
  if (m.phase == .parked || m.phase == .yielded) && h.takesJob c j then
    if m.line < (h.cls c).height then h.visibleWork c j stop flaw else h.blankingWork c j stop flaw
  else h

/-- The fill or the granule that a stalled job of cottage c awaits returns, and its Loom continues (R141, R163, R198, R298). -/
def patternCacheFill (h : Hw) (c : Nat) (stop : JobStop) (flaw : JobFlaw) : Hw :=
  match (h.cot c).loom.phase with
  | .stalled j =>
    let h := h.each (if (h.cot c).loom.awaits.isNone then h.nextLines c else []) fun h line => h.cacheFill c j line
    let h := (h.modLoom c fun m => { m with phase := .idle, awaits := none }).loomShows c j false false
    if (h.cot c).loom.line < (h.cls c).height then h.visibleWork c j stop flaw else h.blankingWork c j stop flaw
  | _ => h

/-- Loom j, taking the job of cottage c, executes 64 control words of its active bank without a safe one (R167, R178). -/
def safeGap (h : Hw) (c j : Nat) (path : List Nat) : Hw :=
  let words := ((h.parish (c / 256)).active.map (·.words)).getD []
  if h.takesJob c j && path.length == 64 && unsafePath words path then h.loomContain c j .LOM 0x03 else h

/-! ### What reads await (R44, R45) -/

/-- Every pixel of the cottage with sample position at or before P is composed. -/
def composedTo (h : Hw) (c : Nat) (p : Stamp) : Bool :=
  let k := h.cls c
  let m := (h.cot c).loom
  let next := if m.line < k.height then
      (if m.x < k.width then samplePosOf k m.frame m.line m.x
        else if m.line + 1 < k.height then samplePosOf k m.frame (m.line + 1) 0 else samplePosOf k (m.frame + 1) 0 0)
    else samplePosOf k (m.frame + 1) 0 0
  p.lt next

/-- The condition of a beam wait: the Tally empty, and for collision results every pixel up to P composed. -/
def beamExact (h : Hw) (c : Nat) (pixels : Bool) : Bool :=
  (h.ctx c).tally.isEmpty && (!pixels || h.composedTo c (h.stamp c))

/-- Lines of frame F whose every sample position is at or before P (R45, R160). -/
def lineCount (h : Hw) (c : Nat) : Nat :=
  let k := h.cls c
  let s := h.stamp c
  let l := s.vc / k.vcpl
  min k.height (l + b2n (decide (k.hstart + (k.width - 1) * k.pixcyc / 16 ≤ s.vc % k.vcpl)))

/-- The frame's collision results as the program reads them (R158, R159): by IO address. -/
def collisionWord (h : Hw) (c a : Nat) : Word :=
  let m := (h.cot c).loom
  if a = 0xD040 then BitVec.ofNat 32 (h.lineCount c)
  else if m.frame ≠ (h.ctx c).frame then 0
  else if a = 0xD000 then BitVec.ofNat 32 m.coll
  else if a = 0xD004 then m.collPos
  else if a = 0xD008 then m.ovfPos
  else NTable.get 0 m.hits ((a - 0xD010) / 4)

end Sys2Proof.Machine.Hw

/-! ### The commands -/

namespace Sys2Proof.Machine

/-- VISIBLE_JOB (R138): Loom j takes cottage c's visible job, up to `stop`. -/
def execVisibleJob (c : Nat) (j : Nat) (stop : JobStop) (flaw : JobFlaw) (s : State) : Host.Outcome State Fault
    Refusal :=
  s.runLive fun h => h.visibleJob c j stop flaw

/-- BLANKING_JOB (R138): Loom j takes cottage c's blanking job. -/
def execBlankingJob (c : Nat) (j : Nat) (stop : JobStop) (s : State) (flaw : JobFlaw := .none) :
    Host.Outcome State Fault Refusal :=
  s.runLive fun h => h.blankingJob c j stop flaw

/-- JOB_RESUME (R139): Loom j resumes cottage c's parked or yielded job. -/
def execJobResume (c : Nat) (j : Nat) (stop : JobStop) (flaw : JobFlaw) (s : State) : Host.Outcome State Fault
    Refusal :=
  s.runLive fun h => h.jobResume c j stop flaw

/-- PATTERN_CACHE_FILL (R163): the fill that cottage c's stalled job awaits returns. -/
def execPatternCacheFill (c : Nat) (stop : JobStop) (flaw : JobFlaw) (s : State) : Host.Outcome State Fault Refusal :=
  s.runLive fun h => h.patternCacheFill c stop flaw

/-- SAFE_GAP (R167): 64 CCLK, with the words executed, without a safe word in cottage c's job on Loom j. -/
def execSafeGap (c : Nat) (j : Nat) (s : State) (path : List Nat := []) : Host.Outcome State Fault Refusal :=
  s.runLive fun h => h.safeGap c j path

end Sys2Proof.Machine
end

