-- ==== Sys2Proof/Machine/Chisel.lean ====
section
/-!
DEFINITION. The Chisel (R367 to R386): the checks of a START, cottage blits at their stamps, and privileged channels. -/

namespace Sys2Proof.Machine

namespace Hw

/-! ### Checks of a START (R370, R379) -/

/-- The rows of a rectangle of a surface, as first byte and length each: a base, pitch, and the columns X to X + W − 1 and
rows Y to Y + H − 1. -/
def rowRanges (base pitch bpp x y w rows : Nat) : List (Nat × Nat) :=
  (List.range rows).map fun j =>
    (base + (y + j) * pitch + x * bpp / 8, (x + w) * bpp / 8 - x * bpp / 8 + (if (x + w) * bpp % 8 = 0 then 0 else 1))

/-- The destination rectangle, or the line's bounding box: X, Y, W, H. -/
def blitArea (b : Blit) : Nat × Nat × Nat × Nat :=
  if b.op = 2 then
    (min b.dx b.ex, min b.dy b.ey, max b.dx b.ex + 1 - min b.dx b.ex, max b.dy b.ey + 1 - min b.dy b.ey)
  else (b.dx, b.dy, b.w, b.rows)

/-- The byte ranges of the destination. -/
def blitDst (b : Blit) : List (Nat × Nat) :=
  let (x, y, w, n) := blitArea b
  rowRanges b.dst.addr b.dpitch (chisBpp b.fmt) x y w n

/-- The byte ranges of a copy's source. -/
def blitSrc (b : Blit) : List (Nat × Nat) :=
  if b.op = 0 then rowRanges b.src.addr b.spitch (chisBpp b.fmt) b.sx b.sy b.w b.rows else []

/-- A range of a side lies within its space: RANGE otherwise. `hbm` says which module addresses the owner may name. -/
def rangeFits (h : Hw) (hbm : Nat → Nat → Bool) (s : Side) (r : Nat × Nat) : Bool :=
  match s with
  | .fabric a => decide (r.1 + r.2 ≤ (a / 2 ^ 46 + 1) * 2 ^ 46)
  | .bar2 o _ => h.commonsOk o 1 r.1 r.2
  | .cot _ _ => decide (r.1 + r.2 ≤ 2 ^ 28)
  | .vram c _ => decide (r.1 + r.2 ≤ (h.cls c).vramKib * 1024)
  | .hbm _ => hbm r.1 r.2

/-- The map kinds of a range of default space satisfy p; other spaces have none. -/
def rangeMapped (h : Hw) (p : Nat → Bool) (s : Side) (r : Nat × Nat) : Bool :=
  match s with
  | .cot c _ => h.rangeKinds c r.1 r.2 p
  | _ => true

/-- The result of the checks of R379 after BUSY: 0 if they pass. A line's rectangle is its bounding box; the rule on even X
and W is a copy's and a fill's. -/
def blitCheck (h : Hw) (hbm : Nat → Nat → Bool) (b : Blit) : Nat :=
  let unit := chisUnit b.fmt
  let vram := match b.dst with
    | .vram _ _ => true
    | _ => false
  let odd := b.fmt = 0 ∧ b.op ≠ 2 ∧ (b.dx % 2 ≠ 0 ∨ b.w % 2 ≠ 0 ∨ (b.op = 0 ∧ b.sx % 2 ≠ 0))
  let (x, _, w, _) := blitArea b
  let width := fun (x w : Nat) => (x + w) * chisBpp b.fmt / 8
  if b.op = 3 ∨ 5 ≤ b.fmt ∨ (b.op ≠ 2 ∧ (b.w = 0 ∨ b.rows = 0)) ∨ (vram = true ∧ ropReadsD b.rop = true) then 0x02
  else if b.dst.addr % unit ≠ 0 ∨ b.dpitch % unit ≠ 0 ∨ (b.op = 0 ∧ (b.src.addr % unit ≠ 0 ∨ b.spitch % unit ≠ 0)) ∨ odd then
    0x03
  else if b.dpitch < width x w ∨ (b.op = 0 ∧ b.spitch < width b.sx b.w) then 0x04
  else if !((blitSrc b).all (h.rangeFits hbm b.src) && (blitDst b).all (h.rangeFits hbm b.dst)) then 0x05
  else if !((blitSrc b).all (h.rangeMapped (fun k => k == 1 || k == 2) b.src) &&
      (blitDst b).all (h.rangeMapped (fun k => k == 1 || k == 2) b.dst)) then 0x06
  else if !(blitDst b).all (h.rangeMapped (fun k => k != 2) b.dst) then 0x07
  else 0

/-! ### Cottage transfers (R378 to R382) -/

/-- The IO addresses of the Chisel's cottage registers (R385). -/
def chiselWords : List Nat :=
  [0xC000, 0xC004, 0xC008, 0xC00C, 0xC010, 0xC014, 0xC018, 0xC01C, 0xC020, 0xC030, 0xC034, 0xC038, 0xC03C, 0xC040,
   0xC044, 0xC048, 0xC04C]

/-- A blit that has passed V is over (R352, R380). -/
def chiselSettle (h : Hw) (c : Nat) (st : Stamp) : Hw :=
  match (h.cot c).io.chisel with
  | some t => if t.done && t.v.le st then h.modIo c fun x => { x with chisel := none } else h
  | none => h

/-- CHS_C_CTL.BUSY at a stamp (R380). -/
def chiselBusy (h : Hw) (c : Nat) (st : Stamp) : Bool :=
  match (h.cot c).io.chisel with
  | some t => st.lt t.v
  | none => false

/-- The number of pixels that R380 counts. -/
def blitSize (b : Blit) : Nat :=
  if b.op = 2 then max (max b.dx b.ex - min b.dx b.ex) (max b.dy b.ey - min b.dy b.ey) + 1 else b.w * b.rows

/-- The normal channel of a cottage's core (R367). -/
def chiselOf (c : Nat) : Nat := c % 256 / 16 % 6

/-- A store to CHS_C_CTL with START = 1, at a stamp (R379). -/
def chiselStore (h : Hw) (c v : Nat) (st : Stamp) : Hw :=
  let h := h.chiselSettle c st
  let ctl := v &&& 0xFFE6
  let t : CotTransfer :=
    { regs := chiselWords.foldl (fun m a => NTable.set 0 m a (BitVec.ofNat 32 (h.ioWord c a)))
        (NTable.set 0 [] 0xC028 (BitVec.ofNat 32 ctl)),
      start := st, v := st, running := false, done := false, result := 0, awaits := none }
  let b := cotBlit c t
  let err := if h.chiselBusy c st then 0x01 else h.blitCheck (fun _ _ => false) b
  let h := h.setIoWord c 0xC028 (err * 2 ^ 16 + ctl)
  if err ≠ 0 then h
  else
    let k := h.cls c
    let v := st.vc + 16 + ceilDiv (blitSize b) 8
    let t := { t with v := if frameLen k ≤ v then ⟨st.frame + 1, 0⟩ else ⟨st.frame, v⟩ }
    let n := c / 256
    let i := chiselOf c
    let h := h.modIo c fun x => { x with chisel := some t }
    (h.setChiselCh n i { queue := (h.chiselCh n i).queue ++ [c] }).showChisel n i

/-- The CHISEL_START command: the store at the context's present stamp. -/
def chiselStart (h : Hw) (c : Nat) (v : Word) : Hw :=
  if (h.ctx c).st = .run ∧ bit v.toNat 0 then h.chiselStore c v.toNat (h.stamp c) else h

/-- A blit into video RAM takes effect (R381): it starts when every pixel sampled at or before V is composed and every entry
stamped before V applied, and no such entry can still come. -/
def vramBlitStart (h : Hw) (n i : Nat) : Hw :=
  match (h.chiselCh n i).queue with
  | [] => h
  | c :: _ =>
    match h.vramBlit c with
    | some t =>
      if h.composedTo c t.v && t.v.le (h.stamp c) && !(h.ctx c).tally.any (fun e => e.stamp.lt t.v) then
        (h.modIo c fun x => { x with chisel := some { t with running := true } }).showChisel n i
      else h
    | none => h

/-- A normal channel's read fails after it has worked on `pixels` pixels: the cottage is contained (R384). -/
def blitFails (h : Hw) (c pixels : Nat) (t : CotTransfer) : Hw :=
  let b := cotBlit c t
  let h := (blitPixels (b.points.take pixels) h b).2.blitEnded c
  h.containWith c .CHS 0x01 (detailOf .CHS [0x01, c])

/-- Normal channel i finishes its transfer in real time (R380, R382). -/
def chiselTransferDone (h : Hw) (n i : Nat) (ev : MapEvent) : Hw :=
  match (h.chiselCh n i).queue with
  | [] => h
  | c :: rest =>
    match (h.cot c).io.chisel with
    | none => h
    | some t =>
      if !h.blitMoves c t then h
      else h.mapFound ev fun h =>
        match h.blitRun (cotBlit c t) with
        | (.wait f g, h) =>
          h.modIo c fun x => { x with chisel := x.chisel.map fun t => { t with awaits := some (f, g) } }
        | (.ok, h) =>
          let h := h.modIo c fun x => { x with chisel := x.chisel.map fun t => { t with done := true, running := false } }
          let h := (h.setChiselCh n i { queue := rest }).showChisel n i
          (h.countWrap F.CHS_N_CNT_DONE n i).releaseTransfer c
        | (.poison _, h) => (h.blitEnded c).containWith c .CHS 0x01 (detailOf .CHS [0x01, c])
        | (e, h) => (h.blitEnded c).regFailed n c e

/-- A read of normal channel i ends badly after `pixels` pixels (R384). -/
def readFail (h : Hw) (n i pixels : Nat) (how : ReadEnd) (port : Nat) : Hw :=
  match (h.chiselCh n i).queue with
  | [] => h
  | c :: _ =>
    match (h.cot c).io.chisel with
    | none => h
    | some t => if how = .ok ∨ !h.blitMoves c t then h else (h.aerRead port how).blitFails c pixels t

/-! ### Privileged channels (R383) -/

/-- The operation of privileged channel m of parish n. -/
def privBlit (h : Hw) (n m : Nat) : Option Blit := NTable.get none (h.parish n).privChisel m
/-- Replaces it. -/
def setPrivBlit (h : Hw) (n m : Nat) (x : Option Blit) : Hw :=
  h.modParish n fun p => { p with privChisel := NTable.set none p.privChisel m x }

/-- Reeve firmware owns privileged channel m (R386). -/
def chisReeve (h : Hw) (n m : Nat) : Bool := h.flag F.CHS_P_OWN_REEVE n m

/-- The function in whose spaces the channel works: its owner, or the PA PF for Reeve firmware (R383). -/
def chisOwner (h : Hw) (n m : Nat) : Nat := if h.chisReeve n m then 0 else 129 * h.fld F.CHS_P_OWN_PORT n m

/-- A record of a privileged channel. -/
def chisRecord (h : Hw) (sev cause n m : Nat) : Hw :=
  let o := h.chisOwner n m
  let d := detailOf .CHS [cause, n, m, h.fld F.CHS_P_STAT_ERR n m]
  if h.chisReeve n m then h.raise sev 3 .CHS cause (chanIndex 10 o (2 * n + m)) (some n) bothPfs d
  else h.raiseChan sev .CHS cause 10 o (2 * n + m) (some n) d

/-- The event of a completion or refusal, for a PF owner (R383). -/
def chisEvent (h : Hw) (n m : Nat) : Hw :=
  if h.chisReeve n m then h else h.event (h.chisOwner n m) (h.fld F.CHS_P_CFG_VEC n m)

/-- Where a privileged address lies (R383); none for a reserved SPACE, or a cottage that the owner does not reach. -/
def chisSide (h : Hw) (n m v : Nat) : Option Side :=
  let o := h.chisOwner n m
  let c := bits v 59 48
  match bits v 63 60 with
  | 0 => some (.fabric (portBase (o / 129) + bits v 45 0))
  | 1 => some (.bar2 o (bits v 45 0))
  | 2 => if h.ownerOf c = some o then some (.cot c (bits v 27 0)) else none
  | 3 => if (h.chisReeve n m && (h.ownerOf c).isSome) || h.cotOnPort c (o / 129) then some (.vram c (bits v 19 0)) else none
  | 4 => some (.hbm (bits v 47 0))
  | _ => none

/-- HBM bytes that the owner may name: any for Reeve firmware, frames of the PF otherwise (R383). -/
def chisHbm (h : Hw) (n m a len : Nat) : Bool :=
  decide (a + len ≤ 2 ^ 36) &&
    (h.chisReeve n m || (List.range ((a + len - 1) / 0x100000 - a / 0x100000 + 1)).all fun k =>
      let e := h.frame (a / 0x100000 + k)
      e.state != .free && e.owner == h.chisOwner n m)

/-- The registers of the channel as R379 latches them, in the order of R376. -/
def privLatch (h : Hw) (n m : Nat) (src dst : Side) : Blit :=
  let word := fun (x : RegName) (j : Nat) => (h.reg x n j).toNat
  let r := fun a =>
    match a with
    | 0x08 => word .CHS_P_PITCH m
    | 0x0C => word .CHS_P_SPOS m
    | 0x10 => word .CHS_P_DPOS m
    | 0x14 => word .CHS_P_SIZE m
    | 0x18 => word .CHS_P_END m
    | 0x1C => word .CHS_P_COLOR m
    | 0x20 => word .CHS_P_KEY m
    | _ => if a % 8 = 0 then word .CHS_P_CLIP0 (4 * m + (a - 0x30) / 8) else word .CHS_P_CLIP1 (4 * m + (a - 0x34) / 8)
  let b := blitOf r (word .CHS_P_CTL m) src dst false false
  let first := fun (base pitch x y : Nat) => base + y * pitch + x * chisBpp b.fmt / 8
  let above := decide (first b.src.addr b.spitch b.sx b.sy < first b.dst.addr b.dpitch b.dx b.dy)
  { b with up := above, left := above }

/-- A write of CHS_P_CTL. -/
def chisCtlWrite (h : Hw) (ag : Agent) (n m v : Nat) : Hw :=
  let idle := h.fld F.CHS_P_STAT_STATE n m == 0
  h.guarded ag .CHS_P_CTL n m v (!bit v 0 || idle) fun h =>
    let h := h.storeFields .CHS_P_CTL n m v
    if !bit v 0 then h
    else
      let op := bits v 2 1
      let src := if op = 0 then h.chisSide n m (h.reg .CHS_P_SRC n m).toNat else some (.fabric 0)
      let err := match src, h.chisSide n m (h.reg .CHS_P_DST n m).toNat with
        | some s, some d => h.blitCheck (h.chisHbm n m) (h.privLatch n m s d)
        | _, _ => 0x05
      let h := h.setFld F.CHS_P_STAT_ERR n m err
      match err, src, h.chisSide n m (h.reg .CHS_P_DST n m).toNat with
      | 0, some s, some d => (h.setPrivBlit n m (some (h.privLatch n m s d))).setFld F.CHS_P_STAT_STATE n m 1
      | _, _, _ => (h.chisRecord 0 0x03 n m).chisEvent n m

def privilegedStart (h : Hw) (ag : Agent) (n m : Nat) (v : Word) : Hw := h.chisCtlWrite ag n m (v.toNat ||| 1)

/-- The channel is idle again, with a result. -/
def chisEnds (h : Hw) (n m err : Nat) : Hw :=
  ((h.setPrivBlit n m none).setFld F.CHS_P_STAT_STATE n m 0).setFld F.CHS_P_STAT_ERR n m err

/-- A privileged channel is stopped part done: as many of its bursts as happen to be done are written (R456). -/
def privPart (h : Hw) (n m : Nat) : Hw :=
  match h.privBlit n m with
  | none => h
  | some b =>
    let (v, h) := h.draw
    let l := bursts (max 1 (2048 / chisBpp b.fmt)) b.points
    (blitBursts (l.take (v.toNat % (l.length + 1))) h b).2

/-- A read of a privileged channel has failed (R384). -/
def privFails (h : Hw) (n m : Nat) : Hw := ((h.chisEnds n m 0x08).chisRecord 1 0x02 n m).chisEvent n m

/-- Privileged channel m completes. An access that the cottage's map or the Granary refuses ends it as a failed read does;
an exhausted copy contains the cottage (R298). -/
def privilegedDone (h : Hw) (n m : Nat) (ev : MapEvent) : Hw :=
  match h.privBlit n m with
  | none => h
  | some b =>
    if !h.sideIssues (h.chisOwner n m) b.src || !h.sideIssues (h.chisOwner n m) b.dst then h
    else h.mapFound ev fun h =>
    match h.blitRun b with
    | (.ok, h) => (h.chisEnds n m 0).chisEvent n m
    | (.wait _ _, h) => h
    | (.contain c k, h) => (if k = 0x02 then h.containGrn c k (detailOf .GRN [k, c]) else h).privFails n m
    | (_, h) => h.privFails n m

/-- A read of privileged channel m ends badly after `pixels` pixels. -/
def pReadFail (h : Hw) (n m pixels : Nat) (how : ReadEnd) (port : Nat) : Hw :=
  match h.privBlit n m with
  | none => h
  | some b =>
    if how = .ok then h
    else ((blitPixels (b.points.take pixels) (h.aerRead port how) b).2).privFails n m

/-- A write of CHS_P_OWN: by a PF or Reeve firmware, and a change only while the channel is idle (R367). -/
def chisOwnWrite (h : Hw) (ag : Agent) (n m v : Nat) : Hw :=
  let moved := bits v 9 8 != bits (h.reg .CHS_P_OWN n m).toNat 9 8
  h.guarded ag .CHS_P_OWN n m v (!moved || h.fld F.CHS_P_STAT_STATE n m == 0) fun h => h.storeFields .CHS_P_OWN n m v

end Hw

end Sys2Proof.Machine

/-! ### The commands -/

namespace Sys2Proof.Machine

/-- CHISEL_START (R379): cottage c stores v, with START, to CHS_C_CTL. -/
def execChiselStart (c : Nat) (v : Word) (s : State) : Host.Outcome State Fault Refusal :=
  s.runLive fun h => h.chiselStart c v

/-- VRAM_BLIT_START (R381): the VRAM-destination blit at the head of normal channel i of parish n takes effect. -/
def execVramBlitStart (n : Nat) (i : Nat) (s : State) : Host.Outcome State Fault Refusal :=
  s.runLive fun h => h.vramBlitStart n i

/-- CHISEL_TRANSFER_DONE (R380): normal channel i of parish n finishes its transfer. -/
def execChiselTransferDone (n : Nat) (i : Nat) (s : State) (ev : MapEvent := .sound) : Host.Outcome State Fault Refusal :=
  s.runLive fun h => h.chiselTransferDone n i ev

/-- PRIVILEGED_START (R383): a write of START to CHS_P_CTL of privileged channel m of parish n. -/
def execPrivilegedStart (ag : Agent) (n : Nat) (m : Nat) (v : Word) (s : State) : Host.Outcome State Fault Refusal :=
  s.runLive fun h => h.privilegedStart ag n m v

/-- PRIVILEGED_DONE (R383): privileged channel m of parish n completes. -/
def execPrivilegedDone (n : Nat) (m : Nat) (s : State) (ev : MapEvent := .sound) : Host.Outcome State Fault Refusal :=
  s.runLive fun h => h.privilegedDone n m ev

/-- READ_FAIL (R384): a read of normal channel i of parish n fails, after `pixels` pixels. -/
def execReadFail (n : Nat) (i : Nat) (pixels : Nat) (how : ReadEnd) (port : Nat) (s : State) : Host.Outcome State
    Fault Refusal :=
  s.runLive fun h => h.readFail n i pixels how port

/-- P_READ_FAIL (R384): a read of privileged channel m of parish n fails, after `pixels` pixels. -/
def execPReadFail (n : Nat) (m : Nat) (pixels : Nat) (how : ReadEnd) (port : Nat) (s : State) : Host.Outcome
    State Fault Refusal :=
  s.runLive fun h => h.pReadFail n m pixels how port

end Sys2Proof.Machine
end

