-- ==== Sys2Proof/Machine/Hayloft.lean ====
section
/-!
DEFINITION. The Hayloft (R299 to R307): captures, restores, snapshots, and their images. -/

namespace Sys2Proof.Machine.Hw

/-! ### Slabs and snapshots (R299, R302) -/

/-- A snapshot of cottage c, by slot. -/
def snap (h : Hw) (c k : Nat) : Option Snapshot := ((h.cot c).snaps.getD k none)

/-- Replaces it. -/
def setSnap (h : Hw) (c k : Nat) (x : Option Snapshot) : Hw :=
  h.setCot c { h.cot c with snaps := (h.cot c).snaps.set k x }

/-- A state slab for owner o: a free one of its slab frames, or the first of a new frame (R299, R300). -/
def allocSlab (h : Hw) (o : Nat) : Option (Nat × Nat) × Hw :=
  match h.gran.slabs.find? fun s => s.owner == o && decide (s.used.length < 16) with
  | some s =>
    let i := ((List.range 16).find? fun i => !s.used.contains i).getD 0
    (some (s.frame, i), { h with gran := { h.gran with slabs := h.gran.slabs.map fun t =>
      if t.frame = s.frame then { t with used := t.used ++ [i] } else t } })
  | none =>
    match h.allocFrame o privFrame with
    | (none, h) => (none, h)
    | (some f, h) => (some (f, 0), { h with gran := { h.gran with slabs := h.gran.slabs ++ [⟨f, o, [0]⟩] } })

/-- Frees a slab, and its frame with the last one. -/
def freeSlab (h : Hw) (b : Nat × Nat) : Hw :=
  let left := h.gran.slabs.map fun t => if t.frame = b.1 then { t with used := t.used.filter (· ≠ b.2) } else t
  let gone := left.any fun t => t.frame == b.1 && t.used.isEmpty
  let h : Hw := { h with gran := { h.gran with slabs := left.filter fun t => !t.used.isEmpty } }
  if gone then h.dropRef b.1 true else h

/-- The frames that a snapshot's map names. -/
def snapFrames (s : Snapshot) : List Nat :=
  (s.map.map (·.2) ++ [s.vram]).filterMap fun w => if bit w.toNat 2 then some (bits w.toNat 35 20) else none

/-- A snapshot is dropped: its references go, its slab is freed (R302). -/
def dropSnap (h : Hw) (c k : Nat) : Hw :=
  match h.snap c k with
  | none => h
  | some s => (((h.setSnap c k none).each (snapFrames s) fun h f => h.dropRef f false)).freeSlab s.slab

/-- Every snapshot of cottage c is dropped (R289, R302). -/
def dropSnaps (h : Hw) (c : Nat) : Hw := h.each (List.range 8) fun h k => h.dropSnap c k

/-- Releases the frames of every map entry, the video RAM frame and the snapshots of cottage c (R289). -/
def releaseCottage (h : Hw) (c : Nat) : Hw :=
  let h := h.dropSnaps c
  let h := h.each (List.range 256) fun h e =>
    match h.cmapFrame c e with
    | some f => (h.setCmapFrame c e none).dropRef f true
    | none => h
  match h.vramFrame c with
  | some f => (h.setVramFrame c none).dropRef f true
  | none => h

/-! ### Capture (R300) -/

/-- The cottage's channel transfer is over: none, or one whose V has been reached (R352, R380). -/
def transferIdle (h : Hw) (c : Nat) (t : Option CotTransfer) : Bool :=
  match t with
  | none => true
  | some x => x.done && x.v.le (h.stamp c)

/-- The conditions of R251 and R300: every voice sample before the capture stamp is generated, Carter and Chisel
channels are idle. -/
def captureReady (h : Hw) (c : Nat) : Bool :=
  let x := h.ctx c
  let s := (h.cot c).choir
  ((h.cls c).vspl == 0 || decide (x.frame ≤ s.frame)) && s.stalled.isNone &&
    h.transferIdle c (h.cot c).io.carter && h.transferIdle c (h.cot c).io.chisel

/-- The journal's entries take effect: none is left at a capture (R251). -/
def drainJournal (h : Hw) (c : Nat) : Hw :=
  let k := h.cls c
  (h.modChoir c fun s => { s.journal.foldl (ChoirState.applyEntry k) s with journal := [] }).setFld
    F.CHR_VSTAT_JFILL c 0 0

/-- The context leaves SNAP, which it entered from `was`: for OFF, for THOLD, or on if its Bell has passed (R34, R300). -/
def leaveSnap (h : Hw) (c : Nat) (was : CotState) : Hw :=
  if was = .off then h.setSt c .off
  else if h.bellPassed c (h.ctx c).frame ∧ ¬ (h.ctx c).restored then h.tickOver c
  else h.toThold c

/-- The context enters SNAP for what is done there, and leaves it (R34, R300, R301). -/
def inSnap (h : Hw) (c : Nat) (act : Hw → Hw) : Hw := (act (h.setSt c .snap)).leaveSnap c (h.ctx c).st

/-- What a capture copies (R299). -/
def takeSnapshot (h : Hw) (c : Nat) (slab : Nat × Nat) : Snapshot :=
  let x := h.ctx c
  let l := (h.cot c).loom
  let s := (h.cot c).choir
  let io := (h.cot c).io
  let n := c / 256
  { frame := x.frame, vc := x.vc, hob := x.hob, vreg := l.vreg, pal := l.pal, tally := x.tally,
    nextSeq := x.nextSeq, audio := ⟨s.shown, s.vreg, s.voices⟩,
    cottage := ⟨x.ports, x.inSeq, { io with carter := none, chisel := none },
      h.fld F.COT_CTL_PUB c⟩,
    map := (List.range 256).filterMap fun e =>
      let w := h.cmap c e
      if bits w 1 0 = 0 then none
      else some (e, BitVec.ofNat 64 (if bits w 1 0 = 1 then w else setBits (setBits w 35 20 0) 2 2 0)),
    vram := h.reg .GRN_CVRAM n (c % 256), slab := slab, ucver := h.reg .LOM_UC_VER n,
    patch := h.fld F.LOM_UC_PATCH_LEVEL n, booting := x.booting }

/-- A capture into slot k (R300 steps 1 to 6). The transfers that have ended at their V show their results (R352). -/
def captureNow (h : Hw) (c k : Nat) : Hw :=
  h.inSnap c fun h =>
    match h.allocSlab ((h.ownerOf c).getD 0) with
    | (none, h) => h.hayDone c 0x03 true
    | (some slab, h) =>
      let h := (h.drainJournal c).carterSettle c (h.stamp c)
      let s := h.takeSnapshot c slab
      let h := h.each (snapFrames s) fun h f => h.addRef f false
      ((h.dropSnap c k).setSnap c k (some s)).hayDone c 0x00 true

/-- The capture point of cottage c's CAPTURE: it is taken once its conditions hold and those of its parish that came before it are
done (R300). -/
def capturePoint (h : Hw) (c : Nat) (ev : MapEvent) : Hw :=
  match (h.cot c).hay with
  | some k =>
    let st := (h.ctx c).st
    if k.op = 1 ∧ h.hayHolds c ∧ (st = .off ∨ st = .thold) ∧ h.captureReady c ∧
        (h.parish (c / 256)).captures.head? = some c then
      h.mapFound ev fun h => h.captureNow c k.slot
    else h
  | none => h

/-! ### Restore (R301) -/

/-- The live references of cottage c become the snapshot's (R301 step 2). -/
def restoreMap (h : Hw) (c : Nat) (s : Snapshot) : Hw :=
  let n := c / 256
  let old := ((List.range 256).filterMap (h.cmapFrame c)) ++ (h.vramFrame c).toList
  let h := h.each (snapFrames s) fun h f => h.addRef f true
  let h := h.each (List.range 256) fun h e =>
    h.setReg .GRN_CMAP n (c % 256 * 256 + e) (((s.map.find? fun m => m.1 == e).map (·.2)).getD 0)
  let h := h.setReg .GRN_CVRAM n (c % 256) s.vram
  h.each old fun h f => h.dropRef f true

/-- The snapshot's processor, video, audio and cottage state (R301 steps 3 and 4); prediction tables are empty (R92) and
so is the input queue (R51). `started` says that the cottage was not OFF: it begins the snapshot's frame at its next Bell. -/
def restoreState (h : Hw) (c : Nat) (s : Snapshot) (started : Bool) : Hw :=
  let x := h.ctx c
  let h := h.setCtx c { x with
    frame := s.frame, vc := s.vc, beamWas := if x.restored then x.beamWas else x.frame,
    restored := x.admitted || started, issued := none,
    hob := { s.hob with dirTable := [], indTable := [], hist := 0 },
    tally := s.tally, nextSeq := s.nextSeq, inq := [], lastApplied := none, ports := s.cottage.ports,
    inSeq := s.cottage.inSeq, wait := .none, held := none, booting := s.booting }
  let h := h.modLoom c fun l =>
    { LoomState.reset with frame := s.frame, vreg := s.vreg, pal := s.pal, framePal := l.framePal,
                           vreason := l.vreason, coll := 0 }
  let h := h.modChoir c fun t =>
    { t with shown := s.audio.shown, vreg := s.audio.vreg, voices := s.audio.voices, journal := [], stalled := none,
             awaits := none, bridge := [], presented := none, frame := s.frame, sample := 0 }
  let h := h.setFld F.CHR_VSTAT_JFILL c 0 0
  let h := h.modIo c fun _ => s.cottage.io
  let h := (h.setFld F.COT_CTL_PUB c 0 s.cottage.pub).setFld F.COT_IN_STAT_LEVEL c 0 0
  h.audioDisc c

/-- RESTORE of slot k, its waits over (R301 steps 2 to 4); a write of its Tally entries that exhausts copy-on-write contains the
cottage (R298). -/
def restoreNow (h : Hw) (c k : Nat) : Hw :=
  match h.snap c k with
  | none =>
    let h := h.hayDone c 0x02 true
    if (h.ctx c).st = .thold then h.leaveSnap c .thold else h
  | some s =>
    let (done, g) := applyAll s.tally (((h.setSt c .snap).cacheForget c).restoreMap c s |>.restoreState c s ((h.ctx c).st ≠ .off)) c true
    let g := (g.hayDone c 0x00 true).leaveSnap c (h.ctx c).st
    if done = .ok then g else g.containGrn c 0x02 (detailOf .GRN [0x02, c])

/-- The Looms have finished every job of the cottage, and the Choir every voice sample (R301 step 1); a contained cottage
has none. -/
def restoreReady (h : Hw) (c : Nat) : Bool :=
  let x := h.ctx c
  x.st == .cont || x.frame == 0 || h.rendered c (x.frame - 1)

/-- RESTORE is taken; with `ecc`, the snapshot's state is uncorrectable: it is dropped, and RESTORE completes with EMPTY
(R311). -/
def restoreTaken (h : Hw) (c : Nat) (ecc : Bool) (ev : MapEvent) : Hw :=
  match (h.cot c).hay with
  | some k =>
    let st := (h.ctx c).st
    if k.op = 2 ∧ h.hayHolds c ∧ (st = .off ∨ st = .thold ∨ st = .cont) ∧ h.restoreReady c then
      h.mapFound ev fun h =>
        if ecc && (h.snap c k.slot).isSome then
          ((h.raiseCot 0 .HAY 0x07 c (detailOf .HAY [0x07, c, k.slot])).dropSnap c k.slot).restoreNow c k.slot
        else h.restoreNow c k.slot
    else h
  | none => h

/-! ### Images (R303 to R305) -/

/-- A list of words as bytes. -/
def wordBytes (l : List Nat) : List Byte := l.flatMap (leBytes 4)

/-- Pads to a multiple of 16 bytes. -/
def pad16 (l : List Byte) : List Byte := l ++ List.replicate ((16 - l.length % 16) % 16) 0

/-- A section: header and padded body (R304). -/
def sectionOf (type index : Nat) (body : List Byte) : List Byte :=
  leBytes 2 type ++ leBytes 2 0 ++ leBytes 4 index ++ leBytes 8 body.length ++ pad16 body

/-- The number of a pending write's target (R304). -/
def targetCode : Target → Nat
  | .g n => n.toNat
  | .fl => 16
  | .sp => 17

/-- What a target holds. -/
def targetValue (x : Hob) : Target → Word
  | .g n => x.g[n.toNat]
  | .fl => x.fl
  | .sp => x.sp

/-- Each pending write with the whole value that its target would hold after it and those before it (log entry 31). -/
def pendingValues : Hob → List PendingWrite → List (Nat × Nat × Nat)
  | _, [] => []
  | x, w :: ws =>
    let y := Hob.landOne x w
    (targetCode w.target, w.dist, (targetValue y w.target).toNat) :: pendingValues y ws

/-- The CPU section's body (R304). -/
def cpuBody (x : Hob) : List Byte :=
  wordBytes ((x.g.toList.map (·.toNat)) ++ [x.sp.toNat, x.pc.toNat, x.fl.toNat, b2n x.barred]) ++
    (pendingValues x x.queue).flatMap fun (t, d, v) => leBytes 1 t ++ leBytes 1 d ++ leBytes 2 0 ++ leBytes 4 v

/-- A Tally entry as its 16 bytes (R37). -/
def tallyBytes (k : ClassRec) (e : TallyEntry) : List Byte :=
  let kind := match e.kind with
    | .videoReg => 0 | .palette => 1 | .vramWord => 2 | .vramBytes => 3 | .marker => 4
  leBytes 16 (stampBits k e.stamp + kind * 2 ^ 24 + e.addr % 2 ^ 20 * 2 ^ 28 + e.mask.toNat * 2 ^ 48 +
    e.seq % 4096 * 2 ^ 52 + e.value.toNat * 2 ^ 64)

/-- A megabyte of frame f, resolved along its chain (R304). -/
def frameData (h : Hw) (f : Nat) : List Byte := (List.range 0x100000).map fun i => h.rb (h.frameAddr f i)

/-- A whole number as 8 bytes. -/
def intBytes (l : List Int) : List Byte := l.flatMap fun v => leBytes 8 (v % 2 ^ 64).toNat

/-- Whole number i of 8-byte ones. -/
def intAt (l : List Byte) (i : Nat) : Int :=
  let v := fromLe ((l.drop (8 * i)).take 8)
  if v < 2 ^ 63 then v else (v : Int) - 2 ^ 64

/-- What a voice holds, in an image's AUDIO section (log entry 30). -/
def voiceInts (v : Voice) : List Int :=
  [b2n v.sounding, b2n v.keyed, b2n v.ended, v.ph.toNat, (v.opPh.getD 0 0).toNat, (v.opPh.getD 1 0).toNat,
   (v.opPh.getD 2 0).toNat, (v.opPh.getD 3 0).toNat, v.lastOp0, v.lfsr, v.pos, v.decoded, v.pred, v.stepIx,
   b2n v.loopState.isSome, (v.loopState.getD (0, 0)).1, (v.loopState.getD (0, 0)).2, v.el, v.er, v.startL, v.startR,
   v.tgtL, v.tgtR, v.rampK, v.rampN]

/-- The voice that the values from number i on of an AUDIO section give. -/
def voiceOf (l : List Byte) (i : Nat) : Voice :=
  let v := fun k => intAt l (i + k)
  let n := fun k => (v k).toNat
  let w := fun k => BitVec.ofInt 32 (v k)
  { sounding := v 0 ≠ 0, keyed := v 1 ≠ 0, ended := v 2 ≠ 0, ph := w 3, opPh := [w 4, w 5, w 6, w 7], lastOp0 := v 8,
    lfsr := n 9, pos := n 10, decoded := n 11, pred := v 12, stepIx := v 13,
    loopState := if v 14 = 0 then none else some (v 15, v 16), el := v 17, er := v 18, startL := v 19, startR := v 20,
    tgtL := v 21, tgtR := v 22, rampK := n 23, rampN := n 24 }

/-- The AUDIO section's body: the voice registers as the program sees them and as they are in force, then the 32 voices (R251, log
entry 30). -/
def audioBody (a : AudioPart) : List Byte :=
  let words := fun (t : NTable Word) => wordBytes ((List.range 1024).map fun i => (NTable.get 0 t (4 * i)).toNat)
  words a.shown ++ words a.vreg ++
    intBytes ((List.range 32).flatMap fun v => voiceInts (NTable.get Voice.reset a.voices v))

/-- A list of pairs with its length before it. -/
def pairInts (l : List (Nat × Nat)) : List Int := (l.length : Int) :: l.flatMap fun p => [(p.1 : Int), (p.2 : Int)]

/-- The COTTAGE section's body (R299, log entry 30). -/
def cottageBody (x : CottagePart) : List Byte :=
  let io := x.io
  let at_ := io.ovrAt.getD (⟨0, 0⟩, 0)
  intBytes (x.ports.toList.map (fun w => (w.toNat : Int)) ++
    [(x.inSeq : Int), x.pub, io.pend.toNat, io.act.toNat, io.ovr.toNat, io.carterRes.toNat, b2n io.ovrAt.isSome,
      at_.1.frame, at_.1.vc, at_.2.toNat] ++
    (List.range 4).flatMap (fun k =>
      let t := io.timers.getD k ⟨none, 1⟩
      [(b2n t.next.isSome : Int), t.next.getD 0, t.per]) ++
    pairInts (io.late.map fun s => (s.frame, s.vc)) ++ pairInts (io.words.map fun e => (e.1, e.2.toNat)))

/-- The sections of a snapshot's image, in the order of their types; a private entry without a frame holds zeros (R304, R528). -/
def imageSections (h : Hw) (c : Nat) (s : Snapshot) : List (List Byte) :=
  let k := h.cls c
  let word := fun (t : NTable Word) (i : Nat) => (NTable.get 0 t (4 * i)).toNat
  let bare := fun (w : DWord) => setBits (setBits w.toNat 35 20 0) 2 2 0
  let bytes := fun (w : DWord) =>
    if bit w.toNat 2 then h.frameData (bits w.toNat 35 20) else List.replicate 0x100000 0
  let data := ((s.map.filter fun (e : Nat × DWord) => bits e.2.toNat 1 0 == 1) ++ [(0x100, s.vram)]).map
    fun (e : Nat × DWord) => sectionOf 0x11 e.1 (bytes e.2)
  [sectionOf 0x01 0 (cpuBody s.hob),
   sectionOf 0x02 0 (wordBytes ((List.range 4096).map (word s.vreg)) ++
     wordBytes ((List.range 4096).map (NTable.get 0 s.pal))),
   sectionOf 0x03 0 (wordBytes [s.nextSeq, s.tally.length] ++ s.tally.flatMap (tallyBytes k)),
   sectionOf 0x04 0 (audioBody s.audio), sectionOf 0x05 0 (cottageBody s.cottage),
   sectionOf 0x10 0 ((List.range 256).flatMap (fun e =>
     leBytes 8 (((s.map.find? fun m => m.1 == e).map fun m => bare m.2).getD 0)) ++ leBytes 8 0)] ++ data

/-- A snapshot's image (R304). -/
def imageOf (h : Hw) (c : Nat) (s : Snapshot) : List Byte :=
  let k := h.cls c
  let parts := h.imageSections c s
  let body := parts.flatten
  leBytes 4 0x59414C48 ++ leBytes 2 1 ++ leBytes 1 k.id ++ leBytes 1 0 ++ leBytes 8 (128 + body.length) ++
    leBytes 4 s.frame ++ leBytes 2 parts.length ++ leBytes 2 s.patch ++ leBytes 8 s.ucver.toNat ++
    digestBytes (Crypto.sha384 k.body) ++ digestBytes (Crypto.sha384 body) ++ body

/-- Cuts a byte list into its sections: type, index, body. None if it does not come out even. -/
def cutSections : Nat → List Byte → Option (List (Nat × Nat × List Byte))
  | 0, l => if l.isEmpty then some [] else none
  | n + 1, l =>
    if l.length < 16 then none
    else
      let len := fromLe ((l.drop 8).take 8)
      let full := ceilDiv len 16 * 16
      if l.length < 16 + full then none
      else (cutSections n (l.drop (16 + full))).map fun r =>
        (fromLe (l.take 2), fromLe ((l.drop 4).take 4), (l.drop 16).take len) :: r

/-- Word i of a byte list. -/
def wordAt (l : List Byte) (i : Nat) : Nat := fromLe ((l.drop (4 * i)).take 4)

/-- A table of n words, by byte address, from word i of a body. -/
def tableAt (l : List Byte) (i n step : Nat) : NTable Word :=
  (List.range n).foldl (fun t k => NTable.set 0 t (step * k) (BitVec.ofNat 32 (wordAt l (i + k)))) []

/-- The processor part of an image. -/
def cpuOf (l : List Byte) : Hob :=
  let w := fun i => BitVec.ofNat 32 (wordAt l i)
  let q := (List.range ((l.length - 80) / 8)).map fun k =>
    let b := (l.drop (80 + 8 * k)).take 8
    let t := fromLe (b.take 1)
    { target := if t = 16 then Target.fl else if t = 17 then Target.sp else .g (BitVec.ofNat 4 t),
      dist := fromLe ((b.drop 1).take 1), mask := if t = 16 then 0x9F else BitVec.allOnes 32,
      value := BitVec.ofNat 32 (fromLe (b.drop 4)), orBits := 0 : PendingWrite }
  { Hob.reset with g := Vector.ofFn fun i => w i.val, sp := w 16, pc := w 17, fl := w 18 &&& 0x9F,
                   barred := wordAt l 19 ≠ 0, queue := q }

/-- The AUDIO part of an image. -/
def audioOf (l : List Byte) : AudioPart :=
  { shown := tableAt l 0 1024 4, vreg := tableAt l 1024 1024 4,
    voices := (List.range 32).foldl (fun t v => NTable.set Voice.reset t v (voiceOf l (1024 + 25 * v))) [] }

/-- The pairs whose count is value i of a list of 8-byte ones. -/
def pairsAt (l : List Byte) (i : Nat) : List (Nat × Nat) :=
  (List.range (intAt l i).toNat).map fun k => ((intAt l (i + 1 + 2 * k)).toNat, (intAt l (i + 2 + 2 * k)).toNat)

/-- The COTTAGE part of an image. -/
def cottageOf (l : List Byte) : CottagePart :=
  let n := fun i => (intAt l i).toNat
  let w := fun i => BitVec.ofNat 32 (n i)
  let late := pairsAt l 38
  { ports := Vector.ofFn fun i => w i.val, inSeq := n 16, pub := n 17,
    io := { CotIo.reset with
      pend := w 18, act := w 19, ovr := w 20, carterRes := w 21,
      ovrAt := if n 22 = 0 then none else some (⟨n 23, n 24⟩, w 25),
      timers := (List.range 4).map fun k =>
        ⟨if n (26 + 3 * k) = 0 then none else some (n (27 + 3 * k)), n (28 + 3 * k)⟩,
      late := late.map fun p => ⟨p.1, p.2⟩,
      words := (pairsAt l (39 + 2 * late.length)).foldl (fun t p => NTable.set 0 t p.1 (BitVec.ofNat 32 p.2)) [] } }

/-- A pending Tally entry of an image; its frame is the one of the two before F with its parity. -/
def tallyOf (k : ClassRec) (f : Nat) (l : List Byte) : TallyEntry :=
  let v := fromLe l
  let par := bits v 22 22
  let frame := if (f - 1) % 2 = par then f - 1 else f - 2
  { value := BitVec.ofNat 32 (v / 2 ^ 64), seq := bits v 63 52, mask := BitVec.ofNat 4 (bits v 51 48),
    addr := bits v 47 28,
    kind := (match bits v 27 24 with
      | 0 => .videoReg | 1 => .palette | 2 => .vramWord | 3 => .vramBytes | _ => .marker),
    stamp := ⟨frame, bits v 21 12 * k.vcpl + bits v 11 0⟩ }

/-- Frames for the DATA sections, each with its content, held by a snapshot reference only; where the quota ends, those taken are
freed again. -/
def importFrames : List (Nat × List Byte) → Hw → Nat → Option (List (Nat × Nat)) × Hw
  | [], h, _ => (some [], h)
  | (e, body) :: l, h, o =>
    match h.allocFrame o { privFrame with live := 0, ref := false, state := .cow } with
    | (none, h) => (none, h)
    | (some f, h) =>
      match importFrames l (h.wbs (frameBase f) body) o with
      | (some r, h) => (some ((e, f) :: r), h)
      | (none, h) => (none, h.dropRef f false)

/-- The snapshot that an image's sections give, its frames taken. -/
def snapshotOf (h : Hw) (c : Nat) (img : List Byte) (secs : List (Nat × Nat × List Byte)) (slab : Nat × Nat)
    (frames : List (Nat × Nat)) : Snapshot :=
  let k := h.cls c
  let body := fun (t : Nat) => ((secs.find? fun s => s.1 == t).map (·.2.2)).getD []
  let f := fromLe ((img.drop 0x10).take 4)
  let tl := body 0x03
  let named := fun (e w : Nat) => match frames.find? fun p => p.1 == e with
    | some p => BitVec.ofNat 64 (setBits (setBits w 35 20 p.2) 2 2 1)
    | none => BitVec.ofNat 64 (setBits (setBits w 35 20 0) 2 2 0)
  { frame := f, vc := 0, hob := cpuOf (body 0x01), vreg := tableAt (body 0x02) 0 4096 4,
    pal := (List.range 4096).foldl (fun t i => NTable.set 0 t i (wordAt (body 0x02) (4096 + i) % 2 ^ 24)) [],
    tally := (List.range (wordAt tl 1)).map fun i => tallyOf k f ((tl.drop (8 + 16 * i)).take 16),
    nextSeq := wordAt tl 0 % 4096, audio := audioOf (body 0x04), cottage := cottageOf (body 0x05),
    map := (List.range 256).filterMap fun e =>
      let w := fromLe (((body 0x10).drop (8 * e)).take 8)
      if bits w 1 0 = 0 then none else some (e, named e w),
    vram := named 0x100 0, slab := slab, ucver := BitVec.ofNat 64 (fromLe ((img.drop 0x18).take 8)),
    patch := fromLe ((img.drop 0x16).take 2), booting := false }

/-- Where a command's image lies: SPACE and address (R303). -/
def imagePlace (k : HayCmd) : Nat × Nat := (bits k.addr.toNat 0 0, bits k.addr.toNat 63 3 * 8)

/-- The owner of cottage c issues requests, where the image lies in fabric memory (R451). -/
def imageIssues (h : Hw) (c : Nat) (k : HayCmd) : Bool := (imagePlace k).1 == 1 || h.fnIssues ((h.ownerOf c).getD 0)

/-- The first n bytes at a command's HAY_XADDR lie in the owner's region or BAR2 (R303). -/
def hayRange (h : Hw) (c : Nat) (k : HayCmd) (n : Nat) : Bool :=
  h.commonsOk ((h.ownerOf c).getD 0) (imagePlace k).1 (imagePlace k).2 n

/-- Reads n bytes at a command's HAY_XADDR; none where they leave the owner's region or BAR2, or are poisoned. -/
def hayRead (h : Hw) (c : Nat) (k : HayCmd) (n : Nat) : Option (List Byte) :=
  let o := (h.ownerOf c).getD 0
  if h.hayRange c k n && !h.commonsPoisoned o (imagePlace k).1 (imagePlace k).2 n then
    some (h.commonsRead o (imagePlace k).1 (imagePlace k).2 n)
  else none

/-- The sections are those that R304 names, a DATA section for each private entry and for video RAM, each as long as its content. -/
def imageShape (secs : List (Nat × Nat × List Byte)) : Bool :=
  let map := ((secs.find? fun s => s.1 == 0x10).map (·.2.2)).getD []
  let privates := (List.range 256).filter fun e => bits (fromLe ((map.drop (8 * e)).take 8)) 1 0 == 1
  (secs.map (·.1)).take 6 == [0x01, 0x02, 0x03, 0x04, 0x05, 0x10] &&
    (secs.drop 6).map (fun s => (s.1, s.2.1, s.2.2.length)) ==
      (privates ++ [0x100]).map fun e => (0x11, e, 0x100000)

/-- The checks of an image of a given header (R305): its sections, or the code of its refusal. -/
def imageCheck (h : Hw) (c : Nat) (head body : List Byte) : Except Nat (List (Nat × Nat × List Byte)) :=
  match cutSections (fromLe ((head.drop 0x14).take 2)) body with
  | none => .error 0x05
  | some secs =>
    if !imageShape secs || digestOf ((head.drop 0x50).take 48) != Crypto.sha384 body then .error 0x05
    else if digestOf ((head.drop 0x20).take 48) ≠ Crypto.sha384 (h.cls c).body then .error 0x06
    else .ok secs

/-- Reads an image: header, then all of it (R305). Answers both, or the code of its refusal. -/
def imageRead (h : Hw) (c : Nat) (k : HayCmd) : Except Nat (List Byte × List Byte) :=
  if k.len < 128 then .error 0x05
  else
    match h.hayRead c k 128 with
    | none => .error 0x07
    | some head =>
      let len := fromLe ((head.drop 8).take 8)
      if fromLe (head.take 4) ≠ 0x59414C48 ∨ fromLe ((head.drop 4).take 2) ≠ 1 ∨ len < 128 ∨ k.len < len then .error 0x05
      else
        match h.hayRead c k len with
        | none => .error 0x07
        | some img => .ok (head, img.drop 128)

/-- Checks and takes an image into the command's slot (R305). Answers the completion code. -/
def importNow (h : Hw) (c : Nat) (k : HayCmd) : Nat × Hw :=
  let o := (h.ownerOf c).getD 0
  match h.imageRead c k with
  | .error code => (code, h)
  | .ok (head, body) =>
    match h.imageCheck c head body with
    | .error code => (code, h)
    | .ok secs =>
      match h.allocSlab o with
      | (none, h) => (0x03, h)
      | (some slab, h) =>
        match importFrames (secs.filterMap fun s => if s.1 = 0x11 then some s.2 else none) h o with
        | (none, h) => (0x03, h.freeSlab slab)
        | (some frames, h) => (0x00, h.setSnap c k.slot (some (h.snapshotOf c head secs slab frames)))

/-! ### HAY_CMD (R306) -/

/-- A command starts to run, or to wait. -/
def hayStart (h : Hw) (c : Nat) (k : HayCmd) (pending : Bool) : Hw :=
  let h := ((h.setCot c { h.cot c with hay := some k }).setFld F.HAY_STAT_PENDING c 0 (b2n pending)).setFld
    F.HAY_STAT_ACTIVE c 0 (b2n !pending)
  if pending then h else h.hayArrives c

/-- A command completes at once. -/
def hayNow (h : Hw) (c : Nat) (k : HayCmd) (code : Nat) : Hw := (h.hayStart c k false).hayDone c code true

/-- CAPTURE and RESTORE: at once in OFF and THOLD, a RESTORE also in CONT; else at the capture point (R300, R301). -/
def hayWait (h : Hw) (c : Nat) (k : HayCmd) : Hw :=
  let st := (h.ctx c).st
  h.hayStart c k !(st == .off || st == .thold || (st == .cont && k.op == 2))

/-- EXPORT: refused where the image does not fit (R303). -/
def hayExport (h : Hw) (c : Nat) (k : HayCmd) (s : Snapshot) : Hw :=
  let len := (h.imageOf c s).length
  if k.len < len then h.hayNow c k 0x03
  else if !h.hayRange c k len then h.hayNow c k 0x07
  else h.hayStart c k false

/-- The command that a write of HAY_CMD gives, with HAY_XADDR and HAY_XLEN as they stand then. -/
def hayAsked (h : Hw) (ag : Agent) (c op slot vec : Nat) : HayCmd :=
  ⟨op, slot % 8, vec, (agentFn ag).getD 258, h.reg .HAY_XADDR c, h.fld F.HAY_XLEN_LEN c⟩

/-- A write of HAY_CMD. -/
def hayCmdWrite (h : Hw) (ag : Agent) (c op slot vec : Nat) : Hw :=
  let fn := (agentFn ag).getD 258
  let k := h.hayAsked ag c op slot vec
  let st := (h.ctx c).st
  if !h.sees ag .HAY_CMD c 0 then h.refuseView ag .HAY_CMD c 0
  else if op = 0 ∨ 6 < op ∨ (fn < 258 ∧ vectors fn ≤ vec) then h.refuse ag .HAY_CMD c 0
  else if op = 6 then (if h.hayPending c then h.hayDone c 0x08 true else h)
  else if (h.cot c).hay.isSome then
    let h := h.setFld F.HAY_STAT_CODE c 0 0x01
    if fn < 258 then h.event fn vec else h
  else
    match op, h.snap c k.slot with
    | 1, _ => if st = .cont then h.hayNow c k 0x04 else h.hayWait c k
    | 2, none => h.hayNow c k 0x02
    | 2, some _ => h.hayWait c k
    | 3, none => h.hayNow c k 0x02
    | 3, some _ => (h.dropSnap c k.slot).hayNow c k 0x00
    | 4, none => h.hayNow c k 0x02
    | 4, some s => h.hayExport c k s
    | _, some _ => h.hayNow c k 0x04
    | _, none =>
      if st ≠ .off ∧ st ≠ .cont then h.hayNow c k 0x04
      else if 128 ≤ k.len ∧ ¬ h.hayRange c k 128 then h.hayNow c k 0x07
      else h.hayStart c k false

def capture (h : Hw) (ag : Agent) (c slot vec : Nat) : Hw := h.hayCmdWrite ag c 1 slot vec
def restore (h : Hw) (ag : Agent) (c slot vec : Nat) : Hw := h.hayCmdWrite ag c 2 slot vec
def snapshotDrop (h : Hw) (ag : Agent) (c slot vec : Nat) : Hw := h.hayCmdWrite ag c 3 slot vec
def exportCmd (h : Hw) (ag : Agent) (c slot vec : Nat) : Hw := h.hayCmdWrite ag c 4 slot vec
def importCmd (h : Hw) (ag : Agent) (c slot vec : Nat) : Hw := h.hayCmdWrite ag c 5 slot vec
def cancel (h : Hw) (ag : Agent) (c : Nat) : Hw := h.hayCmdWrite ag c 6 0 0

/-- The writes of an EXPORT are complete, its first 8 bytes last; or they end with a fabric error after `failed` bytes
beyond those, or because the range is the owner's no longer (R303, R470). -/
def exportDone (h : Hw) (c : Nat) (failed : Option Nat) : Hw :=
  match (h.cot c).hay with
  | some k =>
    if k.op = 4 ∧ h.imageIssues c k then
      match h.snap c k.slot with
      | none => h.hayDone c 0x02 true
      | some s =>
        let o := (h.ownerOf c).getD 0
        let img := h.imageOf c s
        let write := fun (h : Hw) (a : Nat) (l : List Byte) => h.commonsWrite o (imagePlace k).1 ((imagePlace k).2 + a) l
        if !h.hayRange c k (min k.len img.length) then h.hayDone c 0x07 true
        else if k.len < img.length then h.hayDone c 0x03 true
        else
          match failed with
          | some n => ((write h 8 ((img.drop 8).take n)).aerRead (o / 129) .unsuccessful).hayDone c 0x07 true
          | none => (write (write h 8 (img.drop 8)) 0 (img.take 8)).hayDone c 0x00 true
    else h
  | none => h

/-- The read of an IMPORT is complete, and the image is checked; or the read fails (R305). -/
def importDone (h : Hw) (c : Nat) (how : ReadEnd) : Hw :=
  match (h.cot c).hay with
  | some k =>
    if k.op = 5 ∧ h.imageIssues c k then
      if how = .ok then
        let (code, h) := h.importNow c k
        h.hayDone c code true
      else (h.aerRead ((h.portOf c).getD 0) how).hayDone c 0x07 true
    else h
  | none => h

end Sys2Proof.Machine.Hw

/-! ### The commands -/

namespace Sys2Proof.Machine

/-- CAPTURE (R300): a write of CAPTURE to HAY_CMD of cottage c. -/
def execCapture (ag : Agent) (c : Nat) (slot : Nat) (vec : Nat) (s : State) : Host.Outcome State Fault Refusal :=
  s.runLive fun h => h.capture ag c slot vec

/-- CAPTURE_POINT (R300): the Hayloft captures cottage c at its capture point. -/
def execCapturePoint (c : Nat) (s : State) (ev : MapEvent := .sound) : Host.Outcome State Fault Refusal :=
  s.runLive fun h => h.capturePoint c ev

/-- RESTORE (R301): a write of RESTORE to HAY_CMD of cottage c. -/
def execRestore (ag : Agent) (c : Nat) (slot : Nat) (vec : Nat) (s : State) : Host.Outcome State Fault Refusal :=
  s.runLive fun h => h.restore ag c slot vec

/-- RESTORE_TAKEN (R301): the Hayloft restores cottage c -/
def execRestoreTaken (c : Nat) (ecc : Bool) (s : State) (ev : MapEvent := .sound) : Host.Outcome State Fault Refusal :=
  s.runLive fun h => h.restoreTaken c ecc ev

/-- SNAPSHOT_DROP (R302): a write of DROP to HAY_CMD of cottage c. -/
def execSnapshotDrop (ag : Agent) (c : Nat) (slot : Nat) (vec : Nat) (s : State) : Host.Outcome State Fault Refusal :=
  s.runLive fun h => h.snapshotDrop ag c slot vec

/-- EXPORT (R303): a write of EXPORT to HAY_CMD of cottage c. -/
def execExportCmd (ag : Agent) (c : Nat) (slot : Nat) (vec : Nat) (s : State) : Host.Outcome State Fault Refusal :=
  s.runLive fun h => h.exportCmd ag c slot vec

/-- EXPORT_DONE (R303): the writes of cottage c's EXPORT complete, or fail after so many bytes. -/
def execExportDone (c : Nat) (failed : Option Nat) (s : State) : Host.Outcome State Fault Refusal :=
  s.runLive fun h => h.exportDone c failed

/-- IMPORT (R305): a write of IMPORT to HAY_CMD of cottage c. -/
def execImportCmd (ag : Agent) (c : Nat) (slot : Nat) (vec : Nat) (s : State) : Host.Outcome State Fault Refusal :=
  s.runLive fun h => h.importCmd ag c slot vec

/-- IMPORT_DONE (R305): the read of cottage c's IMPORT completes. -/
def execImportDone (c : Nat) (how : ReadEnd) (s : State) : Host.Outcome State Fault Refusal :=
  s.runLive fun h => h.importDone c how

/-- CANCEL (R306): a write of CANCEL to HAY_CMD of cottage c. -/
def execCancel (ag : Agent) (c : Nat) (s : State) : Host.Outcome State Fault Refusal :=
  s.runLive fun h => h.cancel ag c

end Sys2Proof.Machine
end

