-- ==== Sys2Proof/Machine/PicCmd.lean ====
section
/-!
DEFINITION. Claims, completions and notifications of the parish interrupt controllers (R387 to R398), and the registers of
the cottage interrupt blocks with their virtual timers (R400 to R406). -/

namespace Sys2Proof.Machine.Hw

/-! ### Parish interrupt controllers -/

/-- The bits of word w for which p holds, as a number. -/
def wordOf (w : Nat) (p : Nat → Bool) : Nat := (List.range 32).foldl (fun acc b => acc + b2n (p (32 * w + b)) * 2 ^ b) 0

/-- The sources of word w that v selects. -/
def wordBits (w v : Nat) : List Nat := ((List.range 32).filter (bit v)).map (32 * w + ·)

/-- A source that TAKE would claim (R389). -/
def picClaims (h : Hw) (n i : Nat) : Bool :=
  let p := (h.parish n).pic
  p.pend.contains i && !p.act.contains i && h.picEnabled n i

/-- A read of PIC_TAKE word w: claims, and answers what it claimed (R389, R391). -/
def picTakeRead (h : Hw) (n w : Nat) : Nat × Hw :=
  let v := wordOf w (h.picClaims n)
  let l := wordBits w v
  (v, h.modParish n fun x => { x with pic := { x.pic with
    pend := x.pic.pend.filter (!l.contains ·), act := x.pic.act ++ l, notify := x.pic.notify.filter (!l.contains ·),
    sampling := x.pic.sampling ++ l.filter picIsLevel } })

/-- A read of PIC_TAKE by an agent. -/
def picTake (h : Hw) (ag : Agent) (n w : Nat) : Hw :=
  if h.sees ag .PIC_TAKE n w then
    let (v, h) := h.picTakeRead n w
    h.answer ag v
  else h.answer ag 0

/-- Completion of source i: nothing if it is not active; a level still high, or an event since the claim, leaves it
pending and due again (R387, R389, R390). -/
def picComplete (h : Hw) (n i : Nat) : Hw :=
  let p := (h.parish n).pic
  if p.act.contains i then
    let again := picIsLevel i && p.level.contains i
    (h.modParish n fun x => { x with pic := { x.pic with
      act := x.pic.act.filter (· ≠ i), pend := if again then x.pic.pend.filter (· ≠ i) ++ [i] else x.pic.pend } }).picDue n i
  else h

/-- A write of PIC_ACT word w. -/
def picAct (h : Hw) (ag : Agent) (n w : Nat) (v : Word) : Hw :=
  h.guarded ag .PIC_ACT n w v.toNat true fun h => h.each (wordBits w v.toNat) fun h i => h.picComplete n i

/-- A write of PIC_SET word w: events on edge sources; reserved sources are never pending (R392, R393). -/
def picSet (h : Hw) (ag : Agent) (n w : Nat) (v : Word) : Hw :=
  h.guarded ag .PIC_SET n w v.toNat true fun h =>
    h.each ((wordBits w v.toNat).filter fun i => !picIsLevel i && !decide (262 ≤ i ∧ i < 480)) fun h i => h.picEvent n i

/-- A write of PIC_EN word w: a source enabled while pending is delivered at once (R388); one disabled is no longer due. -/
def picEnWrite (h : Hw) (ag : Agent) (n w : Nat) (v : Word) : Hw :=
  h.guarded ag .PIC_EN n w v.toNat true fun h =>
    let old := h.fld F.PIC_EN_EN n w
    let h := h.storeFields .PIC_EN n w v.toNat
    let off := (wordBits w old).filter fun i => !h.picEnabled n i
    let h := h.modParish n fun x => { x with pic := { x.pic with notify := x.pic.notify.filter (!off.contains ·) } }
    h.each ((wordBits w v.toNat).filter fun i => !bit old (i % 32)) fun h i => h.picDue n i

/-- A target of parish n is enabled: Reeve t, or MSI-X target t − 4 (R394). -/
def targetOn (h : Hw) (n t : Nat) : Bool := if t < 4 then !h.flag F.RVE_CTL_HALT 0 t else h.flag F.PIC_MSIX_EN n (t - 4)

/-- The target of a source: the first enabled one of its mask after LAST (R394). -/
def picTarget (h : Hw) (n i : Nat) : Option Nat :=
  let mask := bits (h.fld F.PIC_TGT_MASK n (i / 4)) (8 * (i % 4) + 7) (8 * (i % 4))
  let last := h.fld F.PIC_RR_LAST n
  ((List.range 8).map fun k => (last + 1 + k) % 8).find? fun t => bit mask t && h.targetOn n t

/-- The notification of one CCLK: of the lowest-numbered source due, to its target if it has one (R394, R396, R397). -/
def notification (h : Hw) (n : Nat) : Hw :=
  match (h.parish n).pic.notify with
  | [] => h
  | a :: l =>
    let i := l.foldl min a
    let h := h.modParish n fun x => { x with pic := { x.pic with notify := x.pic.notify.filter (· ≠ i) } }
    match h.picTarget n i with
    | none => h
    | some t =>
      let h := h.setFld F.PIC_RR_LAST n 0 t
      if t < 4 then h.setFld F.RVE_IRQ_PARISH 0 t (h.fld F.RVE_IRQ_PARISH 0 t ||| 2 ^ n)
      else h.event (129 * h.fld F.PIC_MSIX_PORT n (t - 4)) (h.fld F.PIC_MSIX_VEC n (t - 4))

/-- WIN after a claim of a level source, its level is sampled (R391). -/
def vanishSample (h : Hw) (n i : Nat) : Hw :=
  let p := (h.parish n).pic
  if p.sampling.contains i then
    let h := h.modParish n fun x => { x with pic := { x.pic with sampling := x.pic.sampling.erase i } }
    if p.level.contains i then h else h.count F.PIC_VANISHED_VANISHED n
  else h

/-! ### Cottage interrupt blocks (R400 to R406) -/

/-- A load of CIB_TAKE: claims, and answers what it claimed (R389, R402). -/
def cibTakeLoad (h : Hw) (c : Nat) : Word × Hw :=
  let t := (h.cot c).io
  let v := t.pend &&& ~~~t.act &&& BitVec.ofNat 32 (h.ioWord c 0x9004)
  (v, h.modIo c fun t => { t with pend := t.pend &&& ~~~v, act := t.act ||| v })

/-- Completes the sources of a store to CIB_ACT; an Active-pending one is Pending again (R387). -/
def cibComplete (h : Hw) (c : Nat) (v : Word) : Hw := h.modIo c fun t => { t with act := t.act &&& ~~~v }

/-- A store to CIB_SET at a stamp: SOFT0 to SOFT3. -/
def cibSoft (h : Hw) (c : Nat) (v : Word) (st : Stamp) : Hw :=
  h.each ([12, 13, 14, 15].filter (bit v.toNat)) fun h i => h.cibEvent c i st

/-- A store to CIB_OVR at a stamp: bits of events that coalesced at that very stamp stay set (R392). -/
def cibOvrStore (h : Hw) (c : Nat) (v : Word) (st : Stamp) : Hw :=
  h.modIo c fun t =>
    let kept := match t.ovrAt with
      | some (s, m) => if s = st then m else 0
      | none => 0
    { t with ovr := t.ovr &&& ~~~(v &&& ~~~kept) }

/-- Virtual timer k of cottage c. -/
def vtimer (h : Hw) (c k : Nat) : VTimer := (h.cot c).io.timers.getD k ⟨none, 1⟩
/-- Replaces it. -/
def setVtimer (h : Hw) (c k : Nat) (x : VTimer) : Hw := h.modIo c fun t => { t with timers := t.timers.set k x }

/-- A store to CIB_VT_CTL[k] at a stamp: arms from it, or disarms (R404). -/
def vtCtlStore (h : Hw) (c k : Nat) (v : Word) (st : Stamp) : Hw :=
  let h := h.setIoWord c (0x9020 + 0x10 * k) (v.toNat % 4)
  let p := max 1 (h.ioWord c (0x9024 + 0x10 * k))
  h.setVtimer c k (if bit v.toNat 0 then ⟨some (absCount (h.cls c) st + p), p⟩ else ⟨none, p⟩)

/-- A firing of timer k is due at the beam's present stamp. -/
def vtDue (h : Hw) (c k : Nat) : Bool :=
  match (h.vtimer c k).next with
  | some a => decide (a ≤ absCount (h.cls c) (h.stamp c))
  | none => false

/-- CIB_VT_LEFT[k] at a stamp. -/
def vtLeft (h : Hw) (c k : Nat) (st : Stamp) : Nat :=
  match (h.vtimer c k).next with
  | some a => a - absCount (h.cls c) st
  | none => 0

/-- A due firing of virtual timer k raises its source at its count; a one-shot timer is disarmed (R404). -/
def vtFire (h : Hw) (c k : Nat) : Hw :=
  match (h.vtimer c k).next with
  | none => h
  | some a =>
    if h.vtDue c k then
      let h := h.cibEvent c (2 + k) (stampAt (h.cls c) a)
      let ctl := h.ioWord c (0x9020 + 0x10 * k)
      let p := (h.vtimer c k).per
      if bit ctl 1 then h.setVtimer c k ⟨some (a + p), p⟩
      else (h.setVtimer c k ⟨none, p⟩).setIoWord c (0x9020 + 0x10 * k) (ctl / 2 * 2)
    else h

/-- A load of the CIB at a stamp; none outside its registers (R406). -/
def cibLoad (h : Hw) (c a : Nat) (st : Stamp) : Option (Word × Hw) :=
  let t := (h.cot c).io
  if a = 0x9000 then some (t.pend, h)
  else if a = 0x9008 then some (h.cibTakeLoad c)
  else if a = 0x900C then some (t.act, h)
  else if a = 0x9010 then some (0, h)
  else if a = 0x901C then some (t.ovr, h)
  else if a = 0x9004 ∨ a = 0x9014 ∨ a = 0x9018 then some (BitVec.ofNat 32 (h.ioWord c a), h)
  else if 0x9020 ≤ a ∧ a < 0x9060 ∧ a % 4 = 0 ∧ a % 16 ≠ 12 then
    if a % 16 = 8 then some (BitVec.ofNat 32 (h.vtLeft c (a / 16 % 16 - 2) st), h)
    else some (BitVec.ofNat 32 (h.ioWord c a), h)
  else none

/-- A store to the CIB at a stamp; none outside its registers (R406). Stores to read-only ones fault before (R107). -/
def cibStore (h : Hw) (c a : Nat) (v : Word) (st : Stamp) : Option Hw :=
  if a = 0x9000 ∨ a = 0x9008 then some h
  else if a = 0x9004 then some (h.setIoWord c a (v.toNat % 65536))
  else if a = 0x900C then some (h.cibComplete c v)
  else if a = 0x9010 then some (h.cibSoft c v st)
  else if a = 0x9014 then some (h.setIoWord c a (bits v.toNat 27 2 * 4))
  else if a = 0x9018 then some (h.setIoWord c a (bits v.toNat 9 0))
  else if a = 0x901C then some (h.cibOvrStore c v st)
  else if 0x9020 ≤ a ∧ a < 0x9060 ∧ a % 4 = 0 ∧ a % 16 ≠ 12 then
    if a % 16 = 0 then some (h.vtCtlStore c (a / 16 % 16 - 2) v st)
    else if a % 16 = 4 then some (h.setIoWord c a v.toNat)
    else some h
  else none

/-- A cottage in RUN does what a load or store at its present stamp does to its own interrupt block. -/
def atStamp (h : Hw) (c : Nat) (f : Hw → Stamp → Hw) : Hw := if (h.ctx c).st = .run then f h (h.stamp c) else h

def cibTake (h : Hw) (c : Nat) : Hw := h.atStamp c fun h _ => (h.cibTakeLoad c).2
def cibAct (h : Hw) (c : Nat) (v : Word) : Hw := h.atStamp c fun h _ => h.cibComplete c v
def cibSet (h : Hw) (c : Nat) (v : Word) : Hw := h.atStamp c fun h st => h.cibSoft c v st
def cibVtCtl (h : Hw) (c k : Nat) (v : Word) : Hw := h.atStamp c fun h st => h.vtCtlStore c k v st

end Sys2Proof.Machine.Hw

/-! ### The commands -/

namespace Sys2Proof.Machine

/-- PIC_TAKE (R389): a read of PIC_TAKE word w of parish n. -/
def execPicTake (ag : Agent) (n : Nat) (w : Nat) (s : State) : Host.Outcome State Fault Refusal :=
  s.runLive fun h => h.picTake ag n w

/-- PIC_ACT (R389): a write of PIC_ACT word w of parish n. -/
def execPicAct (ag : Agent) (n : Nat) (w : Nat) (v : Word) (s : State) : Host.Outcome State Fault Refusal :=
  s.runLive fun h => h.picAct ag n w v

/-- PIC_SET (R398): a write of PIC_SET word w of parish n. -/
def execPicSet (ag : Agent) (n : Nat) (w : Nat) (v : Word) (s : State) : Host.Outcome State Fault Refusal :=
  s.runLive fun h => h.picSet ag n w v

/-- PIC_EN_WRITE (R388): a write of PIC_EN word w of parish n. -/
def execPicEnWrite (ag : Agent) (n : Nat) (w : Nat) (v : Word) (s : State) : Host.Outcome State Fault Refusal :=
  s.runLive fun h => h.picEnWrite ag n w v

/-- NOTIFICATION (R394): the controller of parish n sends the notification of one CCLK. -/
def execNotification (n : Nat) (s : State) : Host.Outcome State Fault Refusal :=
  s.runLive fun h => h.notification n

/-- VANISH_SAMPLE (R391): the level of source i of parish n is sampled, WIN after its claim. -/
def execVanishSample (n : Nat) (i : Nat) (s : State) : Host.Outcome State Fault Refusal :=
  s.runLive fun h => h.vanishSample n i

/-- CIB_TAKE (R402): cottage c loads CIB_TAKE. -/
def execCibTake (c : Nat) (s : State) : Host.Outcome State Fault Refusal :=
  s.runLive fun h => h.cibTake c

/-- CIB_ACT (R389): cottage c stores v to CIB_ACT. -/
def execCibAct (c : Nat) (v : Word) (s : State) : Host.Outcome State Fault Refusal :=
  s.runLive fun h => h.cibAct c v

/-- CIB_SET (R400): cottage c stores v to CIB_SET. -/
def execCibSet (c : Nat) (v : Word) (s : State) : Host.Outcome State Fault Refusal :=
  s.runLive fun h => h.cibSet c v

/-- CIB_VT_CTL (R404): cottage c stores v to CIB_VT_CTL of virtual timer k. -/
def execCibVtCtl (c : Nat) (k : Nat) (v : Word) (s : State) : Host.Outcome State Fault Refusal :=
  s.runLive fun h => h.cibVtCtl c k v

/-- VT_FIRE (R404): a due firing of virtual timer k of cottage c. -/
def execVtFire (c : Nat) (k : Nat) (s : State) : Host.Outcome State Fault Refusal :=
  s.runLive fun h => h.vtFire c k

end Sys2Proof.Machine
end

