-- ==== Sys2Proof/Machine/TimerCmd.lean ====
section
/-!
DEFINITION. The timer units (R407 to R416): arming, ticks, matches, captures, low-frequency mode, linked pairs. -/

namespace Sys2Proof.Machine.Hw

/-- The state of timer unit u beyond its registers. -/
def tmr (h : Hw) (u : Nat) : TimerUnit := NTable.get TimerUnit.reset h.timers u
/-- Replaces it. -/
def setTmr (h : Hw) (u : Nat) (x : TimerUnit) : Hw := { h with timers := NTable.set TimerUnit.reset h.timers u x }

/-- Unit u is the low half of a linked pair (R413). -/
def tmrLinked (h : Hw) (u : Nat) : Bool := u % 2 == 0 && h.flag F.TMR_CTL_LINK 0 u

/-- Unit u is the high half of a linked pair, and does nothing of its own. -/
def tmrHigh (h : Hw) (u : Nat) : Bool := u % 2 == 1 && h.flag F.TMR_CTL_LINK 0 (u - 1)

/-- A 64-bit quantity of a linked pair, or the 32-bit one of a unit. -/
def tmrWide (h : Hw) (f : Fld) (u : Nat) : Nat :=
  h.fld f 0 u + (if h.tmrLinked u then h.fld f 0 (u + 1) * 2 ^ 32 else 0)

/-- Stores such a quantity. -/
def setTmrWide (h : Hw) (f : Fld) (u v : Nat) : Hw :=
  let h := h.setFld f 0 u v
  if h.tmrLinked u then h.setFld f 0 (u + 1) (v / 2 ^ 32) else h

/-- All ones of the count. -/
def tmrTop (h : Hw) (u : Nat) : Nat := if h.tmrLinked u then 2 ^ 64 - 1 else 2 ^ 32 - 1

/-- The low-frequency mode of R412 applies: sleep, or the core named by HALTSRC halted. -/
def tmrSlow (h : Hw) (u : Nat) : Bool :=
  let src := h.fld F.TMR_CTL_HALTSRC 0 u
  h.power.asleep || (decide (1 ≤ src ∧ src ≤ 4) && h.flag F.RVE_STAT_HALTED 0 (src - 1))

/-- TMR_STAT.LF follows the mode; the fraction starts at 0 on entry and is discarded on exit (R412). -/
def tmrModes (h : Hw) : Hw :=
  h.each (List.range 16) fun h u =>
    if h.flag F.TMR_STAT_LF 0 u = h.tmrSlow u then h
    else (h.setFld F.TMR_STAT_LF 0 u (b2n (h.tmrSlow u))).setTmr u { h.tmr u with frac := 0 }

/-- An event of unit u goes to its parish's PIC: 480 + u for a match, 496 + u for a capture (R393). -/
def tmrEvent (h : Hw) (u base : Nat) : Hw := h.picEvent (h.fld F.TMR_CTL_PIC 0 u) (base + u)

/-- A match: MATCH, and TMR_MATCH with MIE. -/
def tmrMatch (h : Hw) (u : Nat) : Hw :=
  let h := h.setFld F.TMR_STAT_MATCH 0 u 1
  if h.flag F.TMR_CTL_MIE 0 u then h.tmrEvent u 480 else h

/-- The unit stops. -/
def tmrStops (h : Hw) (u : Nat) : Hw := (h.setFld F.TMR_STAT_RUN 0 u 0).setFld F.TMR_STAT_DWELL 0 u 0

/-- A write of TMR_CTL by the unit's owner (R408, R415). With ARM and STOP in one write the unit ends stopped. -/
def tmrCtlWrite (h : Hw) (ag : Agent) (u v : Nat) : Hw :=
  let ok := h.ownsCode (h.fld F.TMR_OWN_OWNER 0 u) ag && decide (bits v 22 20 ≤ 4)
  h.guarded ag .TMR_CTL 0 u v ok fun h =>
    let h := h.storeFields .TMR_CTL 0 u (if u % 2 = 1 then setBits v 16 16 0 else v)
    let h :=
      if h.tmrHigh u then h
      else
        let h := if bit v 0 then
            let h := (((h.setFld F.TMR_STAT_RUN 0 u 1).setFld F.TMR_STAT_MATCH 0 u 0).setFld F.TMR_STAT_MISSED 0 u 0).setFld
              F.TMR_STAT_DWELL 0 u 0
            if bit v 2 then h.setTmrWide F.TMR_CNT_CNT u 0 else h
          else h
        if bit v 1 then h.tmrStops u else h
    h.tmrModes

def tmrArm (h : Hw) (ag : Agent) (u : Nat) (v : Word) : Hw := h.tmrCtlWrite ag u (v.toNat ||| 1)
/-- A write of STOP with the present values of the other fields. -/
def tmrStop (h : Hw) (ag : Agent) (u : Nat) : Hw := h.tmrCtlWrite ag u ((h.reg .TMR_CTL 0 u).toNat ||| 2)

/-- A write of TMR_CNT: not while RUN is 1 (R408). -/
def tmrCntWrite (h : Hw) (ag : Agent) (u v : Nat) : Hw :=
  let run := h.flag F.TMR_STAT_RUN 0 (if h.tmrHigh u then u - 1 else u)
  let ok := h.ownsCode (h.fld F.TMR_OWN_OWNER 0 u) ag && !(run && v % 2 ^ 32 != h.fld F.TMR_CNT_CNT 0 u)
  h.guarded ag .TMR_CNT 0 u v ok fun h => h.storeFields .TMR_CNT 0 u v

/-- The unit whose comparator a write of TMR_CMP[u] reaches. -/
def tmrOf (h : Hw) (u : Nat) : Nat := if h.tmrHigh u then u - 1 else u

/-- A write of TMR_CMP lands in the live comparator: rule (b) of R409. -/
def tmrCmpLand (h : Hw) (u v : Nat) : Bool × Hw :=
  let h := h.storeFields .TMR_CMP 0 u v
  let t := h.tmrOf u
  (h.flag F.TMR_STAT_RUN 0 t && h.tmrWide F.TMR_CMP_CMP t == h.tmrWide F.TMR_CNT_CNT t, h)

/-- A match event dwells until the next tick, or the next step of low-frequency mode (R409). -/
def tmrHit (h : Hw) (u : Nat) : Hw := (h.tmrMatch u).setFld F.TMR_STAT_DWELL 0 u 1

/-- A write of TMR_CMP in a CCLK without a tick. -/
def tmrCmpWrite (h : Hw) (ag : Agent) (u : Nat) (v : Word) : Hw :=
  h.guarded ag .TMR_CMP 0 u v.toNat (h.ownsCode (h.fld F.TMR_OWN_OWNER 0 u) ag) fun h =>
    match h.tmrCmpLand u v.toNat with
    | (true, h) => h.tmrHit (h.tmrOf u)
    | (false, h) => h

/-- A tick of unit u, with a write of TMR_CMP of its owner in the same CCLK or none (R409). -/
def timerTick (h : Hw) (u : Nat) (cmp : Option Word) : Hw :=
  let land := fun (h : Hw) =>
    match cmp with
    | some v => h.tmrCmpLand u v.toNat
    | none => (false, h)
  let h := if h.flag F.TMR_STAT_DWELL 0 u && !h.flag F.TMR_STAT_LF 0 u then h.tmrStops u else h
  if h.tmrHigh u || !h.flag F.TMR_STAT_RUN 0 u || h.flag F.TMR_STAT_LF 0 u then
    match land h with
    | (true, h) => h.tmrHit (h.tmrOf u)
    | (false, h) => h
  else
    let n := (h.tmrWide F.TMR_CNT_CNT u + 1) % (h.tmrTop u + 1)
    let h := h.setTmrWide F.TMR_CNT_CNT u n
    let a := n == h.tmrWide F.TMR_CMP_CMP u
    let (b, h) := land h
    if a || b then h.tmrHit u
    else if n = h.tmrTop u then (h.tmrStops u).setFld F.TMR_STAT_MISSED 0 u 1
    else h

/-- A synchronised capture edge (R411). -/
def timerCapture (h : Hw) (u : Nat) (rising : Bool) : Hw :=
  if h.tmrHigh u then h
  else
    let valid := if rising then F.TMR_STAT_CAPR_V else F.TMR_STAT_CAPF_V
    let h := if h.flag valid 0 u then h.setFld F.TMR_STAT_CAPOVR 0 u 1 else h
    let h := (h.setTmrWide (if rising then F.TMR_CAPR_CAPR else F.TMR_CAPF_CAPF) u (h.tmrWide F.TMR_CNT_CNT u)).setFld valid 0 u 1
    if bit (h.fld F.TMR_CTL_CAPEV 0 u) (if rising then 0 else 1) then h.tmrEvent u 496 else h

/-- An LFCLK edge in low-frequency mode: C grows by 390,625 / 2^(7+PRE), the fraction carried; a step to or over the compare value
is a match at which the unit stops at once (R412). -/
def lfclkStep (h : Hw) (u : Nat) : Hw :=
  if !h.power.standby || h.flag F.ERR_STAT_FATAL || !h.flag F.TMR_STAT_LF 0 u || h.tmrHigh u || !h.flag F.TMR_STAT_RUN 0 u then h
  else if h.flag F.TMR_STAT_DWELL 0 u then h.tmrStops u
  else
    let d := 2 ^ (7 + h.fld F.TMR_CTL_PRE 0 u)
    let c := h.tmrWide F.TMR_CNT_CNT u
    let top := h.tmrTop u
    let sum := (h.tmr u).frac + 390625
    let n := min (c + sum / d) top
    let h := (h.setTmr u { h.tmr u with frac := sum % d }).setTmrWide F.TMR_CNT_CNT u n
    let cmp := h.tmrWide F.TMR_CMP_CMP u
    if c < cmp ∧ cmp ≤ n then (h.tmrMatch u).tmrStops u
    else if n = top then (h.tmrStops u).setFld F.TMR_STAT_MISSED 0 u 1
    else h

/-- A read of TMR_CNT[u] by a reader: of a linked pair, the low half latches the high half for it, and the high half comes
from the latch while it is valid (R414). -/
def tmrCntRead (h : Hw) (reader u : Nat) : Nat × Hw :=
  if h.tmrLinked u then
    let t := h.tmr u
    (h.fld F.TMR_CNT_CNT 0 u,
      h.setTmr u { t with latches := NTable.set none t.latches reader (some (h.fld F.TMR_CNT_CNT 0 (u + 1))) })
  else if h.tmrHigh u then
    let t := h.tmr (u - 1)
    ((NTable.get none t.latches reader).getD (h.fld F.TMR_CNT_CNT 0 u),
      h.setTmr (u - 1) { t with latches := NTable.set none t.latches reader none })
  else (h.fld F.TMR_CNT_CNT 0 u, h)

/-- Such a read by an agent; a VF sees no timer. -/
def tmrRead (h : Hw) (ag : Agent) (u : Nat) : Hw :=
  match readerNo ag with
  | none => h.answer ag 0
  | some r =>
    let (v, h) := h.tmrCntRead r u
    h.answer ag v

def pairLowRead (h : Hw) (ag : Agent) (m : Nat) : Hw := h.tmrRead ag (2 * m)
def pairHighRead (h : Hw) (ag : Agent) (m : Nat) : Hw := h.tmrRead ag (2 * m + 1)

/-- A write of TMR_OWN: by the security domain alone (R415). -/
def tmrOwnWrite (h : Hw) (ag : Agent) (u v : Nat) : Hw :=
  h.guarded ag .TMR_OWN 0 u v (h.secureAgent ag) fun h => h.storeFields .TMR_OWN 0 u v

end Sys2Proof.Machine.Hw

/-! ### The commands -/

namespace Sys2Proof.Machine

/-- TMR_ARM (R408): a write of TMR_CTL with ARM of timer unit u. -/
def execTmrArm (ag : Agent) (u : Nat) (v : Word) (s : State) : Host.Outcome State Fault Refusal :=
  s.runLive fun h => h.tmrArm ag u v

/-- TMR_STOP (R408): a write of TMR_CTL with STOP of timer unit u. -/
def execTmrStop (ag : Agent) (u : Nat) (s : State) : Host.Outcome State Fault Refusal :=
  s.runLive fun h => h.tmrStop ag u

/-- TMR_CMP_WRITE (R409): a write of TMR_CMP of timer unit u, in a CCLK without a tick. -/
def execTmrCmpWrite (ag : Agent) (u : Nat) (v : Word) (s : State) : Host.Outcome State Fault Refusal :=
  s.runLive fun h => h.tmrCmpWrite ag u v

/-- TIMER_TICK (R409): a tick of timer unit u, with its owner's write of TMR_CMP in the same CCLK or none. -/
def execTimerTick (u : Nat) (cmp : Option Word) (s : State) : Host.Outcome State Fault Refusal :=
  s.runLive fun h => h.timerTick u cmp

/-- TIMER_CAPTURE (R411): a synchronised capture edge of timer unit u. -/
def execTimerCapture (u : Nat) (rising : Bool) (s : State) : Host.Outcome State Fault Refusal :=
  s.runLive fun h => h.timerCapture u rising

/-- LFCLK_STEP (R412): an LFCLK edge at timer unit u in low-frequency mode. -/
def execLfclkStep (u : Nat) (s : State) : Host.Outcome State Fault Refusal :=
  s.runKeep fun h => h.lfclkStep u

/-- PAIR_LOW_READ (R414): a read of the low half of timer pair m. -/
def execPairLowRead (ag : Agent) (m : Nat) (s : State) : Host.Outcome State Fault Refusal :=
  s.runLive fun h => h.pairLowRead ag m

/-- PAIR_HIGH_READ (R414): a read of the high half of timer pair m. -/
def execPairHighRead (ag : Agent) (m : Nat) (s : State) : Host.Outcome State Fault Refusal :=
  s.runLive fun h => h.pairHighRead ag m

end Sys2Proof.Machine
end

