-- ==== Sys2Proof/Machine/Bank.lean ====
section
/-!
DEFINITION. The command banks of Armatures, staging, tests and firmware, of which one runs at a time (R82 to R89, R170,
R171, R488, R502): busy, their status registers, refusals, completion, abandonment, and the image they fetch. -/

namespace Sys2Proof.Machine

/-- The kinds of a bank's command. -/
def kArm : Nat := 0
def kStage : Nat := 1
def kTest : Nat := 2
def kFw : Nat := 3

namespace Hw

/-- STATE of a bank of a kind; a test has no port but its bank's. -/
def bankState (h : Hw) (kind p : Nat) : Nat :=
  match kind with
  | 0 => h.fld F.ARM_STAT_STATE p
  | 1 => h.fld F.LOM_STG_STAT_STATE p
  | 2 => h.fld F.PWR_TEST_STAT_STATE p
  | _ => h.fld F.RVE_FW_STAT_STATE

/-- Sets STATE of a bank. -/
def setBankState (h : Hw) (kind p v : Nat) : Hw :=
  match kind with
  | 0 => h.setFld F.ARM_STAT_STATE p 0 v
  | 1 => h.setFld F.LOM_STG_STAT_STATE p 0 v
  | 2 => h.setFld F.PWR_TEST_STAT_STATE p 0 v
  | _ => h.setFld F.RVE_FW_STAT_STATE 0 0 v

/-- Sets CODE of a bank. -/
def setBankCode (h : Hw) (kind p v : Nat) : Hw :=
  match kind with
  | 0 => h.setFld F.ARM_STAT_CODE p 0 v
  | 1 => h.setFld F.LOM_STG_STAT_CODE p 0 v
  | 2 => h.setFld F.PWR_TEST_STAT_CODE p 0 v
  | _ => h.setFld F.RVE_FW_STAT_CODE 0 0 v

/-- Signals a command's vector to the PF that owns the bank or, for firmware, wrote it; Reeve firmware gets none (R89). -/
def bankSignal (h : Hw) (p vec : Nat) : Hw := if p < 2 then h.event (129 * p) vec else h

/-- A command refused at its write: CODE, and the vector; nothing else changes (R85, R89). -/
def bankRefused (h : Hw) (kind p vec code : Nat) : Hw := (h.setBankCode kind p code).bankSignal p vec

/-- A bank takes a command up, in a state. -/
def bankStart (h : Hw) (kind p op mask vec state : Nat) : Hw :=
  let h : Hw := { h with job := some ⟨kind, p, op, mask, vec, [], none, none, none, none⟩ }
  h.setBankState kind p state

/-- The command j in progress completes: IDLE with CODE, then its vector (R89). -/
def bankDone (h : Hw) (j : BankJob) (code : Nat) : Hw :=
  let h : Hw := { h with job := none }
  ((h.setBankState j.kind j.port 0).setBankCode j.kind j.port code).bankSignal j.port j.vec

/-- An FLR or D3hot entry of the PF of port p abandons its Armature or staging command in FETCH or CHECK, with CODE FETCH
(R86, R171). The function hears nothing of it, and ARM_FAIL keeps what the command before left (log entry 35). -/
def abandonJob (h : Hw) (p : Nat) : Hw :=
  match h.job with
  | none => h
  | some j =>
    let st := h.bankState j.kind j.port
    if j.port = p ∧ (j.kind = kArm ∨ j.kind = kStage) ∧ (st = 1 ∨ st = 2) then
      let h : Hw := { h with job := none }
      (h.setBankState j.kind p 0).setBankCode j.kind p 0x03
    else h

/-- A page-in for a cottage of parish n is in flight (R83, R294). -/
def parishPagesIn (h : Hw) (n : Nat) : Bool :=
  h.regs.any fun e => e.1.name == .GRN_CMAP && e.1.bank == n && bit e.2.toNat 2 &&
    decide ((h.frame (bits e.2.toNat 35 20)).state = .inFlight)

/-- Parish n is drained (R83): no job of it is queued, on a Loom, parked or yielded either (R143). -/
def drained (h : Hw) (n : Nat) : Bool :=
  ((h.parishCots n).all fun c => !h.jobsLeft c) &&
  ((List.range 256).all fun k =>
      let st := (h.ctx (256 * n + k)).st
      st == .off || st == .cont) &&
    ((List.range 16).all fun i => h.fld F.CAR_RC_CTL_STATE n i == 0) &&
    ((List.range 8).all fun j => h.fld F.CAR_CH_STAT_STATE n j == 0 || h.fld F.CAR_CH_STAT_STATE n j == 2) &&
    ((List.range 6).all fun i => h.fld F.CHS_N_STAT_STATE n i == 0) &&
    ((List.range 2).all fun m => h.fld F.CHS_P_STAT_STATE n m == 0) &&
    !h.parishPagesIn n

/-- The parishes of a mask. -/
def maskList (mask : Nat) : List Nat := (List.range 16).filter (bit mask)

/-- Some parish of a mask has not finished calibration (R482). -/
def uncalibrated (h : Hw) (mask : Nat) : Bool := (maskList mask).any fun n => !bit (h.fld F.PWR_CAL_PARISH) n

/-- The bytes of an image of the PF of port p at ADDR of a SPACE: in its registered region or its BAR2, or none where they
do not lie there or are poisoned, or the function issues no requests (R82, R320, R340). -/
def bankImage (h : Hw) (p space addr len : Nat) : Option (List Byte) :=
  let o := 129 * p
  let issues := !(h.fn o).d3 && (h.fn o).bme
  if h.commonsOk o space addr len && (space == 1 || issues) && !(space == 1 && h.commonsPoisoned o space addr len) then some (h.commonsRead o space addr len) else none

/-! ### Signatures (R67, R169, R464) -/

/-- The check of a signature: 0, or SIGNATURE (5) for an empty slot (its key all zeros, R67) or a signature that does not verify, or, checked after it
(R84), KEY_REVOKED (6). `slot` is none for a Tridun key. -/
def checkSig (h : Hw) (key : BitVec 768) (slot : Option Nat) (body sig : List Byte) : Nat :=
  let ok := Crypto.ecdsaVerify key (Crypto.sha384 body) sig
  match slot with
  | none => if ok then 0 else 0x05
  | some k =>
    if !h.flag F.SEC_OPKEY_FUSED 0 k || key == 0 || !ok then 0x05 else if h.flag F.SEC_OPKEY_REVOKED 0 k then 0x06 else 0

/-- An operator's signature under key slot k. -/
def checkOperator (h : Hw) (k : Nat) (body sig : List Byte) : Nat :=
  h.checkSig (Config.opKey (BitVec.ofNat 2 k)) (some k) body sig

end Hw

end Sys2Proof.Machine
end

