-- ==== Sys2Proof/Machine/Bell.lean ====
section
/-!
DEFINITION. The Bell and its registers (R16, R22 to R29, R52 to R54, R77) and the beam scheduler (R30, R31). -/

namespace Sys2Proof.Machine

/-- The Bell period of a preset, or of BEL_PERIOD for preset 0, in thirds of 2⁻³² ns (R27, R28). -/
def bellPeriod (preset custom : Nat) : Nat :=
  match preset with
  | 1 => 60000000 * 2 ^ 32
  | 2 => 50050000 * 2 ^ 32
  | 3 => 50000000 * 2 ^ 32
  | _ => 3 * custom

/-- A period gives a rate from 24 Hz to 240 Hz (R24, R76; log entry 21). -/
def bellInRange (p : Nat) : Bool :=
  decide (3 * 1000000000 * 2 ^ 32 ≤ 240 * p) && decide (24 * p ≤ 3 * 1000000000 * 2 ^ 32)

/-- A period gives a rate of at most `max` mHz (R77). -/
def bellBelow (p max : Nat) : Bool := decide (3 * 1000000000000 * 2 ^ 32 ≤ max * p)

namespace Hw

/-! ### Register writes -/

/-- The rate that PRESET and BEL_PERIOD give is accepted in parish n (R24, R77). -/
def rateOk (h : Hw) (n preset custom : Nat) : Bool :=
  let p := bellPeriod preset custom
  bellInRange p && (match (h.parish n).arm with
    | some a => bellBelow p a.bellMax
    | none => true)

/-- A write of BEL_CTL: a new preset takes effect at the next Bell or is refused with RATE_REJ; a new source takes
effect at the next Bell; source 3 is refused (R24, R26, R27). -/
def belCtlWrite (h : Hw) (ag : Agent) (n v : Nat) : Hw :=
  h.guarded ag .BEL_CTL n 0 v (bits v 7 6 ≠ 3) fun h =>
    let preset := bits v 2 1
    if preset ≠ h.fld F.BEL_CTL_PRESET n ∧ ¬ h.rateOk n preset (h.reg .BEL_PERIOD n).toNat then
      (h.setFld F.BEL_STAT_RATE_REJ n 0 1).refuse ag .BEL_CTL n 0
    else
      let moved := bits v 7 6 ≠ h.fld F.BEL_CTL_SRC n
      let rated := preset ≠ h.fld F.BEL_CTL_PRESET n
      (h.storeFields .BEL_CTL n 0 v).modParish n fun p =>
        { p with bellPend := p.bellPend || rated, srcPend := p.srcPend || moved }

/-- A write of BEL_PERIOD (R24, R28): a period out of range is dropped and reported, with RATE_REJ. -/
def belPeriodWrite (h : Hw) (ag : Agent) (n v : Nat) : Hw :=
  h.guarded ag .BEL_PERIOD n 0 v true fun h =>
    if h.rateOk n 0 v then
      (h.storeFields .BEL_PERIOD n 0 v).modParish n fun p => { p with bellPend := true }
    else (h.setFld F.BEL_STAT_RATE_REJ n 0 1).refuse ag .BEL_PERIOD n 0

/-- A write of the Bell's rate, through BEL_PERIOD or BEL_CTL. -/
def bellRateWrite (h : Hw) (ag : Agent) (n : Nat) (custom : Bool) (v : DWord) : Hw :=
  if custom then h.belPeriodWrite ag n v.toNat else h.belCtlWrite ag n v.toNat

/-- A write of the Bell's source: BEL_CTL with its present PRESET. -/
def bellSourceWrite (h : Hw) (ag : Agent) (n : Nat) (src : BitVec 2) : Hw :=
  h.belCtlWrite ag n (setBits (h.reg .BEL_CTL n).toNat 7 6 src.toNat)

/-- The source that parish n's Bell locks to is lost (R25): the Bell goes on, LOCK_LOST sets, one Corrected record with
parish scope is written and the PIC source BELL_LOCK is raised. The record's cause and detail are free (log entry
22). -/
def bellSourceLost (h : Hw) (n : Nat) : Hw :=
  let p := h.parish n
  if p.bellRuns && p.srcInForce ≠ 0 && !p.lockLostNow then
    let h := h.modParish n fun p => { p with lockLostNow := true }
    let h := (h.setFld F.BEL_STAT_LOCK_LOST n 0 1).setFld F.BEL_STAT_LOCKED n 0 0
    let (cause, h) := h.draw
    (h.raiseParish 0 .BEL (cause.toNat % 256) n (detailOf .BEL [n])).picEvent n 257
  else h

/-- The source that parish n's Bell locks to gives a reference: PTM while its port has a valid context (R452), BELL_REF while
its edges arrive (R428). -/
def sourceGives (h : Hw) (n : Nat) : Bool :=
  match (h.parish n).srcInForce with
  | 1 => (h.port (h.fld F.FAB_PTM_PORT)).ptmFresh
  | 2 => (h.parish n).refEdge
  | _ => false

/-- The source returns, or the slewing to a new source ends, and the Bell is locked (R25, R26). -/
def bellRelock (h : Hw) (n : Nat) : Hw :=
  if (h.parish n).bellRuns && h.sourceGives n then
    (h.modParish n fun p => { p with lockLostNow := false }).setFld F.BEL_STAT_LOCKED n 0 1
  else h

/-! ### A Bell -/

/-- Frame `porch.next` of an admitted cottage is published at its Bell (R16, R22, R52, R54, R405); a cottage that has
stopped publishes the frames it has begun and no more. -/
def bellPublish (h : Hw) (c b : Nat) : Hw :=
  let x := h.ctx c
  let f := (h.cot c).porch.next
  if x.admitted && decide (x.bellOfs + BitVec.ofNat 64 (f + 1) = BitVec.ofNat 64 b) then
    let beam := if x.restored then x.beamWas else x.frame
    if x.st = .off ∧ beam ≤ f then h.modCtx c fun x => { x with admitted := false, restored := false }
    else if x.restored ∧ beam ≤ f then h
    else
      let fl := (h.lateness c f).1
      let h := h.freezeFrame c f
      let h := if fl ≠ 0 then h.cibLate c else h
      if x.st = .off ∧ beam ≤ f + 1 then h.modCtx c fun x => { x with admitted := false, restored := false } else h
  else h

/-- What Bell b does to cottage c: publication, the values that take effect at a Bell, the end of its tick hold, its
admission (R22, R23, R32, R60, R231, R301). A context at its capture point stays in OFF or THOLD (R300, R301). -/
def bellCottage (h : Hw) (c b : Nat) : Hw :=
  let h := h.bellPublish c b
  let h := h.modPorch c fun p => { p with pub := h.flag F.COT_CTL_PUB c }
  let h := (h.syncStream c 0).syncStream c 1
  let x := h.ctx c
  if x.st = .off then
    if h.flag F.COT_CTL_RUN c && h.admReady c && !x.admitted && !h.hayHolds c &&
        (h.slotOf c).isSome then h.admitCot c b
    else h
  else if x.restored then
    let h := h.beginAt c b
    if x.st = .thold ∧ ¬ h.hayHolds c then h.tickOver c else h
  else if x.st = .thold && h.bellPassed c x.frame && !h.hayHolds c then h.tickOver c
  else h

/-- A pulse on every Lane that carries the Bell output of parish n (R428). -/
def bellPulse (h : Hw) (n : Nat) : Hw :=
  if h.fld F.LAN_BELL_PAR = n then
    h.each (List.range 48) fun h l =>
      if h.fld F.LAN_CFG_FUNC 0 l = 14 ∧ h.fld F.LAN_CFG_SIG 0 l = 1 ∧ h.fld F.LAN_CFG_UNIT 0 l = 0 then
        (h.emit (.lane l true)).emit (.lane l false)
      else h
  else h

/-- A Bell of parish n: its number, the rate and source that wait for it, each cottage, the pulse and the PIC source
BELL. The first Bell is Bell 0 (R29). Bells keep counting in module sleep (R474). -/
def bell (h : Hw) (n : Nat) : Hw :=
  let p := h.parish n
  if p.bellRuns && (h.act || h.power.asleep) then
    let b := if p.bell0Due then 0 else h.bellNow n + 1
    let h := h.setFld F.BEL_COUNT_COUNT n 0 b
    let src := h.fld F.BEL_CTL_SRC n
    let h := h.modParish n fun p =>
      { p with
        corrSeen := [], bell0Due := false, bellPend := false, srcPend := false,
        rates := if p.bellPend then
            ⟨b, h.bellTime n b, bellPeriod (h.fld F.BEL_CTL_PRESET n) (h.reg .BEL_PERIOD n).toNat⟩ :: p.rates
          else p.rates,
        srcInForce := if p.srcPend then src else p.srcInForce,
        lockLostNow := if p.srcPend then false else p.lockLostNow }
    let h := if p.srcPend then h.setFld F.BEL_STAT_LOCKED n 0 0 else h
    let h := if p.srcPend && !h.sourceGives n then h.bellSourceLost n else h
    let h := h.each (h.parishCots n) fun h c => h.bellCottage c b
    (h.bellPulse n).picEvent n 256
  else h

/-! ### The beam scheduler -/

/-- The eligible context of a core with the earliest deadline; ties go to the lower slot (R30). -/
def eligible (h : Hw) (n core : Nat) : Option Nat :=
  (List.range 16).foldl (fun best slot =>
    let c := 256 * n + 16 * core + slot
    if (h.ctx c).st = .ready then
      match best with
      | none => some c
      | some b => if h.earlier c b then some c else some b
    else best) none

/-- The slots of a core hold no context that became eligible ahead of the one that ran. -/
def clearAhead (h : Hw) (n core : Nat) : Hw :=
  h.each (List.range 16) fun h slot =>
    let c := 256 * n + 16 * core + slot
    if (h.ctx c).ahead then h.modCtx c fun x => { x with ahead := false } else h

/-- A context of a core became eligible with an earlier deadline than the one the core runs (R30). -/
def preempts (h : Hw) (n core : Nat) : Bool :=
  (List.range 16).any fun slot => (h.ctx (256 * n + 16 * core + slot)).ahead

/-- The core picks the context that issues next: it keeps the one it runs unless a context with an earlier deadline has become
eligible meanwhile (R30, R34). -/
def schedulerPick (h : Hw) (n core : Nat) : Hw :=
  match h.eligible n core, h.running n core with
  | none, _ => h
  | some c, none => (h.clearAhead n core).runCot c
  | some c, some d => if h.preempts n core then ((h.setSt d .ready).clearAhead n core).runCot c else h

end Hw

end Sys2Proof.Machine

/-! ### The commands -/

namespace Sys2Proof.Machine

/-- SCHEDULER_PICK (R30): core `core` of parish n picks the context that issues next. -/
def execSchedulerPick (n : Nat) (core : Nat) (s : State) : Host.Outcome State Fault Refusal :=
  s.runLive fun h => h.schedulerPick n core

/-- BELL (R22): a Bell of parish n. -/
def execBell (n : Nat) (s : State) : Host.Outcome State Fault Refusal :=
  s.runKeep fun h => h.bell n

/-- BELL_RATE_WRITE (R24): a write of BEL_PERIOD (custom) or of BEL_CTL. -/
def execBellRateWrite (ag : Agent) (n : Nat) (custom : Bool) (v : DWord) (s : State) : Host.Outcome State Fault
    Refusal :=
  s.runLive fun h => h.bellRateWrite ag n custom v

/-- BELL_SOURCE_WRITE (R26): a write of BEL_CTL.SRC. -/
def execBellSourceWrite (ag : Agent) (n : Nat) (src : BitVec 2) (s : State) : Host.Outcome State Fault Refusal :=
  s.runLive fun h => h.bellSourceWrite ag n src

/-- BELL_SOURCE_LOST (R25): the source parish n's Bell is to lock to is lost. -/
def execBellSourceLost (n : Nat) (s : State) : Host.Outcome State Fault Refusal :=
  s.runLive fun h => h.bellSourceLost n

/-- BELL_RELOCK (R25): the slewing of parish n's Bell to its source ends in lock. -/
def execBellRelock (n : Nat) (s : State) : Host.Outcome State Fault Refusal :=
  s.runLive fun h => h.bellRelock n

end Sys2Proof.Machine
end

