-- ==== Sys2Proof/Machine/ChoirCmd.lean ====
section
/-!
DEFINITION. The Choir's commands: voice samples, mix samples, routes, host audio streams, the TDM ports and AMCLK
(R244 to R279). -/

namespace Sys2Proof.Machine.Hw

/-! ### Voice samples (R245 to R256, R278) -/

/-- The Choir generates the next voice sample of cottage c. Uncorrectable state, poisoned PCM data or a Granary error
contains the cottage; corrected state is counted. -/
def voiceSample (h : Hw) (c : Nat) (flaw : VoiceFlaw) : Hw :=
  if (h.slotOf c).isNone || (h.ctx c).st == .cont || (!h.sampleDue c && !h.journalServed c) then h
  else
    match flaw with
    | .ecc => h.containWith c .CHR 0x02 (detailOf .CHR [0x02, c])
    | .map .uncorrectable => h.mapEccFatal
    | _ =>
      let h := if flaw = .map .corrected then h.mapEccCorrected else h
      let h := if flaw = .eccCorr then
          (h.count F.CHR_CNT_CORR_CORR (c / 256)).raiseParish 0 .CHR 0x01 (c / 256) (detailOf .CHR [0x01, c])
        else h
      match h.genSample c with
      | (none, h) => h
      | (some 0x100, h) => h.containWith c .CHR 0x03 (detailOf .CHR [0x03, c])
      | (some k, h) => h.containGrn c k (detailOf .GRN [k, c])

/-! ### Mix samples (R258 to R266) -/

/-- A route sink code that R263 defines. -/
def sinkOk (v : Nat) : Bool :=
  v == 0 || v == 1 || (decide (0x80 ≤ v) && decide (v < 0xA0) && v % 2 == 0)

/-- The cottage supplies voice samples to its bridge (R260). -/
def supplies (h : Hw) (c : Nat) : Bool :=
  let x := h.ctx c
  x.admitted && !([CotState.off, .snap, .halt, .cont].contains x.st)

/-- What begins at a mix-block boundary in one cottage: route and gain changes, a stream that its Armature enables
(R262, R265, R266, R270). -/
def mixBoundaryCot (h : Hw) (c m : Nat) : Hw :=
  let h := h.each (List.range 4) fun h r => h.routeBoundary c m r
  let h := h.busBoundary c m
  if h.flag F.CHR_S_CTL_EN c && !(h.cot c).choir.live then h.audioStart c m [] else h

/-- A boundary of 64 mix samples in parish n. -/
def mixBoundary (h : Hw) (n m : Nat) : Hw := h.each (h.parishCots n) fun h c => h.mixBoundaryCot c m

/-- Voice sample a comes no later than b: frame, number. -/
def notAfter (a b : Nat × Nat) : Bool := decide (a.1 < b.1) || (a.1 == b.1 && decide (a.2 ≤ b.2))

/-- The halvings of the voice rate ahead of the converter: at most five, until the rate is at most 96 kHz (R258). -/
def halvings (h : Hw) (c : Nat) : Nat :=
  let k := h.cls c
  let rate := k.vspl * k.tl * 3 * 2 ^ 32 * 1000000000
  let limit := 96000 * (h.bellRate (c / 256)).period
  ((List.range 5).find? fun s => decide (rate ≤ limit * 2 ^ s)).getD 5

/-- What the bridge's converter makes of its window in one channel: silence of silence, for it is linear (DEDUCED). -/
def bridgeValue (h : Hw) (c phase : Nat) (l : List Int) : Int :=
  if l.all (· == 0) then 0 else Config.bridge (h.halvings c) phase l

/-- The bridge takes the samples up to the one needed 64 mix samples ahead into its window; the samples presented and those that
were late for it are gone (R259, R260). The window is kept to 8,192 samples (log entry 19). -/
def bridgeTake (h : Hw) (c : Nat) (t : BridgeClock) : Hw :=
  h.modChoir c fun s =>
    let due := s.bridge.filter fun b => notAfter (b.frame, b.n) t.ahead
    { s with bridge := s.bridge.filter fun b => !notAfter (b.frame, b.n) t.ahead,
             taps := ((due.map fun b => (b.l, b.r)).reverse ++ s.taps).take 8192, presented := some t.now }

/-- The gain of the bridge at a mix sample, in 1/64 (R260): one step towards 0 while the sample needed ahead is not generated, while
the phase is off, or while the cottage supplies none, and one step up otherwise. Lateness is what lowers it until it is
full again. -/
def bridgeFade (h : Hw) (c : Nat) (clock : Option BridgeClock) (realign : Bool) : Hw :=
  let s := (h.cot c).choir
  let made := match clock with
    | some t => (decide (t.ahead.1 < s.frame) || (t.ahead.1 == s.frame && decide (t.ahead.2 < s.sample))) && !realign
    | none => false
  let supplies := h.supplies c && clock.isSome
  h.modChoir c fun s =>
    if supplies && made then { s with fade := min 64 (s.fade + 1), fadeLate := s.fadeLate && decide (s.fade + 1 < 64) }
    else { s with fade := s.fade - 1, fadeLate := supplies }

/-- One channel through the DC blocker (R261) and the mix bus, ahead of its gain (R262): its value and its filters after. `w` is
the part of the high-pass filter in 1/4,096. -/
def mixFilter (f : MixFilter) (w : Nat) (x : Int) : Int × MixFilter :=
  let y := x - f.dcIn + (if f.dcOut = 0 then 0 else Config.dcDecay f.dcOut)
  let z := if [y, f.in1, f.in2, f.out1, f.out2].all (· == 0) then 0 else Config.subsonic y f.in1 f.in2 f.out1 f.out2
  ((z * w + y * (4096 - w : Nat)) / 4096, ⟨x, y, y, f.in1, z, f.out1⟩)

/-- The mix bus of cottage c at mix sample m: the bridge, the DC blocker, the high-pass filter as far as it is selected, the bus
gain (R258 to R262). -/
def mixBus (h : Hw) (c m : Nat) (clock : Option BridgeClock) (realign : Bool) : Int × Int × Hw :=
  let h := match clock with
    | some t => h.bridgeTake c t
    | none => h
  let h := h.bridgeFade c clock realign
  let s := (h.cot c).choir
  let phase := (clock.map (·.phase)).getD 0
  let x := fun (l : List Int) => (h.bridgeValue c phase l * s.fade).tdiv 64
  let (l, left) := mixFilter s.left (s.sub.at m) (x (s.taps.map (·.1)))
  let (r, right) := mixFilter s.right (s.sub.at m) (x (s.taps.map (·.2)))
  let g : Int := s.gain.at m
  (l * g / 4096, r * g / 4096, h.modChoir c fun s => { s with left := left, right := right })

/-- Bus × gain >> 12 goes beyond 24 bits (R264). -/
def clips (bus : Int) (gain : Nat) : Bool := bus * gain / 4096 != routeOut bus gain

/-- Marks the ports whose slot count a route goes beyond (R263). -/
def markUnused (h : Hw) (sink : Nat) : Hw :=
  if 0x80 ≤ sink then
    let p := sink / 16 % 2
    if h.fld F.CHR_TDM_CTL_SLOTS 0 p ≤ sink % 16 + 1 then h.setFld F.CHR_TDM_STAT_UNUSED 0 p 1 else h
  else h

/-- One mix sample of a cottage: bus, four routes, the host stream (R258 to R264, R269). -/
def mixCot (h : Hw) (c m : Nat) (clock : Option BridgeClock) (realign : Bool) : Hw :=
  let h := if 240 ≤ (h.cot c).choir.samples.length then h.publishBlock c else h
  let (l, r, h) := h.mixBus c m clock realign
  let s := (h.cot c).choir
  let goal := (List.range 4).flatMap fun k => h.routeGains c k m
  let sent := goal.map fun p => (p.1, routeOut l p.2, routeOut r p.2)
  let h := h.each goal fun h p => h.markUnused p.1
  let host := sent.filter fun e => e.1 == 1
  let pair := host.foldl (fun (a : Int × Int) e =>
    (clampI (-8388608) 8388607 (a.1 + e.2.1), clampI (-8388608) 8388607 (a.2 + e.2.2))) (0, 0)
  let clipped := goal.any fun p => p.1 == 1 && (clips l p.2 || clips r p.2)
  let late := s.fadeLate && decide (s.fade < 64)
  let h := if late then h.count F.CHR_CNT_LATE_LATE (c / 256) else h
  let fed := if s.fade = 0 then none else clock.map fun t => t.now.1 % 2 ^ 32
  let h := h.modChoir c fun s =>
    let s := { s with outs := (sent :: s.outs).take 17 }
    if s.live && decide (s.startAt ≤ m) then { s with samples := s.samples ++ [⟨pair.1, pair.2, late, clipped, fed⟩] } else s
  h.routeSettle c m

/-- One 48 kHz mix sample of parish n (R258 to R265). -/
def mixSample (h : Hw) (n : Nat) (clocks : List BridgeClock) (realign : List Nat) : Hw :=
  if (h.parish n).arm.isNone then h
  else
    let m := h.fld F.CHR_MIXPOS_POS n
    let h := if m % 64 = 0 then h.mixBoundary n m else h
    let h := h.each (h.parishCots n) fun h c => 
      h.mixCot c m (clocks.find? fun t => t.k == c % 256) (realign.contains (c % 256))
    h.countWrap F.CHR_MIXPOS_POS n

/-- The boundary of a mix block in parish n: what waits for it begins (R265). -/
def mixBlockBoundary (h : Hw) (n : Nat) : Hw :=
  let m := h.fld F.CHR_MIXPOS_POS n
  if (h.parish n).arm.isSome && m % 64 == 0 then h.mixBoundary n m else h

/-! ### CHR_RT and CHR_BUS (R262, R266) -/

/-- The boundary from which route r of cottage c has nothing in progress, `due` being the earliest (R265, R266). -/
def routeTakes (h : Hw) (c r due : Nat) : Nat :=
  match ((h.cot c).choir.routes.find? fun e => e.1 == r).map (·.2) with
  | some v => max due (64 * ceilDiv (v.start + v.len) 64)
  | none => due

/-- A write now of route r with a sink would give it the sink of route k as well: one that k has until then, or will have
(R266). -/
def routeTwice (h : Hw) (c r k sink : Nat) : Bool :=
  let now := h.fld F.CHR_RT_SINK (c / 256) (c % 256 * 4 + k) == sink
  match NTable.get 0 (h.cot c).choir.routePend k with
  | 0 => now
  | code =>
    (code - 1) % 256 == sink ||
      (now && decide (h.routeTakes c r (nextBoundary (h.fld F.CHR_MIXPOS_POS (c / 256))) <
        h.routeTakes c k (NTable.get 0 (h.cot c).choir.routeDue k)))

/-- A write of CHR_RT: reserved sinks, a second route to one sink and gains above 4,096 are refused (R266, R276). -/
def routeWrite (h : Hw) (ag : Agent) (c r : Nat) (v : Word) : Hw :=
  let sink := bits v.toNat 7 0
  let gain := bits v.toNat 28 16
  let twice := sink ≠ 0 && (List.range 4).any fun k => k != r && h.routeTwice c r k sink
  h.guarded ag .CHR_RT (c / 256) (c % 256 * 4 + r) v.toNat (sinkOk sink && !twice && decide (gain ≤ 4096)) fun h =>
    h.routeAsk c r sink gain

/-- A write of CHR_BUS: RAMP above 50 or BGAIN above 4,096 is refused; the gain ramps from the next boundary (R262,
R275). -/
def chrBusWrite (h : Hw) (ag : Agent) (c : Nat) (v : Word) : Hw :=
  h.guarded ag .CHR_BUS c 0 v.toNat (decide (bits v.toNat 21 16 ≤ 50) && decide (bits v.toNat 12 0 ≤ 4096)) fun h =>
    (h.storeFields .CHR_BUS c 0 v.toNat).modChoir c fun s =>
      { s with busDue := nextBoundary (h.fld F.CHR_MIXPOS_POS (c / 256)) }

/-! ### Host audio streams (R267, R270) -/

/-- EN of a host stream has been written 1. Where it was 0 a new stream starts at the next boundary, behind the block in progress of
an earlier one; where it was 1 the stream goes on in the ring named, with DISC if a ring error had stopped it (R270, R278). -/
def audioOn (h : Hw) (c : Nat) (was : Bool) : Hw :=
  let s := (h.cot c).choir
  let stopped := h.flag F.CHR_S_STAT_STOPPED c
  let h := h.setFld F.CHR_S_STAT_STOPPED c 0 0
  let m := nextBoundary (h.fld F.CHR_MIXPOS_POS (c / 256))
  if !s.live then h.audioStart c m []
  else if !was then h.modChoir c fun s => { s with restart := some m }
  else h.modChoir c fun s => { s with ring := h.fld F.CHR_S_CTL_RING c, disc := s.disc || stopped }

/-- EN of a host stream has been written 0: the block in progress is the last (R270). -/
def audioOff (h : Hw) (c : Nat) : Hw :=
  h.modChoir c fun s =>
    { s with restart := none, live := s.live && !s.samples.isEmpty, stopping := s.live && !s.samples.isEmpty }

/-- A write of CHR_S_CTL (R267): the ring must be one that streams may name (R217, R339); a stream without a SLOTS
source must fit the OUTPUT sum of its port. -/
def hostAudioEnable (h : Hw) (ag : Agent) (c : Nat) (v : Word) : Hw :=
  let v := v.toNat
  let old := (h.reg .CHR_S_CTL c).toNat
  let en := bit v 0
  let was := bit old 0
  let ringFits := !en || (was && bits v 31 16 == bits old 31 16) ||
    h.streamRingOk c ((h.ownerOf c).getD 0) (bits v 31 16)
  let adds := en && !was && ((h.slotOf c).map (·.audio)) == some 0
  let fits := !adds || decide (h.outputSum ((h.portOf c).getD 0) + 3072000000 ≤ outputLimit)
  h.guarded ag .CHR_S_CTL c 0 v (ringFits && fits) fun h =>
    let h := h.storeFields .CHR_S_CTL c 0 v
    if en then h.audioOn c was else h.audioOff c

/-- An audio block is complete: it is published, or owed as a gap (R270). -/
def audio (h : Hw) (c : Nat) : Hw :=
  if 240 ≤ (h.cot c).choir.samples.length then h.publishBlock c else h

/-! ### TDM ports (R271 to R274) -/

/-- The state of TDM port p. -/
def tdmPort (h : Hw) (p : Nat) : TdmPort := NTable.get TdmPort.reset h.tdm p
/-- Replaces it. -/
def setTdmPort (h : Hw) (p : Nat) (x : TdmPort) : Hw := { h with tdm := NTable.set TdmPort.reset h.tdm p x }

/-- A gap record of port p (R273). -/
def tdmGap (h : Hw) (p first count : Nat) : Hw :=
  h.raiseShared 0 .CHR 0x05 5 p none (detailOf .CHR [0x05, p, first, count])

/-- The run of zero frames, if any, has ended: its record is written and counted (R273). -/
def tdmEndRun (h : Hw) (p : Nat) : Hw :=
  match (h.tdmPort p).zeros with
  | none => h
  | some (first, n) =>
    ((h.setTdmPort p { h.tdmPort p with zeros := none }).count F.CHR_TDM_GAP_GAP 0 p n).tdmGap p first n

/-- A stopped port goes on: with a gap record (R272, R274). -/
def tdmResume (h : Hw) (p : Nat) : Hw :=
  let t := h.tdmPort p
  if h.flag F.CHR_TDM_CTL_EN 0 p && (t.stopped || t.resumes) && !t.noClock then
    let h := h.setTdmPort p { t with stopped := false, resumes := false }
    (h.setFld F.CHR_TDM_STAT_ACTIVE 0 p 1).tdmGap p (h.fld F.CHR_TDM_FRAME_FRAME 0 p) 0
  else h

/-- The saturating sum of every route aimed at a slot pair, from the mix sample 16 before the latest (R264, R271). -/
def tdmSum (h : Hw) (sink : Nat) : (Int × Int) × Bool :=
  let all := h.cots.flatMap fun e => ((e.2.choir.outs.drop 16).headD []).filter fun o => o.1 == sink
  let l := (all.map (·.2.1)).sum
  let r := (all.map (·.2.2)).sum
  let k := clampI (-8388608) 8388607
  ((k l, k r), k l != l || k r != r)

/-- Some route is aimed at a slot pair in the window that a frame draws on. -/
def tdmRouted (h : Hw) (sink : Nat) : Bool := h.cots.any fun e => e.2.choir.outs.any fun l => l.any fun o => o.1 == sink

/-- A slot's 32 bits: the 24 bits of a value, MSB first, then 8 zeros (R271). -/
def slotWord (v : Int) : Word := BitVec.ofInt 24 v ++ (0 : BitVec 8)

/-- Port p sends a frame in its framing (R271); it is lost where no Lane carries DATA (R418). -/
def tdmSend (h : Hw) (p : Nat) (l : List Word) : Hw :=
  let frame := h.fld F.CHR_TDM_FRAME_FRAME 0 p
  let h := (h.countWrap F.CHR_TDM_FRAME_FRAME 0 p).setTdmPort p { h.tdmPort p with last := l }
  if (h.laneOf 13 p 2).isSome then h.emit (.tdm p frame (h.fld F.CHR_TDM_CTL_MODE 0 p) (h.flag F.CHR_TDM_CTL_SLAVE 0 p) l)
  else h

/-- One frame of TDM port p: the sums of its slot pairs, or zeros if the data is not ready (R271, R273). Above 48 kHz
the interpolated values of slots that a route is aimed at are free (log entry 19). -/
def tdmPortFrame (h : Hw) (p : Nat) (ready : Bool) : Hw :=
  let h := h.tdmResume p
  if !h.flag F.CHR_TDM_STAT_ACTIVE 0 p then h
  else
    let slots := h.fld F.CHR_TDM_CTL_SLOTS 0 p
    let frame := h.fld F.CHR_TDM_FRAME_FRAME 0 p
    if !ready then
      let t := h.tdmPort p
      let run := match t.zeros with
        | some (a, n) => (a, n + 1)
        | none => (frame, 1)
      ((h.setTdmPort p { t with zeros := some run }).setFld F.CHR_TDM_STAT_UNDERRUN 0 p 1).tdmSend p
        (List.replicate slots 0)
    else
      let h := h.tdmEndRun p
      let sinks := (List.range (slots / 2)).map fun k => 0x80 + 16 * p + 2 * k
      let sums := sinks.map h.tdmSum
      let h := if sums.any (·.2) then h.setFld F.CHR_TDM_STAT_CLIP 0 p 1 else h
      let exact := sums.flatMap fun x => [slotWord x.1.1, slotWord x.1.2]
      let (out, h) := if h.fld F.CHR_TDM_CTL_RATE 0 p = 0 then (exact, h)
        else sinks.foldl (fun (a : List Word × Hw) k =>
          if a.2.tdmRouted k then
            let (d, g) := a.2.draw
            (a.1 ++ [BitVec.ofNat 24 d.toNat ++ (0 : BitVec 8), BitVec.ofNat 24 (d.toNat / 2 ^ 32) ++ (0 : BitVec 8)], g)
          else (a.1 ++ [0, 0], a.2)) ([], h)
      h.tdmSend p out

/-- A slave FSYNC period off by more than one BCLK: a frame is repeated, or dropped, with SLIP and a gap record that names it
(R273). -/
def tdmSlip (h : Hw) (p : Nat) (again : Bool) : Hw :=
  if h.flag F.CHR_TDM_STAT_ACTIVE 0 p && h.flag F.CHR_TDM_CTL_SLAVE 0 p then
    let h := (h.setFld F.CHR_TDM_STAT_SLIP 0 p 1).tdmGap p (h.fld F.CHR_TDM_FRAME_FRAME 0 p) 1
    if again then h.tdmSend p (h.tdmPort p).last else h.countWrap F.CHR_TDM_FRAME_FRAME 0 p
  else h

/-- A configuration that R271 allows. -/
def tdmOk (v : Nat) : Bool :=
  let slots := bits v 20 16
  let rate := bits v 13 12
  let mode := bits v 9 8
  [2, 4, 8, 16].contains slots && decide (rate ≤ 2) && decide (mode ≤ 2) && (mode != 0 || slots == 2) &&
    decide (48000 * 2 ^ rate * slots ≤ 768000)

/-- A write of CHR_TDM_CTL (R272): refused with CFG_REJ, or stored; EN starts and stops the port, and a change of RATE,
SLOTS or MODE while EN is 1 stops it until its next frame. -/
def tdmConfigWrite (h : Hw) (ag : Agent) (p : Nat) (v : Word) : Hw :=
  let v := v.toNat
  let old := (h.reg .CHR_TDM_CTL 0 p).toNat
  if !h.sees ag .CHR_TDM_CTL 0 p then h.refuseView ag .CHR_TDM_CTL 0 p
  else if !tdmOk v then (h.setFld F.CHR_TDM_STAT_CFG_REJ 0 p 1).refuse ag .CHR_TDM_CTL 0 p
  else
    let h := h.storeFields .CHR_TDM_CTL 0 p v
    let t := h.tdmPort p
    if !bit v 31 then
      let h := h.tdmEndRun p
      (h.setTdmPort p { h.tdmPort p with stopped := false, resumes := false }).setFld F.CHR_TDM_STAT_ACTIVE 0 p 0
    else if !bit old 31 then
      let h := h.setFld F.CHR_TDM_FRAME_FRAME 0 p 0
      let h := h.setTdmPort p { t with stopped := t.noClock, resumes := t.noClock }
      h.setFld F.CHR_TDM_STAT_ACTIVE 0 p (b2n (!t.noClock))
    else if bits v 20 16 ≠ bits old 20 16 ∨ bits v 13 12 ≠ bits old 13 12 ∨ bits v 9 8 ≠ bits old 9 8 then
      let h := h.tdmEndRun p
      (h.setTdmPort p { h.tdmPort p with stopped := true, resumes := true }).setFld F.CHR_TDM_STAT_ACTIVE 0 p 0
    else h

/-! ### AMCLK (R274) -/

/-- A write of CHR_AMCLK: a change of SRC stops both ports until the PLL is locked. -/
def amclkSourceWrite (h : Hw) (ag : Agent) (v : Word) : Hw :=
  let moved := bit v.toNat 0 != h.flag F.CHR_AMCLK_SRC
  h.guarded ag .CHR_AMCLK 0 0 v.toNat true fun h =>
    let h := h.storeFields .CHR_AMCLK 0 0 v.toNat
    if moved then
      let h := h.setFld F.CHR_AMCLK_LOCKED 0 0 0
      h.each [0, 1] fun h p =>
        let running := h.flag F.CHR_TDM_CTL_EN 0 p
        let h := h.tdmEndRun p
        (h.setTdmPort p { h.tdmPort p with noClock := true, stopped := running, resumes := running }).setFld
          F.CHR_TDM_STAT_ACTIVE 0 p 0
    else h

/-- The source of AMCLK is lost: the PLL holds its frequency, with LOCK_LOST and one record. -/
def amclkLost (h : Hw) : Hw :=
  if h.flag F.CHR_AMCLK_LOCKED then
    ((h.setFld F.CHR_AMCLK_LOCKED 0 0 0).setFld F.CHR_AMCLK_LOCK_LOST 0 0 1).raiseModule 0 .CHR 0x06
      (detailOf .CHR [0x06])
  else h

/-- The audio PLL locks: ports that a change of SRC stopped go on. -/
def amclkLock (h : Hw) : Hw :=
  let h := h.setFld F.CHR_AMCLK_LOCKED 0 0 1
  h.each [0, 1] fun h p =>
    let t := h.tdmPort p
    if t.noClock then (h.setTdmPort p { t with noClock := false }).tdmResume p else h

end Sys2Proof.Machine.Hw

/-! ### The commands -/

namespace Sys2Proof.Machine

/-- VOICE_SAMPLE (R254): the Choir generates the next voice sample of cottage c. -/
def execVoiceSample (c : Nat) (flaw : VoiceFlaw) (s : State) : Host.Outcome State Fault Refusal :=
  s.runLive fun h => h.voiceSample c flaw

/-- MIX_SAMPLE (R259): parish n produces one mix sample -/
def execMixSample (n : Nat) (clocks : List BridgeClock) (realign : List Nat) (s : State) : Host.Outcome State Fault Refusal :=
  s.runLive fun h => h.mixSample n clocks realign

/-- MIX_BLOCK_BOUNDARY (R265): a mix block of parish n begins. -/
def execMixBlockBoundary (n : Nat) (s : State) : Host.Outcome State Fault Refusal :=
  s.runLive fun h => h.mixBlockBoundary n

/-- ROUTE_WRITE (R266): a write of CHR_RT of route r of cottage c. -/
def execRouteWrite (ag : Agent) (c : Nat) (r : Nat) (v : Word) (s : State) : Host.Outcome State Fault Refusal :=
  s.runLive fun h => h.routeWrite ag c r v

/-- CHR_BUS_WRITE (R262): a write of CHR_BUS of cottage c. -/
def execChrBusWrite (ag : Agent) (c : Nat) (v : Word) (s : State) : Host.Outcome State Fault Refusal :=
  s.runLive fun h => h.chrBusWrite ag c v

/-- HOST_AUDIO_ENABLE (R267): a write of CHR_S_CTL of cottage c. -/
def execHostAudioEnable (ag : Agent) (c : Nat) (v : Word) (s : State) : Host.Outcome State Fault Refusal :=
  s.runLive fun h => h.hostAudioEnable ag c v

/-- AUDIO (R270): the last mix sample of cottage c's audio block is complete. -/
def execAudio (c : Nat) (s : State) : Host.Outcome State Fault Refusal :=
  s.runLive fun h => h.audio c

/-- TDM_PORT_FRAME (R271): a frame of TDM port p begins, its data ready or not. -/
def execTdmPortFrame (p : Nat) (ready : Bool) (s : State) : Host.Outcome State Fault Refusal :=
  s.runLive fun h => h.tdmPortFrame p ready

/-- TDM_SLIP (R273): an FSYNC period of slave port p is off by more than one BCLK. -/
def execTdmSlip (p : Nat) (s : State) (again : Bool := false) : Host.Outcome State Fault Refusal :=
  s.runLive fun h => h.tdmSlip p again

/-- TDM_CONFIG_WRITE (R272): a write of CHR_TDM_CTL of port p. -/
def execTdmConfigWrite (ag : Agent) (p : Nat) (v : Word) (s : State) : Host.Outcome State Fault Refusal :=
  s.runLive fun h => h.tdmConfigWrite ag p v

/-- AMCLK_SOURCE_WRITE (R274): a write of CHR_AMCLK. -/
def execAmclkSourceWrite (ag : Agent) (v : Word) (s : State) : Host.Outcome State Fault Refusal :=
  s.runLive fun h => h.amclkSourceWrite ag v

/-- AMCLK_LOST (R274): the source of AMCLK is lost. -/
def execAmclkLost (s : State) : Host.Outcome State Fault Refusal :=
  s.runLive fun h => h.amclkLost

/-- AMCLK_LOCK (R274): the audio PLL locks. -/
def execAmclkLock (s : State) : Host.Outcome State Fault Refusal :=
  s.runLive fun h => h.amclkLock

end Sys2Proof.Machine
end

