-- ==== Sys2Proof/Machine/Lanes.lean ====
section
/-!
DEFINITION. Lane pins (R417 to R429): ownership, GPIO, hand-overs, wake, BELL_REF and the small peripherals. -/

namespace Sys2Proof.Machine.Hw

/-! ### Functions and signals (R417, R418) -/

/-- The state of Treadle t. -/
def trd (h : Hw) (t : Nat) : Treadle := NTable.get Treadle.reset h.treadles t
/-- Replaces it. -/
def setTrd (h : Hw) (t : Nat) (x : Treadle) : Hw := { h with treadles := NTable.set Treadle.reset h.treadles t x }

/-- What the function of a Lane drives: a GPIO value, a Treadle output under its OE, a timer's compare output (R409, R422,
R430); none where it drives nothing, as a wake Lane in sleep (R427), or the spec gives no level. An open-drain Lane drives only 0. -/
def laneDrives (h : Hw) (l : Nat) : Option Bool :=
  let v := h.lanCfg l
  let func := bits v 3 0
  let sig := bits v 23 20
  let x :=
    if h.power.asleep ∧ bit v 15 then none
    else if func = 0 then (if bit v 8 then some (bit (h.fld F.LAN_OUT_VAL 0 (l / 16)) (l % 16)) else none)
    else if func ≤ 8 then
      (if 4 ≤ sig ∧ sig < 8 ∧ bit (h.trd (func - 1)).oe (sig - 4) then
        some (bit (h.fld F.TRD_STAT_OUT 0 (func - 1)) (sig - 4)) else none)
    else if func = 12 then (if sig = 0 then some (h.flag F.TMR_STAT_DWELL 0 (bits v 27 24)) else none)
    else none
  if bit v 9 && x == some true then none else x

/-- The level of a Lane's pad: held, driven, or what the outside gives (`outer`). -/
def laneLevel (h : Hw) (l : Nat) (outer : Bool) : Bool :=
  match h.laneHold l, h.laneDrives l with
  | some x, _ => x
  | none, some x => x
  | none, none => outer

/-! ### LAN_CFG and hand-overs (R420, R425, R426) -/

/-- A write of a Lane's configuration takes hold: a change of FUNC, UNIT or SIG disconnects the function, and the keeper holds
the level last driven or present; during a hold the level already held stays. -/
def laneSwitch (h : Hw) (l v : Nat) (present : Bool) : Hw :=
  let old := h.lanCfg l
  let moves := bits v 27 20 != bits old 27 20 || bits v 3 0 != bits old 3 0
  let level := h.laneLevel l present
  let h := h.storeFields .LAN_CFG 0 l v
  if moves then h.setLaneHold l (some level) else h

/-- A write of LAN_CFG[l]: the owner writes the Lane's fields, the security domain alone changes OWNER. `present` is the
pad's level from outside. -/
def lanCfgWrite (h : Hw) (ag : Agent) (l v : Nat) (present : Bool) : Hw :=
  let old := h.lanCfg l
  let owner := h.ownsCode (bits old 30 28) ag
  let moved := bits v 30 28 != bits old 30 28
  let others := mergeFields RegName.LAN_CFG.desc.fields old (setBits v 30 28 (bits old 30 28)) != old
  let ok := (owner || (h.secureAgent ag && !others)) && (!moved || h.secureAgent ag) && decide (bits v 30 28 ≠ 7)
  h.guarded ag .LAN_CFG 0 l v ok fun h => h.laneSwitch l v present

def functionSwitch (h : Hw) (ag : Agent) (l : Nat) (v : Word) (present : Bool) : Hw :=
  h.lanCfgWrite ag l v.toNat present

/-- c + 3 of a hand-over: the incoming function takes the pad. -/
def handoverTake (h : Hw) (l : Nat) : Hw := h.setLaneHold l none

/-! ### LAN_OUT and LAN_SEC (R421, R423) -/

/-- A write of LAN_OUT[b]: the masked Lanes that the writer owns; one report if others are masked. -/
def lanOutWrite (h : Hw) (ag : Agent) (b : Nat) (v : Word) : Hw :=
  if !h.sees ag .LAN_OUT 0 b then h.refuseView ag .LAN_OUT 0 b
  else
    let masked := (List.range 16).filter fun i => bit v.toNat (16 + i)
    let mine := masked.filter fun i => h.ownsCode (bits (h.lanCfg (16 * b + i)) 30 28) ag
    let val := mine.foldl (fun acc i => setBits acc i i (bits v.toNat i i)) (h.fld F.LAN_OUT_VAL 0 b)
    let h := h.setFld F.LAN_OUT_VAL 0 b val
    if mine.length = masked.length then h else h.refuse ag .LAN_OUT 0 b

/-- The one write of LAN_SEC. -/
def lanSecWrite (h : Hw) (ag : Agent) (v : Word) : Hw :=
  h.guarded ag .LAN_SEC 0 0 v.toNat (!h.flag F.LAN_SEC_LOCK) fun h =>
    (h.storeFields .LAN_SEC 0 0 v.toNat).setFld F.LAN_SEC_LOCK 0 0 1

/-! ### Sleep and BELL_REF (R427, R428, R474) -/

/-- Module sleep ends: CCLK runs, the timer units leave low-frequency mode. Larder banks and HBM stacks wake at their next
access. -/
def sleepEnds (h : Hw) : Hw :=
  let h : Hw := { h with power := { h.power with asleep := false } }
  ((h.setFld F.PWR_STAT_SLEEP 0 0 0).setFld F.PWR_CTL_SLEEP 0 0 0).tmrModes

/-- Lane l, the lowest-numbered wake Lane at WPOL for 61 µs, ends sleep. -/
def wakeLane (h : Hw) (l : Nat) : Hw :=
  if h.power.asleep && h.power.standby && bit (h.lanCfg l) 15 then
    ((h.setFld F.LAN_WAKE_VALID 0 0 1).setFld F.LAN_WAKE_LANE 0 0 l).sleepEnds
  else h

/-- A rising edge on the BELL_REF input reaches every parish. -/
def bellRefEdge (h : Hw) : Hw :=
  if (h.laneOf 14 0 0).isNone then h
  else h.each (List.range 16) fun h n => h.modParish n fun p => { p with refEdge := true }

/-- No edge within 1.5 periods of parish n. -/
def bellRefLost (h : Hw) (n : Nat) : Hw :=
  let h := h.modParish n fun p => { p with refEdge := false }
  if (h.parish n).srcInForce = 2 then h.bellSourceLost n else h

/-! ### Small peripherals (R429): register k of unit u in the order of the table -/

/-- The receive FIFO of UART u. -/
def uartFifo (h : Hw) (u : Nat) : List Byte := NTable.get [] h.uartRx u

/-- A register write of a peripheral unit by its owner; `n2` is the place of OWN in the unit. OWN is the security domain's. -/
def peripheralWrite (h : Hw) (ag : Agent) (n : RegName) (count own u k v : Nat) (act : Hw → Hw) : Hw :=
  let owner := (h.reg n 0 (count * u + own)).toNat % 8
  let ok := if k = own then h.secureAgent ag && decide (v ≤ 6) else h.ownsCode owner ag
  h.guarded ag n 0 (count * u + k) v ok act

/-- What an output signal carries leaves the block only if some Lane carries the signal; it is lost otherwise (R418). -/
def carried (h : Hw) (func unit sig : Nat) (x : Out) : Hw := if (h.laneOf func unit sig).isSome then h.emit x else h

/-- A write of LAN_UART_TX: the byte goes out. -/
def uartTx (h : Hw) (ag : Agent) (u : Nat) (b : Byte) : Hw :=
  h.peripheralWrite ag .LAN_UART 6 5 u 3 b.toNat fun h => h.carried 9 u 0 (.uart u b)

/-- A byte arrives at UART u, with a framing error (1), a parity error (2) or well (0): into the FIFO of 16 bytes, or an error
status: overrun, framing, parity in STAT bits 0, 1, 2 (places: log entry 34). -/
def uartRxByte (h : Hw) (u : Nat) (b : Byte) (err : Nat) : Hw :=
  let status := fun (h : Hw) (k : Nat) =>
    h.setReg .LAN_UART 0 (6 * u + 2) (BitVec.ofNat 64 (setBits (h.reg .LAN_UART 0 (6 * u + 2)).toNat k k 1))
  if (h.laneOf 9 u 1).isNone then h
  else if err = 1 ∨ err = 2 then status h err
  else if 16 ≤ (h.uartFifo u).length then status h 0
  else { h with uartRx := NTable.set [] h.uartRx u (h.uartFifo u ++ [b]) }

/-- A read of LAN_UART_RX takes the oldest byte; an empty FIFO reads 0. -/
def uartRxRead (h : Hw) (u : Nat) : Nat × Hw :=
  match h.uartFifo u with
  | [] => (0, h)
  | b :: l => (b.toNat, { h with uartRx := NTable.set [] h.uartRx u l })

/-- A read of LAN_FAN_TACH of unit u: the falling edges of a second, a free value, or none where no Lane carries the input (R429). -/
def fanTach (h : Hw) (u : Nat) : Nat × Hw :=
  if (h.laneOf 15 u 1).isSome then
    let (v, h) := h.draw
    (v.toNat % 2 ^ 32, h)
  else (0, h)

/-- A write of LAN_SPI_TX: a frame goes out, and the frame from MISO, 0 where no Lane carries it (R417), is in RX. -/
def spiTx (h : Hw) (ag : Agent) (u : Nat) (v miso : Word) : Hw :=
  h.peripheralWrite ag .LAN_SPI 7 6 u 3 v.toNat fun h =>
    let miso := if (h.laneOf 10 u 2).isSome then miso else 0
    ((h.setReg .LAN_SPI 0 (7 * u + 3) (v.setWidth 64)).setReg .LAN_SPI 0 (7 * u + 4) (miso.setWidth 64)).carried 10 u 1 (.spi u v)

/-- A write of LAN_I2C_CMD: a transaction, which leaves what the bus gives in DATA and STAT. -/
def i2cCmd (h : Hw) (ag : Agent) (u : Nat) (v data status : Word) : Hw :=
  h.peripheralWrite ag .LAN_I2C 7 6 u 4 v.toNat fun h =>
    (((h.setReg .LAN_I2C 0 (7 * u + 4) (v.setWidth 64)).setReg .LAN_I2C 0 (7 * u + 3) (data.setWidth 64)).setReg
      .LAN_I2C 0 (7 * u + 5) (status.setWidth 64)).carried 11 u 1 (.i2c u v)

/-- A write of another register of a peripheral unit: stored; STAT of a UART is W1C. -/
def peripheralStore (h : Hw) (ag : Agent) (n : RegName) (count own u k : Nat) (v : Word) : Hw :=
  h.peripheralWrite ag n count own u k v.toNat fun h =>
    let j := count * u + k
    if n = .LAN_UART ∧ k = 2 then
      h.setReg n 0 j (h.reg n 0 j &&& ~~~(v.setWidth 64))
    else h.setReg n 0 j (v.setWidth 64)

end Sys2Proof.Machine.Hw

/-! ### The commands -/

namespace Sys2Proof.Machine

/-- FUNCTION_SWITCH (R425): a write of LAN_CFG of Lane l, whose pad stands at `present` from outside. -/
def execFunctionSwitch (ag : Agent) (l : Nat) (v : Word) (present : Bool) (s : State) : Host.Outcome State Fault
    Refusal :=
  s.runLive fun h => h.functionSwitch ag l v present

/-- HANDOVER_TAKE (R425): c + 3 of a hand-over of Lane l. -/
def execHandoverTake (l : Nat) (s : State) : Host.Outcome State Fault Refusal :=
  s.runLive fun h => h.handoverTake l

/-- LAN_OUT_WRITE (R423): a write of LAN_OUT of bank b. -/
def execLanOutWrite (ag : Agent) (b : Nat) (v : Word) (s : State) : Host.Outcome State Fault Refusal :=
  s.runLive fun h => h.lanOutWrite ag b v

/-- LAN_SEC_WRITE (R421): a write of LAN_SEC. -/
def execLanSecWrite (ag : Agent) (v : Word) (s : State) : Host.Outcome State Fault Refusal :=
  s.runLive fun h => h.lanSecWrite ag v

/-- WAKE_LANE (R427): wake Lane l has been at WPOL for 61 µs. -/
def execWakeLane (l : Nat) (s : State) : Host.Outcome State Fault Refusal :=
  s.runWake fun h => h.wakeLane l

/-- BELL_REF_EDGE (R428): a rising edge on the BELL_REF input. -/
def execBellRefEdge (s : State) : Host.Outcome State Fault Refusal :=
  s.runLive fun h => h.bellRefEdge

/-- BELL_REF_LOST (R428): no BELL_REF edge within 1.5 Bell periods of parish n. -/
def execBellRefLost (n : Nat) (s : State) : Host.Outcome State Fault Refusal :=
  s.runLive fun h => h.bellRefLost n

/-- UART_TX (R429): a write of LAN_UART_TX of UART u. -/
def execUartTx (ag : Agent) (u : Nat) (b : Byte) (s : State) : Host.Outcome State Fault Refusal :=
  s.runLive fun h => h.uartTx ag u b

/-- UART_RX (R429): a byte arrives at UART u, with error err. -/
def execUartRxByte (u : Nat) (b : Byte) (err : Nat) (s : State) : Host.Outcome State Fault Refusal :=
  s.runLive fun h => h.uartRxByte u b err

/-- SPI_TX (R429): a write of LAN_SPI_TX of SPI u, whose frame receives `miso`. -/
def execSpiTx (ag : Agent) (u : Nat) (v : Word) (miso : Word) (s : State) : Host.Outcome State Fault Refusal :=
  s.runLive fun h => h.spiTx ag u v miso

/-- I2C_CMD (R429): a write of LAN_I2C_CMD of I2C u, whose transaction gives `data` and `status`. -/
def execI2cCmd (ag : Agent) (u : Nat) (v : Word) (data : Word) (status : Word) (s : State) : Host.Outcome State
    Fault Refusal :=
  s.runLive fun h => h.i2cCmd ag u v data status

end Sys2Proof.Machine
end

