-- ==== Sys2Proof/Machine/Armature.lean ====
section
/-!
DEFINITION. Armatures (R65 to R90, R525): reading an image, the checks, what APPLY does; Loom microcode images and the
staging banks (R168 to R172, R177). -/

namespace Sys2Proof.Machine

/-! ### Reading an image (R65, R66) -/

/-- A record of an image: index, type, RFLAGS, body. -/
structure RawRec where
  index : Nat
  type : Nat
  rflags : Nat
  body : List Byte
  deriving DecidableEq, Repr

/-- An n-byte field at an offset. -/
def fieldAt (l : List Byte) (off n : Nat) : Nat := fromLe ((l.drop off).take n)

/-- Cuts `left` records; none where they do not fill the bytes exactly. -/
def cutRecords : Nat → Nat → List Byte → Option (List RawRec)
  | 0, _, l => if l.isEmpty then some [] else none
  | left + 1, i, l =>
    let blen := fieldAt l 2 2
    if l.length < 8 ∨ blen % 8 ≠ 0 ∨ l.length < 8 + blen then none
    else
      match cutRecords left (i + 1) (l.drop (8 + blen)) with
      | none => none
      | some r => some (⟨i, fieldAt l 0 2, fieldAt l 4 2, (l.drop 8).take blen⟩ :: r)

/-- The header and records of an image of a KIND whose LEN was written as `len`; none is a FORMAT refusal. -/
def openImage (img : List Byte) (kind len : Nat) : Option (List RawRec) :=
  let n := img.length
  if n = len ∧ 256 ≤ n ∧ n ≤ 0x100000 ∧ n % 8 = 0 ∧ fieldAt img 0 4 = 0x544D5241 ∧ fieldAt img 4 2 = 1 ∧
      fieldAt img 6 1 = kind ∧ fieldAt img 7 1 ≤ 3 ∧ fieldAt img 8 4 = n then
    cutRecords (fieldAt img 0x0C 2) 0 ((img.drop 64).take (n - 160))
  else none

/-- A function number from an OWNER field, or none for a value it does not take (R72). -/
def ownerOfField (v : Nat) : Option Nat := if v < 512 ∧ v % 256 ≤ 128 then some (v / 256 * 129 + v % 256) else none

/-- KIND, least and greatest count, and body length (0: none fixed) of a record type (R67). -/
def recordType (type : Nat) : Option (Nat × Nat × Nat × Nat) :=
  match type with
  | 0x0001 => some (2, 1, 16, 64)
  | 0x0002 => some (2, 1, 256, 16)
  | 0x0003 => some (2, 1, 1, 0)
  | 0x0004 => some (2, 1, 1, 56)
  | 0x0005 => some (2, 1, 1, 24)
  | 0x0006 => some (2, 1, 1, 16)
  | 0x0007 => some (2, 0, 1, 8)
  | 0x0101 => some (1, 0, 48, 8)
  | 0x0102 => some (1, 0, 64, 16)
  | 0x0103 => some (1, 0, 258, 8)
  | 0x0104 => some (1, 0, 1, 8)
  | _ => none

/-- The record types of a KIND. -/
def kindTypes (kind : Nat) : List Nat :=
  if kind = 2 then [1, 2, 3, 4, 5, 6, 7] else [0x101, 0x102, 0x103, 0x104]

/-- A record of its own kind and within its count, of the length its type has (R66 to R68, R74). `before` counts the records
of its type ahead of it. -/
def recordSound (kind before : Nat) (r : RawRec) : Bool :=
  match recordType r.type with
  | none => false
  | some (k, _, most, len) =>
    k == kind && decide (before < most) && (len == 0 || r.body.length == len) &&
      (r.type != 3 || (decide (8 ≤ r.body.length) && r.body.length == 8 + (4 * fieldAt r.body 7 1 + 7) / 8 * 8))

/-- Refusals found so far: check code and record index (0xFFFF for none). -/
abbrev Fails := List (Nat × Nat)

/-- The sound records and the RECORD refusals (R66, R68). -/
def sortRecords (kind : Nat) : List RawRec → List RawRec → List RawRec × Fails
  | seen, [] =>
    ([], (kindTypes kind).filterMap fun t =>
      match recordType t with
      | some (_, least, _, _) => if (seen.filter (·.type == t)).length < least then some (0x07, 0xFFFF) else none
      | none => none)
  | seen, r :: rest =>
    let (good, bad) := sortRecords kind (r :: seen) rest
    match recordType r.type with
    | none => (good, if bit r.rflags 0 then (0x07, r.index) :: bad else bad)
    | some _ =>
      if recordSound kind (seen.filter (·.type == r.type)).length r then (r :: good, bad)
      else (good, (0x07, r.index) :: bad)

/-- CODE, FAILMASK and REC of what failed (R82, R84). REC is the lowest record that any failed check refused, whichever check
CODE names (log entry 52). -/
def failResult (l : Fails) : Nat × Nat × Nat :=
  let codes := (List.range 18).filter fun c => l.any fun e => e.1 == c
  (codes.head?.getD 0, (codes.map fun c => 2 ^ (c - 4)).sum, (l.map (·.2)).foldl min 0xFFFF)

/-! ### CLASS, SLOTS, LARDER, ARB, BELL (R69 to R76) -/

/-- A CLASS record. -/
def classOfBytes (b : List Byte) : ClassRec :=
  let f := fieldAt b
  { id := f 0 1, layers := f 1 1, forms := f 2 1, voices := f 3 1, width := f 4 2, height := f 6 2, tl := f 8 2,
    vcpl := f 0xA 2, hstart := f 0xC 2, pixcyc := f 0xE 1, vspl := f 0xF 1, sprFrame := f 0x10 2, sprLine := f 0x12 1,
    vramKib := f 0x14 2, wramKib := f 0x16 2, vsrcMax := f 0x18 2, timing := (b.drop 0x20).map (·.toNat), body := b }

/-- The ranges of a class (R21, R69, R70, R182). HEIGHT as R69 words it, a multiple of 16 (log entry 42). The sprite plane
counts where the class has sprites. -/
def classOk (k : ClassRec) : Bool :=
  let planes := bits k.layers 2 0
  let videos := bits k.layers 5 4
  decide (k.id ≤ 15) && decide (planes ≤ 4) && decide (videos ≤ 2) && decide (bits k.forms 3 0 ≠ 0) &&
    decide (bits k.forms 5 4 ≠ 0) && decide (k.voices ≤ 32) && decide (16 ≤ k.width ∧ k.width ≤ 1024) &&
    k.width % 16 == 0 && decide (16 ≤ k.height ∧ k.height ≤ 768) && k.height % 16 == 0 && decide (k.height < k.tl) &&
    decide (k.tl ≤ 1023) && decide (1 ≤ k.vcpl ∧ k.vcpl ≤ 4095) && decide (16 ≤ k.pixcyc) &&
    decide (1 ≤ k.vspl ∧ k.vspl ≤ 8) && decide (k.sprFrame ≤ 256) && decide (k.sprLine ≤ 64 ∧ k.sprLine ≤ k.sprFrame) &&
    decide (1 ≤ k.vramKib ∧ k.vramKib ≤ 1024) && decide (1 ≤ k.wramKib ∧ k.wramKib ≤ 4096) && decide (k.vsrcMax ≤ 2048) &&
    (videos != 0 || k.vsrcMax == 0) && k.timing.all (fun t => decide (1 ≤ t)) &&
    decide (k.hstart + (k.width - 1) * k.pixcyc / 16 < k.vcpl) &&
    decide (planes + bits k.layers 3 3 + b2n (k.sprFrame ≠ 0) + videos ≤ 7)

/-- A SLOTS record whose OWNER is a function. -/
def slotsOfBytes (b : List Byte) (owner : Nat) : SlotsRec :=
  let f := fieldAt b
  { coreFirst := f 0 1, coreCount := f 1 1, slotFirst := f 2 1, slotCount := f 3 1, cls := f 4 1, flags := f 5 1,
    owner := owner, sinkfmt := f 8 1, audio := f 9 1, routes := ((b.drop 0xA).take 4).map (·.toNat) }

/-- The ranges of a SLOTS record (R72, R263). -/
def slotsOk (s : SlotsRec) : Bool :=
  let used := s.routes.filter (· ≠ 0)
  decide (1 ≤ s.coreCount ∧ s.coreFirst + s.coreCount ≤ 16) && decide (1 ≤ s.slotCount ∧ s.slotFirst + s.slotCount ≤ 16) &&
    decide (s.sinkfmt ≤ 5) && decide (s.audio ≤ 1) && s.routes.all Hw.sinkOk && decide used.Nodup

/-- The contexts, within the parish, of a SLOTS record. -/
def slotsContexts (s : SlotsRec) : List Nat :=
  (List.range s.coreCount).flatMap fun i => (List.range s.slotCount).map fun j => 16 * (s.coreFirst + i) + s.slotFirst + j

/-- A LARDER record's fields (R74); entries of an OWNER that is no function carry the number 0x3FF. -/
def larderOfBytes (b : List Byte) : LarderRec :=
  let f := fieldAt b
  { pcache := (b.take 4).map (·.toNat), l2 := f 4 1, linebuf := f 5 1, choir := f 6 1,
    entries := (List.range (f 7 1)).map fun i => ((ownerOfField (f (8 + 4 * i) 2)).getD 0x3FF, f (10 + 4 * i) 2) }

/-- The check of R74 and R75 over the cottages' classes. -/
def larderOk (a : LarderRec) (video : Bool) (cots : List ClassRec) (owners : List Nat) : Bool :=
  let tally := ceilDiv cots.length 8
  let used := tally + a.pcache.sum + a.l2 + a.linebuf + a.choir
  a.pcache.all (fun p => decide (8 ≤ p ∧ p ≤ 32)) && decide (16 ≤ a.l2 ∧ a.l2 ≤ 96) &&
    decide ((if video then 6 else 2) ≤ a.linebuf) &&
    decide (ceilDiv ((cots.map (·.voices)).sum * 64 + cots.length * 256) 65536 ≤ a.choir) &&
    decide (1 ≤ a.entries.length ∧ a.entries.length ≤ 16) && a.entries.all (fun e => e.1 != 0x3FF && decide (1 ≤ e.2)) &&
    decide (used + 8 ≤ 192) && (a.entries.map (·.2)).sum == a.l2 &&
    owners.all fun o => a.entries.any fun e => e.1 == o

/-- The ranges of a BELL record (R76). -/
def bellRecOk (src preset pace max : Nat) (period : Nat) : Bool :=
  let p := bellPeriod preset period
  decide (src ≤ 2) && decide (preset ≤ 3) && decide (64 ≤ pace) && (preset != 0 || bellInRange p) &&
    decide (max ≤ 240000) && bellBelow p max

namespace Hw

/-! ### The checks of a parish image (R71 to R77, R81, R84, R293) -/

/-- The CLASS records that stand, their refusals, and the CLASS_IDs of refused ones. `inEffect` are the classes of parishes
outside the target set. -/
def checkClasses (inEffect : List ClassRec) : List RawRec → List ClassRec → List Nat → List ClassRec × Fails × List Nat
  | [], ok, bad => (ok, [], bad)
  | r :: rest, ok, bad =>
    let k := classOfBytes r.body
    let refusal := if !classOk k || ok.any (·.id == k.id) || bad.contains k.id then some 0x07
      else if inEffect.any fun e => e.id == k.id && e.body != k.body then some 0x08
      else none
    match refusal with
    | some c =>
      let (ok', f, bad') := checkClasses inEffect rest ok (bad ++ [k.id])
      (ok', (c, r.index) :: f, bad')
    | none => checkClasses inEffect rest (ok ++ [k]) bad

/-- The SLOTS records that place cottages, and refusals RECORD and LAYOUT. A field outside its range is a RECORD refusal (log
entry 52); a refused record places no cottage (R84). -/
def checkSlots (h : Hw) (classes : List ClassRec) (bad : List Nat) : List RawRec → List SlotsRec → List SlotsRec × Fails
  | [], ok => (ok, [])
  | r :: rest, ok =>
    let s := slotsOfBytes r.body ((ownerOfField (fieldAt r.body 6 2)).getD 0x3FF)
    match classes.find? (·.id == s.cls) with
    | none =>
      let (l, f) := checkSlots h classes bad rest ok
      if bad.contains s.cls && s.owner != 0x3FF && slotsOk s then (l, f) else (l, (0x07, r.index) :: f)
    | some k =>
      if s.owner = 0x3FF ∨ ¬ slotsOk s then
        let (l, f) := checkSlots h classes bad rest ok
        (l, (0x07, r.index) :: f)
      else
        let clash := (slotsContexts s).any fun c => ok.any fun t => (slotsContexts t).contains c
        let fails := clash || !(h.fn s.owner).enabled || (s.sinkfmt == 5 && bits k.layers 5 4 != 0)
        let (l, f) := checkSlots h classes bad rest (if fails then ok else ok ++ [s])
        (l, if fails then (0x09, r.index) :: f else f)

/-- The class of a SLOTS record of an Armature. -/
def armClass (a : ParishArm) (s : SlotsRec) : ClassRec :=
  (a.classes.find? (·.id == s.cls)).getD ⟨0, 0, 0, 0, 0, 0, 0, 0, 0, 0, 0, 0, 0, 0, 0, 0, [], []⟩

/-- A sum over the cottages of an Armature. -/
def armSum (a : ParishArm) (f : SlotsRec → ClassRec → Nat) : Nat :=
  (a.slots.map fun s => s.coreCount * s.slotCount * f s (armClass a s)).sum

/-- Frames that an Armature's cottages need of an owner (R81). -/
def armFrames (a : ParishArm) (o : Nat) : Nat :=
  armSum a fun s k => if s.owner = o then ceilDiv k.wramKib 1024 + ceilDiv k.vramKib 1024 else 0

/-- The reference pool of an Armature in frames (R293). -/
def armPool (a : ParishArm) : Nat := ceilDiv (armSum a fun _ k => k.width * k.height * 4) 0x100000

/-- The Armatures in effect outside a set of parishes. -/
def armsOutside (h : Hw) (targets : List Nat) : List ParishArm :=
  (List.range 16).filterMap fun n => if targets.contains n then none else (h.parish n).arm

/-- Some owner of the Armatures needs more frames than a quota gives it (R81). -/
def overQuota (arms : List ParishArm) (quota : Nat → Nat) : Bool :=
  (List.range 258).any fun o => decide (quota o < (arms.map (armFrames · o)).sum)

/-- The sums of R81 and R293 that an image fails for its target parishes. -/
def checkSums (h : Hw) (a : ParishArm) (targets : List Nat) : Fails :=
  let bell := a.hasBell
  let sum := fun f => armSum a fun _ k => f k
  let core := fun (i : Nat) => (a.slots.map fun s =>
    if s.coreFirst ≤ i ∧ i < s.coreFirst + s.coreCount then
      s.slotCount * ((armClass a s).vcpl * (armClass a s).tl) else 0).sum
  let others := h.armsOutside targets
  let all := others ++ targets.map fun _ => a
  let quotas := (h.modArm.map fun m => (m.quotas.map (·.2)).sum).getD 0
  let pools := (all.map armPool).sum
  let output := h.outputWith (fun n => if targets.contains n then some a else (h.parish n).arm) targets
  let fail : Nat → Bool → Fails := fun c b => if b then [(c, 0xFFFF)] else []
  fail 0x0B (bell && decide (5760000000000 < sum (fun k => k.width * k.height) * a.bellMax)) ++
    fail 0x0C (bell && (List.range 16).any fun i => decide (1280000000000 < core i * a.bellMax)) ++
    fail 0x0D (bell && decide (500000000000 < sum (fun k => k.voices * k.vspl * k.tl) * a.bellMax)) ++
    fail 0x0E ((h.modArm.isSome && overQuota all h.quotaOf) || decide (65536 < quotas + pools + 64)) ++
    fail 0x0F (bell && (decide (outputLimit < output 0) || decide (outputLimit < output 1)))

/-- A bank's image is the one a UCODE record names (R172). -/
def namesImage (a : ParishArm) (u : Option UcImage) : Bool :=
  match u with
  | some u => u.hash == a.ucHash && u.ver == a.ucVer
  | none => false

/-- Reads a parish image's sound records, with every check of R84 beyond the signature. -/
def checkParish (h : Hw) (img : List Byte) (good : List RawRec) (targets : List Nat) : ParishArm × Fails :=
  let of := fun (t : Nat) => good.filter (·.type == t)
  let inEffect := (h.armsOutside targets).flatMap (·.classes)
  let (classes, f1, bad) := checkClasses inEffect (of 1) [] []
  let (slots, f2) := h.checkSlots classes bad (of 2) []
  let larder := (of 3).head?.map fun r => (r.index, larderOfBytes r.body)
  let uc := (of 4).head?
  let arb := (of 5).head?
  let arbBody := (arb.map (·.body)).getD []
  let weights := (arbBody.take 6).map (·.toNat)
  let arbOk := weights.all (fun w => decide (1 ≤ w)) && decide (4 ≤ fieldAt arbBody 6 1 ∧ fieldAt arbBody 6 1 ≤ 64)
  let bell := (of 6).head?
  let bb := (bell.map (·.body)).getD []
  let bellOk := bellRecOk (fieldAt bb 0 1) (fieldAt bb 1 1) (fieldAt bb 2 1) (fieldAt bb 4 4) (fieldAt bb 8 8)
  let ucBody := (uc.map (·.body)).getD []
  let a : ParishArm :=
    { classes := classes, slots := slots, larder := larder.map (·.2), ucHash := digestOf (ucBody.take 48),
      ucVer := fieldAt ucBody 48 4, hasUcode := uc.isSome, arbW := weights, ageN := fieldAt arbBody 6 1,
      urg := (List.range 6).map fun i => fieldAt arbBody (8 + 2 * i) 2, hasArb := arb.isSome && arbOk,
      src := fieldAt bb 0 1, preset := fieldAt bb 1 1, pace := fieldAt bb 2 1, bellMax := fieldAt bb 4 4,
      period := BitVec.ofNat 64 (fieldAt bb 8 8), hasBell := bell.isSome && bellOk,
      expert := (((of 7).head?.map fun r => fieldAt r.body 0 4).getD 0) % 2 ^ 12, keySlot := fieldAt img 7 1,
      version := fieldAt img 0x10 4, digest := Crypto.sha384 (img.take (img.length - 96)), mode := 2 }
  let cots := slots.flatMap fun s => List.replicate (s.coreCount * s.slotCount) (armClass a s)
  let f3 := match larder with
    | some (i, l) =>
      if larderOk l (classes.any fun k => bits k.layers 5 4 != 0) cots (slots.map (·.owner)) then [] else [(0x0A, i)]
    | none => []
  let f4 := match uc with
    | some r =>
      if targets.all fun n => namesImage a (h.parish n).active || namesImage a (h.parish n).shadow then []
      else [(0x10, r.index)]
    | none => []
  let f5 := match arb with
    | some r => if arbOk then [] else [(0x07, r.index)]
    | none => []
  let f6 := match bell with
    | some r => if bellOk then [] else [(0x07, r.index)]
    | none => []
  (a, f1 ++ f2 ++ f3 ++ f4 ++ f5 ++ f6 ++ h.checkSums a targets)

/-! ### The checks of a module image (R77, R88, R293, R525) -/

/-- PIN records that stand, and refusals. -/
def checkPins : List RawRec → List (Nat × Nat × Nat × Nat) → List (Nat × Nat × Nat × Nat) × Fails
  | [], ok => (ok, [])
  | r :: rest, ok =>
    let f := fieldAt r.body
    let (lane, own, func) := (f 0 1, f 1 1, f 2 1)
    if lane ≤ 47 ∧ own ≤ 6 ∧ func ≤ 15 ∧ ¬ ok.any (·.1 == lane) then checkPins rest (ok ++ [(lane, own, func, f 3 1 % 8)])
    else
      let (l, g) := checkPins rest ok
      (l, (0x07, r.index) :: g)

/-- PUBLIC records that stand, and refusals. -/
def checkPublics : List RawRec → List (Nat × Nat) × Fails
  | [] => ([], [])
  | r :: rest =>
    let (base, size) := (fieldAt r.body 0 8, fieldAt r.body 8 8)
    let (l, f) := checkPublics rest
    if base % 0x100000 = 0 ∧ size % 0x100000 = 0 ∧ size ≠ 0 then ((base, size) :: l, f) else (l, (0x07, r.index) :: f)

/-- QUOTA records that stand, and refusals. -/
def checkQuotas : List RawRec → List (Nat × Nat) → List (Nat × Nat) × Fails
  | [], ok => (ok, [])
  | r :: rest, ok =>
    match ownerOfField (fieldAt r.body 0 2) with
    | some o =>
      if ok.any (·.1 == o) then
        let (l, f) := checkQuotas rest ok
        (l, (0x07, r.index) :: f)
      else checkQuotas rest (ok ++ [(o, fieldAt r.body 4 4)])
    | none =>
      let (l, f) := checkQuotas rest ok
      (l, (0x07, r.index) :: f)

/-- A shared frame resident from a source that the new public regions no longer hold (R88). One whose page-in is in flight
counts, and so does one with a single sharer (log entry 52). -/
def publicLost (h : Hw) (m : ModuleArm) : Bool :=
  h.gran.map.any fun e =>
    let f := e.2
    f.isPublic && (f.state == .sharedRo || f.state == .inFlight) &&
      !m.publics.any fun p => decide (p.1 ≤ f.link * 0x100000 ∧ f.link * 0x100000 + 0x100000 ≤ p.1 + p.2)

/-- Reads a module image's sound records, with every check of R84 beyond the signature. -/
def checkModule (h : Hw) (img : List Byte) (good : List RawRec) : ModuleArm × Fails :=
  let of := fun (t : Nat) => good.filter (·.type == t)
  let (pins, f1) := checkPins (of 0x101) []
  let (publics, f2) := checkPublics (of 0x102)
  let (quotas, f3) := checkQuotas (of 0x103) []
  let m : ModuleArm :=
    { pins := pins, publics := publics, quotas := quotas,
      expert := (((of 0x104).head?.map fun r => fieldAt r.body 0 4).getD 0) % 2 ^ 10, keySlot := fieldAt img 7 1,
      version := fieldAt img 0x10 4, digest := Crypto.sha384 (img.take (img.length - 96)) }
  let quota := fun (o : Nat) => ((quotas.find? fun q => q.1 == o).map (·.2)).getD 0
  let arms := h.armsOutside []
  let f4 := if 65536 < (quotas.map (·.2)).sum + (arms.map armPool).sum + 64 then [(0x0E, 0xFFFF)] else []
  let dep := h.publicLost m || (List.range 258).any (fun o => decide (quota o < h.fld F.GRN_OWN_USED 0 o)) ||
    overQuota arms quota
  (m, f1 ++ f2 ++ f3 ++ f4 ++ (if dep then [(0x11, 0xFFFF)] else []))

/-- CHECK of the command in progress: FORMAT, then the signature, each of which ends it, then every other check (R84). -/
def armCheck (h : Hw) (j : BankJob) : BankJob :=
  let kind := if j.op ≤ 2 then 2 else 1
  let ends := fun (c : Nat) => { j with result := some (c, 2 ^ (c - 4), 0xFFFF) }
  match openImage j.image kind (h.fld F.ARM_LEN_LEN j.port) with
  | none => ends 0x04
  | some recs =>
    let n := j.image.length
    match h.checkOperator (fieldAt j.image 7 1) (j.image.take (n - 96)) (j.image.drop (n - 96)) with
    | 0 =>
      let (good, f) := sortRecords kind [] recs
      if kind = 2 then
        let (a, g) := h.checkParish j.image good (maskList j.mask)
        { j with parish := some a, result := some (failResult (f ++ g)) }
      else
        let (m, g) := h.checkModule j.image good
        { j with modArm := some m, result := some (failResult (f ++ g)) }
    | c => ends c

/-! ### APPLY of a parish load (R77, R87, R90, R163, R172, R289, R293) -/

/-- The low 32 bits of a digest: its bytes 0 to 3 as a little-endian word (R462). -/
def hashWord (d : BitVec 384) : Nat := fromLe ((digestBytes d).take 4)

/-- LOM_UC_VER, LOM_UC_STG and LOM_UC_PATCH show the banks (R173). -/
def showUcode (h : Hw) (n : Nat) : Hw :=
  let word := fun (u : Option UcImage) => BitVec.ofNat 64 ((u.map fun u => hashWord u.hash * 2 ^ 32 + u.ver).getD 0)
  let p := h.parish n
  ((h.setReg .LOM_UC_VER n 0 (word p.active)).setReg .LOM_UC_STG n 0 (word p.shadow)).setFld F.LOM_UC_PATCH_LEVEL n 0
    ((p.active.map (·.level)).getD 0)

/-- Every stopped Loom of parish n returns to service, and its interrupt level falls (R172, R179). -/
def restartLooms (h : Hw) (n : Nat) : Hw :=
  (h.each (List.range 4) fun h j => if h.flag F.LOM_STAT_STOPPED n j then h.setReg .LOM_STAT n j 0 else h).picSync n

/-- The banks change places, and stopped Looms return to service (R171, R172). -/
def swapBanks (h : Hw) (n : Nat) : Hw :=
  ((h.modParish n fun p => { p with active := p.shadow, shadow := p.active }).restartLooms n).showUcode n

/-- The ways of a pattern cache, one entry index per way (R163). -/
def cacheWays (a : LarderRec) : List Nat :=
  let n := a.entries.length
  let binsOf := fun (i : Nat) => (a.entries.getD i (0, 0)).2
  let given := (List.range (16 - n)).foldl (fun (g : List Nat) _ =>
    let need := fun (i : Nat) => (((16 - n) * binsOf i : Nat) : Int) - ((g.getD i 0 * a.l2 : Nat) : Int)
    let best := (List.range n).foldl (fun b i => if need b < need i then i else b) 0
    g.set best (g.getD best 0 + 1)) (List.replicate n 0)
  (List.range n).flatMap fun i => List.replicate (given.getD i 0 + 1) i

/-- What a cottage leaves behind as its parish is reset: its frame in progress, if one is, is closed; what it has written to
rings is flipped; its Hayloft command is cancelled (R307); its frames and snapshots are released (R289). Its stream 1 goes
on into the PF's ring, and its Plinth stands (R205). -/
def endCottage (h : Hw) (c : Nat) : Hw :=
  let h := if (h.ctx c).admitted then h.closeContained c else h
  let h := h.each [0, 1] fun h s => (h.markRecs c s (fun _ => true) fun e => { e with ready := true }).drainStream c s
  let h := if (h.cot c).hay.isSome then h.hayDone c 0x08 true else h
  let h := (h.dropTransfers c).releaseCottage c
  let x := h.cot c
  h.setCot c { Cottage.reset with porch := { PorchState.reset with s1 := x.porch.s1 }, relief := x.relief.keepPlinth }

/-- The parish domain is reset (R12): its registers, its cottages' registers, and the state of its units. The Looms' control
stores and poisoned Larder words stay. The wakes of retained banks (R317) count in LRD_CNT_WAKE after the reset (log entry
52). -/
def parishReset (h : Hw) (n : Nat) : Hw :=
  let asleep := (List.range 64).filter fun b => bit (h.reg .LRD_RETSTAT n).toNat b
  let h := h.each ((List.range 256).map (256 * n + ·)) fun h c => h.endCottage c
  let h := h.each (h.parish n).refPool fun h f => h.dropRef f true
  let h := h.resetRegs fun r =>
    (r.name.desc.bank == .parish && r.bank == n) || (r.name.desc.bank == .cottage && r.bank / 256 == n)
  let p := h.parish n
  let h : Hw := { h with arb := NTable.set ArbState.reset h.arb n ArbState.reset }
  (h.setParish n { Parish.reset with
    active := p.active, shadow := p.shadow, larder := p.larder, poisoned := p.poisoned,
    refEdge := p.refEdge }).setFld F.LRD_CNT_WAKE_WAKE n 0 asleep.length

/-- The registers whose Reset value is A take it from the Armature (R76, R163, R263). -/
def armRegs (h : Hw) (n : Nat) (a : ParishArm) : Hw :=
  let h := (((h.setFld F.BEL_CTL_SRC n 0 a.src).setFld F.BEL_CTL_PRESET n 0 a.preset).setFld F.BEL_CTL_EN n 0 1).setReg
    .BEL_PERIOD n 0 a.period
  let h := h.setFld F.BEL_PACE_PACE n 0 a.pace
  let h := h.setReg .ARB_W n 0 (BitVec.ofNat 64 (fromLe (a.arbW.map (BitVec.ofNat 8))))
  let h := h.setFld F.ARB_AGE_N n 0 a.ageN
  let h := h.each ((List.range 6).zip a.urg) fun h (i, t) => h.setFld F.ARB_URG_THR_THR n i t
  let ways := (a.larder.map cacheWays).getD []
  let h := h.setReg .LOM_PC_WAYS n 0 (BitVec.ofNat 64 ((ways.zip (List.range 16)).map fun e => e.1 * 16 ^ e.2).sum)
  h.each (h.parishCots n) fun h c =>
    let routes := ((h.slotOf c).map (·.routes)).getD []
    h.each ((List.range 4).zip routes) fun h (r, sink) => h.setFld F.CHR_RT_SINK n (c % 256 * 4 + r) sink

/-- The reference pool: k module frames (R293). -/
def takePool : Nat → Hw → Nat → Hw
  | 0, h, _ => h
  | k + 1, h, n =>
    match h.takeFrame moduleOwner privFrame with
    | (some f, h) => takePool k (h.modParish n fun p => { p with refPool := p.refPool ++ [f] }) n
    | (none, h) => h

/-- The Armature a in place in parish n after its reset: its microcode active (R172), its reference pool taken (R293). -/
def armBanks (h : Hw) (n : Nat) (a : ParishArm) : Hw :=
  let h := (h.parishReset n).modParish n fun p => { p with arm := some a }
  let h := if namesImage a (h.parish n).active then h.showUcode n else h.swapBanks n
  takePool (armPool a) h n

/-- Parish n's cottages take their Armature's registers, and their first frames are whole ones (R87). -/
def armCottages (h : Hw) (n : Nat) : Hw :=
  h.each (h.parishCots n) fun h c => ((h.cottageRegs c).modCtx c fun x => { x with booting := true }).oweSinks c

/-- ARM_PSTAT and ARM_PHASH show the Armature a of parish n (R90). -/
def armShown (h : Hw) (n : Nat) (a : ParishArm) : Hw :=
  (((h.setFld F.ARM_PSTAT_MODE 0 n a.mode).setFld F.ARM_PSTAT_KEYSLOT 0 n a.keySlot).setFld F.ARM_PSTAT_EXPERT 0 n
    a.expert).setFld F.ARM_PHASH_HASH 0 n (hashWord a.digest)

/-- Parish n with the Armature a, its Bell about to begin. -/
def armPlaced (h : Hw) (n : Nat) (a : ParishArm) : Hw :=
  let h := (((h.armBanks n a).armRegs n a).armCottages n).armShown n a
  h.modParish n fun p =>
    { p with bellRuns := true, bell0Due := true, srcInForce := a.src, rates := [⟨0, 0, bellPeriod a.preset a.period.toNat⟩] }

/-- Applies a parish Armature to parish n: Bell 0 falls at once under the fabric reference (R87). -/
def applyParish (h : Hw) (n : Nat) (a : ParishArm) : Hw :=
  let h := h.armPlaced n a
  if a.src = 0 then h.bell n else h

/-- Every context's cottage and Armature of parish n are gone: MODE 0 (R488). -/
def parishNone (h : Hw) (n : Nat) : Hw :=
  let h := h.modParish n fun p => { p with arm := none, bellRuns := false }
  let h := h.each ((List.range 256).map (256 * n + ·)) fun h c =>
    let x := h.cot c
    if x = Cottage.reset then h else h.setCot c { Cottage.reset with snaps := x.snaps, relief := x.relief.keepPlinth }
  ((((h.setFld F.BEL_CTL_EN n 0 0).setFld F.ARM_PSTAT_MODE 0 n 0).setFld F.ARM_PSTAT_KEYSLOT 0 n 0).setFld
    F.ARM_PSTAT_EXPERT 0 n 0).setFld F.ARM_PHASH_HASH 0 n 0

/-! ### APPLY of a module load (R77, R88, R90) -/

/-- A Lane takes owner, function, pull and wake; a change of function is a hand-over (R425). A Lane without a PIN record is the
security domain's, a GPIO input, without pull and wake. -/
def pinApply (h : Hw) (m : ModuleArm) (pads : List Bool) (l : Nat) : Hw :=
  let old := h.lanCfg l
  let v := match m.pins.find? (·.1 == l) with
    | some (_, own, func, pad) =>
      setBits (setBits (setBits (setBits old 30 28 own) 3 0 func) 5 4 (bits pad 1 0)) 15 15 (bits pad 2 2)
    | none => setBits (setBits (setBits (setBits (setBits old 30 28 0) 3 0 0) 5 4 0) 15 15 0) 8 8 0
  if v = old then h else h.laneSwitch l v (pads.getD l false)

/-- Applies a module Armature, from which the channel arbiters number their grants (R323); `pads` are the levels present at the Lanes. -/
def applyModule (h : Hw) (m : ModuleArm) (pads : List Bool) : Hw :=
  let h : Hw := { h with modArm := some m }
  let h := h.each (List.range 64) fun h q =>
    let a := NTable.get ArbState.reset h.arb (16 + q)
    { h with arb := NTable.set ArbState.reset h.arb (16 + q) { a with grants := 0 } }
  let h := h.each (List.range 48) fun h l => h.pinApply m pads l
  let h := h.each (List.range 258) fun h o => h.setFld F.GRN_OWN_QUOTA 0 o (h.quotaOf o)
  (((h.setFld F.ARM_MSTAT_MODE 0 0 2).setFld F.ARM_MSTAT_KEYSLOT 0 0 m.keySlot).setFld F.ARM_MSTAT_EXPERT 0 0
    m.expert).setFld F.ARM_MHASH_HASH 0 0 (hashWord m.digest)

/-! ### ARM_CMD (R82, R84 to R89, R482) -/

/-- A write of ARM_CMD of bank p. -/
def armCmdWrite (h : Hw) (ag : Agent) (p op mask vec : Nat) : Hw :=
  h.guarded ag .ARM_CMD p 0 0 (decide (1 ≤ op ∧ op ≤ 4) && decide (vec < 2048)) fun h =>
    let targets := maskList mask
    if h.job.isSome || (op == 2 && h.uncalibrated mask) then h.bankRefused kArm p vec 0x01
    else if op = 2 ∧ targets.any fun n => ¬ h.drained n then h.bankRefused kArm p vec 0x02
    else h.bankStart kArm p op mask vec 1

def validateParish (h : Hw) (ag : Agent) (p mask vec : Nat) : Hw := h.armCmdWrite ag p 1 mask vec
def loadParish (h : Hw) (ag : Agent) (p mask vec : Nat) : Hw := h.armCmdWrite ag p 2 mask vec
def validateModule (h : Hw) (ag : Agent) (p vec : Nat) : Hw := h.armCmdWrite ag p 3 0 vec
def loadModule (h : Hw) (ag : Agent) (p vec : Nat) : Hw := h.armCmdWrite ag p 4 0 vec

/-- ARM_FAIL takes what a command has to say. -/
def setFail (h : Hw) (p mask rec : Nat) : Hw := (h.setFld F.ARM_FAIL_FAILMASK p 0 mask).setFld F.ARM_FAIL_REC p 0 rec

/-- The image of the Armature command in progress has been read, well or not. -/
def armFetchDone (h : Hw) (how : ReadEnd) : Hw :=
  match h.job with
  | none => h
  | some j =>
    if j.kind ≠ kArm ∨ h.bankState kArm j.port ≠ 1 then h
    else
      let p := j.port
      let h := h.aerRead p how
      let len := h.fld F.ARM_LEN_LEN p
      match (if how = .ok then h.bankImage p (h.fld F.ARM_SRC_SPACE p) (h.fld F.ARM_SRC_ADDR p * 8) (min len 0x100008)
             else none) with
      | none => (h.setFail p 0 0xFFFF).bankDone j 0x03
      | some img => ({ h with job := some { j with image := img } } : Hw).setBankState kArm p 2

/-- The checks of the Armature command in progress are done; a load that passes goes on to APPLY. -/
def armCheckDone (h : Hw) : Hw :=
  match h.job with
  | none => h
  | some j =>
    if j.kind ≠ kArm ∨ h.bankState kArm j.port ≠ 2 ∨ j.result.isSome then h
    else
      let j := h.armCheck j
      let ok := j.result.map (·.1) == some 0
      let h : Hw := { h with job := some j }
      if ok && j.op % 2 == 0 then h.setBankState kArm j.port 3 else h

/-- The Armature command in progress completes: a load that has passed is applied (R87, R88, R89). `pads` are the levels
present at the Lanes. -/
def armComplete (h : Hw) (pads : List Bool) : Hw :=
  match h.job with
  | none => h
  | some j =>
    match j.kind, j.result with
    | 0, some (code, mask, rec) =>
      let h := if h.bankState kArm j.port = 3 then
          match j.parish, j.modArm with
          | some a, _ => h.each (maskList j.mask) fun h n => h.applyParish n a
          | none, some m => h.applyModule m pads
          | none, none => h
        else h
      (h.setFail j.port mask rec).bankDone j code
    | _, _ => h

/-! ### Loom microcode images (R168 to R172, R177) -/

/-- Writes a control word of an image, whose missing words are 0. -/
def setWord (l : List (BitVec 256)) (a : Nat) (w : BitVec 256) : List (BitVec 256) :=
  (if l.length ≤ a then l ++ List.replicate (a + 1 - l.length) 0 else l).set a w

/-- Applies the accepted sealed patches to an image, in rising LEVEL order (R177). -/
def patchImage (patches : List SealedPatch) (u : UcImage) : UcImage :=
  if u.signer ≠ 0 then u
  else
    let due := patches.filter fun p => decide (p.verMin ≤ u.ver ∧ u.ver ≤ p.verMax)
    let sorted := due.mergeSort fun a b => decide (a.level ≤ b.level)
    sorted.foldl (fun u p =>
      { u with words := p.entries.foldl (fun l e => setWord l e.1 e.2) u.words, level := max u.level p.level }) u

/-- Reads and checks a microcode image whose LEN was written as `len`: the image, or the refusing code. -/
def readUcode (h : Hw) (img : List Byte) (len : Nat) : Except Nat UcImage :=
  let n := img.length
  let words := fieldAt img 0x0C 2
  let signer := fieldAt img 6 1
  if n ≠ len ∨ fieldAt img 0 4 ≠ 0x4D4F4F4C ∨ fieldAt img 4 2 ≠ 1 ∨ 4 < signer ∨ fieldAt img 8 4 ≠ n ∨ words < 8 ∨
      2048 < words ∨ n ≠ 64 + 32 * words + 96 ∨ fieldAt img 0x10 4 = 0 then .error 0x04
  else
    let body := img.take (n - 96)
    let sig := img.drop (n - 96)
    match (if signer = 0 then h.checkSig (Config.tridunKey 1) none body sig else h.checkOperator (signer - 1) body sig) with
    | 0 => .ok (patchImage h.boot.patches
        { hash := Crypto.sha384 body, ver := fieldAt img 0x10 4, signer := signer, level := 0,
          words := (List.range words).map fun i => BitVec.ofNat 256 (fieldAt img (64 + 32 * i) 32) })
    | c => .error c

/-- A write of LOM_STG_CMD of bank p (R170, R171, R482). -/
def stageCmdWrite (h : Hw) (ag : Agent) (p op mask vec : Nat) : Hw :=
  h.guarded ag .LOM_STG_CMD p 0 0 (decide (1 ≤ op ∧ op ≤ 2) && decide (vec < 2048)) fun h =>
    let targets := maskList mask
    if h.job.isSome || h.uncalibrated mask then h.bankRefused kStage p vec 0x01
    else if op = 1 then h.bankStart kStage p op mask vec 1
    else if targets.any fun n => ¬ h.drained n then h.bankRefused kStage p vec 0x02
    else if targets.any fun n => (h.parish n).shadow.isNone then h.bankRefused kStage p vec 0x07
    else (h.each targets fun h n => h.swapBanks n).bankRefused kStage p vec 0x00

def stage (h : Hw) (ag : Agent) (p mask vec : Nat) : Hw := h.stageCmdWrite ag p 1 mask vec
def swap (h : Hw) (ag : Agent) (p mask vec : Nat) : Hw := h.stageCmdWrite ag p 2 mask vec

/-- The STAGE in progress has read its image, well or not, checked it and written the shadow banks. -/
def stageDone (h : Hw) (how : ReadEnd) : Hw :=
  match h.job with
  | none => h
  | some j =>
    if j.kind ≠ kStage then h
    else
      let p := j.port
      let h := h.aerRead p how
      let len := h.fld F.LOM_STG_LEN_LEN p
      match (if how = .ok then
              h.bankImage p (h.fld F.LOM_STG_SRC_SPACE p) (h.fld F.LOM_STG_SRC_ADDR p * 8) (min len 0x20000) else none) with
      | none => h.bankDone j 0x03
      | some img =>
        match h.readUcode img len with
        | .error c => h.bankDone j c
        | .ok u =>
          (h.each (maskList j.mask) fun h n =>
            (h.modParish n fun p => { p with shadow := some u }).showUcode n).bankDone j 0x00

end Hw

end Sys2Proof.Machine

/-! ### The commands -/

namespace Sys2Proof.Machine

/-- VALIDATE_PARISH (R84): agent ag writes PF p's ARM_CMD with PMASK and VEC. -/
def execValidateParish (ag : Agent) (p : Nat) (mask : Nat) (vec : Nat) (s : State) : Host.Outcome State Fault
    Refusal :=
  s.runLive fun h => h.validateParish ag p mask vec

/-- LOAD_PARISH (R87): agent ag writes PF p's ARM_CMD with PMASK and VEC. -/
def execLoadParish (ag : Agent) (p : Nat) (mask : Nat) (vec : Nat) (s : State) : Host.Outcome State Fault Refusal :=
  s.runLive fun h => h.loadParish ag p mask vec

/-- VALIDATE_MODULE (R84): agent ag writes PF p's ARM_CMD with VEC. -/
def execValidateModule (ag : Agent) (p : Nat) (vec : Nat) (s : State) : Host.Outcome State Fault Refusal :=
  s.runLive fun h => h.validateModule ag p vec

/-- LOAD_MODULE (R88): agent ag writes PF p's ARM_CMD with VEC. -/
def execLoadModule (ag : Agent) (p : Nat) (vec : Nat) (s : State) : Host.Outcome State Fault Refusal :=
  s.runLive fun h => h.loadModule ag p vec

/-- ARM_FETCH_DONE (R85): with the bytes read, or the failure. -/
def execArmFetchDone (how : ReadEnd) (s : State) : Host.Outcome State Fault Refusal :=
  s.runLive fun h => h.armFetchDone how

/-- ARM_CHECK_DONE (R84): the checks of the fetched image finish. -/
def execArmCheckDone (s : State) : Host.Outcome State Fault Refusal :=
  s.runLive fun h => h.armCheckDone

/-- ARM_COMPLETE (R89): the Lanes' pad levels being `pads`. -/
def execArmComplete (pads : List Bool) (s : State) : Host.Outcome State Fault Refusal :=
  s.runLive fun h => h.armComplete pads

/-- STAGE (R171): agent ag writes PF p's LOM_STG_CMD with PMASK and VEC. -/
def execStage (ag : Agent) (p : Nat) (mask : Nat) (vec : Nat) (s : State) : Host.Outcome State Fault Refusal :=
  s.runLive fun h => h.stage ag p mask vec

/-- SWAP (R171): agent ag writes PF p's LOM_STG_CMD with PMASK and VEC. -/
def execSwap (ag : Agent) (p : Nat) (mask : Nat) (vec : Nat) (s : State) : Host.Outcome State Fault Refusal :=
  s.runLive fun h => h.swap ag p mask vec

/-- STAGE_DONE (R171): with the bytes read, or the failure. -/
def execStageDone (how : ReadEnd) (s : State) : Host.Outcome State Fault Refusal :=
  s.runLive fun h => h.stageDone how

end Sys2Proof.Machine
end

