-- ==== Sys2Proof/Machine/GranaryCmd.lean ====
section
/-!
DEFINITION. The Granary's commands: cottage maps, page-ins, copies, the commands of GRN_CMD (R285 to R298, R309,
R310). -/

namespace Sys2Proof.Machine.Hw

/-! ### Cottage maps (R286, R287) -/

/-- A write of GRN_CMAP[e] (R287); every field of GRN_CVRAM (e = 256) is RO. -/
def cmapWrite (h : Hw) (ag : Agent) (c e : Nat) (v : DWord) : Hw :=
  let n := if e < 256 then RegName.GRN_CMAP else RegName.GRN_CVRAM
  let i := c / 256
  let j := if e < 256 then c % 256 * 256 + e else c % 256
  let v := v.toNat
  let old := h.cmap c e
  let moved := bits v 1 0 ≠ bits old 1 0 ∨ bits v 61 36 ≠ bits old 61 36
  let st := (h.ctx c).st
  let privates := ((List.range 256).filter fun k => bits (if k = e then v else h.cmap c k) 1 0 = 1).length
  let ok := bits v 1 0 ≠ 3 && (st == .off || st == .cont || !decide moved) &&
    (bits v 1 0 ≠ 1 || bits old 1 0 == 1 || decide (privates ≤ ceilDiv (h.cls c).wramKib 1024))
  if 256 ≤ e then (if h.sees ag n i j then h else h.refuseView ag n i j)
  else h.guarded ag n i j v ok fun h =>
    if moved then
      let h := match h.cmapFrame c e with
        | some f => (h.setCmapFrame c e none).dropRef f true
        | none => h
      h.storeFields n i j v
    else h

/-! ### Page-ins (R294, R310) -/

/-- A wait for a granule ends: what waited in cottage c goes on, its context READY to issue its access anew (R34). -/
def granuleHere (h : Hw) (f g c : Nat) : Hw :=
  let h := h.clearAwaits c f g
  if (h.ctx c).st = .miss ∧ (h.ctx c).wait = .granule f g then h.toReady c else h

/-- Granule g of frame f is there: whatever waits for it goes on. -/
def granuleServed (h : Hw) (f g : Nat) : Hw := h.each (h.waiters f [g]) fun h c => h.granuleHere f g c

/-- Granule g of an IN_FLIGHT frame arrives from its source, as it was requested; with all 16 the frame is SHARED_RO (R294). -/
def granuleArrival (h : Hw) (f g : Nat) : Hw :=
  let e := h.frame f
  if e.state = .inFlight ∧ g ∈ h.outstanding f then
    let h := h.copyMem (portBase (e.owner / 129) + e.link * 0x100000 + g * 0x10000) (frameBase f + g * 0x10000) 0x10000
    let gran := e.gran + 2 ^ g
    let all := gran = 0xFFFF
    let h := h.setFrame f { h.frame f with gran := gran, state := if all then .sharedRo else .inFlight }
    let h := if all then { h with gran := { h.gran with pageins := h.gran.pageins.filter fun e => e.1 ≠ f } } else h
    (h.requestMore f).granuleServed f g
  else h

/-- Live references to frame f of cottages that another owner has are dropped (R310). -/
def dropForeign (h : Hw) (f : Nat) : Hw :=
  let o := (h.frame f).owner
  h.each (h.regs.filterMap fun e =>
      if e.1.name = .GRN_CMAP ∧ bit e.2.toNat 2 ∧ bits e.2.toNat 35 20 = f ∧
          h.ownerOf (e.1.bank * 256 + e.1.idx / 256) ≠ some o then some e.1 else none)
    fun h r => (h.setCmapFrame (r.bank * 256 + r.idx / 256) (r.idx % 256) none).dropRef f true

/-- The request for granule g of a page-in fails: the frame is POISONED, GRN_FAIL names it, the cottages that wait on it
are contained, other owners' references are dropped (R310, R470). -/
def pageinFail (h : Hw) (f g : Nat) (how : ReadEnd) : Hw :=
  let e := h.frame f
  if e.state = .inFlight ∧ g ∈ h.outstanding f then
    let port := e.owner / 129
    let waiting := h.waiters f (List.range 16)
    let h := h.setFrame f { e with state := .poisoned }
    let h : Hw := { h with gran := { h.gran with pageins := h.gran.pageins.filter fun e => e.1 ≠ f } }
    let h := ((h.setFld F.GRN_FAIL_FRAME 0 0 f).setFld F.GRN_FAIL_PORT 0 0 port).setFld F.GRN_FAIL_ADDR 0 0
      (e.link * 0x100000 + g * 0x10000)
    let h := (h.aerRead port how).dropForeign f
    h.each waiting fun h c => h.containGrn c 0x01 (detailOf .GRN [0x01, c, f])
  else h

/-! ### Copies (R297, R298) -/

/-- The copy of granule g into frame f is complete: the writers that wait for it go on. -/
def cowCopyDone (h : Hw) (f g : Nat) : Hw :=
  match h.gran.copies.find? fun e => e.frame == f && e.g == g with
  | none => h
  | some e =>
    let h : Hw := { h with gran := { h.gran with copies := h.gran.copies.filter (· ≠ e) } }
    (h.copyGranule f g e.cot).granuleServed f g

/-! ### GRN_CMD (R309) -/

/-- A Granary map entry as its 128 bits (R282). -/
def entryBits (f : Frame) : Nat :=
  let st := match f.state with
    | .free => 0 | .priv => 1 | .sharedRo => 2 | .cow => 3 | .inFlight => 4 | .poisoned => 5
  let owner := if f.owner = moduleOwner then 0x3FF else f.owner / 129 * 256 + f.owner % 129
  st + b2n f.isPublic * 2 ^ 3 + b2n f.ref * 2 ^ 4 + owner * 2 ^ 8 + f.sharers * 2 ^ 20 + f.gran * 2 ^ 32 +
    f.age * 2 ^ 48 + f.link * 2 ^ 64 + b2n f.lvalid * 2 ^ 95

/-- A command of port p's bank completes with a code and signals its vector. -/
def grnDone (h : Hw) (p vec code : Nat) : Hw :=
  ((h.setFld F.GRN_STAT_STATE p 0 0).setFld F.GRN_STAT_CODE p 0 code).event (129 * p) vec

/-- The two words of GRN_RESULT. -/
def setGrnResult (h : Hw) (p v : Nat) : Hw :=
  (h.setReg .GRN_RESULT p 0 (BitVec.ofNat 64 v)).setReg .GRN_RESULT p 1 (BitVec.ofNat 64 (v / 2 ^ 64))

/-- The scan buffer of an enabled eDP port lies in frame f (R235, R309). -/
def isScanBuffer (h : Hw) (f : Nat) : Bool :=
  [0, 1].any fun e =>
    let a := h.fld F.POR_EDP_FB_ADDR 0 e * 4096
    let n := bits (h.fld F.POR_EDP_TIM_TIM 0 (4 * e)) 15 0 * bits (h.fld F.POR_EDP_TIM_TIM 0 (4 * e + 1)) 15 0 * 4
    h.flag F.POR_EDP_CTL_EN 0 e && decide (a / 0x100000 ≤ f) && decide (f * 0x100000 < a + n)

/-- ALLOC: a zero-filled frame for the PF, held by it. -/
def grnAlloc (h : Hw) (p vec : Nat) : Hw :=
  match h.allocFrame (129 * p) privFrame with
  | (none, h) => h.grnDone p vec 0x02
  | (some f, h) =>
    ((h.modFn (129 * p) fun x => { x with allocs := x.allocs ++ [f] }).setGrnResult p f).grnDone p vec 0x00

/-- FREE: releases an ALLOC frame of the PF that nothing else names. -/
def grnFree (h : Hw) (p vec f : Nat) : Hw :=
  let e := h.frame f
  if e.state = .free ∨ e.owner ≠ 129 * p then h.grnDone p vec 0x03
  else if !(h.fn (129 * p)).allocs.contains f || decide (1 < e.sharers) || h.isScanBuffer f then h.grnDone p vec 0x04
  else
    ((h.modFn (129 * p) fun x => { x with allocs := x.allocs.filter (· ≠ f) }).dropRef f true).grnDone p vec 0x00

/-- DROP: frees the POISONED and SHARED_RO frames of a source that the port's functions are charged for. -/
def grnDrop (h : Hw) (p vec arg : Nat) : Hw :=
  let src := bits arg 45 20
  let hit := (h.gran.map.filter fun e =>
    decide ((e.2.state = .poisoned ∨ e.2.state = .sharedRo) ∧ e.2.link = src ∧ e.2.owner / 129 = p ∧
      bits arg 46 46 = p ∧ e.2.owner ≠ moduleOwner)).map (·.1)
  if hit.isEmpty then h.grnDone p vec 0x05
  else (h.each hit fun h f => ((h.dropMapRefs f).releaseFrame f).2).grnDone p vec 0x00

/-- Every name of frame f becomes a name of frame y: map entries, video RAM, links, the index, snapshots, holdings,
waits (R291, R309). -/
def renameFrame (h : Hw) (f y : Nat) : Hw :=
  let ren := fun (a : Nat) => if a = f then y else a
  let word := fun (w : DWord) =>
    if bit w.toNat 2 && bits w.toNat 35 20 == f then BitVec.ofNat 64 (setBits w.toNat 35 20 y) else w
  let h := h.each (h.regs.filterMap fun e =>
      if (e.1.name = .GRN_CMAP ∨ e.1.name = .GRN_CVRAM) ∧ bit e.2.toNat 2 ∧ bits e.2.toNat 35 20 = f then some e.1
      else none)
    fun h r => h.setReg r.name r.bank r.idx (word (h.reg r.name r.bank r.idx))
  let h := h.each (h.gran.map.filter fun e =>
      decide ((e.2.state = .priv ∨ e.2.state = .cow) ∧ e.2.lvalid ∧ e.2.link = f))
    fun h e => h.setFrame e.1 { e.2 with link := y }
  let h : Hw := { h with gran := { h.gran with
    index := h.gran.index.map fun e => (e.1, e.2.1, ren e.2.2),
    copies := h.gran.copies.map fun e => { e with frame := ren e.frame },
    pageins := h.gran.pageins.map fun e => (ren e.1, e.2),
    slabs := h.gran.slabs.map fun s => { s with frame := ren s.frame } } }
  let h : Hw := { h with fns := h.fns.map fun e => (e.1, { e.2 with bar2 := e.2.bar2.map ren, allocs := e.2.allocs.map ren }) }
  let h : Hw := { h with par := h.par.map fun e => (e.1, { e.2 with refPool := e.2.refPool.map ren }) }
  let wait := fun (x : Context) => match x.wait with
    | .granule a g => { x with wait := .granule (ren a) g }
    | _ => x
  let awaited := fun (o : Option (Nat × Nat)) => o.map fun p => (ren p.1, p.2)
  let transfer := fun (t : CotTransfer) => { t with awaits := awaited t.awaits }
  let snap := fun (s : Snapshot) =>
    { s with map := s.map.map fun e => (e.1, word e.2), vram := word s.vram, slab := (ren s.slab.1, s.slab.2) }
  { h with cots := h.cots.map fun e =>
      (e.1, { e.2 with
        ctx := wait e.2.ctx, snaps := e.2.snaps.map fun s => s.map snap,
        loom := { e.2.loom with awaits := awaited e.2.loom.awaits },
        choir := { e.2.choir with awaits := awaited e.2.choir.awaits },
        io := { e.2.io with carter := e.2.io.carter.map transfer, chisel := e.2.io.chisel.map transfer } }) }

/-- Moves frame f out of its channel into a free frame; false when there is none. -/
def moveFrame (h : Hw) (f : Nat) : Bool × Hw :=
  match h.pickFrame with
  | none => (false, h)
  | some y =>
    let h := { h with gran := { h.gran with lastChannel := y / 1024 } }
    let h := h.copyMem (frameBase f) (frameBase y) 0x100000
    let h := { h with memPoison := h.memPoison.map fun a =>
      if a / 0x100000 = f then frameBase y + a % 0x100000 else a }
    let e := h.frame f
    (true, ((h.setFrame y e).setFrame f Frame.free).renameFrame f y)

/-- EVACUATE of a channel: allocation from it stops at once; the copies end with EVACUATE_DONE. With ARG0[63] the
channel allocates again. Channel 0 holds the reserved frames: IN_USE (R499). -/
def grnEvacuate (h : Hw) (p vec arg : Nat) : Hw :=
  let q := bits arg 5 0
  if bit arg 63 then
    ({ h with gran := { h.gran with evacuated := h.gran.evacuated.filter (· ≠ q) } }).grnDone p vec 0x00
  else if q = 0 then h.grnDone p vec 0x04
  else
    ({ h with gran := { h.gran with evacuating := h.gran.evacuating ++ [(p * 4096 + vec, q)] } }).setFld
      F.GRN_STAT_STATE p 0 1

/-- A write of GRN_CMD of port p's bank: BUSY while a command runs (R309). -/
def grnCmdWrite (h : Hw) (ag : Agent) (p op vec : Nat) : Hw :=
  let arg := (h.reg .GRN_ARG0 p).toNat
  if !h.sees ag .GRN_CMD p 0 then h.refuseView ag .GRN_CMD p 0
  else if op = 0 ∨ 5 < op ∨ vectors (129 * p) ≤ vec then h.refuse ag .GRN_CMD p 0
  else if h.flag F.GRN_STAT_STATE p then (h.setFld F.GRN_STAT_CODE p 0 0x01).event (129 * p) vec
  else
    match op with
    | 1 => h.grnAlloc p vec
    | 2 => h.grnFree p vec (bits arg 15 0)
    | 3 => h.grnDrop p vec arg
    | 4 => (h.setGrnResult p (entryBits (h.frame (bits arg 15 0)))).grnDone p vec 0x00
    | _ => h.grnEvacuate p vec arg

def allocCmd (h : Hw) (ag : Agent) (p vec : Nat) : Hw := h.grnCmdWrite ag p 1 vec
def freeCmd (h : Hw) (ag : Agent) (p vec : Nat) : Hw := h.grnCmdWrite ag p 2 vec
def granaryDrop (h : Hw) (ag : Agent) (p vec : Nat) : Hw := h.grnCmdWrite ag p 3 vec
def readCmd (h : Hw) (ag : Agent) (p vec : Nat) : Hw := h.grnCmdWrite ag p 4 vec
def evacuate (h : Hw) (ag : Agent) (p vec : Nat) : Hw := h.grnCmdWrite ag p 5 vec

/-- EVACUATE with ARG0[63] set, which releases the channel; with it clear the write is an EVACUATE. -/
def evacuateRelease (h : Hw) (ag : Agent) (p vec : Nat) : Hw := h.grnCmdWrite ag p 5 vec

/-- What waits to write a frame that has moved goes on, unless a copy that it asked for is under way (R298, R309). -/
def movedServed (h : Hw) (f : Nat) : Hw :=
  if (h.frame f).state = .inFlight then h
  else h.each ((List.range 16).filter fun g => !h.gran.copies.any fun e => e.frame == f && e.g == g) fun h g =>
    h.granuleServed f g

/-- The copies of an evacuation are complete: every allocated frame of the channel has moved, and its writers go on. The code is
a free value where a frame found no place (the spec names none; log entry 29). -/
def evacuateDone (h : Hw) (q : Nat) : Hw :=
  match h.gran.evacuating.find? fun e => e.2 == q with
  | none => h
  | some (w, _) =>
    let mine := (h.gran.map.filter fun e => decide (e.1 / 1024 = q ∧ e.2.state ≠ .free ∧ 64 ≤ e.1)).map (·.1)
    let (all, h) := mine.foldl (fun (a : Bool × Hw) f =>
      let (ok, h) := a.2.moveFrame f
      (a.1 && ok, h)) (true, h)
    let h : Hw := { h with gran := { h.gran with
      evacuating := h.gran.evacuating.filter fun e => e.2 ≠ q,
      evacuated := h.gran.evacuated.filter (· ≠ q) ++ [q] } }
    let h := h.each (h.gran.map.map (·.1)) movedServed
    let (code, h) := if all then (0, h) else (h.draw.1.toNat % 256, h.draw.2)
    h.grnDone (w / 4096) (w % 4096) code

end Sys2Proof.Machine.Hw

/-! ### The commands -/

namespace Sys2Proof.Machine

/-- CMAP_WRITE (R287): a write of GRN_CMAP[e] of cottage c, or of GRN_CVRAM (e = 256). -/
def execCmapWrite (ag : Agent) (c : Nat) (e : Nat) (v : DWord) (s : State) : Host.Outcome State Fault Refusal :=
  s.runLive fun h => h.cmapWrite ag c e v

/-- GRANULE_ARRIVAL (R294): granule g of frame f's page-in arrives. -/
def execGranuleArrival (f : Nat) (g : Nat) (s : State) : Host.Outcome State Fault Refusal :=
  s.runLive fun h => h.granuleArrival f g

/-- PAGEIN_FAIL (R310): the request for granule g of frame f's page-in fails. -/
def execPageinFail (f : Nat) (g : Nat) (how : ReadEnd) (s : State) : Host.Outcome State Fault Refusal :=
  s.runLive fun h => h.pageinFail f g how

/-- COW_COPY_DONE (R298): the copy of granule g into frame f completes. -/
def execCowCopyDone (f : Nat) (g : Nat) (s : State) : Host.Outcome State Fault Refusal :=
  s.runLive fun h => h.cowCopyDone f g

/-- ALLOC (R309): a write of ALLOC to GRN_CMD of port p. -/
def execAllocCmd (ag : Agent) (p : Nat) (vec : Nat) (s : State) : Host.Outcome State Fault Refusal :=
  s.runLive fun h => h.allocCmd ag p vec

/-- FREE (R309): a write of FREE to GRN_CMD of port p. -/
def execFreeCmd (ag : Agent) (p : Nat) (vec : Nat) (s : State) : Host.Outcome State Fault Refusal :=
  s.runLive fun h => h.freeCmd ag p vec

/-- GRANARY_DROP (R309): a write of DROP to GRN_CMD of port p. -/
def execGranaryDrop (ag : Agent) (p : Nat) (vec : Nat) (s : State) : Host.Outcome State Fault Refusal :=
  s.runLive fun h => h.granaryDrop ag p vec

/-- READ (R309): a write of READ to GRN_CMD of port p. -/
def execReadCmd (ag : Agent) (p : Nat) (vec : Nat) (s : State) : Host.Outcome State Fault Refusal :=
  s.runLive fun h => h.readCmd ag p vec

/-- EVACUATE (R309): a write of EVACUATE to GRN_CMD of port p. -/
def execEvacuate (ag : Agent) (p : Nat) (vec : Nat) (s : State) : Host.Outcome State Fault Refusal :=
  s.runLive fun h => h.evacuate ag p vec

/-- EVACUATE_RELEASE (R309): a write of EVACUATE to GRN_CMD of port p, with ARG0[63] set. -/
def execEvacuateRelease (ag : Agent) (p : Nat) (vec : Nat) (s : State) : Host.Outcome State Fault Refusal :=
  s.runLive fun h => h.evacuateRelease ag p vec

/-- EVACUATE_DONE (R309): the evacuation of channel q is complete. -/
def execEvacuateDone (q : Nat) (s : State) : Host.Outcome State Fault Refusal :=
  s.runLive fun h => h.evacuateDone q

end Sys2Proof.Machine
end

