-- ==== Sys2Proof/Machine/PorchCmd.lean ====
section
/-!
DEFINITION. The Porch's commands: flips at a Bell (R227), stream controls (R215, R231, R239, R242) and the eDP ports
(R232 to R236, R241). -/

namespace Sys2Proof.Machine.Hw

/-! ### Flips (R218, R227) -/

/-- Sets OUT_LATE in a written close of a stream, in ring r (R223, R227). -/
def closeLate (h : Hw) (c s r : Nat) (e : RingRec) : Hw :=
  let o := h.streamFn c s
  let sp := h.fld F.COM_RING_BASE_SPACE o r
  let a := h.slotAt o r e.first + 20
  let old := fromLe (h.commonsRead o sp a 1)
  if bit old 2 then h
  else ((h.commonsWrite o sp a [BitVec.ofNat 8 (old + 4)]).count F.POR_CNT_OUTLATE_OUTLATE).setStreamFld
    F.POR_S0_STAT_OUT_LATE F.POR_S1_STAT_OUT_LATE c s 1

/-- The rings of function o that hold a closed set of a stream whose flips are not due yet, each with its close. -/
def closedSets (h : Hw) (o c s : Nat) : List (Nat × RingRec) :=
  (h.fn o).rq.filterMap fun q =>
    (q.2.find? fun e => e.cot == c && e.stream == s && e.type == 4 && !e.ready).map fun e => (q.1, e)

/-- The last payload of the oldest closed set of a stream is written: its headers are flipped in ring order; `late`
says that the close's payload was written later than OUTWIN after the Bell. -/
def porchFlip (h : Hw) (c s : Nat) (late : Bool) : Hw :=
  let l := h.closedSets (h.streamFn c s) c s
  match l.find? fun x => l.all fun y => decide (x.2.set ≤ y.2.set) with
  | none => h
  | some (r, e) =>
    let h := if late then h.closeLate c s r e else h
    (h.markRecs c s (fun x => decide (x.set ≤ e.set)) fun x => { x with ready := true }).drainStream c s

/-! ### Stream controls (R215, R231, R239, R242) -/

/-- The fields of a stream control word that its checks look at: EN, FMT, CSC, RING. -/
def streamCtlOk (h : Hw) (c o fmt v : Nat) (changed : Bool) : Bool :=
  bits v 9 8 != 3 && !(bit v 0 && fmt == 0) && !(fmt == 5 && videoLayers (h.cls c) != 0) && decide (fmt ≤ 5) &&
    (!(bit v 0 && changed) || h.streamRingOk c o (bits v 31 16))
where
  /-- The number of video layers of a class (R69). -/
  videoLayers (k : ClassRec) : Nat := bits k.layers 5 4

/-- What a write of a stream's control register, which held `old` and takes v, has begin with the next frame: a start when EN goes
from 0 to 1, a change of RING, FMT or CSC (R231), or the end of a stop by a ring error (R242). -/
def streamWritten (h : Hw) (c s old v : Nat) : Hw :=
  let stopped := h.streamFld F.POR_S0_STAT_STOPPED F.POR_S1_STAT_STOPPED c s == 1
  let moved := bits v 31 16 != bits old 31 16 || bits v 9 5 != bits old 9 5
  h.modStream c s fun t =>
    { t with moved := t.moved || moved,
             start := if !bit v 0 then .none else if !bit old 0 then .starts
               else if stopped && t.start == .none then .resumes else t.start }

/-- A write of POR_S0_CTL. -/
def streamEnable (h : Hw) (ag : Agent) (c : Nat) (v : Word) : Hw :=
  let v := v.toNat
  let old := (h.reg .POR_S0_CTL c).toNat
  let changed := bits v 31 16 ≠ bits old 31 16 || !bit old 0
  h.guarded ag .POR_S0_CTL c 0 v (h.streamCtlOk c (h.streamFn c 0) (bits old 7 5) v changed) fun h =>
    (h.storeFields .POR_S0_CTL c 0 v).streamWritten c 0 old (setBits v 7 5 (bits old 7 5))

/-- A write of POR_S1_CTL[c]: as stream 0, with FMT written and the OUTPUT sum kept. -/
def porS1CtlWrite (h : Hw) (ag : Agent) (c : Nat) (v : Word) : Hw :=
  let v := v.toNat
  let p := (h.portOf c).getD 0
  let old := (h.reg .POR_S1_CTL p c).toNat
  let changed := bits v 31 16 ≠ bits old 31 16 || !bit old 0
  let rate := fun (w : Nat) =>
    if bit w 0 && !h.damageReliant c then pictureRate (h.cls c) (bits w 7 5) (h.bellMaxOf c) else 0
  let fits := decide (rate v ≤ rate old) || decide (h.outputSum p + rate v ≤ outputLimit + rate old)
  h.guarded ag .POR_S1_CTL p c v (h.streamCtlOk c (129 * p) (bits v 7 5) v changed && fits) fun h =>
    (h.storeFields .POR_S1_CTL p c v).streamWritten c 1 old v

/-- A write of REFRESH of stream s: every cell is owed from the next frame. -/
def refresh (h : Hw) (ag : Agent) (c s : Nat) : Hw :=
  if s = 0 then h.streamEnable ag c (BitVec.ofNat 32 (setBits (h.reg .POR_S0_CTL c).toNat 1 1 1))
  else h.porS1CtlWrite ag c (BitVec.ofNat 32 (setBits (h.reg .POR_S1_CTL ((h.portOf c).getD 0) c).toNat 1 1 1))

/-! ### eDP ports -/

/-- The state of port e. -/
def edpPort (h : Hw) (e : Nat) : EdpPort := NTable.get EdpPort.reset h.edp e
/-- Replaces it. -/
def setEdpPort (h : Hw) (e : Nat) (p : EdpPort) : Hw := { h with edp := NTable.set EdpPort.reset h.edp e p }

/-- The agent may write port e's registers: Reeve firmware, or the PF of the port that owns the source cottage
(R241). -/
def edpWriter (h : Hw) (ag : Agent) (src : Nat) : Bool :=
  match ag with
  | .reeve _ _ => true
  | .pf p => h.cotOnPort src p
  | _ => false

/-- The destination rectangle fits the panel, and its scaling is one the port does (R234). -/
def edpGeometry (h : Hw) (e src : Nat) (repl : Bool) (dst : Nat) : Bool :=
  let k := h.cls src
  let axis := fun (s d : Nat) => decide (s ≤ d) && decide (d ≤ 8 * s) && (!repl || d % s == 0)
  let dw := bits dst 44 32
  let dh := bits dst 60 48
  axis k.width dw && axis k.height dh && decide (bits dst 12 0 + dw ≤ h.edpHact e) &&
    decide (bits dst 28 16 + dh ≤ h.edpVact e)

/-- The scan buffer lies in private frames of the PF of a port (R235). -/
def edpBuffer (h : Hw) (e port : Nat) : Bool :=
  let a := h.fld F.POR_EDP_FB_ADDR 0 e * 4096
  let n := h.edpHact e * h.edpVact e * 4
  (List.range (ceilDiv (a % 0x100000 + n) 0x100000)).all fun i =>
    let f := h.frame (a / 0x100000 + i)
    f.state == .priv && f.owner == 129 * port

/-- The port stops running. -/
def edpStop (h : Hw) (e : Nat) : Hw :=
  let h := ((h.setFld F.POR_EDP_STAT_ACTIVE 0 e 0).setFld F.POR_EDP_STAT_TRAINED 0 e 0).setFld F.POR_EDP_STAT_PSR2_ACT 0 e 0
  h.setEdpPort e { h.edpPort e with training := false }

/-- The pixels of the panel outside the rectangle take the border colour (R233). -/
def edpBorder (h : Hw) (e : Nat) : Hw :=
  let fb := h.fld F.POR_EDP_FB_ADDR 0 e * 4096
  let w := h.edpHact e
  let dx := h.fld F.POR_EDP_DST_DX 0 e
  let dy := h.fld F.POR_EDP_DST_DY 0 e
  let inside := fun (x y : Nat) => decide (dx ≤ x) && decide (x < dx + h.fld F.POR_EDP_DST_DW 0 e) && decide (dy ≤ y) &&
    decide (y < dy + h.fld F.POR_EDP_DST_DH 0 e)
  h.each (List.range (h.edpVact e)) fun h y => h.each (List.range w) fun h x =>
    if inside x y then h else h.wv (fb + (y * w + x) * 4) 4 (expandRgb (h.fld F.POR_EDP_BORDER_RGB 0 e))

/-- What the port shows has changed place, scale or border while it runs: the border is drawn anew, the whole panel awaits an
update, and with `all` every cell is owed (R233; log entry 56). -/
def edpRedraw (h : Hw) (e : Nat) (all : Bool) : Hw :=
  if h.flag F.POR_EDP_STAT_ACTIVE 0 e then
    let h := h.edpBorder e
    let p := h.edpPort e
    h.setEdpPort e { p with lines := [(0, h.edpVact e)], owed := if all then allCells (h.cls p.src) else p.owed }
  else h

/-- The pixel clock of a panel, in kHz, as POR_EDP_TIM gives it (layout: log entry 18): at most 300 MHz (R232). -/
def edpClockOk (h : Hw) (e : Nat) : Bool := decide (bits (h.fld F.POR_EDP_TIM_TIM 0 (4 * e + 3)) 23 0 ≤ 300000)

/-- A write of POR_EDP_CTL (R234, R235, R241). The geometry is judged once a rectangle has been written, and whenever
EN is 1 (log entry 27). -/
def edpCtlWrite (h : Hw) (ag : Agent) (e v : Nat) : Hw :=
  let old := (h.reg .POR_EDP_CTL 0 e).toNat
  let dst := (h.reg .POR_EDP_DST 0 e).toNat
  let src := bits v 31 20
  let en := bit v 0
  let port := (h.portOf src).getD 0
  let writer := h.edpWriter ag src && (!bit old 0 || h.edpWriter ag (bits old 31 20))
  let starts := en && (!h.flag F.POR_EDP_STAT_ACTIVE 0 e) && !(h.edpPort e).training
  if !h.sees ag .POR_EDP_CTL 0 e then h.refuseView ag .POR_EDP_CTL 0 e
  else if !writer then (if en then h.setFld F.POR_EDP_STAT_FB_REJ 0 e 1 else h).refuse ag .POR_EDP_CTL 0 e
  else if bits v 7 6 = 3 || bits v 5 4 = 3 || (starts && !h.edpClockOk e) then h.refuse ag .POR_EDP_CTL 0 e
  else if (en || dst ≠ 0) && !h.edpGeometry e src (bit v 8) dst then
    (h.setFld F.POR_EDP_STAT_GEOM_REJ 0 e 1).refuse ag .POR_EDP_CTL 0 e
  else if (starts && !h.edpBuffer e port) || (bit old 0 && h.portOf src != h.portOf (bits old 31 20)) then
    (h.setFld F.POR_EDP_STAT_FB_REJ 0 e 1).refuse ag .POR_EDP_CTL 0 e
  else
    let h := h.storeFields .POR_EDP_CTL 0 e v
    if starts then
      h.setEdpPort e { h.edpPort e with training := true, src := src, owed := allCells (h.cls src), due := [], lines := [] }
    else if !en then h.edpStop e
    else if bit v 8 != bit old 8 then h.edpRedraw e true
    else h

/-- A write of EN of port e. -/
def edpEnable (h : Hw) (ag : Agent) (e : Nat) (en : Bool) : Hw :=
  h.edpCtlWrite ag e (setBits (h.reg .POR_EDP_CTL 0 e).toNat 0 0 (b2n en))

/-- A write of POR_EDP_DST (R234). -/
def edpDstWrite (h : Hw) (ag : Agent) (e v : Nat) : Hw :=
  let ctl := (h.reg .POR_EDP_CTL 0 e).toNat
  if !h.sees ag .POR_EDP_DST 0 e then h.refuseView ag .POR_EDP_DST 0 e
  else if !h.edpWriter ag (bits ctl 31 20) then h.refuse ag .POR_EDP_DST 0 e
  else if !h.edpGeometry e (bits ctl 31 20) (bit ctl 8) v then
    (h.setFld F.POR_EDP_STAT_GEOM_REJ 0 e 1).refuse ag .POR_EDP_DST 0 e
  else (h.storeFields .POR_EDP_DST 0 e v).edpRedraw e true

/-- A write of POR_EDP_CTL, or of POR_EDP_DST (`dst`). -/
def edpGeometryWrite (h : Hw) (ag : Agent) (e : Nat) (dst : Bool) (v : DWord) : Hw :=
  if dst then h.edpDstWrite ag e v.toNat else h.edpCtlWrite ag e v.toNat

/-- A write of POR_EDP_FB, POR_EDP_TIM or another register of the port: by its writers only; FB and TIM not while EN
is 1 (R235, R241). -/
def edpOtherWrite (h : Hw) (ag : Agent) (n : RegName) (i j e v : Nat) : Hw :=
  let held := (n == .POR_EDP_FB || n == .POR_EDP_TIM) && h.flag F.POR_EDP_CTL_EN 0 e &&
    decide (mergeFields n.desc.fields (h.reg n i j).toNat v ≠ (h.reg n i j).toNat)
  if !h.sees ag n i j then h.refuseView ag n i j
  else if !h.edpWriter ag (h.fld F.POR_EDP_CTL_SRC 0 e) then h.refuse ag n i j
  else if held then (h.setFld F.POR_EDP_STAT_FB_REJ 0 e 1).refuse ag n i j
  else
    let h := h.storeFields n i j v
    if n = .POR_EDP_BORDER then h.edpRedraw e false else h

/-- The panel is plugged in, HPD high (R232, R241); or link training completes, the panel offering PSR2 or not. -/
def edpLinkTrained (h : Hw) (e : Nat) (x : PanelEvent) : Hw :=
  let p := h.edpPort e
  let h := h.setFld F.POR_EDP_STAT_HPD 0 e 1
  match x with
  | .plugged => h
  | .trained psr2 =>
    if p.training && h.flag F.POR_EDP_CTL_EN 0 e then
      let h := h.setEdpPort e { p with training := false }
      let h := (h.setFld F.POR_EDP_STAT_TRAINED 0 e 1).setFld F.POR_EDP_STAT_ACTIVE 0 e 1
      let h := h.setFld F.POR_EDP_STAT_PSR2_ACT 0 e (b2n (psr2 && h.flag F.POR_EDP_CTL_PSR2 0 e))
      h.edpRedraw e false
    else h

/-- A panel frame begins: the changed lines go out as a selective update aligned to the panel's granularity, or the
whole buffer is scanned; while the buffer's writes are unfinished the update waits (R233, R236). -/
def edpPanelFrame (h : Hw) (e gran : Nat) (unfinished : Bool) : Hw :=
  let p := h.edpPort e
  if h.flag F.POR_EDP_STAT_ACTIVE 0 e then
    if h.flag F.POR_EDP_STAT_PSR2_ACT 0 e then
      if p.lines.isEmpty then h
      else if unfinished then h.count F.POR_EDP_DEFER_DEFER 0 e
      else
        let g := max 1 gran
        let lines := p.lines.foldl (fun acc r => addRange acc (r.1 / g * g, min (h.edpVact e) (ceilDiv r.2 g * g))) []
        ((h.setEdpPort e { p with lines := [] }).countWrap F.POR_EDP_SU_SU 0 e).emit (.edpSu e lines)
    else
      let h := if unfinished && !p.lines.isEmpty then h.count F.POR_EDP_DEFER_DEFER 0 e
        else h.setEdpPort e { p with lines := [] }
      h.emit (.edpScan e)
  else h

/-- HPD, or link training alone, is lost: the port stops until EN is written again (R236). -/
def edpLinkLost (h : Hw) (e : Nat) (hpd : Bool) : Hw :=
  let h := if hpd then h.setFld F.POR_EDP_STAT_HPD 0 e 0 else h
  if h.flag F.POR_EDP_STAT_ACTIVE 0 e || (h.edpPort e).training then
    let h := (h.edpStop e).setFld F.POR_EDP_STAT_LINK_LOST 0 e 1
    h.raiseShared 0 .POR 0x03 6 e none (detailOf .POR [0x03, e])
  else h

/-- An AUX or I2C-over-AUX transaction: the eight words of the request go out, and the registers then hold what the
panel answers, a free value each (R241; log entry 28). -/
def auxTransaction (h : Hw) (ag : Agent) (e : Nat) (request : List Word) : Hw :=
  if !h.sees ag .POR_EDP_AUX 0 (8 * e) then h.refuseView ag .POR_EDP_AUX 0 (8 * e)
  else if !h.edpWriter ag (h.fld F.POR_EDP_CTL_SRC 0 e) then h.refuse ag .POR_EDP_AUX 0 (8 * e)
  else
    let h := h.each request fun h w => h.emit (.aux e w)
    h.each (List.range 8) fun h i =>
      let (v, h) := h.draw
      h.setFld F.POR_EDP_AUX_AUX 0 (8 * e + i) v.toNat

end Sys2Proof.Machine.Hw

/-! ### The commands -/

namespace Sys2Proof.Machine

/-- PORCH_FLIP (R227): the last payload of stream s of cottage c's oldest closed frame is written. -/
def execPorchFlip (c : Nat) (k : Nat) (late : Bool) (s : State) : Host.Outcome State Fault Refusal :=
  s.runLive fun h => h.porchFlip c k late

/-- STREAM_ENABLE (R231): a write of POR_S0_CTL of cottage c. -/
def execStreamEnable (ag : Agent) (c : Nat) (v : Word) (s : State) : Host.Outcome State Fault Refusal :=
  s.runLive fun h => h.streamEnable ag c v

/-- POR_S1_CTL_WRITE (R239): a write of POR_S1_CTL of cottage c. -/
def execPorS1CtlWrite (ag : Agent) (c : Nat) (v : Word) (s : State) : Host.Outcome State Fault Refusal :=
  s.runLive fun h => h.porS1CtlWrite ag c v

/-- REFRESH (R239): a write of REFRESH of stream s of cottage c. -/
def execRefresh (ag : Agent) (c : Nat) (k : Nat) (s : State) : Host.Outcome State Fault Refusal :=
  s.runLive fun h => h.refresh ag c k

/-- EDP_ENABLE (R235): a write of POR_EDP_CTL.EN of port e. -/
def execEdpEnable (ag : Agent) (e : Nat) (en : Bool) (s : State) : Host.Outcome State Fault Refusal :=
  s.runLive fun h => h.edpEnable ag e en

/-- EDP_GEOMETRY_WRITE (R234): a write of POR_EDP_CTL or POR_EDP_DST of port e. -/
def execEdpGeometryWrite (ag : Agent) (e : Nat) (dst : Bool) (v : DWord) (s : State) : Host.Outcome State Fault
    Refusal :=
  s.runLive fun h => h.edpGeometryWrite ag e dst v

/-- EDP_PANEL_FRAME (R233): a panel frame of port e begins. -/
def execEdpPanelFrame (e : Nat) (gran : Nat) (unfinished : Bool) (s : State) : Host.Outcome State Fault Refusal :=
  s.runLive fun h => h.edpPanelFrame e gran unfinished

/-- EDP_LINK_LOST (R236): port e loses HPD, or link training alone. -/
def execEdpLinkLost (e : Nat) (s : State) (hpd : Bool := true) : Host.Outcome State Fault Refusal :=
  s.runLive fun h => h.edpLinkLost e hpd

/-- AUX_TRANSACTION (R241): a transaction through POR_EDP_AUX of port e. -/
def execAuxTransaction (ag : Agent) (e : Nat) (request : List Word) (s : State) : Host.Outcome State Fault Refusal :=
  s.runLive fun h => h.auxTransaction ag e request

/-- EDP_LINK_TRAINED (R232): port e's panel is plugged in, or its link training completes. -/
def execEdpLinkTrained (e : Nat) (x : PanelEvent) (s : State) : Host.Outcome State Fault Refusal :=
  s.runLive fun h => h.edpLinkTrained e x

end Sys2Proof.Machine
end

