-- ==== Sys2Proof/Machine/Fabric.lean ====
section
/-!
DEFINITION. The fabric ports (R340, R441 to R458, R470): function level reset, port and module reset, VFs, power states,
latency tolerance, L1, PTM. -/

namespace Sys2Proof.Machine.Hw

/-! ### Function level reset (R454 to R458) -/

/-- The cottages that function o owns. -/
def cotsOf (h : Hw) (o : Nat) : List Nat :=
  (List.range 16).flatMap fun n => (h.parishCots n).filter fun c => h.ownerOf c == some o

/-- A function's configuration space, MSI-X table, PBA, moderation state, error queue and Commons registers return to reset;
pending messages are discarded (R454 steps 3 and 8). What the error queue had not flipped counts as LOST in the next
ERRORS slot; PME_Status, a sticky bit, stays (log entry 36). -/
def configReset (h : Hw) (o : Nat) : Hw :=
  let h := h.modFn o fun f =>
    { Fn.reset o with
      enabled := f.enabled, flr := f.flr, quiet := true, pmeStatus := f.pmeStatus, bar2 := f.bar2, allocs := f.allocs,
      eqLost := min (f.eqLost + f.eqSlot.length) (2 ^ 32 - 1) }
  h.resetRegs fun r => r.name.desc.bank == .perFn && r.bank == o

/-- Steps 4 and 5 of R454 for a cottage of the function: its frame in progress is closed on stream 1, stream 0 and the audio
stream stop, its Hayloft command ends unsignalled, and it is reset. -/
def flrCottage (h : Hw) (c : Nat) : Hw :=
  let x := h.cot c
  let h := h.setCot c
    { x with porch := { x.porch with s0 := Stream.reset },
             choir := { x.choir with seq := 0, contained := false } }
  let h := if (h.cot c).hay.isSome then h.hayDone c 0x08 false else h
  (h.cottageReset c).releaseCottage c

/-- The FLR of one function (R454 steps 1 to 8). Only PFs own BAR2 frames and rings of stream 1; steps 2 and 3 come first, so
what a disabled ring holds is never flipped. -/
def flrOne (h : Hw) (o : Nat) : Hw :=
  let h := h.modFn o fun f => { f with flr := true }
  let h := h.each (List.range 16) fun h n => h.each (List.range 8) fun h j =>
    if h.chainOwner n j = o then h.chainFlr n j else h
  let mine := h.cotsOf o
  let h := h.each (h.regs.filterMap fun e =>
      if e.1.name = .COM_RING_CFG ∧ e.1.bank = o then some e.1.idx else none)
    fun h r => h.setFld F.COM_RING_CFG_EN o r 0
  let h := h.each mine fun h c => h.flrCottage c
  (h.bar2Release o).configReset o

/-- FLR of VF v of a port. In the Module-fatal state only its configuration space is reset (R496). -/
def flr (h : Hw) (p v : Nat) : Hw :=
  let o := 129 * p + v
  if !(h.fn o).enabled then h
  else if h.act then h.flrOne o
  else if h.flag F.ERR_STAT_FATAL then (h.modFn o fun f => { f with flr := true }).configReset o
  else h

/-- A public page-in in flight under the PF of port p fails (R456, R310). -/
def publicPageinsFail (h : Hw) (p : Nat) : Hw :=
  h.each (h.gran.map.filterMap fun e =>
      if e.2.state = .inFlight ∧ e.2.isPublic ∧ e.2.owner / 129 = p then some e.1 else none)
    fun h f =>
      match h.outstanding f with
      | g :: _ => h.pageinFail f g .unsuccessful
      | [] => h

/-- What the FLR of the PF of port p does beside R454 (R456). -/
def pfStops (h : Hw) (p : Nat) : Hw :=
  let h := h.each ((List.range 16).flatMap h.parishCots) fun h c =>
    if h.cotOnPort c p then
      (h.setFld F.POR_S1_CTL_EN p c 0).modPorch c fun x => { x with s1 := { x.s1 with live := false, start := .none, held := [], set := PorchSet.reset } }
    else h
  let h := h.each [0, 1] fun h e =>
    if h.flag F.POR_EDP_CTL_EN 0 e && h.cotOnPort (h.fld F.POR_EDP_CTL_SRC 0 e) p then
      (h.setFld F.POR_EDP_CTL_EN 0 e 0).edpStop e
    else h
  let h := (h.each (h.fn (129 * p)).allocs fun h f => h.dropRef f true).modFn (129 * p) fun f => { f with allocs := [] }
  let h := h.abandonJob p
  h.each (List.range 16) fun h n =>
    let h := h.each (List.range 4) fun h t =>
      if h.fld F.PIC_MSIX_PORT n t = p then h.setFld F.PIC_MSIX_EN n t 0 else h
    h.each (List.range 2) fun h m =>
      if !h.chisReeve n m && h.chisOwner n m == 129 * p && h.fld F.CHS_P_STAT_STATE n m != 0 then (h.privPart n m).chisEnds n m 0x08
      else h

/-- The enabled VFs of a port above number n, ascending. -/
def vfsAbove (h : Hw) (p n : Nat) : List Nat :=
  (List.range 128).filterMap fun k => if n < k + 1 && (h.fn (129 * p + k + 1)).enabled then some (k + 1) else none

/-- The VFs of a port above number n disappear, each with an FLR (R446). -/
def vfsGo (h : Hw) (p n : Nat) : Hw :=
  let gone := h.vfsAbove p n
  (h.each gone fun h v => h.flr p v).each gone fun h v => h.modFn (129 * p + v) fun f => { f with enabled := false }

/-- The PTM source of a port is lost to every parish that takes its Bell from it (R452). -/
def ptmLost (h : Hw) (p : Nat) : Hw :=
  let h := h.setPort p { h.port p with ptmFresh := false }
  if h.fld F.FAB_PTM_PORT = p then
    h.each (List.range 16) fun h n => if (h.parish n).srcInForce = 1 then h.bellSourceLost n else h
  else h

/-- FLR of the PF of port p: every VF, then the PF (R456). Of the port's configuration, PCIe keeps what belongs to the link
(log entry 36). -/
def pfFlr (h : Hw) (p : Nat) : Hw :=
  let g := h.vfsGo p 0
  let g := g.setPort p { g.port p with vfEn := false, numVfs := 0, ltrEn := false, ptmEn := false, cplTimeout := 0 }
  let g := g.ptmLost p
  if h.act then
    let g := g.publicPageinsFail p
    (g.pfStops p).flrOne (129 * p)
  else if h.flag F.ERR_STAT_FATAL then (g.modFn (129 * p) fun f => { f with flr := true }).configReset (129 * p)
  else g

/-- The FLR of function o is complete: Transactions Pending is clear (R454 step 9); no record in the Module-fatal state
(R496). -/
def flrComplete (h : Hw) (o : Nat) : Hw :=
  if !(h.fn o).flr then h
  else
    let p := o / 129
    let g := h.modFn o fun f => { f with flr := false }
    let g := (g.setFld F.FAB_FLR_LAST 0 p (o % 129)).count F.FAB_FLR_COUNT 0 p
    if h.flag F.ERR_STAT_FATAL then g
    else g.raise 0 3 .FAB 0x03 (chanIndex 9 o 0) none [129 * p] (detailOf .FAB [0x03, o])

/-! ### Resets (R12, R13, R453, R478) -/

/-- The parishes with nothing but the words of their Larders. -/
def larderKept (h : Hw) : NTable Parish :=
  ((List.range 16).foldl (fun g n => g.setParish n (h.parish n).larderOnly) Hw.reset).par

/-- Power-on, or PERST# on both ports: the module domain, every parish and cottage reset. Memory keeps its contents (R13), the
power controller and the sideband, in the standby domain, their condition. -/
def moduleReset (h : Hw) : Hw :=
  { Hw.reset with
    par := h.larderKept, mem := h.mem, memPoison := h.memPoison, sbd := h.sbd, out := h.out, fresh := h.fresh,
    power := { h.power with coreOn := h.power.standby, asleep := false, fullSpeed := false, critPending := false } }

/-- A record of scope fabric port p, to both PFs (R470). -/
def portRecord (h : Hw) (sev cause p : Nat) : Hw :=
  h.raise sev 3 .FAB cause (chanIndex 8 (129 * p) 0) none bothPfs (detailOf .FAB [cause, p])

/-- The link of a port goes down: the record, ring errors of every ring of the port (R453, R470). -/
def linkDown (h : Hw) (p : Nat) : Hw :=
  if !(h.port p).up then h
  else
    let h := h.setPort p { h.port p with up := false, l1 := false }
    let h := (h.setReg .FAB_LINK 0 p (h.reg .FAB_LINK 0 p &&& 8))
    if !h.act then h
    else
      let h := h.portRecord 1 0x01 p
      h.each (h.regs.filterMap fun e =>
          if e.1.name = .COM_RING_CFG ∧ e.1.bank / 129 = p ∧ bit e.2.toNat 31 then some (e.1.bank, e.1.idx) else none)
        fun h e => h.ringErr e.1 e.2

/-- One port resets: PERST# (kind 0) while the other's is deasserted, a hot reset (1), or a loss of DL_Active (2); with PERST#
on both, the module (R453). PERST# ends sleep (R474). -/
def portReset (h : Hw) (p kind : Nat) : Hw :=
  if kind = 0 ∧ (h.port (1 - p)).perst then h.moduleReset
  else
    let wakes := kind == 0 && h.power.asleep
    let g := if wakes then h.sleepEnds else h
    let g := (g.linkDown p).pfFlr p
    let g := g.modFn (129 * p) fun f => { f with pmeStatus := false }
    let g := g.setPort p { Port.reset with perst := kind == 0 || (g.port p).perst }
    { g with power := { h.power with asleep := h.power.asleep && !wakes } }

/-- Port p reaches DL_Active at a rate code and width; `common` is the partner's highest common rate (R481, R468, R470). -/
def linkUp (h : Hw) (p rate width : Nat) (flit : Bool) (common : Nat) : Hw :=
  if (h.port p).perst || h.boot.stage == .held || !h.power.coreOn || (h.port p).up then h
  else
    let h := h.setPort p { h.port p with up := true }
    let low := decide (width < 16) || decide (rate < common)
    let h := ((((h.setFld F.FAB_LINK_UP 0 p 1).setFld F.FAB_LINK_RATE 0 p rate).setFld F.FAB_LINK_WIDTH 0 p width).setFld
      F.FAB_LINK_FLIT 0 p (b2n flit))
    if low then (h.setFld F.FAB_LINK_DEGRADED 0 p 1).portRecord 0 0x02 p else h

/-! ### VFs and configuration space (R340, R446, R451, R483) -/

/-- VF Enable with NumVFs n, or 0 for VF Enable cleared: only while the PF is in D0 (R446) and the fabric released (R483). -/
def setVfs (h : Hw) (p n : Nat) : Hw :=
  if (h.fn (129 * p)).d3 then h
  else
    let g := h.vfsGo p n
    if h.boot.stage ≠ .released then g
    else
      let g := g.setPort p { g.port p with vfEn := n != 0, numVfs := n }
      g.each (List.range n) fun h k =>
        h.modFn (129 * p + k + 1) fun f => if f.enabled then f else { Fn.reset (129 * p + k + 1) with enabled := true }

/-- VF Enable is cleared (n = 0), or NumVFs lowered to n. -/
def vfEnableClear (h : Hw) (p n : Nat) : Hw := if n < (h.port p).numVfs then h.setVfs p n else h

/-- A write of function o's configuration space. -/
def configSpaceWrite (h : Hw) (o : Nat) (x : ConfigChange) : Hw :=
  let p := o / 129
  let pf := o % 129 == 0
  match x with
  | .bme on =>
    let h := h.modFn o fun f => { f with bme := on }
    if on && h.act then h.ringsGoOn o else h
  | .vfs n => if pf && decide (n ≤ 128) then h.setVfs p n else h
  | .ltr on => if pf then h.setPort p { h.port p with ltrEn := on } else h
  | .aspm on => if pf then h.setPort p { h.port p with aspmEn := on } else h
  | .l1ss on => if pf then h.setPort p { h.port p with l1ssEn := on } else h
  | .ptm on =>
    if pf then
      let h := h.setPort p { h.port p with ptmEn := on }
      if on then h else h.ptmLost p
    else h
  | .clearPme => h.modFn o fun f => { f with pmeStatus := false }
  | .cplTimeout range => if pf then h.setPort p { h.port p with cplTimeout := range } else h

/-- Function o enters D3hot: the PF's Armature or staging command is abandoned (R86, R171, R451). -/
def d3hotEntry (h : Hw) (o : Nat) : Hw :=
  let h := h.modFn o fun f => { f with d3 := true, pmeSent := false }
  if o % 129 = 0 then h.abandonJob (o / 129) else h

/-- Function o issues requests again: those of its page-ins that are due (R294). -/
def pageinsGoOn (h : Hw) (o : Nat) : Hw :=
  h.each (h.gran.pageins.map (·.1)) fun h f => if h.requester f = o then h.requestMore f else h

/-- Function o returns to D0: what D3hot held goes out (R344), its rings take writes again (R340), its page-ins go on. -/
def d0Return (h : Hw) (o : Nat) : Hw :=
  if !(h.fn o).d3 then h
  else
    let h := (h.modFn o fun f => { f with d3 := false }).sendHeld o
    if h.act then (h.ringsGoOn o).pageinsGoOn o else h

/-! ### Latency tolerance and L1 (R237, R449, R450) -/

/-- The Porch's value for a port: `toBell` is the time in µs to the next Bell of a parish with an enabled stream whose ring lies
on the port, `writing` says that a payload write or flip is outstanding (R237). -/
def porchLtr (h : Hw) (toBell : Option Nat) (writing : Bool) : Nat :=
  let guardTime := h.fld F.POR_LTR_GUARD
  match toBell with
  | some t =>
    if writing || decide (t ≤ guardTime) then h.fld F.POR_LTR_ACTIVE else min (h.fld F.POR_LTR_IDLE_CAP) (t - guardTime)
  | none => if writing then h.fld F.POR_LTR_ACTIVE else h.fld F.POR_LTR_IDLE_CAP

/-- A block beside the Porch is active on port p (R449): a chain channel of a function of the port in RUN, a register channel's
read in flight (`regRead`), a page-in in flight, an EXPORT or IMPORT. -/
def ltrActive (h : Hw) (p : Nat) (regRead : Bool) : Bool :=
  regRead ||
    (List.range 16).any (fun n => (List.range 8).any fun j =>
      h.fld F.CAR_CH_STAT_STATE n j == 1 && h.chainOwner n j / 129 == p) ||
    h.gran.map.any (fun e => e.2.state == .inFlight && e.2.owner / 129 == p) ||
    h.cots.any fun e => (e.2.hay.map fun k => decide (4 ≤ k.op)).getD false && h.portOf e.1 == some p

/-- The combined value of port p in µs (R449). -/
def ltrValue (h : Hw) (p : Nat) (toBell : Option Nat) (writing regRead : Bool) : Nat :=
  min (h.porchLtr toBell writing) (if h.ltrActive p regRead then h.fld F.FAB_LTR_ACTIVE 0 p else h.fld F.FAB_LTR_IDLE 0 p)

/-- A value is due on port p: it is lower than the last sent, or higher once 500 µs have passed since the previous message
(`aged`), or the first (R449). -/
def ltrDue (h : Hw) (p v : Nat) (aged : Bool) : Bool :=
  match (h.port p).ltrSent with
  | none => true
  | some w => decide (v < w) || (aged && decide (w < v))

/-- Port p sends a value that is due, while LTR is enabled. -/
def ltrMessage (h : Hw) (p : Nat) (toBell : Option Nat) (writing regRead aged : Bool) : Hw :=
  let v := h.ltrValue p toBell writing regRead
  let x := h.port p
  if x.ltrEn && x.up && h.ltrDue p v aged then
    ((h.setPort p { x with ltrSent := some v, l1 := false }).setFld F.FAB_LTR_SENT 0 p v).emit (.ltr p v)
  else h

/-- Port p has had nothing to send for L1IDLE µs: L1 with the substate its enables give. -/
def aspmL1Entry (h : Hw) (p : Nat) : Hw :=
  let x := h.port p
  if x.up && x.aspmEn then (h.setPort p { x with l1 := true }).setFld F.FAB_LINK_L1SS 0 p (b2n x.l1ssEn) else h

/-- A TLP is due on port p, whose link is in L1. -/
def l1Exit (h : Hw) (p : Nat) : Hw := if (h.port p).l1 then h.leaveL1 p else h

/-! ### PTM (R452) -/

/-- Port p refreshes its PTM context, in a dialogue that succeeds or not. -/
def ptmRefresh (h : Hw) (p : Nat) (ok : Bool) : Hw :=
  let x := h.port p
  if x.ptmEn && x.up && ok then h.setPort p { x with ptmFresh := true } else h

/-- A write of FAB_PTM_EPOCH acts as a change of source in every parish that takes its Bell from PTM (R26). -/
def epochWrite (h : Hw) (ag : Agent) (v : DWord) : Hw :=
  h.guarded ag .FAB_PTM_EPOCH 0 0 v.toNat true fun h =>
    (h.storeFields .FAB_PTM_EPOCH 0 0 v.toNat).each (List.range 16) fun h n =>
      if h.fld F.BEL_CTL_SRC n = 1 then h.modParish n fun p => { p with srcPend := true } else h

/-- Port p receives a request that uses an unsupported feature. -/
def unsupportedRequest (h : Hw) (p : Nat) : Hw := h.unsupported p

end Sys2Proof.Machine.Hw

/-! ### The commands -/

namespace Sys2Proof.Machine

/-- MODULE_RESET (R453): power-on, or PERST# on both ports. -/
def execModuleReset (s : State) : Host.Outcome State Fault Refusal :=
  s.run fun h => h.moduleReset

/-- PORT_RESET (R453): port p resets: PERST# (kind 0), a hot reset (1), or a loss of DL_Active (2). -/
def execPortReset (p : Nat) (kind : Nat) (s : State) : Host.Outcome State Fault Refusal :=
  s.run fun h => h.portReset p kind

/-- LINK_UP (R481): port p reaches DL_Active at a rate code and width -/
def execLinkUp (p : Nat) (rate : Nat) (width : Nat) (flit : Bool) (common : Nat) (s : State) : Host.Outcome State
    Fault Refusal :=
  s.runKeep fun h => h.linkUp p rate width flit common

/-- FLR (R454): Initiate FLR of VF v of port p. -/
def execFlr (p : Nat) (v : Nat) (s : State) : Host.Outcome State Fault Refusal :=
  s.runKeep fun h => h.flr p v

/-- PF_FLR (R456): FLR of the PF of port p. -/
def execPfFlr (p : Nat) (s : State) : Host.Outcome State Fault Refusal :=
  s.runKeep fun h => h.pfFlr p

/-- FLR_COMPLETE (R454): the FLR of function o is complete. -/
def execFlrComplete (o : Nat) (s : State) : Host.Outcome State Fault Refusal :=
  s.runKeep fun h => h.flrComplete o

/-- VF_ENABLE_CLEAR (R446): VF Enable of port p is cleared (n = 0) or NumVFs lowered to n. -/
def execVfEnableClear (p : Nat) (n : Nat) (s : State) : Host.Outcome State Fault Refusal :=
  s.runKeep fun h => h.vfEnableClear p n

/-- D3HOT_ENTRY (R451): function o enters D3hot. -/
def execD3hotEntry (o : Nat) (s : State) : Host.Outcome State Fault Refusal :=
  s.runKeep fun h => h.d3hotEntry o

/-- D0_RETURN (R451): function o returns to D0. -/
def execD0Return (o : Nat) (s : State) : Host.Outcome State Fault Refusal :=
  s.runKeep fun h => h.d0Return o

/-- LTR_MESSAGE (R449): port p reviews its latency tolerance: `toBell` µs to the next Bell of a parish with a
stream on the port, a payload write (`writing`) or a register channel's read (`regRead`) outstanding, 500 µs since the last message (`aged`). -/
def execLtrMessage (p : Nat) (toBell : Option Nat) (writing : Bool) (regRead : Bool) (aged : Bool) (s : State) :
    Host.Outcome State Fault Refusal :=
  s.runLive fun h => h.ltrMessage p toBell writing regRead aged

/-- ASPM_L1_ENTRY (R450): port p has had no TLP to send for L1IDLE µs. -/
def execAspmL1Entry (p : Nat) (s : State) : Host.Outcome State Fault Refusal :=
  s.runLive fun h => h.aspmL1Entry p

/-- L1_EXIT (R450): a TLP is due on port p. -/
def execL1Exit (p : Nat) (s : State) : Host.Outcome State Fault Refusal :=
  s.runLive fun h => h.l1Exit p

/-- PTM_REFRESH (R452): the 10 ms refresh of port p's PTM context succeeds (ok) or not. -/
def execPtmRefresh (p : Nat) (ok : Bool) (s : State) : Host.Outcome State Fault Refusal :=
  s.runLive fun h => h.ptmRefresh p ok

/-- PTM_LOST (R452): the PTM source of port p counts as lost. -/
def execPtmLost (p : Nat) (s : State) : Host.Outcome State Fault Refusal :=
  s.runLive fun h => h.ptmLost p

/-- EPOCH_WRITE (R452): a write of FAB_PTM_EPOCH. -/
def execEpochWrite (ag : Agent) (v : DWord) (s : State) : Host.Outcome State Fault Refusal :=
  s.runLive fun h => h.epochWrite ag v

/-- UNSUPPORTED_REQUEST (R442): port p receives a request that uses an unsupported feature. -/
def execUnsupportedRequest (p : Nat) (s : State) : Host.Outcome State Fault Refusal :=
  s.runKeep fun h => h.unsupportedRequest p

/-- CONFIG_SPACE_WRITE (R340): a write of function o's configuration space. -/
def execConfigSpaceWrite (o : Nat) (x : ConfigChange) (s : State) : Host.Outcome State Fault Refusal :=
  s.runKeep fun h => h.configSpaceWrite o x

end Sys2Proof.Machine
end

