-- ==== Sys2Proof/Machine/Identity.lean ====
section
/-!
DEFINITION. The SPDM responder (R461 to R463). Layouts of messages are those of SPDM 1.2 (PRESUMED, log entry 37); a
request is the message as received, its code in byte 1. Connections: 0 the DOE of PA, 1 the DOE of PB, 2 MCTP. -/

namespace Sys2Proof.Machine

/-- The bytes of an ASCII text. -/
def ascii (s : String) : List Byte := s.toList.map fun c => BitVec.ofNat 8 c.toNat

/-- The bytes that a signature of SPDM 1.2 covers, for a transcript and a context text. -/
def spdmSigned (context : String) (transcript : List Byte) : List Byte :=
  let text := ascii context
  (List.replicate 4 (ascii "dmtf-spdm-v1.2.*")).flatten ++ List.replicate (36 - text.length) 0 ++ text ++
    digestBytes (Crypto.sha384 transcript)

/-- A measurement block: index, DMTF type with bit 7 for a raw value, value (R462). -/
def measBlock (index type : Nat) (value : List Byte) : List Byte :=
  leBytes 1 index ++ leBytes 1 1 ++ leBytes 2 (value.length + 3) ++ leBytes 1 type ++ leBytes 2 value.length ++ value

namespace Hw

/-- A connection. -/
def conn (h : Hw) (i : Nat) : SpdmConn := NTable.get SpdmConn.reset h.spdm i
/-- Replaces it. -/
def setConn (h : Hw) (i : Nat) (x : SpdmConn) : Hw := { h with spdm := NTable.set SpdmConn.reset h.spdm i x }

/-- The transport answers: the DOE of a port whose link is up and whose PF is in no FLR, or the sideband (R461, R465). -/
def connAnswers (h : Hw) (i : Nat) : Bool :=
  if i < 2 then (h.port i).up && !(h.fn (129 * i)).flr else h.power.standby

/-- A response leaves on a connection. -/
def respond (h : Hw) (i : Nat) (l : List Byte) : Hw := h.emit (.spdm i l)

/-- An ERROR response. -/
def spdmError (h : Hw) (i code data : Nat) : Hw := h.respond i ([0x12, 0x7F] ++ leBytes 1 code ++ leBytes 1 data)

/-- n × 8 free bytes: a nonce, or a value the spec leaves open. -/
def freeBytes : Nat → Hw → List Byte × Hw
  | 0, h => ([], h)
  | n + 1, h =>
    let (v, h) := h.draw
    let (l, h) := freeBytes n h
    (leBytes 8 v.toNat ++ l, h)

/-- A request on connection i that the negotiation must have reached stage `need` for: otherwise ERROR UnexpectedRequest. -/
def spdmAt (h : Hw) (i need : Nat) (f : Hw → SpdmConn → Hw) : Hw :=
  if !h.connAnswers i then h
  else if (h.conn i).stage < need then h.spdmError i 0x04 0
  else f h (h.conn i)

/-- GET_VERSION: only 1.2; the connection starts afresh. -/
def getVersion (h : Hw) (i : Nat) (req : List Byte) : Hw :=
  h.spdmAt i 0 fun h _ =>
    let r := [0x10, 0x04, 0, 0, 0, 1] ++ leBytes 2 0x1200
    (h.setConn i { stage := 1, vca := req ++ r, m1 := [], l1 := [] }).respond i r

/-- GET_CAPABILITIES: CERT_CAP, CHAL_CAP, MEAS_CAP 2, MEAS_FRESH_CAP; CTExponent 20. -/
def getCapabilities (h : Hw) (i : Nat) (req : List Byte) : Hw :=
  h.spdmAt i 1 fun h x =>
    let r := [0x12, 0x61, 0, 0, 0, 20, 0, 0] ++ leBytes 4 0x36 ++ leBytes 8 Config.spdmSizes.toNat
    (h.setConn i { x with stage := 2, vca := x.vca ++ req ++ r }).respond i r

/-- NEGOTIATE_ALGORITHMS: of what the request offers, ECDSA P-384, SHA-384 and the DMTF measurement specification. -/
def negotiateAlgorithms (h : Hw) (i : Nat) (req : List Byte) : Hw :=
  h.spdmAt i 2 fun h x =>
    let offered := fun k n => fromLe ((req.drop k).take n)
    let r := [0x12, 0x63, 0, 0] ++ leBytes 2 36 ++ leBytes 1 (offered 6 1 &&& 1) ++ [0] ++ leBytes 4 4 ++
      leBytes 4 (offered 8 4 &&& 0x80) ++ leBytes 4 (offered 12 4 &&& 2) ++ List.replicate 16 0
    (h.setConn i { x with stage := 3, vca := x.vca ++ req ++ r }).respond i r

/-- The alias key's certificate chain of slot 0, framed by its length and the root certificate's digest (log entry 37). -/
def aliasChain (h : Hw) (key : BitVec 384) : List Byte :=
  let certs := Config.certificates [Config.publicHash key, Crypto.sha384 ((List.range 0x10000).map Config.bootRom),
    h.boot.fwMeasured, h.boot.patchMeasured]
  leBytes 4 (52 + certs.length) ++ digestBytes Config.rootHash ++ certs

/-- A request that needs the alias key: before one is derived the spec names no answer, and an ERROR with a free code goes
out (log entry 37). -/
def withAlias (h : Hw) (i : Nat) (f : Hw → SpdmConn → BitVec 384 → Hw) : Hw :=
  h.spdmAt i 3 fun h x =>
    match h.boot.aliasKey with
    | some key => f h x key
    | none =>
      let (v, h) := h.draw
      h.spdmError i (v.toNat % 256) 0

/-- GET_DIGESTS: the digest of slot 0's chain. -/
def getDigests (h : Hw) (i : Nat) (req : List Byte) : Hw :=
  h.withAlias i fun h x key =>
    let r := [0x12, 0x01, 0, 1] ++ digestBytes (Crypto.sha384 (h.aliasChain key))
    (h.setConn i { x with m1 := x.m1 ++ req ++ r, l1 := [] }).respond i r

/-- GET_CERTIFICATE: a portion of slot 0's chain. -/
def getCertificate (h : Hw) (i : Nat) (req : List Byte) : Hw :=
  h.withAlias i fun h x key =>
    let slot := (req.getD 2 0).toNat % 16
    let off := fromLe ((req.drop 4).take 2)
    let chain := h.aliasChain key
    if slot ≠ 0 ∨ chain.length ≤ off then h.spdmError i 0x01 0
    else
      let part := (chain.drop off).take (fromLe ((req.drop 6).take 2))
      let r := [0x12, 0x02, 0, 0] ++ leBytes 2 part.length ++ leBytes 2 (chain.length - off - part.length) ++ part
      (h.setConn i { x with m1 := x.m1 ++ req ++ r, l1 := [] }).respond i r

/-! ### Measurements (R462, R463) -/

/-- The Reeve firmware image in the active bank: length, version, digest (R485, R499). -/
def activeFw (h : Hw) : Option (Nat × Nat × BitVec 384) :=
  if h.flag F.RVE_FW_CTL_ACTIVE then h.boot.fwB else h.boot.fwA

/-- Block 0x20 + n, or 0x30: mode, key slot, version, digest; zeros with no Armature. -/
def armBlock (x : Option (Nat × Nat × Nat × BitVec 384)) : List Byte :=
  match x with
  | some (mode, slot, ver, d) => leBytes 1 mode ++ leBytes 1 slot ++ leBytes 4 ver ++ digestBytes d
  | none => List.replicate 54 0

/-- The measurement blocks, by index. -/
def measurements (h : Hw) : List (Nat × List Byte) :=
  let fw := h.activeFw
  let keys := (List.range 4).map fun s => BitVec.ofNat 8 (b2n (h.flag F.SEC_OPKEY_FUSED 0 s) + 2 * b2n (h.flag F.SEC_OPKEY_REVOKED 0 s))
  let images := (List.range 16).map fun n =>
    (0x10 + n, measBlock (0x10 + n) 0x81 (match (h.parish n).active with
      | some u => digestBytes u.hash ++ leBytes 4 u.ver ++ leBytes 2 u.level
      | none => List.replicate 54 0))
  let arms := (List.range 16).map fun n =>
    (0x20 + n, measBlock (0x20 + n) 0x83
      (armBlock ((h.parish n).arm.map fun a => (a.mode, a.keySlot, a.version, a.digest))))
  [(1, measBlock 1 0x00 (digestBytes (Crypto.sha384 ((List.range 0x10000).map Config.bootRom)))),
   (2, measBlock 2 0x01 (digestBytes ((fw.map (·.2.2)).getD 0))),
   (3, measBlock 3 0x86 (leBytes 4 ((fw.map (·.2.1)).getD 0))),
   (4, measBlock 4 0x01 (digestBytes h.boot.patchMeasured)),
   (5, measBlock 5 0x82 (leBytes 4 (h.reg .TOP_ID).toNat ++ keys))] ++ images ++ arms ++
  [(0x30, measBlock 0x30 0x83 (armBlock (h.modArm.map fun a => (2, a.keySlot, a.version, a.digest))))]

/-- The blocks that an index names: one, all (0xFF), or none. -/
def blocksOf (h : Hw) (index : Nat) : List (List Byte) :=
  (h.measurements.filter fun b => index = 0xFF ∨ b.1 = index).map (·.2)

/-- CHALLENGE: answered with the alias key's signature. A measurement summary over TCB components alone, which the spec does
not name, is free. -/
def challenge (h : Hw) (i : Nat) (req : List Byte) : Hw :=
  h.withAlias i fun h x key =>
    if req.getD 2 0 ≠ 0 then h.spdmError i 0x01 0
    else
      let (nonce, h) := freeBytes 4 h
      let (tcb, h) := if req.getD 3 0 = 1 then freeBytes 6 h else ([], h)
      let summary := if req.getD 3 0 = 0xFF then digestBytes (Crypto.sha384 (h.blocksOf 0xFF).flatten) else tcb
      let r := [0x12, 0x03, 0, 1] ++ digestBytes (Crypto.sha384 (h.aliasChain key)) ++ nonce ++ summary ++ [0, 0]
      let signed := spdmSigned "responder-challenge_auth signing" (x.vca ++ x.m1 ++ req ++ r)
      (h.setConn i { x with m1 := [], l1 := [] }).respond i (r ++ Config.ecdsaSign key (Crypto.sha384 signed))

/-- GET_MEASUREMENTS: the blocks as of this command, signed if asked for. Index 0 asks for their number. -/
def getMeasurements (h : Hw) (i : Nat) (req : List Byte) : Hw :=
  h.withAlias i fun h x key =>
    let index := (req.getD 3 0).toNat
    let signs := bit (req.getD 2 0).toNat 0
    let blocks := h.blocksOf index
    if blocks.isEmpty ∧ index ≠ 0 then h.spdmError i 0x01 0
    else
      let (nonce, h) := freeBytes 4 h
      let count := if index = 0 then h.measurements.length else 0
      let r := [0x12, 0x60] ++ leBytes 1 count ++ [0] ++ leBytes 1 blocks.length ++ leBytes 3 blocks.flatten.length ++
        blocks.flatten ++ nonce ++ [0, 0]
      let t := x.l1 ++ req ++ r
      if signs then
        let signed := spdmSigned "responder-measurements signing" (x.vca ++ t)
        (h.setConn i { x with l1 := [] }).respond i (r ++ Config.ecdsaSign key (Crypto.sha384 signed))
      else (h.setConn i { x with l1 := t }).respond i r

/-- A request the responder does not support: ERROR UnsupportedRequest. -/
def spdmUnsupported (h : Hw) (i : Nat) (req : List Byte) : Hw :=
  if h.connAnswers i then h.spdmError i 0x07 (req.getD 1 0).toNat else h

end Hw

end Sys2Proof.Machine

/-! ### The commands -/

namespace Sys2Proof.Machine

/-- GET_VERSION (R461): request on connection i. -/
def execGetVersion (i : Nat) (req : List Byte) (s : State) : Host.Outcome State Fault Refusal :=
  s.runKeep fun h => h.getVersion i req

/-- GET_CAPABILITIES (R461): request on connection i. -/
def execGetCapabilities (i : Nat) (req : List Byte) (s : State) : Host.Outcome State Fault Refusal :=
  s.runKeep fun h => h.getCapabilities i req

/-- NEGOTIATE_ALGORITHMS (R461): request on connection i. -/
def execNegotiateAlgorithms (i : Nat) (req : List Byte) (s : State) : Host.Outcome State Fault Refusal :=
  s.runKeep fun h => h.negotiateAlgorithms i req

/-- GET_DIGESTS (R461): request on connection i. -/
def execGetDigests (i : Nat) (req : List Byte) (s : State) : Host.Outcome State Fault Refusal :=
  s.runKeep fun h => h.getDigests i req

/-- GET_CERTIFICATE (R461): request on connection i. -/
def execGetCertificate (i : Nat) (req : List Byte) (s : State) : Host.Outcome State Fault Refusal :=
  s.runKeep fun h => h.getCertificate i req

/-- CHALLENGE (R461): request on connection i. -/
def execChallenge (i : Nat) (req : List Byte) (s : State) : Host.Outcome State Fault Refusal :=
  s.runKeep fun h => h.challenge i req

/-- GET_MEASUREMENTS (R463): request on connection i. -/
def execGetMeasurements (i : Nat) (req : List Byte) (s : State) : Host.Outcome State Fault Refusal :=
  s.runKeep fun h => h.getMeasurements i req

/-- SPDM_UNSUPPORTED (R461): a request on connection i that the responder does not support. -/
def execSpdmUnsupported (i : Nat) (req : List Byte) (s : State) : Host.Outcome State Fault Refusal :=
  s.runKeep fun h => h.spdmUnsupported i req

end Sys2Proof.Machine
end

