-- ==== Sys2Proof/Machine/Sideband.lean ====
section
/-!
DEFINITION. The sideband target: MCTP control messages and PMBus commands (R465 to R467, R469). Layouts of MCTP messages
are those of DSP0236 (PRESUMED, log entry 38), places of PMBus status bits those of log entry 40. -/

namespace Sys2Proof.Machine

/-! ### Places of status bits (log entry 40) -/

/-- STATUS_INPUT: OV warning, low-VIN reduced service, UV, PWRFAIL. -/
def inputOv : BitVec 8 := 0x40
def inputLow : BitVec 8 := 0x20
def inputUv : BitVec 8 := 0x10
def inputPwrfail : BitVec 8 := 0x08

/-- STATUS_TEMPERATURE: the warning and fault bits of sensor s (1 hotspot, 2 HBM, 3 inlet). -/
def tempWarnBit (s : Nat) : BitVec 8 := BitVec.ofNat 8 (2 ^ (2 * s - 2))
def tempFaultBit (s : Nat) : BitVec 8 := BitVec.ofNat 8 (2 ^ (2 * s - 1))

namespace Hw

/-- The target answers whenever VIN is above UVLO; a transaction that completes counts (R465, R469). -/
def sideband (h : Hw) (f : Hw → Hw) : Hw := if h.power.standby then (f h).countWrap F.SBD_CNT_XFERS else h

/-- PMBus data returned to the host. -/
def pmData (h : Hw) (l : List Byte) : Hw := h.emit (.pmbus l)

/-! ### MCTP (R466) -/

/-- A control response: the request's header byte with Rq clear, command, completion code, data. -/
def mctpReply (h : Hw) (hdr : Byte) (code : Nat) (done : Nat) (data : List Byte) : Hw :=
  h.emit (.mctp ([0, hdr &&& 0x5F] ++ leBytes 1 code ++ leBytes 1 done ++ data))

/-- Set Endpoint ID: operation 0 (set) or 1 (force) assigns the EID; 0x00 and 0xFF are no EIDs. -/
def setEndpointId (h : Hw) (hdr : Byte) (op : Nat) (eid : Byte) : Hw :=
  h.sideband fun h =>
    if op ≤ 1 ∧ eid ≠ 0 ∧ eid ≠ 0xFF then
      ((h.setFld F.SBD_CFG_EID 0 0 eid.toNat).setFld F.SBD_CFG_EIDV 0 0 1).mctpReply hdr 1 0 [0, eid, 0]
    else h.mctpReply hdr 1 2 []

/-- Get Endpoint ID. -/
def getEndpointId (h : Hw) (hdr : Byte) : Hw :=
  h.sideband fun h => h.mctpReply hdr 2 0 [BitVec.ofNat 8 (h.fld F.SBD_CFG_EID), 0, 0]

/-- Get MCTP Version Support: for the base specification (0xFF), control messages (0) and SPDM (5). -/
def getMctpVersionSupport (h : Hw) (hdr type : Byte) : Hw :=
  h.sideband fun h =>
    if type = 0xFF ∨ type = 0 ∨ type = 5 then h.mctpReply hdr 4 0 (1 :: leBytes 4 (Config.mctpVersion type).toNat)
    else h.mctpReply hdr 4 0x80 []

/-- Get Message Type Support: SPDM. -/
def getMessageTypeSupport (h : Hw) (hdr : Byte) : Hw := h.sideband fun h => h.mctpReply hdr 5 0 [1, 5]

/-! ### Sensors (R497, R500) -/

/-- PWR_SENSE shows t °C of sensor s (1 hotspot, 2 HBM, 3 inlet). -/
def tempShow (h : Hw) (s t : Nat) : Hw :=
  match s with
  | 1 => h.setFld F.PWR_SENSE_HOTSPOT 0 0 t
  | 2 => h.setFld F.PWR_SENSE_HBMT 0 0 t
  | _ => h.setFld F.PWR_SENSE_INLET 0 0 t

/-- The warning of sensor s at t °C: at an upward crossing of PWR_TLIM, armed again 5 °C below it. -/
def tempCross (h : Hw) (s t : Nat) : Hw :=
  let lim := if s = 1 then h.fld F.PWR_TLIM_HOT else h.fld F.PWR_TLIM_HBM
  let was := h.power.warned.contains s
  if t > lim ∧ ¬ was then
    let h : Hw := { h with power := { h.power with warned := h.power.warned ++ [s] } }
    let h := h.sbdRaise 0 (tempWarnBit s) 0
    if h.power.coreOn && decide (h.boot.stage ≠ .held) && !h.flag F.ERR_STAT_FATAL then
      h.raiseModule 0 .PWR 0x03 (s * 2 ^ 8 + t % 2 ^ 8)
    else h
  else if t + 5 ≤ lim ∧ was then
    ({ h with power := { h.power with warned := h.power.warned.filter (· ≠ s) } } : Hw)
  else h

/-- A temperature sensor reads t °C: it is shown, and warned of; the inlet has no limit (R500). -/
def tempSense (h : Hw) (s t : Nat) : Hw :=
  let h := h.tempShow s t
  if s = 3 then h
  else
    let h := h.tempCross s t
    let above := decide (h.fld F.PWR_SENSE_HOTSPOT > h.fld F.PWR_TLIM_HOT) || decide (h.fld F.PWR_SENSE_HBMT > h.fld F.PWR_TLIM_HBM)
    h.setFld F.PWR_STAT_TWARN 0 0 (b2n above)

/-- VIN stands at v, in 10 mV units. -/
def vinSense (h : Hw) (v : Nat) : Hw :=
  ({ h with power := { h.power with vin := v } } : Hw).setFld F.PWR_SENSE_VIN 0 0 v

/-! ### PMBus (R467) -/

/-- Every status bit whose condition has ended is cleared (R467, R505), VIN standing at v and the sensors at `temps`; SMBALERT#
goes with the last of them. -/
def clearStatus (h : Hw) (v : Nat) (temps : List Nat) : Hw :=
  let keepIn := (if 5950 < v then inputOv else 0) ||| (if h.flag F.PWR_STAT_LOWVIN then inputLow else 0) |||
    (if v < 600 then inputUv else 0) ||| (if h.flag F.PWR_STAT_WARN then inputPwrfail else 0)
  let warn := ([1, 2].filter h.power.warned.contains).foldl (fun b s => b ||| tempWarnBit s) (0 : BitVec 8)
  let hot := (if 115 ≤ temps.getD 0 0 then tempFaultBit 1 else 0) ||| (if 105 ≤ temps.getD 1 0 then tempFaultBit 2 else 0)
  let cml : BitVec 8 := if h.flag F.ERR_STAT_FATAL then 1 else 0
  let b := h.sbd
  let left : Sideband :=
    { statusInput := b.statusInput &&& keepIn, statusTemp := b.statusTemp &&& (warn ||| hot),
      statusCml := b.statusCml &&& cml, alert := b.alert }
  let none_ := left.statusInput = 0 ∧ left.statusTemp = 0 ∧ left.statusCml = 0
  let h := if none_ ∧ b.alert then h.emit (.smbAlert false) else h
  { h with sbd := { left with alert := b.alert && decide (¬ none_) } }

/-- CLEAR_FAULTS with VIN at v and the sensors at `temps`: the sensors are read, then the status bits cleared. -/
def clearFaults (h : Hw) (v : Nat) (temps : List Nat) : Hw :=
  h.sideband fun h =>
    ((h.vinSense v).each [1, 2, 3] fun h s => h.tempSense s (temps.getD (s - 1) 0)).clearStatus v temps

/-- STATUS_WORD: INPUT, VIN_UV, TEMPERATURE, CML, and bit 0 for anything else. -/
def statusBits (h : Hw) : Nat :=
  let b := h.sbd
  let uv := bit b.statusInput.toNat 4
  b2n (b.statusInput ≠ 0) * 2 ^ 13 + b2n uv * 8 + b2n (b.statusTemp ≠ 0) * 4 + b2n (b.statusCml ≠ 0) * 2 +
    b2n (b.statusInput &&& 0xEF ≠ 0)

def capability (h : Hw) : Hw := h.sideband fun h => h.pmData [0xD0]
def statusByte (h : Hw) : Hw := h.sideband fun h => h.pmData (leBytes 1 h.statusBits)
def statusWord (h : Hw) : Hw := h.sideband fun h => h.pmData (leBytes 2 h.statusBits)
def statusInputRead (h : Hw) : Hw := h.sideband fun h => h.pmData [h.sbd.statusInput]
def statusTemperature (h : Hw) : Hw := h.sideband fun h => h.pmData [h.sbd.statusTemp]
def statusCmlRead (h : Hw) : Hw := h.sideband fun h => h.pmData [h.sbd.statusCml]

/-- A value in LINEAR11. -/
def pmLinear (h : Hw) (num den : Nat) : Hw := h.pmData (leBytes 2 (Config.linear11 num den).toNat)

/-- READ_VIN, the latest refresh standing at v in 10 mV units. -/
def readVin (h : Hw) (v : Nat) : Hw := h.sideband fun h => (h.vinSense v).pmLinear v 100
/-- READ_IIN, the latest refresh standing at v mA. -/
def readIin (h : Hw) (v : Nat) : Hw := h.sideband fun h => h.pmLinear v 1000
/-- READ_PIN, the latest refresh standing at v in 0.1 W units. -/
def readPin (h : Hw) (v : Nat) : Hw := h.sideband fun h => (h.setFld F.PWR_SENSE_PIN 0 0 v).pmLinear v 10
/-- READ_TEMPERATURE of sensor s, the latest refresh standing at t °C. -/
def readTemp (h : Hw) (s t : Nat) : Hw := h.sideband fun h => (h.tempSense s t).pmLinear t 1
def readTemperature1 (h : Hw) (t : Nat) : Hw := h.readTemp 1 t
def readTemperature2 (h : Hw) (t : Nat) : Hw := h.readTemp 2 t
def readTemperature3 (h : Hw) (t : Nat) : Hw := h.readTemp 3 t

def pmbusRevision (h : Hw) : Hw := h.sideband fun h => h.pmData [0x33]
def mfrId (h : Hw) : Hw := h.sideband fun h => h.pmData (6 :: ascii "TRIDUN")
def mfrModel (h : Hw) : Hw := h.sideband fun h => h.pmData (8 :: ascii "CXM-4096")

/-- The read-only commands of R467. -/
def pmReadOnly : List Nat :=
  [0x19, 0x78, 0x79, 0x7C, 0x7D, 0x7E, 0x88, 0x89, 0x97, 0x8D, 0x8E, 0x8F, 0x98, 0x99, 0x9A]

/-- A command code that is not supported is NACKed; a write to a read-only command only sets the status bit. -/
def unsupportedCommand (h : Hw) (code : Byte) : Hw :=
  if !h.power.standby then h
  else
    let h := h.sbdRaise 0 0 0x80
    if pmReadOnly.contains code.toNat then h.countWrap F.SBD_CNT_XFERS
    else (h.emit .nack).setFld F.SBD_STAT_BADCMD 0 0 1

/-- A transaction with a wrong PEC is discarded. -/
def pecError (h : Hw) : Hw := if h.power.standby then (h.sbdRaise 0 0 0x20).setFld F.SBD_STAT_PEC 0 0 1 else h

/-- The host's Alert Response read: the target answers with its address and releases SMBALERT#. -/
def alertResponse (h : Hw) : Hw :=
  if h.power.standby && h.sbd.alert then
    (({ h with sbd := { h.sbd with alert := false } } : Hw).emit (.smbAlert false)).sideband fun h =>
      h.pmData [BitVec.ofNat 8 (2 * h.fld F.SBD_CFG_ADDR)]
  else h

/-- An SMBus timeout ends a transaction in progress. -/
def smbusTimeout (h : Hw) : Hw := if h.power.standby then h.setFld F.SBD_STAT_TIMEOUT 0 0 1 else h

end Hw

end Sys2Proof.Machine

/-! ### The commands -/

namespace Sys2Proof.Machine

/-- SET_ENDPOINT_ID (R466): a request with header byte `hdr`, operation and EID. -/
def execSetEndpointId (hdr : Byte) (op : Nat) (eid : Byte) (s : State) : Host.Outcome State Fault Refusal :=
  s.runKeep fun h => h.setEndpointId hdr op eid

/-- GET_ENDPOINT_ID (R466): a request with header byte `hdr`. -/
def execGetEndpointId (hdr : Byte) (s : State) : Host.Outcome State Fault Refusal :=
  s.runKeep fun h => h.getEndpointId hdr

/-- GET_MCTP_VERSION_SUPPORT (R466): a request with header byte `hdr` for a message type. -/
def execGetMctpVersionSupport (hdr : Byte) (type : Byte) (s : State) : Host.Outcome State Fault Refusal :=
  s.runKeep fun h => h.getMctpVersionSupport hdr type

/-- GET_MESSAGE_TYPE_SUPPORT (R466): a request with header byte `hdr`. -/
def execGetMessageTypeSupport (hdr : Byte) (s : State) : Host.Outcome State Fault Refusal :=
  s.runKeep fun h => h.getMessageTypeSupport hdr

/-- CLEAR_FAULTS (R467): with VIN at v (10 mV units) and hotspot, HBM and inlet at `temps` °C. -/
def execClearFaults (v : Nat) (temps : List Nat) (s : State) : Host.Outcome State Fault Refusal :=
  s.runSense fun h => h.clearFaults v temps

/-- CAPABILITY (R467): a read. -/
def execCapability (s : State) : Host.Outcome State Fault Refusal :=
  s.runKeep fun h => h.capability

/-- STATUS_BYTE (R467): a read. -/
def execStatusByte (s : State) : Host.Outcome State Fault Refusal :=
  s.runKeep fun h => h.statusByte

/-- STATUS_WORD (R467): a read. -/
def execStatusWord (s : State) : Host.Outcome State Fault Refusal :=
  s.runKeep fun h => h.statusWord

/-- STATUS_INPUT (R467): a read. -/
def execStatusInputRead (s : State) : Host.Outcome State Fault Refusal :=
  s.runKeep fun h => h.statusInputRead

/-- STATUS_TEMPERATURE (R467): a read. -/
def execStatusTemperature (s : State) : Host.Outcome State Fault Refusal :=
  s.runKeep fun h => h.statusTemperature

/-- STATUS_CML (R467): a read. -/
def execStatusCmlRead (s : State) : Host.Outcome State Fault Refusal :=
  s.runKeep fun h => h.statusCmlRead

/-- READ_VIN (R467): a read, the sensor's latest refresh being v (10 mV units). -/
def execReadVin (v : Nat) (s : State) : Host.Outcome State Fault Refusal :=
  s.runSense fun h => h.readVin v

/-- READ_IIN (R467): a read, the sensor's latest refresh being v mA. -/
def execReadIin (v : Nat) (s : State) : Host.Outcome State Fault Refusal :=
  s.runKeep fun h => h.readIin v

/-- READ_PIN (R467): a read, the sensor's latest refresh being v (0.1 W units). -/
def execReadPin (v : Nat) (s : State) : Host.Outcome State Fault Refusal :=
  s.runKeep fun h => h.readPin v

/-- READ_TEMPERATURE_1 (R467): a read, the die hotspot being at t °C. -/
def execReadTemperature1 (t : Nat) (s : State) : Host.Outcome State Fault Refusal :=
  s.runSense fun h => h.readTemperature1 t

/-- READ_TEMPERATURE_2 (R467): a read, the hottest HBM stack being at t °C. -/
def execReadTemperature2 (t : Nat) (s : State) : Host.Outcome State Fault Refusal :=
  s.runSense fun h => h.readTemperature2 t

/-- READ_TEMPERATURE_3 (R467): a read, the module inlet being at t °C. -/
def execReadTemperature3 (t : Nat) (s : State) : Host.Outcome State Fault Refusal :=
  s.runSense fun h => h.readTemperature3 t

/-- PMBUS_REVISION (R467): a read. -/
def execPmbusRevision (s : State) : Host.Outcome State Fault Refusal :=
  s.runKeep fun h => h.pmbusRevision

/-- MFR_ID (R467): a read. -/
def execMfrId (s : State) : Host.Outcome State Fault Refusal :=
  s.runKeep fun h => h.mfrId

/-- MFR_MODEL (R467): a read. -/
def execMfrModel (s : State) : Host.Outcome State Fault Refusal :=
  s.runKeep fun h => h.mfrModel

/-- UNSUPPORTED_COMMAND (R467): a command code that is not supported, or a write to a read-only one. -/
def execUnsupportedCommand (code : Byte) (s : State) : Host.Outcome State Fault Refusal :=
  s.runKeep fun h => h.unsupportedCommand code

/-- PEC_ERROR (R465): a transaction with a wrong PEC. -/
def execPecError (s : State) : Host.Outcome State Fault Refusal :=
  s.runKeep fun h => h.pecError

/-- ALERT_RESPONSE (R465): the host's Alert Response read. -/
def execAlertResponse (s : State) : Host.Outcome State Fault Refusal :=
  s.runKeep fun h => h.alertResponse

/-- SMBUS_TIMEOUT (R465): a bus timeout ends a transaction in progress. -/
def execSmbusTimeout (s : State) : Host.Outcome State Fault Refusal :=
  s.runKeep fun h => h.smbusTimeout

end Sys2Proof.Machine
end

