-- ==== Sys2Proof/Machine/Power.lean ====
section
/-!
DEFINITION. The power controller (R471 to R480, R495 to R497, R505, R507): rails, clock, sleep, warnings, and the release of
PERST# (R481). -/

namespace Sys2Proof.Machine.Hw

/-! ### Domains (R471, R478, R496, R507) -/

/-- The first byte of fabric memory, which is not the module's (R137): what lies below is HBM. -/
def fabricFirst : Nat := 0x400000000000

/-- The core domain has lost its power: every register, Larder word and HBM word (R478). The pins PERST# keep their levels,
the power controller and the sideband, in the standby domain, their condition. -/
def coreLost (h : Hw) : Hw :=
  { Hw.reset with
    mem := h.mem.filter fun c => decide (fabricFirst ≤ c.1), sbd := h.sbd, out := h.out, fresh := h.fresh,
    ports := [0, 1].foldl (fun t p => NTable.set Port.reset t p { Port.reset with perst := (h.port p).perst }) [],
    power := { h.power with coreOn := false, asleep := false, fullSpeed := false, critPending := false } }

/-- The core domain can raise records: powered and out of module reset, and not in the Module-fatal state. In module sleep it
can too (log entry 41). -/
def reports (h : Hw) : Bool :=
  h.power.standby && h.power.coreOn && decide (h.boot.stage ≠ .held) && !h.flag F.ERR_STAT_FATAL

/-- What the core domain does when a release of PERST# ends its reset (R481). Reeve 0 starts the boot ROM, CDI0 is derived
(R459), PROV_EN# sampled (R512), HBM channel 0 trained and its reserved frames zero-filled; Reeve 1 to 3 are halted (R132). -/
def resetEnds (h : Hw) : Hw :=
  let rom := Crypto.sha384 ((List.range 0x10000).map Config.bootRom)
  let h : Hw := { h with boot := { Boot.reset with
    stage := .window, prov := Config.provEn, cdi0 := Crypto.hmac384 Config.uds (digestBytes rom) } }
  let h := (h.setFld F.PWR_HBMTR_CHAN 0 0 1).zero 0 0x4000000
  h.each [1, 2, 3] fun h r => h.setFld F.RVE_STAT_HALTED 0 r 1

/-- The release of PERST# on ports: the module domain's reset ends with it (R481). -/
def perstRelease (h : Hw) (a b : Bool) : Hw :=
  let h := if a then h.setPort 0 { h.port 0 with perst := false } else h
  let h := if b then h.setPort 1 { h.port 1 with perst := false } else h
  if h.boot.stage ≠ .held ∨ ¬ (a || b) ∨ ¬ h.power.standby ∨ ¬ h.power.coreOn then h else h.resetEnds

/-- The standby domain is ready, 20 ms after VIN passed UVLO, VIN standing at v (10 mV units); `a` and `b` say that PERST# of a port
is already released, which counts as released now (R507). -/
def standbyReady (h : Hw) (v : Nat) (a b : Bool) : Hw :=
  if h.power.standby then h
  else
    let h : Hw := { h with power := { Power.reset with vin := v }, sbd := Sideband.reset, ports := [] }
    let h := h.moduleReset.vinSense v
    { h.perstRelease a b with power := h.power }

/-- VIN falls below 5.2 V: every domain ends at once (R507). -/
def uvloFall (h : Hw) (v : Nat) : Hw :=
  if v < 520 then
    let h := h.coreLost
    { h with sbd := Sideband.reset,
             power := { Power.reset with vin := v, standby := false, coreOn := false } }
  else h

/-- VIN falls below the regulation limit of 6.0 V (R478); the standby domain goes on. -/
def powerLoss (h : Hw) (v : Nat) : Hw :=
  if v < 600 ∧ h.power.standby then ((h.sbdRaise inputUv 0 0).coreLost).vinSense v else h

/-! ### VIN (R472, R473, R505) -/

/-- The core domain must run in reduced service (R472). -/
def reducedService (h : Hw) : Bool :=
  decide (h.boot.stage ≠ .released) || (((h.parish 0).arm.map (·.mode)) == some 1) || !h.flag F.PWR_CAL_HBM ||
    decide (h.fld F.PWR_CAL_PARISH ≠ 0xFFFF) || h.flag F.PWR_STAT_LOWVIN || h.flag F.PWR_CTL_FORCE_RS

/-- CCLK takes the frequency that the conditions of R472 give. -/
def cclkSwitch (h : Hw) : Hw :=
  if h.power.standby && h.power.coreOn && !h.power.asleep then
    let full := !h.reducedService
    ({ h with power := { h.power with fullSpeed := full } } : Hw).setFld F.PWR_STAT_RS 0 0 (b2n !full)
  else h

/-- A change of LOWVIN, with its record (R473, R497). -/
def lowvinChange (h : Hw) (v : Nat) (on : Bool) : Hw :=
  let h := (h.vinSense v).setFld F.PWR_STAT_LOWVIN 0 0 (b2n on)
  if h.reports then h.raiseModule 0 .PWR 0x02 (v % 2 ^ 16 * 2 ^ 16 + b2n on) else h

/-- VIN, at v, has stayed below 10.8 V for 20 µs. -/
def lowvinSet (h : Hw) (v : Nat) : Hw :=
  if v < 1080 ∧ h.power.standby ∧ ¬ h.flag F.PWR_STAT_LOWVIN then (h.sbdRaise inputLow 0 0).lowvinChange v true else h

/-- VIN, at v, has stayed at or above 11.2 V for 100 ms. -/
def lowvinClear (h : Hw) (v : Nat) : Hw :=
  if 1120 ≤ v ∧ h.power.standby ∧ h.flag F.PWR_STAT_LOWVIN then h.lowvinChange v false else h

/-- VIN is above 60 V (R505): the sideband's bit and nothing else. -/
def ovWarning (h : Hw) (v : Nat) : Hw :=
  if 6000 < v ∧ h.power.standby then (h.sbdRaise inputOv 0 0).vinSense v else h

/-! ### Module sleep (R474) -/

/-- Nothing runs that keeps the module awake: every parish drained, the eDP and TDM ports disabled, no bank's command. -/
def maySleep (h : Hw) : Bool :=
  (List.range 16).all h.drained && ([0, 1].all fun e => !h.flag F.POR_EDP_CTL_EN 0 e) &&
    ([0, 1].all fun p => !h.flag F.CHR_TDM_CTL_EN 0 p) && h.job.isNone && h.bankState kFw 2 == 0

/-- The steps of entering sleep. -/
def sleepEnters (h : Hw) : Hw :=
  let h : Hw := { h with power := { h.power with asleep := true } }
  let h := (h.setFld F.PWR_STAT_SLEEP 0 0 1).setFld F.PWR_CTL_SLEEP 0 0 1
  let h := h.each (List.range 16) fun h n =>
    (h.setReg .LRD_RETSTAT n 0 (BitVec.allOnes 64)).modParish n fun p => { p with banksWaking := [] }
  (h.setFld F.HBM_STAT_SR 0 0 0xF).tmrModes

/-- A write of PWR_CTL. SLEEP belongs to the PF of PA and to Reeve firmware. -/
def pwrCtlWrite (h : Hw) (ag : Agent) (v : Nat) : Hw :=
  let sleeps := bit v 1
  let writer := match ag with
    | .pf p => p == 0
    | .reeve _ _ => true
    | _ => false
  h.guarded ag .PWR_CTL 0 0 v (!sleeps || (writer && h.maySleep)) fun h =>
    let h := h.setFld F.PWR_CTL_FORCE_RS 0 0 (bits v 0 0)
    if sleeps then h.sleepEnters else h

def sleep (h : Hw) (ag : Agent) (forceRs : Bool) : Hw := h.pwrCtlWrite ag (2 + b2n forceRs)

/-- A wake Lane, a BAR0 access by a PF, or PERST# ends sleep. -/
def sleepExit (h : Hw) : Hw := if h.power.asleep then h.sleepEnds else h

/-! ### PWRFAIL and temperatures (R475, R476, R496, R497) -/

/-- PWRFAIL is raised (R476), with VIN at v, by PWR_WARN# or by the droop detector. It stops nothing. -/
def pwrfailRaised (h : Hw) (v : Nat) (byPin : Bool) : Hw :=
  let h := (h.setFld F.PWR_STAT_PWRFAIL 0 0 1).sbdRaise inputPwrfail 0 0
  if h.power.coreOn && decide (h.boot.stage ≠ .held) then
    let h := h.raiseModule 0 .PWR 0x01 (v % 2 ^ 16 * 2 ^ 16 + b2n byPin)
    if h.flag F.ERR_STAT_FATAL then (h.eqFlip 0).eqFlip 129
    else h.each [0, 1] fun h p =>
      if h.flag F.PWR_EVT_EN 0 p then h.event (129 * p) (h.fld F.PWR_EVT_VEC 0 p) else h
  else h

/-- The sources of PWRFAIL as they stand: PWR_WARN# low for 1 µs, and VIN at v against its mean over 100 ms. PWRFAIL is raised
when a source becomes active. -/
def pwrfail (h : Hw) (pin : Bool) (v mean : Nat) : Hw :=
  if !h.power.standby then h
  else
    let h := h.vinSense v
    let droop := decide (v * 100 < mean * (100 - h.fld F.PWR_DROOP_PCT)) || decide (v < h.fld F.PWR_DROOP_ABS)
    let pinRises := pin && !h.power.warnPin
    let rises := pinRises || (droop && !h.power.droop)
    let h : Hw := { h with power := { h.power with warnPin := pin, droop := droop } }
    let h := h.setFld F.PWR_STAT_WARN 0 0 (b2n (pin || droop))
    if rises then h.pwrfailRaised v pinRises else h

/-- Sensor s (1 hotspot, 2 HBM, 3 inlet) reads t °C. -/
def tempWarn (h : Hw) (s t : Nat) : Hw := if h.power.standby then h.tempSense s t else h

/-- A temperature at which THERM_CRIT is raised (R497). -/
def critical (s t : Nat) : Bool := (s == 1 && decide (115 ≤ t)) || (s == 2 && decide (105 ≤ t))

/-- The hotspot or an HBM stack has reached its critical temperature. In the Module-fatal state already, the record is all that
is added; the core rails go 1 ms later in either case. -/
def thermCrit (h : Hw) (s t : Nat) : Hw :=
  if !h.power.standby || !critical s t then h
  else
    let h := (h.tempSense s t).sbdRaise 0 (tempFaultBit s) 0
    let detail := s * 2 ^ 8 + t % 2 ^ 8
    if !h.power.coreOn || h.boot.stage == .held then h
    else
      let h := if h.flag F.ERR_STAT_FATAL then
          ((h.raise 2 0 .PWR 0x04 0 none bothPfs detail).eqFlip 0).eqFlip 129
        else h.moduleFatal .PWR 0x04 detail
      { h with power := { h.power with critPending := true } }

/-- 1 ms after THERM_CRIT the core rails are removed: the links go down, only the standby domain answers (R496). -/
def coreRailRemoval (h : Hw) : Hw := if h.power.critPending then h.coreLost else h

end Sys2Proof.Machine.Hw

/-! ### The commands -/

namespace Sys2Proof.Machine

/-- STANDBY_READY (R507): VIN at v (10 mV units), PERST# of PA (a), of PB (b) already released. -/
def execStandbyReady (v : Nat) (a : Bool) (b : Bool) (s : State) : Host.Outcome State Fault Refusal :=
  s.run fun h => h.standbyReady v a b

/-- UVLO_FALL (R507): VIN is at v (10 mV units). -/
def execUvloFall (v : Nat) (s : State) : Host.Outcome State Fault Refusal :=
  s.run fun h => h.uvloFall v

/-- POWER_LOSS (R478): VIN is at v (10 mV units). -/
def execPowerLoss (v : Nat) (s : State) : Host.Outcome State Fault Refusal :=
  s.run fun h => h.powerLoss v

/-- LOWVIN_SET (R473): VIN, at v (10 mV units), has been below 10.8 V for 20 µs. -/
def execLowvinSet (v : Nat) (s : State) : Host.Outcome State Fault Refusal :=
  s.runSense fun h => h.lowvinSet v

/-- LOWVIN_CLEAR (R473): VIN, at v (10 mV units), has been at or above 11.2 V for 100 ms. -/
def execLowvinClear (v : Nat) (s : State) : Host.Outcome State Fault Refusal :=
  s.runSense fun h => h.lowvinClear v

/-- CCLK_SWITCH (R472): CCLK takes the frequency that is due. -/
def execCclkSwitch (s : State) : Host.Outcome State Fault Refusal :=
  s.run fun h => h.cclkSwitch

/-- OV_WARNING (R505): VIN is at v (10 mV units). -/
def execOvWarning (v : Nat) (s : State) : Host.Outcome State Fault Refusal :=
  s.runSense fun h => h.ovWarning v

/-- SLEEP (R474): agent ag writes PWR_CTL with SLEEP 1 and FORCE_RS as given. -/
def execSleep (ag : Agent) (forceRs : Bool) (s : State) : Host.Outcome State Fault Refusal :=
  s.runLive fun h => h.sleep ag forceRs

/-- SLEEP_EXIT (R474): an access to BAR0, or another wake. -/
def execSleepExit (s : State) : Host.Outcome State Fault Refusal :=
  s.runWake fun h => h.sleepExit

/-- PWRFAIL (R476): PWR_WARN# low (pin), VIN at v with a mean over 100 ms (10 mV units). -/
def execPwrfail (pin : Bool) (v : Nat) (mean : Nat) (s : State) : Host.Outcome State Fault Refusal :=
  s.runSense fun h => h.pwrfail pin v mean

/-- TEMP_WARN (R497): sensor k (1 hotspot, 2 HBM, 3 inlet) reads t °C. -/
def execTempWarn (k : Nat) (t : Nat) (s : State) : Host.Outcome State Fault Refusal :=
  s.runSense fun h => h.tempWarn k t

/-- THERM_CRIT (R496): sensor k (1 hotspot, 2 HBM) reads t °C. -/
def execThermCrit (k : Nat) (t : Nat) (s : State) : Host.Outcome State Fault Refusal :=
  s.runSense fun h => h.thermCrit k t

/-- CORE_RAIL_REMOVAL (R496): 1 ms after THERM_CRIT. -/
def execCoreRailRemoval (s : State) : Host.Outcome State Fault Refusal :=
  s.run fun h => h.coreRailRemoval

/-- PERST_RELEASE (R481): PERST# is released on PA (a), on PB (b). -/
def execPerstRelease (a : Bool) (b : Bool) (s : State) : Host.Outcome State Fault Refusal :=
  s.runKeep fun h => h.perstRelease a b

end Sys2Proof.Machine
end

