-- ==== Sys2Proof/Machine/Boot.lean ====
section
/-!
DEFINITION. Start-up (R481 to R486, R526), intrusive tests (R488), firmware updates in service (R499, R502), injected
errors (R501). -/

namespace Sys2Proof.Machine

/-! ### Firmware and patch images (R175, R176, R485) -/

/-- Bytes 0 to LENGTH − 97 of a signed image, and its signature. -/
def signedPart (img : List Byte) : List Byte := img.take (img.length - 96)
def signaturePart (img : List Byte) : List Byte := img.drop (img.length - 96)

/-- The form of a Reeve firmware image whose length was written as `len` (R485). -/
def firmwareForm (img : List Byte) (len : Nat) : Bool :=
  decide (img.length = len) && decide (0x1000 ≤ len ∧ len ≤ 0x1000000) && fieldAt img 0 4 == 0x56454552 &&
    fieldAt img 4 2 == 1 && fieldAt img 8 4 == len && fieldAt img 0x0C 4 % 4 == 0 && decide (fieldAt img 0x0C 4 < len)

/-- The check of a firmware image: 0, 1 for its form, 2 for its signature. -/
def firmwareCheck (img : List Byte) (len : Nat) : Nat :=
  if !firmwareForm img len then 1
  else if Crypto.ecdsaVerify (Config.tridunKey 0) (Crypto.sha384 (signedPart img)) (signaturePart img) then 0 else 2

/-- ENTRY, VERSION and digest of a firmware image. -/
def firmwareOf (img : List Byte) : Nat × Nat × BitVec 384 :=
  (fieldAt img 0x0C 4, fieldAt img 0x10 4, Crypto.sha384 (signedPart img))

/-- Cuts a patch area into its patches; none where they do not fill it exactly (R484). -/
def cutPatches : Nat → List Byte → Option (List (List Byte))
  | _, [] => some []
  | 0, _ :: _ => none
  | fuel + 1, l =>
    let n := 144 + 40 * fieldAt l 0x10 2
    if l.length < n then none
    else
      match cutPatches fuel (l.drop n) with
      | none => none
      | some r => some (l.take n :: r)

/-- The entries that decrypted patch bytes spell; an ADDR above 2,047 names no word. -/
def patchEntries (count : Nat) (plain : List Byte) : List (Nat × BitVec 256) :=
  (List.range count).filterMap fun i =>
    let a := fieldAt plain (40 * i) 2
    if a < 2048 then some (a, BitVec.ofNat 256 (fieldAt plain (40 * i + 8) 32)) else none

/-- A patch checked in the order of R176: header fields, signature, decryption with its tag. -/
def openPatch (l : List Byte) : Option SealedPatch :=
  let count := fieldAt l 0x10 2
  if fieldAt l 0 4 ≠ 0x54415053 ∨ fieldAt l 4 2 ≠ 2 ∨ fieldAt l 6 2 = 0 ∨ ¬ (1 ≤ count ∧ count ≤ 64) then none
  else if !Crypto.ecdsaVerify (Config.tridunKey 2) (Crypto.sha384 (signedPart l)) (signaturePart l) then none
  else
    match Crypto.gcmOpen Config.patchKey ((l.drop 0x14).take 12) (l.take 0x20) ((l.drop 0x20).take (40 * count)) ((l.drop (0x20 + 40 * count)).take 16) with
    | none => none
    | some plain => some ⟨fieldAt l 6 2, fieldAt l 8 4, fieldAt l 0xC 4, patchEntries count plain⟩

/-- The patches accepted of those offered, at most 8, each with its number and bytes: not one whose LEVEL is already accepted. -/
def acceptPatches : Nat → List (List Byte) → List (Nat × SealedPatch × List Byte) → List (Nat × SealedPatch × List Byte)
  | _, [], got => got
  | i, l :: rest, got =>
    match openPatch l with
    | some p =>
      if got.length < 8 ∧ ¬ got.any (fun g => g.2.1.level == p.level) then acceptPatches (i + 1) rest (got ++ [(i, p, l)])
      else acceptPatches (i + 1) rest got
    | none => acceptPatches (i + 1) rest got

namespace Hw

/-! ### The boot banks (R483, R484) -/

/-- A GO ends, or is refused: CODE, and the vector of its write. -/
def bootCode (h : Hw) (p state code : Nat) : Hw :=
  let h := (h.setFld F.PWR_BOOT_STAT_STATE p 0 state).setFld F.PWR_BOOT_STAT_CODE p 0 code
  h.event (129 * p) (h.fld F.PWR_BOOT_CMD_VEC p)

/-- GO in the boot bank of PF p, with VEC. A bank in WAIT takes it up, unless the other PF's GO has come first (DONE, BUSY) or the
boot ROM is in its provisioning mode (BUSY, R512). -/
def go (h : Hw) (p vec : Nat) : Hw :=
  if h.fld F.PWR_BOOT_STAT_STATE p ≠ 0 then h
  else
    let h := h.setFld F.PWR_BOOT_CMD_VEC p 0 vec
    if h.boot.prov then h.bootCode p 0 0x01
    else if h.boot.winner.isSome then h.bootCode p 3 0x01
    else h.setFld F.PWR_BOOT_STAT_STATE p 0 1

/-- The images of PF p's bank have been read, well or not. The first bank to reach CHECK wins. -/
def bootFetchDone (h : Hw) (p : Nat) (how : ReadEnd) : Hw :=
  if h.fld F.PWR_BOOT_STAT_STATE p ≠ 1 then h
  else
    let h := h.aerRead p how
    let f := h.fn (129 * p)
    if how ≠ .ok ∨ ¬ f.bme ∨ f.d3 then h.bootCode p 0 0x02
    else if h.boot.winner.isSome then h.bootCode p 3 0x01
    else
      let at_ := fun (a n : Nat) => h.rbs (portBase p + a) n
      let img := at_ (h.fld F.PWR_BOOT_FW_ADDR p) (min (h.fld F.PWR_BOOT_FWLEN_LEN p) 0x1000001)
      let area := at_ (h.fld F.PWR_BOOT_PATCH_ADDR p) (h.fld F.PWR_BOOT_PLEN_LEN p)
      let h : Hw := { h with boot := { h.boot with winner := some p, image := img, patchArea := area } }
      h.setFld F.PWR_BOOT_STAT_STATE p 0 2

/-- The winner's images are refused: WAIT again. -/
def bootRefused (h : Hw) (p code : Nat) : Hw :=
  let h : Hw := { h with boot := { h.boot with winner := none, image := [], patchArea := [] } }
  h.bootCode p 0 code

/-- Starts Reeve 0 in B-mode at an ENTRY of the firmware window. -/
def startFirmware (h : Hw) (x : Hob) (entry : Nat) : Hw :=
  (h.setReeve 0 { hob := { x with pc := BitVec.ofNat 32 (0x10000000 + entry) }, bmode := true, slot := none,
                  waiting := false }).setFld F.RVE_CTL_BMODE 0 0 1

/-- Window 1 of every core names a firmware bank (R485). -/
def firmwareWindow (h : Hw) (base : Nat) : Hw :=
  h.each (List.range 4) fun h r => (h.setFld F.RVE_WIN_BASE 0 (16 * r + 1) base).setFld F.RVE_WIN_EN 0 (16 * r + 1) 1

/-- What the boot ROM records as it releases the fabric with patches `l` (R460, R485): the firmware and the accepted patches
measured, the alias key derived. -/
def released (b : Boot) (l : List (List Byte)) : Boot :=
  let got := acceptPatches 0 l []
  let byLevel := got.mergeSort fun a b => decide (a.2.1.level ≤ b.2.1.level)
  let measured := if got.isEmpty then 0 else Crypto.sha384 (byLevel.flatMap fun g => g.2.2)
  let fw := firmwareOf b.image
  let cdi1 := Crypto.hmac384 (digestBytes b.cdi0) (digestBytes (Crypto.sha384 (digestBytes fw.2.2 ++ digestBytes measured)))
  { b with
    stage := .released, image := [], patchArea := [], patches := got.map fun g => g.2.1, fwA := some fw,
    fwMeasured := fw.2.2, patchMeasured := measured, cdi0 := 0, aliasKey := some (Config.keyOf cdi1) }

/-- The fabric is released with the winner's firmware in bank A and its patches `l` (R481, R484, R485), and the firmware
starts. -/
def bootReleases (h : Hw) (p : Nat) (l : List (List Byte)) : Hw :=
  let img := h.boot.image
  let h : Hw := { h with boot := released h.boot l }
  let alias_ := (h.boot.aliasKey.map fun k => hashWord (Config.publicHash k)).getD 0
  let h := (h.wbs (frameBase 0x10) img).setFld F.SEC_ALIAS_HASH 0 0 alias_
  let h := (h.firmwareWindow 0x010).startFirmware (h.reeve 0).hob (firmwareOf img).1
  (h.setFld F.PWR_BOOT_STAT_NPATCH p 0 l.length).setFld F.PWR_BOOT_STAT_PATCHOK p 0
    ((acceptPatches 0 l []).map fun g => 2 ^ g.1).sum

/-- The checks of the winner's images are done. -/
def bootCheckDone (h : Hw) (p : Nat) : Hw :=
  if h.fld F.PWR_BOOT_STAT_STATE p ≠ 2 then h
  else
    match firmwareCheck h.boot.image (h.fld F.PWR_BOOT_FWLEN_LEN p) with
    | 1 => h.bootRefused p 0x03
    | 2 => h.bootRefused p 0x04
    | _ =>
      match cutPatches h.boot.patchArea.length h.boot.patchArea with
      | none => h.bootRefused p 0x05
      | some l => (h.bootReleases p l).bootCode p 3 0x00

/-! ### The field armature (R172, R486, R526) -/

/-- The reference C320 record (R71, R121). -/
def classC320 : List Byte :=
  [0, 2, 0x37, 8] ++ leBytes 2 320 ++ leBytes 2 240 ++ leBytes 2 262 ++ leBytes 2 800 ++ leBytes 2 120 ++ [32, 4] ++
    leBytes 2 64 ++ [16, 0] ++ leBytes 2 256 ++ leBytes 2 512 ++ leBytes 2 0 ++ List.replicate 6 0 ++
    [2, 2, 2, 2, 2, 8, 10, 40, 4, 4, 6, 4, 4, 6, 4, 6, 2, 6, 8, 8, 10, 14, 2, 2, 2, 1, 1, 1, 1, 1, 1, 1]

/-- The field armature, owned by a function (R526). -/
def fieldArmature (owner : Nat) : ParishArm :=
  { classes := [classOfBytes classC320],
    slots := [⟨0, 4, 0, 16, 0, 0, owner, 5, 1, [1, 0, 0, 0]⟩],
    larder := some ⟨[16, 16, 16, 16], 64, 2, 1, [(owner, 64)]⟩, ucHash := Config.fieldUcHash, ucVer := 0xF01,
    hasUcode := true, arbW := [64, 64, 8, 16, 32, 4], ageN := 16, urg := [0, 0, 0, 0, 0, 0], hasArb := true, src := 0,
    preset := 3, pace := 0xE6, bellMax := 60000, period := 0, hasBell := true, expert := 0, keySlot := 7,
    version := Config.fieldArmVersion.toNat, digest := Config.fieldArmDigest, mode := 1 }

/-- The boot ROM puts the field microcode, patched, into P0's active bank and applies the field armature to P0. -/
def fieldArmatureApply (h : Hw) : Hw :=
  if h.boot.stage ≠ .released ∨ h.boot.fieldLoaded then h
  else
    let u := patchImage h.boot.patches
      { hash := Config.fieldUcHash, ver := 0xF01, signer := 0, level := 0, words := Config.fieldUcWords }
    let h : Hw := { h with boot := { h.boot with fieldLoaded := true } }
    let h := (h.modParish 0 fun x => { x with active := some u }).showUcode 0
    h.applyParish 0 (fieldArmature (if (h.port 0).up then 0 else 129))

/-- HBM channel q is trained. -/
def hbmTrained (h : Hw) (q : Nat) : Hw :=
  let h := h.setFld F.PWR_HBMTR_CHAN 0 0 (setBits (h.fld F.PWR_HBMTR_CHAN) q q 1)
  if h.fld F.PWR_HBMTR_CHAN = 2 ^ 64 - 1 then h.setFld F.PWR_CAL_HBM 0 0 1 else h

/-- Parish n has finished calibration. -/
def parishCalibrated (h : Hw) (n : Nat) : Hw :=
  h.setFld F.PWR_CAL_PARISH 0 0 (setBits (h.fld F.PWR_CAL_PARISH) n n 1)

/-! ### Tests (R488) -/

/-- What a test of a target requires: its parish drained and calibrated (R482), its channel evacuated (R309). -/
def testMayRun (h : Hw) (op target : Nat) : Bool :=
  h.job.isNone &&
    (if op ≤ 2 then h.drained target && bit (h.fld F.PWR_CAL_PARISH) target else h.gran.evacuated.contains target)

/-- A write of PWR_TEST_CMD of bank p. -/
def testCmdWrite (h : Hw) (ag : Agent) (p op target vec : Nat) : Hw :=
  let ok := decide (1 ≤ op ∧ op ≤ 4) && decide (target < if op ≤ 2 then 16 else 64) && decide (vec < 2048)
  h.guarded ag .PWR_TEST_CMD p 0 0 ok fun h =>
    if h.testMayRun op target then h.bankStart kTest p op target vec 1 else h.bankRefused kTest p vec 0x01

def larder (h : Hw) (ag : Agent) (p n vec : Nat) : Hw := h.testCmdWrite ag p 1 n vec
def loom (h : Hw) (ag : Agent) (p n vec : Nat) : Hw := h.testCmdWrite ag p 2 n vec
def hbmTest (h : Hw) (ag : Agent) (p q vec : Nat) : Hw := h.testCmdWrite ag p 3 q vec
def retrain (h : Hw) (ag : Agent) (p q vec : Nat) : Hw := h.testCmdWrite ag p 4 q vec

/-- What a test leaves behind. -/
def testLeaves (h : Hw) (op target : Nat) : Hw :=
  match op with
  | 1 => (h.modParish target fun p => { p with larder := [], poisoned := [] }).parishNone target
  | 2 => ((h.modParish target fun p => { p with active := none, shadow := none }).showUcode target).parishNone target
  | _ =>
    let h := h.zero (target * 0x40000000) 0x40000000
    { h with memPoison := h.memPoison.filter fun a => a / 0x40000000 ≠ target }

/-- The test in progress ends, having found `failing` words, the first at offset `first`. The spec has no KIND for an HBM channel,
so INDEX of such a record is a free value (log entry 32). -/
def testDone (h : Hw) (failing first : Nat) : Hw :=
  match h.job with
  | none => h
  | some j =>
    if j.kind ≠ kTest then h
    else
      let res := if failing = 0 then 0 else failing % 2 ^ 32 * 2 ^ 32 + first % 2 ^ 32
      let h := (h.testLeaves j.op j.mask).setFld F.PWR_TEST_RES_RES j.port 0 res
      let h :=
        if failing = 0 then h
        else if j.op ≤ 2 then h.raiseParish 0 .PWR 0x05 j.mask res
        else
          let (ix, h) := h.draw
          h.raise 0 3 .PWR 0x05 (ix.toNat % 2 ^ 32) none bothPfs res
      h.bankDone j (if failing = 0 then 0x00 else 0x02)

/-- A write of ERR_INJ raises one INJECTED record (R497, R501). -/
def injected (h : Hw) (ag : Agent) (v : Word) : Hw :=
  h.guarded ag .ERR_INJ 0 0 0 true fun h => h.raiseModule 0 .ERR 0x01 v.toNat

/-! ### Firmware in service (R499, R502) -/

/-- The bank that a writer's command signals: its PF's port, or 2 for Reeve firmware. -/
def writerPort (ag : Agent) : Nat :=
  match ag with
  | .pf p => p
  | _ => 2

/-- Bank B is the active one. -/
def bankB (h : Hw) : Bool := h.flag F.RVE_FW_CTL_ACTIVE

/-- The image in the inactive bank. -/
def inactiveFw (h : Hw) : Option (Nat × Nat × BitVec 384) := if h.bankB then h.boot.fwA else h.boot.fwB

/-- Puts an image, or nothing valid, into the inactive bank. -/
def setInactiveFw (h : Hw) (x : Option (Nat × Nat × BitVec 384)) : Hw :=
  { h with boot := if h.bankB then { h.boot with fwA := x } else { h.boot with fwB := x } }

/-- Every core's registers take their reset values but RVE_IRQ; Reeve 1 to 3 stand halted (R132, R499). -/
def coresReset (h : Hw) : Hw :=
  let h := h.resetRegs fun r =>
    r.name == .RVE_CTL || r.name == .RVE_STAT || r.name == .RVE_EPC || r.name == .RVE_EXC || r.name == .RVE_VEC ||
      r.name == .RVE_PERF || r.name == .RVE_WIN
  let h : Hw := { h with reeves := [] }
  h.each [1, 2, 3] fun h r => h.setFld F.RVE_STAT_HALTED 0 r 1

/-- The firmware of bank B, or of bank A, starts at its ENTRY, window 1 of every core naming its bank (R485, R499). -/
def firmwareStarts (h : Hw) (b : Bool) (entry : Nat) : Hw :=
  let h := (h.coresReset.firmwareWindow (if b then 0x020 else 0x010)).startFirmware Hob.reset entry
  ((h.setFld F.RVE_FW_CTL_ACTIVE 0 0 (b2n b)).setFld F.RVE_FW_CTL_REQ 0 0 0).tmrModes

/-- A SWITCH has been carried out: the firmware bank is IDLE with OK, and its writer hears of it (R89, R499). -/
def switchDone (h : Hw) : Hw :=
  let by_ := h.boot.switchBy
  let h : Hw := { h with boot := { h.boot with switchBy := none } }
  let h := (h.setBankState kFw 2 0).setBankCode kFw 2 0x00
  match by_ with
  | some (p, vec) => h.bankSignal p vec
  | none => h

/-- The firmware in the inactive bank starts (R499). A FW_SWITCH record follows. -/
def firmwareSwitch (h : Hw) : Hw :=
  match h.inactiveFw with
  | none => h
  | some (entry, version, _) => ((h.firmwareStarts (!h.bankB) entry).raiseModule 0 .ERR 0x02 version).switchDone

/-- A SWITCH awaits its ACK. -/
def awaitsAck (h : Hw) : Bool := h.bankState kFw 2 == 3

/-- A write of RVE_FW_CMD. -/
def fwCmdWrite (h : Hw) (ag : Agent) (op vec : Nat) : Hw :=
  let p := writerPort ag
  h.guarded ag .RVE_FW_CMD 0 0 0 (decide (1 ≤ op ∧ op ≤ 3) && decide (vec < 2048)) fun h =>
    if op = 3 then (if h.awaitsAck then h.firmwareSwitch.bankSignal p vec else h)
    else if h.job.isSome || h.awaitsAck then h.bankRefused kFw p vec 0x01
    else if op = 1 then h.bankStart kFw p op 0 vec 1
    else if h.inactiveFw.isNone then h.bankRefused kFw p vec 0x07
    else
      let h : Hw := { h with boot := { h.boot with switchBy := some (p, vec) } }
      (h.setBankState kFw p 3).setFld F.RVE_FW_CTL_REQ 0 0 1

def fwStage (h : Hw) (ag : Agent) (vec : Nat) : Hw := h.fwCmdWrite ag 1 vec
def switch (h : Hw) (ag : Agent) (vec : Nat) : Hw := h.fwCmdWrite ag 2 vec
def force (h : Hw) (ag : Agent) (vec : Nat) : Hw := h.fwCmdWrite ag 3 vec

/-- The STAGE of firmware in progress has read its image, well or not: into the inactive bank, which holds nothing valid unless
the image passes. An image that Reeve firmware names is read through the PF of PA. -/
def fwStageDone (h : Hw) (how : ReadEnd) : Hw :=
  match h.job with
  | none => h
  | some j =>
    if j.kind ≠ kFw then h
    else
      let p := if j.port < 2 then j.port else 0
      let h := (h.aerRead p how).setInactiveFw none
      let len := h.fld F.RVE_FW_LEN_LEN
      match (if how = .ok then
              h.bankImage p (h.fld F.RVE_FW_SRC_SPACE) (h.fld F.RVE_FW_SRC_ADDR * 8) (min len 0x1000000) else none) with
      | none => h.bankDone j 0x03
      | some img =>
        let h := h.wbs (frameBase (if h.bankB then 0x10 else 0x20)) img
        match firmwareCheck img len with
        | 0 => (h.setInactiveFw (some (firmwareOf img))).bankDone j 0x00
        | 1 => h.bankDone j 0x04
        | _ => h.bankDone j 0x05

/-- A write of RVE_FW_CTL, which only Reeve 0 may make, whatever it writes (R502, R523). ACK does nothing without REQ. -/
def fwCtlWrite (h : Hw) (ag : Agent) (v : Nat) : Hw :=
  let writer := match ag with
    | .reeve r _ => r == 0
    | _ => false
  h.guarded ag .RVE_FW_CTL 0 0 0 writer fun h => if bit v 1 && h.awaitsAck then h.firmwareSwitch else h

/-- A write of RVE_FW_CTL with ACK set. -/
def ack (h : Hw) (ag : Agent) : Hw := h.fwCtlWrite ag 2

end Hw

end Sys2Proof.Machine

/-! ### The commands -/

namespace Sys2Proof.Machine

/-- GO (R484): PF p writes PWR_BOOT_CMD with OP 1 and VEC. -/
def execGo (p : Nat) (vec : Nat) (s : State) : Host.Outcome State Fault Refusal :=
  s.runLive fun h => h.go p vec

/-- BOOT_FETCH_DONE (R484): for the bank of PF p, with the bytes read or the failure. -/
def execBootFetchDone (p : Nat) (how : ReadEnd) (s : State) : Host.Outcome State Fault Refusal :=
  s.runLive fun h => h.bootFetchDone p how

/-- BOOT_CHECK_DONE (R484): for the bank of PF p. -/
def execBootCheckDone (p : Nat) (s : State) : Host.Outcome State Fault Refusal :=
  s.runLive fun h => h.bootCheckDone p

/-- FIELD_ARMATURE_APPLY (R481): the boot ROM serves P0. -/
def execFieldArmatureApply (s : State) : Host.Outcome State Fault Refusal :=
  s.runLive fun h => h.fieldArmatureApply

/-- HBM_TRAINED (R481): channel q. -/
def execHbmTrained (q : Nat) (s : State) : Host.Outcome State Fault Refusal :=
  s.runLive fun h => h.hbmTrained q

/-- PARISH_CALIBRATED (R482): parish n. -/
def execParishCalibrated (n : Nat) (s : State) : Host.Outcome State Fault Refusal :=
  s.runLive fun h => h.parishCalibrated n

/-- LARDER (R488): agent ag writes the test bank of PF p, naming parish n, with VEC. -/
def execLarder (ag : Agent) (p : Nat) (n : Nat) (vec : Nat) (s : State) : Host.Outcome State Fault Refusal :=
  s.runLive fun h => h.larder ag p n vec

/-- LOOM (R488): agent ag writes the test bank of PF p, naming parish n, with VEC. -/
def execLoom (ag : Agent) (p : Nat) (n : Nat) (vec : Nat) (s : State) : Host.Outcome State Fault Refusal :=
  s.runLive fun h => h.loom ag p n vec

/-- HBM_TEST (R488): agent ag writes the test bank of PF p, naming channel q, with VEC. -/
def execHbmTest (ag : Agent) (p : Nat) (q : Nat) (vec : Nat) (s : State) : Host.Outcome State Fault Refusal :=
  s.runLive fun h => h.hbmTest ag p q vec

/-- RETRAIN (R488): agent ag writes the test bank of PF p, naming channel q, with VEC. -/
def execRetrain (ag : Agent) (p : Nat) (q : Nat) (vec : Nat) (s : State) : Host.Outcome State Fault Refusal :=
  s.runLive fun h => h.retrain ag p q vec

/-- TEST_DONE (R488): with the count of failing words and the first failing offset. -/
def execTestDone (failing : Nat) (first : Nat) (s : State) : Host.Outcome State Fault Refusal :=
  s.runLive fun h => h.testDone failing first

/-- INJECTED (R501): agent ag writes v to ERR_INJ. -/
def execInjected (ag : Agent) (v : Word) (s : State) : Host.Outcome State Fault Refusal :=
  s.runLive fun h => h.injected ag v

/-- FW_STAGE (R499): agent ag writes RVE_FW_CMD with VEC. -/
def execFwStage (ag : Agent) (vec : Nat) (s : State) : Host.Outcome State Fault Refusal :=
  s.runLive fun h => h.fwStage ag vec

/-- FW_STAGE_DONE (R502): with the bytes read, or the failure. -/
def execFwStageDone (how : ReadEnd) (s : State) : Host.Outcome State Fault Refusal :=
  s.runLive fun h => h.fwStageDone how

/-- SWITCH (R499): agent ag writes RVE_FW_CMD with VEC. -/
def execSwitch (ag : Agent) (vec : Nat) (s : State) : Host.Outcome State Fault Refusal :=
  s.runLive fun h => h.switch ag vec

/-- ACK (R499): agent ag writes RVE_FW_CTL with ACK 1. -/
def execAck (ag : Agent) (s : State) : Host.Outcome State Fault Refusal :=
  s.runLive fun h => h.ack ag

/-- FORCE (R499): agent ag writes RVE_FW_CMD with VEC. -/
def execForce (ag : Agent) (vec : Nat) (s : State) : Host.Outcome State Fault Refusal :=
  s.runLive fun h => h.force ag vec

end Sys2Proof.Machine
end

