-- ==== Sys2Proof/Machine/Larder.lean ====
section
/-!
DEFINITION. The Larder's banks, HBM self-refresh and the arbiters (R313 to R330): places, order, data, stalls, wakes, credits,
counters, poison. What the Tally, the caches and the Choir keep in their bins is held by their own structures, since the spec does
not place it in words (log entry 33). -/

namespace Sys2Proof.Machine.Hw

/-! ### Retention (R317) -/

/-- Bank b is in retention. -/
def retained (h : Hw) (n b : Nat) : Bool := bit (h.reg .LRD_RETSTAT n).toNat b

/-- Shows bank b in retention or awake. -/
def setRetained (h : Hw) (n b : Nat) (on : Bool) : Hw :=
  h.setReg .LRD_RETSTAT n 0 (BitVec.ofNat 64 (setBits (h.reg .LRD_RETSTAT n).toNat b b (b2n on)))

/-- A bank in retention begins its wake. -/
def bankWakes (h : Hw) (n b : Nat) : Hw :=
  if h.retained n b && !(h.parish n).banksWaking.contains b then
    h.modParish n fun p => { p with banksWaking := p.banksWaking ++ [b] }
  else h

/-- Bank b enters retention. -/
def bankRests (h : Hw) (n b : Nat) : Hw :=
  (h.setRetained n b true).modParish n fun p =>
    { p with banksWaking := p.banksWaking.filter (· ≠ b), banksRetiring := p.banksRetiring.filter (· ≠ b) }

/-- A write of LRD_RET: each 1 sends its bank to retention, once the access that its wake awaits is served; each 0 wakes it. -/
def retentionWrite (h : Hw) (ag : Agent) (n : Nat) (v : DWord) : Hw :=
  h.guarded ag .LRD_RET n 0 v.toNat true fun h =>
    (h.storeFields .LRD_RET n 0 v.toNat).each (List.range 64) fun h b =>
      if bit v.toNat b then
        if (h.parish n).banksAwaited.contains b then
          h.modParish n fun p => { p with banksRetiring := p.banksRetiring.filter (· ≠ b) ++ [b] }
        else h.bankRests n b
      else (h.modParish n fun p => { p with banksRetiring := p.banksRetiring.filter (· ≠ b) }).bankWakes n b

/-- A bank's wake is over. -/
def bankWake (h : Hw) (n b : Nat) : Hw :=
  if (h.parish n).banksWaking.contains b then
    (((h.modParish n fun p => { p with banksWaking := p.banksWaking.filter (· ≠ b) }).setRetained n b false)).count
      F.LRD_CNT_WAKE_WAKE n
  else h

/-! ### Places (R74, R313) -/

/-- The regions of parish n's Larder in order, each with its bins. -/
def larderRegions (h : Hw) (n : Nat) : List (LarderRegion × Nat) :=
  match (h.parish n).arm.bind (·.larder) with
  | none => []
  | some l =>
    let tally := ceilDiv (h.parishCots n).length 8
    let stage := 192 - tally - l.pcache.sum - l.l2 - l.linebuf - l.choir
    [(LarderRegion.tally, tally)] ++ ((List.range 4).map fun j => (LarderRegion.pcache j, l.pcache.getD j 0)) ++
      ((List.range l.entries.length).map fun i => (LarderRegion.l2 i, (l.entries.getD i (0, 0)).2)) ++
      [(.linebuf, l.linebuf), (.choir, l.choir), (.stage, stage)]

/-- The first bin and the number of bins of a region. -/
def regionBins (r : LarderRegion) : Nat → List (LarderRegion × Nat) → Option (Nat × Nat)
  | _, [] => none
  | first, (q, n) :: l => if q = r then some (first, n) else regionBins r (first + n) l

/-- Bank and word of word w of a region of n bins from bin `first` (R313). -/
def binWord (first n w : Nat) : Option (Nat × Nat) :=
  if n = 0 ∨ 4096 ≤ w / n then none
  else
    let i := first + w % n
    some (i % 64, i / 64 * 4096 + w / n)

/-- The word of bank b that an access goes to, if it goes to bank b. -/
def larderAt (h : Hw) (n b : Nat) (p : LarderPlace) : Option Nat :=
  match p with
  | .word w => if w < 12288 then some w else none
  | .region r w =>
    match (regionBins r 0 (h.larderRegions n)).bind fun e => binWord e.1 e.2 w with
    | some (b', w') => if b' = b then some w' else none
    | none => none

/-! ### Bank accesses (R314 to R316, R318) -/

/-- An access that has come to a bank: its requester, its word there, what it does. -/
structure BankAcc where
  req : Nat
  word : Nat
  op : LarderOp
  deriving DecidableEq, Repr

/-- The access writes. -/
def BankAcc.writes (a : BankAcc) : Bool :=
  match a.op with
  | .read _ => false
  | .write _ _ => true

/-- The accesses of a list that come to bank b. -/
def bankAccs (h : Hw) (n b : Nat) (l : List LarderAcc) : List BankAcc :=
  l.filterMap fun a => (h.larderAt n b a.place).map fun w => ⟨a.req, w, a.op⟩

/-- Consecutive stalls of a requester at a bank. -/
def stallsOf (h : Hw) (n b r : Nat) : Nat := NTable.get 0 (h.parish n).bankStalls (8 * b + r)

/-- Accesses in the order in which they are considered: due requesters first, then the fixed order. -/
def bankOrder (h : Hw) (n b : Nat) (l : List BankAcc) : List BankAcc :=
  let sorted := (List.range 7).filterMap fun r => l.find? fun a => a.req == r
  (sorted.filter fun a => 15 ≤ h.stallsOf n b a.req) ++ sorted.filter fun a => !decide (15 ≤ h.stallsOf n b a.req)

/-- The accesses served in this CCLK: those to the first one's word, but only the first write among them; without a due
requester's word, no other word (R315). -/
def bankServed (l : List BankAcc) : List BankAcc :=
  match l with
  | [] => []
  | a :: _ =>
    let same := l.filter fun x => x.word == a.word
    let write := same.find? BankAcc.writes
    same.filter fun x => !x.writes || some x == write

/-- A word with the bytes of a mask replaced (R314). -/
def maskWord (old v : BitVec 128) (m : BitVec 16) : BitVec 128 :=
  let ones : BitVec 128 := (List.range 16).foldl (fun x i => if m.getLsbD i then x ||| (0xFF <<< (8 * i)) else x) 0
  (old &&& ~~~ones) ||| (v &&& ones)

/-- The ECC outcome of a read (R318, R330): counters, LRD_ERR_POS, records, LRD_UNC (R393). A word found uncorrectable is poisoned
until a whole-word write. -/
def larderEcc (h : Hw) (n b w ecc : Nat) : Hw :=
  if ecc = 0 then h
  else
    let h := h.setReg .LRD_ERR_POS n 0 (BitVec.ofNat 64 (b2n (ecc == 2) * 2 ^ 31 + b * 2 ^ 14 + w))
    if ecc = 1 then
      let h := h.count F.LRD_CNT_CORR_CORR n
      if (h.parish n).corrSeen.contains b then h
      else (h.modParish n fun p => { p with corrSeen := p.corrSeen ++ [b] }).raiseParish 0 .LRD 0x01 n
        (detailOf .LRD [0x01, n, b, w])
    else
      let k := 16384 * b + w
      ((h.modParish n fun p => { p with poisoned := p.poisoned.filter (· ≠ k) ++ [k] }).raiseParish 0 .LRD 0x02 n
        (detailOf .LRD [0x02, n, b, w])).picEvent n 261

/-- A served access: a read returns the word, or that it is poisoned; a write stores its bytes, and a whole one ends poison
(R318). -/
def larderWord (h : Hw) (n b : Nat) (a : BankAcc) : Hw :=
  let k := 16384 * b + a.word
  let p := h.parish n
  let old := NTable.get 0 p.larder k
  match a.op with
  | .read e =>
    let ecc := if p.poisoned.contains k then 2 else e
    (h.larderEcc n b a.word ecc).emit (.larder n a.req (if ecc = 2 then none else some old))
  | .write v m =>
    h.modParish n fun p =>
      { p with larder := NTable.set 0 p.larder k (maskWord old v m),
               poisoned := if m = BitVec.allOnes 16 then p.poisoned.filter (· ≠ k) else p.poisoned }

/-- The accesses that meet at bank b of parish n in one CCLK (R315 to R318). A bank in retention wakes and serves none. The reads
served have the word as it was before the write. -/
def larderBankAccess (h : Hw) (n b : Nat) (accs : List LarderAcc) : Hw :=
  let l := h.bankOrder n b (h.bankAccs n b accs)
  if l.isEmpty then h
  else if h.retained n b then
    (h.bankWakes n b).modParish n fun p => { p with banksAwaited := p.banksAwaited.filter (· ≠ b) ++ [b] }
  else
    let served := bankServed l
    let stalled := l.filter fun a => !served.contains a
    let h := h.each (served.filter (!BankAcc.writes ·) ++ served.filter BankAcc.writes) fun h a => h.larderWord n b a
    let h := h.modParish n fun p =>
      { p with bankStalls := (List.range 7).foldl (fun t r =>
          NTable.set 0 t (8 * b + r)
            (if stalled.any fun a => a.req == r then NTable.get 0 t (8 * b + r) + 1 else 0)) p.bankStalls }
    let h := h.countWrap F.LRD_CNT_CONF_CONF n 0 stalled.length
    if stalled.isEmpty then
      let h := h.modParish n fun p => { p with banksAwaited := p.banksAwaited.filter (· ≠ b) }
      if (h.parish n).banksRetiring.contains b then h.bankRests n b else h
    else h

/-! ### Self-refresh (R321) -/

/-- A channel of stack k is under EVACUATE or being retrained. -/
def stackBusy (h : Hw) (k : Nat) : Bool :=
  (h.gran.evacuating.any fun e => e.2 / 16 == k) ||
    (match h.job with
      | some j => j.kind == 2 && j.op == 4 && j.mask / 16 == k
      | none => false)

/-- A port that runs without PSR2 scans its buffer, part of which lies in stack k. -/
def scansStack (h : Hw) (k : Nat) : Bool :=
  [0, 1].any fun e =>
    let a := h.fld F.POR_EDP_FB_ADDR 0 e * 4096
    let n := bits (h.fld F.POR_EDP_TIM_TIM 0 (4 * e)) 15 0 * bits (h.fld F.POR_EDP_TIM_TIM 0 (4 * e + 1)) 15 0 * 4
    h.flag F.POR_EDP_STAT_ACTIVE 0 e && !h.flag F.POR_EDP_STAT_PSR2_ACT 0 e && decide (a / 2 ^ 34 ≤ k) &&
      decide (k * 2 ^ 34 < a + n)

/-- The Porch's time to its next access of stack k, in µs (R238): none for a stack that a running port scans, 65.5 ms or more
while no cottage is admitted and no port runs, and otherwise as the command says. -/
def porchHint (h : Hw) (k hint : Nat) : Nat :=
  if h.scansStack k then 0
  else if (h.cots.all fun q => !q.2.ctx.admitted) && [0, 1].all fun e => !h.flag F.POR_EDP_STAT_ACTIVE 0 e then 0xFFFF
  else min hint 0xFFFF

/-- Stack k, idle for 4,096 CCLK, enters self-refresh if its conditions hold; `hint` is the Porch's time to its next access of
the stack in µs (R238). -/
def selfRefreshEntry (h : Hw) (k hint : Nat) : Hw :=
  let sr := h.fld F.HBM_STAT_SR
  if bit (h.fld F.HBM_SR_CTL_EN) k && !bit sr k && !h.stackBusy k &&
      !h.scansStack k && decide (h.fld F.HBM_SR_CTL_MIN_IDLE ≤ h.porchHint k hint) then
    (h.setFld F.HBM_STAT_SR 0 0 (setBits sr k k 1)).count F.HBM_CNT_SR_SR 0 k
  else h

/-- A request to stack k ends its self-refresh. -/
def selfRefreshExit (h : Hw) (k : Nat) : Hw := h.setFld F.HBM_STAT_SR 0 0 (setBits (h.fld F.HBM_STAT_SR) k k 0)

/-! ### Arbiters (R322 to R327) -/

/-- The number under which State holds an arbiter: parish ports first, then channels. -/
def arbNo : Arbiter → Nat
  | .parish n => n
  | .channel q => 16 + q

/-- The state of an arbiter. -/
def arbOf (h : Hw) (a : Arbiter) : ArbState := NTable.get ArbState.reset h.arb (arbNo a)

/-- Replaces it. -/
def setArb (h : Hw) (a : Arbiter) (x : ArbState) : Hw := { h with arb := NTable.set ArbState.reset h.arb (arbNo a) x }

/-- Requesters of an arbiter. -/
def arbCount : Arbiter → Nat
  | .parish _ => 6
  | .channel _ => 21

/-- The weight of requester r: `ARB_W` in tie order, or HBM_W[r]. -/
def arbWeight (h : Hw) (a : Arbiter) (r : Nat) : Nat :=
  match a with
  | .parish n => bits (h.reg .ARB_W n).toNat (8 * r + 7) (8 * r)
  | .channel _ => h.fld F.HBM_W_W 0 r

/-- N of R323. -/
def arbAge (h : Hw) (a : Arbiter) : Nat :=
  match a with
  | .parish n => h.fld F.ARB_AGE_N n
  | .channel _ => h.fld F.HBM_AGE_N

/-- A window begins: every credit is 8 × weight (R322). -/
def arbWindow (h : Hw) (a : Arbiter) : Hw :=
  h.setArb a { h.arbOf a with
    credit := (List.range (arbCount a)).foldl (fun t r => NTable.set 0 t r (8 * h.arbWeight a r)) [] }

/-- A read tag is free for requester r: of a parish port one of its 256, or one of the 2,560 shared; of a module agent one of its
512, over all channels; a parish's read at a channel holds its port's (R327). -/
def tagFree (h : Hw) (a : Arbiter) (r : Nat) : Bool :=
  match a with
  | .channel _ =>
    decide (r < 16) || decide (((List.range 64).map fun q => NTable.get 0 (h.arbOf (.channel q)).tags r).sum < 512)
  | .parish _ =>
    let t := (h.arbOf a).tags
    let shared := ((List.range 6).map fun k => NTable.get 0 t k - 256).sum
    decide (NTable.get 0 t r < 256) || decide (shared < 2560)

/-- Shows the tags held at a parish port. -/
def showTags (h : Hw) (a : Arbiter) : Hw :=
  match a with
  | .channel _ => h
  | .parish n =>
    let held := ((List.range 6).map fun k => NTable.get 0 (h.arbOf a).tags k).sum
    (h.setFld F.ARB_TAGS_INUSE n 0 held).setFld F.ARB_TAGS_HWM n 0 (max held (h.fld F.ARB_TAGS_HWM n))

/-- The data of a read of requester r has returned: its tag is free (R327). -/
def tagReturn (h : Hw) (a : Arbiter) (r : Nat) : Hw :=
  let x := h.arbOf a
  (h.setArb a { x with tags := NTable.set 0 x.tags r (NTable.get 0 x.tags r - 1) }).showTags a

/-- The request that a grant goes to: of the eligible ones the oldest on an aged grant, else the one with the most
credit; ties in tie order (R322, R323). -/
def arbPick (h : Hw) (a : Arbiter) (aged : Bool) (l : List ArbReq) : Option ArbReq :=
  let key := fun (q : ArbReq) => if aged then q.waited else NTable.get 0 (h.arbOf a).credit q.req
  let ok := (List.range (arbCount a)).flatMap fun r =>
    l.filter fun q => q.req == r && (!q.read || h.tagFree a r)
  ok.foldl (fun best q =>
    match best with
    | none => some q
    | some b => if key b < key q then some q else best) none

/-- The 64-bit words that a request reads, by address: all that a read touches; of a write those it covers in part, which are read,
modified and written (R320). -/
def wordsRead (r : ArbReq) : List Nat :=
  let first := r.addr / 8
  let words := (List.range (ceilDiv (r.addr % 8 + r.bytes) 8)).map fun i => (first + i) * 8
  if r.read then words else words.filter fun w => !(decide (r.addr ≤ w) && decide (w + 8 ≤ r.addr + r.bytes))

/-- What channel q finds in the words that a granted request reads (R320, R330): each corrected or uncorrectable word counts, a word
that is or proves uncorrectable is poisoned, and one record tells of them. The spec gives these records channel scope and no KIND
for HBM channels, so INDEX is a free value (log entry 32). -/
def hbmWord (h : Hw) (q : Nat) (r : ArbReq) (e : HbmEcc) : Hw :=
  let words := wordsRead r
  let bad := words.filter fun w => h.memPoison.contains w || (e.unc.map (· / 8 * 8)).contains w
  let mended := words.filter fun w => !bad.contains w && (e.corr.map (· / 8 * 8)).contains w
  let h := (h.count F.HBM_CNT_CORR_CORR 0 q mended.length).count F.HBM_CNT_UNC_UNC 0 q bad.length
  let h : Hw := { h with memPoison := h.memPoison.filter (!bad.contains ·) ++ bad }
  if e.report && !(bad ++ mended).isEmpty then
    let cause := if bad.isEmpty then 0x03 else 0x04
    h.draw.2.raise 0 3 .HBM cause (h.draw.1.toNat % 2 ^ 32) none bothPfs (detailOf .HBM [cause, q])
  else h

/-- One grant among the requests (R322 to R325). A withdrawn one leaves only its counter; `returned` lists requesters
whose read data have come back since the last grant. -/
def arbiterGrant (h : Hw) (a : Arbiter) (reqs : List ArbReq) (returned : List Nat) (withdrawn : Bool) (ecc : HbmEcc) :
    Hw :=
  let h := h.each returned fun h r => h.tagReturn a r
  let x := h.arbOf a
  let aged := decide (h.arbAge a ≠ 0) && (x.grants + 1) % h.arbAge a == 0
  match h.arbPick a aged reqs with
  | none => h
  | some q =>
    if withdrawn then
      match a with
      | .parish n => h.countWrap F.ARB_CNT_DEAD_DEAD n
      | .channel _ => h.countWrap F.HBM_CNT_DEAD_DEAD
    else
      let h := h.setArb a { x with
        credit := NTable.set 0 x.credit q.req (NTable.get 0 x.credit q.req - ceilDiv q.bytes 64), grants := x.grants + 1,
        tags := if q.read then NTable.set 0 x.tags q.req (NTable.get 0 x.tags q.req + 1) else x.tags }
      match a with
      | .parish n => (if aged then h.countWrap F.ARB_CNT_AGED_AGED n else h).showTags a
      | .channel ch => h.hbmWord ch q ecc

/-- The wait of requester r first exceeds its threshold (R326). -/
def urgent (h : Hw) (a : Arbiter) (r waited : Nat) : Hw :=
  match a with
  | .parish n =>
    let thr := h.fld F.ARB_URG_THR_THR n r
    if thr = 0 ∨ waited ≤ thr then h
    else
      let h := h.count F.ARB_CNT_URG_URG n r
      let h := (h.setFld F.ARB_URG_STAT_URG n 0 (setBits (h.fld F.ARB_URG_STAT_URG n) r r 1)).picSync n
      if h.flag F.ARB_URG_STAT_REP n then h.raiseParish 0 .ARB 0x05 n (detailOf .ARB [0x05, n, r]) else h
  | .channel q =>
    let thr := h.fld F.HBM_URG_THR_THR 0 r
    if thr = 0 ∨ waited ≤ thr then h
    else
      let h := h.count F.HBM_CNT_URG_URG 0 r
      let h := h.setFld F.HBM_URG_STAT_URG 0 0 (setBits (h.fld F.HBM_URG_STAT_URG) r r 1)
      if h.flag F.HBM_URG_STAT_REP then h.raiseModule 0 .HBM 0x05 (detailOf .HBM [0x05, q, r]) else h

end Sys2Proof.Machine.Hw

/-! ### The commands -/

namespace Sys2Proof.Machine

/-- RETENTION_WRITE (R317): a write of LRD_RET of parish n. -/
def execRetentionWrite (ag : Agent) (n : Nat) (v : DWord) (s : State) : Host.Outcome State Fault Refusal :=
  s.runLive fun h => h.retentionWrite ag n v

/-- BANK_WAKE (R317): bank b of parish n finishes its wake. -/
def execBankWake (n : Nat) (b : Nat) (s : State) : Host.Outcome State Fault Refusal :=
  s.runLive fun h => h.bankWake n b

/-- LARDER_BANK_ACCESS (R315): the accesses that meet at bank b of parish n in one CCLK. -/
def execLarderBankAccess (n : Nat) (b : Nat) (accs : List LarderAcc) (s : State) : Host.Outcome State Fault Refusal :=
  s.runLive fun h => h.larderBankAccess n b accs

/-- SELF_REFRESH_ENTRY (R321): stack k has been idle for 4,096 CCLK, the Porch's next access of it `hint` µs away. -/
def execSelfRefreshEntry (k : Nat) (hint : Nat) (s : State) : Host.Outcome State Fault Refusal :=
  s.runLive fun h => h.selfRefreshEntry k hint

/-- SELF_REFRESH_EXIT (R321): a request wakes stack k. -/
def execSelfRefreshExit (k : Nat) (s : State) : Host.Outcome State Fault Refusal :=
  s.runLive fun h => h.selfRefreshExit k

/-- ARB_WINDOW (R322): a window of 1,024 CCLK of an arbiter begins. -/
def execArbWindow (a : Arbiter) (s : State) : Host.Outcome State Fault Refusal :=
  s.runLive fun h => h.arbWindow a

/-- ARBITER_GRANT (R322): an arbiter grants one of its requests. -/
def execArbiterGrant (a : Arbiter) (reqs : List ArbReq) (returned : List Nat) (withdrawn : Bool) (ecc : HbmEcc)
    (s : State) : Host.Outcome State Fault Refusal :=
  s.runLive fun h => h.arbiterGrant a reqs returned withdrawn ecc

/-- URGENT (R326): the wait of requester r of an arbiter passes its threshold. -/
def execUrgent (a : Arbiter) (r : Nat) (waited : Nat) (s : State) : Host.Outcome State Fault Refusal :=
  s.runLive fun h => h.urgent a r waited

end Sys2Proof.Machine
end

