-- ==== Sys2Proof/Machine/Treadles.lean ====
section
/-!
DEFINITION. The Treadle engines (R430 to R438). -/

namespace Sys2Proof.Machine.Hw

/-- Bit k of a Treadle's inputs (R431); `pads` gives the synchronised level of every Lane. -/
def trdInput (h : Hw) (t pads k : Nat) : Bool :=
  let x := h.trd t
  match bits x.pcfg.toNat (3 * k + 2) (3 * k) with
  | 0 => ((h.laneOf (t + 1) 0 k).map fun l => h.laneLevel l (bit pads l)).getD false
  | 1 => h.fld F.TRD_CNT_COUNT 0 t == 0
  | 2 => x.txf.isEmpty
  | 3 => decide (8 ≤ x.rxf.length)
  | 4 => bit (h.fld F.TRD_STAT_OUT 0 t) k
  | 6 => bit (h.fld F.TRD_STAT_OUT 0 (if t % 2 = 0 then t + 1 else t - 1)) k
  | _ => false

/-- TRD_FIFO shows the levels of both FIFOs. -/
def trdLevels (h : Hw) (t : Nat) : Hw :=
  (h.setFld F.TRD_FIFO_TXLEVEL 0 t (h.trd t).txf.length).setFld F.TRD_FIFO_RXLEVEL 0 t (h.trd t).rxf.length

/-- A program change that a COMMIT holds, or entries written, take effect at this step; at the retry of a stalled step that
shows in CHANGED_IN_STALL (R435). `i` is the entry read. -/
def trdChange (h : Hw) (t i : Nat) : Hw :=
  let x := h.trd t
  let h := if h.flag F.TRD_STAT_STALLED 0 t && (x.committed.isSome || x.written.contains i) then
      h.setFld F.TRD_STAT_CHANGED_IN_STALL 0 t 1
    else h
  h.setTrd t { x with committed := none, written := [] }

/-- The draw of a step (R432, R434). -/
def trdDraw (h : Hw) (t : Nat) : Hw :=
  let x := h.trd t
  let (w, h) := match x.txf with
    | w :: l => (w, h.setTrd t { x with txf := l, lastDrawn := w })
    | [] => (x.lastDrawn, h.setFld F.TRD_STAT_UNDERRUN 0 t 1)
  ((h.setFld F.TRD_SKEIN_BITS 0 t w.toNat).setFld F.TRD_STAT_SKC 0 t 0).setFld F.TRD_FIFO_EMPTY 0 t 0

/-- The spin of a step. -/
def trdSpin (h : Hw) (t : Nat) (lsb : Bool) : Hw :=
  let s := h.fld F.TRD_SKEIN_BITS 0 t
  let h := h.setTrd t { h.trd t with thread := if lsb then bit s 0 else bit s 31 }
  (h.setFld F.TRD_SKEIN_BITS 0 t (if lsb then s / 2 else s * 2)).setFld F.TRD_STAT_SKC 0 t (min 32 (h.fld F.TRD_STAT_SKC 0 t + 1))

/-- The gather of a step. -/
def trdGather (h : Hw) (t : Nat) (lsb in0 : Bool) : Hw :=
  let s := h.fld F.TRD_SHEAF_BITS 0 t
  (h.setFld F.TRD_SHEAF_BITS 0 t (if lsb then s / 2 + b2n in0 * 2 ^ 31 else s * 2 + b2n in0)).setFld F.TRD_STAT_SHC 0 t
    (min 32 (h.fld F.TRD_STAT_SHC 0 t + 1))

/-- The counter of a step (R430). -/
def trdCount (h : Hw) (t cnt : Nat) : Hw :=
  if cnt = 1 then h.setFld F.TRD_CNT_COUNT 0 t (h.fld F.TRD_CNT_RELOAD 0 t)
  else if cnt = 2 then h.setFld F.TRD_CNT_COUNT 0 t (h.fld F.TRD_CNT_COUNT 0 t - 1)
  else h

/-- The bind of a step (R432, R434). -/
def trdBind (h : Hw) (t : Nat) : Hw :=
  let x := h.trd t
  let h := if x.rxf.length < 8 then h.setTrd t { x with rxf := x.rxf ++ [BitVec.ofNat 32 (h.fld F.TRD_SHEAF_BITS 0 t)] }
    else h.setFld F.TRD_STAT_OVERRUN 0 t 1
  (h.setFld F.TRD_SHEAF_BITS 0 t 0).setFld F.TRD_STAT_SHC 0 t 0

/-- EVT is set; a PF owner gets an event (R437), but not between an FLR and its enabling MSI-X again (R456). -/
def trdEvt (h : Hw) (t : Nat) : Hw :=
  let h := h.setFld F.TRD_STAT_EVT 0 t 1
  let o := h.fld F.TRD_OWN_OWNER 0 t
  if (o = 5 ∨ o = 6) ∧ !(h.fn (129 * (o - 5))).quiet then h.event (129 * (o - 5)) (h.fld F.TRD_CTL_VEC 0 t) else h

/-- The Treadle stops before its next step, with its outputs held. -/
def trdStops (h : Hw) (t : Nat) : Hw := (h.setFld F.TRD_CTL_EN 0 t 0).setFld F.TRD_STAT_RUN 0 t 0

/-- A step that does not stall, on entry e with the inputs' bit 0. -/
def trdActs (h : Hw) (t e : Nat) (in0 draw bind : Bool) : Hw :=
  let p := (h.trd t).pcfg.toNat
  let h := h.setFld F.TRD_STAT_STALLED 0 t 0
  let h := if draw then h.trdDraw t else h
  let h := if bit e 17 then h.trdSpin t (bit p 12) else h
  let h := if bit e 16 then h.trdGather t (bit p 13) in0 else h
  let h := h.trdCount t (bits e 21 20)
  let h := if bind then h.trdBind t else h
  let out := if bit e 14 then setBits (bits e 9 6) 0 0 (b2n (h.trd t).thread) else bits e 9 6
  let h := (h.setFld F.TRD_STAT_OUT 0 t out).setTrd t { h.trd t with oe := bits e 13 10 }
  let h := h.setFld F.TRD_STAT_STATE 0 t (bits e 5 0)
  let h := if bit e 23 then h.trdEvt t else h
  h.trdLevels t

/-- The program of Treadle t in force at its next step (R435). -/
def trdProgram (h : Hw) (t : Nat) : Word := (h.trd t).committed.getD (h.trd t).pcfg

/-- The four inputs of Treadle t at its next step, under that program (R431). -/
def trdInputs (h : Hw) (t pads : Nat) : Nat :=
  let g := h.setTrd t { h.trd t with pcfg := h.trdProgram t }
  (List.range 4).foldl (fun acc k => acc + b2n (g.trdInput t pads k) * 2 ^ k) 0

/-- The LUT entry that its next step reads (R430). -/
def trdEntry (h : Hw) (t pads : Nat) : Nat :=
  (h.reg .TRD_LUT 0 (1024 * t + (h.fld F.TRD_STAT_STATE 0 t * 16 + h.trdInputs t pads))).toNat

/-- A draw is due at that step (R432). -/
def trdDrawDue (h : Hw) (t e : Nat) : Bool :=
  let p := (h.trdProgram t).toNat
  bit e 19 || (bit p 14 && (h.flag F.TRD_FIFO_EMPTY 0 t || decide (bits p 21 16 ≤ h.fld F.TRD_STAT_SKC 0 t)))

/-- A bind is due at that step (R432). -/
def trdBindDue (h : Hw) (t e : Nat) : Bool :=
  let p := (h.trdProgram t).toNat
  bit e 18 || (bit p 15 && decide (bits p 29 24 ≤ h.fld F.TRD_STAT_SHC 0 t + bits e 16 16))

/-- That step stalls (R432, R433). -/
def trdStalls (h : Hw) (t e : Nat) : Bool :=
  !bit e 22 && ((h.trdDrawDue t e && (h.trd t).txf.isEmpty) || (h.trdBindDue t e && decide (8 ≤ (h.trd t).rxf.length)))

/-- One step (R432 to R438); `parity` says that the entry read has a parity error. -/
def treadleStep (h : Hw) (t pads : Nat) (parity : Bool) : Hw :=
  if !h.flag F.TRD_CTL_EN 0 t then h
  else
    let inp := h.trdInputs t pads
    let i := h.fld F.TRD_STAT_STATE 0 t * 16 + inp
    let e := h.trdEntry t pads
    let g := ((h.setTrd t { h.trd t with pcfg := h.trdProgram t }).setFld F.TRD_STAT_IN 0 t inp).trdChange t i
    if parity then (g.trdStops t).raiseShared 1 .TRD 0x01 7 t none (detailOf .TRD [t, i])
    else if h.trdStalls t e then g.setFld F.TRD_STAT_STALLED 0 t 1
    else g.trdActs t e (bit inp 0) (h.trdDrawDue t e) (h.trdBindDue t e)

/-- The agent owns Treadle t (R420, R440). -/
def trdOwned (h : Hw) (ag : Agent) (t : Nat) : Bool := h.ownsCode (h.fld F.TRD_OWN_OWNER 0 t) ag

/-- EN is written 1 while it is 0 (R436). -/
def trdStart (h : Hw) (t : Nat) : Hw :=
  let h := (h.setFld F.TRD_STAT_STATE 0 t (h.fld F.TRD_CTL_START 0 t)).setFld F.TRD_STAT_RUN 0 t 1
  let h := (h.setFld F.TRD_SHEAF_BITS 0 t 0).setFld F.TRD_SKEIN_BITS 0 t 0
  let h := (h.setFld F.TRD_STAT_SHC 0 t 0).setFld F.TRD_STAT_SKC 0 t 0
  let h := (h.setTrd t { h.trd t with thread := false }).setFld F.TRD_FIFO_EMPTY 0 t 1
  (h.setFld F.TRD_CNT_COUNT 0 t (h.fld F.TRD_CNT_RELOAD 0 t)).setFld F.TRD_STAT_STALLED 0 t 0

/-- A write of TRD_CTL. -/
def trdCtlWrite (h : Hw) (ag : Agent) (t v : Nat) : Hw :=
  let was := h.flag F.TRD_CTL_EN 0 t
  h.guarded ag .TRD_CTL 0 t v (h.trdOwned ag t && decide (bits v 23 12 < 2048)) fun h =>
    let h := h.storeFields .TRD_CTL 0 t v
    if bit v 31 && !was then h.trdStart t else if !bit v 31 && was then h.trdStops t else h

def treadleEnable (h : Hw) (ag : Agent) (t : Nat) (v : Word) : Hw := h.trdCtlWrite ag t (v.toNat ||| 2 ^ 31)
def treadleDisable (h : Hw) (ag : Agent) (t : Nat) (v : Word) : Hw := h.trdCtlWrite ag t (setBits v.toNat 31 31 0)

/-- A write of TRD_CMD: COMMIT holds TRD_PCFG for the next step; FLUSH empties both FIFOs, only while EN is 0 (R435, R436). -/
def trdCmdWrite (h : Hw) (ag : Agent) (t v : Nat) : Hw :=
  h.guarded ag .TRD_CMD 0 t v (h.trdOwned ag t && !(bit v 1 && h.flag F.TRD_CTL_EN 0 t)) fun h =>
    let h := if bit v 0 then h.setTrd t { h.trd t with committed := some ((h.reg .TRD_PCFG 0 t).setWidth 32) } else h
    if bit v 1 then (h.setTrd t { h.trd t with txf := [], rxf := [] }).trdLevels t else h

def treadleCommit (h : Hw) (ag : Agent) (t : Nat) : Hw := h.trdCmdWrite ag t 1
def flush (h : Hw) (ag : Agent) (t : Nat) : Hw := h.trdCmdWrite ag t 2

/-- A write of TRD_TXF (R437). -/
def trdTxfWrite (h : Hw) (ag : Agent) (t : Nat) (v : Word) : Hw :=
  h.guarded ag .TRD_TXF 0 t v.toNat (h.trdOwned ag t) fun h =>
    let x := h.trd t
    if x.txf.length < 8 then (h.setTrd t { x with txf := x.txf ++ [v] }).trdLevels t else h.setFld F.TRD_FIFO_TXDROP 0 t 1

/-- A read of TRD_RXF, and its value (R437). -/
def trdRxfTake (h : Hw) (t : Nat) : Word × Hw :=
  let x := h.trd t
  match x.rxf with
  | w :: l => (w, (h.setTrd t { x with rxf := l }).trdLevels t)
  | [] => (0, h.setFld F.TRD_FIFO_RXEMPTY 0 t 1)

/-- Such a read by an agent; a VF sees no Treadle. -/
def trdRxfRead (h : Hw) (ag : Agent) (t : Nat) : Hw :=
  if h.sees ag .TRD_RXF 0 t then
    let (v, h) := h.trdRxfTake t
    h.answer ag v.toNat
  else h.answer ag 0

/-- A write of LUT entry i (R435). -/
def lutWrite (h : Hw) (ag : Agent) (t i : Nat) (v : Word) : Hw :=
  h.guarded ag .TRD_LUT 0 (1024 * t + i) v.toNat (h.trdOwned ag t) fun h =>
    let h := h.setReg .TRD_LUT 0 (1024 * t + i) (v.setWidth 64)
    if h.flag F.TRD_STAT_STALLED 0 t then h.setTrd t { h.trd t with written := (h.trd t).written ++ [i] } else h

/-- A write of TRD_PCFG, TRD_DIV or TRD_CNT by the owner, within the fields' ranges (R440), or of TRD_OWN by the security
domain. -/
def trdOtherWrite (h : Hw) (ag : Agent) (n : RegName) (t v : Nat) : Hw :=
  let fits :=
    match n with
    | .TRD_PCFG => decide (1 ≤ bits v 29 24 ∧ bits v 29 24 ≤ 32 ∧ 1 ≤ bits v 21 16 ∧ bits v 21 16 ≤ 32)
    | .TRD_DIV => decide (bits v 23 8 ≠ 0)
    | .TRD_OWN => decide (bits v 2 0 ≠ 7)
    | _ => true
  let may := if n = .TRD_OWN then h.secureAgent ag else h.trdOwned ag t
  h.guarded ag n 0 t v (may && fits) fun h => h.storeFields n 0 t v

end Sys2Proof.Machine.Hw

/-! ### The commands -/

namespace Sys2Proof.Machine

/-- TREADLE_STEP (R432): a step of Treadle t on the pads' synchronised levels. -/
def execTreadleStep (t : Nat) (pads : Nat) (parity : Bool) (s : State) : Host.Outcome State Fault Refusal :=
  s.runLive fun h => h.treadleStep t pads parity

/-- TREADLE_ENABLE (R436): a write of TRD_CTL with EN 1 of Treadle t. -/
def execTreadleEnable (ag : Agent) (t : Nat) (v : Word) (s : State) : Host.Outcome State Fault Refusal :=
  s.runLive fun h => h.treadleEnable ag t v

/-- TREADLE_DISABLE (R436): a write of TRD_CTL with EN 0 of Treadle t. -/
def execTreadleDisable (ag : Agent) (t : Nat) (v : Word) (s : State) : Host.Outcome State Fault Refusal :=
  s.runLive fun h => h.treadleDisable ag t v

/-- TREADLE_COMMIT (R435): a write of COMMIT to TRD_CMD of Treadle t. -/
def execTreadleCommit (ag : Agent) (t : Nat) (s : State) : Host.Outcome State Fault Refusal :=
  s.runLive fun h => h.treadleCommit ag t

/-- FLUSH (R436): a write of FLUSH to TRD_CMD of Treadle t. -/
def execFlush (ag : Agent) (t : Nat) (s : State) : Host.Outcome State Fault Refusal :=
  s.runLive fun h => h.flush ag t

/-- TRD_TXF_WRITE (R437): a write of TRD_TXF of Treadle t. -/
def execTrdTxfWrite (ag : Agent) (t : Nat) (v : Word) (s : State) : Host.Outcome State Fault Refusal :=
  s.runLive fun h => h.trdTxfWrite ag t v

/-- TRD_RXF_READ (R437): a read of TRD_RXF of Treadle t. -/
def execTrdRxfRead (ag : Agent) (t : Nat) (s : State) : Host.Outcome State Fault Refusal :=
  s.runLive fun h => h.trdRxfRead ag t

/-- LUT_WRITE (R435): a write of LUT entry i of Treadle t. -/
def execLutWrite (ag : Agent) (t : Nat) (i : Nat) (v : Word) (s : State) : Host.Outcome State Fault Refusal :=
  s.runLive fun h => h.lutWrite ag t i v

end Sys2Proof.Machine
end

