-- ==== Sys2Proof/Machine/Bar.lean ====
section
/-!
DEFINITION. The register space by address (R5, R9 to R11, R447, R448): which register an address names, what a read
returns, what a write of any register does. -/

namespace Sys2Proof.Machine

/-! ### Addresses -/

/-- A register's place: name, bank, index, and the byte within it. -/
structure Place where
  name : RegName
  bank : Nat
  idx : Nat
  byte : Nat
  deriving DecidableEq, Repr

/-- Byte `rel` of one bank of register n, as index and byte within the register, if it lies there. -/
def placeIn (n : RegName) (rel : Nat) : Option (Nat × Nat) :=
  let d := n.desc
  let i1 := if d.n1 = 1 then 0 else min (rel / d.s1) (d.n1 - 1)
  let r := rel - i1 * d.s1
  let i2 := if d.n2 = 1 then 0 else min (r / d.s2) (d.n2 - 1)
  let b := r - i2 * d.s2
  if b < d.width / 8 then some (i1 * d.n2 + i2, b) else none

/-- A register of a function exists: COM_VMOD for each of its vectors (R347), ring registers for each of its rings (R337). -/
def fnHas (o : Nat) (n : RegName) (j : Nat) : Bool :=
  match n with
  | .COM_VMOD => decide (j < Hw.vectors o)
  | .COM_RING_BASE | .COM_RING_CFG | .COM_RING_RET | .COM_RING_PUB | .COM_RING_STAT => decide (j ≤ Hw.ringLimit o)
  | _ => true

namespace Hw

/-- Register n, if byte `off` of BAR0 lies in it; `view` is the function whose copies of banked registers are meant. -/
def placeOf (h : Hw) (view off : Nat) (n : RegName) : Option Place :=
  let d := n.desc
  if off < d.base then none
  else
    let rel := off - d.base
    match d.bank with
    | .module => (placeIn n rel).map fun p => ⟨n, 0, p.1, p.2⟩
    | .perPf => (placeIn n rel).map fun p => ⟨n, view / 129, p.1, p.2⟩
    | .perFn => ((placeIn n rel).filter fun p => fnHas view n p.1).map fun p => ⟨n, view, p.1, p.2⟩
    | .perPort =>
      let i := min (rel / d.bankStride) 1
      (placeIn n (rel - i * d.bankStride)).map fun p => ⟨n, i, p.1, p.2⟩
    | .perPortCot => (placeIn n rel).map fun p => ⟨n, (h.portOf p.1).getD 0, p.1, p.2⟩
    | .perCot => (placeIn n rel).map fun p => ⟨n, 0, p.1, p.2⟩
    | .parish =>
      let i := rel / 0x200000
      if 16 ≤ i then none else (placeIn n (rel % 0x200000)).map fun p => ⟨n, i, p.1, p.2⟩
    | .cottage =>
      let i := rel / 0x1000
      if 4096 ≤ i then none else (placeIn n (rel % 0x1000)).map fun p => ⟨n, i, p.1, p.2⟩

/-- The register that holds byte `off` of BAR0, in the view of function `view`. -/
def regAt (h : Hw) (view off : Nat) : Option Place :=
  if 0x4000000 ≤ off then none else RegName.all.findSome? (h.placeOf view off)

/-- Offset `off`, which holds no register, lies in the agent's view (R447); R448 governs writes outside it. A chain channel's
owner sees its 64 bytes (R366). -/
def holeInView (h : Hw) (ag : Agent) (off : Nat) : Bool :=
  let within := fun (lo hi : Nat) => decide (lo ≤ off ∧ off ≤ hi)
  let rel := (off - 0x1000000) % 0x200000
  let n := (off - 0x1000000) / 0x200000
  let block := 256 * n + (rel - 0x100000) / 0x1000
  let c := (off - 0x3000000) / 0x1000
  let id := within 0 0xFF
  match ag with
  | .reeve _ _ => decide (off < 0x4000000)
  | .cottage _ => false
  | .pf p =>
    id || within 0x100 0xFFF || within 0x4000 0x6FFF || within 0x8000 0x9FFF ||
      (within 0x100000 0x104FFF && !(within (0x100100 + 0x40 * (1 - p)) (0x10013F + 0x40 * (1 - p)))) ||
      within 0x110000 0x16FFFF || within 0x200000 0x20FFFF ||
      (within 0x210000 0x21FFFF && h.cotOnPort ((off - 0x210000) / 0x10) p) || within 0x220000 0x27FFFF ||
      (within 0x280000 0x2BFFFF && h.cotOnPort ((off - 0x280000) / 0x40) p) || within 0x2C0000 0x2FFFFF ||
      within 0x300000 0x36FFFF ||
      (within 0x1000000 0x2FFFFFF && (decide (rel < 0x100000) || h.cotOnPort block p)) ||
      (within 0x3000000 0x3FFFFFF && (h.cotOnPort c p || (h.slotOf c).isNone))
  | .vf p v =>
    let o := 129 * p + v
    id || within 0x110000 0x16FFFF ||
      (within 0x1000000 0x2FFFFFF &&
        (if rel < 0x100000 then decide (0x7200 ≤ rel ∧ rel < 0x7400) && h.chainOwner n ((rel - 0x7200) / 0x40) == o
         else h.ownerOf block == some o)) ||
      (within 0x3000000 0x3FFFFFF &&
        ((h.ownerOf c == some o && !decide (0xE0 ≤ off % 0x1000 ∧ off % 0x1000 < 0x100)) || (h.slotOf c).isNone))

/-- A record of a dropped access to an offset that holds no register of the agent's view: of the cottage whose page it is
in, or of the module; its block is PLN at Plinth-reserved offsets (R200) and TOP elsewhere (log entry 43). -/
def holeRecord (h : Hw) (off cause detail : Nat) : Hw :=
  if 0x3000000 ≤ off ∧ off < 0x4000000 then
    let src : Blk := if 0xE0 ≤ off % 0x1000 ∧ off % 0x1000 < 0x100 then .PLN else .TOP
    h.raiseCot 0 src cause ((off - 0x3000000) / 0x1000) detail
  else h.raiseModule 0 .TOP cause detail

/-- A write of an offset that holds no register: dropped, and reported if it is outside the agent's view (R11, R448). -/
def writeHole (h : Hw) (ag : Agent) (off : Nat) : Hw :=
  if h.unreported ag || h.holeInView ag off then h
  else h.holeRecord off 0xF0 (agentBits ag * 2 ^ 48 + off % 2 ^ 32)

/-- An access of a size or alignment that R9 does not allow is reported, with the scope and block of the register that the agent
sees there; where it sees none, with those of `holeRecord` (log entry 61). -/
def badSize (h : Hw) (ag : Agent) (view off bytes : Nat) : Hw :=
  let detail := agentBits ag * 2 ^ 48 + bytes % 256 * 2 ^ 40 + off % 2 ^ 32
  if h.unreported ag then h
  else
    match (h.regAt view (off / 4 * 4)).filter fun q => h.sees ag q.name q.bank q.idx with
    | some q => h.dropRecord q.name q.bank q.idx 0xF1 detail
    | none => h.holeRecord off 0xF1 detail

/-! ### What registers show (R5, R10) -/

/-- Frames in state FREE (R309). -/
def freeFrames (h : Hw) : Nat :=
  65536 - 64 - (h.gran.map.filter fun e => decide (64 ≤ e.1) && e.2.state != .free).length

/-- COT_BEAM of cottage c (R61). -/
def beamView (h : Hw) (c : Nat) : Nat :=
  let s := h.stamp c
  s.frame % 2 ^ 32 * 2 ^ 32 + stampBits (h.cls c) s

/-- The bits of the fields of a register that a read shows: all but WO fields (R5). -/
def hideWo (fs : List FieldDesc) (v : Nat) : Nat := fs.foldl (fun v f => if f.acc = .wo then setBits v f.hi f.lo 0 else v) v

/-- What a register shows, where reading it changes nothing: what it holds, or what other state makes of it. -/
def shown (h : Hw) (n : RegName) (i j : Nat) : Nat :=
  let v := (h.reg n i j).toNat
  match n with
  | .ARM_PSTAT => setBits v 27 27 (b2n (h.drained j))
  | .FAB_PTM =>
    let p := h.port (h.fld F.FAB_PTM_PORT)
    setBits v 31 31 (b2n (p.ptmEn && p.ptmFresh))
  | .GRN_FREE => h.freeFrames
  | .GRN_OWN => setBits v 63 32 (h.quotaOf j)
  | .COM_RING_STAT => setBits v 0 0 (b2n (h.ringBlocked i j))
  | .TMR_PAIR => h.fld F.TMR_CNT_CNT 0 (2 * j) + h.fld F.TMR_CNT_CNT 0 (2 * j + 1) * 2 ^ 32
  | .PIC_PEND => wordOf j fun s => (h.parish i).pic.pend.contains s
  | .PIC_ACT => wordOf j fun s => (h.parish i).pic.act.contains s
  | .PIC_LVL => wordOf j fun s => (h.parish i).pic.level.contains s
  | .PIC_SET => 0
  | .TMR_STAT => if h.tmrHigh j then 0 else v
  | .COT_STATE => (h.ctx i).st.ctorIdx
  | .COT_BEAM => h.beamView i
  | .COT_BELL_OFS => (h.ctx i).bellOfs.toNat
  | .TLY_STAT => h.tallyFill i * 2 ^ 16 + (h.ctx i).nextSeq % 4096
  | .COT_G => (h.ctxView i j).toNat
  | .COT_SP => (h.ctxView i 16).toNat
  | .COT_PC => (h.ctxView i 17).toNat
  | .COT_FL => (h.ctxView i 18).toNat
  | .HAY_SLOTS => (List.range 8).foldl (fun a s => a + b2n (((h.cot i).snaps.getD s none).isSome) * 2 ^ s) 0
  | .HAY_SFRAME => (((h.cot i).snaps.getD j none).map (·.frame % 2 ^ 32)).getD 0
  | _ => hideWo n.desc.fields v

/-- What only real time knows of COT_PERF_L2MISS and COT_PERF_RUNCYC, the L2 misses of fetches and the cycles in RUN since the
register was last read, is a free amount (R134; log entry 51). -/
def perfDrift (h : Hw) (c j : Nat) : Hw :=
  let (v, h) := h.draw
  h.countWrap F.COT_PERF_COUNT c j v.toNat

/-- A read of a whole register by an agent that sees it: its value, and the effect of reading PIC_TAKE (R389), TMR_CNT
(R414), TRD_RXF (R437) and LAN_UART_RX. The levels of undriven Lanes, tach counts and the Porch's times are free values. -/
def readReg (h : Hw) (ag : Agent) (n : RegName) (i j : Nat) : Nat × Hw :=
  match n with
  | .PIC_TAKE => h.picTakeRead i j
  | .TMR_CNT =>
    match readerNo ag with
    | some r => h.tmrCntRead r j
    | none => (0, h)
  | .TRD_RXF =>
    let (v, h) := h.trdRxfTake j
    (v.toNat, h)
  | .LAN_UART => if j % 6 = 4 then h.uartRxRead (j / 6) else (h.shown n i j, h)
  | .LAN_FAN => if j % 3 = 1 then h.fanTach (j / 3) else (h.shown n i j, h)
  | .LAN_IN =>
    let (v, h) := h.draw
    ((List.range 16).foldl (fun a b => a + b2n (h.laneLevel (16 * j + b) (bit v.toNat b)) * 2 ^ b) 0, h)
  | .POR_HBM_HINT =>
    let (v, h) := h.draw
    ((List.range 4).foldl (fun a k => a + h.porchHint k (bits v.toNat (16 * k + 15) (16 * k)) * 2 ^ (16 * k)) 0, h)
  | .COT_PERF =>
    let h := if 4 ≤ j then h.perfDrift i j else h
    (h.shown n i j, h)
  | _ => (h.shown n i j, h)

/-- A read of 4 bytes at an aligned offset: 0 where the agent sees no register (R11, R448). -/
def read4 (h : Hw) (ag : Agent) (view off : Nat) : Nat × Hw :=
  match h.regAt view off with
  | none => (0, h)
  | some q =>
    if h.sees ag q.name q.bank q.idx then
      let (v, h) := h.readReg ag q.name q.bank q.idx
      (v / 2 ^ (8 * q.byte) % 2 ^ 32, h)
    else (0, h)

/-- A read of n bytes at an offset (R9, R10). -/
def readBar (h : Hw) (ag : Agent) (view off n : Nat) : Nat × Hw :=
  if n = 4 ∧ off % 4 = 0 then h.read4 ag view off
  else if n = 8 ∧ off % 8 = 0 then
    match (h.regAt view off).filter fun q => q.name.desc.width == 64 with
    | some q => if h.sees ag q.name q.bank q.idx then h.readReg ag q.name q.bank q.idx else (0, h)
    | none =>
      let (a, h) := h.read4 ag view off
      let (b, h) := h.read4 ag view (off + 4)
      (a + b * 2 ^ 32, h)
  else (2 ^ (8 * n) - 1, h.badSize ag view off n)

/-! ### Writes -/

/-- Values that a register's chapter refuses, of registers without a rule of their own here (R208, R328, R329, R276, R500,
R439, R366). -/
def valueOk (n : RegName) (v : Nat) : Bool :=
  match n with
  | .BEL_PACE => decide (64 ≤ bits v 7 0)
  | .PWR_DROOP => decide (650 ≤ bits v 31 16 ∧ bits v 31 16 ≤ 6000 ∧ 5 ≤ bits v 5 0 ∧ bits v 5 0 ≤ 50)
  | .PWR_TLIM => decide (bits v 15 8 ≤ 104 ∧ bits v 7 0 ≤ 114)
  | .LAN_BELL => decide (bits v 15 8 ≠ 0)
  | .LOM_CTL => decide (bits v 15 8 ≠ 0)
  | .RLF_LUM_CTL => decide (1 ≤ bits v 6 0 ∧ bits v 6 0 ≤ 64)
  | .ARB_W => ([0, 8, 16, 24, 32, 40] : List Nat).all fun k => bits v (k + 7) k != 0
  | .HBM_W => decide (bits v 7 0 ≠ 0)
  | .ARB_AGE | .HBM_AGE => decide (4 ≤ bits v 6 0 ∧ bits v 6 0 ≤ 64)
  | .HBM_SR_CTL => decide (bits v 19 4 ≠ 0)
  | .CAR_CH_OWN => decide (bits v 7 0 ≤ 128)
  | .CHS_P_CFG => decide (bits v 31 20 ≤ 2047)
  | _ => true

/-- The write would change what the register holds. -/
def changes (h : Hw) (n : RegName) (i j v : Nat) : Bool :=
  mergeFields n.desc.fields (h.reg n i j).toNat v != (h.reg n i j).toNat

/-- A register that only an IDLE chain channel takes (R366). -/
def idleOnly (n : RegName) : Bool :=
  match n with
  | .CAR_CH_HEAD | .CAR_CH_RING | .CAR_CH_OWN => true
  | _ => false

/-- The agent is a Reeve core, as the writer of RVE registers must be (R136, R137, R399). -/
def isCore (ag : Agent) : Bool :=
  match ag with
  | .reeve _ _ => true
  | _ => false

/-- The writer may write the register: FAB_LTR belongs to its port's PF (R468), the RVE registers to the cores, timer
registers to the unit's owner (R415). -/
def writerOk (h : Hw) (ag : Agent) (n : RegName) (j : Nat) : Bool :=
  match n with
  | .FAB_LTR => (match ag with
    | .pf p => p == j
    | _ => true)
  | .RVE_STAT | .RVE_EPC | .RVE_EXC | .RVE_VEC | .RVE_PERF | .RVE_IRQ | .RVE_WIN => isCore ag
  | .TMR_STAT | .TMR_CAPR | .TMR_CAPF => h.ownsCode (h.fld F.TMR_OWN_OWNER 0 j) ag
  | .TMR_PAIR => h.ownsCode (h.fld F.TMR_OWN_OWNER 0 (2 * j)) ag
  | _ => true

/-- A write of a register without a rule of its own: stored by access type (R5) unless it is refused. -/
def plainWrite (h : Hw) (ag : Agent) (n : RegName) (i j v : Nat) : Hw :=
  let ok := h.writerOk ag n j && valueOk n v &&
    !(idleOnly n && h.fld F.CAR_CH_STAT_STATE i j != 0 && h.changes n i j v)
  h.guarded ag n i j v ok fun h => h.storeFields n i j v

/-- A write of ARB_TAGS: HWM is the highest INUSE since the write, and so never below the present one (R327). -/
def tagsWrite (h : Hw) (ag : Agent) (n v : Nat) : Hw :=
  let h := h.plainWrite ag .ARB_TAGS n 0 v
  h.setFld F.ARB_TAGS_HWM n 0 (max (h.fld F.ARB_TAGS_HWM n) (h.fld F.ARB_TAGS_INUSE n))

/-- COMMIT copies the written Plinth set into the pending set (R202). -/
def plinthCommit (h : Hw) (ag : Agent) (c v : Nat) : Hw :=
  h.guarded ag .PLN_CMD 0 c v true fun h =>
    if bit v 0 then
      let ctl := (h.reg .PLN_CTL 0 c).toNat
      let r := (h.reg .PLN_RECT 0 c).toNat
      let set : PlinthSet :=
        { en := bit ctl 0, rgb := h.fld F.PLN_FALLBACK_RGB 0 c, i8 := bit ctl 1, base := (h.reg .PLN_BASE 0 c).toNat, palBase := (h.reg .PLN_PAL 0 c).toNat,
          x := bits r 10 0, y := bits r 26 16, w := bits r 42 32, h := bits r 58 48,
          pitch := (h.reg .PLN_PITCH 0 c).toNat }
      (h.modRelief c fun x => { x with pending := some set }).setFld F.PLN_STAT_PENDING 0 c 1
    else h

/-- A core stops at an instruction boundary outside a delay slot while its HALT is 1, and goes on while it is 0 (R136);
timer units that name it follow (R412). -/
def rveBoundary (h : Hw) (r : Nat) : Hw :=
  let want := h.flag F.RVE_CTL_HALT 0 r
  (h.setFld F.RVE_STAT_HALTED 0 r (b2n (want && (h.reeve r).slot.isNone))).tmrModes

/-- A write of RVE_CTL (R129, R131, R136): a PF writes HALT alone, while DBG_EN is 1; DBG_EN and BMODE are the core's own. -/
def rveCtlWrite (h : Hw) (ag : Agent) (r v : Nat) : Hw :=
  let old := (h.reg .RVE_CTL 0 r).toNat
  let moves := fun (hi lo : Nat) => bits v hi lo != bits old hi lo
  let ok := match ag with
    | .reeve s _ => s == r || !(moves 3 3 || moves 1 1)
    | .pf _ => bit old 3 && !moves 3 1
    | _ => false
  h.guarded ag .RVE_CTL 0 r v ok fun h => (h.storeFields .RVE_CTL 0 r v).rveBoundary r

/-- A write of LAN_UART, LAN_SPI, LAN_I2C or LAN_FAN: TX and CMD act; what the bus answers is a free value. -/
def busWrite (h : Hw) (ag : Agent) (n : RegName) (j v : Nat) : Hw :=
  let w := BitVec.ofNat 32 v
  match n with
  | .LAN_UART => if j % 6 = 3 then h.uartTx ag (j / 6) (BitVec.ofNat 8 v) else h.peripheralStore ag n 6 5 (j / 6) (j % 6) w
  | .LAN_SPI =>
    if j % 7 = 3 then
      let (x, h) := h.draw
      h.spiTx ag (j / 7) w (x.setWidth 32)
    else h.peripheralStore ag n 7 6 (j / 7) (j % 7) w
  | .LAN_I2C =>
    if j % 7 = 4 then
      let (x, h) := h.draw
      let (y, h) := h.draw
      h.i2cCmd ag (j / 7) w (x.setWidth 32) (y.setWidth 32)
    else h.peripheralStore ag n 7 6 (j / 7) (j % 7) w
  | _ => h.peripheralStore ag n 3 2 (j / 3) (j % 3) w

/-- A write of module registers, or of those banked by PF, port or function. -/
def writeModule (h : Hw) (ag : Agent) (n : RegName) (i j v : Nat) : Hw :=
  let w := BitVec.ofNat 32 v
  let d := BitVec.ofNat 64 v
  let op := bits v 3 0
  let vec := bits v 15 4
  match n with
  | .PWR_CTL => h.pwrCtlWrite ag v
  | .PWR_TEST_CMD => h.testCmdWrite ag i op (bits v 21 16) vec
  | .PWR_BOOT_CMD => h.guarded ag n i j v true fun h => if op = 1 then h.go i vec else h
  | .ERR_INJ => h.injected ag w
  | .ARM_CMD => h.armCmdWrite ag i op (bits v 31 16) vec
  | .LOM_STG_CMD => h.stageCmdWrite ag i op (bits v 31 16) vec
  | .CHR_TDM_CTL => h.tdmConfigWrite ag j w
  | .CHR_AMCLK => h.amclkSourceWrite ag w
  | .FAB_PTM_EPOCH => h.epochWrite ag d
  | .GRN_CMD => h.grnCmdWrite ag i op vec
  | .COM_REGION_BASE => h.regionRegister ag i false d
  | .COM_REGION_SIZE => h.regionRegister ag i true d
  | .COM_BAR2 => h.bar2Enable ag i w
  | .COM_EQ => h.comEqWrite ag i w
  | .COM_RING_BASE => h.ringBaseWrite ag i j v
  | .COM_RING_CFG => h.ringEnable ag i j w
  | .COM_RING_RET => h.comRingRet ag i j w
  | .POR_EDP_CTL => h.edpCtlWrite ag j v
  | .POR_EDP_DST => h.edpDstWrite ag j v
  | .POR_EDP_TIM | .POR_EDP_FB | .POR_EDP_BORDER | .POR_EDP_DEFER | .POR_EDP_SU | .POR_EDP_AUX | .POR_EDP_STAT =>
    h.edpOtherWrite ag n i j (j / n.desc.n2) v
  | .POR_S1_CTL => h.porS1CtlWrite ag j w
  | .PLN_CMD => h.plinthCommit ag j v
  | .LAN_CFG =>
    let (x, h) := h.draw
    h.lanCfgWrite ag j v (bit x.toNat 0)
  | .LAN_OUT => h.lanOutWrite ag j w
  | .LAN_SEC => h.lanSecWrite ag w
  | .LAN_UART | .LAN_SPI | .LAN_I2C | .LAN_FAN => h.busWrite ag n j v
  | .TRD_CTL => h.trdCtlWrite ag j v
  | .TRD_CMD => h.trdCmdWrite ag j v
  | .TRD_TXF => h.trdTxfWrite ag j w
  | .TRD_LUT => h.lutWrite ag (j / 1024) (j % 1024) w
  | .TRD_PCFG | .TRD_DIV | .TRD_CNT | .TRD_STAT | .TRD_FIFO | .TRD_RXF | .TRD_SHEAF | .TRD_SKEIN | .TRD_OWN =>
    h.trdOtherWrite ag n j v
  | .TMR_CTL => h.tmrCtlWrite ag j v
  | .TMR_CNT => h.tmrCntWrite ag j v
  | .TMR_CMP => h.tmrCmpWrite ag j w
  | .TMR_OWN => h.tmrOwnWrite ag j v
  | .RVE_CTL => h.rveCtlWrite ag j v
  | .RVE_FW_CMD => h.fwCmdWrite ag op vec
  | .RVE_FW_CTL => h.fwCtlWrite ag v
  | _ => h.plainWrite ag n i j v

/-- A write of a parish's or a cottage's registers. An ABORT written here drains a free number of bytes (R362). -/
def writeBlock (h : Hw) (ag : Agent) (n : RegName) (i j v : Nat) : Hw :=
  let w := BitVec.ofNat 32 v
  let d := BitVec.ofNat 64 v
  match n with
  | .BEL_CTL => h.belCtlWrite ag i v
  | .BEL_PERIOD => h.belPeriodWrite ag i v
  | .CHR_RT => h.routeWrite ag (256 * i + j / 4) (j % 4) w
  | .LRD_RET => h.retentionWrite ag i d
  | .CAR_RC_CTL =>
    let (x, h) := h.draw
    h.regCtlWrite ag i j v x.toNat
  | .CAR_CH_CTL =>
    let (x, h) := h.draw
    h.chainCtlWrite ag i j v x.toNat
  | .CAR_CH_DB => h.carChDb ag i j
  | .CAR_CTL => h.carCtlWrite ag i v
  | .CHS_P_OWN => h.chisOwnWrite ag i j v
  | .CHS_P_CTL => h.chisCtlWrite ag i j v
  | .ARB_URG_STAT => (h.plainWrite ag n i j v).picSync i
  | .ARB_TAGS => h.tagsWrite ag i v
  | .PIC_EN => h.picEnWrite ag i j w
  | .PIC_ACT => h.picAct ag i j w
  | .PIC_SET => h.picSet ag i j w
  | .GRN_CMAP => h.cmapWrite ag (256 * i + j / 256) (j % 256) d
  | .COT_CTL => h.cotCtlWrite ag i v .sound
  | .TLY_HWM => h.hwmWrite ag i v
  | .COT_IN_VAL => h.inputPush ag i w
  | .COT_G => h.cotContextWrite ag i j w
  | .COT_SP => h.cotContextWrite ag i 16 w
  | .COT_PC => h.cotContextWrite ag i 17 w
  | .COT_FL => h.cotContextWrite ag i 18 w
  | .POR_S0_CTL => h.streamEnable ag i w
  | .CHR_S_CTL => h.hostAudioEnable ag i w
  | .CHR_BUS => h.chrBusWrite ag i w
  | .HAY_CMD => h.hayCmdWrite ag i (bits v 3 0) (bits v 6 4) (bits v 27 16)
  | _ => h.plainWrite ag n i j v

/-- A write of a whole register. -/
def writeReg (h : Hw) (ag : Agent) (n : RegName) (i j v : Nat) : Hw :=
  match n.desc.bank with
  | .parish | .cottage => h.writeBlock ag n i j v
  | _ => h.writeModule ag n i j v

/-- The value that a write of half a 64-bit register carries for the other half: present values, and 0 for fields on which a
1 acts. -/
def halfNeutral (h : Hw) (n : RegName) (i j : Nat) : Nat :=
  n.desc.fields.foldl (fun v f =>
    match f.acc with
    | .w1c | .w1s | .wo => setBits v f.hi f.lo 0
    | _ => v) (h.reg n i j).toNat

/-- A write of 4 bytes at an aligned offset. -/
def write4 (h : Hw) (ag : Agent) (view off v : Nat) : Hw :=
  match h.regAt view off with
  | none => h.writeHole ag off
  | some q =>
    if q.name.desc.width = 64 then
      h.writeReg ag q.name q.bank q.idx (setBits (h.halfNeutral q.name q.bank q.idx) (8 * q.byte + 31) (8 * q.byte) v)
    else h.writeReg ag q.name q.bank q.idx (v % 2 ^ 32)

/-- A write of n bytes at an offset (R9 to R11, R448): 8 bytes at a 64-bit register write it whole, and at a pair of 32-bit
registers write both. Of a dropped 8-byte write at such a pair or at a hole, each half is a write of its own with its own record
(log entry 44). -/
def writeBar (h : Hw) (ag : Agent) (view off n v : Nat) : Hw :=
  if !h.reaches ag then h.unreached ag
  else if n = 4 ∧ off % 4 = 0 then h.write4 ag view off v
  else if n = 8 ∧ off % 8 = 0 then
    match (h.regAt view off).filter fun q => q.name.desc.width == 64 with
    | some q => h.writeReg ag q.name q.bank q.idx (v % 2 ^ 64)
    | none => (h.write4 ag view off v).write4 ag view (off + 4) (v / 2 ^ 32)
  else h.badSize ag view off n

end Hw

end Sys2Proof.Machine
end

