-- ==== Sys2Proof/Machine/Operands.lean ====
section
/-!
DEFINITION. The operand forms of the Hob's instructions (R95 to R100): what the prefix bytes say and when they are
legal, lengths, immediates, effective addresses, and the register results of R113 to R115. -/

namespace Sys2Proof.Machine

/-! ### Prefix bytes (R95, R96) -/

/-- The spaces of a memory operation (R106). -/
inductive Space where
  | default | io | vram | priv
  deriving DecidableEq, Repr

/-- The prefix groups that an opcode class accepts (R100). -/
structure Accepts where
  width : Bool
  limm : Bool
  space : Bool
  deriving DecidableEq, Repr

/-- A prefix byte of the width group. -/
def isWidth (b : Byte) : Bool := b == 0xF0 || b == 0xF1
/-- The prefix byte LIMM. -/
def isLimm (b : Byte) : Bool := b == 0xF2
/-- A prefix byte of the space group. -/
def isSpace (b : Byte) : Bool := b == 0xF4 || b == 0xF5 || b == 0xF6

/-- The operation width in bits. -/
def preWidth (pre : List Byte) : Nat := if pre.contains 0xF0 then 8 else if pre.contains 0xF1 then 16 else 32
/-- The instruction carries LIMM. -/
def preLimm (pre : List Byte) : Bool := pre.contains 0xF2
/-- The space that the prefixes name. -/
def preSpace (pre : List Byte) : Space :=
  if pre.contains 0xF4 then .io else if pre.contains 0xF5 then .vram else if pre.contains 0xF6 then .priv else .default

/-- The prefix bytes are legal for the context and the opcode class (R96). -/
def preLegal (who : Ctx) (a : Accepts) (pre : List Byte) : Bool :=
  decide (pre.length ≤ 3) && (pre.all fun b => isWidth b || isLimm b || isSpace b) &&
    decide (pre.countP isWidth ≤ 1) && decide (pre.countP isLimm ≤ 1) && decide (pre.countP isSpace ≤ 1) &&
    (a.width || !pre.any isWidth) && (a.limm || !pre.any isLimm) && (a.space || !pre.any isSpace) &&
    (match who with
      | .cottage _ => true
      | .reeve _ => !pre.contains 0xF5)

/-- The context is a cottage. -/
def ctxIsCottage : Ctx → Bool
  | .cottage _ => true
  | .reeve _ => false

/-- The fault of an instruction's encoding (R96), 0 if it has none: ILLEGAL where `legal` fails, and otherwise PRIV
for a cottage's PRIV prefix or an instruction that only Reeve cores have. -/
def encodingFault (who : Ctx) (a : Accepts) (pre : List Byte) (legal reeveOnly : Bool) : Nat :=
  if !(preLegal who a pre && legal) then 0x01
  else if ctxIsCottage who && (reeveOnly || pre.contains 0xF6) then 0x02
  else 0

/-! ### Immediates and lengths (R99, R100) -/

/-- Bytes of an immediate, displacement or branch offset field. -/
def immLen (pre : List Byte) : Nat := if preLimm pre then 4 else 1

/-- The value of a signed field: one byte sign-extended, or four under LIMM. -/
def immSigned (pre : List Byte) (v : Word) : Word := if preLimm pre then v else (v.setWidth 8).signExtend 32

/-- The value of a shift count field: one byte zero-extended, or four under LIMM. -/
def immCount (pre : List Byte) (v : Word) : Word := if preLimm pre then v else (v.setWidth 8).setWidth 32

/-- Bytes of an instruction with OB, AB and a displacement where its mode has one (R98). -/
def memLen (pre : List Byte) (m : MemArgs) : Nat :=
  pre.length + 3 + (if m.amode = 1 ∨ m.amode = 2 then immLen pre else 0)

/-- Bytes of a two-operand ALU instruction. -/
def aluLen (pre : List Byte) (x : AluArgs) : Nat :=
  pre.length + 2 + (match x with
    | .reg _ _ => 0
    | .imm _ _ _ => immLen pre)

/-- Bytes of JMP or CALL. -/
def jumpLen (pre : List Byte) (j : JumpArgs) : Nat :=
  pre.length + 1 + (match j with
    | .rel _ => immLen pre
    | .reg _ => 1)

/-- The fields that an addressing mode requires to be 0 are 0 (R98). -/
def memFields (m : MemArgs) : Bool :=
  match m.amode.toNat with
  | 0 | 1 => m.scale == 0 && m.ob.b == 0
  | 2 => m.base == 0 && m.scale == 0 && m.ob.b == 0
  | _ => true

/-- The length of the instruction whose bytes `rd` gives, from byte k on (R95, R100): for the delay slot that a transfer must
step over (R130). `rd` fails where a byte cannot be fetched. -/
def lengthFrom (rd : Nat → Except Nat Byte) : Nat → Nat → Bool → Except Nat Nat
  | 0, k, _ => .ok (k + 1)
  | fuel + 1, k, limm =>
    match rd k with
    | .error e => .error e
    | .ok b =>
      let v := b.toNat
      let imm := if limm then 4 else 1
      let mem : Except Nat Nat :=
        match rd (k + 2) with
        | .error e => .error e
        | .ok ab => .ok (k + 3 + (if bits ab.toNat 7 6 = 1 ∨ bits ab.toNat 7 6 = 2 then imm else 0))
      if 0xF0 ≤ v ∧ v ≤ 0xF7 then lengthFrom rd fuel (k + 1) (limm || v == 0xF2)
      else if v < 0x40 then .ok (k + 2 + (if v % 2 = 1 then imm else 0))
      else if v < 0x58 then .ok (k + 2)
      else if v = 0x58 then .ok (k + 3)
      else if v = 0x59 ∨ v = 0x70 ∨ v = 0x71 ∨ v = 0x72 ∨ v = 0x75 ∨ v = 0x76 then mem
      else if (0x60 ≤ v ∧ v < 0x70) ∨ (0x90 ≤ v ∧ v < 0xA0) ∨ v = 0x78 ∨ v = 0x7A then .ok (k + 1 + imm)
      else if v = 0x73 ∨ v = 0x74 ∨ v = 0x79 ∨ v = 0x7B ∨ v = 0x7F ∨ v = 0x85 ∨ v = 0x86 then .ok (k + 2)
      else if v = 0x7E then .ok (k + 3)
      else .ok (k + 1)

/-! ### Registers and addresses -/

/-- g[n]. -/
def Hob.read (x : Hob) (n : BitVec 4) : Word := x.g[n.toNat]'n.isLt

/-- The effective address (R98). -/
def Hob.address (x : Hob) (pre : List Byte) (m : MemArgs) : Word :=
  match m.amode.toNat with
  | 0 => x.read m.base
  | 1 => x.read m.base + immSigned pre m.disp
  | 2 => x.sp + immSigned pre m.disp
  | _ => x.read m.base + (x.read m.ob.b <<< m.scale.toNat)

/-! ### Results (R113 to R115) -/

/-- A result that changes all of g[n]. -/
def toReg (n : BitVec 4) (d : Nat) (v : Word) : PendingWrite := ⟨.g n, d, BitVec.allOnes 32, v, 0⟩
/-- A result that changes the low w bits of g[n] (R102). -/
def toLow (w : Nat) (n : BitVec 4) (d : Nat) (v : Word) : PendingWrite := ⟨.g n, d, BitVec.ofNat 32 (2 ^ w - 1), v, 0⟩
/-- A result in FL that changes the bits of a mask. -/
def toFl (d : Nat) (mask v : Word) : PendingWrite := ⟨.fl, d, mask, v, 0⟩
/-- A result in SP. -/
def toSp (v : Word) : PendingWrite := ⟨.sp, 1, BitVec.allOnes 32, v, 0⟩

/-- The context as an instruction that issues now finds it: one position on, what lands there landed in issue order
(R113, R115). -/
def Hob.issue (x : Hob) : Hob :=
  let q := x.queue.map fun w => { w with dist := w.dist - 1 }
  { (q.filter fun w => w.dist == 0).foldl Hw.Hob.landOne x with queue := q.filter fun w => w.dist != 0 }

end Sys2Proof.Machine
end

