-- ==== Sys2Proof/Machine/Flags.lean ====
section
/-!
DEFINITION. The arithmetic of the Hob with its flags (R93, R101 to R105, R118, R119). Values are computed as numbers
at the operation width and narrowed at the end. -/

namespace Sys2Proof.Machine

/-! ### FL (R93) -/

/-- The flag C of FL. -/
def flC (fl : Word) : Bool := fl.getLsbD 0
/-- Z. -/
def flZ (fl : Word) : Bool := fl.getLsbD 1
/-- N. -/
def flN (fl : Word) : Bool := fl.getLsbD 2
/-- V. -/
def flV (fl : Word) : Bool := fl.getLsbD 3
/-- DZ. -/
def flDz (fl : Word) : Bool := fl.getLsbD 4
/-- IE. -/
def flIe (fl : Word) : Bool := fl.getLsbD 7

/-- A condition code holds (R105). -/
def holds (cc : BitVec 4) (fl : Word) : Bool :=
  match cc.toNat with
  | 0 => flZ fl
  | 1 => !flZ fl
  | 2 => flC fl
  | 3 => !flC fl
  | 4 => flN fl
  | 5 => !flN fl
  | 6 => flV fl
  | 7 => !flV fl
  | 8 => !flC fl && !flZ fl
  | 9 => flC fl || flZ fl
  | 10 => flN fl == flV fl
  | 11 => flN fl != flV fl
  | 12 => !flZ fl && flN fl == flV fl
  | 13 => flZ fl || flN fl != flV fl
  | 14 => true
  | _ => flDz fl

/-! ### Operations (R101, R118, R119) -/

/-- A result with the flags its operation defines: C and V where it defines them; N and Z always follow the result. -/
structure AluOut where
  value : Nat
  c : Option Bool
  v : Option Bool
  deriving DecidableEq, Repr

/-- The two-operand operations, in the order of opcode[5:2]. -/
inductive AluOp where
  | mov | add | adc | sub | sbc | cmp | and | or | xor | tst | shl | shr | sar | rol | ror | mul
  deriving DecidableEq, Repr

/-- The operation takes a shift count, not an operand of its width. -/
def AluOp.shifts : AluOp → Bool
  | .shl | .shr | .sar | .rol | .ror => true
  | _ => false

/-- The operation writes a register. -/
def AluOp.writes : AluOp → Bool
  | .cmp | .tst => false
  | _ => true

/-- d + s + ci at width w. -/
def aluAddOut (w d s ci : Nat) : AluOut :=
  let r := (d + s + ci) % 2 ^ w
  ⟨r, some (decide (2 ^ w ≤ d + s + ci)), some (signed w d + signed w s + ci != signed w r)⟩

/-- d − s − bi at width w. -/
def aluSubOut (w d s bi : Nat) : AluOut :=
  let r := (d + 2 * 2 ^ w - s - bi) % 2 ^ w
  ⟨r, some (decide (d < s + bi)), some (signed w d - signed w s - bi != signed w r)⟩

/-- A shift or rotate of d by n at width w (R119); a count of 0 leaves C. -/
def aluShiftOut (op : AluOp) (w d n : Nat) : AluOut :=
  if n = 0 then ⟨d, none, some false⟩
  else
    let m := n % w
    match op with
    | .shl => ⟨if w ≤ n then 0 else d * 2 ^ n % 2 ^ w, some (decide (n ≤ w) && bit d (w - n)), some false⟩
    | .shr => ⟨if w ≤ n then 0 else d / 2 ^ n, some (decide (n ≤ w) && bit d (n - 1)), some false⟩
    | .sar =>
      let k := min n (w - 1)
      let r := (signed w d / (2 ^ k : Nat) % (2 ^ w : Nat)).toNat
      ⟨r, some (if w ≤ n then bit d (w - 1) else bit d (n - 1)), some false⟩
    | .rol =>
      let r := (d * 2 ^ m + d / 2 ^ (w - m)) % 2 ^ w
      ⟨r, some (bit r 0), some false⟩
    | _ =>
      let r := (d / 2 ^ m + d * 2 ^ (w - m)) % 2 ^ w
      ⟨r, some (bit r (w - 1)), some false⟩

/-- A two-operand operation at width w: d and s of that width, n the shift count, c the flag C. -/
def aluOut (op : AluOp) (w d s n : Nat) (c : Bool) : AluOut :=
  match op with
  | .mov => ⟨s, none, none⟩
  | .add => aluAddOut w d s 0
  | .adc => aluAddOut w d s (b2n c)
  | .sub | .cmp => aluSubOut w d s 0
  | .sbc => aluSubOut w d s (b2n c)
  | .and | .tst => ⟨d &&& s, none, none⟩
  | .or => ⟨d ||| s, none, none⟩
  | .xor => ⟨d ^^^ s, none, none⟩
  | .shl | .shr | .sar | .rol | .ror => aluShiftOut op w d n
  | .mul =>
    let r := d * s % 2 ^ w
    ⟨r, some (decide (2 ^ w ≤ d * s)), some (signed w d * signed w s != signed w r)⟩

/-- NEG at width w (R118, R119). -/
def negOut (w d : Nat) : AluOut := ⟨(2 ^ w - d) % 2 ^ w, some (d != 0), some (d == 2 ^ (w - 1))⟩

/-- The bits of FL that a result defines. -/
def AluOut.mask (o : AluOut) : Word :=
  6 ||| (if o.c.isSome then 1 else 0) ||| (if o.v.isSome then 8 else 0)

/-- FL's bits as a result of width w defines them. -/
def AluOut.flags (o : AluOut) (w : Nat) : Word :=
  (if o.value % 2 ^ w = 0 then 2 else 0) ||| (if bit o.value (w - 1) then 4 else 0) |||
    (if o.c = some true then 1 else 0) ||| (if o.v = some true then 8 else 0)

/-- The result in FL, landing at distance d. -/
def AluOut.toFl (o : AluOut) (w d : Nat) : PendingWrite := Machine.toFl d o.mask (o.flags w)

/-! ### Products and quotients (R103, R119) -/

/-- The high word of the product, signed or unsigned. -/
def mulHigh (sgn : Bool) (d s : Word) : Word :=
  if sgn then BitVec.ofInt 32 (d.toInt * s.toInt / 4294967296) else BitVec.ofNat 32 (d.toNat * s.toNat / 4294967296)

/-- Quotient, remainder and V of a divide (R119): truncation toward zero; the edge results by their cases. -/
def divide (sgn : Bool) (d s : Word) : Word × Word × Bool :=
  if s = 0 then ((if sgn && d.msb then 1 else BitVec.allOnes 32), d, false)
  else if sgn then
    if d = 0x80000000 ∧ s = BitVec.allOnes 32 then (0x80000000, 0, true)
    else (BitVec.ofInt 32 (d.toInt.tdiv s.toInt), BitVec.ofInt 32 (d.toInt.tmod s.toInt), false)
  else (BitVec.ofNat 32 (d.toNat / s.toNat), BitVec.ofNat 32 (d.toNat % s.toNat), false)

end Sys2Proof.Machine
end

