-- ==== Sys2Proof/Machine/HobSpace.lean ====
section
/-!
DEFINITION. The Hob's memory spaces (R106 to R111, R137, R424): what a load or store of an instruction does in each,
for a cottage and for a Reeve core. -/

namespace Sys2Proof.Machine

/-- Why an access does not complete: a Hob fault cause (R124); a wait of the context, in which the instruction is held or
issued again; a containment with a Granary cause; or a Module-fatal state already entered. -/
inductive Stop where
  | fault (cause : Nat)
  | hold (h : Hw) (st : CotState) (w : WaitFor) (held : Bool)
  | contain (h : Hw) (cause : Nat)
  | dead (h : Hw)

namespace Hw

/-! ### A cottage's default space (R106, R107, R110, R114, R290, R297) -/

/-- What the memory system finds beside serving an access to a mapped frame: map entries corrected or uncorrectable (R311). -/
def mapEvent (h : Hw) (ev : AccessEvent) : Except Stop Hw :=
  match ev with
  | .mapEccCorr => .ok h.mapEccCorrected
  | .mapEcc => .error (.dead h.mapEccFatal)
  | _ => .ok h

/-- A miss of L1D counts, and one of L2 (R134). -/
def missCounts (h : Hw) (c : Nat) (ev : AccessEvent) : Hw :=
  match ev with
  | .l1Miss => h.countWrap F.COT_PERF_COUNT c 3
  | .miss => (h.countWrap F.COT_PERF_COUNT c 3).countWrap F.COT_PERF_COUNT c 4
  | _ => h

/-- A load of n bytes at address a of cottage c's default space. Of two causes MISALIGN comes before RANGE (log entry 62). -/
def cotLoad (h : Hw) (c a n : Nat) (ev : AccessEvent) : Except Stop (Nat × Hw) :=
  if a % n ≠ 0 then .error (.fault 0x03)
  else if 2 ^ 28 < a + n then .error (.fault 0x04)
  else
    match h.mapEvent ev with
    | .error e => .error e
    | .ok h =>
      match h.loadAt c a n with
      | (.value v, h) =>
        match ev with
        | .poisoned => .error (.fault 0x08)
        | .l1Miss => .error (.hold (h.missCounts c ev) .miss (.cache false) true)
        | .miss => .error (.hold (h.missCounts c ev) .miss (.cache true) true)
        | _ => .ok (v, h)
      | (.fault k, _) => .error (.fault k)
      | (.poison, _) => .error (.fault 0x08)
      | (.wait f g, h) => .error (.hold h .miss (.granule f g) false)
      | (.contain k, h) => .error (.contain h k)

/-- A store of n bytes at address a of cottage c's default space; a granule of a copy-on-write frame is copied first
(R297, R298). -/
def cotStore (h : Hw) (c a n v : Nat) (ev : AccessEvent) : Except Stop Hw :=
  if a % n ≠ 0 then .error (.fault 0x03)
  else if 2 ^ 28 < a + n then .error (.fault 0x04)
  else
    match h.mapEvent ev with
    | .error e => .error e
    | .ok h =>
      match h.resolve c a true with
      | (.at f off, h) =>
        let h := h.missCounts c ev
        match h.writeGate c f off (moveEntry c (a / 0x100000)) with
        | (.ready f, h) => .ok (h.wv (frameBase f + off) n v)
        | (.wait f g, h) => .error (.hold h .miss (.granule f g) false)
        | (.exhausted, h) => .error (.contain h 0x02)
      | (.fault k, _) => .error (.fault k)
      | (.wait f g, h) => .error (.hold h .miss (.granule f g) false)
      | (.contain k, h) => .error (.contain h k)

/-! ### A cottage's IO space (R108) -/

/-- A beam wait counts, once, whether or not its condition is met at issue (R45). -/
def beamCounts (h : Hw) (c : Nat) : Hw :=
  match (h.ctx c).wait with
  | .ending true => h
  | _ => h.count F.COT_CNT_BWAIT_BWAIT c

/-- A load waits for the beam (R44): `pixels` for state that composition produces. -/
def beamRead (h : Hw) (c : Nat) (pixels : Bool) (v : Hw → Nat) : Except Stop (Nat × Hw) :=
  let g := h.beamCounts c
  if h.beamExact c pixels then .ok (v h, g) else .error (.hold g .bwait (.beam pixels) true)

/-- RLF_V_STAT of a video layer, by IO address (R192). -/
def isVStat (a : Nat) : Bool := a == 0x11C || a == 0x15C

/-- The Carter's cottage registers (R365): what a load at a stamp returns; none where none is listed. -/
def carterLoad (h : Hw) (c a : Nat) (st : Stamp) : Option Nat :=
  if a = 0xB00C then some (h.carWord c a + b2n (h.carterBusy c st) * 2 ^ 31)
  else if a = 0xB014 then some (h.cot c).io.carterRes.toNat
  else if a = 0xB000 ∨ a = 0xB004 ∨ a = 0xB008 ∨ a = 0xB010 then some (h.carWord c a)
  else none

/-- The Chisel's cottage registers (R385). -/
def chiselLoad (h : Hw) (c a : Nat) (st : Stamp) : Option Nat :=
  if a = 0xC028 then some (h.ioWord c a + b2n (h.chiselBusy c st) * 2 ^ 31)
  else if chiselWords.contains a then some (h.ioWord c a)
  else none

/-- A listed address of 0xD000-0xD0FF (R159). -/
def isCollision (a : Nat) : Bool :=
  a % 4 == 0 && (decide (0xD000 ≤ a ∧ a ≤ 0xD008) || decide (0xD010 ≤ a ∧ a < 0xD030) || a == 0xD040)

/-- A 4-byte load at an aligned address of cottage c's IO space. -/
def windowLoad (h : Hw) (c a : Nat) : Except Stop (Nat × Hw) :=
  let st := h.stamp c
  let listed := fun (v : Option Nat) => match v with
    | some v => (Except.ok (v, h) : Except Stop (Nat × Hw))
    | none => .error (.fault 0x04)
  if a < 0x4000 then
    if isVStat a then h.beamRead c true fun h => (h.cot c).loom.vreason.getD ((a - 0x11C) / 0x40) 0
    else h.beamRead c false fun h => vget (h.cot c).loom.vreg a
  else if a < 0x8000 then h.beamRead c false fun h => NTable.get 0 (h.cot c).loom.pal ((a - 0x4000) / 4)
  else if a < 0x8040 then .ok (((h.ctx c).ports.toList.getD ((a - 0x8000) / 4) 0).toNat, h)
  else if 0x9000 ≤ a ∧ a < 0x9100 then
    match h.cibLoad c a st with
    | some (v, h) => .ok (v.toNat, h)
    | none => .error (.fault 0x04)
  else if 0xA000 ≤ a ∧ a < 0xB000 then .ok ((NTable.get 0 (h.cot c).choir.shown (a - 0xA000)).toNat, h)
  else if 0xB000 ≤ a ∧ a < 0xB100 then listed (h.carterLoad c a st)
  else if 0xC000 ≤ a ∧ a < 0xC100 then listed (h.chiselLoad c a st)
  else if isCollision a then h.beamRead c true fun h => (h.collisionWord c a).toNat
  else .error (.fault 0x04)

/-- A video-visible write enters the Tally with the instruction's stamp, or is held while the Tally is full (R42). -/
def tallyStore (h : Hw) (c : Nat) (kind : TallyKind) (addr : Nat) (mask : BitVec 4) (v : Nat) : Except Stop Hw :=
  if h.tallyFill c < 512 then .ok (h.tallyPush c kind addr mask (BitVec.ofNat 32 v) (h.stamp c))
  else .error (.hold (h.count F.COT_CNT_DHOLD_FULL c) .dhold .tallyFull true)

/-- A store to the Carter's cottage registers; CTL with START starts a transfer (R351, R365). -/
def carterWrite (h : Hw) (c a v : Nat) (st : Stamp) : Except Stop Hw :=
  if a = 0xB000 then .ok (h.setIoWord c a (v &&& 0x8FFFFFFF))
  else if a = 0xB004 then .ok (h.setIoWord c a (v &&& 0x0FFFFFFF))
  else if a = 0xB008 then .ok (h.setIoWord c a (v &&& 0xFFFFFF))
  else if a = 0xB00C then
    .ok (if bit v 0 then h.carterStore c v st
      else h.setIoWord c a ((h.carWord c a &&& 0x00FF0000) + (v &&& 0x3E)))
  else if a = 0xB010 then .ok (h.setIoWord c a v)
  else if a = 0xB014 then .error (.fault 0x06)
  else .error (.fault 0x04)

/-- The writable bits of the Chisel's cottage registers (R385). -/
def chiselMask (a : Nat) : Nat :=
  if a = 0xC000 ∨ a = 0xC004 then 0x8FFFFFFF
  else if a = 0xC008 ∨ a = 0xC01C ∨ a = 0xC020 then 0xFFFFFFFF
  else if a < 0xC030 then 0x07FF07FF
  else if a % 8 = 0 then 0xC7FF07FF
  else 0x07FF07FF

/-- A store to the Chisel's cottage registers; CTL with START starts an operation (R379, R385). -/
def chiselWrite (h : Hw) (c a v : Nat) (st : Stamp) : Except Stop Hw :=
  if a = 0xC028 then
    .ok (if bit v 0 then h.chiselStore c v st else h.setIoWord c a ((h.ioWord c a &&& 0x00FF0000) + (v &&& 0xFFE6)))
  else if chiselWords.contains a then .ok (h.setIoWord c a (v &&& chiselMask a))
  else .error (.fault 0x04)

/-- A read-only register of the interrupt block (R406). -/
def cibReadOnly (a : Nat) : Bool :=
  a == 0x9000 || a == 0x9008 || (decide (0x9020 ≤ a ∧ a < 0x9060) && a % 16 == 8)

/-- A 4-byte store at an aligned address of cottage c's IO space. -/
def windowStore (h : Hw) (c a v : Nat) : Except Stop Hw :=
  let st := h.stamp c
  if a < 0x4000 then
    if isVStat a then .error (.fault 0x06) else h.tallyStore c .videoReg (a / 4) 0xF v
  else if a < 0x8000 then h.tallyStore c .palette ((a - 0x4000) / 4) 0x7 (v % 2 ^ 24)
  else if a < 0x8040 then .error (.fault 0x06)
  else if 0x9000 ≤ a ∧ a < 0x9100 then
    if cibReadOnly a then .error (.fault 0x06)
    else
      match h.cibStore c a (BitVec.ofNat 32 v) st with
      | some h => .ok h
      | none => .error (.fault 0x04)
  else if 0xA000 ≤ a ∧ a < 0xB000 then .ok (h.journalStore c (a - 0xA000) (BitVec.ofNat 32 v) st)
  else if 0xB000 ≤ a ∧ a < 0xB100 then h.carterWrite c a v st
  else if 0xC000 ≤ a ∧ a < 0xC100 then h.chiselWrite c a v st
  else if isCollision a then .error (.fault 0x06)
  else .error (.fault 0x04)

/-! ### A cottage's VRAM space (R109) -/

/-- A load of n bytes of cottage c's video RAM. -/
def vramLoad (h : Hw) (c a n : Nat) : Except Stop (Nat × Hw) :=
  if a % n ≠ 0 then .error (.fault 0x03)
  else if (h.cls c).vramKib * 1024 < a + n then .error (.fault 0x04)
  else
    let bad := match h.vramFrame c with
      | some f => h.poisonedAt (h.frameAddr f a) n
      | none => false
    if h.beamExact c false && bad then .error (.fault 0x08)
    else h.beamRead c false fun h => h.vramRead c a n

/-- A store of n bytes to cottage c's video RAM: a Tally entry. -/
def vramWrite (h : Hw) (c a n v : Nat) : Except Stop Hw :=
  if a % n ≠ 0 then .error (.fault 0x03)
  else if (h.cls c).vramKib * 1024 < a + n then .error (.fault 0x04)
  else if n = 4 then h.tallyStore c .vramWord (a / 4) 0xF v
  else h.tallyStore c .vramBytes (a / 4) (BitVec.ofNat 4 ((2 ^ n - 1) * 2 ^ (a % 4))) (v * 2 ^ (8 * (a % 4)))

/-! ### A Reeve core's default space (R137) -/

/-- Where an address of a core's default space lies. -/
inductive ReevePlace where
  | memory (a : Nat)
  | register (off : Nat)
  | rom (off : Nat)
  deriving DecidableEq, Repr

/-- The place of address a of core r's default space, or the fault of reaching it (R124, R137). -/
def reevePlace (h : Hw) (r a : Nat) : Except Nat ReevePlace :=
  let w := 16 * r + a / 0x10000000
  let m := h.fld F.RVE_WIN_BASE 0 w * 0x100000 + a % 0x10000000
  if !h.flag F.RVE_WIN_EN 0 w then .error 0x05
  else if m < 0x1000000000 then .ok (.memory m)
  else if 0x1000000000 ≤ m ∧ m < 0x1004000000 then .ok (.register (m - 0x1000000000))
  else if 0x1100000000 ≤ m ∧ m < 0x1100010000 then .ok (.rom (m - 0x1100000000))
  else if 0x400000000000 ≤ m ∧ m < 0xC00000000000 then .ok (.memory m)
  else .error 0x04

/-- The function whose copies of banked registers core r reaches at offset a (log entry 45). -/
def coreView (r a : Nat) : Nat := Config.reeveView r a % 258

/-- The register at an offset of a core's view is read only: a store to it faults (R107). -/
def readOnlyAt (h : Hw) (r off : Nat) : Bool :=
  match h.regAt (coreView r off) off with
  | some q => h.sees (.reeve r .io) q.name q.bank q.idx && q.name.desc.fields.all fun f => f.acc == .ro
  | none => false

/-- A load of n bytes at address a of core r's default space. -/
def reeveLoad (h : Hw) (r a n : Nat) (ev : AccessEvent) : Except Stop (Nat × Hw) :=
  if a % n ≠ 0 then .error (.fault 0x03)
  else
    match h.reevePlace r a with
    | .error e => .error (.fault e)
    | .ok (.memory m) =>
      if h.poisonedAt m n || ev == .poisoned then .error (.fault 0x08) else .ok (h.rv m n, h)
    | .ok (.register off) => .ok (h.readBar (.reeve r .io) (coreView r off) off n)
    | .ok (.rom off) => .ok (fromLe ((List.range n).map fun k => Config.bootRom (off + k)), h)

/-- A store of n bytes at address a of core r's default space. The boot ROM is read only (log entry 63). -/
def reeveStore (h : Hw) (r a n v : Nat) : Except Stop Hw :=
  if a % n ≠ 0 then .error (.fault 0x03)
  else
    match h.reevePlace r a with
    | .error e => .error (.fault e)
    | .ok (.memory m) => .ok (h.wv m n v)
    | .ok (.register off) =>
      if h.readOnlyAt r off then .error (.fault 0x06) else .ok (h.writeBar (.reeve r .io) (coreView r off) off n v)
    | .ok (.rom _) => .error (.fault 0x06)

/-! ### A Reeve core's IO and PRIV spaces (R106, R424) -/

/-- A load at address a of core r's IO space. -/
def reeveIoLoad (h : Hw) (r a n : Nat) : Except Stop (Nat × Hw) :=
  if n ≠ 4 then .error (.fault 0x07)
  else if a % 4 ≠ 0 then .error (.fault 0x03)
  else if 0x4000000 ≤ a then .error (.fault 0x04)
  else .ok (h.readBar (.reeve r .io) (coreView r a) a 4)

/-- A store at address a of core r's IO space. -/
def reeveIoStore (h : Hw) (r a n v : Nat) : Except Stop Hw :=
  if n ≠ 4 then .error (.fault 0x07)
  else if a % 4 ≠ 0 then .error (.fault 0x03)
  else if 0x4000000 ≤ a then .error (.fault 0x04)
  else if h.readOnlyAt r a then .error (.fault 0x06)
  else .ok (h.writeBar (.reeve r .io) (coreView r a) a 4 v)

/-- The register at an address of PRIV space: path, name and index; or an offset of the secure alias. -/
def privPlace (h : Hw) (r a : Nat) : Option (RegName × Nat ⊕ Nat) :=
  if a < 0xC then some (.inl (.LAN_OUT, a / 4))
  else if 0x10 ≤ a ∧ a < 0x1C then some (.inl (.LAN_IN, (a - 0x10) / 4))
  else if 0x100 ≤ a ∧ a < 0x140 then
    some (.inl (if a % 8 = 0 then .TRD_TXF else .TRD_RXF, (a - 0x100) / 8))
  else if 0x40000 ≤ a ∧ a < 0x80000 ∧ h.fld F.LAN_SEC_CORE = r then some (.inr (a - 0x40000 + 0x300000))
  else none

/-- A load at address a of core r's PRIV space. -/
def privLoad (h : Hw) (r a n : Nat) : Except Stop (Nat × Hw) :=
  if n ≠ 4 then .error (.fault 0x07)
  else if a % 4 ≠ 0 then .error (.fault 0x03)
  else
    match h.privPlace r a with
    | none => .error (.fault 0x04)
    | some (.inl (name, j)) => .ok (h.readReg (.reeve r .priv) name 0 j)
    | some (.inr off) => .ok (h.readBar (.reeve r .secure) (coreView r off) off 4)

/-- A store at address a of core r's PRIV space. -/
def privStore (h : Hw) (r a n v : Nat) : Except Stop Hw :=
  if n ≠ 4 then .error (.fault 0x07)
  else if a % 4 ≠ 0 then .error (.fault 0x03)
  else
    match h.privPlace r a with
    | none => .error (.fault 0x04)
    | some (.inl (name, j)) =>
      if name = .LAN_IN ∨ name = .TRD_RXF then .error (.fault 0x06)
      else .ok (h.writeReg (.reeve r .priv) name 0 j v)
    | some (.inr off) =>
      if h.readOnlyAt r off then .error (.fault 0x06) else .ok (h.writeBar (.reeve r .secure) (coreView r off) off 4 v)

/-! ### Any space -/

/-- A load of n bytes by a context. -/
def load (h : Hw) (who : Ctx) (sp : Space) (a n : Nat) (ev : AccessEvent) : Except Stop (Nat × Hw) :=
  match who, sp with
  | .cottage c, .default => h.cotLoad c a n ev
  | .cottage c, .io =>
    if n ≠ 4 then .error (.fault 0x07) else if a % 4 ≠ 0 then .error (.fault 0x03) else h.windowLoad c a
  | .cottage c, .vram => h.vramLoad c a n
  | .cottage _, .priv => .error (.fault 0x02)
  | .reeve r, .default => h.reeveLoad r a n ev
  | .reeve r, .io => h.reeveIoLoad r a n
  | .reeve _, .vram => .error (.fault 0x01)
  | .reeve r, .priv => h.privLoad r a n

/-- A store of n bytes by a context. -/
def store (h : Hw) (who : Ctx) (sp : Space) (a n v : Nat) (ev : AccessEvent) : Except Stop Hw :=
  match who, sp with
  | .cottage c, .default => h.cotStore c a n v ev
  | .cottage c, .io =>
    if n ≠ 4 then .error (.fault 0x07) else if a % 4 ≠ 0 then .error (.fault 0x03) else h.windowStore c a v
  | .cottage c, .vram => h.vramWrite c a n v
  | .cottage _, .priv => .error (.fault 0x02)
  | .reeve r, .default => h.reeveStore r a n v
  | .reeve r, .io => h.reeveIoStore r a n v
  | .reeve _, .vram => .error (.fault 0x01)
  | .reeve r, .priv => h.privStore r a n v

end Hw

end Sys2Proof.Machine
end

