-- ==== Sys2Proof/Machine/HobCore.lean ====
section
/-!
DEFINITION. How an instruction of a context issues, completes, faults, waits or is held (R17 to R19, R113 to R124,
R126 to R131): shared by every instruction of the Hob. -/

namespace Sys2Proof.Machine

/-! ### What an instruction does -/

/-- How control goes on (R126 to R131): to the next instruction; back from a handler (RETI, ERET); or by a transfer, with
its target if it is taken and whether an untaken one annuls its delay slot. -/
inductive Jump where
  | next
  | back (goal : Word)
  | transfer (goal : Option Word) (annul : Bool)

/-- How a transfer is predicted (R125, R126): by direction, by the indirect-target table, or not at all. -/
inductive Predicted where
  | direction | indirect | never
  deriving DecidableEq, Repr

/-- A completed instruction: the block, the context's processor, its results with their distances, where control goes, the
timing class it is charged, and for WAITLINE the virtual cycles instead. -/
structure Fin where
  hw : Hw
  hob : Hob
  res : List PendingWrite
  jump : Jump
  pred : Predicted
  cls : Nat
  cycles : Option Nat

/-- An instruction: its length, whether it carries LIMM, the fault of its encoding (0 for none), itself as it goes on
when a wait that holds it ends, and its effect on the block, given the context with what lands at this position landed
and the address of the next instruction. -/
structure Op where
  len : Nat
  limm : Bool
  bad : Nat
  again : Option Instr
  body : Hw → Hob → Word → Except Stop Fin

/-- A completed instruction that does not transfer control. -/
def done (h : Hw) (x : Hob) (res : List PendingWrite) (cls : Nat) : Except Stop Fin :=
  .ok ⟨h, x, res, .next, .never, cls, none⟩

/-- A completed transfer. -/
def goes (h : Hw) (x : Hob) (res : List PendingWrite) (goal : Option Word) (annul : Bool) (p : Predicted) (cls : Nat) :
    Except Stop Fin :=
  .ok ⟨h, x, res, .transfer goal annul, p, cls, none⟩

namespace Hw

/-! ### Prediction (R126 to R129; log entry 6) -/

/-- The context predicts: the barred flag is clear, and a Reeve core has neither PRED_OFF nor B-mode. -/
def predicts (h : Hw) (who : Ctx) (x : Hob) : Bool :=
  !x.barred && (match who with
    | .cottage _ => true
    | .reeve r => !h.flag F.RVE_CTL_PRED_OFF 0 r && !(h.reeve r).bmode)

/-- The index of the direction table. -/
def dirIndex (who : Ctx) (pc : Word) : Nat := pc.toNat % (if ctxIsCottage who then 512 else 4096)

/-- The index of the indirect-target table. -/
def indIndex (who : Ctx) (pc : Word) (hist : Nat) : Nat :=
  if ctxIsCottage who then pc.toNat % 256 ^^^ hist else pc.toNat % 1024 ^^^ (hist * 4)

/-- A wrong prediction counts, and up to 4 wrong-path instructions issue, whose number and misses are free (R126, R127,
R134, R136). -/
def mispredicted (h : Hw) (who : Ctx) : Hw :=
  let (n, h) := h.draw
  let w := n.toNat % 5
  match who with
  | .cottage c =>
    let (m, h) := h.draw
    let l1 := m.toNat % (w + 1)
    let l2 := m.toNat / 8 % (l1 + 1)
    (((h.countWrap F.COT_PERF_COUNT c 2).countWrap F.COT_PERF_COUNT c 1 w).countWrap F.COT_PERF_COUNT c 3 l1).countWrap
      F.COT_PERF_COUNT c 4 l2
  | .reeve r => h.countWrap F.RVE_PERF_WRONG 0 r w

/-- A transfer at pc resolves: the tables that predicted it follow its outcome, and H a taken one. A context that does not predict
leaves H as well as the tables as they are (log entry 64). -/
def resolved (h : Hw) (who : Ctx) (x : Hob) (pc : Word) (p : Predicted) (goal : Option Word) : Hob × Hw :=
  if !h.predicts who x then (x, h)
  else
    let d := dirIndex who pc
    let i := indIndex who pc x.hist
    let n := NTable.get 0 x.dirTable d
    let wrong := match p with
      | .direction => decide (2 ≤ n) != goal.isSome
      | .indirect => some (NTable.get 0 x.indTable i) != goal
      | .never => false
    let x := match p with
      | .direction => { x with dirTable := NTable.set 0 x.dirTable d (if goal.isSome then min 3 (n + 1) else n - 1) }
      | .indirect => { x with indTable := NTable.set 0 x.indTable i (goal.getD 0) }
      | .never => x
    let x := match goal with
      | some t => { x with hist := (x.hist * 2 ^^^ b2n (t.getLsbD 2)) % 256 }
      | none => x
    (x, if wrong then h.mispredicted who else h)

/-! ### A cottage's instruction -/

/-- A due source is pending and enabled while FL.IE, as the next instruction would see it, is 1 (R401). -/
def entryDue (h : Hw) (c : Nat) : Bool := !(h.ctx c).landed && flIe (h.ctx c).hob.issue.fl && h.cibReady c

/-- The context may issue: it runs, no store of it stalls on the journal, and everything stamped at or before its beam has
happened (R49, R122, R248, R401). -/
def canIssue (h : Hw) (c : Nat) : Bool :=
  (h.ctx c).st == .run && !(h.ctx c).booting && (h.ctx c).start == .none && (h.ctx c).held.isNone && (h.cot c).choir.stalled.isNone &&
    !h.inputDue c && !([0, 1, 2, 3].any fun k => h.vtDue c k)

/-- A transfer of the cottage has reached V on the beam but is not done (R352, R380). -/
def transferOwed (h : Hw) (c : Nat) : Bool :=
  let owed := fun (t : Option CotTransfer) => match t with
    | some t => !t.done && t.v.le (h.stamp c)
    | none => false
  owed (h.cot c).io.carter || owed (h.cot c).io.chisel

/-- Fetches n bytes at an address of cottage c's default space, granule by granule. -/
def cotFetch (h : Hw) (c pc n : Nat) : Got × Hw :=
  let k := 0x10000 - pc % 0x10000
  if n ≤ k then h.loadAt c pc n
  else
    match h.loadAt c pc k with
    | (.value _, h) => h.loadAt c (pc + k) (n - k)
    | r => r

/-- The last of a cottage's instruction, issued at st: its processor takes its value, it counts, its cycles are charged (R17,
R18). -/
def cotEnds (h : Hw) (c : Nat) (st : Stamp) (x : Hob) (n : Nat) : Hw :=
  ((h.modCtx c fun y => { y with hob := x, issued := some st, landed := false }).countWrap F.COT_PERF_COUNT c 0).charge c n

/-- An instruction of cottage c completes: results queued, PC, counter, charge (R17, R18, R113, R121). -/
def cotCompletes (c : Nat) (o : Op) (f : Fin) : Hw :=
  let h := f.hw
  let st := h.stamp c
  let pc := f.hob.pc
  let next := pc + BitVec.ofNat 32 o.len
  let (goal, p) : Option Word × Bool := match f.jump with
    | .next => (some next, false)
    | .back t => (some t, true)
    | .transfer t _ => (t, true)
  let (x, h) := if p then h.resolved (.cottage c) f.hob pc f.pred goal else (f.hob, h)
  let x := { x with pc := goal.getD next, queue := x.queue ++ f.res }
  let time := fun i => (h.cls c).timing.getD i 0
  h.cotEnds c st x (f.cycles.getD (time f.cls + (if o.limm then time 2 else 0)))

/-- An instruction of cottage c executes at its beam's stamp. `first` is false for an instruction that has issued before and a
wait has held or interrupted: its position counts once. -/
def cotExecutes (h : Hw) (c : Nat) (o : Op) (first : Bool) : Hw :=
  let x := (h.ctx c).hob
  let y := if first then x.issue else x
  if o.bad ≠ 0 then h.hobFault c o.bad x.pc.toNat
  else
    match o.body h y (x.pc + BitVec.ofNat 32 o.len) with
    | .ok f => cotCompletes c o f
    | .error (.fault k) => h.hobFault c k x.pc.toNat
    | .error (.hold g st w held) =>
      let stamp := some (h.stamp c)
      let g := g.modCtx c fun z =>
        if held then { z with hob := y, held := o.again, issued := stamp } else { z with landed := !first, issued := stamp }
      g.waitIn c st w
    | .error (.contain g k) => g.containGrn c k (detailOf .GRN [k, c])
    | .error (.dead g) => g

/-- Cottage c issues an instruction: after a transfer's V it waits until the transfer is done; its bytes are fetched
(R110, R290, R352). -/
def cotIssues (h : Hw) (c : Nat) (o : Op) : Hw :=
  if !h.canIssue c || h.entryDue c then h
  else
    let h := (h.carterSettle c (h.stamp c)).chiselSettle c (h.stamp c)
    if h.transferOwed c then h.waitIn c .miss .transfer
    else
      let pc := (h.ctx c).hob.pc.toNat
      match h.cotFetch c pc o.len with
      | (.value _, h) => h.cotExecutes c o !(h.ctx c).landed
      | (.fault k, h) => h.hobFault c k pc
      | (.poison, h) => h.hobFault c 0x08 pc
      | (.wait f g, h) => h.waitIn c .miss (.granule f g)
      | (.contain k, h) => h.containGrn c k (detailOf .GRN [k, c])

/-! ### A Reeve core's instruction (R124, R126 to R131, R136) -/

/-- Replaces the processor of core r. -/
def setRob (h : Hw) (r : Nat) (x : Hob) : Hw := h.setReeve r { h.reeve r with hob := x }

/-- An exception of core r (R124, R130, R396): pending writes land; EPC, CAUSE, BD and SFL are written, IE is cleared and
control goes to RVE_VEC. -/
def reeveEntry (h : Hw) (r cause : Nat) : Hw :=
  let v := h.reeve r
  let x := Hob.landAll v.hob
  let epc := (v.slot.map (·.transferPc)).getD x.pc
  let h := h.setFld F.RVE_EPC_EPC 0 r epc.toNat
  let h := h.setFld F.RVE_EXC_CAUSE 0 r cause
  let h := h.setFld F.RVE_EXC_BD 0 r (b2n v.slot.isSome)
  let h := h.setFld F.RVE_EXC_SFL 0 r x.fl.toNat
  let vec := BitVec.ofNat 32 (h.fld F.RVE_VEC_VEC 0 r * 4)
  (h.setReeve r { v with hob := { x with fl := x.fl &&& ~~~0x80, pc := vec }, slot := none, waiting := false }).rveBoundary r

/-- Core r has an interrupt to take: IE, as the next instruction would see it, and a notification; none between a transfer
and its slot (R130, R396). -/
def reeveDue (h : Hw) (r : Nat) : Bool :=
  let v := h.reeve r
  v.slot.isNone && flIe v.hob.issue.fl && h.fld F.RVE_IRQ_PARISH 0 r != 0

/-- The bytes at an address of core r's default space, for an instruction fetch: those of memory and of the boot ROM. A fetch
from the register space reads no register (log entry 46). -/
def reeveByte (h : Hw) (r a : Nat) : Except Nat Byte :=
  match h.reevePlace r (a % 2 ^ 32) with
  | .error e => .error e
  | .ok (.memory m) => if h.poisonedAt m 1 then .error 0x08 else .ok (h.rb m)
  | .ok (.register _) => .ok 0
  | .ok (.rom off) => .ok (Config.bootRom off)

/-- Every byte of an instruction can be fetched. -/
def reeveFetch (h : Hw) (r pc : Nat) : Nat → Except Nat Unit
  | 0 => .ok ()
  | n + 1 =>
    match h.reeveByte r pc with
    | .error e => .error e
    | .ok _ => reeveFetch h r (pc + 1) n

/-- The length of the instruction at an address of core r (R130). -/
def lengthAt (h : Hw) (r : Nat) (a : Word) : Except Nat Nat := lengthFrom (fun k => h.reeveByte r (a.toNat + k)) 4 0 false

/-- The address after the delay slot of a transfer of a context in B-mode, or the next instruction's where there is no slot
(R130). A slot whose bytes cannot be fetched is the transfer's own fault (log entry 65). -/
def afterSlot (h : Hw) (who : Ctx) (next : Word) : Except Nat Word :=
  match who with
  | .cottage _ => .ok next
  | .reeve r =>
    if (h.reeve r).bmode then
      match h.lengthAt r next with
      | .ok n => .ok (next + BitVec.ofNat 32 n)
      | .error e => .error e
    else .ok next

/-- Where core r goes after an instruction (R130, R131): `to` as its transfer says. Answers PC, the mode and the slot. -/
def reeveGoes (h : Hw) (r : Nat) (v : Reeve) (next : Word) (j : Jump) : Except Nat (Word × Bool × Option DelaySlot) :=
  let mode := h.flag F.RVE_CTL_BMODE 0 r
  match v.slot, j with
  | some d, _ => .ok (d.goesTo.getD next, (if d.goesTo.isSome then d.bmode else v.bmode), none)
  | none, .next => .ok (next, v.bmode, none)
  | none, .back t => .ok (t, mode, none)
  | none, .transfer goal annul =>
    if v.bmode then
      if annul && goal.isNone then
        match h.afterSlot (.reeve r) next with
        | .ok a => .ok (a, true, none)
        | .error e => .error e
      else .ok (next, true, some ⟨v.hob.pc, goal, mode⟩)
    else
      match goal with
      | some t => .ok (t, mode, none)
      | none => .ok (next, false, none)

/-- The instruction transfers control: it is ILLEGAL in a delay slot (R130). -/
def Jump.isTransfer : Jump → Bool
  | .next => false
  | _ => true

/-- The last of a core's instruction: the core takes its value, the instruction counts, and the core stops if it is to. -/
def reeveEnds (h : Hw) (r : Nat) (v : Reeve) : Hw := ((h.setReeve r v).countWrap F.RVE_PERF_CORRECT 0 r).rveBoundary r

/-- Core r, which stood at v, completes an instruction and goes on at pc: the transfer resolves, results are queued. -/
def reeveLeaves (h : Hw) (r : Nat) (v : Reeve) (f : Fin) (pc : Word) (mode : Bool) (slot : Option DelaySlot) : Hw :=
  let goal : Option Word := match f.jump with
    | .next => none
    | .back t => some t
    | .transfer t _ => t
  let (x, h) := if Jump.isTransfer f.jump then h.resolved (.reeve r) f.hob v.hob.pc f.pred goal else (f.hob, h)
  h.reeveEnds r { h.reeve r with hob := { x with pc := pc, queue := x.queue ++ f.res }, bmode := mode, slot := slot }

/-- An instruction of core r completes: a store that restarted the core (R499) leaves nothing of it to complete. -/
def reeveCompletes (h : Hw) (r : Nat) (o : Op) (f : Fin) : Hw :=
  let v := h.reeve r
  if (f.hw.reeve r).hob ≠ v.hob then f.hw
  else
    match f.hw.reeveGoes r v (v.hob.pc + BitVec.ofNat 32 o.len) f.jump with
    | .error k => h.reeveEntry r k
    | .ok (pc, mode, slot) => f.hw.reeveLeaves r v f pc mode slot

/-- An instruction of core r executes. -/
def reeveExecutes (h : Hw) (r : Nat) (o : Op) : Hw :=
  let v := h.reeve r
  if o.bad ≠ 0 then h.reeveEntry r o.bad
  else
    match o.body h v.hob.issue (v.hob.pc + BitVec.ofNat 32 o.len) with
    | .error (.fault k) => h.reeveEntry r k
    | .error _ => h
    | .ok f => h.reeveCompletes r o f

/-- Core r issues an instruction: it neither is halted nor waits, and takes a due interrupt first (R136, R396). -/
def reeveIssues (h : Hw) (r : Nat) (o : Op) : Hw :=
  if h.flag F.RVE_STAT_HALTED 0 r || (h.reeve r).waiting || h.reeveDue r then h
  else
    match h.reeveFetch r (h.reeve r).hob.pc.toNat o.len with
    | .error k => h.reeveEntry r k
    | .ok _ => h.reeveExecutes r o

/-! ### Any context -/

/-- A context issues an instruction. -/
def issues (h : Hw) (who : Ctx) (o : Op) : Hw :=
  match who with
  | .cottage c => h.cotIssues c o
  | .reeve r => h.reeveIssues r o

/-- A context that stands in a B-mode delay slot (R130). -/
def inSlot (h : Hw) (who : Ctx) : Bool :=
  match who with
  | .cottage _ => false
  | .reeve r => (h.reeve r).slot.isSome

end Hw

end Sys2Proof.Machine
end

