-- ==== Sys2Proof/Machine/HobAlu.lean ====
section
/-!
DEFINITION. The Hob's arithmetic instructions (R100 to R104, R118 to R121): two-operand ALU, conditional moves,
NEG to SEXT16, MULH to DIVS, SEL, LEA. -/

namespace Sys2Proof.Machine.Hw

/-! ### Two-operand ALU (0x00-0x3F) -/

/-- The operands of a two-operand instruction at width w: D, S, and the shift count, which all 32 bits of S give (R99, R102). -/
def aluOperands (pre : List Byte) (x : Hob) (a : AluArgs) (w : Nat) : Nat × Nat × Nat :=
  match a with
  | .reg ob _ => ((x.read ob.a).toNat % 2 ^ w, (x.read ob.b).toNat % 2 ^ w, (x.read ob.b).toNat)
  | .imm ob v _ => ((x.read ob.a).toNat % 2 ^ w, (immSigned pre v).toNat % 2 ^ w, (immCount pre v).toNat)

/-- The OB of a two-operand instruction. -/
def aluOb : AluArgs → Ob
  | .reg ob _ => ob
  | .imm ob _ _ => ob

/-- The form leaves FL unchanged. -/
def aluQuiet : AluArgs → Bool
  | .reg _ q => q
  | .imm _ _ q => q

/-- An immediate form. -/
def aluImm : AluArgs → Bool
  | .reg _ _ => false
  | .imm _ _ _ => true

/-- The encoding of a two-operand instruction is legal beyond its prefixes (R96, R101): OB.B is 0 in immediate forms, no
width prefix stands beside LIMM there, and CMP and TST have no quiet form. -/
def aluLegal (op : AluOp) (pre : List Byte) (a : AluArgs) : Bool :=
  (op.writes || !aluQuiet a) && (!aluImm a || ((aluOb a).b == 0 && !(preLimm pre && pre.any isWidth)))

/-- The timing class: 3 shifts, 5 MUL, 0 and 1 the register and immediate forms (R121). -/
def aluClass (op : AluOp) (a : AluArgs) : Nat := if op.shifts then 3 else if op = .mul then 5 else if aluImm a then 1 else 0

/-- The results of a two-operand instruction (R102, R113, R118). -/
def aluResults (op : AluOp) (pre : List Byte) (x : Hob) (a : AluArgs) : List PendingWrite :=
  let w := preWidth pre
  let (d, s, n) := aluOperands pre x a w
  let o := aluOut op w d s n (flC x.fl)
  let dist := if op = .mul then 2 else 1
  (if op.writes then [toLow w (aluOb a).a dist (BitVec.ofNat 32 o.value)] else []) ++
    (if aluQuiet a then [] else [o.toFl w dist])

/-- A two-operand instruction. -/
def aluIssue (h : Hw) (op : AluOp) (who : Ctx) (pre : List Byte) (a : AluArgs) : Hw :=
  h.issues who
    { len := aluLen pre a, limm := preLimm pre,
      bad := encodingFault who ⟨true, aluImm a, false⟩ pre (aluLegal op pre a) false, again := none,
      body := fun h x _ => done h x (aluResults op pre x a) (aluClass op a) }

def aluMov (h : Hw) (who : Ctx) (pre : List Byte) (x : AluArgs) : Hw := h.aluIssue .mov who pre x
def aluAdd (h : Hw) (who : Ctx) (pre : List Byte) (x : AluArgs) : Hw := h.aluIssue .add who pre x
def aluAdc (h : Hw) (who : Ctx) (pre : List Byte) (x : AluArgs) : Hw := h.aluIssue .adc who pre x
def aluSub (h : Hw) (who : Ctx) (pre : List Byte) (x : AluArgs) : Hw := h.aluIssue .sub who pre x
def aluSbc (h : Hw) (who : Ctx) (pre : List Byte) (x : AluArgs) : Hw := h.aluIssue .sbc who pre x
def aluCmp (h : Hw) (who : Ctx) (pre : List Byte) (x : AluArgs) : Hw := h.aluIssue .cmp who pre x
def aluAnd (h : Hw) (who : Ctx) (pre : List Byte) (x : AluArgs) : Hw := h.aluIssue .and who pre x
def aluOr (h : Hw) (who : Ctx) (pre : List Byte) (x : AluArgs) : Hw := h.aluIssue .or who pre x
def aluXor (h : Hw) (who : Ctx) (pre : List Byte) (x : AluArgs) : Hw := h.aluIssue .xor who pre x
def aluTst (h : Hw) (who : Ctx) (pre : List Byte) (x : AluArgs) : Hw := h.aluIssue .tst who pre x
def aluShl (h : Hw) (who : Ctx) (pre : List Byte) (x : AluArgs) : Hw := h.aluIssue .shl who pre x
def aluShr (h : Hw) (who : Ctx) (pre : List Byte) (x : AluArgs) : Hw := h.aluIssue .shr who pre x
def aluSar (h : Hw) (who : Ctx) (pre : List Byte) (x : AluArgs) : Hw := h.aluIssue .sar who pre x
def aluRol (h : Hw) (who : Ctx) (pre : List Byte) (x : AluArgs) : Hw := h.aluIssue .rol who pre x
def aluRor (h : Hw) (who : Ctx) (pre : List Byte) (x : AluArgs) : Hw := h.aluIssue .ror who pre x
def aluMul (h : Hw) (who : Ctx) (pre : List Byte) (x : AluArgs) : Hw := h.aluIssue .mul who pre x

/-! ### One register (0x50-0x53) -/

/-- NEG, NOT, SEXT8 or SEXT16: `f` gives the result of the register at the operation width. -/
def unaryIssue (h : Hw) (who : Ctx) (pre : List Byte) (ob : Ob) (wide : Bool) (f : Nat → Word → AluOut) : Hw :=
  let w := preWidth pre
  h.issues who
    { len := pre.length + 2, limm := false, bad := encodingFault who ⟨wide, false, false⟩ pre (ob.b == 0) false,
      again := none,
      body := fun h x _ =>
        let o := f w (x.read ob.a)
        done h x [toLow w ob.a 1 (BitVec.ofNat 32 o.value), o.toFl w 1] 0 }

def aluNeg (h : Hw) (who : Ctx) (pre : List Byte) (ob : Ob) : Hw :=
  h.unaryIssue who pre ob true fun w d => negOut w (d.toNat % 2 ^ w)
def aluNot (h : Hw) (who : Ctx) (pre : List Byte) (ob : Ob) : Hw :=
  h.unaryIssue who pre ob true fun w d => ⟨(~~~d).toNat % 2 ^ w, none, none⟩
def sext8 (h : Hw) (who : Ctx) (pre : List Byte) (ob : Ob) : Hw :=
  h.unaryIssue who pre ob false fun _ d => ⟨((d.setWidth 8).signExtend 32).toNat, none, none⟩
def sext16 (h : Hw) (who : Ctx) (pre : List Byte) (ob : Ob) : Hw :=
  h.unaryIssue who pre ob false fun _ d => ⟨((d.setWidth 16).signExtend 32).toNat, none, none⟩

/-! ### Products and quotients (0x54-0x57) -/

/-- MULH or MULHU: the high word, landing at distance 2; C and V are 0. -/
def highIssue (h : Hw) (sgn : Bool) (who : Ctx) (pre : List Byte) (ob : Ob) : Hw :=
  h.issues who
    { len := pre.length + 2, limm := false, bad := encodingFault who ⟨false, false, false⟩ pre true false, again := none,
      body := fun h x _ =>
        let v := mulHigh sgn (x.read ob.a) (x.read ob.b)
        done h x [toReg ob.a 2 v, AluOut.toFl ⟨v.toNat, some false, some false⟩ 32 2] 6 }

def mulh (h : Hw) (who : Ctx) (pre : List Byte) (ob : Ob) : Hw := h.highIssue true who pre ob
def mulhu (h : Hw) (who : Ctx) (pre : List Byte) (ob : Ob) : Hw := h.highIssue false who pre ob

/-- A divide by zero counts; a cottage that asks for it has it reported (R120). -/
def divByZero (h : Hw) (who : Ctx) (pc : Word) : Hw :=
  match who with
  | .cottage c =>
    let h := h.count F.COT_ARITH_DZCNT c
    if h.flag F.COT_ARITH_DZ_REP c then
      h.raiseCot 0 .COT 0x10 c (pc.toNat * 2 ^ 32 + 0x10 * 2 ^ 24 + stampBits (h.cls c) (h.stamp c))
    else h
  | .reeve r => h.count F.RVE_STAT_DZCNT 0 r

/-- DIVU or DIVS: quotient and remainder, landing at distance 10; DZ is ORed (R103, R115, R118, R119). -/
def divIssue (h : Hw) (sgn : Bool) (who : Ctx) (pre : List Byte) (ob : Ob) : Hw :=
  h.issues who
    { len := pre.length + 2, limm := false, bad := encodingFault who ⟨false, false, false⟩ pre true false, again := none,
      body := fun h x _ =>
        let s := x.read ob.b
        let (q, m, v) := divide sgn (x.read ob.a) s
        let fl := AluOut.toFl ⟨q.toNat, some false, some v⟩ 32 10
        done (if s = 0 then h.divByZero who x.pc else h) x
          [toReg ob.a 10 q, toReg (ob.a + 1) 10 m, { fl with orBits := if s = 0 then 0x10 else 0 }] 7 }

def divu (h : Hw) (who : Ctx) (pre : List Byte) (ob : Ob) : Hw := h.divIssue false who pre ob
def divs (h : Hw) (who : Ctx) (pre : List Byte) (ob : Ob) : Hw := h.divIssue true who pre ob

/-! ### CMOVcc, SEL, LEA -/

/-- CMOVcc (R104): a condition that fails writes D's own value at the operation width. -/
def cmovcc (h : Hw) (who : Ctx) (pre : List Byte) (cc : BitVec 4) (ob : Ob) : Hw :=
  h.issues who
    { len := pre.length + 2, limm := false, bad := encodingFault who ⟨true, false, false⟩ pre true false, again := none,
      body := fun h x _ =>
        done h x [toLow (preWidth pre) ob.a 1 (if holds cc x.fl then x.read ob.b else x.read ob.a)] 4 }

/-- SEL (R104): S where cc holds, else T. -/
def sel (h : Hw) (who : Ctx) (pre : List Byte) (ob : Ob) (t cc : BitVec 4) : Hw :=
  h.issues who
    { len := pre.length + 3, limm := false, bad := encodingFault who ⟨false, false, false⟩ pre true false, again := none,
      body := fun h x _ => done h x [toReg ob.a 1 (if holds cc x.fl then x.read ob.b else x.read t)] 4 }

/-- LEA (R98). -/
def lea (h : Hw) (who : Ctx) (pre : List Byte) (m : MemArgs) : Hw :=
  h.issues who
    { len := memLen pre m, limm := preLimm pre, bad := encodingFault who ⟨false, true, false⟩ pre (memFields m) false,
      again := none, body := fun h x _ => done h x [toReg m.ob.a 1 (x.address pre m)] 22 }

end Sys2Proof.Machine.Hw

/-! ### The commands -/

namespace Sys2Proof.Machine

/-- MOV (R101): MOV in any of its forms. -/
def execAluMov (who : Ctx) (pre : List Byte) (x : AluArgs) (s : State) : Host.Outcome State Fault Refusal :=
  s.runLive fun h => h.aluMov who pre x

/-- ADD (R101): ADD in any of its forms. -/
def execAluAdd (who : Ctx) (pre : List Byte) (x : AluArgs) (s : State) : Host.Outcome State Fault Refusal :=
  s.runLive fun h => h.aluAdd who pre x

/-- ADC (R101): ADC in any of its forms. -/
def execAluAdc (who : Ctx) (pre : List Byte) (x : AluArgs) (s : State) : Host.Outcome State Fault Refusal :=
  s.runLive fun h => h.aluAdc who pre x

/-- SUB (R101): SUB in any of its forms. -/
def execAluSub (who : Ctx) (pre : List Byte) (x : AluArgs) (s : State) : Host.Outcome State Fault Refusal :=
  s.runLive fun h => h.aluSub who pre x

/-- SBC (R101): SBC in any of its forms. -/
def execAluSbc (who : Ctx) (pre : List Byte) (x : AluArgs) (s : State) : Host.Outcome State Fault Refusal :=
  s.runLive fun h => h.aluSbc who pre x

/-- CMP (R101): CMP in its forms. -/
def execAluCmp (who : Ctx) (pre : List Byte) (x : AluArgs) (s : State) : Host.Outcome State Fault Refusal :=
  s.runLive fun h => h.aluCmp who pre x

/-- AND (R101): AND in any of its forms. -/
def execAluAnd (who : Ctx) (pre : List Byte) (x : AluArgs) (s : State) : Host.Outcome State Fault Refusal :=
  s.runLive fun h => h.aluAnd who pre x

/-- OR (R101): OR in any of its forms. -/
def execAluOr (who : Ctx) (pre : List Byte) (x : AluArgs) (s : State) : Host.Outcome State Fault Refusal :=
  s.runLive fun h => h.aluOr who pre x

/-- XOR (R101): XOR in any of its forms. -/
def execAluXor (who : Ctx) (pre : List Byte) (x : AluArgs) (s : State) : Host.Outcome State Fault Refusal :=
  s.runLive fun h => h.aluXor who pre x

/-- TST (R101): TST in its forms. -/
def execAluTst (who : Ctx) (pre : List Byte) (x : AluArgs) (s : State) : Host.Outcome State Fault Refusal :=
  s.runLive fun h => h.aluTst who pre x

/-- SHL (R119): SHL in any of its forms. -/
def execAluShl (who : Ctx) (pre : List Byte) (x : AluArgs) (s : State) : Host.Outcome State Fault Refusal :=
  s.runLive fun h => h.aluShl who pre x

/-- SHR (R119): SHR in any of its forms. -/
def execAluShr (who : Ctx) (pre : List Byte) (x : AluArgs) (s : State) : Host.Outcome State Fault Refusal :=
  s.runLive fun h => h.aluShr who pre x

/-- SAR (R119): SAR in any of its forms. -/
def execAluSar (who : Ctx) (pre : List Byte) (x : AluArgs) (s : State) : Host.Outcome State Fault Refusal :=
  s.runLive fun h => h.aluSar who pre x

/-- ROL (R119): ROL in any of its forms. -/
def execAluRol (who : Ctx) (pre : List Byte) (x : AluArgs) (s : State) : Host.Outcome State Fault Refusal :=
  s.runLive fun h => h.aluRol who pre x

/-- ROR (R119): ROR in any of its forms. -/
def execAluRor (who : Ctx) (pre : List Byte) (x : AluArgs) (s : State) : Host.Outcome State Fault Refusal :=
  s.runLive fun h => h.aluRor who pre x

/-- MUL (R103): MUL in any of its forms. -/
def execAluMul (who : Ctx) (pre : List Byte) (x : AluArgs) (s : State) : Host.Outcome State Fault Refusal :=
  s.runLive fun h => h.aluMul who pre x

/-- CMOVCC (R104): a conditional move. -/
def execCmovcc (who : Ctx) (pre : List Byte) (cc : BitVec 4) (ob : Ob) (s : State) : Host.Outcome State Fault
    Refusal :=
  s.runLive fun h => h.cmovcc who pre cc ob

/-- NEG (R119): NEG of D. -/
def execAluNeg (who : Ctx) (pre : List Byte) (ob : Ob) (s : State) : Host.Outcome State Fault Refusal :=
  s.runLive fun h => h.aluNeg who pre ob

/-- NOT (R118): NOT of D. -/
def execAluNot (who : Ctx) (pre : List Byte) (ob : Ob) (s : State) : Host.Outcome State Fault Refusal :=
  s.runLive fun h => h.aluNot who pre ob

/-- SEXT8 (R118): SEXT8 of D. -/
def execSext8 (who : Ctx) (pre : List Byte) (ob : Ob) (s : State) : Host.Outcome State Fault Refusal :=
  s.runLive fun h => h.sext8 who pre ob

/-- SEXT16 (R118): SEXT16 of D. -/
def execSext16 (who : Ctx) (pre : List Byte) (ob : Ob) (s : State) : Host.Outcome State Fault Refusal :=
  s.runLive fun h => h.sext16 who pre ob

/-- MULH (R103): MULH of D and S. -/
def execMulh (who : Ctx) (pre : List Byte) (ob : Ob) (s : State) : Host.Outcome State Fault Refusal :=
  s.runLive fun h => h.mulh who pre ob

/-- MULHU (R103): MULHU of D and S. -/
def execMulhu (who : Ctx) (pre : List Byte) (ob : Ob) (s : State) : Host.Outcome State Fault Refusal :=
  s.runLive fun h => h.mulhu who pre ob

/-- DIVU (R119): DIVU of D by S. -/
def execDivu (who : Ctx) (pre : List Byte) (ob : Ob) (s : State) : Host.Outcome State Fault Refusal :=
  s.runLive fun h => h.divu who pre ob

/-- DIVS (R119): DIVS of D by S. -/
def execDivs (who : Ctx) (pre : List Byte) (ob : Ob) (s : State) : Host.Outcome State Fault Refusal :=
  s.runLive fun h => h.divs who pre ob

/-- SEL (R104): SEL D, S, T, cc. -/
def execSel (who : Ctx) (pre : List Byte) (ob : Ob) (t : BitVec 4) (cc : BitVec 4) (s : State) : Host.Outcome
    State Fault Refusal :=
  s.runLive fun h => h.sel who pre ob t cc

/-- LEA (R98): LEA of an address into D. -/
def execLea (who : Ctx) (pre : List Byte) (m : MemArgs) (s : State) : Host.Outcome State Fault Refusal :=
  s.runLive fun h => h.lea who pre m

end Sys2Proof.Machine
end

