-- ==== Sys2Proof/Machine/HobMem.lean ====
section
/-!
DEFINITION. The Hob's loads and stores (R98, R100, R102, R106 to R111, R114): LD, LDS, ST, STP, LDP, PUSH, POP. -/

namespace Sys2Proof.Machine.Hw

/-- The timing class of a load or store by space (R121): `base` is the default space's. -/
def spaceClass (base : Nat) (pre : List Byte) : Nat :=
  match preSpace pre with
  | .io => base + 1
  | .vram => base + 2
  | _ => base

/-- LD or LDS: `ext` extends the loaded value of a width to a register. -/
def loadOp (who : Ctx) (pre : List Byte) (m : MemArgs) (ev : AccessEvent) (again : Instr) (ext : Nat → Nat → Word) : Op :=
  { len := memLen pre m, limm := preLimm pre, bad := encodingFault who ⟨true, true, true⟩ pre (memFields m) false,
    again := some again,
    body := fun h x _ =>
      let w := preWidth pre
      match h.load who (preSpace pre) (x.address pre m).toNat (w / 8) ev with
      | .error e => .error e
      | .ok (v, h) => done h x [toReg m.ob.a 2 (ext w v)] (spaceClass 8 pre) }

/-- LD: zero-extends (R102). -/
def ldOp (who : Ctx) (pre : List Byte) (m : MemArgs) (ev : AccessEvent) : Op :=
  loadOp who pre m ev (.ld who pre m .hit) fun _ v => BitVec.ofNat 32 v

/-- LDS: sign-extends (R102). -/
def ldsOp (who : Ctx) (pre : List Byte) (m : MemArgs) (ev : AccessEvent) : Op :=
  loadOp who pre m ev (.lds who pre m .hit) fun w v => BitVec.ofInt 32 (signed w v)

/-- ST: writes the bytes of the width only (R102). -/
def stOp (who : Ctx) (pre : List Byte) (m : MemArgs) (ev : AccessEvent) : Op :=
  { len := memLen pre m, limm := preLimm pre, bad := encodingFault who ⟨true, true, true⟩ pre (memFields m) false,
    again := some (.st who pre m .hit),
    body := fun h x _ =>
      let w := preWidth pre
      match h.store who (preSpace pre) (x.address pre m).toNat (w / 8) ((x.read m.ob.a).toNat % 2 ^ w) ev with
      | .error e => .error e
      | .ok h => done h x [] (spaceClass 11 pre) }

/-- STP: g[A] in the low word, g[A + 1] in the high one, as one aligned 8-byte write. -/
def stpOp (who : Ctx) (pre : List Byte) (m : MemArgs) (ev : AccessEvent) : Op :=
  { len := memLen pre m, limm := preLimm pre,
    bad := encodingFault who ⟨false, true, false⟩ pre (memFields m && m.ob.a.toNat % 2 == 0) false, again := none,
    body := fun h x _ =>
      match h.store who .default (x.address pre m).toNat 8
          ((x.read m.ob.a).toNat + (x.read (m.ob.a + 1)).toNat * 2 ^ 32) ev with
      | .error e => .error e
      | .ok h => done h x [] 11 }

/-- LDP. -/
def ldpOp (who : Ctx) (pre : List Byte) (m : MemArgs) (ev : AccessEvent) : Op :=
  { len := memLen pre m, limm := preLimm pre,
    bad := encodingFault who ⟨false, true, false⟩ pre (memFields m && m.ob.a.toNat % 2 == 0) false,
    again := some (.ldp who pre m .hit),
    body := fun h x _ =>
      match h.load who .default (x.address pre m).toNat 8 ev with
      | .error e => .error e
      | .ok (v, h) =>
        done h x [toReg m.ob.a 2 (BitVec.ofNat 32 v), toReg (m.ob.a + 1) 2 (BitVec.ofNat 32 (v / 2 ^ 32))] 8 }

/-! ### The stack (R111) -/

/-- SP is 4-aligned. -/
def spAligned (x : Hob) : Bool := x.sp.toNat % 4 == 0

/-- Stores a word at SP − 4. -/
def pushWord (h : Hw) (who : Ctx) (x : Hob) (v : Word) (ev : AccessEvent) : Except Stop Hw :=
  if spAligned x then h.store who .default (x.sp - 4).toNat 4 v.toNat ev else .error (.fault 0x03)

/-- Loads the word at SP. -/
def popWord (h : Hw) (who : Ctx) (x : Hob) (ev : AccessEvent) : Except Stop (Word × Hw) :=
  if spAligned x then
    match h.load who .default x.sp.toNat 4 ev with
    | .ok (v, h) => .ok (BitVec.ofNat 32 v, h)
    | .error e => .error e
  else .error (.fault 0x03)

/-- PUSH. -/
def pushOp (who : Ctx) (pre : List Byte) (ob : Ob) (ev : AccessEvent) : Op :=
  { len := pre.length + 2, limm := false, bad := encodingFault who ⟨false, false, false⟩ pre (ob.b == 0) false,
    again := none,
    body := fun h x _ =>
      match h.pushWord who x (x.read ob.a) ev with
      | .error e => .error e
      | .ok h => done h x [toSp (x.sp - 4)] 14 }

/-- POP. -/
def popOp (who : Ctx) (pre : List Byte) (ob : Ob) (ev : AccessEvent) : Op :=
  { len := pre.length + 2, limm := false, bad := encodingFault who ⟨false, false, false⟩ pre (ob.b == 0) false,
    again := some (.pop who pre ob .hit),
    body := fun h x _ =>
      match h.popWord who x ev with
      | .error e => .error e
      | .ok (v, h) => done h x [toReg ob.a 2 v, toSp (x.sp + 4)] 14 }

def ld (h : Hw) (who : Ctx) (pre : List Byte) (m : MemArgs) (ev : AccessEvent) : Hw := h.issues who (ldOp who pre m ev)
def lds (h : Hw) (who : Ctx) (pre : List Byte) (m : MemArgs) (ev : AccessEvent) : Hw := h.issues who (ldsOp who pre m ev)
def st (h : Hw) (who : Ctx) (pre : List Byte) (m : MemArgs) (ev : AccessEvent) : Hw := h.issues who (stOp who pre m ev)
def stp (h : Hw) (who : Ctx) (pre : List Byte) (m : MemArgs) (ev : AccessEvent) : Hw := h.issues who (stpOp who pre m ev)
def ldp (h : Hw) (who : Ctx) (pre : List Byte) (m : MemArgs) (ev : AccessEvent) : Hw := h.issues who (ldpOp who pre m ev)
def push (h : Hw) (who : Ctx) (pre : List Byte) (ob : Ob) (ev : AccessEvent) : Hw := h.issues who (pushOp who pre ob ev)
def pop (h : Hw) (who : Ctx) (pre : List Byte) (ob : Ob) (ev : AccessEvent) : Hw := h.issues who (popOp who pre ob ev)

end Sys2Proof.Machine.Hw

/-! ### The commands -/

namespace Sys2Proof.Machine

/-- LD (R106): a zero-extending load. -/
def execLd (who : Ctx) (pre : List Byte) (m : MemArgs) (ev : AccessEvent) (s : State) : Host.Outcome State Fault
    Refusal :=
  s.runLive fun h => h.ld who pre m ev

/-- LDS (R102): a sign-extending load. -/
def execLds (who : Ctx) (pre : List Byte) (m : MemArgs) (ev : AccessEvent) (s : State) : Host.Outcome State Fault
    Refusal :=
  s.runLive fun h => h.lds who pre m ev

/-- ST (R106): a store. -/
def execSt (who : Ctx) (pre : List Byte) (m : MemArgs) (ev : AccessEvent) (s : State) : Host.Outcome State Fault
    Refusal :=
  s.runLive fun h => h.st who pre m ev

/-- PUSH (R111): PUSH of a register. -/
def execPush (who : Ctx) (pre : List Byte) (ob : Ob) (ev : AccessEvent) (s : State) : Host.Outcome State Fault
    Refusal :=
  s.runLive fun h => h.push who pre ob ev

/-- POP (R111): POP of a register. -/
def execPop (who : Ctx) (pre : List Byte) (ob : Ob) (ev : AccessEvent) (s : State) : Host.Outcome State Fault
    Refusal :=
  s.runLive fun h => h.pop who pre ob ev

/-- STP (R100): a store of a register pair. -/
def execStp (who : Ctx) (pre : List Byte) (m : MemArgs) (ev : AccessEvent) (s : State) : Host.Outcome State Fault
    Refusal :=
  s.runLive fun h => h.stp who pre m ev

/-- LDP (R100): a load of a register pair. -/
def execLdp (who : Ctx) (pre : List Byte) (m : MemArgs) (ev : AccessEvent) (s : State) : Host.Outcome State Fault
    Refusal :=
  s.runLive fun h => h.ldp who pre m ev

end Sys2Proof.Machine
end

