-- ==== Sys2Proof/Machine/HobFlow.lean ====
section
/-!
DEFINITION. The Hob's control flow (R99, R100, R105, R111, R122, R130): branches, jumps, calls and returns. -/

namespace Sys2Proof.Machine.Hw

/-- Bcc, with or without annul. -/
def branchOp (h : Hw) (annul : Bool) (who : Ctx) (pre : List Byte) (cc : BitVec 4) (off : Word) : Op :=
  let bmode := match who with
    | .cottage _ => true
    | .reeve r => (h.reeve r).bmode
  { len := pre.length + 1 + immLen pre, limm := preLimm pre,
    bad := encodingFault who ⟨false, true, false⟩ pre ((!annul || bmode) && !h.inSlot who) annul, again := none,
    body := fun h x next =>
      let goal := if holds cc x.fl then some (next + immSigned pre off) else none
      goes h x [] goal annul .direction (if goal.isSome then 15 else 16) }

/-- Bcc (0x60-0x6F). -/
def bcc (h : Hw) (who : Ctx) (pre : List Byte) (cc : BitVec 4) (off : Word) : Hw :=
  h.issues who (h.branchOp false who pre cc off)
/-- Bcc with annul (0x90-0x9F): a Reeve core in B-mode only (R130). -/
def bccAnnul (h : Hw) (who : Ctx) (pre : List Byte) (cc : BitVec 4) (off : Word) : Hw :=
  h.issues who (h.branchOp true who pre cc off)

/-- The target of JMP or CALL, and how it is predicted. -/
def jumpTo (pre : List Byte) (x : Hob) (next : Word) (j : JumpArgs) : Word × Predicted :=
  match j with
  | .rel off => (next + immSigned pre off, .never)
  | .reg ob => (x.read ob.a, .indirect)

/-- The encoding fault of JMP or CALL: LIMM only in the relative form, whose field it lengthens; OB.B is 0 in the other. -/
def jumpBad (h : Hw) (who : Ctx) (pre : List Byte) (j : JumpArgs) : Nat :=
  match j with
  | .rel _ => encodingFault who ⟨false, true, false⟩ pre (!h.inSlot who) false
  | .reg ob => encodingFault who ⟨false, false, false⟩ pre (ob.b == 0 && !h.inSlot who) false

/-- JMP. -/
def jmpOp (h : Hw) (who : Ctx) (pre : List Byte) (j : JumpArgs) : Op :=
  { len := jumpLen pre j, limm := preLimm pre, bad := h.jumpBad who pre j, again := none,
    body := fun h x next =>
      let (t, p) := jumpTo pre x next j
      goes h x [] (some t) false p 17 }

def jmp (h : Hw) (who : Ctx) (pre : List Byte) (j : JumpArgs) : Hw := h.issues who (h.jmpOp who pre j)

/-- CALL: pushes the address of the next instruction, in B-mode the one after its slot, and jumps (R111, R130). -/
def callOp (h : Hw) (who : Ctx) (pre : List Byte) (j : JumpArgs) (ev : AccessEvent) : Op :=
  { len := jumpLen pre j, limm := preLimm pre, bad := h.jumpBad who pre j, again := none,
    body := fun h x next =>
      match h.afterSlot who next with
      | .error k => .error (.fault k)
      | .ok back =>
        match h.pushWord who x back ev with
        | .error e => .error e
        | .ok h =>
          let (t, p) := jumpTo pre x next j
          goes h x [toSp (x.sp - 4)] (some t) false p 18 }

def call (h : Hw) (who : Ctx) (pre : List Byte) (j : JumpArgs) (ev : AccessEvent) : Hw :=
  h.issues who (h.callOp who pre j ev)

/-- RET: loads PC at SP and adds 4 to SP. -/
def retOp (h : Hw) (who : Ctx) (pre : List Byte) (ev : AccessEvent) : Op :=
  { len := pre.length + 1, limm := false, bad := encodingFault who ⟨false, false, false⟩ pre (!h.inSlot who) false,
    again := some (.ret who pre .hit),
    body := fun h x _ =>
      match h.popWord who x ev with
      | .error e => .error e
      | .ok (t, h) => goes h x [toSp (x.sp + 4)] (some t) false .indirect 19 }

def ret (h : Hw) (who : Ctx) (pre : List Byte) (ev : AccessEvent) : Hw := h.issues who (h.retOp who pre ev)

/-- RETI: lands every pending write, loads PC, then FL, and adds 8 to SP (R116, R122). -/
def retiOp (h : Hw) (who : Ctx) (pre : List Byte) (ev : AccessEvent) : Op :=
  { len := pre.length + 1, limm := false, bad := encodingFault who ⟨false, false, false⟩ pre (!h.inSlot who) false,
    again := some (.reti who pre .hit),
    body := fun h x _ =>
      let y := Hob.landAll x
      match h.popWord who y ev with
      | .error e => .error e
      | .ok (t, h) =>
        match h.load who .default (y.sp + 4).toNat 4 .hit with
        | .error e => .error e
        | .ok (fl, h) =>
          .ok ⟨h, { y with sp := y.sp + 8, fl := BitVec.ofNat 32 fl &&& 0x9F }, [], .back t, .indirect, 20, none⟩ }

def reti (h : Hw) (who : Ctx) (pre : List Byte) (ev : AccessEvent) : Hw := h.issues who (h.retiOp who pre ev)

end Sys2Proof.Machine.Hw

/-! ### The commands -/

namespace Sys2Proof.Machine

/-- BCC (R100): a conditional branch. -/
def execBcc (who : Ctx) (pre : List Byte) (cc : BitVec 4) (off : Word) (s : State) : Host.Outcome State Fault
    Refusal :=
  s.runLive fun h => h.bcc who pre cc off

/-- BCC_ANNUL (R130): a conditional branch with annul. -/
def execBccAnnul (who : Ctx) (pre : List Byte) (cc : BitVec 4) (off : Word) (s : State) : Host.Outcome State
    Fault Refusal :=
  s.runLive fun h => h.bccAnnul who pre cc off

/-- JMP (R100): a jump. -/
def execJmp (who : Ctx) (pre : List Byte) (j : JumpArgs) (s : State) : Host.Outcome State Fault Refusal :=
  s.runLive fun h => h.jmp who pre j

/-- CALL (R111): a call. -/
def execCall (who : Ctx) (pre : List Byte) (j : JumpArgs) (ev : AccessEvent) (s : State) : Host.Outcome State
    Fault Refusal :=
  s.runLive fun h => h.call who pre j ev

/-- RET (R111): a return. -/
def execRet (who : Ctx) (pre : List Byte) (ev : AccessEvent) (s : State) : Host.Outcome State Fault Refusal :=
  s.runLive fun h => h.ret who pre ev

/-- RETI (R122): a return from interrupt. -/
def execReti (who : Ctx) (pre : List Byte) (ev : AccessEvent) (s : State) : Host.Outcome State Fault Refusal :=
  s.runLive fun h => h.reti who pre ev

end Sys2Proof.Machine
end

