-- ==== Sys2Proof/Machine/HobEvent.lean ====
section
/-!
DEFINITION. What happens to a context beside its instructions: the ends of waits that hold an instruction (R42, R44,
R114, R161), interrupt entry (R122, R401), interrupts and control of the Reeve cores (R129, R131, R136, R396). -/

namespace Sys2Proof.Machine.Hw

/-! ### Held instructions -/

/-- The instruction that a wait holds, as it goes on. -/
def heldOp (h : Hw) (i : Instr) : Option Op :=
  match i with
  | .ld who pre m ev => some (ldOp who pre m ev)
  | .lds who pre m ev => some (ldsOp who pre m ev)
  | .st who pre m ev => some (stOp who pre m ev)
  | .ldp who pre m ev => some (ldpOp who pre m ev)
  | .pop who pre ob ev => some (popOp who pre ob ev)
  | .ret who pre ev => some (h.retOp who pre ev)
  | .reti who pre ev => some (h.retiOp who pre ev)
  | _ => none

/-- The wait of cottage c is over, and the instruction it held completes. -/
def resumed (h : Hw) (c : Nat) : Hw :=
  h.modCtx c fun x =>
    { x with held := none, wait := .ending (match x.wait with
      | .beam _ => true
      | _ => false) }

/-- The held instruction has completed: no fault, no further wait. -/
def resumedDone (h : Hw) (c : Nat) : Bool :=
  match (h.ctx c).wait with
  | .ending _ => true
  | _ => false

/-- A wait of cottage c ends: the instruction it holds completes with its stamp, and the context goes to READY (R34, R36). -/
def goesOn (h : Hw) (c : Nat) : Hw :=
  match (h.ctx c).held.bind h.heldOp with
  | none => (h.modCtx c fun x => { x with held := none }).toReady c
  | some o =>
    let h := (h.resumed c).cotExecutes c o false
    if h.resumedDone c then h.toReady c else h

/-- The data of a load that missed has returned (R114). -/
def missDataReturn (h : Hw) (c : Nat) : Hw :=
  if (h.ctx c).st = .miss then
    match (h.ctx c).wait with
    | .cache l2 => (if l2 then h.tagReturn (.parish (c / 256)) 1 else h).goesOn c
    | _ => h
  else h

/-- The condition of a beam wait is met (R44, R161). -/
def beamWaitEnd (h : Hw) (c : Nat) : Hw :=
  let x := h.ctx c
  if x.st = .bwait then
    match x.wait with
    | .beam pixels => if h.beamExact c pixels then h.goesOn c else h
    | .frameStart => if h.visibleDone c (x.frame - 1) then ((h.collRaise c).setStart c .none).toReady c else h
    | _ => h
  else h

/-- The fill of the Tally has fallen to 448 (R42, R49). -/
def tallyFullResume (h : Hw) (c : Nat) : Hw :=
  let x := h.ctx c
  if x.st = .dhold ∧ x.wait = .tallyFull ∧ h.tallyFill c ≤ 448 then h.goesOn c else h

/-! ### Interrupt entry of a cottage (R122, R401) -/

/-- The two stores of an interrupt entry: FL, then PC. -/
def entryStores (h : Hw) (c : Nat) (x : Hob) : Except Stop Hw :=
  match h.pushWord (.cottage c) x x.fl .hit with
  | .error e => .error e
  | .ok h => h.pushWord (.cottage c) { x with sp := x.sp - 4 } x.pc .hit

/-- Cottage c takes interrupt entry, before the instruction it would issue: pending writes land, FL and PC are stored, IE is
cleared, control goes to CIB_VEC; class 21 is charged. A misaligned SP faults. -/
def interruptEntry (h : Hw) (c : Nat) : Hw :=
  if !h.canIssue c || !h.entryDue c then h
  else
    let x := Hob.landAll (h.ctx c).hob
    match h.entryStores c x with
    | .ok h =>
      let vec := BitVec.ofNat 32 (h.ioWord c 0x9014)
      let h := h.modCtx c fun y => { y with hob := { x with sp := x.sp - 8, fl := x.fl &&& ~~~0x80, pc := vec } }
      h.charge c ((h.cls c).timing.getD 21 0)
    | .error (.fault k) => h.hobFault c k x.pc.toNat
    | .error (.hold g st w _) => g.waitIn c st w
    | .error (.contain g k) => g.containGrn c k (detailOf .GRN [k, c])
    | .error (.dead g) => g

/-! ### Reeve cores -/

/-- Core r takes an interrupt: the exception of cause 0x20, whose EPC is the next instruction's address (R396). It ends a
wait of WFI. -/
def reeveInterrupt (h : Hw) (r : Nat) : Hw :=
  if h.flag F.RVE_STAT_HALTED 0 r || !h.reeveDue r then h else h.reeveEntry r 0x20

/-- RVE_CTL of core r with one bit changed. -/
def rveCtlWith (h : Hw) (r b : Nat) (on : Bool) : Nat := setBits (h.reg .RVE_CTL 0 r).toNat b b (b2n on)

def reeveHalt (h : Hw) (ag : Agent) (r : Nat) (on : Bool) : Hw := h.rveCtlWrite ag r (h.rveCtlWith r 0 on)
def bmodeWrite (h : Hw) (ag : Agent) (r : Nat) (on : Bool) : Hw := h.rveCtlWrite ag r (h.rveCtlWith r 1 on)
def predOffWrite (h : Hw) (ag : Agent) (r : Nat) (on : Bool) : Hw := h.rveCtlWrite ag r (h.rveCtlWith r 2 on)

end Sys2Proof.Machine.Hw

/-! ### The commands -/

namespace Sys2Proof.Machine

/-- MISS_DATA_RETURN (R114): the data that cottage c's load misses have returned. -/
def execMissDataReturn (c : Nat) (s : State) : Host.Outcome State Fault Refusal :=
  s.runLive fun h => h.missDataReturn c

/-- BEAM_WAIT_END (R44): what cottage c's beam wait awaits is exact. -/
def execBeamWaitEnd (c : Nat) (s : State) : Host.Outcome State Fault Refusal :=
  s.runLive fun h => h.beamWaitEnd c

/-- TALLY_FULL_RESUME (R42): the fill of cottage c's Tally has fallen to 448. -/
def execTallyFullResume (c : Nat) (s : State) : Host.Outcome State Fault Refusal :=
  s.runLive fun h => h.tallyFullResume c

/-- INTERRUPT_ENTRY (R122): cottage c takes its interrupt. -/
def execInterruptEntry (c : Nat) (s : State) : Host.Outcome State Fault Refusal :=
  s.runLive fun h => h.interruptEntry c

/-- REEVE_INTERRUPT (R396): Reeve core r takes an interrupt. -/
def execReeveInterrupt (r : Nat) (s : State) : Host.Outcome State Fault Refusal :=
  s.runLive fun h => h.reeveInterrupt r

/-- REEVE_HALT (R136): a write of RVE_CTL.HALT of core r. -/
def execReeveHalt (ag : Agent) (r : Nat) (on : Bool) (s : State) : Host.Outcome State Fault Refusal :=
  s.runLive fun h => h.reeveHalt ag r on

/-- BMODE_WRITE (R131): a write of RVE_CTL.BMODE of core r. -/
def execBmodeWrite (ag : Agent) (r : Nat) (on : Bool) (s : State) : Host.Outcome State Fault Refusal :=
  s.runLive fun h => h.bmodeWrite ag r on

/-- PRED_OFF_WRITE (R129): a write of RVE_CTL.PRED_OFF of core r. -/
def execPredOffWrite (ag : Agent) (r : Nat) (on : Bool) (s : State) : Host.Outcome State Fault Refusal :=
  s.runLive fun h => h.predOffWrite ag r on

end Sys2Proof.Machine
end

