-- ==== Sys2Proof/Machine/HobSys.lean ====
section
/-!
DEFINITION. The Hob's remaining instructions (R19, R100, R112, R123, R124, R128): WAITLINE, NOP to UNBARP, MOVS, EI,
DI, WFI, ERET. -/

namespace Sys2Proof.Machine.Hw

/-- An instruction of one opcode byte that accepts no prefix. -/
def plainIssue (h : Hw) (who : Ctx) (pre : List Byte) (legal reeveOnly : Bool) (body : Hw → Hob → Except Stop Fin) : Hw :=
  h.issues who
    { len := pre.length + 1, limm := false, bad := encodingFault who ⟨false, false, false⟩ pre legal reeveOnly,
      again := none, body := fun h x _ => body h x }

/-- The bytes of WAITLINE after its opcode. -/
def waitLen : LineArgs → Nat
  | .imm _ => 2
  | .reg _ => 1

/-- The field of WAITLINE that must be 0 is. -/
def waitFields : LineArgs → Bool
  | .imm _ => true
  | .reg ob => ob.b == 0

/-- The line of WAITLINE. -/
def waitTarget (x : Hob) (t : LineArgs) : Nat :=
  match t with
  | .imm v => v.toNat
  | .reg ob => (x.read ob.a).toNat

/-- What WAITLINE does (R19, R123): to the start of line t, if the beam is before it; else one virtual cycle. -/
def waitBody (who : Ctx) (t : LineArgs) (h : Hw) (x : Hob) : Except Stop Fin :=
  let line := waitTarget x t
  match who with
  | .reeve _ => .error (.fault 0x01)
  | .cottage c =>
    let k := h.cls c
    let vc := (h.ctx c).vc
    if line < 1 ∨ k.tl < line then .error (.fault 0x04)
    else .ok ⟨h, x, [], .next, .never, 0, some (if vc / k.vcpl < line then line * k.vcpl - vc else 1)⟩

/-- WAITLINE. -/
def waitline (h : Hw) (who : Ctx) (pre : List Byte) (t : LineArgs) : Hw :=
  h.issues who
    { len := pre.length + 1 + waitLen t, limm := false,
      bad := encodingFault who ⟨false, false, false⟩ pre (waitFields t && ctxIsCottage who) false, again := none,
      body := fun h x _ => waitBody who t h x }

/-- NOP, of opcode 0x80; a reserved opcode is ILLEGAL (R96; log entry 50). -/
def nop (h : Hw) (who : Ctx) (pre : List Byte) (opc : Byte) : Hw :=
  h.plainIssue who pre (opc == 0x80) false fun h x => done h x [] 24
/-- FENCE: a model in which every access is complete before the next has nothing left to order (R110). -/
def fence (h : Hw) (who : Ctx) (pre : List Byte) : Hw := h.plainIssue who pre true false fun h x => done h x [] 24
def flushp (h : Hw) (who : Ctx) (pre : List Byte) : Hw :=
  h.plainIssue who pre true false fun h x => done h { x with dirTable := [], indTable := [], hist := 0 } [] 24
def barp (h : Hw) (who : Ctx) (pre : List Byte) : Hw :=
  h.plainIssue who pre true false fun h x => done h { x with barred := true } [] 24
def unbarp (h : Hw) (who : Ctx) (pre : List Byte) : Hw :=
  h.plainIssue who pre true false fun h x => done h { x with barred := false } [] 24
def ei (h : Hw) (who : Ctx) (pre : List Byte) : Hw :=
  h.plainIssue who pre true false fun h x => done h x [toFl 1 0x80 0x80] 24
def di (h : Hw) (who : Ctx) (pre : List Byte) : Hw :=
  h.plainIssue who pre true false fun h x => done h x [toFl 1 0x80 0] 24

/-! ### Special registers (R112) -/

/-- A special register's number that is not reserved. -/
def isSpecial (b : BitVec 4) : Bool := decide (b.toNat ≤ 5) || b == 8 || b == 9

/-- A Reeve-only number. -/
def isReeveSpecial (b : BitVec 4) : Bool := decide (2 ≤ b.toNat ∧ b.toNat ≤ 5)

/-- The register behind a Reeve-only number. -/
def specialName (b : BitVec 4) : RegName :=
  match b.toNat with
  | 2 => .RVE_EPC
  | 3 => .RVE_EXC
  | 4 => .RVE_VEC
  | _ => .RVE_CTL

/-- What MOVS reads. -/
def special (h : Hw) (who : Ctx) (x : Hob) (b : BitVec 4) : Word :=
  match b.toNat, who with
  | 0, _ => x.sp
  | 1, _ => x.fl
  | 8, .cottage c => BitVec.ofNat 32 (stampBits (h.cls c) (h.stamp c))
  | 9, .cottage c => BitVec.ofNat 32 (h.ctx c).frame
  | 8, .reeve _ | 9, .reeve _ => 0
  | _, .reeve r => BitVec.ofNat 32 (h.shown (specialName b) 0 r)
  | _, .cottage _ => 0

/-- MOVS g[A] := special B. -/
def movsRead (h : Hw) (who : Ctx) (pre : List Byte) (ob : Ob) : Hw :=
  h.issues who
    { len := pre.length + 2, limm := false,
      bad := encodingFault who ⟨false, false, false⟩ pre (isSpecial ob.b) (isReeveSpecial ob.b), again := none,
      body := fun h x _ => done h x [toReg ob.a 2 (h.special who x ob.b)] 23 }

/-- What MOVS special B := g[A] does. -/
def movsBody (who : Ctx) (ob : Ob) (h : Hw) (x : Hob) : Except Stop Fin :=
  let v := x.read ob.a
  match ob.b.toNat, who with
  | 0, _ => done h x [toSp v] 23
  | 1, _ => done h x [toFl 1 (BitVec.allOnes 32) (v &&& 0x9F)] 23
  | 5, .reeve r => done (h.rveCtlWrite (.reeve r .io) r v.toNat) x [] 23
  | 2, .reeve r | 3, .reeve r | 4, .reeve r => done (h.storeFields (specialName ob.b) 0 r v.toNat) x [] 23
  | _, _ => .error (.fault 0x06)

/-- MOVS special B := g[A]. -/
def movsWrite (h : Hw) (who : Ctx) (pre : List Byte) (ob : Ob) : Hw :=
  h.issues who
    { len := pre.length + 2, limm := false,
      bad := encodingFault who ⟨false, false, false⟩ pre (isSpecial ob.b) (isReeveSpecial ob.b), again := none,
      body := fun h x _ => movsBody who ob h x }

/-! ### Reeve cores only (R124, R136) -/

/-- WFI: core r waits until it takes an interrupt (log entry 47). -/
def wfi (h : Hw) (who : Ctx) (pre : List Byte) : Hw :=
  h.plainIssue who pre true true fun h x =>
    match who with
    | .reeve r => done (h.setReeve r { h.reeve r with waiting := true }) x [] 24
    | .cottage _ => .error (.fault 0x02)

/-- ERET: lands every pending write, restores FL[7:0] from SFL and PC from EPC. -/
def eret (h : Hw) (who : Ctx) (pre : List Byte) : Hw :=
  h.plainIssue who pre (!h.inSlot who) true fun h x =>
    match who with
    | .reeve r =>
      let y := Hob.landAll x
      .ok ⟨h, { y with fl := BitVec.ofNat 32 (h.fld F.RVE_EXC_SFL 0 r) &&& 0x9F }, [],
        .back (BitVec.ofNat 32 (h.fld F.RVE_EPC_EPC 0 r)), .never, 24, none⟩
    | .cottage _ => .error (.fault 0x02)

end Sys2Proof.Machine.Hw

/-! ### The commands -/

namespace Sys2Proof.Machine

/-- WAITLINE (R19): WAITLINE of a line. -/
def execWaitline (who : Ctx) (pre : List Byte) (t : LineArgs) (s : State) : Host.Outcome State Fault Refusal :=
  s.runLive fun h => h.waitline who pre t

/-- NOP (R100): NOP, or a reserved opcode (R96). -/
def execNop (who : Ctx) (pre : List Byte) (s : State) (opc : Byte := 0x80) : Host.Outcome State Fault Refusal :=
  s.runLive fun h => h.nop who pre opc

/-- FENCE (R110): FENCE. -/
def execFence (who : Ctx) (pre : List Byte) (s : State) : Host.Outcome State Fault Refusal :=
  s.runLive fun h => h.fence who pre

/-- FLUSHP (R128): FLUSHP. -/
def execFlushp (who : Ctx) (pre : List Byte) (s : State) : Host.Outcome State Fault Refusal :=
  s.runLive fun h => h.flushp who pre

/-- BARP (R128): BARP. -/
def execBarp (who : Ctx) (pre : List Byte) (s : State) : Host.Outcome State Fault Refusal :=
  s.runLive fun h => h.barp who pre

/-- UNBARP (R128): UNBARP. -/
def execUnbarp (who : Ctx) (pre : List Byte) (s : State) : Host.Outcome State Fault Refusal :=
  s.runLive fun h => h.unbarp who pre

/-- MOVS_READ (R112): MOVS g[A] := special B. -/
def execMovsRead (who : Ctx) (pre : List Byte) (ob : Ob) (s : State) : Host.Outcome State Fault Refusal :=
  s.runLive fun h => h.movsRead who pre ob

/-- MOVS_WRITE (R112): MOVS special B := g[A]. -/
def execMovsWrite (who : Ctx) (pre : List Byte) (ob : Ob) (s : State) : Host.Outcome State Fault Refusal :=
  s.runLive fun h => h.movsWrite who pre ob

/-- EI (R100): EI. -/
def execEi (who : Ctx) (pre : List Byte) (s : State) : Host.Outcome State Fault Refusal :=
  s.runLive fun h => h.ei who pre

/-- DI (R100): DI. -/
def execDi (who : Ctx) (pre : List Byte) (s : State) : Host.Outcome State Fault Refusal :=
  s.runLive fun h => h.di who pre

/-- WFI (R100): WFI. -/
def execWfi (who : Ctx) (pre : List Byte) (s : State) : Host.Outcome State Fault Refusal :=
  s.runLive fun h => h.wfi who pre

/-- ERET (R124): ERET. -/
def execEret (who : Ctx) (pre : List Byte) (s : State) : Host.Outcome State Fault Refusal :=
  s.runLive fun h => h.eret who pre

end Sys2Proof.Machine
end

