-- ==== Sys2Proof/Machine/RegWrite.lean ====
section
/-!
DEFINITION. A write of any register by its address (R5, R9, R11, R106, R447). -/

namespace Sys2Proof.Machine.Hw

/-- The agent is a PF. -/
def isPf (ag : Agent) : Bool :=
  match ag with
  | .pf _ => true
  | _ => false

/-- The function whose copies of banked registers an agent's access names: its own, or for a core `view`. -/
def viewOf (ag : Agent) (view : Nat) : Nat := (agentFn ag).getD (view % 258)

/-- A read of n bytes at an offset by an agent: a function gets its answer, or Unsupported Request where its BARs do not
answer; a core's register reads are its loads. -/
def readBy (h : Hw) (ag : Agent) (view off n : Nat) : Hw :=
  if !h.reaches ag then h.unreached ag
  else
    let (v, h) := h.readBar ag view off n
    h.answer ag v

/-- An access of `bytes` bytes at BAR0 offset `off`. An access by a PF ends module sleep first (R474). -/
def registerWrite (h : Hw) (ag : Agent) (view off bytes : Nat) (acc : BarAccess) : Hw :=
  let h := if h.power.asleep && isPf ag && h.reaches ag then h.sleepEnds else h
  h.live fun h =>
    match acc with
    | .read => h.readBy ag (viewOf ag view) off bytes
    | .write v => h.writeBar ag (viewOf ag view) off bytes v.toNat

end Sys2Proof.Machine.Hw

/-! ### The commands -/

namespace Sys2Proof.Machine

/-- REGISTER_WRITE (R5, R9): an access of `bytes` bytes at BAR0 offset `off`, for a core in the view of function `view`. -/
def execRegisterWrite (ag : Agent) (view : Nat) (off : Nat) (bytes : Nat) (acc : BarAccess) (s : State) : Host.Outcome
    State Fault Refusal :=
  s.runWake fun h => h.registerWrite ag view off bytes acc

end Sys2Proof.Machine
end

