-- ==== Sys2Proof/Machine/Dispatch.lean ====
section
/-!
DEFINITION. The dispatch: one arm per command, each one call of its meaning. -/

namespace Sys2Proof.Machine

/-- The effect of a command on everything but the queue. -/
def exec (i : Instr) (s : State) : Host.Outcome State Fault Refusal :=
  match i with
  | .registerWrite ag view off bytes acc => Sys2Proof.Machine.execRegisterWrite ag view off bytes acc s
  | .aluMov who pre x => Sys2Proof.Machine.execAluMov who pre x s
  | .aluAdd who pre x => Sys2Proof.Machine.execAluAdd who pre x s
  | .aluAdc who pre x => Sys2Proof.Machine.execAluAdc who pre x s
  | .aluSub who pre x => Sys2Proof.Machine.execAluSub who pre x s
  | .aluSbc who pre x => Sys2Proof.Machine.execAluSbc who pre x s
  | .aluCmp who pre x => Sys2Proof.Machine.execAluCmp who pre x s
  | .aluAnd who pre x => Sys2Proof.Machine.execAluAnd who pre x s
  | .aluOr who pre x => Sys2Proof.Machine.execAluOr who pre x s
  | .aluXor who pre x => Sys2Proof.Machine.execAluXor who pre x s
  | .aluTst who pre x => Sys2Proof.Machine.execAluTst who pre x s
  | .aluShl who pre x => Sys2Proof.Machine.execAluShl who pre x s
  | .aluShr who pre x => Sys2Proof.Machine.execAluShr who pre x s
  | .aluSar who pre x => Sys2Proof.Machine.execAluSar who pre x s
  | .aluRol who pre x => Sys2Proof.Machine.execAluRol who pre x s
  | .aluRor who pre x => Sys2Proof.Machine.execAluRor who pre x s
  | .aluMul who pre x => Sys2Proof.Machine.execAluMul who pre x s
  | .cmovcc who pre cc ob => Sys2Proof.Machine.execCmovcc who pre cc ob s
  | .aluNeg who pre ob => Sys2Proof.Machine.execAluNeg who pre ob s
  | .aluNot who pre ob => Sys2Proof.Machine.execAluNot who pre ob s
  | .sext8 who pre ob => Sys2Proof.Machine.execSext8 who pre ob s
  | .sext16 who pre ob => Sys2Proof.Machine.execSext16 who pre ob s
  | .mulh who pre ob => Sys2Proof.Machine.execMulh who pre ob s
  | .mulhu who pre ob => Sys2Proof.Machine.execMulhu who pre ob s
  | .divu who pre ob => Sys2Proof.Machine.execDivu who pre ob s
  | .divs who pre ob => Sys2Proof.Machine.execDivs who pre ob s
  | .sel who pre ob t cc => Sys2Proof.Machine.execSel who pre ob t cc s
  | .lea who pre m => Sys2Proof.Machine.execLea who pre m s
  | .bcc who pre cc off => Sys2Proof.Machine.execBcc who pre cc off s
  | .bccAnnul who pre cc off => Sys2Proof.Machine.execBccAnnul who pre cc off s
  | .ld who pre m ev => Sys2Proof.Machine.execLd who pre m ev s
  | .lds who pre m ev => Sys2Proof.Machine.execLds who pre m ev s
  | .st who pre m ev => Sys2Proof.Machine.execSt who pre m ev s
  | .push who pre ob ev => Sys2Proof.Machine.execPush who pre ob ev s
  | .pop who pre ob ev => Sys2Proof.Machine.execPop who pre ob ev s
  | .stp who pre m ev => Sys2Proof.Machine.execStp who pre m ev s
  | .ldp who pre m ev => Sys2Proof.Machine.execLdp who pre m ev s
  | .jmp who pre j => Sys2Proof.Machine.execJmp who pre j s
  | .call who pre j ev => Sys2Proof.Machine.execCall who pre j ev s
  | .ret who pre ev => Sys2Proof.Machine.execRet who pre ev s
  | .reti who pre ev => Sys2Proof.Machine.execReti who pre ev s
  | .waitline who pre t => Sys2Proof.Machine.execWaitline who pre t s
  | .nop who pre opc => Sys2Proof.Machine.execNop who pre s opc
  | .fence who pre => Sys2Proof.Machine.execFence who pre s
  | .flushp who pre => Sys2Proof.Machine.execFlushp who pre s
  | .barp who pre => Sys2Proof.Machine.execBarp who pre s
  | .unbarp who pre => Sys2Proof.Machine.execUnbarp who pre s
  | .movsRead who pre ob => Sys2Proof.Machine.execMovsRead who pre ob s
  | .movsWrite who pre ob => Sys2Proof.Machine.execMovsWrite who pre ob s
  | .ei who pre => Sys2Proof.Machine.execEi who pre s
  | .di who pre => Sys2Proof.Machine.execDi who pre s
  | .wfi who pre => Sys2Proof.Machine.execWfi who pre s
  | .eret who pre => Sys2Proof.Machine.execEret who pre s
  | .missDataReturn c => Sys2Proof.Machine.execMissDataReturn c s
  | .beamWaitEnd c => Sys2Proof.Machine.execBeamWaitEnd c s
  | .tallyFullResume c => Sys2Proof.Machine.execTallyFullResume c s
  | .parityHoldEnd c => Sys2Proof.Machine.execParityHoldEnd c s
  | .interruptEntry c => Sys2Proof.Machine.execInterruptEntry c s
  | .reeveInterrupt r => Sys2Proof.Machine.execReeveInterrupt r s
  | .schedulerPick n core => Sys2Proof.Machine.execSchedulerPick n core s
  | .bell n => Sys2Proof.Machine.execBell n s
  | .bellRateWrite ag n custom v => Sys2Proof.Machine.execBellRateWrite ag n custom v s
  | .bellSourceWrite ag n src => Sys2Proof.Machine.execBellSourceWrite ag n src s
  | .bellSourceLost n => Sys2Proof.Machine.execBellSourceLost n s
  | .bellRelock n => Sys2Proof.Machine.execBellRelock n s
  | .cotCtlRun ag c run ev => Sys2Proof.Machine.execCotCtlRun ag c run s ev
  | .cotCtlRst ag c => Sys2Proof.Machine.execCotCtlRst ag c s
  | .cotCtlHalt ag c on => Sys2Proof.Machine.execCotCtlHalt ag c on s
  | .cotContextWrite ag c r v => Sys2Proof.Machine.execCotContextWrite ag c r v s
  | .inputPush ag c value => Sys2Proof.Machine.execInputPush ag c value s
  | .inputApplied c => Sys2Proof.Machine.execInputApplied c s
  | .validateParish ag p mask vec => Sys2Proof.Machine.execValidateParish ag p mask vec s
  | .loadParish ag p mask vec => Sys2Proof.Machine.execLoadParish ag p mask vec s
  | .validateModule ag p vec => Sys2Proof.Machine.execValidateModule ag p vec s
  | .loadModule ag p vec => Sys2Proof.Machine.execLoadModule ag p vec s
  | .armFetchDone how => Sys2Proof.Machine.execArmFetchDone how s
  | .armCheckDone => Sys2Proof.Machine.execArmCheckDone s
  | .armComplete pads => Sys2Proof.Machine.execArmComplete pads s
  | .reeveHalt ag r on => Sys2Proof.Machine.execReeveHalt ag r on s
  | .bmodeWrite ag r on => Sys2Proof.Machine.execBmodeWrite ag r on s
  | .predOffWrite ag r on => Sys2Proof.Machine.execPredOffWrite ag r on s
  | .visibleJob c j stop flaw => Sys2Proof.Machine.execVisibleJob c j stop flaw s
  | .blankingJob c j stop flaw => Sys2Proof.Machine.execBlankingJob c j stop s flaw
  | .jobResume c j stop flaw => Sys2Proof.Machine.execJobResume c j stop flaw s
  | .patternCacheFill c stop flaw => Sys2Proof.Machine.execPatternCacheFill c stop flaw s
  | .safeGap c j path => Sys2Proof.Machine.execSafeGap c j s path
  | .porchFlip c k late => Sys2Proof.Machine.execPorchFlip c k late s
  | .streamEnable ag c v => Sys2Proof.Machine.execStreamEnable ag c v s
  | .porS1CtlWrite ag c v => Sys2Proof.Machine.execPorS1CtlWrite ag c v s
  | .refresh ag c k => Sys2Proof.Machine.execRefresh ag c k s
  | .edpEnable ag e en => Sys2Proof.Machine.execEdpEnable ag e en s
  | .edpGeometryWrite ag e dst v => Sys2Proof.Machine.execEdpGeometryWrite ag e dst v s
  | .edpPanelFrame e gran unfinished => Sys2Proof.Machine.execEdpPanelFrame e gran unfinished s
  | .edpLinkLost e hpd => Sys2Proof.Machine.execEdpLinkLost e s hpd
  | .auxTransaction ag e request => Sys2Proof.Machine.execAuxTransaction ag e request s
  | .voiceSample c flaw => Sys2Proof.Machine.execVoiceSample c flaw s
  | .mixSample n clocks realign => Sys2Proof.Machine.execMixSample n clocks realign s
  | .mixBlockBoundary n => Sys2Proof.Machine.execMixBlockBoundary n s
  | .routeWrite ag c r v => Sys2Proof.Machine.execRouteWrite ag c r v s
  | .chrBusWrite ag c v => Sys2Proof.Machine.execChrBusWrite ag c v s
  | .hostAudioEnable ag c v => Sys2Proof.Machine.execHostAudioEnable ag c v s
  | .audio c => Sys2Proof.Machine.execAudio c s
  | .tdmPortFrame p ready => Sys2Proof.Machine.execTdmPortFrame p ready s
  | .tdmSlip p again => Sys2Proof.Machine.execTdmSlip p s again
  | .tdmConfigWrite ag p v => Sys2Proof.Machine.execTdmConfigWrite ag p v s
  | .amclkSourceWrite ag v => Sys2Proof.Machine.execAmclkSourceWrite ag v s
  | .amclkLost => Sys2Proof.Machine.execAmclkLost s
  | .amclkLock => Sys2Proof.Machine.execAmclkLock s
  | .cmapWrite ag c e v => Sys2Proof.Machine.execCmapWrite ag c e v s
  | .granuleArrival f g => Sys2Proof.Machine.execGranuleArrival f g s
  | .pageinFail f g how => Sys2Proof.Machine.execPageinFail f g how s
  | .cowCopyDone f g => Sys2Proof.Machine.execCowCopyDone f g s
  | .allocCmd ag p vec => Sys2Proof.Machine.execAllocCmd ag p vec s
  | .freeCmd ag p vec => Sys2Proof.Machine.execFreeCmd ag p vec s
  | .granaryDrop ag p vec => Sys2Proof.Machine.execGranaryDrop ag p vec s
  | .readCmd ag p vec => Sys2Proof.Machine.execReadCmd ag p vec s
  | .evacuate ag p vec => Sys2Proof.Machine.execEvacuate ag p vec s
  | .evacuateRelease ag p vec => Sys2Proof.Machine.execEvacuateRelease ag p vec s
  | .evacuateDone q => Sys2Proof.Machine.execEvacuateDone q s
  | .capture ag c slot vec => Sys2Proof.Machine.execCapture ag c slot vec s
  | .capturePoint c ev => Sys2Proof.Machine.execCapturePoint c s ev
  | .restore ag c slot vec => Sys2Proof.Machine.execRestore ag c slot vec s
  | .restoreTaken c ecc ev => Sys2Proof.Machine.execRestoreTaken c ecc s ev
  | .snapshotDrop ag c slot vec => Sys2Proof.Machine.execSnapshotDrop ag c slot vec s
  | .exportCmd ag c slot vec => Sys2Proof.Machine.execExportCmd ag c slot vec s
  | .exportDone c failed => Sys2Proof.Machine.execExportDone c failed s
  | .importCmd ag c slot vec => Sys2Proof.Machine.execImportCmd ag c slot vec s
  | .importDone c how => Sys2Proof.Machine.execImportDone c how s
  | .cancel ag c => Sys2Proof.Machine.execCancel ag c s
  | .retentionWrite ag n v => Sys2Proof.Machine.execRetentionWrite ag n v s
  | .bankWake n b => Sys2Proof.Machine.execBankWake n b s
  | .larderBankAccess n b accs => Sys2Proof.Machine.execLarderBankAccess n b accs s
  | .selfRefreshEntry k hint => Sys2Proof.Machine.execSelfRefreshEntry k hint s
  | .selfRefreshExit k => Sys2Proof.Machine.execSelfRefreshExit k s
  | .arbWindow a => Sys2Proof.Machine.execArbWindow a s
  | .arbiterGrant a reqs returned withdrawn ecc => Sys2Proof.Machine.execArbiterGrant a reqs returned withdrawn ecc s
  | .urgent a r waited => Sys2Proof.Machine.execUrgent a r waited s
  | .regionRegister ag o isSize v => Sys2Proof.Machine.execRegionRegister ag o isSize v s
  | .bar2Enable ag o v => Sys2Proof.Machine.execBar2Enable ag o v s
  | .inboundBar2Access o off n data => Sys2Proof.Machine.execInboundBar2Access o off n data s
  | .ringEnable ag o r v => Sys2Proof.Machine.execRingEnable ag o r v s
  | .comRingRet ag o r v => Sys2Proof.Machine.execComRingRet ag o r v s
  | .ringErr o r => Sys2Proof.Machine.execRingErr o r s
  | .errors o => Sys2Proof.Machine.execErrors o s
  | .comEqWrite ag o v => Sys2Proof.Machine.execComEqWrite ag o v s
  | .holdoffExpiry o vec => Sys2Proof.Machine.execHoldoffExpiry o vec s
  | .msixUnmask o x => Sys2Proof.Machine.execMsixUnmask o x s
  | .carterStart c v => Sys2Proof.Machine.execCarterStart c v s
  | .registerTransferDone n j ev => Sys2Proof.Machine.execRegisterTransferDone n j s ev
  | .chainRun ag n j => Sys2Proof.Machine.execChainRun ag n j s
  | .descriptorFetch n j => Sys2Proof.Machine.execDescriptorFetch n j s
  | .descriptorDone n j ev => Sys2Proof.Machine.execDescriptorDone n j s ev
  | .nextRead n j => Sys2Proof.Machine.execNextRead n j s
  | .carChDb ag n j => Sys2Proof.Machine.execCarChDb ag n j s
  | .pause ag n reg j => Sys2Proof.Machine.execPause ag n reg j s
  | .pauseClear ag n reg j => Sys2Proof.Machine.execPauseClear ag n reg j s
  | .pauseDrained n reg j bytes => Sys2Proof.Machine.execPauseDrained n reg j bytes s
  | .chainAbort ag n j bytes => Sys2Proof.Machine.execChainAbort ag n j bytes s
  | .registerChannelAbort ag n j bytes => Sys2Proof.Machine.execRegisterChannelAbort ag n j bytes s
  | .stopAll n space addr how port moved => Sys2Proof.Machine.execStopAll n space addr how port moved s
  | .resume ag n => Sys2Proof.Machine.execResume ag n s
  | .chiselStart c v => Sys2Proof.Machine.execChiselStart c v s
  | .vramBlitStart n j => Sys2Proof.Machine.execVramBlitStart n j s
  | .chiselTransferDone n j ev => Sys2Proof.Machine.execChiselTransferDone n j s ev
  | .privilegedStart ag n m v => Sys2Proof.Machine.execPrivilegedStart ag n m v s
  | .privilegedDone n m ev => Sys2Proof.Machine.execPrivilegedDone n m s ev
  | .readFail n j pixels how port => Sys2Proof.Machine.execReadFail n j pixels how port s
  | .pReadFail n m pixels how port => Sys2Proof.Machine.execPReadFail n m pixels how port s
  | .picTake ag n w => Sys2Proof.Machine.execPicTake ag n w s
  | .picAct ag n w v => Sys2Proof.Machine.execPicAct ag n w v s
  | .picSet ag n w v => Sys2Proof.Machine.execPicSet ag n w v s
  | .picEnWrite ag n w v => Sys2Proof.Machine.execPicEnWrite ag n w v s
  | .notification n => Sys2Proof.Machine.execNotification n s
  | .vanishSample n j => Sys2Proof.Machine.execVanishSample n j s
  | .cibTake c => Sys2Proof.Machine.execCibTake c s
  | .cibAct c v => Sys2Proof.Machine.execCibAct c v s
  | .cibSet c v => Sys2Proof.Machine.execCibSet c v s
  | .cibVtCtl c k v => Sys2Proof.Machine.execCibVtCtl c k v s
  | .vtFire c k => Sys2Proof.Machine.execVtFire c k s
  | .tmrArm ag u v => Sys2Proof.Machine.execTmrArm ag u v s
  | .tmrStop ag u => Sys2Proof.Machine.execTmrStop ag u s
  | .tmrCmpWrite ag u v => Sys2Proof.Machine.execTmrCmpWrite ag u v s
  | .timerTick u cmp => Sys2Proof.Machine.execTimerTick u cmp s
  | .timerCapture u rising => Sys2Proof.Machine.execTimerCapture u rising s
  | .lfclkStep u => Sys2Proof.Machine.execLfclkStep u s
  | .pairLowRead ag m => Sys2Proof.Machine.execPairLowRead ag m s
  | .pairHighRead ag m => Sys2Proof.Machine.execPairHighRead ag m s
  | .functionSwitch ag l v present => Sys2Proof.Machine.execFunctionSwitch ag l v present s
  | .handoverTake l => Sys2Proof.Machine.execHandoverTake l s
  | .lanOutWrite ag b v => Sys2Proof.Machine.execLanOutWrite ag b v s
  | .lanSecWrite ag v => Sys2Proof.Machine.execLanSecWrite ag v s
  | .wakeLane l => Sys2Proof.Machine.execWakeLane l s
  | .bellRefEdge => Sys2Proof.Machine.execBellRefEdge s
  | .bellRefLost n => Sys2Proof.Machine.execBellRefLost n s
  | .uartTx ag u b => Sys2Proof.Machine.execUartTx ag u b s
  | .uartRxByte u b err => Sys2Proof.Machine.execUartRxByte u b err s
  | .spiTx ag u v miso => Sys2Proof.Machine.execSpiTx ag u v miso s
  | .i2cCmd ag u v data status => Sys2Proof.Machine.execI2cCmd ag u v data status s
  | .treadleStep t pads parity => Sys2Proof.Machine.execTreadleStep t pads parity s
  | .treadleEnable ag t v => Sys2Proof.Machine.execTreadleEnable ag t v s
  | .treadleDisable ag t v => Sys2Proof.Machine.execTreadleDisable ag t v s
  | .treadleCommit ag t => Sys2Proof.Machine.execTreadleCommit ag t s
  | .flush ag t => Sys2Proof.Machine.execFlush ag t s
  | .trdTxfWrite ag t v => Sys2Proof.Machine.execTrdTxfWrite ag t v s
  | .trdRxfRead ag t => Sys2Proof.Machine.execTrdRxfRead ag t s
  | .lutWrite ag t j v => Sys2Proof.Machine.execLutWrite ag t j v s
  | .stage ag p mask vec => Sys2Proof.Machine.execStage ag p mask vec s
  | .swap ag p mask vec => Sys2Proof.Machine.execSwap ag p mask vec s
  | .stageDone how => Sys2Proof.Machine.execStageDone how s
  | .moduleReset => Sys2Proof.Machine.execModuleReset s
  | .portReset p kind => Sys2Proof.Machine.execPortReset p kind s
  | .linkUp p rate width flit common => Sys2Proof.Machine.execLinkUp p rate width flit common s
  | .flr p v => Sys2Proof.Machine.execFlr p v s
  | .pfFlr p => Sys2Proof.Machine.execPfFlr p s
  | .flrComplete o => Sys2Proof.Machine.execFlrComplete o s
  | .vfEnableClear p n => Sys2Proof.Machine.execVfEnableClear p n s
  | .d3hotEntry o => Sys2Proof.Machine.execD3hotEntry o s
  | .d0Return o => Sys2Proof.Machine.execD0Return o s
  | .ltrMessage p toBell writing regRead aged => Sys2Proof.Machine.execLtrMessage p toBell writing regRead aged s
  | .aspmL1Entry p => Sys2Proof.Machine.execAspmL1Entry p s
  | .l1Exit p => Sys2Proof.Machine.execL1Exit p s
  | .ptmRefresh p ok => Sys2Proof.Machine.execPtmRefresh p ok s
  | .ptmLost p => Sys2Proof.Machine.execPtmLost p s
  | .epochWrite ag v => Sys2Proof.Machine.execEpochWrite ag v s
  | .unsupportedRequest p => Sys2Proof.Machine.execUnsupportedRequest p s
  | .getVersion j req => Sys2Proof.Machine.execGetVersion j req s
  | .getCapabilities j req => Sys2Proof.Machine.execGetCapabilities j req s
  | .negotiateAlgorithms j req => Sys2Proof.Machine.execNegotiateAlgorithms j req s
  | .getDigests j req => Sys2Proof.Machine.execGetDigests j req s
  | .getCertificate j req => Sys2Proof.Machine.execGetCertificate j req s
  | .challenge j req => Sys2Proof.Machine.execChallenge j req s
  | .getMeasurements j req => Sys2Proof.Machine.execGetMeasurements j req s
  | .spdmUnsupported j req => Sys2Proof.Machine.execSpdmUnsupported j req s
  | .setEndpointId hdr op eid => Sys2Proof.Machine.execSetEndpointId hdr op eid s
  | .getEndpointId hdr => Sys2Proof.Machine.execGetEndpointId hdr s
  | .getMctpVersionSupport hdr type => Sys2Proof.Machine.execGetMctpVersionSupport hdr type s
  | .getMessageTypeSupport hdr => Sys2Proof.Machine.execGetMessageTypeSupport hdr s
  | .clearFaults v temps => Sys2Proof.Machine.execClearFaults v temps s
  | .capability => Sys2Proof.Machine.execCapability s
  | .statusByte => Sys2Proof.Machine.execStatusByte s
  | .statusWord => Sys2Proof.Machine.execStatusWord s
  | .statusInputRead => Sys2Proof.Machine.execStatusInputRead s
  | .statusTemperature => Sys2Proof.Machine.execStatusTemperature s
  | .statusCmlRead => Sys2Proof.Machine.execStatusCmlRead s
  | .readVin v => Sys2Proof.Machine.execReadVin v s
  | .readIin v => Sys2Proof.Machine.execReadIin v s
  | .readPin v => Sys2Proof.Machine.execReadPin v s
  | .readTemperature1 t => Sys2Proof.Machine.execReadTemperature1 t s
  | .readTemperature2 t => Sys2Proof.Machine.execReadTemperature2 t s
  | .readTemperature3 t => Sys2Proof.Machine.execReadTemperature3 t s
  | .pmbusRevision => Sys2Proof.Machine.execPmbusRevision s
  | .mfrId => Sys2Proof.Machine.execMfrId s
  | .mfrModel => Sys2Proof.Machine.execMfrModel s
  | .unsupportedCommand code => Sys2Proof.Machine.execUnsupportedCommand code s
  | .pecError => Sys2Proof.Machine.execPecError s
  | .alertResponse => Sys2Proof.Machine.execAlertResponse s
  | .standbyReady v a b => Sys2Proof.Machine.execStandbyReady v a b s
  | .uvloFall v => Sys2Proof.Machine.execUvloFall v s
  | .powerLoss v => Sys2Proof.Machine.execPowerLoss v s
  | .lowvinSet v => Sys2Proof.Machine.execLowvinSet v s
  | .lowvinClear v => Sys2Proof.Machine.execLowvinClear v s
  | .cclkSwitch => Sys2Proof.Machine.execCclkSwitch s
  | .ovWarning v => Sys2Proof.Machine.execOvWarning v s
  | .sleep ag forceRs => Sys2Proof.Machine.execSleep ag forceRs s
  | .sleepExit => Sys2Proof.Machine.execSleepExit s
  | .pwrfail pin v mean => Sys2Proof.Machine.execPwrfail pin v mean s
  | .tempWarn k t => Sys2Proof.Machine.execTempWarn k t s
  | .thermCrit k t => Sys2Proof.Machine.execThermCrit k t s
  | .coreRailRemoval => Sys2Proof.Machine.execCoreRailRemoval s
  | .go p vec => Sys2Proof.Machine.execGo p vec s
  | .bootFetchDone p how => Sys2Proof.Machine.execBootFetchDone p how s
  | .bootCheckDone p => Sys2Proof.Machine.execBootCheckDone p s
  | .fieldArmatureApply => Sys2Proof.Machine.execFieldArmatureApply s
  | .hbmTrained q => Sys2Proof.Machine.execHbmTrained q s
  | .parishCalibrated n => Sys2Proof.Machine.execParishCalibrated n s
  | .larder ag p n vec => Sys2Proof.Machine.execLarder ag p n vec s
  | .loom ag p n vec => Sys2Proof.Machine.execLoom ag p n vec s
  | .hbmTest ag p q vec => Sys2Proof.Machine.execHbmTest ag p q vec s
  | .retrain ag p q vec => Sys2Proof.Machine.execRetrain ag p q vec s
  | .testDone failing first => Sys2Proof.Machine.execTestDone failing first s
  | .injected ag v => Sys2Proof.Machine.execInjected ag v s
  | .fwStage ag vec => Sys2Proof.Machine.execFwStage ag vec s
  | .fwStageDone how => Sys2Proof.Machine.execFwStageDone how s
  | .switch ag vec => Sys2Proof.Machine.execSwitch ag vec s
  | .ack ag => Sys2Proof.Machine.execAck ag s
  | .force ag vec => Sys2Proof.Machine.execForce ag vec s
  | .perstRelease a b => Sys2Proof.Machine.execPerstRelease a b s
  | .configSpaceWrite o x => Sys2Proof.Machine.execConfigSpaceWrite o x s
  | .edpLinkTrained e x => Sys2Proof.Machine.execEdpLinkTrained e x s
  | .smbusTimeout => Sys2Proof.Machine.execSmbusTimeout s

end Sys2Proof.Machine
end

