-- ==== Sys2Proof/Safety.lean ====
section
/-!
DEFINITION. What counts as safe, in the terms that the statements use: a step that answers a next state, a command that
completes with an effect, and the legal states of the power controller. -/

namespace Sys2Proof

open Sys2Proof.Machine

/-- A step at this state answers a next state. -/
def SafeStep (s : State) : Prop := ∃ t, step s = .next t

/-- Command i completes at state s with effect P: it answers a next state, the queue unchanged, whose block meets P. -/
def Completes (i : Instr) (s : State) (P : Hw → Prop) : Prop :=
  ∃ t, exec i s = .next t ∧ t.pending = s.pending ∧ P t.hw

/-- Core-domain command i completes at state s with the block g: it answers the next state whose block is g, but for the
power controller, of which it can change the module sleep alone; the queue is unchanged. -/
def CompletesAs (i : Instr) (s : State) (g : Hw) : Prop :=
  exec i s = .next { s with hw := g.setPower { s.hw.power with asleep := g.power.asleep } }

/-- A legal condition of the power controller (R471, R474, R507): the core rails stand only while the standby domain does,
and module sleep and full CCLK are conditions of a module whose core rails stand. -/
def PowerLegal (p : Power) : Prop :=
  (p.coreOn = true → p.standby = true) ∧ (p.asleep = true → p.coreOn = true) ∧ (p.fullSpeed = true → p.coreOn = true)

/-- A write of HAY_CMD of cottage c is taken as a command (R306): the agent sees the register, no command of the cottage runs,
and a function's vector exists. -/
def Machine.Hw.HayTakes (h : Hw) (ag : Agent) (c vec : Nat) : Prop :=
  h.sees ag .HAY_CMD c 0 = true ∧ (h.cot c).hay = none ∧
    ((Hw.agentFn ag).getD 258 < 258 → vec < Hw.vectors ((Hw.agentFn ag).getD 258))

/-- CODE of a bank of a kind. -/
def Machine.Hw.bankCode (h : Hw) (kind p : Nat) : Nat :=
  match kind with
  | 0 => h.fld F.ARM_STAT_CODE p
  | 1 => h.fld F.LOM_STG_STAT_CODE p
  | 2 => h.fld F.PWR_TEST_STAT_CODE p
  | _ => h.fld F.RVE_FW_STAT_CODE

/-- The command in progress, every parish, cottage, frame and core, and start-up's results are in h as in g. -/
def Machine.Hw.Unbothered (g h : Hw) : Prop :=
  h.job = g.job ∧ h.par = g.par ∧ h.cots = g.cots ∧ h.gran = g.gran ∧ h.reeves = g.reeves ∧ h.modArm = g.modArm ∧
    h.boot = g.boot

/-- Memory, and every parish, cottage, frame, core and function, are in h as in g, and nothing has left the block. -/
def Machine.Hw.Untouched (g h : Hw) : Prop :=
  h.mem = g.mem ∧ h.par = g.par ∧ h.cots = g.cots ∧ h.gran = g.gran ∧ h.reeves = g.reeves ∧ h.fns = g.fns ∧
    h.modArm = g.modArm ∧ h.boot = g.boot ∧ h.out = g.out

/-! ### Instructions of a context -/

/-- The command of a two-operand operation. -/
def aluInstr (op : AluOp) (who : Ctx) (pre : List Byte) (x : AluArgs) : Instr :=
  match op with
  | .mov => .aluMov who pre x
  | .add => .aluAdd who pre x
  | .adc => .aluAdc who pre x
  | .sub => .aluSub who pre x
  | .sbc => .aluSbc who pre x
  | .cmp => .aluCmp who pre x
  | .and => .aluAnd who pre x
  | .or => .aluOr who pre x
  | .xor => .aluXor who pre x
  | .tst => .aluTst who pre x
  | .shl => .aluShl who pre x
  | .shr => .aluShr who pre x
  | .sar => .aluSar who pre x
  | .rol => .aluRol who pre x
  | .ror => .aluRor who pre x
  | .mul => .aluMul who pre x

namespace Machine.Hw

/-- The processor of a context. -/
def hobOf (h : Hw) (who : Ctx) : Hob :=
  match who with
  | .cottage c => (h.ctx c).hob
  | .reeve r => (h.reeve r).hob

/-- The processor as an instruction that a context issues finds it: the issue counts for the writes that wait to land, but for an
instruction of a cottage that an interrupt or a miss has made issue anew, whose position has counted (R113). -/
def issued (h : Hw) (who : Ctx) : Hob :=
  match who with
  | .cottage c => if !(h.ctx c).landed then (h.ctx c).hob.issue else (h.ctx c).hob
  | .reeve r => (h.reeve r).hob.issue

/-- The context issues an instruction of n bytes now (R17, R110, R136, R352, R396, R401): a cottage runs, nothing stamped at
or before its beam is owed, no interrupt is due, no transfer of it is under way, and the n bytes at PC are read with no
effect on the block; a Reeve core is neither halted nor waiting, no interrupt is due, and its n bytes can be fetched. -/
def Issues (h : Hw) (who : Ctx) (n : Nat) : Prop :=
  match who with
  | .cottage c => h.canIssue c = true ∧ h.entryDue c = false ∧ (h.cot c).io.carter = none ∧ (h.cot c).io.chisel = none ∧
      ∃ v, h.cotFetch c (h.ctx c).hob.pc.toNat n = (.value v, h)
  | .reeve r => h.flag F.RVE_STAT_HALTED 0 r = false ∧ (h.reeve r).waiting = false ∧ h.reeveDue r = false ∧
      h.reeveFetch r (h.reeve r).hob.pc.toNat n = .ok ()

/-- Where an instruction of n bytes that transfers no control leaves PC: at the next instruction, or in a delay slot where
its transfer goes (R130). -/
def pcAfter (h : Hw) (who : Ctx) (n : Nat) : Word :=
  match who with
  | .cottage c => (h.ctx c).hob.pc + BitVec.ofNat 32 n
  | .reeve r => ((h.reeve r).slot.bind (·.goesTo)).getD ((h.reeve r).hob.pc + BitVec.ofNat 32 n)

/-- Block h is g beside what the end of an instruction of a context changes: of a cottage its own state, its parish's
interrupt block, and its counters of instructions and waits; of a core its own state, its counters, whether it stands
halted, and the mode of timers. -/
def Beside (who : Ctx) (g h : Hw) : Prop :=
  h.mem = g.mem ∧ h.memPoison = g.memPoison ∧ h.gran = g.gran ∧ h.fns = g.fns ∧ h.ports = g.ports ∧ h.lanes = g.lanes ∧
  h.edp = g.edp ∧ h.tdm = g.tdm ∧ h.out = g.out ∧
  match who with
  | .cottage c => (∀ k, k ≠ c → h.cot k = g.cot k) ∧ h.reeves = g.reeves ∧ h.timers = g.timers ∧
      ∀ n i j, n ≠ .COT_PERF → n ≠ .COT_CNT_DHOLD → n ≠ .COT_CNT_BWAIT → n ≠ .HAY_STAT → h.reg n i j = g.reg n i j
  | .reeve r => h.cots = g.cots ∧ h.par = g.par ∧ (∀ k, k ≠ r → h.reeve k = g.reeve k) ∧
      ∀ n i j, n ≠ .RVE_PERF → n ≠ .RVE_STAT → n ≠ .TMR_STAT → h.reg n i j = g.reg n i j

/-- Block h after an instruction of n bytes that transfers no control and issued in block g: its processor is `x` with every
result queued behind those that have not landed (R113), and PC moved on. `m` is g with what the instruction did to the block
beside its context. A core's delay slot is over, and the mode of its transfer holds (R130, R131). -/
def Retired (who : Ctx) (n : Nat) (x : Hob) (res : List PendingWrite) (g m h : Hw) : Prop :=
  h.hobOf who = { x with pc := g.pcAfter who n, queue := x.queue ++ res } ∧ Beside who m h ∧
  match who with
  | .cottage _ => True
  | .reeve r => (h.reeve r).slot = none ∧ (h.reeve r).waiting = (m.reeve r).waiting ∧
      (h.reeve r).bmode = match (g.reeve r).slot with
        | some d => if d.goesTo.isSome then d.bmode else (g.reeve r).bmode
        | none => (g.reeve r).bmode

/-- The same for an instruction that transfers control to `to`, or to the next instruction where that is none (R126 to R131):
the prediction tables can change. A core in B-mode goes on into the delay slot, which its transfer leaves; otherwise PC is
the target, and a core's mode follows RVE_CTL where the transfer is taken. -/
def Went (who : Ctx) (n : Nat) (x : Hob) (res : List PendingWrite) (goal : Option Word) (g m h : Hw) : Prop :=
  let next := (g.hobOf who).pc + BitVec.ofNat 32 n
  let slow := match who with
    | .cottage _ => false
    | .reeve r => (g.reeve r).bmode
  (∃ d i k, h.hobOf who = { x with
    pc := if slow then next else goal.getD next, queue := x.queue ++ res, dirTable := d, indTable := i, hist := k }) ∧
  Beside who m h ∧
  match who with
  | .cottage _ => True
  | .reeve r =>
    let mode := m.flag F.RVE_CTL_BMODE 0 r
    (h.reeve r).slot = (if slow then some ⟨(g.reeve r).hob.pc, goal, mode⟩ else none) ∧
    (h.reeve r).bmode = (if slow then true else goal.isSome && mode)

/-- The same for a return from a handler or an exception to `t`: nothing is delayed, and a core's mode follows RVE_CTL (R122,
R124, R131). -/
def Returned (who : Ctx) (x : Hob) (t : Word) (m h : Hw) : Prop :=
  (∃ d i k, h.hobOf who = { x with pc := t, dirTable := d, indTable := i, hist := k }) ∧ Beside who m h ∧
  match who with
  | .cottage _ => True
  | .reeve r => (h.reeve r).slot = none ∧ (h.reeve r).bmode = m.flag F.RVE_CTL_BMODE 0 r

end Machine.Hw

end Sys2Proof
end

