-- ==== Sys2Proof/Certificates/Slice0/Obligations.lean ====
section
/-!
DEFINITION. The statements: what each family of commands does, in the order of OBLIGATIONS.json. -/

open Sys2Proof Sys2Proof.Machine

/-- For every command i at the front of the queue, a step is exec of i on the state with the rest of the queue. On an empty
queue the block idles: the step answers the same state (log entry 2). -/
def Obligations.StepRunsFront : Prop :=
  ∀ s : State, (∀ (i : Instr) (rest : List Instr), s.pending = i :: rest → step s = exec i { s with pending := rest }) ∧
    (s.pending = [] → step s = .next s)

/-- After reset no command waits, the power controller is in a legal condition with the core rails standing and PERST#
asserted, so that the core domain does not work, memory lists nothing, and every field of a register reads the value of
its Reset column (A as 0, log entry 3). The registers whose Reset column names more than one value are apart: of these the
owners of the timer units are 5 for 0 to 7 and 6 for 8 to 15, and Reeve core 0 is out of HALT and the others in it. -/
def Obligations.ResetState : Prop :=
  State.reset.pending = [] ∧ PowerLegal State.reset.hw.power ∧ State.reset.hw.power.coreOn = true ∧
  State.reset.hw.act = false ∧ State.reset.hw.mem = [] ∧ Memory.wf State.reset.hw.mem ∧
  (∀ (n : RegName), n ∉ ([.TOP_ID, .SEC_DEVSN, .SEC_OPKEY, .SBD_CFG, .RVE_CTL, .RVE_VEC, .RVE_WIN, .TMR_OWN, .HBM_W] : List RegName) →
    ∀ (i j : Nat), ∀ d ∈ n.desc.fields, State.reset.hw.fld ⟨n, d.hi, d.lo⟩ i j = d.reset) ∧
  (∀ u, u < 16 → State.reset.hw.fld F.TMR_OWN_OWNER 0 u = if u < 8 then 5 else 6) ∧
  (∀ r, r < 4 → State.reset.hw.flag F.RVE_CTL_HALT 0 r = decide (r ≠ 0))

/-- From every state whose power controller is in a legal condition (the core rails stand only while the standby domain
does; module sleep and full CCLK are conditions of a module whose core rails stand), every step leaves it in one: no
command puts a module to sleep, or its clock to full service, without its core rails, and no command leaves the rails
without the standby domain. -/
def Obligations.PowerLegalKept : Prop :=
  ∀ s t : State, PowerLegal s.hw.power → step s = .next t → PowerLegal t.hw.power

/-- R24, R26: an accepted write of BEL_PERIOD, of BEL_CTL or of its SRC is stored and waits for the next Bell: the period
and the source in force stay, and so do every other parish, every cottage and all memory. -/
def Obligations.BellRateAndSourceWrites : Prop :=
  (∀ (s : State) (ag : Agent) (n : Nat) (v : DWord), s.hw.act = true → s.hw.sees ag .BEL_PERIOD n 0 = true →
    s.hw.changesLocked ag .BEL_PERIOD n 0 v.toNat = false → s.hw.rateOk n 0 v.toNat = true →
    Completes (.bellRateWrite ag n true v) s fun h =>
      h.fld F.BEL_PERIOD_NS n = bits v.toNat 63 32 ∧ h.fld F.BEL_PERIOD_FRAC n = bits v.toNat 31 0 ∧
      h.parish n = { s.hw.parish n with bellPend := true } ∧ (∀ m, m ≠ n → h.parish m = s.hw.parish m) ∧
      h.cots = s.hw.cots ∧ h.mem = s.hw.mem) ∧
  (∀ (s : State) (ag : Agent) (n : Nat) (v : DWord), s.hw.act = true → s.hw.sees ag .BEL_CTL n 0 = true →
    s.hw.changesLocked ag .BEL_CTL n 0 v.toNat = false → bits v.toNat 7 6 ≠ 3 →
    bits v.toNat 2 1 ≠ s.hw.fld F.BEL_CTL_PRESET n →
    s.hw.rateOk n (bits v.toNat 2 1) (s.hw.reg .BEL_PERIOD n).toNat = true →
    Completes (.bellRateWrite ag n false v) s fun h =>
      h.fld F.BEL_CTL_PRESET n = bits v.toNat 2 1 ∧ h.fld F.BEL_CTL_SRC n = bits v.toNat 7 6 ∧
      (h.parish n).bellPend = true ∧ (h.parish n).rates = (s.hw.parish n).rates ∧
      (h.parish n).srcInForce = (s.hw.parish n).srcInForce ∧ (∀ m, m ≠ n → h.parish m = s.hw.parish m) ∧
      h.cots = s.hw.cots ∧ h.mem = s.hw.mem) ∧
  (∀ (s : State) (ag : Agent) (n : Nat) (src : BitVec 2), s.hw.act = true → s.hw.sees ag .BEL_CTL n 0 = true →
    s.hw.changesLocked ag .BEL_CTL n 0 (setBits (s.hw.reg .BEL_CTL n).toNat 7 6 src.toNat) = false → src ≠ 3 →
    Completes (.bellSourceWrite ag n src) s fun h =>
      h.fld F.BEL_CTL_SRC n = src.toNat ∧ h.fld F.BEL_CTL_PRESET n = s.hw.fld F.BEL_CTL_PRESET n ∧
      (src.toNat ≠ s.hw.fld F.BEL_CTL_SRC n → (h.parish n).srcPend = true) ∧
      (h.parish n).srcInForce = (s.hw.parish n).srcInForce ∧ (h.parish n).bellPend = (s.hw.parish n).bellPend ∧
      (∀ m, m ≠ n → h.parish m = s.hw.parish m) ∧ h.cots = s.hw.cots ∧ h.mem = s.hw.mem)

/-- R25: the loss of the source that parish n's Bell locks to clears LOCKED, sets LOCK_LOST and raises the PIC source
BELL_LOCK (257); the Bell goes on. R26: with the source back, LOCKED reads 1 again. -/
def Obligations.BellLockLostAndRegained : Prop :=
  (∀ (s : State) (n : Nat), s.hw.act = true → (s.hw.parish n).bellRuns = true → (s.hw.parish n).srcInForce ≠ 0 →
    (s.hw.parish n).lockLostNow = false →
    Completes (.bellSourceLost n) s fun h =>
      h.fld F.BEL_STAT_LOCK_LOST n = 1 ∧ h.fld F.BEL_STAT_LOCKED n = 0 ∧ 257 ∈ (h.parish n).pic.pend ∧
      (h.parish n).bellRuns = true ∧ (h.parish n).rates = (s.hw.parish n).rates ∧
      h.fld F.BEL_COUNT_COUNT n = s.hw.fld F.BEL_COUNT_COUNT n ∧ h.cots = s.hw.cots) ∧
  (∀ (s : State) (n : Nat), s.hw.act = true → (s.hw.parish n).bellRuns = true → s.hw.sourceGives n = true →
    Completes (.bellRelock n) s fun h =>
      h.fld F.BEL_STAT_LOCKED n = 1 ∧ (h.parish n).lockLostNow = false ∧ h.mem = s.hw.mem ∧ h.cots = s.hw.cots)

/-- R29, R24, R26, R32: a Bell advances BEL_COUNT by one, or makes it 0 if it is the parish's first; the rate that waited
comes into force, and so does the source, with LOCKED 0, which counts as lost if it gives no reference; then each cottage
of the parish has its Bell, the Lanes that carry the Bell pulse, and the PIC source BELL (256) is raised. -/
def Obligations.BellAdvances : Prop :=
  ∀ (s : State) (n : Nat), (s.hw.parish n).bellRuns = true → s.hw.act = true ∨ s.hw.power.asleep = true →
    Completes (.bell n) s fun h =>
      ∃ g : Hw, g.fld F.BEL_COUNT_COUNT n =
          (if (s.hw.parish n).bell0Due then 0 else (s.hw.fld F.BEL_COUNT_COUNT n + 1) % 2 ^ 64) ∧
        (g.parish n).rates = (if (s.hw.parish n).bellPend then
          let b := if (s.hw.parish n).bell0Due then 0 else s.hw.fld F.BEL_COUNT_COUNT n + 1
          ⟨b, s.hw.bellTime n b, bellPeriod (s.hw.fld F.BEL_CTL_PRESET n) (s.hw.reg .BEL_PERIOD n).toNat⟩ ::
            (s.hw.parish n).rates else (s.hw.parish n).rates) ∧
        (g.parish n).srcInForce = (if (s.hw.parish n).srcPend then s.hw.fld F.BEL_CTL_SRC n else
          (s.hw.parish n).srcInForce) ∧
        ((s.hw.parish n).srcPend = true → g.fld F.BEL_STAT_LOCKED n = 0) ∧
        (g.parish n).bellPend = false ∧ (g.parish n).srcPend = false ∧ (g.parish n).bell0Due = false ∧
        (g.parish n).corrSeen = [] ∧ g.cots = s.hw.cots ∧ g.mem = s.hw.mem ∧
        (∀ m, m ≠ n → g.parish m = s.hw.parish m) ∧
        (let lost := if (s.hw.parish n).srcPend && !g.sourceGives n then g.bellSourceLost n else g
         h = (((lost.each (lost.parishCots n) fun h c => h.bellCottage c
          (if (s.hw.parish n).bell0Due then 0 else s.hw.fld F.BEL_COUNT_COUNT n + 1)).bellPulse n).picEvent n 256).setPower
            s.hw.power) ∧ 256 ∈ (h.parish n).pic.pend

/-- R30, R34: with no context of the core in RUN, the eligible context of the earliest line deadline goes to RUN. With one
in RUN, it stays unless a context with an earlier deadline has become eligible meanwhile; then that context takes its
place and the one that ran goes to READY, where the context view keeps what it shows (R135). Nothing else of a context
changes but the note that it became eligible ahead. A reset cottage then makes its loads, and a frame start goes on. R36:
HALT written 1 by the PF or Reeve firmware takes a context in READY, RUN or THOLD to HALT at once, its pending-write queue
and its beam left as they are, and leaves a context in any other state for later; HALT written 0 takes a context that
entered HALT from READY back to READY. -/
def Obligations.SchedulingAndHalt : Prop :=
  (∀ (s : State) (n core : Nat), s.hw.act = true →
    s.hw.eligible n core = none ∨ (∃ d, s.hw.running n core = some d) ∧ s.hw.preempts n core = false →
    Completes (.schedulerPick n core) s fun h => h = s.hw) ∧
  (∀ (s : State) (n core c : Nat), s.hw.act = true → s.hw.eligible n core = some c → s.hw.running n core = none →
    Completes (.schedulerPick n core) s fun h =>
      ∃ g : Hw, { g.ctx c with ahead := false } = { s.hw.ctx c with st := .run, ahead := false } ∧
        (∀ d, d ≠ c → { g.ctx d with ahead := false } = { s.hw.ctx d with ahead := false }) ∧ g.mem = s.hw.mem ∧
        (let k := (if (s.hw.ctx c).booting then g.bootLoad c else g).frameStart c
         h = k.setPower { s.hw.power with asleep := k.power.asleep }) ∧
        ((s.hw.ctx c).booting = false → (s.hw.ctx c).start = .none → h = g.setPower { s.hw.power with asleep := g.power.asleep })) ∧
  (∀ (s : State) (n core c d : Nat), s.hw.act = true → s.hw.eligible n core = some c → s.hw.running n core = some d →
    s.hw.preempts n core = true → c ≠ d →
    Completes (.schedulerPick n core) s fun h =>
      ∃ g : Hw, { g.ctx c with ahead := false } = { s.hw.ctx c with st := .run, ahead := false } ∧
        { g.ctx d with ahead := false } =
          { s.hw.ctx d with st := .ready, ahead := false, seen := Hw.hobView (s.hw.ctx d).hob } ∧
        (∀ e, e ≠ c → e ≠ d → { g.ctx e with ahead := false } = { s.hw.ctx e with ahead := false }) ∧ g.mem = s.hw.mem ∧
        (let k := (if (s.hw.ctx c).booting then g.bootLoad c else g).frameStart c
         h = k.setPower { s.hw.power with asleep := k.power.asleep }) ∧
        ((s.hw.ctx c).booting = false → (s.hw.ctx c).start = .none → h = g.setPower { s.hw.power with asleep := g.power.asleep })) ∧
  (∀ (s : State) (ag : Agent) (c : Nat), s.hw.act = true → s.hw.sees ag .COT_CTL c 0 = true → Hw.mayHalt ag = true →
    s.hw.ownerEnabled c = true → (s.hw.slotOf c).isSome = true → s.hw.flag F.COT_CTL_HALT c = false →
    (s.hw.ctx c).st ≠ .off → ((s.hw.ctx c).st = .thold → s.hw.flag F.COT_CTL_RUN c = true) →
    Completes (.cotCtlHalt ag c true) s fun h =>
      h.flag F.COT_CTL_HALT c = true ∧ h.flag F.COT_CTL_RUN c = s.hw.flag F.COT_CTL_RUN c ∧ h.mem = s.hw.mem ∧
      h.ctx c = (match (s.hw.ctx c).st with
        | .ready => { s.hw.ctx c with st := .halt, haltFrom := .ready, ahead := false }
        | .run => { s.hw.ctx c with st := .halt, haltFrom := .ready, ahead := false, seen := Hw.hobView (s.hw.ctx c).hob }
        | .thold => { s.hw.ctx c with st := .halt, haltFrom := .thold, ahead := false }
        | _ => s.hw.ctx c)) ∧
  (∀ (s : State) (ag : Agent) (c : Nat), s.hw.act = true → s.hw.sees ag .COT_CTL c 0 = true → Hw.mayHalt ag = true →
    s.hw.ownerEnabled c = true → (s.hw.slotOf c).isSome = true → s.hw.flag F.COT_CTL_HALT c = true →
    (s.hw.ctx c).st = .halt → (s.hw.ctx c).haltFrom ≠ .thold →
    Completes (.cotCtlHalt ag c false) s fun h =>
      h.flag F.COT_CTL_HALT c = false ∧ h.mem = s.hw.mem ∧
      h.ctx c = { s.hw.ctx c with st := .ready, ahead := s.hw.outruns c })

/-- R35, R34: RUN written 0 is stored; a cottage in THOLD enters OFF at once, any other runs on. RUN written 1 outside OFF
is stored and changes nothing else of the context; in OFF it asks for the admission of R288, which its map entries, all
sound, allow. RST resets the cottage at once from any state: OFF, its Tally and its input queue discarded, nothing
admitted. -/
def Obligations.CottageRunAndReset : Prop :=
  (∀ (s : State) (ag : Agent) (c : Nat) (ev : MapEvent), s.hw.act = true → s.hw.sees ag .COT_CTL c 0 = true →
    s.hw.runWithout ag c = false →
    Completes (.cotCtlRun ag c false ev) s fun h =>
      h.flag F.COT_CTL_RUN c = false ∧ h.flag F.COT_CTL_HALT c = s.hw.flag F.COT_CTL_HALT c ∧ h.mem = s.hw.mem ∧
      h.ctx c = (match (s.hw.ctx c).st with
        | .thold => { s.hw.ctx c with st := .off, start := .none, ahead := false }
        | _ => s.hw.ctx c)) ∧
  (∀ (s : State) (ag : Agent) (c : Nat) (ev : MapEvent), s.hw.act = true → s.hw.sees ag .COT_CTL c 0 = true →
    s.hw.ownerEnabled c = true → (s.hw.slotOf c).isSome = true → (s.hw.ctx c).st ≠ .off →
    Completes (.cotCtlRun ag c true ev) s fun h =>
      h.flag F.COT_CTL_RUN c = true ∧ h.flag F.COT_CTL_HALT c = s.hw.flag F.COT_CTL_HALT c ∧ h.mem = s.hw.mem ∧
      h.ctx c = s.hw.ctx c) ∧
  (∀ (s : State) (ag : Agent) (c : Nat), s.hw.act = true → s.hw.sees ag .COT_CTL c 0 = true →
    s.hw.ownerEnabled c = true → (s.hw.slotOf c).isSome = true → (s.hw.ctx c).st = .off →
    Completes (.cotCtlRun ag c true .sound) s fun h =>
      ∃ g : Hw, g.flag F.COT_CTL_RUN c = true ∧ g.cots = s.hw.cots ∧ g.gran = s.hw.gran ∧ g.mem = s.hw.mem ∧
        h = (g.admission c).setPower { s.hw.power with asleep := (g.admission c).power.asleep }) ∧
  (∀ (s : State) (ag : Agent) (c : Nat), s.hw.act = true → s.hw.sees ag .COT_CTL c 0 = true →
    s.hw.ownerEnabled c = true → (s.hw.slotOf c).isSome = true →
    Completes (.cotCtlRst ag c) s fun h =>
      (h.ctx c).st = .off ∧ (h.ctx c).tally = [] ∧ (h.ctx c).inq = [] ∧ (h.ctx c).admitted = false ∧
      (h.ctx c).hob = Hob.reset ∧ (h.ctx c).frame = 0 ∧ (h.ctx c).vc = 0)

/-- R135: a debug write of a context view register in HALT, under the COT expert bit, stores the register and nothing
else. R47, R48: an accepted push adds one event, in order, with its target, and fixes its applied stamp no earlier than
the target, the previous event's stamp and the earliest line start not yet passed. R49: an event whose stamp the beam has
reached, with room in the Tally, sets its port and leaves the queue. The frame start that awaited it goes on. R43: the
parity hold of a cottage ends once the frame before the last is finished: it is READY, or HALT where a halt is pending
(R36), and its frame start goes on when it runs. -/
def Obligations.ContextViewAndInput : Prop :=
  (∀ (s : State) (ag : Agent) (c r : Nat) (v : Word), s.hw.act = true → r < 19 →
    s.hw.sees ag (Hw.ctxName r) c (if r < 16 then r else 0) = true → v ≠ s.hw.ctxView c r →
    (s.hw.ctx c).st = .halt → s.hw.unlocked ag (Hw.ctxName r) c = true →
    Completes (.cotContextWrite ag c r v) s fun h =>
      h.ctxView c r = (if r = 18 then v &&& 0x9F else v) ∧ (∀ q, q < 19 → q ≠ r → h.ctxView c q = s.hw.ctxView c q) ∧
      h.regs = s.hw.regs ∧ h.mem = s.hw.mem ∧ (∀ d, d ≠ c → h.ctx d = s.hw.ctx d)) ∧
  (∀ (s : State) (ag : Agent) (c : Nat) (v : Word), s.hw.act = true → s.hw.sees ag .COT_IN_VAL c 0 = true →
    (s.hw.ctx c).inq.length < 32 → s.hw.fld F.COT_IN_TGT_LINE c < (s.hw.cls c).tl →
    Completes (.inputPush ag c v) s fun h =>
      ∃ e, (h.ctx c).inq = (s.hw.ctx c).inq ++ [e] ∧ (h.ctx c).lastApplied = some e.applied ∧ e.value = v ∧
        e.port = s.hw.fld F.COT_IN_TGT_PORT c ∧ e.tgtFrame = s.hw.fld F.COT_IN_TGT_FRAME c ∧
        e.tgtLine = s.hw.fld F.COT_IN_TGT_LINE c ∧
        e.applied.lt ⟨(s.hw.ctx c).frame / 2 ^ 32 * 2 ^ 32 + e.tgtFrame, e.tgtLine * (s.hw.cls c).vcpl⟩ = false ∧
        e.applied.lt (s.hw.nextLineStart c) = false ∧
        (∀ l, (s.hw.ctx c).lastApplied = some l → e.applied.lt l = false) ∧
        h.fld F.COT_IN_STAT_LEVEL c = (s.hw.ctx c).inq.length + 1 ∧ h.mem = s.hw.mem) ∧
  (∀ (s : State) (c : Nat) (e : InputEvent) (rest : List InputEvent), s.hw.act = true → (s.hw.ctx c).inq = e :: rest →
    e.applied.le (s.hw.stamp c) = true → s.hw.takesInput c = true → s.hw.tallyFill c < 512 →
    Completes (.inputApplied c) s fun h =>
      ∃ g : Hw, (g.ctx c).inq = rest ∧ (g.ctx c).ports = (s.hw.ctx c).ports.setIfInBounds e.port e.value ∧
        (g.ctx c).tally = (s.hw.ctx c).tally ++ [⟨e.value, (s.hw.ctx c).nextSeq, 0, e.port * 65536 + (s.hw.ctx c).inSeq % 65536,
          .marker, e.applied⟩] ∧ g.mem = s.hw.mem ∧
        h = (g.frameStart c).setPower { s.hw.power with asleep := (g.frameStart c).power.asleep } ∧
        ((s.hw.ctx c).st ≠ .run ∨ (s.hw.ctx c).start = .none →
          h = g.setPower { s.hw.power with asleep := g.power.asleep })) ∧
  (∀ (s : State) (c : Nat), s.hw.act = true → (s.hw.ctx c).st = .dhold → (s.hw.ctx c).wait = .parity →
    s.hw.rendered c ((s.hw.ctx c).frame - 2) = true →
    Completes (.parityHoldEnd c) s fun h =>
      { h.ctx c with ahead := false } = { s.hw.ctx c with
        wait := .none, start := .held, ahead := false,
        st := if s.hw.flag F.COT_CTL_HALT c then .halt else .ready,
        haltFrom := if s.hw.flag F.COT_CTL_HALT c then .ready else (s.hw.ctx c).haltFrom } ∧
      h.mem = s.hw.mem)

/-- R138, R140, R142: a Loom in service and free takes the visible job that comes first and composes its pixels from where
it stands, the frame's Plinth set and statistics beginning with line 0; a parked or yielded job goes on from where it
stands, and so does one whose fill returns (R141), the lines it awaited then held. The blanking job, its entries applied
and the beam past its end, ends the frame: the next frame's line 0 is next and its collision results begin from 0. A job
whose words run 64 CCLK without a SAFE word contains its cottage (R167, R178). -/
def Obligations.LoomJobsAdvance : Prop :=
  (∀ (s : State) (c j : Nat) (stop : JobStop) (start g : Hw) (e : Hw.JobEnd), s.hw.act = true →
    s.hw.takesJob c j = true → (s.hw.cot c).loom.phase = .idle → (s.hw.cot c).loom.line < (s.hw.cls c).height →
    start = (if (s.hw.cot c).loom.line = 0 then
        (s.hw.plinthApply c j (s.hw.cot c).loom.frame).modRelief c fun r => { r with zoneSum := [], total := 0 }
      else s.hw) →
    start.workPixels c j stop (!start.jobReady c) = (e, g) →
    CompletesAs (.visibleJob c j stop .none) s (g.jobLeft c j e stop (!start.jobReady c))) ∧
  (∀ (s : State) (c j : Nat) (stop : JobStop) (g : Hw) (e : Hw.JobEnd), s.hw.act = true → s.hw.takesJob c j = true →
    (s.hw.cot c).loom.phase = .parked ∨ (s.hw.cot c).loom.phase = .yielded →
    (s.hw.cot c).loom.line < (s.hw.cls c).height →
    s.hw.workPixels c j stop (!s.hw.jobReady c) = (e, g) →
    CompletesAs (.jobResume c j stop .none) s (g.jobLeft c j e stop (!s.hw.jobReady c))) ∧
  (∀ (s : State) (c j : Nat) (stop : JobStop) (start g : Hw) (e : Hw.JobEnd), s.hw.act = true →
    (s.hw.cot c).loom.phase = .stalled j →
    start = ((s.hw.each (if (s.hw.cot c).loom.awaits.isNone then s.hw.nextLines c else []) fun h line =>
      h.cacheFill c j line).modLoom c fun m => { m with phase := .idle, awaits := none }).loomShows c j false false →
    (start.cot c).loom.line < (start.cls c).height →
    start.workPixels c j stop (!start.jobReady c) = (e, g) →
    CompletesAs (.patternCacheFill c stop .none) s (g.jobLeft c j e stop (!start.jobReady c))) ∧
  (∀ (s : State) (c j : Nat) (g : Hw), s.hw.act = true → s.hw.takesJob c j = true →
    (s.hw.cot c).loom.phase = .idle → (s.hw.cls c).height ≤ (s.hw.cot c).loom.line →
    s.hw.applyBefore c ⟨(s.hw.cot c).loom.frame + 1, 0⟩ = (.ok, g) → g.jobReady c = true →
    Completes (.blankingJob c j .none .none) s fun h =>
      (h.cot c).loom.frame = (g.cot c).loom.frame + 1 ∧ (h.cot c).loom.line = 0 ∧ (h.cot c).loom.x = 0 ∧
      (h.cot c).loom.phase = .idle ∧ (h.cot c).loom.coll = 0 ∧ (h.cot c).loom.hits = [] ∧
      (h.cot c).loom.collPrev = decide ((g.cot c).loom.coll ≠ 0) ∧ (h.cot c).loom.vreg = (g.cot c).loom.vreg ∧
      h.ctx c = g.ctx c ∧ h.mem = g.mem) ∧
  (∀ (s : State) (c j : Nat) (path : List Nat), s.hw.act = true → s.hw.takesJob c j = true → path.length = 64 →
    unsafePath (((s.hw.parish (c / 256)).active.map (·.words)).getD []) path = true →
    CompletesAs (.safeGap c j path) s (s.hw.containWith c .LOM 0x03 (Hw.detailOf .LOM [j, 0x03, c % 256])))

/-- R239, R231: an accepted write of POR_S0_CTL or POR_S1_CTL stores the stream's EN and RING (and FMT of stream 1), and a
write of REFRESH sets REFRESH. R231, R242: EN written to 1 where it was 0 starts the stream at the next Bell, and written
to 1 after a stop by a ring error resumes it there; its record numbers go on until then. No context and no memory changes.
R227, R218: once the last payload of a closed frame is written, the headers of that frame and the earlier ones flip in
ring order. -/
def Obligations.StreamControlAndFlips : Prop :=
  (∀ (s : State) (ag : Agent) (c : Nat) (v : Word), s.hw.act = true → s.hw.sees ag .POR_S0_CTL c 0 = true →
    s.hw.changesLocked ag .POR_S0_CTL c 0 v.toNat = false →
    s.hw.streamCtlOk c (s.hw.streamFn c 0) (bits (s.hw.reg .POR_S0_CTL c).toNat 7 5) v.toNat
      (bits v.toNat 31 16 ≠ bits (s.hw.reg .POR_S0_CTL c).toNat 31 16 || !bit (s.hw.reg .POR_S0_CTL c).toNat 0) = true →
    Completes (.streamEnable ag c v) s fun h =>
      h.fld F.POR_S0_CTL_EN c = bits v.toNat 0 0 ∧ h.fld F.POR_S0_CTL_RING c = bits v.toNat 31 16 ∧
      h.fld F.POR_S0_CTL_FMT c = s.hw.fld F.POR_S0_CTL_FMT c ∧
      (h.stream c 0).start = (if !bit v.toNat 0 then .none else if s.hw.fld F.POR_S0_CTL_EN c = 0 then .starts
        else if s.hw.fld F.POR_S0_STAT_STOPPED c = 1 ∧ (s.hw.stream c 0).start = .none then .resumes
        else (s.hw.stream c 0).start) ∧
      (h.stream c 0).owed = (s.hw.stream c 0).owed ∧ (h.stream c 0).seq = (s.hw.stream c 0).seq ∧
      (∀ d, h.ctx d = s.hw.ctx d) ∧ h.mem = s.hw.mem) ∧
  (∀ (s : State) (ag : Agent) (c p : Nat) (v : Word), s.hw.act = true → s.hw.portOf c = some p →
    s.hw.sees ag .POR_S1_CTL p c = true → s.hw.changesLocked ag .POR_S1_CTL p c v.toNat = false →
    (bit v.toNat 0 = true → s.hw.damageReliant c = true ∨
      s.hw.outputSum p + Hw.pictureRate (s.hw.cls c) (bits v.toNat 7 5) (s.hw.bellMaxOf c) ≤ Hw.outputLimit) →
    s.hw.streamCtlOk c (129 * p) (bits v.toNat 7 5) v.toNat
      (bits v.toNat 31 16 ≠ bits (s.hw.reg .POR_S1_CTL p c).toNat 31 16 || !bit (s.hw.reg .POR_S1_CTL p c).toNat 0) = true →
    Completes (.porS1CtlWrite ag c v) s fun h =>
      h.fld F.POR_S1_CTL_EN p c = bits v.toNat 0 0 ∧ h.fld F.POR_S1_CTL_RING p c = bits v.toNat 31 16 ∧
      h.fld F.POR_S1_CTL_FMT p c = bits v.toNat 7 5 ∧
      (h.stream c 1).start = (if !bit v.toNat 0 then .none else if s.hw.fld F.POR_S1_CTL_EN p c = 0 then .starts
        else if s.hw.fld F.POR_S1_STAT_STOPPED p c = 1 ∧ (s.hw.stream c 1).start = .none then .resumes
        else (s.hw.stream c 1).start) ∧
      (h.stream c 1).seq = (s.hw.stream c 1).seq ∧ (∀ d, h.ctx d = s.hw.ctx d) ∧ h.mem = s.hw.mem) ∧
  (∀ (s : State) (ag : Agent) (c : Nat), s.hw.act = true → s.hw.sees ag .POR_S0_CTL c 0 = true →
    (let v := (BitVec.ofNat 32 (setBits (s.hw.reg .POR_S0_CTL c).toNat 1 1 1)).toNat
     s.hw.changesLocked ag .POR_S0_CTL c 0 v = false ∧
     s.hw.streamCtlOk c (s.hw.streamFn c 0) (bits (s.hw.reg .POR_S0_CTL c).toNat 7 5) v
      (bits v 31 16 ≠ bits (s.hw.reg .POR_S0_CTL c).toNat 31 16 || !bit (s.hw.reg .POR_S0_CTL c).toNat 0) = true) →
    Completes (.refresh ag c 0) s fun h =>
      h.fld F.POR_S0_CTL_REFRESH c = 1 ∧ h.fld F.POR_S0_CTL_RING c = s.hw.fld F.POR_S0_CTL_RING c ∧
      (∀ d, h.ctx d = s.hw.ctx d) ∧ h.mem = s.hw.mem) ∧
  (∀ (s : State) (c k : Nat) (late : Bool) (r : Nat) (e : RingRec), s.hw.act = true →
    ((s.hw.closedSets (s.hw.streamFn c k) c k).find? fun x =>
      (s.hw.closedSets (s.hw.streamFn c k) c k).all fun y => decide (x.2.set ≤ y.2.set)) = some (r, e) →
    CompletesAs (.porchFlip c k late) s
      (((if late then s.hw.closeLate c k r e else s.hw).markRecs c k (fun x => decide (x.set ≤ e.set)) fun x =>
        { x with ready := true }).drainStream c k))

/-- R241, R234, R235: EN written to 1 by an allowed writer, with a fitting geometry and a scan buffer in private frames,
starts the port's training with every cell of its source owed; EN written to 0 stops it. R234: a fitting destination is
stored. R232: with training complete the port is TRAINED and ACTIVE. R236: the changed lines of a PSR2 port go out as one
selective update; a port whose link is lost stops and shows LINK_LOST. R241: an AUX transaction sends its words. -/
def Obligations.EdpPortRuns : Prop :=
  (∀ (s : State) (ag : Agent) (e v : Nat), s.hw.act = true → s.hw.sees ag .POR_EDP_CTL 0 e = true →
    v = setBits (s.hw.reg .POR_EDP_CTL 0 e).toNat 0 0 1 →
    s.hw.edpWriter ag (bits v 31 20) = true → s.hw.edpWriter ag (bits (s.hw.reg .POR_EDP_CTL 0 e).toNat 31 20) = true →
    s.hw.edpGeometry e (bits v 31 20) (bit v 8) (s.hw.reg .POR_EDP_DST 0 e).toNat = true →
    s.hw.edpBuffer e ((s.hw.portOf (bits v 31 20)).getD 0) = true → s.hw.edpClockOk e = true → bits v 7 6 ≠ 3 → bits v 5 4 ≠ 3 →
    s.hw.flag F.POR_EDP_STAT_ACTIVE 0 e = false →
    (s.hw.edpPort e).training = false →
    Completes (.edpEnable ag e true) s fun h =>
      (h.edpPort e).training = true ∧ (h.edpPort e).src = bits v 31 20 ∧
      (h.edpPort e).owed = Hw.allCells (s.hw.cls (bits v 31 20)) ∧ h.flag F.POR_EDP_CTL_EN 0 e = true ∧
      h.cots = s.hw.cots ∧ h.mem = s.hw.mem) ∧
  (∀ (s : State) (ag : Agent) (e v : Nat), s.hw.act = true → s.hw.sees ag .POR_EDP_CTL 0 e = true →
    v = setBits (s.hw.reg .POR_EDP_CTL 0 e).toNat 0 0 0 →
    s.hw.edpWriter ag (bits v 31 20) = true → s.hw.edpWriter ag (bits (s.hw.reg .POR_EDP_CTL 0 e).toNat 31 20) = true →
    bits v 7 6 ≠ 3 → bits v 5 4 ≠ 3 → (s.hw.reg .POR_EDP_DST 0 e).toNat = 0 →
    Completes (.edpEnable ag e false) s fun h =>
      (h.edpPort e).training = false ∧ h.flag F.POR_EDP_CTL_EN 0 e = false ∧ h.flag F.POR_EDP_STAT_ACTIVE 0 e = false ∧
      h.flag F.POR_EDP_STAT_TRAINED 0 e = false ∧ h.cots = s.hw.cots ∧ h.mem = s.hw.mem) ∧
  (∀ (s : State) (ag : Agent) (e : Nat) (v : DWord), s.hw.act = true → s.hw.sees ag .POR_EDP_DST 0 e = true →
    s.hw.edpWriter ag (bits (s.hw.reg .POR_EDP_CTL 0 e).toNat 31 20) = true →
    s.hw.edpGeometry e (bits (s.hw.reg .POR_EDP_CTL 0 e).toNat 31 20) (bit (s.hw.reg .POR_EDP_CTL 0 e).toNat 8) v.toNat = true →
    Completes (.edpGeometryWrite ag e true v) s fun h =>
      h.fld F.POR_EDP_DST_DX 0 e = bits v.toNat 12 0 ∧ h.fld F.POR_EDP_DST_DY 0 e = bits v.toNat 28 16 ∧
      h.fld F.POR_EDP_DST_DW 0 e = bits v.toNat 44 32 ∧ h.fld F.POR_EDP_DST_DH 0 e = bits v.toNat 60 48 ∧
      h.cots = s.hw.cots ∧ (s.hw.flag F.POR_EDP_STAT_ACTIVE 0 e = false → h.edp = s.hw.edp ∧ h.mem = s.hw.mem) ∧
      (s.hw.flag F.POR_EDP_STAT_ACTIVE 0 e = true →
        (h.edpPort e).lines = [(0, s.hw.edpVact e)] ∧ (h.edpPort e).owed = Hw.allCells (s.hw.cls (s.hw.edpPort e).src))) ∧
  (∀ (s : State) (e : Nat) (psr2 : Bool), s.hw.act = true → (s.hw.edpPort e).training = true →
    s.hw.flag F.POR_EDP_CTL_EN 0 e = true →
    Completes (.edpLinkTrained e (.trained psr2)) s fun h =>
      ∃ g : Hw, (g.edpPort e) = { s.hw.edpPort e with training := false } ∧ g.fld F.POR_EDP_STAT_TRAINED 0 e = 1 ∧
        g.fld F.POR_EDP_STAT_ACTIVE 0 e = 1 ∧ g.fld F.POR_EDP_STAT_HPD 0 e = 1 ∧
        g.fld F.POR_EDP_STAT_PSR2_ACT 0 e = b2n (psr2 && s.hw.flag F.POR_EDP_CTL_PSR2 0 e) ∧ g.mem = s.hw.mem ∧
        h = (g.edpRedraw e false).setPower { s.hw.power with asleep := (g.edpRedraw e false).power.asleep }) ∧
  (∀ (s : State) (e gran : Nat), s.hw.act = true → s.hw.flag F.POR_EDP_STAT_ACTIVE 0 e = true →
    s.hw.flag F.POR_EDP_STAT_PSR2_ACT 0 e = true → (s.hw.edpPort e).lines ≠ [] → 1 ≤ gran →
    Completes (.edpPanelFrame e gran false) s fun h =>
      (h.edpPort e).lines = [] ∧
      (∃ sent, h.out = .edpSu e sent :: s.hw.out ∧
        ∀ l, (∃ r ∈ sent, r.1 ≤ l ∧ l < r.2) ↔
          ∃ r ∈ (s.hw.edpPort e).lines, r.1 / gran * gran ≤ l ∧ l < min (s.hw.edpVact e) (ceilDiv r.2 gran * gran)) ∧
      h.fld F.POR_EDP_SU_SU 0 e = (s.hw.fld F.POR_EDP_SU_SU 0 e + 1) % 2 ^ 32 ∧ h.mem = s.hw.mem) ∧
  (∀ (s : State) (e : Nat) (hpd : Bool), s.hw.act = true →
    s.hw.flag F.POR_EDP_STAT_ACTIVE 0 e = true ∨ (s.hw.edpPort e).training = true →
    Completes (.edpLinkLost e hpd) s fun h =>
      (h.edpPort e).training = false ∧ h.fld F.POR_EDP_STAT_ACTIVE 0 e = 0 ∧ h.fld F.POR_EDP_STAT_TRAINED 0 e = 0 ∧
      h.fld F.POR_EDP_STAT_LINK_LOST 0 e = 1 ∧
      h.fld F.POR_EDP_STAT_HPD 0 e = (if hpd then 0 else s.hw.fld F.POR_EDP_STAT_HPD 0 e) ∧ h.cots = s.hw.cots) ∧
  (∀ (s : State) (ag : Agent) (e : Nat) (l : List Word), s.hw.act = true → s.hw.sees ag .POR_EDP_AUX 0 (8 * e) = true →
    s.hw.edpWriter ag (s.hw.fld F.POR_EDP_CTL_SRC 0 e) = true →
    Completes (.auxTransaction ag e l) s fun h =>
      h.out = (l.map (Out.aux e)).reverse ++ s.hw.out ∧ h.fresh = s.hw.fresh + 8 ∧ h.cots = s.hw.cots ∧ h.mem = s.hw.mem ∧
      h.fld F.POR_EDP_AUX_AUX 0 (8 * e + 7) = (Config.freeValue (s.hw.fresh + 7)).toNat % 2 ^ 32)

/-- R245: a due voice sample of a cottage that the Choir serves is generated; an uncorrectable state contains the cottage
(R278). R258, R265: a mix sample of a parish in service begins what waits for a boundary of 64 samples, mixes every
cottage and advances CHR_MIXPOS. R270: a complete block that the stream may not publish is owed as a gap, and the next block
begins; else it is published. -/
def Obligations.ChoirSamplesAndBlocks : Prop :=
  (∀ (s : State) (c : Nat) (g : Hw), s.hw.act = true → (s.hw.slotOf c).isSome = true → (s.hw.ctx c).st ≠ .cont →
    s.hw.sampleDue c = true → s.hw.genSample c = (none, g) → CompletesAs (.voiceSample c .none) s g) ∧
  (∀ (s : State) (c : Nat), s.hw.act = true → (s.hw.slotOf c).isSome = true → (s.hw.ctx c).st ≠ .cont →
    s.hw.sampleDue c = true →
    CompletesAs (.voiceSample c .ecc) s (s.hw.containWith c .CHR 0x02 (Hw.detailOf .CHR [0x02, c]))) ∧
  (∀ (s : State) (n m : Nat) (clocks : List BridgeClock) (realign : List Nat), s.hw.act = true →
    (s.hw.parish n).arm.isSome = true → s.hw.fld F.CHR_MIXPOS_POS n = m →
    let start := if m % 64 = 0 then s.hw.mixBoundary n m else s.hw
    CompletesAs (.mixSample n clocks realign) s
      ((start.each (start.parishCots n) fun h c =>
        h.mixCot c m (clocks.find? fun t => t.k == c % 256) (realign.contains (c % 256))).countWrap F.CHR_MIXPOS_POS n)) ∧
  (∀ (s : State) (n : Nat), s.hw.act = true → (s.hw.parish n).arm.isSome = true →
    s.hw.fld F.CHR_MIXPOS_POS n % 64 = 0 →
    CompletesAs (.mixBlockBoundary n) s (s.hw.mixBoundary n (s.hw.fld F.CHR_MIXPOS_POS n))) ∧
  (∀ (s : State) (c : Nat), s.hw.act = true → 240 ≤ (s.hw.cot c).choir.samples.length →
    CompletesAs (.audio c) s (s.hw.publishBlock c)) ∧
  (∀ (s : State) (c : Nat), s.hw.act = true → 240 ≤ (s.hw.cot c).choir.samples.length →
    (s.hw.cot c).choir.mute = true ∨ s.hw.audioRoom c (1 + (s.hw.cot c).choir.gaps.length) = false →
    (s.hw.cot c).choir.restart = none →
    Completes (.audio c) s fun h =>
      (h.cot c).choir.block = (s.hw.cot c).choir.block + 1 ∧
      (h.cot c).choir.samples = (s.hw.cot c).choir.samples.drop 240 ∧
      (h.cot c).choir.gaps = Hw.oweBlock (s.hw.cot c).choir.gaps (s.hw.cot c).choir.block ∧
      (h.cot c).choir.live = ((s.hw.cot c).choir.live && !(s.hw.cot c).choir.stopping) ∧
      h.fld F.CHR_S_STAT_GAP c = 1 ∧ h.mem = s.hw.mem)

/-- R266, R265: an accepted write of CHR_RT waits as PENDING for the next mix-block boundary, the route in force staying.
R262, R275: an accepted write of CHR_BUS is stored, and its gain waits for the boundary. R270: EN written to 1 starts a host
stream that does not run at block 0 of the next boundary, and EN written to 0 stops one after the block it is in. -/
def Obligations.ChoirRouteAndBusWrites : Prop :=
  (∀ (s : State) (ag : Agent) (c r : Nat) (v : Word), s.hw.act = true →
    s.hw.sees ag .CHR_RT (c / 256) (c % 256 * 4 + r) = true →
    s.hw.changesLocked ag .CHR_RT (c / 256) (c % 256 * 4 + r) v.toNat = false → Hw.sinkOk (bits v.toNat 7 0) = true →
    (bits v.toNat 7 0 = 0 ∨ ∀ k, k < 4 → k ≠ r → s.hw.routeTwice c r k (bits v.toNat 7 0) = false) → bits v.toNat 28 16 ≤ 4096 →
    Completes (.routeWrite ag c r v) s fun h =>
      h.fld F.CHR_RT_PENDING (c / 256) (c % 256 * 4 + r) = 1 ∧
      h.fld F.CHR_RT_SINK (c / 256) (c % 256 * 4 + r) = s.hw.fld F.CHR_RT_SINK (c / 256) (c % 256 * 4 + r) ∧
      h.fld F.CHR_RT_GAIN (c / 256) (c % 256 * 4 + r) = s.hw.fld F.CHR_RT_GAIN (c / 256) (c % 256 * 4 + r) ∧
      NTable.get 0 (h.cot c).choir.routePend r = bits v.toNat 28 16 * 256 + bits v.toNat 7 0 + 1 ∧
      NTable.get 0 (h.cot c).choir.routeDue r = 64 * (s.hw.fld F.CHR_MIXPOS_POS (c / 256) / 64 + 1) ∧
      (∀ d, h.ctx d = s.hw.ctx d) ∧ h.mem = s.hw.mem) ∧
  (∀ (s : State) (ag : Agent) (c : Nat) (v : Word), s.hw.act = true → s.hw.sees ag .CHR_BUS c 0 = true →
    s.hw.changesLocked ag .CHR_BUS c 0 v.toNat = false → bits v.toNat 21 16 ≤ 50 → bits v.toNat 12 0 ≤ 4096 →
    Completes (.chrBusWrite ag c v) s fun h =>
      h.fld F.CHR_BUS_RAMP c = bits v.toNat 21 16 ∧ h.fld F.CHR_BUS_BGAIN c = bits v.toNat 12 0 ∧
      (h.cot c).choir.busDue = 64 * (s.hw.fld F.CHR_MIXPOS_POS (c / 256) / 64 + 1) ∧
      (h.cot c).choir.gain = (s.hw.cot c).choir.gain ∧ (h.cot c).choir.sub = (s.hw.cot c).choir.sub ∧
      (∀ d, h.ctx d = s.hw.ctx d) ∧ h.mem = s.hw.mem) ∧
  (∀ (s : State) (ag : Agent) (c : Nat) (v : Word), s.hw.act = true → s.hw.sees ag .CHR_S_CTL c 0 = true →
    s.hw.changesLocked ag .CHR_S_CTL c 0 v.toNat = false → bit v.toNat 0 = true → bit (s.hw.reg .CHR_S_CTL c).toNat 0 = true →
    bits v.toNat 31 16 = bits (s.hw.reg .CHR_S_CTL c).toNat 31 16 → (s.hw.cot c).choir.live = false →
    Completes (.hostAudioEnable ag c v) s fun h =>
      (h.cot c).choir.live = true ∧ (h.cot c).choir.block = 0 ∧ (h.cot c).choir.samples = [] ∧
      (h.cot c).choir.startAt = 64 * (s.hw.fld F.CHR_MIXPOS_POS (c / 256) / 64 + 1) ∧ (h.cot c).choir.disc = true ∧
      h.fld F.CHR_S_STAT_STOPPED c = 0 ∧ h.mem = s.hw.mem) ∧
  (∀ (s : State) (ag : Agent) (c : Nat) (v : Word), s.hw.act = true → s.hw.sees ag .CHR_S_CTL c 0 = true →
    s.hw.changesLocked ag .CHR_S_CTL c 0 v.toNat = false → bit v.toNat 0 = false →
    Completes (.hostAudioEnable ag c v) s fun h =>
      (h.cot c).choir.stopping = ((s.hw.cot c).choir.live && !(s.hw.cot c).choir.samples.isEmpty) ∧
      (h.cot c).choir.live = ((s.hw.cot c).choir.live && !(s.hw.cot c).choir.samples.isEmpty) ∧
      (h.cot c).choir.restart = none ∧ (h.cot c).choir.samples = (s.hw.cot c).choir.samples ∧
      h.fld F.CHR_S_CTL_EN c = 0 ∧ h.mem = s.hw.mem)

/-- R271, R273: an active port sends one frame on the Lane that carries its data, of zeros with UNDERRUN if the data is
not ready; a slip sets SLIP, and its frame number passes once more (the frame sent again, or left out: the model's
reading). R272: EN written to 1 starts a port at frame 0 and EN written to 0 stops it. R274: a change of SRC stops both
ports until the PLL locks; the loss of the source holds the clock with LOCK_LOST; locking sets LOCKED and ends the wait.
-/
def Obligations.TdmPortsAndAmclk : Prop :=
  (∀ (s : State) (p : Nat) (l : List Word), s.hw.act = true → s.hw.flag F.CHR_TDM_STAT_ACTIVE 0 p = true →
    (s.hw.tdmPort p).stopped = false → (s.hw.tdmPort p).resumes = false →
    l = List.replicate (s.hw.fld F.CHR_TDM_CTL_SLOTS 0 p) 0 →
    Completes (.tdmPortFrame p false) s fun h =>
      h.out = (if (s.hw.laneOf 13 p 2).isSome then [.tdm p (s.hw.fld F.CHR_TDM_FRAME_FRAME 0 p) (s.hw.fld F.CHR_TDM_CTL_MODE 0 p)
        (s.hw.flag F.CHR_TDM_CTL_SLAVE 0 p) l] else []) ++ s.hw.out ∧
      h.fld F.CHR_TDM_FRAME_FRAME 0 p = (s.hw.fld F.CHR_TDM_FRAME_FRAME 0 p + 1) % 2 ^ 64 ∧
      h.fld F.CHR_TDM_STAT_UNDERRUN 0 p = 1 ∧ (h.tdmPort p).zeros = some (match (s.hw.tdmPort p).zeros with
        | some (a, n) => (a, n + 1)
        | none => (s.hw.fld F.CHR_TDM_FRAME_FRAME 0 p, 1)) ∧
      (h.tdmPort p).last = l ∧ h.mem = s.hw.mem ∧ h.cots = s.hw.cots) ∧
  (∀ (s : State) (p : Nat) (again : Bool), s.hw.act = true → s.hw.flag F.CHR_TDM_STAT_ACTIVE 0 p = true →
    s.hw.flag F.CHR_TDM_CTL_SLAVE 0 p = true →
    Completes (.tdmSlip p again) s fun h =>
      h.fld F.CHR_TDM_STAT_SLIP 0 p = 1 ∧
      h.fld F.CHR_TDM_FRAME_FRAME 0 p = (s.hw.fld F.CHR_TDM_FRAME_FRAME 0 p + 1) % 2 ^ 64 ∧
      h.tdmPort p = s.hw.tdmPort p ∧ h.cots = s.hw.cots) ∧
  (∀ (s : State) (ag : Agent) (p : Nat) (v : Word), s.hw.act = true → s.hw.sees ag .CHR_TDM_CTL 0 p = true →
    Hw.tdmOk v.toNat = true → bit v.toNat 31 = true → bit (s.hw.reg .CHR_TDM_CTL 0 p).toNat 31 = false →
    Completes (.tdmConfigWrite ag p v) s fun h =>
      h.fld F.CHR_TDM_CTL_SLOTS 0 p = bits v.toNat 20 16 ∧ h.fld F.CHR_TDM_CTL_RATE 0 p = bits v.toNat 13 12 ∧
      h.fld F.CHR_TDM_FRAME_FRAME 0 p = 0 ∧ h.fld F.CHR_TDM_STAT_ACTIVE 0 p = b2n (!(s.hw.tdmPort p).noClock) ∧
      h.cots = s.hw.cots ∧ h.mem = s.hw.mem) ∧
  (∀ (s : State) (ag : Agent) (p : Nat) (v : Word), s.hw.act = true → s.hw.sees ag .CHR_TDM_CTL 0 p = true →
    Hw.tdmOk v.toNat = true → bit v.toNat 31 = false →
    Completes (.tdmConfigWrite ag p v) s fun h =>
      h.fld F.CHR_TDM_STAT_ACTIVE 0 p = 0 ∧ (h.tdmPort p).stopped = false ∧ h.cots = s.hw.cots) ∧
  (∀ (s : State) (ag : Agent) (v : Word), s.hw.act = true → s.hw.sees ag .CHR_AMCLK 0 0 = true →
    s.hw.changesLocked ag .CHR_AMCLK 0 0 v.toNat = false → bit v.toNat 0 ≠ s.hw.flag F.CHR_AMCLK_SRC →
    Completes (.amclkSourceWrite ag v) s fun h =>
      h.fld F.CHR_AMCLK_LOCKED = 0 ∧ (∀ p, p < 2 → (h.tdmPort p).noClock = true ∧ h.fld F.CHR_TDM_STAT_ACTIVE 0 p = 0) ∧
      h.cots = s.hw.cots) ∧
  (∀ (s : State), s.hw.act = true → s.hw.flag F.CHR_AMCLK_LOCKED = true →
    Completes .amclkLost s fun h =>
      h.fld F.CHR_AMCLK_LOCKED = 0 ∧ h.fld F.CHR_AMCLK_LOCK_LOST = 1 ∧ h.tdm = s.hw.tdm ∧ h.cots = s.hw.cots) ∧
  (∀ (s : State), s.hw.act = true → (∀ p, p < 2 → (s.hw.tdmPort p).noClock = false) →
    Completes .amclkLock s fun h =>
      h.fld F.CHR_AMCLK_LOCKED = 1 ∧ h.tdm = s.hw.tdm ∧ h.mem = s.hw.mem ∧ h.cots = s.hw.cots)

/-- R287: an accepted write of GRN_CMAP[e] of a cottage in OFF or CONT stores the entry's kind and source. R294: a granule
asked for that arrives is marked in its frame, which is SHARED_RO with all 16; further granules are asked for, and what
waits for this one goes on. R310: a failed request makes the frame POISONED, GRN_FAIL names it, and the cottages that wait
are contained. R297: a copy that completes leaves the copies in progress, and the writers that wait go on. -/
def Obligations.GranaryMapAndArrivals : Prop :=
  (∀ (s : State) (ag : Agent) (c e : Nat) (v : DWord), s.hw.act = true → e < 256 →
    s.hw.sees ag .GRN_CMAP (c / 256) (c % 256 * 256 + e) = true →
    s.hw.changesLocked ag .GRN_CMAP (c / 256) (c % 256 * 256 + e) v.toNat = false →
    bits v.toNat 1 0 = 0 ∨ bits v.toNat 1 0 = 2 → (s.hw.ctx c).st = .off ∨ (s.hw.ctx c).st = .cont →
    bits v.toNat 1 0 ≠ bits (s.hw.cmap c e) 1 0 ∨ bits v.toNat 61 36 ≠ bits (s.hw.cmap c e) 61 36 →
    s.hw.cmapFrame c e = none →
    Completes (.cmapWrite ag c e v) s fun h =>
      h.fld F.GRN_CMAP_KIND (c / 256) (c % 256 * 256 + e) = bits v.toNat 1 0 ∧ h.gran = s.hw.gran ∧
      h.cots = s.hw.cots ∧ h.mem = s.hw.mem) ∧
  (∀ (s : State) (f g : Nat), s.hw.act = true → (s.hw.frame f).state = .inFlight → g ∈ s.hw.outstanding f →
    ∃ k : Hw, k.frame f = { s.hw.frame f with
        gran := (s.hw.frame f).gran + 2 ^ g,
        state := if (s.hw.frame f).gran + 2 ^ g = 0xFFFF then .sharedRo else .inFlight } ∧
      k.cots = s.hw.cots ∧ k.regs = s.hw.regs ∧
      k.gran.pageins = (if (s.hw.frame f).gran + 2 ^ g = 0xFFFF then s.hw.gran.pageins.filter fun e => e.1 ≠ f
        else s.hw.gran.pageins) ∧
      k.mem = (s.hw.copyMem (Hw.portBase ((s.hw.frame f).owner / 129) + (s.hw.frame f).link * 0x100000 + g * 0x10000)
        (Hw.frameBase f + g * 0x10000) 0x10000).mem ∧
      CompletesAs (.granuleArrival f g) s ((k.requestMore f).granuleServed f g)) ∧
  (∀ (s : State) (f g : Nat) (how : ReadEnd), s.hw.act = true → (s.hw.frame f).state = .inFlight →
    g ∈ s.hw.outstanding f →
    ∃ k : Hw, (k.frame f).state = .poisoned ∧ k.gran.pageins = s.hw.gran.pageins.filter (fun e => e.1 ≠ f) ∧
      k.fld F.GRN_FAIL_FRAME = f % 2 ^ 16 ∧ k.cots = s.hw.cots ∧ k.mem = s.hw.mem ∧
      CompletesAs (.pageinFail f g how) s (((k.aerRead ((s.hw.frame f).owner / 129) how).dropForeign f).each
        (s.hw.waiters f (List.range 16)) fun h c => h.containGrn c 0x01 (Hw.detailOf .GRN [0x01, c, f]))) ∧
  (∀ (s : State) (f g : Nat) (e : GranuleCopy), s.hw.act = true →
    s.hw.gran.copies.find? (fun e => e.frame == f && e.g == g) = some e →
    ∃ k : Hw, k = { s.hw with gran := { s.hw.gran with copies := s.hw.gran.copies.filter (· ≠ e) } } ∧
      CompletesAs (.cowCopyDone f g) s ((k.copyGranule f g e.cot).granuleServed f g))

/-- R309: with the bank idle, ALLOC answers the frame it allocated, held by the PF, or code 2; FREE of an unshared ALLOC
frame of the PF releases it; READ answers the map entry; EVACUATE of a channel but 0 stops allocation from it at once and
runs until its copies are complete; ARG0[63] releases the channel; DROP with nothing to free answers code 5. Each ends
with STATE 0 and its code, and a command to a bank that runs one is answered BUSY. -/
def Obligations.GranaryCommands : Prop :=
  (∀ (s : State) (ag : Agent) (p vec f : Nat) (g : Hw), s.hw.act = true → s.hw.sees ag .GRN_CMD p 0 = true →
    vec < Hw.vectors (129 * p) → s.hw.flag F.GRN_STAT_STATE p = false → f < 2 ^ 64 →
    s.hw.allocFrame (129 * p) Hw.privFrame = (some f, g) →
    Completes (.allocCmd ag p vec) s fun h =>
      h.fld F.GRN_STAT_CODE p = 0 ∧ h.fld F.GRN_STAT_STATE p = 0 ∧ (h.reg .GRN_RESULT p 0).toNat = f ∧
      h.gran = g.gran ∧ h.cots = g.cots) ∧
  (∀ (s : State) (ag : Agent) (p vec : Nat), s.hw.act = true → s.hw.sees ag .GRN_CMD p 0 = true →
    vec < Hw.vectors (129 * p) → s.hw.flag F.GRN_STAT_STATE p = true →
    Completes (.allocCmd ag p vec) s fun h =>
      h.fld F.GRN_STAT_CODE p = 1 ∧ h.gran = s.hw.gran ∧ h.cots = s.hw.cots) ∧
  (∀ (s : State) (ag : Agent) (p vec f : Nat), s.hw.act = true → s.hw.sees ag .GRN_CMD p 0 = true →
    vec < Hw.vectors (129 * p) → s.hw.flag F.GRN_STAT_STATE p = false → f = bits (s.hw.reg .GRN_ARG0 p).toNat 15 0 →
    (s.hw.frame f).state ≠ .free → (s.hw.frame f).owner = 129 * p → (s.hw.fn (129 * p)).allocs.contains f = true →
    (s.hw.frame f).sharers ≤ 1 → s.hw.isScanBuffer f = false →
    let k := (s.hw.modFn (129 * p) fun x => { x with allocs := x.allocs.filter (· ≠ f) }).dropRef f true
    CompletesAs (.freeCmd ag p vec) s (k.grnDone p vec 0) ∧ (k.grnDone p vec 0).fld F.GRN_STAT_CODE p = 0) ∧
  (∀ (s : State) (ag : Agent) (p vec : Nat), s.hw.act = true → s.hw.sees ag .GRN_CMD p 0 = true →
    vec < Hw.vectors (129 * p) → s.hw.flag F.GRN_STAT_STATE p = false →
    Completes (.readCmd ag p vec) s fun h =>
      h.fld F.GRN_STAT_CODE p = 0 ∧ h.gran = s.hw.gran ∧ h.cots = s.hw.cots ∧
      (h.reg .GRN_RESULT p 0).toNat = Hw.entryBits (s.hw.frame (bits (s.hw.reg .GRN_ARG0 p).toNat 15 0)) % 2 ^ 64 ∧
      (h.reg .GRN_RESULT p 1).toNat = Hw.entryBits (s.hw.frame (bits (s.hw.reg .GRN_ARG0 p).toNat 15 0)) / 2 ^ 64 % 2 ^ 64) ∧
  (∀ (s : State) (ag : Agent) (p vec arg : Nat), s.hw.act = true → s.hw.sees ag .GRN_CMD p 0 = true →
    vec < Hw.vectors (129 * p) → s.hw.flag F.GRN_STAT_STATE p = false → arg = (s.hw.reg .GRN_ARG0 p).toNat →
    (s.hw.gran.map.filter fun e =>
      decide ((e.2.state = .poisoned ∨ e.2.state = .sharedRo) ∧ e.2.link = bits arg 45 20 ∧ e.2.owner / 129 = p ∧
        bits arg 46 46 = p ∧ e.2.owner ≠ moduleOwner)) = [] →
    Completes (.granaryDrop ag p vec) s fun h =>
      h.fld F.GRN_STAT_CODE p = 5 ∧ h.gran = s.hw.gran ∧ h.cots = s.hw.cots) ∧
  (∀ (s : State) (ag : Agent) (p vec : Nat) (hit : List Nat), s.hw.act = true → s.hw.sees ag .GRN_CMD p 0 = true →
    vec < Hw.vectors (129 * p) → s.hw.flag F.GRN_STAT_STATE p = false → hit ≠ [] →
    hit = (s.hw.gran.map.filter fun e =>
      decide ((e.2.state = .poisoned ∨ e.2.state = .sharedRo) ∧ e.2.link = bits (s.hw.reg .GRN_ARG0 p).toNat 45 20 ∧
        e.2.owner / 129 = p ∧ bits (s.hw.reg .GRN_ARG0 p).toNat 46 46 = p ∧ e.2.owner ≠ moduleOwner)).map (·.1) →
    let k := s.hw.each hit fun h f => ((h.dropMapRefs f).releaseFrame f).2
    CompletesAs (.granaryDrop ag p vec) s (k.grnDone p vec 0) ∧ (k.grnDone p vec 0).fld F.GRN_STAT_CODE p = 0) ∧
  (∀ (s : State) (ag : Agent) (p vec : Nat), s.hw.act = true → s.hw.sees ag .GRN_CMD p 0 = true →
    vec < Hw.vectors (129 * p) → s.hw.flag F.GRN_STAT_STATE p = false → bit (s.hw.reg .GRN_ARG0 p).toNat 63 = false →
    bits (s.hw.reg .GRN_ARG0 p).toNat 5 0 ≠ 0 →
    Completes (.evacuate ag p vec) s fun h =>
      h.fld F.GRN_STAT_STATE p = 1 ∧
      h.gran.evacuating = s.hw.gran.evacuating ++ [(p * 4096 + vec, bits (s.hw.reg .GRN_ARG0 p).toNat 5 0)] ∧
      h.gran.map = s.hw.gran.map ∧ h.cots = s.hw.cots ∧ h.mem = s.hw.mem) ∧
  (∀ (s : State) (ag : Agent) (p vec : Nat), s.hw.act = true → s.hw.sees ag .GRN_CMD p 0 = true →
    vec < Hw.vectors (129 * p) → s.hw.flag F.GRN_STAT_STATE p = false → bit (s.hw.reg .GRN_ARG0 p).toNat 63 = false →
    bits (s.hw.reg .GRN_ARG0 p).toNat 5 0 = 0 →
    Completes (.evacuate ag p vec) s fun h => h.fld F.GRN_STAT_CODE p = 4 ∧ h.gran = s.hw.gran ∧ h.cots = s.hw.cots) ∧
  (∀ (s : State) (ag : Agent) (p vec : Nat), s.hw.act = true → s.hw.sees ag .GRN_CMD p 0 = true →
    vec < Hw.vectors (129 * p) → s.hw.flag F.GRN_STAT_STATE p = false → bit (s.hw.reg .GRN_ARG0 p).toNat 63 = true →
    Completes (.evacuateRelease ag p vec) s fun h =>
      h.fld F.GRN_STAT_CODE p = 0 ∧ ¬ bits (s.hw.reg .GRN_ARG0 p).toNat 5 0 ∈ h.gran.evacuated ∧
      h.gran.map = s.hw.gran.map ∧ h.cots = s.hw.cots) ∧
  (∀ (s : State) (q w : Nat) (g : Hw), s.hw.act = true →
    s.hw.gran.evacuating.find? (fun e => e.2 == q) = some (w, q) →
    ((s.hw.gran.map.filter fun e => decide (e.1 / 1024 = q ∧ e.2.state ≠ .free ∧ 64 ≤ e.1)).map (·.1)).foldl
      (fun (a : Bool × Hw) f => (a.1 && (a.2.moveFrame f).1, (a.2.moveFrame f).2)) (true, s.hw) = (true, g) →
    Completes (.evacuateDone q) s fun h =>
      q ∈ h.gran.evacuated ∧ h.gran.evacuating = g.gran.evacuating.filter (fun e => e.2 ≠ q) ∧ h.gran.map = g.gran.map ∧
      h.fld F.GRN_STAT_CODE (w / 4096) = 0 ∧ h.fld F.GRN_STAT_STATE (w / 4096) = 0)

/-- R306: with no command of the cottage running, CAPTURE and RESTORE run at once in OFF and THOLD (RESTORE of a full slot
also in CONT) and are pending in other states; CAPTURE in CONT ends with code 4, RESTORE, DROP and EXPORT of an empty slot
with code 2, IMPORT into a full slot or in another state than OFF and CONT with code 4, an image that does not fit with 3,
a range outside the owner's Commons with 7. CANCEL ends a pending command with code 8 and changes nothing else. A command
while one runs is answered 1 and changes no command. -/
def Obligations.HayloftCommands : Prop :=
  (∀ (s : State) (ag : Agent) (c slot vec : Nat), s.hw.act = true → s.hw.HayTakes ag c vec →
    let k := s.hw.hayAsked ag c 1 slot vec
    let st := (s.hw.ctx c).st
    (st = .cont → Completes (.capture ag c slot vec) s fun h =>
      h.fld F.HAY_STAT_CODE c = 4 ∧ (h.cot c).hay = none ∧ (h.cot c).snaps = (s.hw.cot c).snaps) ∧
    (st ≠ .cont → Completes (.capture ag c slot vec) s fun h =>
      (h.cot c).hay = some k ∧ h.flag F.HAY_STAT_ACTIVE c = decide (st = .off ∨ st = .thold) ∧
      h.flag F.HAY_STAT_PENDING c = !decide (st = .off ∨ st = .thold) ∧ (h.cot c).snaps = (s.hw.cot c).snaps ∧
      h.ctx c = s.hw.ctx c ∧ h.gran = s.hw.gran ∧ h.mem = s.hw.mem)) ∧
  (∀ (s : State) (ag : Agent) (c slot vec : Nat), s.hw.act = true → s.hw.HayTakes ag c vec →
    let k := s.hw.hayAsked ag c 2 slot vec
    let st := (s.hw.ctx c).st
    (s.hw.snap c (slot % 8) = none → Completes (.restore ag c slot vec) s fun h =>
      h.fld F.HAY_STAT_CODE c = 2 ∧ (h.cot c).hay = none ∧ h.ctx c = s.hw.ctx c) ∧
    (s.hw.snap c (slot % 8) ≠ none → Completes (.restore ag c slot vec) s fun h =>
      (h.cot c).hay = some k ∧ h.flag F.HAY_STAT_ACTIVE c = decide (st = .off ∨ st = .thold ∨ st = .cont) ∧
      h.flag F.HAY_STAT_PENDING c = !decide (st = .off ∨ st = .thold ∨ st = .cont) ∧
      h.ctx c = s.hw.ctx c ∧ h.gran = s.hw.gran ∧ h.mem = s.hw.mem)) ∧
  (∀ (s : State) (ag : Agent) (c slot vec : Nat), s.hw.act = true → s.hw.HayTakes ag c vec →
    (s.hw.snap c (slot % 8) = none → Completes (.snapshotDrop ag c slot vec) s fun h =>
      h.fld F.HAY_STAT_CODE c = 2 ∧ (h.cot c).hay = none ∧ h.gran = s.hw.gran) ∧
    (s.hw.snap c (slot % 8) ≠ none → slot % 8 < (s.hw.cot c).snaps.length →
      Completes (.snapshotDrop ag c slot vec) s fun h =>
        h.fld F.HAY_STAT_CODE c = 0 ∧ (h.cot c).hay = none ∧ h.snap c (slot % 8) = none ∧
        h.ctx c = s.hw.ctx c ∧ h.gran = (s.hw.dropSnap c (slot % 8)).gran)) ∧
  (∀ (s : State) (ag : Agent) (c slot vec : Nat), s.hw.act = true → s.hw.HayTakes ag c vec →
    (s.hw.snap c (slot % 8) = none → Completes (.exportCmd ag c slot vec) s fun h =>
      h.fld F.HAY_STAT_CODE c = 2 ∧ (h.cot c).hay = none) ∧
    (∀ x, s.hw.snap c (slot % 8) = some x → s.hw.fld F.HAY_XLEN_LEN c < (s.hw.imageOf c x).length →
      Completes (.exportCmd ag c slot vec) s fun h => h.fld F.HAY_STAT_CODE c = 3 ∧ (h.cot c).hay = none) ∧
    (∀ x, s.hw.snap c (slot % 8) = some x → (s.hw.imageOf c x).length ≤ s.hw.fld F.HAY_XLEN_LEN c →
      s.hw.hayRange c (s.hw.hayAsked ag c 4 slot vec) (s.hw.imageOf c x).length = true →
      Completes (.exportCmd ag c slot vec) s fun h =>
        (h.cot c).hay = some (s.hw.hayAsked ag c 4 slot vec) ∧ h.flag F.HAY_STAT_ACTIVE c = true ∧
        h.flag F.HAY_STAT_PENDING c = false ∧ h.ctx c = s.hw.ctx c ∧ h.gran = s.hw.gran)) ∧
  (∀ (s : State) (ag : Agent) (c slot vec : Nat), s.hw.act = true → s.hw.HayTakes ag c vec →
    let st := (s.hw.ctx c).st
    (s.hw.snap c (slot % 8) ≠ none ∨ (st ≠ .off ∧ st ≠ .cont) → Completes (.importCmd ag c slot vec) s fun h =>
      h.fld F.HAY_STAT_CODE c = 4 ∧ (h.cot c).hay = none ∧ (h.cot c).snaps = (s.hw.cot c).snaps) ∧
    (s.hw.snap c (slot % 8) = none → st = .off ∨ st = .cont →
      (128 ≤ s.hw.fld F.HAY_XLEN_LEN c → s.hw.hayRange c (s.hw.hayAsked ag c 5 slot vec) 128 = true) →
      Completes (.importCmd ag c slot vec) s fun h =>
        (h.cot c).hay = some (s.hw.hayAsked ag c 5 slot vec) ∧ h.flag F.HAY_STAT_ACTIVE c = true ∧
        h.flag F.HAY_STAT_PENDING c = false ∧ h.ctx c = s.hw.ctx c ∧ h.gran = s.hw.gran)) ∧
  (∀ (s : State) (ag : Agent) (c : Nat), s.hw.act = true → s.hw.sees ag .HAY_CMD c 0 = true →
    0 < Hw.vectors ((Hw.agentFn ag).getD 258) →
    (s.hw.flag F.HAY_STAT_PENDING c = true → Completes (.cancel ag c) s fun h =>
      h.fld F.HAY_STAT_CODE c = 8 ∧ h.fld F.HAY_STAT_PENDING c = 0 ∧ (h.cot c).hay = none ∧ h.ctx c = s.hw.ctx c) ∧
    (s.hw.flag F.HAY_STAT_PENDING c = false → CompletesAs (.cancel ag c) s s.hw)) ∧
  (∀ (s : State) (ag : Agent) (c slot vec : Nat), s.hw.act = true → s.hw.sees ag .HAY_CMD c 0 = true →
    ((Hw.agentFn ag).getD 258 < 258 → vec < Hw.vectors ((Hw.agentFn ag).getD 258)) → (s.hw.cot c).hay ≠ none →
    Completes (.capture ag c slot vec) s fun h =>
      h.fld F.HAY_STAT_CODE c = 1 ∧ (h.cot c).hay = (s.hw.cot c).hay ∧ h.cots = s.hw.cots)

/-- R300: a capture taken in OFF, or in THOLD before the Bell, leaves in its slot a snapshot of the context's frame,
processor, Tally, next sequence number and video RAM entry in the slab allocated for it, and ends with code 0; without a
slab it ends with code 3. R311: a snapshot found uncorrectable at its restore is dropped and RESTORE ends with code 2.
R301: a restore gives the context the snapshot's frame, processor (with prediction tables empty), Tally and video
registers, and an empty input queue. R303: an EXPORT writes the image, its first 8 bytes last, and ends with code 0, or 7
after a failed write. R305: an IMPORT ends with the code of the image's checks, or 7 after a failed read. -/
def Obligations.HayloftCompletions : Prop :=
  (∀ (s : State) (c : Nat) (k : HayCmd) (slab : Nat × Nat) (g : Hw), s.hw.act = true → (s.hw.cot c).hay = some k →
    k.op = 1 → s.hw.hayHolds c = true → s.hw.captureReady c = true → k.slot < (s.hw.cot c).snaps.length →
    (s.hw.parish (c / 256)).captures.head? = some c →
    (s.hw.ctx c).st = .off ∨
      ((s.hw.ctx c).st = .thold ∧ (s.hw.ctx c).restored = false ∧ s.hw.bellPassed c (s.hw.ctx c).frame = false) →
    (s.hw.setSt c .snap).allocSlab (((s.hw.setSt c .snap).ownerOf c).getD 0) = (some slab, g) →
    Completes (.capturePoint c .sound) s fun h =>
      h.fld F.HAY_STAT_CODE c = 0 ∧ (h.cot c).hay = none ∧
      (h.ctx c).st = (if (s.hw.ctx c).st = .off then .off else if s.hw.flag F.COT_CTL_HALT c then .halt else .thold) ∧
      (h.ctx c).frame = (s.hw.ctx c).frame ∧ (h.ctx c).hob = (s.hw.ctx c).hob ∧ (h.ctx c).tally = (s.hw.ctx c).tally ∧
      ∃ p, h.snap c k.slot = some p ∧ p.frame = (s.hw.ctx c).frame ∧ p.vc = (s.hw.ctx c).vc ∧ p.hob = (s.hw.ctx c).hob ∧
        p.tally = (s.hw.ctx c).tally ∧ p.nextSeq = (s.hw.ctx c).nextSeq ∧ p.vreg = (s.hw.cot c).loom.vreg ∧
        p.pal = (s.hw.cot c).loom.pal ∧ p.slab = slab) ∧
  (∀ (s : State) (c : Nat) (k : HayCmd) (g : Hw), s.hw.act = true → (s.hw.cot c).hay = some k →
    k.op = 1 → s.hw.hayHolds c = true → s.hw.captureReady c = true → (s.hw.parish (c / 256)).captures.head? = some c →
    (s.hw.ctx c).st = .off →
    (s.hw.setSt c .snap).allocSlab (((s.hw.setSt c .snap).ownerOf c).getD 0) = (none, g) →
    Completes (.capturePoint c .sound) s fun h =>
      h.fld F.HAY_STAT_CODE c = 3 ∧ (h.cot c).hay = none ∧ (h.cot c).snaps = (s.hw.cot c).snaps ∧
      (h.ctx c).st = .off ∧ h.gran = g.gran) ∧
  (∀ (s : State) (c : Nat) (k : HayCmd) (x : Snapshot), s.hw.act = true → (s.hw.cot c).hay = some k →
    k.op = 2 → s.hw.hayHolds c = true → s.hw.restoreReady c = true → (s.hw.ctx c).st = .off →
    s.hw.snap c k.slot = some x → k.slot < (s.hw.cot c).snaps.length →
    Completes (.restoreTaken c true .sound) s fun h =>
      h.fld F.HAY_STAT_CODE c = 2 ∧ (h.cot c).hay = none ∧ h.snap c k.slot = none ∧ h.ctx c = s.hw.ctx c) ∧
  (∀ (s : State) (c : Nat) (k : HayCmd) (x : Snapshot), s.hw.act = true → (s.hw.cot c).hay = some k →
    k.op = 2 → s.hw.hayHolds c = true → s.hw.restoreReady c = true →
    (s.hw.ctx c).st = .off ∨ (s.hw.ctx c).st = .thold ∨ (s.hw.ctx c).st = .cont → s.hw.snap c k.slot = some x →
    ∃ r : Hw, (r.ctx c).frame = x.frame ∧ (r.ctx c).hob = { x.hob with dirTable := [], indTable := [], hist := 0 } ∧
      (r.ctx c).inq = [] ∧ (r.ctx c).tally = x.tally ∧ (r.cot c).loom.vreg = x.vreg ∧ (r.cot c).loom.pal = x.pal ∧
      (r.ctx c).st = .snap ∧
      ∀ g, Hw.applyAll x.tally r c true = (.ok, g) →
        CompletesAs (.restoreTaken c false .sound) s ((g.hayDone c 0 true).leaveSnap c (s.hw.ctx c).st)) ∧
  (∀ (s : State) (c : Nat) (k : HayCmd) (x : Snapshot), s.hw.act = true → (s.hw.cot c).hay = some k →
    k.op = 4 → s.hw.snap c k.slot = some x → s.hw.imageIssues c k = true → (s.hw.imageOf c x).length ≤ k.len →
    s.hw.hayRange c k (s.hw.imageOf c x).length = true →
    let o := (s.hw.ownerOf c).getD 0
    let (sp, a) := Hw.imagePlace k
    let first := s.hw.commonsWrite o sp (a + 8) ((s.hw.imageOf c x).drop 8)
    CompletesAs (.exportDone c none) s ((first.commonsWrite o sp a ((s.hw.imageOf c x).take 8)).hayDone c 0 true) ∧
    ∀ n, Completes (.exportDone c (some n)) s fun h => h.fld F.HAY_STAT_CODE c = 7 ∧ (h.cot c).hay = none) ∧
  (∀ (s : State) (c : Nat) (k : HayCmd), s.hw.act = true → (s.hw.cot c).hay = some k → k.op = 5 →
    s.hw.imageIssues c k = true →
    (∀ code g, s.hw.importNow c k = (code, g) → code < 256 → Completes (.importDone c .ok) s fun h =>
      h.fld F.HAY_STAT_CODE c = code ∧ (h.cot c).hay = none ∧ h.snap c k.slot = g.snap c k.slot ∧ h.gran = g.gran) ∧
    ∀ how, how ≠ .ok → Completes (.importDone c how) s fun h =>
      h.fld F.HAY_STAT_CODE c = 7 ∧ (h.cot c).hay = none ∧ (h.cot c).snaps = (s.hw.cot c).snaps ∧ h.gran = s.hw.gran)

/-- R317: a write of LRD_RET sends each bank with a 1 to retention, at once or when the access it waits for is served, and
begins the wake of each retained bank with a 0, which shows its retention until the wake is over; the end of a wake clears
its bit of LRD_RETSTAT. An access to a bank in retention begins its wake and is not served. R315, R318: an access alone at
an awake bank is served: a read answers the word, and one found uncorrectable leaves LRD_ERR_POS naming it, the word
poisoned and no data; a whole-word write stores the word and heals it. -/
def Obligations.LarderBanks : Prop :=
  (∀ (s : State) (ag : Agent) (n : Nat) (v : DWord), s.hw.act = true → s.hw.sees ag .LRD_RET n 0 = true →
    s.hw.changesLocked ag .LRD_RET n 0 v.toNat = false →
    Completes (.retentionWrite ag n v) s fun h =>
      (∀ b, b < 64 → bit v.toNat b = true → ¬ b ∈ (s.hw.parish n).banksAwaited →
        h.retained n b = true ∧ ¬ b ∈ (h.parish n).banksWaking) ∧
      (∀ b, b < 64 → bit v.toNat b = true → b ∈ (s.hw.parish n).banksAwaited →
        h.retained n b = s.hw.retained n b ∧ b ∈ (h.parish n).banksRetiring) ∧
      (∀ b, b < 64 → bit v.toNat b = false → h.retained n b = s.hw.retained n b ∧ ¬ b ∈ (h.parish n).banksRetiring ∧
        (s.hw.retained n b = true → b ∈ (h.parish n).banksWaking)) ∧
      h.cots = s.hw.cots ∧ h.mem = s.hw.mem ∧ h.gran = s.hw.gran) ∧
  (∀ (s : State) (n b : Nat), s.hw.act = true → b ∈ (s.hw.parish n).banksWaking → b < 64 →
    Completes (.bankWake n b) s fun h =>
      h.retained n b = false ∧ ¬ b ∈ (h.parish n).banksWaking ∧ h.cots = s.hw.cots ∧ h.mem = s.hw.mem) ∧
  (∀ (s : State) (n b : Nat) (accs : List LarderAcc), s.hw.act = true →
    s.hw.bankOrder n b (s.hw.bankAccs n b accs) ≠ [] → s.hw.retained n b = true →
    Completes (.larderBankAccess n b accs) s fun h =>
      b ∈ (h.parish n).banksWaking ∧ b ∈ (h.parish n).banksAwaited ∧ h.regs = s.hw.regs ∧ h.cots = s.hw.cots ∧
      (h.parish n).larder = (s.hw.parish n).larder ∧ h.mem = s.hw.mem) ∧
  (∀ (s : State) (n b w : Nat) (x : LarderAcc), s.hw.act = true → s.hw.retained n b = false → x.req < 7 →
    s.hw.larderAt n b x.place = some w → x.op = .read 2 →
    Completes (.larderBankAccess n b [x]) s fun h =>
      h.reg .LRD_ERR_POS n 0 = BitVec.ofNat 64 (2 ^ 31 + b * 2 ^ 14 + w) ∧ 16384 * b + w ∈ (h.parish n).poisoned ∧
      h.out.head? = some (.larder n x.req none) ∧ h.cots = s.hw.cots ∧ h.gran = s.hw.gran) ∧
  (∀ (s : State) (n b w : Nat) (x : LarderAcc), s.hw.act = true → s.hw.retained n b = false → x.req < 7 →
    s.hw.larderAt n b x.place = some w → x.op = .read 0 → ¬ 16384 * b + w ∈ (s.hw.parish n).poisoned →
    Completes (.larderBankAccess n b [x]) s fun h =>
      h.out = .larder n x.req (some (NTable.get 0 (s.hw.parish n).larder (16384 * b + w))) :: s.hw.out ∧
      (h.parish n).larder = (s.hw.parish n).larder ∧ (h.parish n).poisoned = (s.hw.parish n).poisoned ∧
      h.cots = s.hw.cots ∧ h.mem = s.hw.mem ∧ h.gran = s.hw.gran) ∧
  (∀ (s : State) (n b w : Nat) (x : LarderAcc) (v : BitVec 128), s.hw.act = true → s.hw.retained n b = false →
    x.req < 7 → s.hw.larderAt n b x.place = some w → x.op = .write v (BitVec.allOnes 16) →
    Completes (.larderBankAccess n b [x]) s fun h =>
      NTable.get 0 (h.parish n).larder (16384 * b + w) = v ∧ ¬ 16384 * b + w ∈ (h.parish n).poisoned ∧
      (∀ k, k ≠ 16384 * b + w →
        NTable.get 0 (h.parish n).larder k = NTable.get 0 (s.hw.parish n).larder k) ∧
      h.cots = s.hw.cots ∧ h.mem = s.hw.mem ∧ h.gran = s.hw.gran)

/-- R321: an idle stack that may enter self-refresh shows it in HBM_STAT, and a request ends it. R322: a window gives every
requester 8 times its weight of credit, and a grant with no aged turn takes the units from the requester with the most
credit. R326: a wait beyond its threshold sets the requester's bit of ARB_URG_STAT. -/
def Obligations.MemoryArbiters : Prop :=
  (∀ (s : State) (k hint : Nat), s.hw.act = true → bit (s.hw.fld F.HBM_SR_CTL_EN) k = true →
    bit (s.hw.fld F.HBM_STAT_SR) k = false → s.hw.stackBusy k = false → s.hw.scansStack k = false →
    s.hw.fld F.HBM_SR_CTL_MIN_IDLE ≤ s.hw.porchHint k hint → k < 4 →
    Completes (.selfRefreshEntry k hint) s fun h =>
      bit (h.fld F.HBM_STAT_SR) k = true ∧ h.cots = s.hw.cots ∧ h.mem = s.hw.mem ∧ h.gran = s.hw.gran) ∧
  (∀ (s : State) (k : Nat), s.hw.act = true → k < 4 → Completes (.selfRefreshExit k) s fun h =>
    bit (h.fld F.HBM_STAT_SR) k = false ∧ h.cots = s.hw.cots ∧ h.mem = s.hw.mem ∧ h.gran = s.hw.gran) ∧
  (∀ (s : State) (a : Arbiter), s.hw.act = true → Completes (.arbWindow a) s fun h =>
    (∀ r, r < Hw.arbCount a → NTable.get 0 (h.arbOf a).credit r = 8 * s.hw.arbWeight a r) ∧
    (h.arbOf a).grants = (s.hw.arbOf a).grants ∧ (h.arbOf a).tags = (s.hw.arbOf a).tags ∧ h.regs = s.hw.regs) ∧
  (∀ (s : State) (a : Arbiter) (reqs : List ArbReq) (q : ArbReq), s.hw.act = true → s.hw.arbAge a = 0 →
    s.hw.arbPick a false reqs = some q →
    Completes (.arbiterGrant a reqs [] false ⟨[], [], false⟩) s fun h =>
      NTable.get 0 (h.arbOf a).credit q.req = NTable.get 0 (s.hw.arbOf a).credit q.req - ceilDiv q.bytes 64 ∧
      (h.arbOf a).grants = (s.hw.arbOf a).grants + 1 ∧ h.mem = s.hw.mem ∧ h.cots = s.hw.cots) ∧
  (∀ (s : State) (n r waited : Nat), s.hw.act = true → s.hw.fld F.ARB_URG_THR_THR n r ≠ 0 →
    s.hw.fld F.ARB_URG_THR_THR n r < waited → r < 6 → s.hw.flag F.ARB_URG_STAT_REP n = false →
    Completes (.urgent (.parish n) r waited) s fun h =>
      bit (h.fld F.ARB_URG_STAT_URG n) r = true ∧ h.cots = s.hw.cots ∧ h.mem = s.hw.mem) ∧
  (∀ (s : State) (n r waited : Nat), s.hw.act = true → waited ≤ s.hw.fld F.ARB_URG_THR_THR n r →
    CompletesAs (.urgent (.parish n) r waited) s s.hw)

/-- R351: a START that passes its checks, with no transfer of the cottage outstanding, latches the transfer with its
completion count V and joins its register channel's queue; one that fails them stores its result in CAR_C_CTL and starts
nothing; a store without START does nothing. R352, R353: a transfer that finishes is done, and its channel takes up the
next. -/
def Obligations.CarterCottageTransfers : Prop :=
  (∀ (s : State) (c : Nat) (v : Word), s.hw.act = true → (s.hw.ctx c).st = .run → bit v.toNat 0 = true →
    (s.hw.cot c).io.carter = none →
    s.hw.carterCheck c (s.hw.ioWord c 0xB000) (s.hw.ioWord c 0xB004) (s.hw.ioWord c 0xB008) v.toNat (s.hw.stamp c) = 0 →
    Completes (.carterStart c v) s fun h =>
      (∃ t, (h.cot c).io.carter = some t ∧ t.v = Hw.carterV (s.hw.cls c) (s.hw.stamp c) (s.hw.ioWord c 0xB008) ∧
        t.start = s.hw.stamp c ∧ t.done = false ∧ NTable.get 0 t.regs 0xB000 = BitVec.ofNat 32 (s.hw.ioWord c 0xB000) ∧
        NTable.get 0 t.regs 0xB004 = BitVec.ofNat 32 (s.hw.ioWord c 0xB004) ∧
        NTable.get 0 t.regs 0xB008 = BitVec.ofNat 32 (s.hw.ioWord c 0xB008)) ∧
      (h.regCh (c / 256) (c % 256 / 16)).queue = (s.hw.regCh (c / 256) (c % 256 / 16)).queue ++ [c] ∧
      h.ctx c = s.hw.ctx c ∧ h.mem = s.hw.mem ∧ h.gran = s.hw.gran) ∧
  (∀ (s : State) (c : Nat) (v : Word) (e : Nat), s.hw.act = true → (s.hw.ctx c).st = .run → bit v.toNat 0 = true →
    (s.hw.cot c).io.carter = none →
    s.hw.carterCheck c (s.hw.ioWord c 0xB000) (s.hw.ioWord c 0xB004) (s.hw.ioWord c 0xB008) v.toNat (s.hw.stamp c) = e →
    e ≠ 0 → e < 256 → Completes (.carterStart c v) s fun h =>
      h.ioWord c 0xB00C = e * 2 ^ 16 + bits v.toNat 5 1 * 2 ∧ (h.cot c).io.carter = none ∧ h.ctx c = s.hw.ctx c ∧
      h.regs = s.hw.regs ∧ h.par = s.hw.par ∧ h.mem = s.hw.mem) ∧
  (∀ (s : State) (c : Nat) (v : Word), s.hw.act = true → (s.hw.ctx c).st ≠ .run ∨ bit v.toNat 0 = false →
    CompletesAs (.carterStart c v) s s.hw) ∧
  (∀ (s : State) (n i c : Nat) (rest : List Nat) (t : CotTransfer) (f g : Hw), s.hw.act = true →
    (s.hw.regCh n i).queue = c :: rest → (s.hw.cot c).io.carter = some t → s.hw.fld F.CAR_RC_CTL_STATE n i = 1 →
    s.hw.regWaits c t = false → s.hw.regReady n i (s.hw.fld F.CAR_RC_CNT_CNT n i) = (.ok, f) →
    f.regAdvance n i (s.hw.fld F.CAR_RC_CNT_CNT n i) = (.ok, g) → (g.regCh n i).queue = c :: rest →
    ∃ k : Hw, (k.cot c).io.carter = (g.cot c).io.carter.map (fun t =>
        { t with done := true, running := false, result := t.result - 1 }) ∧
      (k.regCh n i).queue = rest ∧ k.mem = g.mem ∧
      CompletesAs (.registerTransferDone n i .sound) s ((k.regChNext n i).releaseTransfer c))

/-- R356: RUN in IDLE, with a ring of the owner and a sound head, makes the channel RUNNING, fetching the descriptor at
HEAD; the fetched descriptor, valid and sound, is latched with its SRC, DST and COUNT, and one without VALID is a channel
error. The last write writes it back with its status. R358: a NEXT whose bit 0 is set parks the channel, or takes a
doorbell that waits; another is followed. A doorbell in PARKED resumes the channel, in IDLE does nothing, and is
remembered in other states. -/
def Obligations.CarterChains : Prop :=
  (∀ (s : State) (ag : Agent) (n j : Nat) (x : Side), s.hw.act = true → s.hw.sees ag .CAR_CH_CTL n j = true →
    s.hw.changesLocked ag .CAR_CH_CTL n j (setBits (s.hw.reg .CAR_CH_CTL n j).toNat 0 0 1) = false →
    s.hw.chainState n j = 0 → s.hw.soleRingOk (s.hw.chainOwner n j) (s.hw.fld F.CAR_CH_RING_RING n j) = true →
    s.hw.flag F.CAR_CH_CTL_PAUSE n j = false → bit (s.hw.reg .CAR_CH_CTL n j).toNat 2 = false →
    s.hw.descSide (s.hw.chainOwner n j) (s.hw.reg .CAR_CH_HEAD n j) = .ok x →
    Completes (.chainRun ag n j) s fun h =>
      h.chainState n j = 1 ∧ h.reg .CAR_CH_CUR n j = s.hw.reg .CAR_CH_HEAD n j ∧ (h.chain n j).fetching = true ∧
      h.cots = s.hw.cots ∧ h.mem = s.hw.mem ∧ h.gran = s.hw.gran) ∧
  (∀ (s : State) (n j : Nat) (x : Side) (b : List Byte) (g : Hw) (d : ChainDesc), s.hw.act = true →
    s.hw.chainState n j = 1 → (s.hw.chain n j).fetching = true → (s.hw.chain n j).draining = false →
    s.hw.chainHeld n j = false → s.hw.descSide (s.hw.chainOwner n j) (s.hw.reg .CAR_CH_CUR n j) = .ok x →
    s.hw.sideIssues (s.hw.chainOwner n j) x = true → Hw.sideReads 32 s.hw x false false 0 = (.ok, b, g) →
    d = ⟨s.hw.reg .CAR_CH_CUR n j, BitVec.ofNat 64 (fromLe ((b.drop 8).take 8)),
      BitVec.ofNat 64 (fromLe ((b.drop 16).take 8)), fromLe ((b.drop 24).take 4),
      BitVec.ofNat 32 (fromLe ((b.drop 28).take 4))⟩ →
    (bit d.ctrl.toNat 31 = true → s.hw.descCheck (s.hw.chainOwner n j) d = 0 →
      Completes (.descriptorFetch n j) s fun h =>
        (h.chain n j).desc = some d ∧ (h.chain n j).fetching = false ∧ h.fld F.CAR_CH_CNT_CNT n j = d.count % 2 ^ 32 ∧
        h.mem = s.hw.mem ∧ h.cots = s.hw.cots ∧ ∀ m, s.hw.descMove (s.hw.chainOwner n j) d = some m →
          h.fld F.CAR_CH_SRC_SRC n j =
            (d.src.toNat + (if m.op = 1 then 0 else m.live m.sfix d.count)) % 2 ^ 64 ∧
          h.fld F.CAR_CH_DST_DST n j = (d.dst.toNat + m.live m.dfix d.count) % 2 ^ 64) ∧
    (bit d.ctrl.toNat 31 = false → CompletesAs (.descriptorFetch n j) s (s.hw.chainError n j d 0x06))) ∧
  (∀ (s : State) (n j : Nat) (d : ChainDesc) (f g : Hw), s.hw.act = true → s.hw.chainState n j = 1 →
    (s.hw.chain n j).desc = some d →
    (∀ m, s.hw.descMove (s.hw.chainOwner n j) d = some m →
      s.hw.sideIssues (s.hw.chainOwner n j) m.src = true ∧ s.hw.sideIssues (s.hw.chainOwner n j) m.dst = true) →
    s.hw.chainReady n j (s.hw.fld F.CAR_CH_CNT_CNT n j) = (.ok, f) →
    f.chainAdvance n j (s.hw.fld F.CAR_CH_CNT_CNT n j) = (.ok, g) →
    let status := if bits d.ctrl.toNat 1 0 = 2 ∧ (g.chain n j).result ≠ BitVec.allOnes 64 then 1 else 0
    let w := g.writeBack n j d status
    (w.chain n j).desc = none ∧ (w.chain n j).fetching = false ∧ w.fld F.CAR_CH_STAT_CODE n j = status ∧
    CompletesAs (.descriptorDone n j .sound) s
      (if bit d.ctrl.toNat 7 = true ∨ status ≠ 0 ∨ 65535 ≤ (w.chain n j).uncovered then
        w.chainSlot n j d.addr status (g.chain n j).result else w)) ∧
  (∀ (s : State) (n j : Nat) (x : Side) (b : List Byte) (g : Hw), s.hw.act = true → s.hw.chainState n j = 1 →
    (s.hw.chain n j).fetching = false → (s.hw.chain n j).draining = false → (s.hw.chain n j).desc = none →
    s.hw.descSide (s.hw.chainOwner n j) (s.hw.reg .CAR_CH_CUR n j) = .ok x →
    s.hw.sideIssues (s.hw.chainOwner n j) x = true → Hw.sideReads 8 s.hw x false false 0 = (.ok, b, g) →
    let next := fromLe b
    (bit next 0 = true → s.hw.flag F.CAR_CH_STAT_DBPEND n j = true → Completes (.nextRead n j) s fun h =>
      h.flag F.CAR_CH_STAT_DBPEND n j = false ∧ h.chainState n j = 1 ∧ h.par = s.hw.par ∧ h.mem = s.hw.mem) ∧
    (bit next 0 = true → s.hw.flag F.CAR_CH_STAT_DBPEND n j = false → (s.hw.chain n j).uncovered = 0 →
      Completes (.nextRead n j) s fun h => h.chainState n j = 2 ∧ h.par = s.hw.par ∧ h.mem = s.hw.mem) ∧
    (bit next 0 = false → s.hw.chainHeld n j = false → ∀ y, s.hw.descSide (s.hw.chainOwner n j) (BitVec.ofNat 64 next) = .ok y →
      Completes (.nextRead n j) s fun h =>
        h.reg .CAR_CH_CUR n j = BitVec.ofNat 64 next ∧ (h.chain n j).fetching = true ∧ h.mem = s.hw.mem)) ∧
  (∀ (s : State) (ag : Agent) (n j : Nat), s.hw.act = true → s.hw.sees ag .CAR_CH_DB n j = true →
    (s.hw.chainState n j = 0 → CompletesAs (.carChDb ag n j) s s.hw) ∧
    (s.hw.chainState n j = 2 → Completes (.carChDb ag n j) s fun h =>
      h.chainState n j = 1 ∧ h.flag F.CAR_CH_STAT_DBPEND n j = false ∧ h.par = s.hw.par ∧ h.mem = s.hw.mem) ∧
    (s.hw.chainState n j ≠ 0 → s.hw.chainState n j ≠ 2 → Completes (.carChDb ag n j) s fun h =>
      h.chainState n j = s.hw.chainState n j ∧ h.flag F.CAR_CH_STAT_DBPEND n j = true ∧ h.par = s.hw.par ∧
      h.mem = s.hw.mem))

/-- R359: PAUSE of a parked chain channel pauses it at once and of a running one lets its reads in flight drain, after
which it is PAUSED; clearing PAUSE sets a paused channel going. R362: ABORT of a chain channel that is not idle ends with
it IDLE and no descriptor in progress; ABORT of a register channel empties its queue and contains every cottage whose
transfer it takes away. R361: a read that ends badly halts the parish's Carter, with CAR_STAT saying so. RESUME ends the
halt, and a halted chain channel without PAUSE returns to the state it left. -/
def Obligations.CarterPauseAbortHalt : Prop :=
  (∀ (s : State) (ag : Agent) (n j : Nat), s.hw.act = true → s.hw.sees ag .CAR_CH_CTL n j = true →
    s.hw.changesLocked ag .CAR_CH_CTL n j (setBits (s.hw.reg .CAR_CH_CTL n j).toNat 1 1 1) = false →
    bit (s.hw.reg .CAR_CH_CTL n j).toNat 0 = false → bit (s.hw.reg .CAR_CH_CTL n j).toNat 1 = false →
    bit (s.hw.reg .CAR_CH_CTL n j).toNat 2 = false →
    (s.hw.chainState n j = 2 → Completes (.pause ag n false j) s fun h =>
      h.chainState n j = 3 ∧ h.flag F.CAR_CH_CTL_PAUSE n j = true ∧ h.cots = s.hw.cots ∧ h.mem = s.hw.mem) ∧
    (s.hw.chainState n j = 1 → Completes (.pause ag n false j) s fun h =>
      (h.chain n j).draining = true ∧ h.chainState n j = 1 ∧ h.flag F.CAR_CH_CTL_PAUSE n j = true ∧ h.cots = s.hw.cots ∧
      h.mem = s.hw.mem)) ∧
  (∀ (s : State) (ag : Agent) (n j : Nat), s.hw.act = true → s.hw.sees ag .CAR_CH_CTL n j = true →
    s.hw.changesLocked ag .CAR_CH_CTL n j (setBits (s.hw.reg .CAR_CH_CTL n j).toNat 1 1 0) = false →
    bit (s.hw.reg .CAR_CH_CTL n j).toNat 0 = false → bit (s.hw.reg .CAR_CH_CTL n j).toNat 1 = true →
    bit (s.hw.reg .CAR_CH_CTL n j).toNat 2 = false → s.hw.chainState n j = 3 →
    Completes (.pauseClear ag n false j) s fun h =>
      h.chainState n j = 1 ∧ h.flag F.CAR_CH_CTL_PAUSE n j = false ∧ (h.chain n j).draining = false ∧ h.cots = s.hw.cots ∧
      h.mem = s.hw.mem) ∧
  (∀ (s : State) (ag : Agent) (n i : Nat), s.hw.act = true → s.hw.sees ag .CAR_RC_CTL n i = true →
    s.hw.changesLocked ag .CAR_RC_CTL n i (setBits (s.hw.reg .CAR_RC_CTL n i).toNat 0 0 1) = false →
    bit (s.hw.reg .CAR_RC_CTL n i).toNat 0 = false → bit (s.hw.reg .CAR_RC_CTL n i).toNat 1 = false →
    s.hw.fld F.CAR_RC_CTL_STATE n i = 1 →
    Completes (.pause ag n true i) s fun h =>
      (h.regCh n i).draining = true ∧ h.fld F.CAR_RC_CTL_STATE n i = 1 ∧ h.flag F.CAR_RC_CTL_PAUSE n i = true ∧
      h.cots = s.hw.cots ∧ h.mem = s.hw.mem) ∧
  (∀ (s : State) (ag : Agent) (n i : Nat), s.hw.act = true → s.hw.sees ag .CAR_RC_CTL n i = true →
    s.hw.changesLocked ag .CAR_RC_CTL n i (setBits (s.hw.reg .CAR_RC_CTL n i).toNat 0 0 0) = false →
    bit (s.hw.reg .CAR_RC_CTL n i).toNat 0 = true → bit (s.hw.reg .CAR_RC_CTL n i).toNat 1 = false →
    s.hw.fld F.CAR_RC_CTL_STATE n i = 3 →
    Completes (.pauseClear ag n true i) s fun h =>
      (h.regCh n i).draining = false ∧ h.fld F.CAR_RC_CTL_STATE n i = 1 ∧ h.flag F.CAR_RC_CTL_PAUSE n i = false ∧
      h.cots = s.hw.cots ∧ h.mem = s.hw.mem) ∧
  (∀ (s : State) (n j bytes : Nat) (g : Hw), s.hw.act = true → (s.hw.chain n j).draining = true →
    s.hw.chainDrain n j bytes = (.ok, g) →
    Completes (.pauseDrained n false j bytes) s fun h =>
      h.chainState n j = 3 ∧ (h.chain n j).draining = false ∧ h.mem = g.mem ∧ h.cots = g.cots) ∧
  (∀ (s : State) (n i bytes : Nat) (g : Hw), s.hw.act = true → (s.hw.regCh n i).draining = true →
    s.hw.regDrain n i bytes = (.ok, g) →
    Completes (.pauseDrained n true i bytes) s fun h =>
      h.fld F.CAR_RC_CTL_STATE n i = 3 ∧ (h.regCh n i).draining = false ∧ h.mem = g.mem ∧ h.cots = g.cots) ∧
  (∀ (s : State) (ag : Agent) (n j bytes : Nat), s.hw.act = true → s.hw.sees ag .CAR_CH_CTL n j = true →
    s.hw.changesLocked ag .CAR_CH_CTL n j (setBits (s.hw.reg .CAR_CH_CTL n j).toNat 2 2 1) = false →
    bit (s.hw.reg .CAR_CH_CTL n j).toNat 0 = false →
    s.hw.chainState n j ≠ 0 →
    Completes (.chainAbort ag n j bytes) s fun h => h.chainState n j = 0 ∧ (h.chain n j).desc = none) ∧
  (∀ (s : State) (ag : Agent) (n i bytes : Nat), s.hw.act = true → s.hw.sees ag .CAR_RC_CTL n i = true →
    s.hw.changesLocked ag .CAR_RC_CTL n i (setBits (s.hw.reg .CAR_RC_CTL n i).toNat 1 1 1) = false →
    s.hw.fld F.CAR_RC_CTL_STATE n i ≠ 0 →
    let f := ((s.hw.storeFields .CAR_RC_CTL n i (setBits (s.hw.reg .CAR_RC_CTL n i).toNat 1 1 1)).regDrain n i bytes).2
    ∃ k : Hw, (k.regCh n i).queue = [] ∧ k.fld F.CAR_RC_CTL_STATE n i = 0 ∧ k.fld F.CAR_RC_CNT_CNT n i = 0 ∧
      k.mem = f.mem ∧ k.cots = f.cots ∧
      CompletesAs (.registerChannelAbort ag n i bytes) s
        (k.each (f.regCh n i).queue fun h c => h.containWith c .CAR 0x04 (Hw.detailOf .CAR [0x04, c]))) ∧
  (∀ (s : State) (n space addr : Nat) (how : ReadEnd), s.hw.act = true → how ≠ .ok →
    Completes (.stopAll n space addr how none []) s fun h =>
      (∀ j, j < 8 → s.hw.chainState n j ≠ 0 → h.chainState n j = 4 ∧ h.flag F.CAR_STAT_HALTED n = true) ∧
      (∀ i, i < 16 → s.hw.fld F.CAR_RC_CTL_STATE n i ≠ 0 →
        h.fld F.CAR_RC_CTL_STATE n i = 4 ∧ h.flag F.CAR_STAT_HALTED n = true) ∧
      h.fld F.CAR_STAT_CAUSE n = (if how = .uncorrectable then 2 else 1) ∧ h.cots = s.hw.cots) ∧
  (∀ (s : State) (ag : Agent) (n : Nat), s.hw.act = true → s.hw.sees ag .CAR_CTL n 0 = true →
    s.hw.changesLocked ag .CAR_CTL n 0 1 = false → s.hw.flag F.CAR_STAT_HALTED n = true →
    Completes (.resume ag n) s fun h => h.flag F.CAR_STAT_HALTED n = false ∧ h.cots = s.hw.cots ∧ h.mem = s.hw.mem ∧
      ∀ j, j < 8 → s.hw.chainState n j = 4 →
        h.chainState n j = if s.hw.flag F.CAR_CH_CTL_PAUSE n j = true then 3
          else if (s.hw.chain n j).leftState = 2 then 2 else 1)

/-- R331: with no ring of the function enabled, a sound region is stored and an unsound one refused. R332: enabling BAR2
backs it with the frames allocated, or fails and stays disabled; an inbound write beyond the backing is an unsupported
request, one within it writes the bytes. R337: enabling a sound ring makes every slot device-owned, with PUB 0 and RET the
ring's size. R338: a doorbell that returns no more slots than the host holds sets RET; another sets DB_REJ. R340: an
undeliverable ring write sets ERR and the ring takes no more. -/
def Obligations.CommonsRegionsAndRings : Prop :=
  (∀ (s : State) (ag : Agent) (o : Nat) (v : DWord), s.hw.act = true → s.hw.sees ag .COM_REGION_BASE o 0 = true →
    s.hw.changesLocked ag .COM_REGION_BASE o 0 v.toNat = false → s.hw.ringInUse o = false →
    (bit v.toNat 0 = true → Hw.regionOk (bits v.toNat 45 12) (s.hw.fld F.COM_REGION_SIZE_MIB o) = true) →
    Completes (.regionRegister ag o false v) s fun h =>
      h.fld F.COM_REGION_BASE_ADDR o = bits v.toNat 45 12 ∧ h.flag F.COM_REGION_BASE_EN o = bit v.toNat 0 ∧
      h.mem = s.hw.mem ∧ h.cots = s.hw.cots ∧ h.fns = s.hw.fns) ∧
  (∀ (s : State) (ag : Agent) (o : Nat) (v : DWord), s.hw.act = true → s.hw.sees ag .COM_REGION_SIZE o 0 = true →
    s.hw.flag F.COM_REGION_BASE_EN o = true → Hw.regionOk (s.hw.fld F.COM_REGION_BASE_ADDR o) (bits v.toNat 12 0) = false →
    CompletesAs (.regionRegister ag o true v) s (s.hw.refuse ag .COM_REGION_SIZE o 0)) ∧
  (∀ (s : State) (ag : Agent) (o : Nat) (v : Word), s.hw.act = true → s.hw.sees ag .COM_BAR2 o 0 = true →
    s.hw.changesLocked ag .COM_BAR2 o 0 v.toNat = false → s.hw.flag F.COM_BAR2_EN o = false → bit v.toNat 31 = true →
    bits v.toNat 14 0 ≤ Hw.bar2Limit o →
    ∀ g, (Hw.bar2Alloc (bits v.toNat 14 0)
        ((s.hw.storeFields .COM_BAR2 o 0 v.toNat).modFn o fun f => { f with bar2 := [] }) o = (true, g) →
      Completes (.bar2Enable ag o v) s fun h =>
        h.fn o = g.fn o ∧ h.fld F.COM_BAR2_FAIL o = 0 ∧ h.gran = g.gran ∧ h.mem = g.mem) ∧
      (Hw.bar2Alloc (bits v.toNat 14 0)
        ((s.hw.storeFields .COM_BAR2 o 0 v.toNat).modFn o fun f => { f with bar2 := [] }) o = (false, g) →
      Completes (.bar2Enable ag o v) s fun h => h.flag F.COM_BAR2_EN o = false ∧ h.fld F.COM_BAR2_FAIL o = 1 ∧
        (h.fn o).bar2 = [] ∧ h.gran = (g.bar2Release o).gran)) ∧
  (∀ (s : State) (o off n : Nat) (data : List Byte), s.hw.act = true →
    (s.hw.barAnswers o = true → off + n ≤ (s.hw.fn o).bar2.length * 0x100000 →
      CompletesAs (.inboundBar2Access o off n (some data)) s (s.hw.commonsWrite o 1 off (data.take n)) ∧
      CompletesAs (.inboundBar2Access o off n none) s
        (if s.hw.commonsPoisoned o 1 off n = true then s.hw.emit (.readPoisoned o)
          else s.hw.emit (.readData o (BitVec.ofNat 64 (fromLe (s.hw.commonsRead o 1 off n)))))) ∧
    ((s.hw.fn o).bar2.length * 0x100000 < off + n →
      CompletesAs (.inboundBar2Access o off n (some data)) s (s.hw.unsupported (o / 129)))) ∧
  (∀ (s : State) (ag : Agent) (o r : Nat) (v : Word), s.hw.act = true → s.hw.sees ag .COM_RING_CFG o r = true →
    s.hw.changesLocked ag .COM_RING_CFG o r v.toNat = false → s.hw.flag F.COM_RING_CFG_EN o r = false →
    bit v.toNat 31 = true → r ≤ Hw.ringLimit o → 1 ≤ bits v.toNat 4 0 → bits v.toNat 4 0 ≤ 16 →
    bits v.toNat 27 16 < Hw.vectors o →
    s.hw.commonsOk o (s.hw.fld F.COM_RING_BASE_SPACE o r) (s.hw.fld F.COM_RING_BASE_ADDR o r * 4096)
      (2 ^ bits v.toNat 4 0 * 4096) = true →
    ∃ k : Hw, k.fld F.COM_RING_PUB_PUB o r = 0 ∧ k.fld F.COM_RING_RET_RET o r = 2 ^ bits v.toNat 4 0 ∧
      k.flag F.COM_RING_CFG_EN o r = true ∧ ¬ r ∈ (k.fn o).ringDown ∧ k.mem = s.hw.mem ∧
      CompletesAs (.ringEnable ag o r v) s (k.chainsGoOn o r)) ∧
  (∀ (s : State) (ag : Agent) (o r : Nat) (v : Word), s.hw.act = true → s.hw.sees ag .COM_RING_RET o r = true →
    let a := (v.toNat + 2 ^ 32 - s.hw.fld F.COM_RING_PUB_PUB o r) % 2 ^ 32
    let b := (s.hw.fld F.COM_RING_RET_RET o r + 2 ^ 32 - s.hw.fld F.COM_RING_PUB_PUB o r) % 2 ^ 32
    (b ≤ a → a ≤ s.hw.ringSize o r →
      CompletesAs (.comRingRet ag o r v) s ((s.hw.setFld F.COM_RING_RET_RET o r v.toNat).chainsGoOn o r)) ∧
    (a < b ∨ s.hw.ringSize o r < a → Completes (.comRingRet ag o r v) s fun h =>
      h.flag F.COM_RING_STAT_DB_REJ o r = true ∧ h.fld F.COM_RING_RET_RET o r = s.hw.fld F.COM_RING_RET_RET o r ∧
      h.cots = s.hw.cots)) ∧
  (∀ (s : State) (o r : Nat), s.hw.act = true → s.hw.flag F.COM_RING_CFG_EN o r = true →
    s.hw.fld F.COM_RING_BASE_SPACE o r = 0 → (s.hw.fn o).ringDown.contains r = false →
    Completes (.ringErr o r) s fun h => h.flag F.COM_RING_STAT_ERR o r = true)

/-- R527, R490: a sound write of COM_EQ that enables the queue stores its fields and restarts FSEQ at 0. R341: with no
ERRORS slot in progress a flip does nothing; one whose ring takes it is published with its SEQ and LOST, and one that its
ring cannot take is lost and counted. R343: a holdoff that ends with no event pending is over, one that ends with an event
pending sends its message. R344: a message that the PBA holds goes out when the last mask that holds it is lifted, and a
masked or disabled vector sends none. -/
def Obligations.CommonsQueueAndMessages : Prop :=
  (∀ (s : State) (ag : Agent) (o : Nat) (v : Word), s.hw.act = true → s.hw.sees ag .COM_EQ o 0 = true →
    s.hw.changesLocked ag .COM_EQ o 0 v.toNat = false → s.hw.flag F.COM_EQ_EN o = false → bit v.toNat 31 = true →
    bits v.toNat 25 16 ≠ 0 → s.hw.soleRingOk o (bits v.toNat 12 0) = true →
    Completes (.comEqWrite ag o v) s fun h =>
      (h.fn o).fseq = 0 ∧ h.flag F.COM_EQ_EN o = true ∧ h.fld F.COM_EQ_RING o = bits v.toNat 12 0 ∧
      h.fld F.COM_EQ_FLUSH o = bits v.toNat 25 16 ∧ h.cots = s.hw.cots ∧ h.mem = s.hw.mem) ∧
  (∀ (s : State) (ag : Agent) (o : Nat) (v : Word), s.hw.act = true → s.hw.sees ag .COM_EQ o 0 = true →
    bits v.toNat 25 16 = 0 → CompletesAs (.comEqWrite ag o v) s (s.hw.refuse ag .COM_EQ o 0)) ∧
  (∀ (s : State) (o : Nat), s.hw.act = true →
    ((s.hw.fn o).eqRing = none → CompletesAs (.errors o) s s.hw) ∧
    (∀ r, (s.hw.fn o).eqRing = some r → s.hw.ringUp o r = false → Completes (.errors o) s fun h =>
      (h.fn o).eqRing = none ∧ (h.fn o).eqSlot = [] ∧
      h.fld F.COM_EQ_STAT_LOST o = min (s.hw.fld F.COM_EQ_STAT_LOST o + (s.hw.fn o).eqSlot.length) (2 ^ 32 - 1) ∧
      h.mem = s.hw.mem ∧ h.cots = s.hw.cots) ∧
    (∀ r, (s.hw.fn o).eqRing = some r → s.hw.ringUp o r = true → Completes (.errors o) s fun h =>
      (h.fn o).eqRing = none ∧ (h.fn o).eqSlot = [] ∧ (h.fn o).eqSeq = ((s.hw.fn o).eqSeq + 1) % 2 ^ 16 ∧
      (h.fn o).eqLost = 0 ∧ h.cots = s.hw.cots ∧ h.par = s.hw.par ∧ h.gran = s.hw.gran ∧
      (s.hw.flag F.COM_RING_CFG_IE o r = false →
        h.fld F.COM_RING_PUB_PUB o r = (s.hw.ringNext o r + 1) % 2 ^ 32 ∧ h.out = s.hw.out))) ∧
  (∀ (s : State) (o vec : Nat), s.hw.act = true → (NTable.get ⟨false, 0⟩ (s.hw.fn o).holdoff vec).running = true →
    (s.hw.flag F.COM_VMOD_PEND o vec = false → Completes (.holdoffExpiry o vec) s fun h =>
      NTable.get ⟨false, 0⟩ (h.fn o).holdoff vec = ⟨false, 0⟩ ∧ h.out = s.hw.out ∧ h.mem = s.hw.mem ∧ h.regs = s.hw.regs) ∧
    (s.hw.flag F.COM_VMOD_PEND o vec = true → (s.hw.fn o).d3 = false → (s.hw.fn o).msixEn = true →
      (s.hw.fn o).fmask = false → (s.hw.fn o).vmask.contains vec = false → (s.hw.port (o / 129)).l1 = false →
      Completes (.holdoffExpiry o vec) s fun h => h.out = .msix o vec :: s.hw.out ∧ h.flag F.COM_VMOD_PEND o vec = false)) ∧
  (∀ (s : State) (o vec : Nat), s.hw.act = true → (s.hw.fn o).d3 = false → (s.hw.fn o).msixEn = true →
    (s.hw.fn o).fmask = false → (s.hw.fn o).pba = [vec] → (s.hw.fn o).vmask = [vec] → (s.hw.port (o / 129)).l1 = false →
    Completes (.msixUnmask o (.vector vec false)) s fun h =>
      h.out = .msix o vec :: s.hw.out ∧ (h.fn o).pba = [] ∧ (h.fn o).vmask = [] ∧ h.mem = s.hw.mem ∧ h.regs = s.hw.regs) ∧
  (∀ (s : State) (o : Nat), s.hw.act = true →
    Completes (.msixUnmask o (.enable false)) s fun h =>
      (h.fn o).msixEn = false ∧ (h.fn o).pba = (s.hw.fn o).pba ∧ h.out = s.hw.out ∧ h.mem = s.hw.mem ∧ h.regs = s.hw.regs)

/-- R379, R380: a START that passes its checks latches the operation with its V and joins its normal channel's queue; one
that fails them stores its result. R381: a blit into video RAM at the head of its channel starts once the beam and the
composition have passed V. R380: an operation that finishes is done, counted, and leaves its channel. R383: a privileged
START that passes its checks makes the channel BUSY with no error, and its completion IDLE. R384: a read that fails
contains the cottage, and ends a privileged operation with code 8. -/
def Obligations.ChiselBlits : Prop :=
  (∀ (s : State) (c : Nat) (v : Word) (t : CotTransfer), s.hw.act = true → (s.hw.ctx c).st = .run → bit v.toNat 0 = true →
    (s.hw.cot c).io.chisel = none →
    t = { regs := Hw.chiselWords.foldl (fun m a => NTable.set 0 m a (BitVec.ofNat 32 (s.hw.ioWord c a)))
            (NTable.set 0 [] 0xC028 (BitVec.ofNat 32 (v.toNat &&& 0xFFE6))),
          start := s.hw.stamp c, v := s.hw.stamp c, running := false, done := false, result := 0, awaits := none } →
    (s.hw.blitCheck (fun _ _ => false) (Hw.cotBlit c t) = 0 →
      Completes (.chiselStart c v) s fun h =>
        (∃ u, (h.cot c).io.chisel = some u ∧ u.regs = t.regs ∧ u.start = s.hw.stamp c ∧ u.done = false ∧
          u.v = (if Hw.frameLen (s.hw.cls c) ≤ (s.hw.stamp c).vc + 16 + ceilDiv (Hw.blitSize (Hw.cotBlit c t)) 8 then
              ⟨(s.hw.stamp c).frame + 1, 0⟩
            else ⟨(s.hw.stamp c).frame, (s.hw.stamp c).vc + 16 + ceilDiv (Hw.blitSize (Hw.cotBlit c t)) 8⟩)) ∧
        (h.chiselCh (c / 256) (Hw.chiselOf c)).queue = (s.hw.chiselCh (c / 256) (Hw.chiselOf c)).queue ++ [c] ∧
        h.mem = s.hw.mem ∧ h.gran = s.hw.gran) ∧
    (s.hw.blitCheck (fun _ _ => false) (Hw.cotBlit c t) ≠ 0 →
      CompletesAs (.chiselStart c v) s
        (s.hw.setIoWord c 0xC028 (s.hw.blitCheck (fun _ _ => false) (Hw.cotBlit c t) * 2 ^ 16 + (v.toNat &&& 0xFFE6))))) ∧
  (∀ (s : State) (n i c : Nat) (rest : List Nat) (t : CotTransfer), s.hw.act = true →
    (s.hw.chiselCh n i).queue = c :: rest → s.hw.vramBlit c = some t → s.hw.composedTo c t.v = true →
    t.v.le (s.hw.stamp c) = true → ((s.hw.ctx c).tally.any fun e => e.stamp.lt t.v) = false →
    Completes (.vramBlitStart n i) s fun h =>
      (h.cot c).io.chisel = some { t with running := true } ∧ h.ctx c = s.hw.ctx c ∧ h.mem = s.hw.mem ∧ h.gran = s.hw.gran) ∧
  (∀ (s : State) (n i c : Nat) (rest : List Nat) (t : CotTransfer) (g : Hw), s.hw.act = true →
    (s.hw.chiselCh n i).queue = c :: rest → (s.hw.cot c).io.chisel = some t → s.hw.blitMoves c t = true →
    s.hw.blitRun (Hw.cotBlit c t) = (.ok, g) →
    ∃ k : Hw, (k.cot c).io.chisel = (g.cot c).io.chisel.map (fun t => { t with done := true, running := false }) ∧
      (k.chiselCh n i).queue = rest ∧ k.mem = g.mem ∧ CompletesAs (.chiselTransferDone n i .sound) s (k.releaseTransfer c)) ∧
  (∀ (s : State) (n i c pixels port : Nat) (rest : List Nat) (t : CotTransfer) (how : ReadEnd), s.hw.act = true →
    (s.hw.chiselCh n i).queue = c :: rest → (s.hw.cot c).io.chisel = some t → s.hw.blitMoves c t = true → how ≠ .ok →
    CompletesAs (.readFail n i pixels how port) s
      (((Hw.blitPixels ((Hw.cotBlit c t).points.take pixels) (s.hw.aerRead port how) (Hw.cotBlit c t)).2.blitEnded c).containWith c
        .CHS 0x01 (Hw.detailOf .CHS [0x01, c]))) ∧
  (∀ (s : State) (ag : Agent) (n m : Nat) (v : Word) (a b : Side), s.hw.act = true →
    s.hw.sees ag .CHS_P_CTL n m = true → s.hw.changesLocked ag .CHS_P_CTL n m (v.toNat ||| 1) = false →
    s.hw.fld F.CHS_P_STAT_STATE n m = 0 → bits (v.toNat ||| 1) 2 1 = 0 →
    let k := s.hw.storeFields .CHS_P_CTL n m (v.toNat ||| 1)
    k.chisSide n m (k.reg .CHS_P_SRC n m).toNat = some a → k.chisSide n m (k.reg .CHS_P_DST n m).toNat = some b →
    k.blitCheck (k.chisHbm n m) (k.privLatch n m a b) = 0 →
    Completes (.privilegedStart ag n m v) s fun h =>
      h.fld F.CHS_P_STAT_STATE n m = 1 ∧ h.fld F.CHS_P_STAT_ERR n m = 0 ∧ h.privBlit n m ≠ none ∧ h.cots = s.hw.cots ∧
      h.mem = s.hw.mem) ∧
  (∀ (s : State) (n m : Nat) (b : Blit) (g : Hw), s.hw.act = true → s.hw.privBlit n m = some b →
    s.hw.sideIssues (s.hw.chisOwner n m) b.src = true → s.hw.sideIssues (s.hw.chisOwner n m) b.dst = true →
    s.hw.blitRun b = (.ok, g) →
    Completes (.privilegedDone n m .sound) s fun h =>
      h.fld F.CHS_P_STAT_STATE n m = 0 ∧ h.fld F.CHS_P_STAT_ERR n m = 0 ∧ h.privBlit n m = none ∧ h.cots = g.cots) ∧
  (∀ (s : State) (n m pixels port : Nat) (b : Blit) (how : ReadEnd), s.hw.act = true → s.hw.privBlit n m = some b →
    how ≠ .ok → Completes (.pReadFail n m pixels how port) s fun h =>
      h.fld F.CHS_P_STAT_STATE n m = 0 ∧ h.fld F.CHS_P_STAT_ERR n m = 8 ∧ h.privBlit n m = none)

/-- R389: a read of PIC_TAKE claims every source of its word that is pending, enabled and not active: it is active and no
longer pending, and no other source changes. A completion of an active edge source ends its activity. R392: a write of
PIC_SET makes an edge source pending. R388: a write of PIC_EN stores the enables and makes nothing pending. R394, R396:
the notification of a CCLK goes to the source's target, which LAST then names; a Reeve core's RVE_IRQ shows the parish.
R391: a claimed level source whose level has gone by WIN counts. -/
def Obligations.ParishInterrupts : Prop :=
  (∀ (s : State) (ag : Agent) (n w : Nat), s.hw.act = true → s.hw.sees ag .PIC_TAKE n w = true →
    Completes (.picTake ag n w) s fun h =>
      (∀ i, i / 32 = w → s.hw.picClaims n i = true →
        i ∈ (h.parish n).pic.act ∧ ¬ i ∈ (h.parish n).pic.pend ∧ ¬ i ∈ (h.parish n).pic.notify) ∧
      (∀ i, ¬ (i / 32 = w ∧ s.hw.picClaims n i = true) →
        (i ∈ (h.parish n).pic.act ↔ i ∈ (s.hw.parish n).pic.act) ∧
        (i ∈ (h.parish n).pic.pend ↔ i ∈ (s.hw.parish n).pic.pend)) ∧
      h.regs = s.hw.regs ∧ h.mem = s.hw.mem ∧ h.cots = s.hw.cots) ∧
  (∀ (s : State) (ag : Agent) (n w b : Nat) (v : Word), s.hw.act = true → s.hw.sees ag .PIC_ACT n w = true →
    s.hw.changesLocked ag .PIC_ACT n w v.toNat = false → (∀ j, j < 32 → bit v.toNat j = decide (j = b)) → b < 32 →
    32 * w + b ∈ (s.hw.parish n).pic.act → Hw.picIsLevel (32 * w + b) = false →
    Completes (.picAct ag n w v) s fun h =>
      ¬ 32 * w + b ∈ (h.parish n).pic.act ∧ (h.parish n).pic.pend = (s.hw.parish n).pic.pend ∧ h.regs = s.hw.regs ∧
      h.mem = s.hw.mem ∧ h.cots = s.hw.cots) ∧
  (∀ (s : State) (ag : Agent) (n w b : Nat) (v : Word), s.hw.act = true → s.hw.sees ag .PIC_SET n w = true →
    s.hw.changesLocked ag .PIC_SET n w v.toNat = false → (∀ j, j < 32 → bit v.toNat j = decide (j = b)) → b < 32 →
    Hw.picIsLevel (32 * w + b) = false →
    (¬ (262 ≤ 32 * w + b ∧ 32 * w + b < 480) → Completes (.picSet ag n w v) s fun h =>
      32 * w + b ∈ (h.parish n).pic.pend ∧ (h.parish n).pic.act = (s.hw.parish n).pic.act ∧ h.regs = s.hw.regs ∧
      h.mem = s.hw.mem ∧ h.cots = s.hw.cots) ∧
    (262 ≤ 32 * w + b ∧ 32 * w + b < 480 → CompletesAs (.picSet ag n w v) s s.hw)) ∧
  (∀ (s : State) (ag : Agent) (n w : Nat) (v : Word), s.hw.act = true → s.hw.sees ag .PIC_EN n w = true →
    s.hw.changesLocked ag .PIC_EN n w v.toNat = false →
    Completes (.picEnWrite ag n w v) s fun h =>
      h.fld F.PIC_EN_EN n w = v.toNat ∧ (h.parish n).pic.pend = (s.hw.parish n).pic.pend ∧
      (h.parish n).pic.act = (s.hw.parish n).pic.act ∧ h.mem = s.hw.mem ∧ h.cots = s.hw.cots) ∧
  (∀ (s : State) (n i t : Nat), s.hw.act = true → (s.hw.parish n).pic.notify = [i] → n < 16 →
    s.hw.picTarget n i = some t →
    (t < 4 → Completes (.notification n) s fun h =>
      (h.parish n).pic.notify = [] ∧ h.fld F.PIC_RR_LAST n = t ∧ bit (h.fld F.RVE_IRQ_PARISH 0 t) n = true ∧
      h.mem = s.hw.mem ∧ h.cots = s.hw.cots) ∧
    (4 ≤ t → t < 8 → Completes (.notification n) s fun h =>
      (h.parish n).pic.notify = [] ∧ h.fld F.PIC_RR_LAST n = t ∧ h.cots = s.hw.cots)) ∧
  (∀ (s : State) (n i : Nat), s.hw.act = true → i ∈ (s.hw.parish n).pic.sampling →
    Completes (.vanishSample n i) s fun h =>
      h.fld F.PIC_VANISHED_VANISHED n = (if (s.hw.parish n).pic.level.contains i = true then
        s.hw.fld F.PIC_VANISHED_VANISHED n else min (s.hw.fld F.PIC_VANISHED_VANISHED n + 1) (2 ^ 32 - 1)) ∧
      (h.parish n).pic.pend = (s.hw.parish n).pic.pend ∧ h.mem = s.hw.mem ∧ h.cots = s.hw.cots)

/-- Of a cottage in RUN. R402: a load of CIB_TAKE makes every source that is pending, enabled and not active active and no
longer pending. R389: a store to CIB_ACT ends the activity of the sources it names. R400: a store to CIB_SET makes the
soft sources it names pending. R404: a store of 1 to CIB_VT_CTL bit 0 arms the timer one period ahead, a 0 disarms it; a
due firing makes the timer's source pending and disarms a one-shot timer or moves a periodic one on by its period. -/
def Obligations.CottageInterrupts : Prop :=
  (∀ (s : State) (c : Nat), s.hw.act = true → (s.hw.ctx c).st = .run →
    Completes (.cibTake c) s fun h =>
      let v := (s.hw.cot c).io.pend &&& ~~~(s.hw.cot c).io.act &&& BitVec.ofNat 32 (s.hw.ioWord c 0x9004)
      (h.cot c).io.pend = (s.hw.cot c).io.pend &&& ~~~v ∧ (h.cot c).io.act = (s.hw.cot c).io.act ||| v ∧
      h.ctx c = s.hw.ctx c ∧ h.regs = s.hw.regs ∧ h.mem = s.hw.mem) ∧
  (∀ (s : State) (c : Nat) (v : Word), s.hw.act = true → (s.hw.ctx c).st = .run →
    Completes (.cibAct c v) s fun h =>
      (h.cot c).io.act = (s.hw.cot c).io.act &&& ~~~v ∧ (h.cot c).io.pend = (s.hw.cot c).io.pend ∧
      h.ctx c = s.hw.ctx c ∧ h.regs = s.hw.regs ∧ h.mem = s.hw.mem) ∧
  (∀ (s : State) (c : Nat) (v : Word), s.hw.act = true → (s.hw.ctx c).st = .run →
    Completes (.cibSet c v) s fun h =>
      (∀ i, i < 32 → (h.cot c).io.pend.getLsbD i =
        ((s.hw.cot c).io.pend.getLsbD i || (decide (12 ≤ i ∧ i ≤ 15) && v.getLsbD i))) ∧
      (h.cot c).io.act = (s.hw.cot c).io.act ∧ h.ctx c = s.hw.ctx c ∧ h.regs = s.hw.regs ∧ h.mem = s.hw.mem) ∧
  (∀ (s : State) (c k : Nat) (v : Word), s.hw.act = true → (s.hw.ctx c).st = .run → k < 4 →
    k < (s.hw.cot c).io.timers.length → Completes (.cibVtCtl c k v) s fun h =>
      let p := max 1 (s.hw.ioWord c (0x9024 + 0x10 * k))
      h.vtimer c k = ⟨if v.getLsbD 0 then some (Hw.absCount (s.hw.cls c) (s.hw.stamp c) + p) else none, p⟩ ∧
      (h.cot c).io.pend = (s.hw.cot c).io.pend ∧ h.ctx c = s.hw.ctx c ∧ h.regs = s.hw.regs ∧ h.mem = s.hw.mem) ∧
  (∀ (s : State) (c k a : Nat), s.hw.act = true → (s.hw.vtimer c k).next = some a →
    a ≤ Hw.absCount (s.hw.cls c) (s.hw.stamp c) → k < 4 → k < (s.hw.cot c).io.timers.length →
    Completes (.vtFire c k) s fun h =>
      (h.cot c).io.pend.getLsbD (2 + k) = true ∧
      (h.vtimer c k).next = (if bit (s.hw.ioWord c (0x9020 + 0x10 * k)) 1 = true then some (a + (s.hw.vtimer c k).per) else none) ∧
      h.ctx c = s.hw.ctx c ∧ h.regs = s.hw.regs ∧ h.mem = s.hw.mem) ∧
  (∀ (s : State) (c k : Nat), s.hw.act = true → (s.hw.vtimer c k).next = none → CompletesAs (.vtFire c k) s s.hw)

/-- R408: ARM by the owner sets RUN and clears MATCH, MISSED and DWELL, the count 0 with CLR and as it was without; STOP
clears RUN and DWELL. R409: a tick of a running unit adds one to its count (64 bits of a linked pair, R413); one that
brings it to the compare value sets MATCH and DWELL and with MIE raises its source; one that brings it to all ones
otherwise stops the unit and sets MISSED; the tick after a match stops the unit and leaves the count. A comparator write
landing on the count matches at once. R411: an edge stores the count and sets its valid bit, and CAPOVR where that bit was
set. R412: an LFCLK edge adds 390,625 / 2^(7+PRE) with the fraction carried, and the unit stops where the compare value or
all ones is reached. R414: of a linked pair, a read of the low half answers it and latches the high half for the reader; a
read of the high half answers the reader's latch where it is valid, and the live high half otherwise, and leaves the latch
invalid. -/
def Obligations.TimerUnits : Prop :=
  (∀ (s : State) (ag : Agent) (u : Nat) (v : Word), s.hw.act = true → s.hw.sees ag .TMR_CTL 0 u = true →
    s.hw.ownsCode (s.hw.fld F.TMR_OWN_OWNER 0 u) ag = true → bits (v.toNat ||| 1) 22 20 ≤ 4 → bit (v.toNat ||| 1) 1 = false →
    s.hw.tmrHigh u = false →
    Completes (.tmrArm ag u v) s fun h =>
      h.flag F.TMR_STAT_RUN 0 u = true ∧ h.flag F.TMR_STAT_MATCH 0 u = false ∧ h.flag F.TMR_STAT_MISSED 0 u = false ∧
      h.flag F.TMR_STAT_DWELL 0 u = false ∧
      h.fld F.TMR_CNT_CNT 0 u = (if bit (v.toNat ||| 1) 2 = true then 0 else s.hw.fld F.TMR_CNT_CNT 0 u) ∧
      h.reg .TMR_CMP 0 u = s.hw.reg .TMR_CMP 0 u ∧ h.mem = s.hw.mem ∧ h.cots = s.hw.cots) ∧
  (∀ (s : State) (ag : Agent) (u : Nat), s.hw.act = true → s.hw.sees ag .TMR_CTL 0 u = true →
    s.hw.ownsCode (s.hw.fld F.TMR_OWN_OWNER 0 u) ag = true → bits ((s.hw.reg .TMR_CTL 0 u).toNat ||| 2) 22 20 ≤ 4 →
    bit ((s.hw.reg .TMR_CTL 0 u).toNat ||| 2) 0 = false → bit ((s.hw.reg .TMR_CTL 0 u).toNat ||| 2) 1 = true →
    s.hw.tmrHigh u = false →
    Completes (.tmrStop ag u) s fun h =>
      h.flag F.TMR_STAT_RUN 0 u = false ∧ h.flag F.TMR_STAT_DWELL 0 u = false ∧
      h.fld F.TMR_CNT_CNT 0 u = s.hw.fld F.TMR_CNT_CNT 0 u ∧ h.mem = s.hw.mem ∧ h.cots = s.hw.cots) ∧
  (∀ (s : State) (ag : Agent) (u : Nat) (v : Word), s.hw.act = true → s.hw.sees ag .TMR_CMP 0 u = true →
    s.hw.ownsCode (s.hw.fld F.TMR_OWN_OWNER 0 u) ag = true → s.hw.tmrHigh u = false →
    Completes (.tmrCmpWrite ag u v) s fun h =>
      h.fld F.TMR_CMP_CMP 0 u = v.toNat ∧ h.fld F.TMR_CNT_CNT 0 u = s.hw.fld F.TMR_CNT_CNT 0 u ∧
      (s.hw.flag F.TMR_STAT_RUN 0 u = true → h.tmrWide F.TMR_CMP_CMP u = s.hw.tmrWide F.TMR_CNT_CNT u →
        h.flag F.TMR_STAT_MATCH 0 u = true ∧ h.flag F.TMR_STAT_DWELL 0 u = true) ∧
      (¬ (s.hw.flag F.TMR_STAT_RUN 0 u = true ∧ h.tmrWide F.TMR_CMP_CMP u = s.hw.tmrWide F.TMR_CNT_CNT u) →
        h.reg .TMR_STAT 0 u = s.hw.reg .TMR_STAT 0 u) ∧ h.mem = s.hw.mem ∧ h.cots = s.hw.cots) ∧
  (∀ (s : State) (u : Nat), s.hw.act = true → s.hw.tmrHigh u = false → s.hw.flag F.TMR_STAT_RUN 0 u = true →
    s.hw.flag F.TMR_STAT_LF 0 u = false →
    (s.hw.flag F.TMR_STAT_DWELL 0 u = false → Completes (.timerTick u none) s fun h =>
      let n := (s.hw.tmrWide F.TMR_CNT_CNT u + 1) % (s.hw.tmrTop u + 1)
      h.tmrWide F.TMR_CNT_CNT u = n ∧
      (n = s.hw.tmrWide F.TMR_CMP_CMP u → h.flag F.TMR_STAT_MATCH 0 u = true ∧ h.flag F.TMR_STAT_DWELL 0 u = true ∧
        h.flag F.TMR_STAT_RUN 0 u = true ∧
        (s.hw.flag F.TMR_CTL_MIE 0 u = true → 480 + u ∈ (h.parish (s.hw.fld F.TMR_CTL_PIC 0 u)).pic.pend)) ∧
      (n ≠ s.hw.tmrWide F.TMR_CMP_CMP u → n = s.hw.tmrTop u → h.flag F.TMR_STAT_MISSED 0 u = true ∧
        h.flag F.TMR_STAT_RUN 0 u = false ∧ h.par = s.hw.par) ∧
      (n ≠ s.hw.tmrWide F.TMR_CMP_CMP u → n ≠ s.hw.tmrTop u → h.reg .TMR_STAT 0 u = s.hw.reg .TMR_STAT 0 u ∧
        h.par = s.hw.par) ∧ h.mem = s.hw.mem ∧ h.cots = s.hw.cots) ∧
    (s.hw.flag F.TMR_STAT_DWELL 0 u = true → Completes (.timerTick u none) s fun h =>
      h.flag F.TMR_STAT_RUN 0 u = false ∧ h.flag F.TMR_STAT_DWELL 0 u = false ∧
      (∀ k, h.fld F.TMR_CNT_CNT 0 k = s.hw.fld F.TMR_CNT_CNT 0 k) ∧ h.mem = s.hw.mem ∧ h.cots = s.hw.cots)) ∧
  (∀ (s : State) (u : Nat), s.hw.act = true → s.hw.flag F.TMR_STAT_DWELL 0 u = false →
    (s.hw.tmrHigh u = true ∨ s.hw.flag F.TMR_STAT_RUN 0 u = false) → CompletesAs (.timerTick u none) s s.hw) ∧
  (∀ (s : State) (u : Nat) (r : Bool), s.hw.act = true → s.hw.tmrHigh u = false →
    Completes (.timerCapture u r) s fun h =>
      let reg := if r then F.TMR_CAPR_CAPR else F.TMR_CAPF_CAPF
      let valid := if r then F.TMR_STAT_CAPR_V else F.TMR_STAT_CAPF_V
      h.fld reg 0 u = s.hw.fld F.TMR_CNT_CNT 0 u ∧ h.flag valid 0 u = true ∧
      (s.hw.flag valid 0 u = true → h.flag F.TMR_STAT_CAPOVR 0 u = true) ∧
      (s.hw.tmrLinked u = true → h.fld reg 0 (u + 1) = s.hw.fld F.TMR_CNT_CNT 0 (u + 1)) ∧
      (∀ k, h.fld F.TMR_CNT_CNT 0 k = s.hw.fld F.TMR_CNT_CNT 0 k) ∧ h.mem = s.hw.mem ∧ h.cots = s.hw.cots) ∧
  (∀ (s : State) (u : Nat), s.hw.power.standby = true → s.hw.flag F.ERR_STAT_FATAL = false → s.hw.tmrHigh u = false →
    s.hw.flag F.TMR_STAT_LF 0 u = true → s.hw.flag F.TMR_STAT_RUN 0 u = true → s.hw.flag F.TMR_STAT_DWELL 0 u = false →
    Completes (.lfclkStep u) s fun h =>
      let c := s.hw.tmrWide F.TMR_CNT_CNT u
      let d := 2 ^ (7 + s.hw.fld F.TMR_CTL_PRE 0 u)
      let n := min (c + ((s.hw.tmr u).frac + 390625) / d) (s.hw.tmrTop u)
      h.tmrWide F.TMR_CNT_CNT u = n ∧ (h.tmr u).frac = ((s.hw.tmr u).frac + 390625) % d ∧
      (c < s.hw.tmrWide F.TMR_CMP_CMP u → s.hw.tmrWide F.TMR_CMP_CMP u ≤ n →
        h.flag F.TMR_STAT_MATCH 0 u = true ∧ h.flag F.TMR_STAT_RUN 0 u = false) ∧
      (¬ (c < s.hw.tmrWide F.TMR_CMP_CMP u ∧ s.hw.tmrWide F.TMR_CMP_CMP u ≤ n) → n = s.hw.tmrTop u →
        h.flag F.TMR_STAT_MISSED 0 u = true ∧ h.flag F.TMR_STAT_RUN 0 u = false) ∧
      h.mem = s.hw.mem ∧ h.cots = s.hw.cots) ∧
  (∀ (s : State) (ag : Agent) (m r : Nat), s.hw.act = true → s.hw.flag F.TMR_CTL_LINK 0 (2 * m) = true →
    Hw.readerNo ag = some r →
    Completes (.pairLowRead ag m) s fun h =>
      NTable.get none (h.tmr (2 * m)).latches r = some (s.hw.fld F.TMR_CNT_CNT 0 (2 * m + 1)) ∧
      (∀ r', r ≠ r' → NTable.get none (h.tmr (2 * m)).latches r' = NTable.get none (s.hw.tmr (2 * m)).latches r') ∧
      (∀ p, ag = .pf p → s.hw.barAnswers (129 * p) = true →
        h.out = .readData (129 * p) (BitVec.ofNat 64 (s.hw.fld F.TMR_CNT_CNT 0 (2 * m))) :: s.hw.out) ∧
      ((∀ p, ag = .pf p → s.hw.barAnswers (129 * p) = true) → h.regs = s.hw.regs) ∧ h.mem = s.hw.mem ∧ h.cots = s.hw.cots) ∧
  (∀ (s : State) (ag : Agent) (m r : Nat), s.hw.act = true → s.hw.flag F.TMR_CTL_LINK 0 (2 * m) = true →
    Hw.readerNo ag = some r →
    Completes (.pairHighRead ag m) s fun h =>
      NTable.get none (h.tmr (2 * m)).latches r = none ∧
      (∀ r', r ≠ r' → NTable.get none (h.tmr (2 * m)).latches r' = NTable.get none (s.hw.tmr (2 * m)).latches r') ∧
      (∀ p, ag = .pf p → s.hw.barAnswers (129 * p) = true →
        h.out = .readData (129 * p) (BitVec.ofNat 64 ((NTable.get none (s.hw.tmr (2 * m)).latches r).getD
          (s.hw.fld F.TMR_CNT_CNT 0 (2 * m + 1)))) :: s.hw.out) ∧
      ((∀ p, ag = .pf p → s.hw.barAnswers (129 * p) = true) → h.regs = s.hw.regs) ∧ h.mem = s.hw.mem ∧ h.cots = s.hw.cots)

/-- R432: the step of an enabled Treadle reads the entry of its state and inputs; if it does not stall, the state,
outputs, output enables and counter are what the entry says, STALLED clears, an IRQ entry sets EVT, and the shift
registers and FIFOs move only where the entry or the program moves them: a draw takes the oldest TX word into the Skein, a
bind puts the Sheaf at the end of the RX FIFO and clears it. R433: a stall changes neither state, outputs, counter, EVT,
shift registers nor FIFOs, and shows STALLED. R438: an entry with a parity error stops the Treadle with its outputs held.
A Treadle with EN 0 does nothing. -/
def Obligations.TreadleStep : Prop :=
  (∀ (s : State) (t pads : Nat) (pe : Bool), s.hw.act = true → s.hw.flag F.TRD_CTL_EN 0 t = false →
    CompletesAs (.treadleStep t pads pe) s s.hw) ∧
  (∀ (s : State) (t pads : Nat), s.hw.act = true → s.hw.flag F.TRD_CTL_EN 0 t = true →
    Completes (.treadleStep t pads true) s fun h =>
      h.flag F.TRD_CTL_EN 0 t = false ∧ h.flag F.TRD_STAT_RUN 0 t = false ∧
      h.fld F.TRD_STAT_OUT 0 t = s.hw.fld F.TRD_STAT_OUT 0 t ∧ (h.trd t).oe = (s.hw.trd t).oe ∧ h.cots = s.hw.cots) ∧
  (∀ (s : State) (t pads : Nat), s.hw.act = true → s.hw.flag F.TRD_CTL_EN 0 t = true →
    s.hw.trdStalls t (s.hw.trdEntry t pads) = true →
    Completes (.treadleStep t pads false) s fun h =>
      h.flag F.TRD_STAT_STALLED 0 t = true ∧ h.fld F.TRD_STAT_STATE 0 t = s.hw.fld F.TRD_STAT_STATE 0 t ∧
      h.fld F.TRD_STAT_OUT 0 t = s.hw.fld F.TRD_STAT_OUT 0 t ∧ h.fld F.TRD_STAT_SHC 0 t = s.hw.fld F.TRD_STAT_SHC 0 t ∧
      h.fld F.TRD_STAT_SKC 0 t = s.hw.fld F.TRD_STAT_SKC 0 t ∧ h.fld F.TRD_STAT_EVT 0 t = s.hw.fld F.TRD_STAT_EVT 0 t ∧
      h.reg .TRD_SHEAF 0 t = s.hw.reg .TRD_SHEAF 0 t ∧ h.reg .TRD_SKEIN 0 t = s.hw.reg .TRD_SKEIN 0 t ∧
      h.reg .TRD_CNT 0 t = s.hw.reg .TRD_CNT 0 t ∧ h.reg .TRD_FIFO 0 t = s.hw.reg .TRD_FIFO 0 t ∧
      (h.trd t).txf = (s.hw.trd t).txf ∧ (h.trd t).rxf = (s.hw.trd t).rxf ∧ (h.trd t).thread = (s.hw.trd t).thread ∧
      (h.trd t).oe = (s.hw.trd t).oe ∧ h.cots = s.hw.cots ∧ h.mem = s.hw.mem) ∧
  (∀ (s : State) (t pads e : Nat), s.hw.act = true → s.hw.flag F.TRD_CTL_EN 0 t = true → s.hw.trdEntry t pads = e →
    s.hw.trdStalls t e = false →
    Completes (.treadleStep t pads false) s fun h =>
      h.flag F.TRD_STAT_STALLED 0 t = false ∧ h.fld F.TRD_STAT_STATE 0 t = bits e 5 0 ∧ (h.trd t).oe = bits e 13 10 ∧
      (bit e 14 = false → h.fld F.TRD_STAT_OUT 0 t = bits e 9 6) ∧
      (bit e 14 = true → h.fld F.TRD_STAT_OUT 0 t = setBits (bits e 9 6) 0 0 (b2n (h.trd t).thread)) ∧
      h.fld F.TRD_CNT_COUNT 0 t = (if bits e 21 20 = 1 then s.hw.fld F.TRD_CNT_RELOAD 0 t
        else if bits e 21 20 = 2 then s.hw.fld F.TRD_CNT_COUNT 0 t - 1 else s.hw.fld F.TRD_CNT_COUNT 0 t) ∧
      h.flag F.TRD_STAT_EVT 0 t = (bit e 23 || s.hw.flag F.TRD_STAT_EVT 0 t) ∧
      (bit e 17 = false → (h.trd t).thread = (s.hw.trd t).thread) ∧
      (bit e 17 = false → s.hw.trdDrawDue t e = false → h.fld F.TRD_SKEIN_BITS 0 t = s.hw.fld F.TRD_SKEIN_BITS 0 t) ∧
      (s.hw.trdDrawDue t e = false → (h.trd t).txf = (s.hw.trd t).txf) ∧
      (∀ w l, s.hw.trdDrawDue t e = true → (s.hw.trd t).txf = w :: l → (h.trd t).txf = l ∧
        (bit e 17 = false → h.fld F.TRD_SKEIN_BITS 0 t = w.toNat ∧ h.fld F.TRD_STAT_SKC 0 t = 0)) ∧
      (bit e 16 = false → s.hw.trdBindDue t e = false → h.fld F.TRD_SHEAF_BITS 0 t = s.hw.fld F.TRD_SHEAF_BITS 0 t) ∧
      (s.hw.trdBindDue t e = false → (h.trd t).rxf = (s.hw.trd t).rxf) ∧
      (s.hw.trdBindDue t e = true → h.fld F.TRD_SHEAF_BITS 0 t = 0 ∧ h.fld F.TRD_STAT_SHC 0 t = 0 ∧
        ((s.hw.trd t).rxf.length < 8 → bit e 16 = false →
          (h.trd t).rxf = (s.hw.trd t).rxf ++ [BitVec.ofNat 32 (s.hw.fld F.TRD_SHEAF_BITS 0 t)])) ∧
      h.cots = s.hw.cots ∧ (bit e 23 = false → h.mem = s.hw.mem))

/-- R434: the step of an enabled Treadle on an entry with NB never stalls: it shows no STALLED and goes to the entry's
next state. Where its draw finds the TX FIFO empty, the Skein is loaded with the last word drawn (which the step's own
spin may then shift), SKC and EMPTY clear and UNDERRUN sets. Where its bind finds the RX FIFO full, the FIFO stays, Sheaf
and SHC clear and OVERRUN sets. The last word drawn is 0 after reset, is the word of every draw that takes one, and stays
otherwise. No step clears UNDERRUN or OVERRUN. A step without an interrupt writes no memory and sends nothing, so neither
is reported. -/
def Obligations.TreadleWithoutBlocking : Prop :=
  (∀ (s : State) (t pads e : Nat), s.hw.act = true → s.hw.flag F.TRD_CTL_EN 0 t = true → s.hw.trdEntry t pads = e →
    bit e 22 = true →
    Completes (.treadleStep t pads false) s fun h =>
      h.flag F.TRD_STAT_STALLED 0 t = false ∧ h.fld F.TRD_STAT_STATE 0 t = bits e 5 0 ∧
      (bit e 23 = false → h.mem = s.hw.mem ∧ h.out = s.hw.out) ∧
      (s.hw.trdDrawDue t e = true → (s.hw.trd t).txf = [] →
        let w := (s.hw.trd t).lastDrawn.toNat
        h.fld F.TRD_SKEIN_BITS 0 t = (if bit e 17 then (if bit (s.hw.trdProgram t).toNat 12 then w / 2 else w * 2 % 2 ^ 32) else w) ∧
        h.fld F.TRD_STAT_SKC 0 t = b2n (bit e 17) ∧ h.flag F.TRD_FIFO_EMPTY 0 t = false ∧
        h.flag F.TRD_STAT_UNDERRUN 0 t = true ∧ (h.trd t).txf = []) ∧
      (s.hw.trdBindDue t e = true → 8 ≤ (s.hw.trd t).rxf.length →
        (h.trd t).rxf = (s.hw.trd t).rxf ∧ h.fld F.TRD_SHEAF_BITS 0 t = 0 ∧ h.fld F.TRD_STAT_SHC 0 t = 0 ∧
        h.flag F.TRD_STAT_OVERRUN 0 t = true)) ∧
  (∀ t, (State.reset.hw.trd t).lastDrawn = 0) ∧
  (∀ (s : State) (t pads e : Nat) (pe : Bool), s.hw.act = true → s.hw.flag F.TRD_CTL_EN 0 t = true → s.hw.trdEntry t pads = e →
    Completes (.treadleStep t pads pe) s fun h =>
      (s.hw.flag F.TRD_STAT_UNDERRUN 0 t = true → h.flag F.TRD_STAT_UNDERRUN 0 t = true) ∧
      (s.hw.flag F.TRD_STAT_OVERRUN 0 t = true → h.flag F.TRD_STAT_OVERRUN 0 t = true) ∧
      (∀ w l, (s.hw.trd t).txf = w :: l → pe = false → s.hw.trdStalls t e = false → s.hw.trdDrawDue t e = true →
        (h.trd t).lastDrawn = w) ∧
      ((s.hw.trd t).txf = [] ∨ pe = true ∨ s.hw.trdStalls t e = true ∨ s.hw.trdDrawDue t e = false →
        (h.trd t).lastDrawn = (s.hw.trd t).lastDrawn))

/-- Of the owner. R436: EN written 1 while it is 0 starts at START with both shift registers, their counts and the thread
latch 0, EMPTY 1 and the counter at RELOAD, the FIFOs as they were; EN written 0 stops with outputs and output enables
held; FLUSH empties both FIFOs, and while EN is 1 it is dropped and reported. R435: COMMIT holds the written program for
the next step. R437: a TX write enters the FIFO or sets TXDROP where it is full; an RX read takes the oldest word, or sets
RXEMPTY. A LUT write replaces the entry. -/
def Obligations.TreadleCommands : Prop :=
  (∀ (s : State) (ag : Agent) (t : Nat) (v : Word), s.hw.act = true → s.hw.sees ag .TRD_CTL 0 t = true →
    s.hw.trdOwned ag t = true → bits (v.toNat ||| 2 ^ 31) 23 12 < 2048 → bit (v.toNat ||| 2 ^ 31) 31 = true →
    s.hw.flag F.TRD_CTL_EN 0 t = false →
    Completes (.treadleEnable ag t v) s fun h =>
      h.flag F.TRD_CTL_EN 0 t = true ∧ h.flag F.TRD_STAT_RUN 0 t = true ∧
      h.fld F.TRD_STAT_STATE 0 t = bits (v.toNat ||| 2 ^ 31) 29 24 ∧ h.fld F.TRD_SHEAF_BITS 0 t = 0 ∧
      h.fld F.TRD_SKEIN_BITS 0 t = 0 ∧ h.fld F.TRD_STAT_SHC 0 t = 0 ∧ h.fld F.TRD_STAT_SKC 0 t = 0 ∧
      (h.trd t).thread = false ∧ h.flag F.TRD_FIFO_EMPTY 0 t = true ∧
      h.fld F.TRD_CNT_COUNT 0 t = s.hw.fld F.TRD_CNT_RELOAD 0 t ∧ (h.trd t).txf = (s.hw.trd t).txf ∧
      (h.trd t).rxf = (s.hw.trd t).rxf ∧ h.mem = s.hw.mem ∧ h.cots = s.hw.cots) ∧
  (∀ (s : State) (ag : Agent) (t : Nat) (v : Word), s.hw.act = true → s.hw.sees ag .TRD_CTL 0 t = true →
    s.hw.trdOwned ag t = true → bits (setBits v.toNat 31 31 0) 23 12 < 2048 → s.hw.flag F.TRD_CTL_EN 0 t = true →
    Completes (.treadleDisable ag t v) s fun h =>
      h.flag F.TRD_CTL_EN 0 t = false ∧ h.flag F.TRD_STAT_RUN 0 t = false ∧
      h.fld F.TRD_STAT_OUT 0 t = s.hw.fld F.TRD_STAT_OUT 0 t ∧ h.trd t = s.hw.trd t ∧ h.mem = s.hw.mem ∧ h.cots = s.hw.cots) ∧
  (∀ (s : State) (ag : Agent) (t : Nat), s.hw.act = true → s.hw.sees ag .TRD_CMD 0 t = true → s.hw.trdOwned ag t = true →
    (Completes (.treadleCommit ag t) s fun h =>
      h.trdProgram t = (s.hw.reg .TRD_PCFG 0 t).setWidth 32 ∧ h.regs = s.hw.regs ∧ h.mem = s.hw.mem ∧ h.cots = s.hw.cots) ∧
    (s.hw.flag F.TRD_CTL_EN 0 t = false → Completes (.flush ag t) s fun h =>
      (h.trd t).txf = [] ∧ (h.trd t).rxf = [] ∧ h.fld F.TRD_FIFO_TXLEVEL 0 t = 0 ∧ h.fld F.TRD_FIFO_RXLEVEL 0 t = 0 ∧
      h.mem = s.hw.mem ∧ h.cots = s.hw.cots) ∧
    (s.hw.flag F.TRD_CTL_EN 0 t = true → CompletesAs (.flush ag t) s (s.hw.refuse ag .TRD_CMD 0 t))) ∧
  (∀ (s : State) (ag : Agent) (t : Nat) (v : Word), s.hw.act = true → s.hw.sees ag .TRD_TXF 0 t = true →
    s.hw.trdOwned ag t = true →
    ((s.hw.trd t).txf.length < 8 → Completes (.trdTxfWrite ag t v) s fun h =>
      (h.trd t).txf = (s.hw.trd t).txf ++ [v] ∧ (h.trd t).rxf = (s.hw.trd t).rxf ∧ h.mem = s.hw.mem ∧ h.cots = s.hw.cots) ∧
    (8 ≤ (s.hw.trd t).txf.length → CompletesAs (.trdTxfWrite ag t v) s (s.hw.setFld F.TRD_FIFO_TXDROP 0 t 1))) ∧
  (∀ (s : State) (ag : Agent) (t : Nat), s.hw.act = true → s.hw.sees ag .TRD_RXF 0 t = true →
    (∀ w l, (s.hw.trd t).rxf = w :: l → CompletesAs (.trdRxfRead ag t) s
      (((s.hw.setTrd t { s.hw.trd t with rxf := l }).trdLevels t).answer ag w.toNat)) ∧
    ((s.hw.trd t).rxf = [] → CompletesAs (.trdRxfRead ag t) s ((s.hw.setFld F.TRD_FIFO_RXEMPTY 0 t 1).answer ag 0))) ∧
  (∀ (s : State) (ag : Agent) (t i : Nat) (v : Word), s.hw.act = true → s.hw.sees ag .TRD_LUT 0 (1024 * t + i) = true →
    s.hw.trdOwned ag t = true →
    Completes (.lutWrite ag t i v) s fun h =>
      h.reg .TRD_LUT 0 (1024 * t + i) = v.setWidth 64 ∧
      (∀ n a b, ¬ (n = .TRD_LUT ∧ a = 0 ∧ b = 1024 * t + i) → h.reg n a b = s.hw.reg n a b) ∧
      h.mem = s.hw.mem ∧ h.cots = s.hw.cots)

/-- R420, R425: a write of LAN_CFG by the Lane's owner with OWNER as it was is stored; if it moves FUNC, UNIT or SIG the
pad is held at its level until the hand-over is taken. R423: a write of LAN_OUT changes the masked Lanes that the writer
owns and no other. R421: the first write of LAN_SEC sets CORE and LOCK, a later one is dropped and reported. R427: a wake
Lane ends sleep and is recorded, and does nothing outside sleep. R428: a BELL_REF edge reaches every parish; where none
comes the reference is lost. -/
def Obligations.LaneCommands : Prop :=
  (∀ (s : State) (ag : Agent) (l : Nat) (v : Word) (present : Bool), s.hw.act = true → s.hw.sees ag .LAN_CFG 0 l = true →
    s.hw.ownsCode (s.hw.fld F.LAN_CFG_OWNER 0 l) ag = true → bits v.toNat 30 28 = s.hw.fld F.LAN_CFG_OWNER 0 l →
    bits v.toNat 30 28 ≠ 7 →
    Completes (.functionSwitch ag l v present) s fun h =>
      h.fld F.LAN_CFG_FUNC 0 l = bits v.toNat 3 0 ∧ h.fld F.LAN_CFG_SIG 0 l = bits v.toNat 23 20 ∧
      h.fld F.LAN_CFG_UNIT 0 l = bits v.toNat 27 24 ∧ h.fld F.LAN_CFG_OWNER 0 l = s.hw.fld F.LAN_CFG_OWNER 0 l ∧
      h.laneHold l = (if bits v.toNat 27 20 ≠ bits (s.hw.lanCfg l) 27 20 ∨ bits v.toNat 3 0 ≠ bits (s.hw.lanCfg l) 3 0
        then some (s.hw.laneLevel l present) else s.hw.laneHold l) ∧
      (∀ k, l ≠ k → h.laneHold k = s.hw.laneHold k) ∧ h.mem = s.hw.mem ∧ h.cots = s.hw.cots) ∧
  (∀ (s : State) (l : Nat), s.hw.act = true →
    Completes (.handoverTake l) s fun h =>
      h.laneHold l = none ∧ (∀ k, l ≠ k → h.laneHold k = s.hw.laneHold k) ∧ h.regs = s.hw.regs ∧ h.mem = s.hw.mem ∧
      h.cots = s.hw.cots) ∧
  (∀ (s : State) (ag : Agent) (b : Nat) (v : Word), s.hw.act = true → s.hw.sees ag .LAN_OUT 0 b = true →
    Completes (.lanOutWrite ag b v) s fun h =>
      ∀ i, i < 16 → bit (h.fld F.LAN_OUT_VAL 0 b) i =
        if bit v.toNat (16 + i) = true ∧ s.hw.ownsCode (bits (s.hw.lanCfg (16 * b + i)) 30 28) ag = true then bit v.toNat i
        else bit (s.hw.fld F.LAN_OUT_VAL 0 b) i) ∧
  (∀ (s : State) (ag : Agent) (v : Word), s.hw.act = true → s.hw.sees ag .LAN_SEC 0 0 = true →
    (s.hw.flag F.LAN_SEC_LOCK = false → Completes (.lanSecWrite ag v) s fun h =>
      h.flag F.LAN_SEC_LOCK = true ∧ h.fld F.LAN_SEC_CORE = bits v.toNat 1 0 ∧ h.mem = s.hw.mem ∧ h.cots = s.hw.cots) ∧
    (s.hw.flag F.LAN_SEC_LOCK = true → CompletesAs (.lanSecWrite ag v) s (s.hw.refuse ag .LAN_SEC 0 0))) ∧
  (∀ (s : State) (l : Nat), s.hw.power.asleep = true → s.hw.power.standby = true → bit (s.hw.lanCfg l) 15 = true → l < 48 →
    Completes (.wakeLane l) s fun h =>
      h.power.asleep = false ∧ h.flag F.LAN_WAKE_VALID = true ∧ h.fld F.LAN_WAKE_LANE = l ∧
      h.flag F.PWR_STAT_SLEEP = false ∧ h.mem = s.hw.mem ∧ h.cots = s.hw.cots) ∧
  (∀ (s : State) (l : Nat), s.hw.power.asleep = false → exec (.wakeLane l) s = .next s) ∧
  (∀ (s : State), s.hw.act = true → (s.hw.laneOf 14 0 0).isSome = true →
    Completes .bellRefEdge s fun h =>
      (∀ n, n < 16 → (h.parish n).refEdge = true) ∧ h.regs = s.hw.regs ∧ h.mem = s.hw.mem ∧ h.cots = s.hw.cots) ∧
  (∀ (s : State), s.hw.act = true → s.hw.laneOf 14 0 0 = none → CompletesAs .bellRefEdge s s.hw) ∧
  (∀ (s : State) (n : Nat), s.hw.act = true →
    Completes (.bellRefLost n) s fun h =>
      (h.parish n).refEdge = false ∧
      ((s.hw.parish n).srcInForce = 2 → (s.hw.parish n).bellRuns = true → (s.hw.parish n).lockLostNow = false →
        h.flag F.BEL_STAT_LOCK_LOST n = true ∧ 257 ∈ (h.parish n).pic.pend) ∧
      ((s.hw.parish n).srcInForce ≠ 2 → h.regs = s.hw.regs) ∧ h.cots = s.hw.cots)

/-- R429: a write of TX by a unit's owner sends the byte or frame where a Lane carries its
signal; the frame received stands in the SPI's RX, 0 where no Lane carries MISO; an I2C command leaves the
data and status that the bus gives; a byte that arrives well at a UART with a Lane for RX enters its FIFO of 16 bytes, and is
dropped, with the FIFO as it was, where the FIFO is full or the byte has an error. A write of any other agent is dropped and
reported. The register places are log entry 34's. -/
def Obligations.PeripheralBytes : Prop :=
  (∀ (s : State) (ag : Agent) (u : Nat) (b : Byte), s.hw.act = true → s.hw.sees ag .LAN_UART 0 (6 * u + 3) = true →
    (s.hw.ownsCode ((s.hw.reg .LAN_UART 0 (6 * u + 5)).toNat % 8) ag = true →
      CompletesAs (.uartTx ag u b) s (if (s.hw.laneOf 9 u 0).isSome = true then s.hw.emit (.uart u b) else s.hw)) ∧
    (s.hw.ownsCode ((s.hw.reg .LAN_UART 0 (6 * u + 5)).toNat % 8) ag = false →
      CompletesAs (.uartTx ag u b) s (s.hw.refuse ag .LAN_UART 0 (6 * u + 3)))) ∧
  (∀ (s : State) (u err : Nat) (b : Byte), s.hw.act = true → (s.hw.laneOf 9 u 1).isSome = true →
    Completes (.uartRxByte u b err) s fun h =>
      h.uartFifo u = (if err ≠ 1 ∧ err ≠ 2 ∧ (s.hw.uartFifo u).length < 16 then s.hw.uartFifo u ++ [b] else s.hw.uartFifo u) ∧
      (err = 1 ∨ err = 2 → bit (h.reg .LAN_UART 0 (6 * u + 2)).toNat err = true) ∧
      (err ≠ 1 → err ≠ 2 → 16 ≤ (s.hw.uartFifo u).length → bit (h.reg .LAN_UART 0 (6 * u + 2)).toNat 0 = true) ∧
      h.mem = s.hw.mem ∧ h.cots = s.hw.cots) ∧
  (∀ (s : State) (u err : Nat) (b : Byte), s.hw.act = true → s.hw.laneOf 9 u 1 = none →
    CompletesAs (.uartRxByte u b err) s s.hw) ∧
  (∀ (s : State) (ag : Agent) (u : Nat) (v miso : Word), s.hw.act = true → s.hw.sees ag .LAN_SPI 0 (7 * u + 3) = true →
    s.hw.ownsCode ((s.hw.reg .LAN_SPI 0 (7 * u + 6)).toNat % 8) ag = true →
    Completes (.spiTx ag u v miso) s fun h =>
      h.out = (if (s.hw.laneOf 10 u 1).isSome = true then .spi u v :: s.hw.out else s.hw.out) ∧
      h.reg .LAN_SPI 0 (7 * u + 4) = (if (s.hw.laneOf 10 u 2).isSome = true then miso.setWidth 64 else 0) ∧
      h.mem = s.hw.mem ∧ h.cots = s.hw.cots) ∧
  (∀ (s : State) (ag : Agent) (u : Nat) (v data status : Word), s.hw.act = true → s.hw.sees ag .LAN_I2C 0 (7 * u + 4) = true →
    s.hw.ownsCode ((s.hw.reg .LAN_I2C 0 (7 * u + 6)).toNat % 8) ag = true →
    Completes (.i2cCmd ag u v data status) s fun h =>
      h.out = (if (s.hw.laneOf 11 u 1).isSome = true then .i2c u v :: s.hw.out else s.hw.out) ∧
      h.reg .LAN_I2C 0 (7 * u + 3) = data.setWidth 64 ∧
      h.reg .LAN_I2C 0 (7 * u + 5) = status.setWidth 64 ∧ h.mem = s.hw.mem ∧ h.cots = s.hw.cots)

/-- R481, R468: a link that comes up shows its rate and width, and DEGRADED below the partner's common rate or ×16. R451:
D3hot sets the function's state and re-arms its one PME; back in D0 what was held is sent. R449: an LTR message is sent,
and shown in SENT, where LTR is enabled and the value is due. R450: an idle port with ASPM L1 enabled enters L1, a TLP due
leaves it. R452: a PTM dialogue that succeeds makes the context valid, a loss makes it invalid; a write of the epoch is a
change of source for the parishes on PTM. R442: an unsupported request is answered so and logged. -/
def Obligations.FabricLinkAndPower : Prop :=
  (∀ (s : State) (p rate width common : Nat) (flit : Bool), (s.hw.port p).perst = false → s.hw.boot.stage ≠ .held →
    s.hw.power.coreOn = true → (s.hw.port p).up = false → rate < 8 → width < 32 →
    (16 ≤ width → common ≤ rate → Completes (.linkUp p rate width flit common) s fun h =>
      (h.port p).up = true ∧ h.flag F.FAB_LINK_UP 0 p = true ∧ h.fld F.FAB_LINK_RATE 0 p = rate ∧
      h.fld F.FAB_LINK_WIDTH 0 p = width ∧ h.flag F.FAB_LINK_FLIT 0 p = flit ∧ h.mem = s.hw.mem ∧ h.cots = s.hw.cots ∧
      h.par = s.hw.par) ∧
    (width < 16 ∨ rate < common → Completes (.linkUp p rate width flit common) s fun h =>
      ∃ g : Hw, h = (g.portRecord 0 0x02 p).setPower s.hw.power ∧ (g.port p).up = true ∧ g.flag F.FAB_LINK_UP 0 p = true ∧
      g.fld F.FAB_LINK_RATE 0 p = rate ∧ g.fld F.FAB_LINK_WIDTH 0 p = width ∧ g.flag F.FAB_LINK_DEGRADED 0 p = true ∧
      g.mem = s.hw.mem ∧ g.cots = s.hw.cots)) ∧
  (∀ (s : State) (o : Nat), o % 129 ≠ 0 →
    Completes (.d3hotEntry o) s fun h =>
      (h.fn o).d3 = true ∧ (h.fn o).pmeSent = false ∧ (h.fn o).heldMsgs = (s.hw.fn o).heldMsgs ∧ h.regs = s.hw.regs ∧
      h.mem = s.hw.mem ∧ h.cots = s.hw.cots) ∧
  (∀ (s : State) (p : Nat),
    Completes (.d3hotEntry (129 * p)) s fun h =>
      (h.fn (129 * p)).d3 = true ∧ (h.fn (129 * p)).pmeSent = false ∧ h.mem = s.hw.mem ∧ h.cots = s.hw.cots) ∧
  (∀ (s : State) (o : Nat), (s.hw.fn o).d3 = true → s.hw.act = false →
    Completes (.d0Return o) s fun h =>
      (h.fn o).d3 = false ∧ (h.fn o).heldMsgs = [] ∧ h.mem = s.hw.mem ∧ h.cots = s.hw.cots) ∧
  (∀ (s : State) (o : Nat), (s.hw.fn o).d3 = true → s.hw.act = true →
    Completes (.d0Return o) s fun h =>
      h = ((((s.hw.modFn o fun f => { f with d3 := false }).sendHeld o).ringsGoOn o).pageinsGoOn o).setPower s.hw.power) ∧
  (∀ (s : State) (p : Nat) (b : Option Nat) (w r aged : Bool), s.hw.act = true →
    (let v := s.hw.ltrValue p b w r
     ((s.hw.port p).ltrEn = true → (s.hw.port p).up = true →
        s.hw.ltrDue p v aged = true →
        v < 2 ^ 16 → Completes (.ltrMessage p b w r aged) s fun h =>
          (h.port p).ltrSent = some v ∧ h.fld F.FAB_LTR_SENT 0 p = v ∧ h.out = .ltr p v :: s.hw.out ∧ h.mem = s.hw.mem ∧
          h.cots = s.hw.cots) ∧
     ((s.hw.port p).ltrEn = false → CompletesAs (.ltrMessage p b w r aged) s s.hw))) ∧
  (∀ (s : State) (p : Nat), s.hw.act = true →
    ((s.hw.port p).up = true → (s.hw.port p).aspmEn = true → Completes (.aspmL1Entry p) s fun h =>
      (h.port p).l1 = true ∧ h.flag F.FAB_LINK_L1SS 0 p = (s.hw.port p).l1ssEn ∧ h.mem = s.hw.mem ∧ h.cots = s.hw.cots) ∧
    ((s.hw.port p).aspmEn = false → CompletesAs (.aspmL1Entry p) s s.hw) ∧
    ((s.hw.port p).l1 = true → Completes (.l1Exit p) s fun h =>
      (h.port p).l1 = false ∧ h.flag F.FAB_LINK_L1SS 0 p = false ∧ h.out = .linkWake p :: s.hw.out ∧ h.cots = s.hw.cots)) ∧
  (∀ (s : State) (p : Nat), s.hw.act = true → (s.hw.port p).ptmEn = true → (s.hw.port p).up = true →
    Completes (.ptmRefresh p true) s fun h => (h.port p).ptmFresh = true ∧ h.regs = s.hw.regs ∧ h.cots = s.hw.cots) ∧
  (∀ (s : State) (p : Nat), s.hw.act = true → s.hw.fld F.FAB_PTM_PORT ≠ p →
    Completes (.ptmLost p) s fun h => (h.port p).ptmFresh = false ∧ h.regs = s.hw.regs ∧ h.cots = s.hw.cots) ∧
  (∀ (s : State) (p n : Nat), s.hw.act = true → s.hw.fld F.FAB_PTM_PORT = p → n < 16 →
    (∀ m, (s.hw.parish m).srcInForce = 1 ↔ m = n) → (s.hw.parish n).bellRuns = true → (s.hw.parish n).lockLostNow = false →
    Completes (.ptmLost p) s fun h =>
      h.flag F.BEL_STAT_LOCK_LOST n = true ∧ h.flag F.BEL_STAT_LOCKED n = false ∧ (h.parish n).lockLostNow = true ∧
      h.cots = s.hw.cots) ∧
  (∀ (s : State) (ag : Agent) (v : DWord), s.hw.act = true → s.hw.sees ag .FAB_PTM_EPOCH 0 0 = true →
    s.hw.changesLocked ag .FAB_PTM_EPOCH 0 0 v.toNat = false →
    Completes (.epochWrite ag v) s fun h =>
      h.reg .FAB_PTM_EPOCH 0 0 = v ∧ (∀ n, n < 16 → s.hw.fld F.BEL_CTL_SRC n = 1 → (h.parish n).srcPend = true) ∧
      (∀ n, s.hw.fld F.BEL_CTL_SRC n ≠ 1 → h.parish n = s.hw.parish n) ∧ h.mem = s.hw.mem ∧ h.cots = s.hw.cots) ∧
  (∀ (s : State) (p : Nat), Completes (.unsupportedRequest p) s fun h =>
      h.out = .aer p 2 :: .ur p :: s.hw.out ∧ h.regs = s.hw.regs ∧ h.mem = s.hw.mem ∧ h.cots = s.hw.cots) ∧
  (∀ (s : State) (o : Nat), Completes (.configSpaceWrite o (.bme false)) s fun h =>
      (h.fn o).bme = false ∧ h.regs = s.hw.regs ∧ h.mem = s.hw.mem ∧ h.cots = s.hw.cots) ∧
  (∀ (s : State) (p : Nat) (on : Bool),
    (Completes (.configSpaceWrite (129 * p) (.ltr on)) s fun h => (h.port p).ltrEn = on ∧ h.regs = s.hw.regs) ∧
    (Completes (.configSpaceWrite (129 * p) (.aspm on)) s fun h => (h.port p).aspmEn = on ∧ h.regs = s.hw.regs) ∧
    (Completes (.configSpaceWrite (129 * p) (.l1ss on)) s fun h => (h.port p).l1ssEn = on ∧ h.regs = s.hw.regs) ∧
    (Completes (.configSpaceWrite (129 * p) (.ptm true)) s fun h => (h.port p).ptmEn = true ∧ h.regs = s.hw.regs) ∧
    (Completes (.configSpaceWrite (129 * p) .clearPme) s fun h => (h.fn (129 * p)).pmeStatus = false ∧ h.regs = s.hw.regs))

/-- R453, R12, R13: a module reset leaves every register, cottage, parish, core, function, port, timer, Lane and Treadle
as at reset, the words of the Larders and memory, their poison, the sideband and what has left the block as they were.
PERST# on one port while the other's is asserted is a module reset; any other port reset leaves the port's link down,
its configuration at reset and the PF's PME status clear. R454, R456: the FLR of an enabled function returns its
configuration space and its Commons registers to reset, and FLR is in progress until it is complete; a VF that is not
enabled has none. R446: lowering NumVFs ends the VFs above, and a higher number changes nothing here. -/
def Obligations.FabricResets : Prop :=
  (∀ (s : State), Completes .moduleReset s fun h =>
      h.regs = Hw.reset.regs ∧ h.cots = Hw.reset.cots ∧ h.reeves = Hw.reset.reeves ∧
      (∀ n, n < 16 → h.parish n =
        { Parish.reset with larder := (s.hw.parish n).larder, poisoned := (s.hw.parish n).poisoned }) ∧
      h.memPoison = s.hw.memPoison ∧
      h.gran = Hw.reset.gran ∧ h.fns = Hw.reset.fns ∧ h.ports = Hw.reset.ports ∧ h.timers = Hw.reset.timers ∧
      h.lanes = Hw.reset.lanes ∧ h.treadles = Hw.reset.treadles ∧ h.boot = Hw.reset.boot ∧ h.mem = s.hw.mem ∧ h.sbd = s.hw.sbd ∧
      h.out = s.hw.out ∧ h.power.standby = s.hw.power.standby ∧ h.power.asleep = false) ∧
  (∀ (s : State) (p : Nat), (s.hw.port (1 - p)).perst = true → exec (.portReset p 0) s = exec .moduleReset s) ∧
  (∀ (s : State) (p kind : Nat), ¬ (kind = 0 ∧ (s.hw.port (1 - p)).perst = true) →
    Completes (.portReset p kind) s fun h =>
      (h.port p).up = false ∧ (h.port p).vfEn = false ∧ (h.port p).numVfs = 0 ∧ (h.port p).ltrEn = false ∧
      (h.port p).ptmEn = false ∧ (h.port p).ptmFresh = false ∧ (kind = 0 → (h.port p).perst = true) ∧
      (h.fn (129 * p)).pmeStatus = false ∧
      h.power = { s.hw.power with asleep := s.hw.power.asleep && decide (kind ≠ 0) }) ∧
  (∀ (s : State) (p v : Nat), (s.hw.fn (129 * p + v)).enabled = false → exec (.flr p v) s = .next s) ∧
  (∀ (s : State) (p v : Nat), (s.hw.fn (129 * p + v)).enabled = true → (s.hw.act = true ∨ s.hw.flag F.ERR_STAT_FATAL = true) →
    Completes (.flr p v) s fun h =>
      let f := h.fn (129 * p + v)
      f.bme = false ∧ f.msixEn = false ∧ f.fmask = false ∧ f.vmask = [] ∧ f.pba = [] ∧ f.heldMsgs = [] ∧ f.d3 = false ∧
      f.eqRing = none ∧ f.rq = [] ∧
      (∀ (n : RegName) (j : Nat), n.desc.bank = .perFn → h.reg n (129 * p + v) j = RegId.reset ⟨n, 129 * p + v, j⟩)) ∧
  (∀ (s : State) (p : Nat), (s.hw.act = false → s.hw.flag F.ERR_STAT_FATAL = true) →
    Completes (.pfFlr p) s fun h =>
      let f := h.fn (129 * p)
      f.bme = false ∧ f.msixEn = false ∧ f.fmask = false ∧ f.vmask = [] ∧ f.pba = [] ∧ f.heldMsgs = [] ∧ f.d3 = false ∧
      f.eqRing = none ∧ f.rq = [] ∧
      (∀ (n : RegName) (j : Nat), n.desc.bank = .perFn → h.reg n (129 * p) j = RegId.reset ⟨n, 129 * p, j⟩)) ∧
  (∀ (s : State) (o : Nat), (s.hw.fn o).flr = true →
    (s.hw.flag F.ERR_STAT_FATAL = true → Completes (.flrComplete o) s fun h =>
      (h.fn o).flr = false ∧ h.fld F.FAB_FLR_LAST 0 (o / 129) = o % 129 ∧ h.mem = s.hw.mem ∧ h.cots = s.hw.cots) ∧
    (s.hw.flag F.ERR_STAT_FATAL = false → Completes (.flrComplete o) s fun h =>
      ∃ g : Hw, (g.fn o).flr = false ∧ g.fld F.FAB_FLR_LAST 0 (o / 129) = o % 129 ∧
        h = (g.raise 0 3 .FAB 0x03 (Hw.chanIndex 9 o 0) none [129 * (o / 129)] (Hw.detailOf .FAB [0x03, o])).setPower s.hw.power ∧
        h.cots = s.hw.cots)) ∧
  (∀ (s : State) (o : Nat), (s.hw.fn o).flr = false → exec (.flrComplete o) s = .next s) ∧
  (∀ (s : State) (p n : Nat), (s.hw.port p).numVfs ≤ n → exec (.vfEnableClear p n) s = .next s) ∧
  (∀ (s : State) (p n : Nat), n < (s.hw.port p).numVfs → (s.hw.fn (129 * p)).d3 = false →
    s.hw.boot.stage = .released →
    Completes (.vfEnableClear p n) s fun h =>
      (h.port p).numVfs = n ∧ (h.port p).vfEn = decide (n ≠ 0) ∧
      (∀ v, n < v → v ≤ 128 → (s.hw.fn (129 * p + v)).enabled = true → (h.fn (129 * p + v)).enabled = false))

/-- R461: on a connection whose transport answers, GET_VERSION starts the negotiation afresh, and each later request
advances it; one that comes before its stage is answered ERROR UnexpectedRequest, an unsupported one ERROR
UnsupportedRequest; without the transport nothing is answered. With an alias key derived, GET_DIGESTS, GET_CERTIFICATE and
CHALLENGE answer for slot 0's chain, and R463: GET_MEASUREMENTS answers the blocks of its index as of the command. The
byte layouts are the model's (log entry 37). -/
def Obligations.SpdmResponder : Prop :=
  (∀ (s : State) (i : Nat) (req : List Byte), s.hw.connAnswers i = false →
    exec (.getVersion i req) s = .next s ∧ exec (.getCapabilities i req) s = .next s ∧
    exec (.negotiateAlgorithms i req) s = .next s ∧ exec (.getDigests i req) s = .next s ∧
    exec (.getCertificate i req) s = .next s ∧ exec (.challenge i req) s = .next s ∧
    exec (.getMeasurements i req) s = .next s ∧ exec (.spdmUnsupported i req) s = .next s) ∧
  (∀ (s : State) (i : Nat) (req : List Byte), s.hw.connAnswers i = true →
    (Completes (.getVersion i req) s fun h =>
      (h.conn i).stage = 1 ∧ (h.conn i).vca = req ++ [0x10, 0x04, 0, 0, 0, 1, 0, 0x12] ∧ (h.conn i).m1 = [] ∧ (h.conn i).l1 = [] ∧
      h.out = .spdm i [0x10, 0x04, 0, 0, 0, 1, 0, 0x12] :: s.hw.out ∧ h.regs = s.hw.regs ∧ h.mem = s.hw.mem ∧ h.cots = s.hw.cots) ∧
    ((s.hw.conn i).stage < 1 → Completes (.getCapabilities i req) s fun h =>
      h.out = .spdm i [0x12, 0x7F, 0x04, 0] :: s.hw.out ∧ h.spdm = s.hw.spdm ∧ h.regs = s.hw.regs) ∧
    ((s.hw.conn i).stage < 2 → Completes (.negotiateAlgorithms i req) s fun h =>
      h.out = .spdm i [0x12, 0x7F, 0x04, 0] :: s.hw.out ∧ h.spdm = s.hw.spdm ∧ h.regs = s.hw.regs) ∧
    ((s.hw.conn i).stage < 3 → Completes (.getDigests i req) s fun h =>
      h.out = .spdm i [0x12, 0x7F, 0x04, 0] :: s.hw.out ∧ h.spdm = s.hw.spdm ∧ h.regs = s.hw.regs) ∧
    (1 ≤ (s.hw.conn i).stage → Completes (.getCapabilities i req) s fun h =>
      ∃ r, r.length = 20 ∧ r.take 12 = [0x12, 0x61, 0, 0, 0, 20, 0, 0, 0x36, 0, 0, 0] ∧ h.out = .spdm i r :: s.hw.out ∧
        (h.conn i).stage = 2 ∧ (h.conn i).vca = (s.hw.conn i).vca ++ req ++ r ∧ h.regs = s.hw.regs ∧ h.mem = s.hw.mem) ∧
    (2 ≤ (s.hw.conn i).stage → Completes (.negotiateAlgorithms i req) s fun h =>
      ∃ r, r.length = 36 ∧ r.take 4 = [0x12, 0x63, 0, 0] ∧ h.out = .spdm i r :: s.hw.out ∧
        (h.conn i).stage = 3 ∧ (h.conn i).vca = (s.hw.conn i).vca ++ req ++ r ∧ h.regs = s.hw.regs ∧ h.mem = s.hw.mem) ∧
    (Completes (.spdmUnsupported i req) s fun h =>
      h.out = .spdm i [0x12, 0x7F, 0x07, BitVec.ofNat 8 (req.getD 1 0).toNat] :: s.hw.out ∧ h.spdm = s.hw.spdm ∧
      h.regs = s.hw.regs)) ∧
  (∀ (s : State) (i : Nat) (req : List Byte) (key : BitVec 384), s.hw.connAnswers i = true → 3 ≤ (s.hw.conn i).stage →
    s.hw.boot.aliasKey = some key →
    (Completes (.getDigests i req) s fun h =>
      h.out = .spdm i ([0x12, 0x01, 0, 1] ++ digestBytes (Crypto.sha384 (s.hw.aliasChain key))) :: s.hw.out ∧
      (h.conn i).stage = (s.hw.conn i).stage ∧ h.regs = s.hw.regs ∧ h.mem = s.hw.mem) ∧
    (let off := fromLe ((req.drop 4).take 2)
     let len := fromLe ((req.drop 6).take 2)
     (req.getD 2 0).toNat % 16 = 0 → off < (s.hw.aliasChain key).length → Completes (.getCertificate i req) s fun h =>
      let part := ((s.hw.aliasChain key).drop off).take len
      h.out = .spdm i ([0x12, 0x02, 0, 0] ++ leBytes 2 part.length ++
        leBytes 2 ((s.hw.aliasChain key).length - off - part.length) ++ part) :: s.hw.out ∧ h.regs = s.hw.regs ∧ h.mem = s.hw.mem) ∧
    (req.getD 2 0 = 0 → req.getD 3 0 = 0 → Completes (.challenge i req) s fun h =>
      ∃ nonce sig, nonce.length = 32 ∧
        h.out = .spdm i ([0x12, 0x03, 0, 1] ++ digestBytes (Crypto.sha384 (s.hw.aliasChain key)) ++ nonce ++
          [0, 0] ++ sig) :: s.hw.out ∧
        (h.conn i).m1 = [] ∧ (h.conn i).l1 = [] ∧ h.regs = s.hw.regs ∧ h.mem = s.hw.mem) ∧
    (s.hw.blocksOf (req.getD 3 0).toNat ≠ [] → (req.getD 3 0).toNat ≠ 0 → bit (req.getD 2 0).toNat 0 = false →
      Completes (.getMeasurements i req) s fun h =>
      ∃ nonce, nonce.length = 32 ∧
        (let blocks := s.hw.blocksOf (req.getD 3 0).toNat
         h.out = .spdm i ([0x12, 0x60, 0, 0] ++ leBytes 1 blocks.length ++ leBytes 3 blocks.flatten.length ++ blocks.flatten ++
          nonce ++ [0, 0]) :: s.hw.out) ∧ h.regs = s.hw.regs ∧ h.mem = s.hw.mem))

/-- R465, R467, R466: while VIN is above UVLO a read of a PMBus command returns its data, an MCTP control request its
response, whatever the core domain does, and R469: the transaction is counted in SBD_CNT; nothing else changes but what a
sensor's refresh shows. -/
def Obligations.SidebandReads : Prop :=
  ∀ (s : State), s.hw.power.standby = true →
    (let done := fun (l : List Byte) =>
        (.next { s with hw := (s.hw.emit (.pmbus l)).countWrap F.SBD_CNT_XFERS } : Host.Outcome State Fault Refusal)
     exec .capability s = done [0xD0] ∧ exec .pmbusRevision s = done [0x33] ∧
     exec .mfrId s = done [6, 0x54, 0x52, 0x49, 0x44, 0x55, 0x4E] ∧
     exec .mfrModel s = done [8, 0x43, 0x58, 0x4D, 0x2D, 0x34, 0x30, 0x39, 0x36] ∧
     exec .statusByte s = done (leBytes 1 s.hw.statusBits) ∧ exec .statusWord s = done (leBytes 2 s.hw.statusBits) ∧
     exec .statusInputRead s = done [s.hw.sbd.statusInput] ∧ exec .statusTemperature s = done [s.hw.sbd.statusTemp] ∧
     exec .statusCmlRead s = done [s.hw.sbd.statusCml] ∧
     (∀ v, exec (.readIin v) s = done (leBytes 2 (Config.linear11 v 1000).toNat))) ∧
    (∀ v, v < 2 ^ 16 → Completes (.readPin v) s fun h =>
      h.out = .pmbus (leBytes 2 (Config.linear11 v 10).toNat) :: s.hw.out ∧ h.fld F.PWR_SENSE_PIN = v ∧
      h.fld F.SBD_CNT_XFERS = (s.hw.fld F.SBD_CNT_XFERS + 1) % 2 ^ 32 ∧ h.mem = s.hw.mem ∧ h.cots = s.hw.cots) ∧
    (∀ v, v < 2 ^ 16 → Completes (.readVin v) s fun h =>
      h.out = .pmbus (leBytes 2 (Config.linear11 v 100).toNat) :: s.hw.out ∧ h.fld F.PWR_SENSE_VIN = v ∧ h.power.vin = v ∧
      h.fld F.SBD_CNT_XFERS = (s.hw.fld F.SBD_CNT_XFERS + 1) % 2 ^ 32 ∧ h.mem = s.hw.mem ∧ h.cots = s.hw.cots) ∧
    (∀ t, t < 2 ^ 8 → Completes (.readTemperature1 t) s fun h =>
      h.out.head? = some (.pmbus (leBytes 2 (Config.linear11 t 1).toNat)) ∧ h.fld F.PWR_SENSE_HOTSPOT = t ∧
      h.fld F.SBD_CNT_XFERS = (s.hw.fld F.SBD_CNT_XFERS + 1) % 2 ^ 32 ∧ h.cots = s.hw.cots) ∧
    (∀ t, t < 2 ^ 8 → Completes (.readTemperature2 t) s fun h =>
      h.out.head? = some (.pmbus (leBytes 2 (Config.linear11 t 1).toNat)) ∧ h.fld F.PWR_SENSE_HBMT = t ∧
      h.fld F.SBD_CNT_XFERS = (s.hw.fld F.SBD_CNT_XFERS + 1) % 2 ^ 32 ∧ h.cots = s.hw.cots) ∧
    (∀ t, t < 2 ^ 8 → Completes (.readTemperature3 t) s fun h =>
      h.out = .pmbus (leBytes 2 (Config.linear11 t 1).toNat) :: s.hw.out ∧ h.fld F.PWR_SENSE_INLET = t ∧
      h.fld F.SBD_CNT_XFERS = (s.hw.fld F.SBD_CNT_XFERS + 1) % 2 ^ 32 ∧ h.mem = s.hw.mem ∧ h.cots = s.hw.cots) ∧
    (∀ (hdr eid : Byte) (op : Nat), op ≤ 1 → eid ≠ 0 → eid ≠ 0xFF → Completes (.setEndpointId hdr op eid) s fun h =>
      h.out = .mctp [0, hdr &&& 0x5F, 1, 0, 0, eid, 0] :: s.hw.out ∧ h.fld F.SBD_CFG_EID = eid.toNat ∧
      h.flag F.SBD_CFG_EIDV = true ∧ h.fld F.SBD_CNT_XFERS = (s.hw.fld F.SBD_CNT_XFERS + 1) % 2 ^ 32 ∧ h.mem = s.hw.mem) ∧
    (∀ (hdr : Byte), Completes (.getEndpointId hdr) s fun h =>
      h.out = .mctp [0, hdr &&& 0x5F, 2, 0, BitVec.ofNat 8 (s.hw.fld F.SBD_CFG_EID), 0, 0] :: s.hw.out ∧
      h.fld F.SBD_CNT_XFERS = (s.hw.fld F.SBD_CNT_XFERS + 1) % 2 ^ 32 ∧ h.mem = s.hw.mem) ∧
    (∀ (hdr type : Byte), (type = 0xFF ∨ type = 0 ∨ type = 5) → Completes (.getMctpVersionSupport hdr type) s fun h =>
      h.out = .mctp ([0, hdr &&& 0x5F, 4, 0, 1] ++ leBytes 4 (Config.mctpVersion type).toNat) :: s.hw.out ∧
      h.fld F.SBD_CNT_XFERS = (s.hw.fld F.SBD_CNT_XFERS + 1) % 2 ^ 32 ∧ h.mem = s.hw.mem) ∧
    (∀ (hdr : Byte), Completes (.getMessageTypeSupport hdr) s fun h =>
      h.out = .mctp [0, hdr &&& 0x5F, 5, 0, 1, 5] :: s.hw.out ∧
      h.fld F.SBD_CNT_XFERS = (s.hw.fld F.SBD_CNT_XFERS + 1) % 2 ^ 32 ∧ h.mem = s.hw.mem)

/-- R465: without standby power no transaction is answered. R467: an unsupported command code is NACKed and sets
STATUS_CML bit 7 and SBD_STAT.BADCMD; a write to a read-only command sets the STATUS_CML bit only. R465: a wrong PEC
discards the transaction (SBD_STAT.PEC; the STATUS_CML bit 5 of PEC errors is log entry 40's); a bus timeout sets
SBD_STAT.TIMEOUT; an Alert Response read with SMBALERT# asserted answers the address and releases it. R467: CLEAR_FAULTS
sets no status bit that was clear and is not warned of, and SMBALERT# afterwards needs a status bit that is set. -/
def Obligations.SidebandStatus : Prop :=
  (∀ (s : State) (hdr eid type code : Byte) (op v : Nat) (temps : List Nat), s.hw.power.standby = false →
    exec (.setEndpointId hdr op eid) s = .next s ∧ exec (.getEndpointId hdr) s = .next s ∧
    exec (.getMctpVersionSupport hdr type) s = .next s ∧ exec (.getMessageTypeSupport hdr) s = .next s ∧
    exec .capability s = .next s ∧ exec .statusByte s = .next s ∧ exec .statusWord s = .next s ∧
    exec .statusInputRead s = .next s ∧ exec .statusTemperature s = .next s ∧ exec .statusCmlRead s = .next s ∧
    exec (.readIin v) s = .next s ∧ exec (.readPin v) s = .next s ∧ exec .pmbusRevision s = .next s ∧
    exec .mfrId s = .next s ∧ exec .mfrModel s = .next s ∧ exec (.unsupportedCommand code) s = .next s ∧
    exec .pecError s = .next s ∧ exec .alertResponse s = .next s ∧ exec .smbusTimeout s = .next s ∧
    exec (.readVin v) s = .next s ∧ exec (.readTemperature1 v) s = .next s ∧ exec (.readTemperature2 v) s = .next s ∧
    exec (.readTemperature3 v) s = .next s ∧ exec (.clearFaults v temps) s = .next s) ∧
  (∀ (s : State) (code : Byte), s.hw.power.standby = true →
    (Hw.pmReadOnly.contains code.toNat = false → Completes (.unsupportedCommand code) s fun h =>
      h.out.head? = some .nack ∧ h.flag F.SBD_STAT_BADCMD = true ∧ bit h.sbd.statusCml.toNat 7 = true ∧ h.sbd.alert = true ∧
      h.fld F.SBD_CNT_XFERS = s.hw.fld F.SBD_CNT_XFERS ∧ h.mem = s.hw.mem ∧ h.cots = s.hw.cots) ∧
    (Hw.pmReadOnly.contains code.toNat = true → Completes (.unsupportedCommand code) s fun h =>
      h.flag F.SBD_STAT_BADCMD = s.hw.flag F.SBD_STAT_BADCMD ∧ bit h.sbd.statusCml.toNat 7 = true ∧ h.sbd.alert = true ∧
      h.fld F.SBD_CNT_XFERS = (s.hw.fld F.SBD_CNT_XFERS + 1) % 2 ^ 32 ∧ h.mem = s.hw.mem ∧ h.cots = s.hw.cots) ∧
    (Completes .pecError s fun h =>
      h.flag F.SBD_STAT_PEC = true ∧ bit h.sbd.statusCml.toNat 5 = true ∧ h.sbd.alert = true ∧
      h.fld F.SBD_CNT_XFERS = s.hw.fld F.SBD_CNT_XFERS ∧ h.mem = s.hw.mem ∧ h.cots = s.hw.cots) ∧
    (Completes .smbusTimeout s fun h =>
      h.flag F.SBD_STAT_TIMEOUT = true ∧ h.sbd = s.hw.sbd ∧ h.out = s.hw.out ∧
      h.fld F.SBD_CNT_XFERS = s.hw.fld F.SBD_CNT_XFERS ∧ h.mem = s.hw.mem ∧ h.cots = s.hw.cots) ∧
    (s.hw.sbd.alert = true → Completes .alertResponse s fun h =>
      h.out = .pmbus [BitVec.ofNat 8 (2 * s.hw.fld F.SBD_CFG_ADDR)] :: .smbAlert false :: s.hw.out ∧ h.sbd.alert = false ∧
      h.sbd.statusInput = s.hw.sbd.statusInput ∧ h.sbd.statusTemp = s.hw.sbd.statusTemp ∧ h.sbd.statusCml = s.hw.sbd.statusCml ∧
      h.fld F.SBD_CNT_XFERS = (s.hw.fld F.SBD_CNT_XFERS + 1) % 2 ^ 32 ∧ h.mem = s.hw.mem ∧ h.cots = s.hw.cots) ∧
    (s.hw.sbd.alert = false → exec .alertResponse s = .next s)) ∧
  (∀ (s : State) (v : Nat) (temps : List Nat), s.hw.power.standby = true → Completes (.clearFaults v temps) s fun h =>
    h.sbd.statusInput &&& ~~~ s.hw.sbd.statusInput = 0 ∧
    (h.sbd.alert = true → ¬ (h.sbd.statusInput = 0 ∧ h.sbd.statusTemp = 0 ∧ h.sbd.statusCml = 0)) ∧
    (s.hw.flag F.ERR_STAT_FATAL = false → h.sbd.statusCml = 0) ∧ h.cots = s.hw.cots) ∧
  (∀ (s : State) (hdr eid : Byte) (op : Nat), s.hw.power.standby = true → ¬ (op ≤ 1 ∧ eid ≠ 0 ∧ eid ≠ 0xFF) →
    Completes (.setEndpointId hdr op eid) s fun h =>
      h.out = .mctp [0, hdr &&& 0x5F, 1, 2] :: s.hw.out ∧ h.fld F.SBD_CFG_EID = s.hw.fld F.SBD_CFG_EID ∧
      h.fld F.SBD_CNT_XFERS = (s.hw.fld F.SBD_CNT_XFERS + 1) % 2 ^ 32 ∧ h.mem = s.hw.mem) ∧
  (∀ (s : State) (hdr type : Byte), s.hw.power.standby = true → ¬ (type = 0xFF ∨ type = 0 ∨ type = 5) →
    Completes (.getMctpVersionSupport hdr type) s fun h =>
      h.out = .mctp [0, hdr &&& 0x5F, 4, 0x80] :: s.hw.out ∧
      h.fld F.SBD_CNT_XFERS = (s.hw.fld F.SBD_CNT_XFERS + 1) % 2 ^ 32 ∧ h.mem = s.hw.mem)

/-- R101, R102, R113: while the core domain works, each two-operand instruction of legal encoding that a context issues
completes: its result, unless it is CMP or TST, changes the low bits of D at the width, and its flags, unless the form is
quiet, change FL, at distance 2 for MUL and 1 for the others; nothing else of the processor changes but PC, and nothing
beside the context. -/
def Obligations.HobArithmetic : Prop :=
  ∀ (s : State) (op : AluOp) (who : Ctx) (pre : List Byte) (a : AluArgs), s.hw.act = true →
    s.hw.Issues who (aluLen pre a) → encodingFault who ⟨true, Hw.aluImm a, false⟩ pre (Hw.aluLegal op pre a) false = 0 →
    Completes (aluInstr op who pre a) s (Hw.Retired who (aluLen pre a) (s.hw.issued who)
      (let w := preWidth pre
       let x := s.hw.issued who
       let o := match a with
         | .reg ob _ => aluOut op w ((x.read ob.a).toNat % 2 ^ w) ((x.read ob.b).toNat % 2 ^ w) (x.read ob.b).toNat (flC x.fl)
         | .imm ob v _ => aluOut op w ((x.read ob.a).toNat % 2 ^ w) ((immSigned pre v).toNat % 2 ^ w) (immCount pre v).toNat (flC x.fl)
       let dist := if op = .mul then 2 else 1
       (if op = .cmp ∨ op = .tst then [] else [toLow w (Hw.aluOb a).a dist (BitVec.ofNat 32 o.value)]) ++
         (if Hw.aluQuiet a then [] else [o.toFl w dist])) s.hw s.hw)

/-- R103, R113, R118, R119: while the core domain works, NEG, NOT, SEXT8, SEXT16, MULH, MULHU, DIVU, DIVS and LEA of legal
encoding complete: their results are queued at their distances (2 for a high word, 10 for a divide, 1 for the others), and
nothing else changes but PC. R120: a divide by zero is counted besides. -/
def Obligations.HobOtherArithmetic : Prop :=
  ∀ (s : State) (who : Ctx) (pre : List Byte) (ob : Ob), s.hw.act = true →
    (let x := s.hw.issued who
     let w := preWidth pre
     let d := x.read ob.a
     let b := x.read ob.b
     let low : Nat → Nat := fun v => v % 2 ^ w
     let ends : Instr → Nat → List PendingWrite → Prop := fun i n res => Completes i s (Hw.Retired who n x res s.hw s.hw)
     (s.hw.Issues who (pre.length + 2) → encodingFault who ⟨true, false, false⟩ pre (ob.b == 0) false = 0 →
       ends (.aluNeg who pre ob) (pre.length + 2)
         [toLow w ob.a 1 (BitVec.ofNat 32 ((2 ^ w - low d.toNat) % 2 ^ w)),
          AluOut.toFl ⟨(2 ^ w - low d.toNat) % 2 ^ w, some (low d.toNat != 0), some (low d.toNat == 2 ^ (w - 1))⟩ w 1] ∧
       ends (.aluNot who pre ob) (pre.length + 2)
         [toLow w ob.a 1 (BitVec.ofNat 32 (low (~~~d).toNat)), AluOut.toFl ⟨low (~~~d).toNat, none, none⟩ w 1]) ∧
     (s.hw.Issues who (pre.length + 2) → encodingFault who ⟨false, false, false⟩ pre (ob.b == 0) false = 0 →
       ends (.sext8 who pre ob) (pre.length + 2)
         [toLow w ob.a 1 (BitVec.ofNat 32 ((d.setWidth 8).signExtend 32).toNat),
          AluOut.toFl ⟨((d.setWidth 8).signExtend 32).toNat, none, none⟩ w 1] ∧
       ends (.sext16 who pre ob) (pre.length + 2)
         [toLow w ob.a 1 (BitVec.ofNat 32 ((d.setWidth 16).signExtend 32).toNat),
          AluOut.toFl ⟨((d.setWidth 16).signExtend 32).toNat, none, none⟩ w 1]) ∧
     (s.hw.Issues who (pre.length + 2) → encodingFault who ⟨false, false, false⟩ pre true false = 0 →
       ends (.mulh who pre ob) (pre.length + 2)
         [toReg ob.a 2 (mulHigh true d b), AluOut.toFl ⟨(mulHigh true d b).toNat, some false, some false⟩ 32 2] ∧
       ends (.mulhu who pre ob) (pre.length + 2)
         [toReg ob.a 2 (mulHigh false d b), AluOut.toFl ⟨(mulHigh false d b).toNat, some false, some false⟩ 32 2] ∧
       (∀ (sgn : Bool), let i : Instr := if sgn then .divs who pre ob else .divu who pre ob
         let q := (divide sgn d b).1
         let m := (divide sgn d b).2.1
         let v := (divide sgn d b).2.2
         (b ≠ 0 → ends i (pre.length + 2) [toReg ob.a 10 q, toReg (ob.a + 1) 10 m, AluOut.toFl ⟨q.toNat, some false, some v⟩ 32 10]) ∧
         (b = 0 → Completes i s (Hw.Retired who (pre.length + 2) x
           [toReg ob.a 10 q, toReg (ob.a + 1) 10 m, { AluOut.toFl ⟨q.toNat, some false, some v⟩ 32 10 with orBits := 0x10 }]
           s.hw (s.hw.divByZero who x.pc))))) ∧
     (∀ m : MemArgs, s.hw.Issues who (memLen pre m) → encodingFault who ⟨false, true, false⟩ pre (memFields m) false = 0 →
       ends (.lea who pre m) (memLen pre m) [toReg m.ob.a 1 (x.address pre m)]))

/-- R104: while the core domain works, a CMOVcc or SEL of legal encoding that a context issues completes. Each queues
exactly one write, that of D, and no write of FL; FL stays as the results landed before it leave it. SEL's write is of S
where cc holds and of T otherwise. CMOVcc's is of S at the operation width where cc holds, and otherwise of D's own value
as it reads it, at that width, so D is unchanged and the write still counts for the landing of others. -/
def Obligations.ConditionalMoves : Prop :=
  ∀ (s : State) (who : Ctx) (pre : List Byte) (ob : Ob) (cc : BitVec 4), s.hw.act = true →
    (let x := s.hw.issued who
     (s.hw.Issues who (pre.length + 2) → encodingFault who ⟨true, false, false⟩ pre true false = 0 →
       Completes (.cmovcc who pre cc ob) s fun h => (h.hobOf who).fl = x.fl ∧
         Hw.Retired who (pre.length + 2) x
           [toLow (preWidth pre) ob.a 1 (if holds cc x.fl then x.read ob.b else x.read ob.a)] s.hw s.hw h) ∧
     (∀ t : BitVec 4, s.hw.Issues who (pre.length + 3) → encodingFault who ⟨false, false, false⟩ pre true false = 0 →
       Completes (.sel who pre ob t cc) s fun h => (h.hobOf who).fl = x.fl ∧
         Hw.Retired who (pre.length + 3) x [toReg ob.a 1 (if holds cc x.fl then x.read ob.b else x.read t)] s.hw s.hw h))

/-- R101, R118, R119, at width w of 8, 16 or 32, for d and b of that width and shift count n: each operation's value, its
carry or borrow, and its signed overflow, where it defines them. -/
def Obligations.AluValues : Prop :=
  ∀ (w d b n : Nat) (c : Bool), (w = 8 ∨ w = 16 ∨ w = 32) → d < 2 ^ w → b < 2 ^ w →
    (let sd := signed w d
     let sb := signed w b
     let spill : Int → Bool := fun x => decide (x < -(2 ^ (w - 1) : Nat) ∨ (2 ^ (w - 1) : Nat) ≤ x)
     let ci := if c then 1 else 0
     aluOut .mov w d b n c = ⟨b, none, none⟩ ∧
     aluOut .add w d b n c = ⟨(d + b) % 2 ^ w, some (decide (2 ^ w ≤ d + b)), some (spill (sd + sb))⟩ ∧
     aluOut .adc w d b n c = ⟨(d + b + ci) % 2 ^ w, some (decide (2 ^ w ≤ d + b + ci)), some (spill (sd + sb + ci))⟩ ∧
     aluOut .sub w d b n c = ⟨(d + 2 ^ w - b) % 2 ^ w, some (decide (d < b)), some (spill (sd - sb))⟩ ∧
     aluOut .cmp w d b n c = ⟨(d + 2 ^ w - b) % 2 ^ w, some (decide (d < b)), some (spill (sd - sb))⟩ ∧
     aluOut .sbc w d b n c = ⟨(d + 2 * 2 ^ w - b - ci) % 2 ^ w, some (decide (d < b + ci)), some (spill (sd - sb - ci))⟩ ∧
     aluOut .and w d b n c = ⟨d &&& b, none, none⟩ ∧ aluOut .tst w d b n c = ⟨d &&& b, none, none⟩ ∧
     aluOut .or w d b n c = ⟨d ||| b, none, none⟩ ∧ aluOut .xor w d b n c = ⟨d ^^^ b, none, none⟩ ∧
     aluOut .mul w d b n c = ⟨d * b % 2 ^ w, some (decide (2 ^ w ≤ d * b)), some (spill (sd * sb))⟩ ∧
     (∀ op, op = .shl ∨ op = .shr ∨ op = .sar ∨ op = .rol ∨ op = .ror → aluOut op w d b 0 c = ⟨d, none, some false⟩) ∧
     (0 < n → aluOut .shl w d b n c = ⟨d * 2 ^ n % 2 ^ w, some (decide (n ≤ w) && bit d (w - n)), some false⟩ ∧
       aluOut .shr w d b n c = ⟨d / 2 ^ n, some (decide (n ≤ w) && bit d (n - 1)), some false⟩ ∧
       (n < w → aluOut .sar w d b n c = ⟨(sd / (2 ^ n : Nat) % (2 ^ w : Nat)).toNat, some (bit d (n - 1)), some false⟩) ∧
       (w ≤ n → aluOut .sar w d b n c = ⟨if bit d (w - 1) then 2 ^ w - 1 else 0, some (bit d (w - 1)), some false⟩) ∧
       (let m := n % w
        let l := (d * 2 ^ m + d / 2 ^ (w - m)) % 2 ^ w
        let r := (d / 2 ^ m + d * 2 ^ (w - m)) % 2 ^ w
        aluOut .rol w d b n c = ⟨l, some (bit l 0), some false⟩ ∧ aluOut .ror w d b n c = ⟨r, some (bit r (w - 1)), some false⟩)))

/-- R103: MULH and MULHU give the high word of the 64-bit product. R119: a divide truncates toward zero, its remainder
with the dividend's sign; by 0 it gives all ones, or for a negative dividend of DIVS 1, and the dividend; the most
negative number by −1 gives itself, 0 and V. -/
def Obligations.HighWordsAndQuotients : Prop :=
  ∀ d b : Word,
    (mulHigh false d b).toNat = d.toNat * b.toNat / 2 ^ 32 ∧ (mulHigh true d b).toInt = d.toInt * b.toInt / 2 ^ 32 ∧
    divide false d 0 = (BitVec.allOnes 32, d, false) ∧
    divide true d 0 = (if d.toInt < 0 then 1 else BitVec.allOnes 32, d, false) ∧
    (b ≠ 0 → (divide false d b).1.toNat = d.toNat / b.toNat ∧ (divide false d b).2.1.toNat = d.toNat % b.toNat ∧
      (divide false d b).2.2 = false) ∧
    divide true 0x80000000 (BitVec.allOnes 32) = (0x80000000, 0, true) ∧
    (b ≠ 0 → ¬ (d = 0x80000000 ∧ b = BitVec.allOnes 32) → (divide true d b).1.toInt = d.toInt.tdiv b.toInt ∧
      (divide true d b).2.1.toInt = d.toInt.tmod b.toInt ∧ (divide true d b).2.2 = false)

/-- R93, R118: a result's flags land in FL as N and Z of the result and C and V where it defines them, the other bits
kept. R113, R115: an instruction finds landed, in issue order, exactly the results whose distance ends at it, the others
one position nearer; R116: an exception lands them all. -/
def Obligations.ResultsLand : Prop :=
  (∀ (x : Hob) (o : AluOut) (w dist : Nat), (w = 8 ∨ w = 16 ∨ w = 32) →
    (let y := Hw.Hob.landOne x (o.toFl w dist)
     flZ y.fl = decide (o.value % 2 ^ w = 0) ∧ flN y.fl = bit o.value (w - 1) ∧ flC y.fl = o.c.getD (flC x.fl) ∧
     flV y.fl = o.v.getD (flV x.fl) ∧ flDz y.fl = flDz x.fl ∧ flIe y.fl = flIe x.fl ∧
     y.g = x.g ∧ y.sp = x.sp ∧ y.pc = x.pc ∧ y.queue = x.queue)) ∧
  (∀ (x : Hob) (w : Nat) (n : BitVec 4) (dist : Nat) (v : Word), (w = 8 ∨ w = 16 ∨ w = 32) →
    (let y := Hw.Hob.landOne x (toLow w n dist v)
     (y.read n).toNat = (x.read n).toNat / 2 ^ w * 2 ^ w + v.toNat % 2 ^ w ∧ (∀ m, m ≠ n → y.read m = x.read m) ∧
     y.fl = x.fl ∧ y.sp = x.sp ∧ y.pc = x.pc ∧ y.queue = x.queue)) ∧
  (∀ x : Hob, x.issue.queue = (x.queue.filter fun p => 2 ≤ p.dist).map fun p => { p with dist := p.dist - 1 }) ∧
  (∀ x : Hob, (∀ p ∈ x.queue, 2 ≤ p.dist) → x.issue.g = x.g ∧ x.issue.fl = x.fl ∧ x.issue.sp = x.sp) ∧
  (∀ x : Hob, (∀ p ∈ x.queue, p.dist ≤ 1) →
    x.issue = { (x.queue.map fun p => { p with dist := 0 }).foldl Hw.Hob.landOne x with queue := [] }) ∧
  (∀ x : Hob, Hw.Hob.landAll x = { x.queue.foldl Hw.Hob.landOne x with queue := [] })

/-- R98, R102, R106, R111, R113: while the core domain works, an instruction of legal encoding that a context issues and
whose access succeeds completes: LD zero-extends and LDS sign-extends into D at distance 2, LDP fills a pair, ST and STP
store and queue no result; PUSH stores below SP and POP loads at SP, SP moving by 4, where SP is 4-aligned. `g` is what
the access leaves. -/
def Obligations.LoadsAndStores : Prop :=
  ∀ (s : State) (who : Ctx) (pre : List Byte) (m : MemArgs) (ob : Ob) (ev : AccessEvent) (g : Hw), s.hw.act = true →
    (∀ r, who = .reeve r → (g.reeve r).hob = (s.hw.reeve r).hob) →
    (let x := s.hw.issued who
     let w := preWidth pre
     let a := (x.address pre m).toNat
     let ends : Instr → Nat → List PendingWrite → Prop := fun i n res => Completes i s (Hw.Retired who n x res s.hw g)
     (s.hw.Issues who (memLen pre m) → encodingFault who ⟨true, true, true⟩ pre (memFields m) false = 0 →
       (∀ v, s.hw.load who (preSpace pre) a (w / 8) ev = .ok (v, g) →
         ends (.ld who pre m ev) (memLen pre m) [toReg m.ob.a 2 (BitVec.ofNat 32 v)] ∧
         ends (.lds who pre m ev) (memLen pre m) [toReg m.ob.a 2 (BitVec.ofInt 32 (signed w v))]) ∧
       (s.hw.store who (preSpace pre) a (w / 8) ((x.read m.ob.a).toNat % 2 ^ w) ev = .ok g →
         ends (.st who pre m ev) (memLen pre m) [])) ∧
     (s.hw.Issues who (memLen pre m) →
       encodingFault who ⟨false, true, false⟩ pre (memFields m && m.ob.a.toNat % 2 == 0) false = 0 →
       (∀ v, s.hw.load who .default a 8 ev = .ok (v, g) → ends (.ldp who pre m ev) (memLen pre m)
         [toReg m.ob.a 2 (BitVec.ofNat 32 v), toReg (m.ob.a + 1) 2 (BitVec.ofNat 32 (v / 2 ^ 32))]) ∧
       (s.hw.store who .default a 8 ((x.read m.ob.a).toNat + (x.read (m.ob.a + 1)).toNat * 2 ^ 32) ev = .ok g →
         ends (.stp who pre m ev) (memLen pre m) [])) ∧
     (s.hw.Issues who (pre.length + 2) → encodingFault who ⟨false, false, false⟩ pre (ob.b == 0) false = 0 → x.sp.toNat % 4 = 0 →
       (s.hw.store who .default (x.sp - 4).toNat 4 (x.read ob.a).toNat ev = .ok g →
         ends (.push who pre ob ev) (pre.length + 2) [toSp (x.sp - 4)]) ∧
       (∀ v, s.hw.load who .default x.sp.toNat 4 ev = .ok (v, g) →
         ends (.pop who pre ob ev) (pre.length + 2) [toReg ob.a 2 (BitVec.ofNat 32 v), toSp (x.sp + 4)])))

/-- R107, R108, R124: a misaligned access of the default space faults with cause 0x03, an access of IO or PRIV space that
is no word with 0x07 and a misaligned word of it with 0x03, a cottage's access beyond its default space with 0x04 and to
PRIV with 0x02. R137: a Reeve core reaches, through its windows, module memory, the register space and the boot ROM, whose
stores fault; a store changes exactly its bytes. -/
def Obligations.MemoryAccesses : Prop :=
  (∀ (h : Hw) (c a n v : Nat) (ev : AccessEvent), 0 < n →
    (a % n ≠ 0 → h.load (.cottage c) .default a n ev = .error (.fault 0x03) ∧
      h.store (.cottage c) .default a n v ev = .error (.fault 0x03)) ∧
    (a % n = 0 → 2 ^ 28 < a + n → h.load (.cottage c) .default a n ev = .error (.fault 0x04) ∧
      h.store (.cottage c) .default a n v ev = .error (.fault 0x04)) ∧
    (n ≠ 4 → h.load (.cottage c) .io a n ev = .error (.fault 0x07) ∧
      h.store (.cottage c) .io a n v ev = .error (.fault 0x07)) ∧
    (a % 4 ≠ 0 → h.load (.cottage c) .io a 4 ev = .error (.fault 0x03) ∧
      h.store (.cottage c) .io a 4 v ev = .error (.fault 0x03)) ∧
    h.load (.cottage c) .priv a n ev = .error (.fault 0x02) ∧ h.store (.cottage c) .priv a n v ev = .error (.fault 0x02) ∧
    (∀ d g, a % n = 0 → a + n ≤ 2 ^ 28 → ev = .hit → h.loadAt c a n = (.value d, g) →
      h.load (.cottage c) .default a n ev = .ok (d, g)) ∧
    (∀ f off g f' g', a % n = 0 → a + n ≤ 2 ^ 28 → ev = .hit → h.resolve c a true = (.at f off, g) →
      g.writeGate c f off (Hw.moveEntry c (a / 0x100000)) = (.ready f', g') →
      h.store (.cottage c) .default a n v ev = .ok (g'.wv (Hw.frameBase f' + off) n v))) ∧
  (∀ (h : Hw) (r a n v : Nat) (ev : AccessEvent), 0 < n →
    (a % n ≠ 0 → h.load (.reeve r) .default a n ev = .error (.fault 0x03) ∧
      h.store (.reeve r) .default a n v ev = .error (.fault 0x03)) ∧
    (n ≠ 4 → h.load (.reeve r) .io a n ev = .error (.fault 0x07) ∧
      h.store (.reeve r) .io a n v ev = .error (.fault 0x07) ∧ h.load (.reeve r) .priv a n ev = .error (.fault 0x07) ∧
      h.store (.reeve r) .priv a n v ev = .error (.fault 0x07)) ∧
    (a % 4 ≠ 0 → h.load (.reeve r) .io a 4 ev = .error (.fault 0x03) ∧
      h.store (.reeve r) .io a 4 v ev = .error (.fault 0x03) ∧ h.load (.reeve r) .priv a 4 ev = .error (.fault 0x03) ∧
      h.store (.reeve r) .priv a 4 v ev = .error (.fault 0x03)) ∧
    h.load (.reeve r) .vram a n ev = .error (.fault 0x01) ∧ h.store (.reeve r) .vram a n v ev = .error (.fault 0x01) ∧
    (h.flag F.RVE_WIN_EN 0 (16 * r + a / 0x10000000) = false → a % n = 0 →
      h.load (.reeve r) .default a n ev = .error (.fault 0x05) ∧ h.store (.reeve r) .default a n v ev = .error (.fault 0x05)) ∧
    (let m := h.fld F.RVE_WIN_BASE 0 (16 * r + a / 0x10000000) * 0x100000 + a % 0x10000000
     h.flag F.RVE_WIN_EN 0 (16 * r + a / 0x10000000) = true → a % n = 0 →
      ((m < 0x1000000000 ∨ 0x400000000000 ≤ m ∧ m < 0xC00000000000) → h.store (.reeve r) .default a n v ev = .ok (h.wv m n v) ∧
        (h.poisonedAt m n = false → ev ≠ .poisoned → h.load (.reeve r) .default a n ev = .ok (h.rv m n, h)) ∧
        (h.poisonedAt m n = true → h.load (.reeve r) .default a n ev = .error (.fault 0x08))) ∧
      (0x1100000000 ≤ m → m < 0x1100010000 → h.store (.reeve r) .default a n v ev = .error (.fault 0x06)))) ∧
  (∀ (h : Hw) (m n v b : Nat), (h.wv m n v).rb b =
    if m ≤ b ∧ b < m + n then BitVec.ofNat 8 (v / 256 ^ (b - m)) else h.rb b)

/-- R105, R111, R126, R130, R131: while the core domain works, a transfer of legal encoding outside a delay slot that a
context issues completes. A Bcc goes to the next instruction plus its offset where its condition holds; JMP and CALL to
their target; CALL pushes the return address; RET pops it. R122: RETI lands every pending write, pops PC, then FL without
its reserved bits. In B-mode (R130) the delay slot comes first, RETI and ERET apart; an annulling branch that is not taken
goes on after its slot. -/
def Obligations.ControlTransfers : Prop :=
  ∀ (s : State) (who : Ctx) (pre : List Byte) (ev : AccessEvent), s.hw.act = true → s.hw.inSlot who = false →
    (let x := s.hw.issued who
     let n := pre.length + 1 + immLen pre
     let next := (s.hw.hobOf who).pc + BitVec.ofNat 32 n
     let after := fun (j : JumpArgs) => (s.hw.hobOf who).pc + BitVec.ofNat 32 (jumpLen pre j)
     let target := fun (j : JumpArgs) => match j with
       | .rel off => after j + immSigned pre off
       | .reg ob => x.read ob.a
     (∀ cc off, s.hw.Issues who n → encodingFault who ⟨false, true, false⟩ pre true false = 0 →
       Completes (.bcc who pre cc off) s
         (Hw.Went who n x [] (if holds cc x.fl then some (next + immSigned pre off) else none) s.hw s.hw)) ∧
     (∀ r cc off, who = .reeve r → (s.hw.reeve r).bmode = true → s.hw.Issues who n →
       encodingFault who ⟨false, true, false⟩ pre true true = 0 →
       (holds cc x.fl = true → Completes (.bccAnnul who pre cc off) s
         (Hw.Went who n x [] (some (next + immSigned pre off)) s.hw s.hw)) ∧
       (∀ k, holds cc x.fl = false → s.hw.lengthAt r next = .ok k → Completes (.bccAnnul who pre cc off) s fun h =>
         (∃ d i l, h.reeve r = { s.hw.reeve r with
           hob := { x with pc := next + BitVec.ofNat 32 k, dirTable := d, indTable := i, hist := l },
           bmode := true, slot := none }) ∧ Hw.Beside who s.hw h)) ∧
     (∀ j, s.hw.Issues who (jumpLen pre j) → s.hw.jumpBad who pre j = 0 →
       Completes (.jmp who pre j) s (Hw.Went who (jumpLen pre j) x [] (some (target j)) s.hw s.hw) ∧
       (∀ back g, s.hw.afterSlot who (after j) = .ok back → x.sp.toNat % 4 = 0 →
         s.hw.store who .default (x.sp - 4).toNat 4 back.toNat ev = .ok g →
         (∀ r, who = .reeve r → (g.reeve r).hob = (s.hw.reeve r).hob) →
         Completes (.call who pre j ev) s (Hw.Went who (jumpLen pre j) x [toSp (x.sp - 4)] (some (target j)) s.hw g))) ∧
     (∀ g v, s.hw.Issues who (pre.length + 1) → encodingFault who ⟨false, false, false⟩ pre true false = 0 →
       (∀ r, who = .reeve r → (g.reeve r).hob = (s.hw.reeve r).hob) →
       (x.sp.toNat % 4 = 0 → s.hw.load who .default x.sp.toNat 4 ev = .ok (v, g) →
         Completes (.ret who pre ev) s
           (Hw.Went who (pre.length + 1) x [toSp (x.sp + 4)] (some (BitVec.ofNat 32 v)) s.hw g)) ∧
       (let y := Hw.Hob.landAll x
        ∀ k fl, y.sp.toNat % 4 = 0 → s.hw.load who .default y.sp.toNat 4 ev = .ok (v, k) →
          k.load who .default (y.sp + 4).toNat 4 .hit = .ok (fl, g) →
          Completes (.reti who pre ev) s
            (Hw.Returned who { y with sp := y.sp + 8, fl := BitVec.ofNat 32 fl &&& 0x9F } (BitVec.ofNat 32 v) g))))

/-- R93, R100, R110, R112, R123, R124, R128, R136: while the core domain works, an instruction of legal encoding that a
context issues completes, and one of a reserved opcode, which log entry 50 gives to the NOP command, faults with ILLEGAL
(R96). NOP and FENCE change nothing but PC; EI and DI set and clear IE at distance 1; FLUSHP empties the prediction
tables, BARP and UNBARP bar and unbar prediction. MOVS reads a special register at distance 2; it writes SP and FL at
distance 1, FL without its reserved bits, and a Reeve core's EPC, EXC and VEC at once. WFI leaves its core waiting, and
ERET returns to EPC with FL from SFL. WAITLINE of a line of the frame moves the beam to the line's start, or one cycle on
where the beam is past it (R19). -/
def Obligations.SystemInstructions : Prop :=
  ∀ (s : State) (who : Ctx) (pre : List Byte), s.hw.act = true →
    (let x := s.hw.issued who
     let n := pre.length + 1
     let plain := encodingFault who ⟨false, false, false⟩ pre true false = 0
     (s.hw.Issues who n → plain →
       Completes (.nop who pre 0x80) s (Hw.Retired who n x [] s.hw s.hw) ∧
       Completes (.fence who pre) s (Hw.Retired who n x [] s.hw s.hw) ∧
       Completes (.flushp who pre) s (Hw.Retired who n { x with dirTable := [], indTable := [], hist := 0 } [] s.hw s.hw) ∧
       Completes (.barp who pre) s (Hw.Retired who n { x with barred := true } [] s.hw s.hw) ∧
       Completes (.unbarp who pre) s (Hw.Retired who n { x with barred := false } [] s.hw s.hw) ∧
       Completes (.ei who pre) s (Hw.Retired who n x [toFl 1 0x80 0x80] s.hw s.hw) ∧
       Completes (.di who pre) s (Hw.Retired who n x [toFl 1 0x80 0] s.hw s.hw)) ∧
     (∀ opc : Byte, opc ≠ 0x80 → s.hw.Issues who n →
       (∀ c, who = .cottage c → CompletesAs (.nop who pre opc) s (s.hw.hobFault c 0x01 (s.hw.ctx c).hob.pc.toNat)) ∧
       (∀ r, who = .reeve r → CompletesAs (.nop who pre opc) s (s.hw.reeveEntry r 0x01))) ∧
     (∀ r, who = .reeve r → s.hw.Issues who n → encodingFault who ⟨false, false, false⟩ pre true true = 0 →
       (Completes (.wfi who pre) s fun h => (h.reeve r).waiting = true ∧
         Hw.Retired who n x [] s.hw (s.hw.setReeve r { s.hw.reeve r with waiting := true }) h) ∧
       (s.hw.inSlot who = false → Completes (.eret who pre) s
         (Hw.Returned who { Hw.Hob.landAll x with fl := BitVec.ofNat 32 (s.hw.fld F.RVE_EXC_SFL 0 r) &&& 0x9F }
           (BitVec.ofNat 32 (s.hw.fld F.RVE_EPC_EPC 0 r)) s.hw))) ∧
     (∀ ob : Ob, s.hw.Issues who (n + 1) →
       encodingFault who ⟨false, false, false⟩ pre (Hw.isSpecial ob.b) (Hw.isReeveSpecial ob.b) = 0 →
       (let gets := fun v => Completes (.movsRead who pre ob) s (Hw.Retired who (n + 1) x [toReg ob.a 2 v] s.hw s.hw)
        (ob.b = 0 → gets x.sp) ∧ (ob.b = 1 → gets x.fl) ∧
        (∀ c, who = .cottage c → (ob.b = 8 → gets (BitVec.ofNat 32 (Hw.stampBits (s.hw.cls c) (s.hw.stamp c)))) ∧
          (ob.b = 9 → gets (BitVec.ofNat 32 (s.hw.ctx c).frame))) ∧
        (∀ r, who = .reeve r → (ob.b = 8 → gets 0) ∧ (ob.b = 9 → gets 0) ∧
          (ob.b = 2 → gets (BitVec.ofNat 32 (s.hw.shown .RVE_EPC 0 r))) ∧
          (ob.b = 3 → gets (BitVec.ofNat 32 (s.hw.shown .RVE_EXC 0 r))) ∧
          (ob.b = 4 → gets (BitVec.ofNat 32 (s.hw.shown .RVE_VEC 0 r))) ∧
          (ob.b = 5 → gets (BitVec.ofNat 32 (s.hw.shown .RVE_CTL 0 r))))) ∧
       (let v := x.read ob.a
        let puts := fun res m => Completes (.movsWrite who pre ob) s (Hw.Retired who (n + 1) x res s.hw m)
        (ob.b = 0 → puts [toSp v] s.hw) ∧ (ob.b = 1 → puts [toFl 1 (BitVec.allOnes 32) (v &&& 0x9F)] s.hw) ∧
        (∀ r, who = .reeve r → (ob.b = 2 → puts [] (s.hw.storeFields .RVE_EPC 0 r v.toNat)) ∧
          (ob.b = 3 → puts [] (s.hw.storeFields .RVE_EXC 0 r v.toNat)) ∧
          (ob.b = 4 → puts [] (s.hw.storeFields .RVE_VEC 0 r v.toNat))))) ∧
     (∀ c (t : LineArgs), who = .cottage c →
       (let k := s.hw.cls c
        let len := match t with | .imm _ => n + 2 | .reg _ => n + 1
        let fields := match t with | .imm _ => true | .reg ob => ob.b == 0
        let line := match t with | .imm v => v.toNat | .reg ob => (x.read ob.a).toNat
        s.hw.Issues who len → encodingFault who ⟨false, false, false⟩ pre fields false = 0 → 1 ≤ line → line ≤ k.tl →
        0 < k.vcpl → (s.hw.ctx c).vc < k.vcpl * k.tl →
        Completes (.waitline who pre t) s fun h => Hw.Retired who len x [] s.hw s.hw h ∧
          ((s.hw.ctx c).vc / k.vcpl < line → line < k.tl → (h.ctx c).frame = (s.hw.ctx c).frame ∧ (h.ctx c).vc = line * k.vcpl) ∧
          (line ≤ (s.hw.ctx c).vc / k.vcpl → (s.hw.ctx c).vc + 1 < k.vcpl * k.tl →
            (h.ctx c).frame = (s.hw.ctx c).frame ∧ (h.ctx c).vc = (s.hw.ctx c).vc + 1) ∧
          ((s.hw.ctx c).vc / k.vcpl < line → line = k.tl → (h.ctx c).frame = (s.hw.ctx c).frame + 1 ∧ (h.ctx c).vc = 0))))

/-- R122, R401: a cottage that may issue and has a due source takes interrupt entry: pending writes land, FL and PC are
stored below SP, IE is cleared, SP is 8 lower and PC is CIB_VEC. R124, R396: a core that is not halted and has an
interrupt due takes cause 0x20: pending writes land, EPC holds the next instruction's address, SFL the FL, IE is cleared,
PC is RVE_VEC, and WFI's wait is over. -/
def Obligations.InterruptsOfContexts : Prop :=
  (∀ (s : State) (c : Nat) (g : Hw), s.hw.act = true → s.hw.canIssue c = true → s.hw.entryDue c = true →
    (let x := Hw.Hob.landAll (s.hw.ctx c).hob
     s.hw.entryStores c x = .ok g → Completes (.interruptEntry c) s fun h =>
       (h.ctx c).hob = { x with sp := x.sp - 8, fl := x.fl &&& ~~~0x80, pc := BitVec.ofNat 32 (g.ioWord c 0x9014) } ∧
       Hw.Beside (.cottage c) g h)) ∧
  (∀ (s : State) (c : Nat), (s.hw.canIssue c = false ∨ s.hw.entryDue c = false) → exec (.interruptEntry c) s = .next s) ∧
  (∀ (s : State) (r : Nat), s.hw.act = true → s.hw.flag F.RVE_STAT_HALTED 0 r = false → s.hw.reeveDue r = true →
    (let x := Hw.Hob.landAll (s.hw.reeve r).hob
     Completes (.reeveInterrupt r) s fun h =>
       h.fld F.RVE_EPC_EPC 0 r = x.pc.toNat ∧ h.fld F.RVE_EXC_CAUSE 0 r = 0x20 ∧ h.flag F.RVE_EXC_BD 0 r = false ∧
       h.fld F.RVE_EXC_SFL 0 r = x.fl.toNat % 2 ^ 8 ∧
       (h.reeve r).hob = { x with fl := x.fl &&& ~~~0x80, pc := BitVec.ofNat 32 (s.hw.fld F.RVE_VEC_VEC 0 r * 4) } ∧
       (h.reeve r).slot = none ∧ (h.reeve r).waiting = false ∧ (h.reeve r).bmode = (s.hw.reeve r).bmode ∧
       h.mem = s.hw.mem ∧ h.cots = s.hw.cots ∧ h.fns = s.hw.fns ∧ (∀ k, k ≠ r → h.reeve k = s.hw.reeve k))) ∧
  (∀ (s : State) (r : Nat), (s.hw.flag F.RVE_STAT_HALTED 0 r = true ∨ s.hw.reeveDue r = false) →
    exec (.reeveInterrupt r) s = .next s)

/-- R42, R44, R114: when the data of a load that missed return, when what a beam wait awaits is exact, or when the Tally's
fill is at most 448, the instruction that the wait holds completes with its own results; without a held instruction the
context goes to READY, or to HALT while a halt is pending (R34, R36). In any other state the command does nothing. R161: a
frame-start wait ends when the frame's last visible job has. -/
def Obligations.HeldInstructions : Prop :=
  (∀ (s : State) (c : Nat) (cmd : Instr) (h1 : Hw), s.hw.act = true →
    ((∃ l2, cmd = .missDataReturn c ∧ (s.hw.ctx c).st = .miss ∧ (s.hw.ctx c).wait = .cache l2 ∧
        h1 = if l2 then s.hw.tagReturn (.parish (c / 256)) 1 else s.hw) ∨
      (∃ pixels, cmd = .beamWaitEnd c ∧ (s.hw.ctx c).st = .bwait ∧ (s.hw.ctx c).wait = .beam pixels ∧
        s.hw.beamExact c pixels = true ∧ h1 = s.hw) ∨
      cmd = .tallyFullResume c ∧ (s.hw.ctx c).st = .dhold ∧ (s.hw.ctx c).wait = .tallyFull ∧ s.hw.tallyFill c ≤ 448 ∧ h1 = s.hw) →
    (∀ (i : Instr) (o : Op) (m : Hw) (x : Hob) (res : List PendingWrite) (p : Predicted) (k : Nat) (cy : Option Nat),
      (h1.ctx c).held = some i → h1.heldOp i = some o → o.bad = 0 →
      o.body (h1.resumed c) (h1.ctx c).hob ((h1.ctx c).hob.pc + BitVec.ofNat 32 o.len) = .ok ⟨m, x, res, .next, p, k, cy⟩ →
      Completes cmd s fun h =>
        (h.ctx c).hob = { x with pc := x.pc + BitVec.ofNat 32 o.len, queue := x.queue ++ res } ∧ Hw.Beside (.cottage c) m h) ∧
    ((h1.ctx c).held = none → Completes cmd s fun h =>
      (h.ctx c).st = (if h1.flag F.COT_CTL_HALT c then .halt else .ready) ∧ (h.ctx c).hob = (h1.ctx c).hob ∧
      Hw.Beside (.cottage c) h1 h)) ∧
  (∀ (s : State) (c : Nat),
    (((s.hw.ctx c).st ≠ .miss ∨ ∀ l2, (s.hw.ctx c).wait ≠ .cache l2) → exec (.missDataReturn c) s = .next s) ∧
    ((s.hw.ctx c).st ≠ .bwait → exec (.beamWaitEnd c) s = .next s) ∧
    (((s.hw.ctx c).st ≠ .dhold ∨ 448 < s.hw.tallyFill c) → exec (.tallyFullResume c) s = .next s)) ∧
  (∀ (s : State) (c : Nat), s.hw.act = true → (s.hw.ctx c).st = .bwait → (s.hw.ctx c).wait = .frameStart →
    s.hw.visibleDone c ((s.hw.ctx c).frame - 1) = true → Completes (.beamWaitEnd c) s fun h =>
      (h.ctx c).st = (if s.hw.flag F.COT_CTL_HALT c then .halt else .ready) ∧ (h.ctx c).hob = (s.hw.ctx c).hob ∧
      Hw.Beside (.cottage c) s.hw h)

/-- R136: HALT of a core, written by firmware, or by a PF while DBG_EN is 1, stops it at an instruction boundary outside a
delay slot, where HALTED shows it, and lets it go on. R131: BMODE is the core's own to write and takes effect at its next
taken transfer. R129: PRED_OFF can be written by any core. Nothing else of the core changes. -/
def Obligations.CoreControl : Prop :=
  ∀ (s : State) (ag : Agent) (r : Nat) (on : Bool), s.hw.act = true → s.hw.sees ag .RVE_CTL 0 r = true →
    (let kept := fun (h : Hw) => h.reeves = s.hw.reeves ∧ h.mem = s.hw.mem ∧ h.cots = s.hw.cots ∧ h.fns = s.hw.fns
     (((∃ q p, ag = .reeve q p) ∨ (∃ p, ag = .pf p) ∧ s.hw.flag F.RVE_CTL_DBG_EN 0 r = true) →
       s.hw.changesLocked ag .RVE_CTL 0 r (s.hw.rveCtlWith r 0 on) = false →
       Completes (.reeveHalt ag r on) s fun h =>
         h.flag F.RVE_CTL_HALT 0 r = on ∧ kept h ∧
         (on = true → (s.hw.reeve r).slot = none → h.flag F.RVE_STAT_HALTED 0 r = true) ∧
         (on = false → h.flag F.RVE_STAT_HALTED 0 r = false)) ∧
     (∀ p, ag = .reeve r p → s.hw.changesLocked ag .RVE_CTL 0 r (s.hw.rveCtlWith r 1 on) = false →
       Completes (.bmodeWrite ag r on) s fun h => h.flag F.RVE_CTL_BMODE 0 r = on ∧ kept h) ∧
     (∀ q p, ag = .reeve q p → s.hw.changesLocked ag .RVE_CTL 0 r (s.hw.rveCtlWith r 2 on) = false →
       Completes (.predOffWrite ag r on) s fun h => h.flag F.RVE_CTL_PRED_OFF 0 r = on ∧ kept h))

/-- A command of the Armature, staging, test or firmware bank that may run is taken up: its bank leaves IDLE for FETCH, with
nothing else of the block changed. Where another runs (R85, R171, R488, R502) it is answered BUSY, and so is one that names a
parish not calibrated (R482) or a test whose target is not drained or evacuated; a load or SWAP of an undrained parish is
answered NOT_DRAINED, a SWAP without an image and a SWITCH without one NOT_STAGED. A command so answered leaves the running
command and the state of its bank, every parish, cottage and frame as they were (R86). SWAP exchanges the banks of the named
parishes (R171). SWITCH waits for the ACK of Reeve 0; without one awaited, ACK and FORCE do nothing (R499). -/
def Obligations.BankCommands : Prop :=
  (∀ (s : State) (ag : Agent) (p mask vec : Nat), s.hw.act = true → s.hw.sees ag .ARM_CMD p 0 = true →
    vec < 2048 →
    let away := fun (i : Instr) (code : Nat) => Completes i s fun h => h.fld F.ARM_STAT_CODE p = code ∧ s.hw.Unbothered h ∧
      h.fld F.ARM_STAT_STATE p = s.hw.fld F.ARM_STAT_STATE p
    let taken := fun (i : Instr) (op m : Nat) => Completes i s fun h =>
      h.job = some ⟨0, p, op, m, vec, [], none, none, none, none⟩ ∧ h.fld F.ARM_STAT_STATE p = 1 ∧ s.hw.Untouched h
    (s.hw.job = none → taken (.validateParish ag p mask vec) 1 mask ∧ taken (.validateModule ag p vec) 3 0 ∧
      taken (.loadModule ag p vec) 4 0 ∧
      (s.hw.uncalibrated mask = false → (∀ n, n ∈ Hw.maskList mask → s.hw.drained n = true) →
        taken (.loadParish ag p mask vec) 2 mask) ∧
      (s.hw.uncalibrated mask = true → away (.loadParish ag p mask vec) 1) ∧
      (s.hw.uncalibrated mask = false → (∃ n, n ∈ Hw.maskList mask ∧ s.hw.drained n = false) →
        away (.loadParish ag p mask vec) 2)) ∧
    (s.hw.job ≠ none → away (.validateParish ag p mask vec) 1 ∧ away (.loadParish ag p mask vec) 1 ∧
      away (.validateModule ag p vec) 1 ∧ away (.loadModule ag p vec) 1)) ∧
  (∀ (s : State) (ag : Agent) (p mask vec : Nat), s.hw.act = true → s.hw.sees ag .LOM_STG_CMD p 0 = true →
    vec < 2048 →
    let away := fun (i : Instr) (code : Nat) => Completes i s fun h => h.fld F.LOM_STG_STAT_CODE p = code ∧ s.hw.Unbothered h ∧
      h.fld F.LOM_STG_STAT_STATE p = s.hw.fld F.LOM_STG_STAT_STATE p
    (s.hw.job ≠ none ∨ s.hw.uncalibrated mask = true → away (.stage ag p mask vec) 1 ∧ away (.swap ag p mask vec) 1) ∧
    (s.hw.job = none → s.hw.uncalibrated mask = false →
      (Completes (.stage ag p mask vec) s fun h =>
        h.job = some ⟨1, p, 1, mask, vec, [], none, none, none, none⟩ ∧ h.fld F.LOM_STG_STAT_STATE p = 1 ∧ s.hw.Untouched h) ∧
      ((∃ n, n ∈ Hw.maskList mask ∧ s.hw.drained n = false) → away (.swap ag p mask vec) 2) ∧
      ((∀ n, n ∈ Hw.maskList mask → s.hw.drained n = true) → (∃ n, n ∈ Hw.maskList mask ∧ (s.hw.parish n).shadow = none) →
        away (.swap ag p mask vec) 7) ∧
      ((∀ n, n ∈ Hw.maskList mask → s.hw.drained n = true ∧ (s.hw.parish n).shadow ≠ none) →
        Completes (.swap ag p mask vec) s fun h => h.fld F.LOM_STG_STAT_CODE p = 0 ∧
          (∀ n, n ∈ Hw.maskList mask →
            (h.parish n).active = (s.hw.parish n).shadow ∧ (h.parish n).shadow = (s.hw.parish n).active) ∧
          (∀ n, ¬ n ∈ Hw.maskList mask → h.parish n = s.hw.parish n) ∧ h.cots = s.hw.cots ∧ h.gran = s.hw.gran))) ∧
  (∀ (s : State) (ag : Agent) (p t vec : Nat), s.hw.act = true → s.hw.sees ag .PWR_TEST_CMD p 0 = true →
    vec < 2048 →
    let told := fun (i : Instr) (op : Nat) =>
      (s.hw.testMayRun op t = true → Completes i s fun h =>
        h.job = some ⟨2, p, op, t, vec, [], none, none, none, none⟩ ∧ h.fld F.PWR_TEST_STAT_STATE p = 1 ∧ s.hw.Untouched h) ∧
      (s.hw.testMayRun op t = false → Completes i s fun h => h.fld F.PWR_TEST_STAT_CODE p = 1 ∧ s.hw.Unbothered h ∧
        h.fld F.PWR_TEST_STAT_STATE p = s.hw.fld F.PWR_TEST_STAT_STATE p)
    (t < 16 → told (.larder ag p t vec) 1 ∧ told (.loom ag p t vec) 2) ∧
    (t < 64 → told (.hbmTest ag p t vec) 3 ∧ told (.retrain ag p t vec) 4)) ∧
  (∀ (s : State) (ag : Agent) (vec : Nat), s.hw.act = true → s.hw.sees ag .RVE_FW_CMD 0 0 = true →
    vec < 2048 →
    let p := Hw.writerPort ag
    let away := fun (i : Instr) (code : Nat) => Completes i s fun h => h.fld F.RVE_FW_STAT_CODE = code ∧ s.hw.Unbothered h ∧
      h.fld F.RVE_FW_STAT_STATE = s.hw.fld F.RVE_FW_STAT_STATE
    (s.hw.job ≠ none ∨ s.hw.awaitsAck = true → away (.fwStage ag vec) 1 ∧ away (.switch ag vec) 1) ∧
    (s.hw.job = none → s.hw.awaitsAck = false →
      (Completes (.fwStage ag vec) s fun h => h.job = some ⟨3, p, 1, 0, vec, [], none, none, none, none⟩ ∧
        h.fld F.RVE_FW_STAT_STATE = 1 ∧ s.hw.Untouched h) ∧
      (s.hw.inactiveFw = none → away (.switch ag vec) 7) ∧
      (s.hw.inactiveFw ≠ none → Completes (.switch ag vec) s fun h => h.job = none ∧ h.fld F.RVE_FW_STAT_STATE = 3 ∧
        h.flag F.RVE_FW_CTL_REQ = true ∧ h.boot = { s.hw.boot with switchBy := some (p, vec) } ∧
        h.reeves = s.hw.reeves ∧ h.par = s.hw.par ∧ h.cots = s.hw.cots ∧ h.mem = s.hw.mem)) ∧
    (s.hw.awaitsAck = false → CompletesAs (.force ag vec) s s.hw)) ∧
  (∀ (s : State) (view : Path), s.hw.act = true → s.hw.sees (.reeve 0 view) .RVE_FW_CTL 0 0 = true →
    s.hw.awaitsAck = false →
    CompletesAs (.ack (.reeve 0 view)) s s.hw)

/-- R84, R85: an Armature command in FETCH whose image is read goes to CHECK with it; one whose read fails completes with
CODE FETCH. CHECK ends with FORMAT or with what the operator's signature fails, or with the CODE, FAILMASK and REC of
every later check, and a load that passes goes to APPLY. R89: completion leaves the bank IDLE with CODE and ARM_FAIL, and
no command. R86: a command not in APPLY leaves every Armature, parish, cottage and frame. R87, R90: APPLY of a parish load
makes the image each named parish's Armature, records MODE, KEYSLOT and the measurement, and lets the Bell run from Bell
0, which falls at once under the fabric reference; R88: APPLY of a module load does so for the module. R171: STAGE puts a
checked image into the shadow banks of the named parishes. Which vector is signalled is the model's bankSignal. -/
def Obligations.ArmatureJobs : Prop :=
  (∀ (s : State) (how : ReadEnd) (j : BankJob), s.hw.act = true → s.hw.job = some j → j.kind = 0 →
    s.hw.fld F.ARM_STAT_STATE j.port = 1 →
    let img := s.hw.bankImage j.port (s.hw.fld F.ARM_SRC_SPACE j.port) (s.hw.fld F.ARM_SRC_ADDR j.port * 8)
      (min (s.hw.fld F.ARM_LEN_LEN j.port) 0x100008)
    (∀ b, how = .ok → img = some b → Completes (.armFetchDone how) s fun h =>
      h.job = some { j with image := b } ∧ h.fld F.ARM_STAT_STATE j.port = 2 ∧ h.par = s.hw.par ∧ h.cots = s.hw.cots ∧
      h.gran = s.hw.gran ∧ h.modArm = s.hw.modArm ∧ h.mem = s.hw.mem) ∧
    (how ≠ .ok ∨ img = none → Completes (.armFetchDone how) s fun h =>
      h.job = none ∧ h.fld F.ARM_STAT_STATE j.port = 0 ∧ h.fld F.ARM_STAT_CODE j.port = 3 ∧
      h.fld F.ARM_FAIL_REC j.port = 0xFFFF ∧ h.fld F.ARM_FAIL_FAILMASK j.port = 0 ∧
      h.par = s.hw.par ∧ h.cots = s.hw.cots ∧ h.gran = s.hw.gran ∧ h.modArm = s.hw.modArm)) ∧
  (∀ (s : State) (j : BankJob), s.hw.act = true → s.hw.job = some j → j.kind = 0 →
    s.hw.fld F.ARM_STAT_STATE j.port = 2 → j.result = none →
    let n := j.image.length
    let opened := openImage j.image (if j.op ≤ 2 then 2 else 1) (s.hw.fld F.ARM_LEN_LEN j.port)
    let signed := s.hw.checkOperator (fieldAt j.image 7 1) (j.image.take (n - 96)) (j.image.drop (n - 96))
    let ends := fun (j' : BankJob) (state : Nat) => Completes .armCheckDone s fun h =>
      h.job = some j' ∧ h.fld F.ARM_STAT_STATE j.port = state ∧ s.hw.Untouched h
    (opened = none → ends { j with result := some (4, 1, 0xFFFF) } 2) ∧
    (∀ recs, opened = some recs →
      (j.op ≤ 2 →
        let (good, f) := sortRecords 2 [] recs
        let (a, g) := s.hw.checkParish j.image good (Hw.maskList j.mask)
        if signed = 0 then ends { j with parish := some a, result := some (failResult (f ++ g)) }
          (if (failResult (f ++ g)).1 = 0 ∧ j.op % 2 = 0 then 3 else 2)
        else ends { j with result := some (signed, 2 ^ (signed - 4), 0xFFFF) } 2) ∧
      (¬ j.op ≤ 2 →
        let (good, f) := sortRecords 1 [] recs
        let (m, g) := s.hw.checkModule j.image good
        if signed = 0 then ends { j with modArm := some m, result := some (failResult (f ++ g)) }
          (if (failResult (f ++ g)).1 = 0 ∧ j.op % 2 = 0 then 3 else 2)
        else ends { j with result := some (signed, 2 ^ (signed - 4), 0xFFFF) } 2))) ∧
  (∀ (s : State) (pads : List Bool) (j : BankJob) (code mask rec : Nat), s.hw.act = true → s.hw.job = some j →
    j.kind = 0 → j.result = some (code, mask, rec) → code < 256 → mask < 2 ^ 16 → rec < 2 ^ 16 →
    let ends := fun (g : Hw) => Completes (.armComplete pads) s fun h =>
      h.job = none ∧ h.fld F.ARM_STAT_STATE j.port = 0 ∧ h.fld F.ARM_STAT_CODE j.port = code ∧
      h.fld F.ARM_FAIL_FAILMASK j.port = mask ∧ h.fld F.ARM_FAIL_REC j.port = rec ∧
      h.par = g.par ∧ h.cots = g.cots ∧ h.gran = g.gran ∧ h.modArm = g.modArm ∧
      ∀ i k, h.reg .ARM_PSTAT i k = g.reg .ARM_PSTAT i k ∧ h.reg .ARM_PHASH i k = g.reg .ARM_PHASH i k
    (s.hw.fld F.ARM_STAT_STATE j.port ≠ 3 → ends s.hw) ∧
    (s.hw.fld F.ARM_STAT_STATE j.port = 3 → ∀ a, j.parish = some a →
      ends (s.hw.each (Hw.maskList j.mask) fun h n => h.applyParish n a)) ∧
    (s.hw.fld F.ARM_STAT_STATE j.port = 3 → j.parish = none → ∀ m, j.modArm = some m →
      ∃ g : Hw, g.modArm = some m ∧ g.par = s.hw.par ∧ g.cots = s.hw.cots ∧ g.gran = s.hw.gran ∧ ends g)) ∧
  (∀ (h : Hw) (n : Nat) (a : ParishArm), ∃ x : Hw,
    (x.parish n).arm = some a ∧ (x.parish n).bellRuns = true ∧ (x.parish n).bell0Due = true ∧
    (x.parish n).srcInForce = a.src ∧ (x.parish n).rates = [⟨0, 0, bellPeriod a.preset a.period.toNat⟩] ∧
    x.fld F.ARM_PSTAT_MODE 0 n = a.mode % 16 ∧ x.fld F.ARM_PSTAT_KEYSLOT 0 n = a.keySlot % 8 ∧
    x.fld F.ARM_PHASH_HASH 0 n = Hw.hashWord a.digest % 2 ^ 32 ∧
    h.applyParish n a = if a.src = 0 then x.bell n else x) ∧
  (∀ (s : State) (how : ReadEnd) (j : BankJob), s.hw.act = true → s.hw.job = some j → j.kind = 1 →
    let len := s.hw.fld F.LOM_STG_LEN_LEN j.port
    let img := if how = .ok then s.hw.bankImage j.port (s.hw.fld F.LOM_STG_SRC_SPACE j.port)
      (s.hw.fld F.LOM_STG_SRC_ADDR j.port * 8) (min len 0x20000) else none
    let refused := fun (code : Nat) => Completes (.stageDone how) s fun h =>
      h.job = none ∧ h.fld F.LOM_STG_STAT_STATE j.port = 0 ∧ h.fld F.LOM_STG_STAT_CODE j.port = code ∧
      h.par = s.hw.par ∧ h.cots = s.hw.cots ∧ h.gran = s.hw.gran
    (img = none → refused 3) ∧
    (∀ b, img = some b → match s.hw.readUcode b len with
      | .error c => refused c
      | .ok u => Completes (.stageDone how) s fun h =>
        h.job = none ∧ h.fld F.LOM_STG_STAT_STATE j.port = 0 ∧ h.fld F.LOM_STG_STAT_CODE j.port = 0 ∧
        (∀ n, n ∈ Hw.maskList j.mask → h.parish n = { s.hw.parish n with shadow := some u }) ∧
        (∀ n, ¬ n ∈ Hw.maskList j.mask → h.parish n = s.hw.parish n) ∧ h.cots = s.hw.cots ∧ h.gran = s.hw.gran))

/-- R488: a test that ends leaves its bank IDLE with CODE OK or FAIL and its result; a LARDER test leaves the Larder's
words zero and sound and the parish at MODE 0 without an Armature, a LOOM test empty banks and MODE 0, a test of a channel
the channel zeroed. R499, R485: a staged firmware image goes into the inactive bank if it passes its checks, else the bank
holds nothing and CODE says why. On the ACK of Reeve 0, or on FORCE, while a SWITCH waits: the other bank is the active
one, Reeve 0 starts at its ENTRY in B-mode, the other cores stand reset and halted, and the parishes, cottages and frames
are as they were. -/
def Obligations.TestAndFirmwareJobs : Prop :=
  (∀ (s : State) (j : BankJob) (failing first : Nat), s.hw.act = true → s.hw.job = some j → j.kind = 2 →
    let told := fun (h : Hw) => h.job = none ∧ h.fld F.PWR_TEST_STAT_STATE j.port = 0 ∧
      h.fld F.PWR_TEST_STAT_CODE j.port = (if failing = 0 then 0 else 2) ∧
      h.fld F.PWR_TEST_RES_RES j.port = (if failing = 0 then 0 else failing % 2 ^ 32 * 2 ^ 32 + first % 2 ^ 32) ∧
      h.gran = s.hw.gran
    (j.op = 1 → Completes (.testDone failing first) s fun h => told h ∧ (h.parish j.mask).arm = none ∧
      (h.parish j.mask).larder = [] ∧ (h.parish j.mask).poisoned = [] ∧
      h.fld F.ARM_PSTAT_MODE 0 j.mask = 0 ∧ ∀ n, n ≠ j.mask → h.parish n = s.hw.parish n) ∧
    (j.op = 2 → Completes (.testDone failing first) s fun h => told h ∧ (h.parish j.mask).arm = none ∧
      (h.parish j.mask).active = none ∧ (h.parish j.mask).shadow = none ∧ h.fld F.ARM_PSTAT_MODE 0 j.mask = 0 ∧
      ∀ n, n ≠ j.mask → h.parish n = s.hw.parish n) ∧
    (2 < j.op → Completes (.testDone failing first) s fun h => told h ∧ h.par = s.hw.par ∧ h.cots = s.hw.cots ∧
      (failing = 0 → (∀ a, a / 0x40000000 = j.mask → h.rb a = 0) ∧
        (∀ a, a / 0x40000000 ≠ j.mask → h.rb a = s.hw.rb a)))) ∧
  (∀ (s : State) (how : ReadEnd) (j : BankJob), s.hw.act = true → s.hw.job = some j → j.kind = 3 →
    let len := s.hw.fld F.RVE_FW_LEN_LEN
    let img := if how = .ok then s.hw.bankImage (if j.port < 2 then j.port else 0) (s.hw.fld F.RVE_FW_SRC_SPACE)
      (s.hw.fld F.RVE_FW_SRC_ADDR * 8) (min len 0x1000000) else none
    let told := fun (h : Hw) (code : Nat) => h.job = none ∧ h.fld F.RVE_FW_STAT_STATE = 0 ∧ h.fld F.RVE_FW_STAT_CODE = code ∧
      h.par = s.hw.par ∧ h.cots = s.hw.cots ∧ h.gran = s.hw.gran ∧ h.reeves = s.hw.reeves
    (img = none → Completes (.fwStageDone how) s fun h => told h 3 ∧ h.inactiveFw = none) ∧
    (∀ b, img = some b → Completes (.fwStageDone how) s fun h =>
      match firmwareCheck b len with
      | 0 => told h 0 ∧ h.inactiveFw = some (firmwareOf b)
      | 1 => told h 4 ∧ h.inactiveFw = none
      | _ => told h 5 ∧ h.inactiveFw = none)) ∧
  (∀ (s : State) (entry version : Nat) (digest : BitVec 384), s.hw.act = true → s.hw.awaitsAck = true →
    s.hw.inactiveFw = some (entry, version, digest) →
    let switched := fun (h : Hw) => h.flag F.RVE_FW_CTL_ACTIVE = !s.hw.bankB ∧ h.flag F.RVE_FW_CTL_REQ = false ∧
      h.fld F.RVE_FW_STAT_STATE = 0 ∧ h.fld F.RVE_FW_STAT_CODE = 0 ∧
      h.reeve 0 = { Reeve.reset 0 with hob := { Hob.reset with pc := BitVec.ofNat 32 (0x10000000 + entry) } } ∧
      (∀ r, r ≠ 0 → h.reeve r = Reeve.reset r) ∧
      (∀ r, r < 4 → h.fld F.RVE_WIN_BASE 0 (16 * r + 1) = (if s.hw.bankB then 0x010 else 0x020)) ∧
      h.par = s.hw.par ∧ h.cots = s.hw.cots ∧ h.gran = s.hw.gran
    (∀ (ag : Agent) (vec : Nat), s.hw.sees ag .RVE_FW_CMD 0 0 = true → vec < 2048 → Completes (.force ag vec) s switched) ∧
    (∀ (view : Path), s.hw.sees (.reeve 0 view) .RVE_FW_CTL 0 0 = true → Completes (.ack (.reeve 0 view)) s switched))

/-- R484: GO takes a bank in WAIT to FETCH; after the other PF's GO it ends DONE with BUSY. A failed read, or one without
Bus Master Enable, goes back to WAIT with FETCH; the first bank to reach CHECK wins. Images refused go back to WAIT with
FORMAT, SIGNATURE or PATCH_FORMAT; others release the fabric: DONE with OK, the firmware of bank A measured (R485) and
Reeve 0 at its ENTRY in B-mode (R481). R172, R526: the field microcode, patched, goes into P0's active bank and the field
armature is applied to P0, owned by the PF of PA, or of PB where PA has not trained. R481: trained channels and calibrated
parishes show. R501: a write of ERR_INJ raises one Corrected record. -/
def Obligations.BootSequence : Prop :=
  (∀ (s : State) (p vec : Nat), s.hw.act = true → s.hw.fld F.PWR_BOOT_STAT_STATE p = 0 →
    (s.hw.boot.prov = false → s.hw.boot.winner = none → Completes (.go p vec) s fun h =>
      h.fld F.PWR_BOOT_STAT_STATE p = 1 ∧ h.fld F.PWR_BOOT_CMD_VEC p = vec % 4096 ∧ s.hw.Untouched h) ∧
    (s.hw.boot.prov = false → s.hw.boot.winner ≠ none → Completes (.go p vec) s fun h =>
      h.fld F.PWR_BOOT_STAT_STATE p = 3 ∧ h.fld F.PWR_BOOT_STAT_CODE p = 1 ∧ s.hw.Unbothered h) ∧
    (s.hw.boot.prov = true → Completes (.go p vec) s fun h =>
      h.fld F.PWR_BOOT_STAT_STATE p = 0 ∧ h.fld F.PWR_BOOT_STAT_CODE p = 1 ∧ s.hw.Unbothered h)) ∧
  (∀ (s : State) (p : Nat) (how : ReadEnd), s.hw.act = true → s.hw.fld F.PWR_BOOT_STAT_STATE p = 1 →
    let f := s.hw.fn (129 * p)
    (how ≠ .ok ∨ f.bme = false ∨ f.d3 = true → Completes (.bootFetchDone p how) s fun h =>
      h.fld F.PWR_BOOT_STAT_STATE p = 0 ∧ h.fld F.PWR_BOOT_STAT_CODE p = 2 ∧ s.hw.Unbothered h) ∧
    (how = .ok → f.bme = true → f.d3 = false → s.hw.boot.winner ≠ none → Completes (.bootFetchDone p how) s fun h =>
      h.fld F.PWR_BOOT_STAT_STATE p = 3 ∧ h.fld F.PWR_BOOT_STAT_CODE p = 1 ∧ s.hw.Unbothered h) ∧
    (how = .ok → f.bme = true → f.d3 = false → s.hw.boot.winner = none → Completes (.bootFetchDone p how) s fun h =>
      h.fld F.PWR_BOOT_STAT_STATE p = 2 ∧ h.boot = { s.hw.boot with
        winner := some p,
        image := s.hw.rbs (Hw.portBase p + s.hw.fld F.PWR_BOOT_FW_ADDR p) (min (s.hw.fld F.PWR_BOOT_FWLEN_LEN p) 0x1000001),
        patchArea := s.hw.rbs (Hw.portBase p + s.hw.fld F.PWR_BOOT_PATCH_ADDR p) (s.hw.fld F.PWR_BOOT_PLEN_LEN p) } ∧
      h.mem = s.hw.mem)) ∧
  (∀ (s : State) (p : Nat), s.hw.act = true → s.hw.fld F.PWR_BOOT_STAT_STATE p = 2 →
    let check := firmwareCheck s.hw.boot.image (s.hw.fld F.PWR_BOOT_FWLEN_LEN p)
    let area := cutPatches s.hw.boot.patchArea.length s.hw.boot.patchArea
    let refused := fun (code : Nat) => Completes (.bootCheckDone p) s fun h => h.fld F.PWR_BOOT_STAT_STATE p = 0 ∧
      h.fld F.PWR_BOOT_STAT_CODE p = code ∧ h.boot.winner = none ∧ h.boot.stage = s.hw.boot.stage ∧ h.reeves = s.hw.reeves
    if check = 1 then refused 3
    else if check = 2 then refused 4
    else match area with
      | none => refused 5
      | some l => Completes (.bootCheckDone p) s fun h =>
        h.fld F.PWR_BOOT_STAT_STATE p = 3 ∧ h.fld F.PWR_BOOT_STAT_CODE p = 0 ∧ h.boot.stage = .released ∧
        h.boot.fwA = some (firmwareOf s.hw.boot.image) ∧ h.boot.fwMeasured = (firmwareOf s.hw.boot.image).2.2 ∧
        h.boot.patches = (acceptPatches 0 l []).map (·.2.1) ∧ (h.reeve 0).bmode = true ∧
        (h.reeve 0).hob.pc = BitVec.ofNat 32 (0x10000000 + (firmwareOf s.hw.boot.image).1) ∧
        (∀ r, r < 4 → h.fld F.RVE_WIN_BASE 0 (16 * r + 1) = 0x010) ∧ h.cots = s.hw.cots ∧ h.par = s.hw.par) ∧
  (∀ (s : State), s.hw.act = true → s.hw.boot.stage = .released → s.hw.boot.fieldLoaded = false →
    ∃ g : Hw, g.boot = { s.hw.boot with fieldLoaded := true } ∧
      (g.parish 0).active = some (Hw.patchImage s.hw.boot.patches
        { hash := Config.fieldUcHash, ver := 0xF01, signer := 0, level := 0, words := Config.fieldUcWords }) ∧
      (∀ n, n ≠ 0 → g.parish n = s.hw.parish n) ∧ g.cots = s.hw.cots ∧ g.mem = s.hw.mem ∧
      CompletesAs .fieldArmatureApply s
        (g.applyParish 0 (Hw.fieldArmature (if (s.hw.port 0).up then 0 else 129)))) ∧
  (∀ (s : State) (q : Nat), s.hw.act = true → q < 64 → Completes (.hbmTrained q) s fun h =>
    (∀ k, k < 64 → bit (h.fld F.PWR_HBMTR_CHAN) k = (k == q || bit (s.hw.fld F.PWR_HBMTR_CHAN) k)) ∧
    (h.fld F.PWR_HBMTR_CHAN = 2 ^ 64 - 1 → h.fld F.PWR_CAL_HBM = 1) ∧ s.hw.Untouched h) ∧
  (∀ (s : State) (n : Nat), s.hw.act = true → n < 16 → Completes (.parishCalibrated n) s fun h =>
    (∀ k, k < 16 → bit (h.fld F.PWR_CAL_PARISH) k = (k == n || bit (s.hw.fld F.PWR_CAL_PARISH) k)) ∧ s.hw.Untouched h) ∧
  (∀ (s : State) (ag : Agent) (v : Word), s.hw.act = true → s.hw.sees ag .ERR_INJ 0 0 = true →
    CompletesAs (.injected ag v) s (s.hw.raiseModule 0 .ERR 0x01 v.toNat))

/-- R507: the standby domain ready, the module stands in module reset, its parishes with no more than their Larder's
words, or where PERST# of a port is already released counts that release; a fall of VIN below 5.2 V ends every domain.
R478: below 6.0 V the core domain loses every register and every byte of the module's memory; fabric memory stays. R481:
the first release of PERST# ends module reset: Reeve 0 runs in the boot window, HBM channel 0 is trained and its reserved
frames read zero, Reeve 1 to 3 show halted. R496, R497: a critical temperature makes the module fatal, and 1 ms later the
core rails go. -/
def Obligations.PowerRails : Prop :=
  (∀ (s : State) (v : Nat) (a b : Bool), s.hw.power.standby = false → Completes (.standbyReady v a b) s fun h =>
    h.power = { Power.reset with vin := v } ∧ h.sbd = Sideband.reset ∧ h.cots = [] ∧ h.par = s.hw.larderKept ∧
    h.boot.stage = (if a || b then .window else .held) ∧ (h.port 0).perst = !a ∧ (h.port 1).perst = !b) ∧
  (∀ (s : State) (v : Nat), v < 520 → Completes (.uvloFall v) s fun h =>
    h.power.standby = false ∧ h.power.coreOn = false ∧ h.regs = [] ∧ h.cots = [] ∧ h.par = [] ∧
    ∀ a, h.rb a = if a < Hw.fabricFirst then 0 else s.hw.rb a) ∧
  (∀ (s : State) (v : Nat), v < 600 → s.hw.power.standby = true → Completes (.powerLoss v) s fun h =>
    h.power.standby = true ∧ h.power.coreOn = false ∧ h.power.vin = v ∧ h.sbd.alert = true ∧ h.cots = [] ∧ h.par = [] ∧
    ∀ a, h.rb a = if a < Hw.fabricFirst then 0 else s.hw.rb a) ∧
  (∀ (s : State), (s.hw.power.critPending = true → Completes .coreRailRemoval s fun h =>
      h.power.standby = s.hw.power.standby ∧ h.power.coreOn = false ∧ h.power.critPending = false ∧ h.regs = [] ∧
      h.cots = [] ∧ h.sbd = s.hw.sbd) ∧
    (s.hw.power.critPending = false → exec .coreRailRemoval s = .next s)) ∧
  (∀ (s : State) (a b : Bool), s.hw.boot.stage = .held → (a || b) = true → s.hw.power.standby = true →
    s.hw.power.coreOn = true → Completes (.perstRelease a b) s fun h =>
      h.boot.stage = .window ∧ h.fld F.PWR_HBMTR_CHAN = 1 ∧ (∀ r, r = 1 ∨ r = 2 ∨ r = 3 → h.flag F.RVE_STAT_HALTED 0 r = true) ∧
      (∀ p, p < 0x4000000 → h.rb p = 0) ∧ (h.port 0).perst = ((s.hw.port 0).perst && !a) ∧
      (h.port 1).perst = ((s.hw.port 1).perst && !b) ∧ h.power = s.hw.power ∧ h.sbd = s.hw.sbd) ∧
  (∀ (s : State) (k t : Nat), s.hw.power.standby = true → s.hw.power.coreOn = true → s.hw.boot.stage ≠ .held →
    Hw.critical k t = true → Completes (.thermCrit k t) s fun h =>
      h.power.critPending = true ∧ h.power.coreOn = true ∧ (s.hw.flag F.ERR_STAT_FATAL = false → h.flag F.ERR_STAT_FATAL = true))

/-- R473: VIN low, or well again, sets or clears LOWVIN; R505: overvoltage sets its sideband bit alone. R475, R476: a
source of PWRFAIL that becomes active raises it, WARN follows both sources, and no parish, cottage or frame is touched.
R497: a sensor shows its temperature. R472: CCLK runs full speed when nothing asks for reduced service. R474: a permitted
write of SLEEP puts the module to sleep with every bank in retention and every HBM stack in self-refresh, and a wake event
ends it. Which bits of STATUS_INPUT stand for what is the model's (log entry 40). -/
def Obligations.PowerWarnings : Prop :=
  (∀ (s : State) (v : Nat), v < 1080 → s.hw.power.standby = true → s.hw.flag F.PWR_STAT_LOWVIN = false →
    Completes (.lowvinSet v) s fun h => h.flag F.PWR_STAT_LOWVIN = true ∧ h.power = { s.hw.power with vin := v } ∧
      h.sbd.statusInput = s.hw.sbd.statusInput ||| inputLow ∧ h.sbd.alert = true ∧ h.par = s.hw.par ∧
      h.cots = s.hw.cots ∧ h.gran = s.hw.gran) ∧
  (∀ (s : State) (v : Nat), 1120 ≤ v → s.hw.power.standby = true → s.hw.flag F.PWR_STAT_LOWVIN = true →
    Completes (.lowvinClear v) s fun h => h.flag F.PWR_STAT_LOWVIN = false ∧ h.power = { s.hw.power with vin := v } ∧
      h.sbd = s.hw.sbd ∧ h.par = s.hw.par ∧ h.cots = s.hw.cots ∧ h.gran = s.hw.gran) ∧
  (∀ (s : State) (v : Nat), 6000 < v → s.hw.power.standby = true →
    Completes (.ovWarning v) s fun h => h.sbd.statusInput = s.hw.sbd.statusInput ||| inputOv ∧ h.sbd.alert = true ∧
      h.power = { s.hw.power with vin := v } ∧ h.mem = s.hw.mem ∧ h.fns = s.hw.fns ∧ h.par = s.hw.par ∧ h.cots = s.hw.cots ∧
      (∀ n i j, n ≠ .PWR_SENSE → h.reg n i j = s.hw.reg n i j)) ∧
  (∀ (s : State) (pin : Bool) (v mean : Nat), s.hw.power.standby = true →
    let droop := decide (v * 100 < mean * (100 - s.hw.fld F.PWR_DROOP_PCT)) || decide (v < s.hw.fld F.PWR_DROOP_ABS)
    let rises := (pin && !s.hw.power.warnPin) || (droop && !s.hw.power.droop)
    Completes (.pwrfail pin v mean) s fun h =>
      h.flag F.PWR_STAT_WARN = (pin || droop) ∧ h.power = { s.hw.power with vin := v, warnPin := pin, droop := droop } ∧
      h.par = s.hw.par ∧ h.cots = s.hw.cots ∧ h.gran = s.hw.gran ∧
      (rises = true → h.flag F.PWR_STAT_PWRFAIL = true ∧ h.sbd.statusInput = s.hw.sbd.statusInput ||| inputPwrfail ∧
        h.sbd.alert = true) ∧
      (rises = false → h.flag F.PWR_STAT_PWRFAIL = s.hw.flag F.PWR_STAT_PWRFAIL ∧ h.sbd = s.hw.sbd)) ∧
  (∀ (s : State) (k t : Nat), s.hw.power.standby = true → k = 1 ∨ k = 2 ∨ k = 3 → t < 256 →
    Completes (.tempWarn k t) s fun h =>
      (if k = 1 then h.fld F.PWR_SENSE_HOTSPOT else if k = 2 then h.fld F.PWR_SENSE_HBMT else h.fld F.PWR_SENSE_INLET) = t ∧
      h.power.coreOn = s.hw.power.coreOn ∧ h.boot = s.hw.boot) ∧
  (∀ (s : State), s.hw.power.standby = true → s.hw.power.coreOn = true → s.hw.power.asleep = false →
    Completes .cclkSwitch s fun h => h.power = { s.hw.power with fullSpeed := !s.hw.reducedService } ∧
      h.flag F.PWR_STAT_RS = s.hw.reducedService ∧ h.par = s.hw.par ∧ h.cots = s.hw.cots ∧ h.mem = s.hw.mem) ∧
  (∀ (s : State) (ag : Agent) (rs : Bool), s.hw.act = true → s.hw.sees ag .PWR_CTL 0 0 = true → s.hw.maySleep = true →
    (ag = .pf 0 ∨ ∃ r path, ag = .reeve r path) → Completes (.sleep ag rs) s fun h =>
      h.power = { s.hw.power with asleep := true } ∧ h.flag F.PWR_STAT_SLEEP = true ∧ h.flag F.PWR_CTL_FORCE_RS = rs ∧
      (∀ n, n < 16 → h.reg .LRD_RETSTAT n 0 = BitVec.allOnes 64) ∧ h.fld F.HBM_STAT_SR = 0xF ∧ h.cots = s.hw.cots ∧
      h.mem = s.hw.mem) ∧
  (∀ (s : State), s.hw.power.asleep = true → Completes .sleepExit s fun h =>
    h.power = { s.hw.power with asleep := false } ∧ h.flag F.PWR_STAT_SLEEP = false ∧ h.flag F.PWR_CTL_SLEEP = false ∧
    h.par = s.hw.par ∧ h.cots = s.hw.cots ∧ h.mem = s.hw.mem)

/-- REGISTER_WRITE, an access to a register by its address, while the core domain works. A function whose BARs do not answer
gets Unsupported Request (R442). Otherwise an aligned word at a register of 32 bits without a rule of its own, which the
agent sees, whose locked fields it leaves, stores every field by its access type (R5) and changes no other register and
nothing else of the block; 8 bytes do so at such a register of 64 bits, and 4 bytes at half of one act on that half alone,
where the other half carries what it holds. Where a locked field would change, the write is dropped and reported (R6, R523).
An offset in the agent's view that holds no register takes a write without effect (R11), and one outside it one record of a
dropped write (R448). An access of another size or alignment (R9) stores nothing: it leaves its record, and a read of one
answers all ones. At the addresses of COT_SP, COT_IN_VAL, COM_RING_RET and POR_S1_CTL a word is the command of its row.
TLY_HWM then shows the written mark, or the present fill where that is higher (R63). An aligned read of a word of
such a register answers a function with it, one where it sees no register with 0 (R11), and changes nothing else. -/
def Obligations.RegisterWrites : Prop :=
  ∀ (ag : Agent) (view off bytes : Nat) (v : DWord) (s : State), s.hw.act = true →
    let h := s.hw
    let w := Hw.viewOf ag view
    let stores (q : Place) (x : Nat) (g : Hw) : Prop :=
      (∀ d ∈ q.name.desc.fields, g.fld ⟨q.name, d.hi, d.lo⟩ q.bank q.idx =
        d.acc.store (h.fld ⟨q.name, d.hi, d.lo⟩ q.bank q.idx) (bits x d.hi d.lo)) ∧
      (∀ n i j, ¬(n = q.name ∧ i = q.bank ∧ j = q.idx) → g.reg n i j = h.reg n i j) ∧ g.Untouched h
    let plain32 : List RegName := [.PWR_EVT, .PWR_BOOT_FWLEN, .ARM_LEN, .LOM_STG_LEN, .CHR_TDM_STAT, .HBM_URG_THR,
      .HBM_URG_STAT, .PLN_PITCH, .LAN_WAKE, .BEL_STAT, .ARB_URG_THR, .PIC_TGT, .PIC_MSIX, .PIC_VWIN, .COT_ARITH]
    let plain64 : List RegName := [.PWR_BOOT_FW, .ARM_SRC, .LOM_STG_SRC, .GRN_ARG0, .PLN_RECT, .PLN_BASE]
    let sameAs (i : Instr) : Prop := ∃ t, exec (.registerWrite ag view off 4 (.write v)) s = .next t ∧ exec i s = .next t
    (∀ o, h.reaches ag = false → Hw.agentFn ag = some o → CompletesAs (.registerWrite ag view off bytes (.write v)) s
      { h with out := .aer (o / 129) 2 :: .ur (o / 129) :: h.out }) ∧
    (h.reaches ag = true →
      (∀ q, h.regAt w off = some q → off % 4 = 0 →
        (h.sees ag q.name q.bank q.idx = true →
          (q.name ∈ plain32 → h.changesLocked ag q.name q.bank q.idx (v.toNat % 2 ^ 32) = false →
            Completes (.registerWrite ag view off 4 (.write v)) s (stores q (v.toNat % 2 ^ 32))) ∧
          (q.name ∈ plain32 → h.changesLocked ag q.name q.bank q.idx (v.toNat % 2 ^ 32) = true →
            CompletesAs (.registerWrite ag view off 4 (.write v)) s (h.refuse ag q.name q.bank q.idx)) ∧
          (q.name ∈ plain64 → off % 8 = 0 → Completes (.registerWrite ag view off 8 (.write v)) s (stores q v.toNat)) ∧
          (q.name ∈ plain64 → Completes (.registerWrite ag view off 4 (.write v)) s
            (stores q (setBits (h.reg q.name q.bank q.idx).toNat (8 * q.byte + 31) (8 * q.byte) v.toNat)))) ∧
        (q.name = .TLY_HWM → h.sees ag .TLY_HWM q.bank 0 = true → h.tallyFill q.bank ≤ 512 →
          Completes (.registerWrite ag view off 4 (.write v)) s fun g =>
            g.fld F.TLY_HWM_HWM q.bank = max (v.toNat % 2 ^ 10) (h.tallyFill q.bank) ∧
            (∀ n i j, ¬(n = .TLY_HWM ∧ i = q.bank ∧ j = 0) → g.reg n i j = h.reg n i j) ∧ g.Untouched h) ∧
        (q.name = .COT_SP → sameAs (.cotContextWrite ag q.bank 16 (v.setWidth 32))) ∧
        (q.name = .COT_IN_VAL → sameAs (.inputPush ag q.bank (v.setWidth 32))) ∧
        (q.name = .COM_RING_RET → sameAs (.comRingRet ag q.bank q.idx (v.setWidth 32))) ∧
        (q.name = .POR_S1_CTL → sameAs (.porS1CtlWrite ag q.idx (v.setWidth 32)))) ∧
      (h.regAt w off = none → off % 4 = 0 → CompletesAs (.registerWrite ag view off 4 (.write v)) s
        (if h.unreported ag ∨ h.holeInView ag off = true then h
          else h.holeRecord off 0xF0 (Hw.agentBits ag * 2 ^ 48 + off % 2 ^ 32))) ∧
      (¬(bytes = 4 ∧ off % 4 = 0) → ¬(bytes = 8 ∧ off % 8 = 0) → h.unreported ag = false →
        let detail := Hw.agentBits ag * 2 ^ 48 + bytes % 256 * 2 ^ 40 + off % 2 ^ 32
        let ones := 2 ^ (8 * bytes) - 1
        (∀ q, h.regAt w (off / 4 * 4) = some q → h.sees ag q.name q.bank q.idx = true →
          let g := h.dropRecord q.name q.bank q.idx 0xF1 detail
          CompletesAs (.registerWrite ag view off bytes (.write v)) s g ∧
          CompletesAs (.registerWrite ag view off bytes .read) s (g.answer ag ones)) ∧
        (h.regAt w (off / 4 * 4) = none →
          let g := h.holeRecord off 0xF1 detail
          CompletesAs (.registerWrite ag view off bytes (.write v)) s g ∧
          CompletesAs (.registerWrite ag view off bytes .read) s (g.answer ag ones))) ∧
      (∀ o, Hw.agentFn ag = some o → off % 4 = 0 →
        let told (x : Nat) := CompletesAs (.registerWrite ag view off 4 .read) s
          { h with out := .readData o (BitVec.ofNat 64 x) :: h.out }
        (h.regAt w off = none → told 0) ∧
        (∀ q, h.regAt w off = some q →
          (q.name ∈ plain32 ∨ q.name ∈ plain64 → h.sees ag q.name q.bank q.idx = true →
            told ((h.reg q.name q.bank q.idx).toNat / 2 ^ (8 * q.byte) % 2 ^ 32)) ∧
          (h.sees ag q.name q.bank q.idx = false → told 0))))
end

