-- ==== Sys2Proof/Laws/Sparse.lean ====
section
/-!
SUPPORT. Laws of the sparse tables: reading after writing, and the canonical form. -/

namespace Sys2Proof.Machine

section
variable {κ α : Type} [DecidableEq κ]

@[simp] theorem Table.get_nil (d : α) (k : κ) : Table.get d ([] : Table κ α) k = d := rfl

theorem Table.get_put_same (lt : κ → κ → Bool) (d : α) (m : Table κ α) (k : κ) (v : α) :
    (Table.put lt m k v).get d k = v := by
  induction m with
  | nil => simp [Table.put, Table.get]
  | cons e m ih =>
    obtain ⟨k', v'⟩ := e
    simp only [Table.put]
    split
    · simp [Table.get]
    · split <;> simp_all [Table.get]

theorem Table.get_put_ne (lt : κ → κ → Bool) (d : α) (m : Table κ α) (k k' : κ) (v : α) (h : k ≠ k') :
    (Table.put lt m k v).get d k' = m.get d k' := by
  induction m with
  | nil => simp [Table.put, Table.get, h]
  | cons e m ih =>
    obtain ⟨k₂, v₂⟩ := e
    simp only [Table.put]
    split
    · simp_all [Table.get]
    · split <;> simp_all [Table.get]

theorem Table.get_erase_same (d : α) (m : Table κ α) (k : κ) : (m.erase k).get d k = d := by
  induction m with
  | nil => rfl
  | cons e m ih =>
    obtain ⟨k', v'⟩ := e
    by_cases h : k' = k <;> simp_all [Table.erase, Table.get]

theorem Table.get_erase_ne (d : α) (m : Table κ α) (k k' : κ) (h : k ≠ k') :
    (m.erase k).get d k' = m.get d k' := by
  induction m with
  | nil => rfl
  | cons e m ih =>
    obtain ⟨k₂, v₂⟩ := e
    by_cases h₂ : k₂ = k <;> simp_all [Table.erase, Table.get]

variable [DecidableEq α]

/-- A read after a write of the same key gives the value written. -/
@[simp] theorem Table.get_set_same (lt : κ → κ → Bool) (d : α) (m : Table κ α) (k : κ) (v : α) :
    (Table.set lt d m k v).get d k = v := by
  unfold Table.set
  split
  · simp_all [Table.get_erase_same]
  · exact Table.get_put_same ..

/-- A write leaves every other key alone, whatever an unlisted key reads as. -/
theorem Table.get_set_ne (lt : κ → κ → Bool) (d d' : α) (m : Table κ α) (k k' : κ) (v : α) (h : k ≠ k') :
    (Table.set lt d m k v).get d' k' = m.get d' k' := by
  unfold Table.set
  split
  · exact Table.get_erase_ne _ _ _ _ h
  · exact Table.get_put_ne _ _ _ _ _ _ h

@[simp] theorem NTable.get_set_same (d : α) (m : NTable α) (k : Nat) (v : α) : (NTable.set d m k v).get d k = v :=
  Table.get_set_same ..

theorem NTable.get_set_ne (d d' : α) (m : NTable α) (k k' : Nat) (v : α) (h : k ≠ k') :
    (NTable.set d m k v).get d' k' = m.get d' k' := Table.get_set_ne _ _ _ _ _ _ _ h

/-- A read after a write of any key. -/
theorem NTable.get_set (d : α) (m : NTable α) (k k' : Nat) (v : α) :
    (NTable.set d m k v).get d k' = if k = k' then v else m.get d k' := by
  split
  · subst_vars; simp
  · exact NTable.get_set_ne _ _ _ _ _ _ ‹_›

/-! ### The canonical form -/

omit [DecidableEq κ] in
theorem Table.wf_filter (lt : κ → κ → Bool) (dflt : κ → α) (p : κ × α → Bool) (m : Table κ α)
    (h : Table.wf lt dflt m = true) : Table.wf lt dflt (m.filter p) = true := by
  induction m with
  | nil => rfl
  | cons e m ih =>
    obtain ⟨k, v⟩ := e
    simp only [Table.wf, Bool.and_eq_true, List.all_eq_true] at h
    simp only [List.filter_cons]
    split
    · simp only [Table.wf, Bool.and_eq_true, List.all_eq_true, List.mem_filter]
      exact ⟨⟨fun x hx => h.1.1 x hx.1, h.1.2⟩, ih h.2⟩
    · exact ih h.2

omit [DecidableEq α] in
theorem Table.all_put (lt : κ → κ → Bool) (m : Table κ α) (k : κ) (v : α) (p : κ → Bool)
    (h : m.all (fun e => p e.1) = true) (hk : p k = true) : (Table.put lt m k v).all (fun e => p e.1) = true := by
  induction m with
  | nil => simp [Table.put, hk]
  | cons e m ih =>
    obtain ⟨k', v'⟩ := e
    simp only [List.all_cons, Bool.and_eq_true] at h
    simp only [Table.put]
    split
    · simp [hk, h.2]
    · split
      · simp [hk, h.1, h.2]
      · simp only [List.all_cons, Bool.and_eq_true]; exact ⟨h.1, ih h.2⟩

theorem Table.wf_put (lt : κ → κ → Bool) (trans : ∀ a b c, lt a b = true → lt b c = true → lt a c = true)
    (conn : ∀ a b, a ≠ b → lt a b = false → lt b a = true) (dflt : κ → α) (m : Table κ α) (k : κ) (v : α)
    (hv : v ≠ dflt k) (h : Table.wf lt dflt m = true) : Table.wf lt dflt (Table.put lt m k v) = true := by
  induction m with
  | nil => simp [Table.put, Table.wf, hv]
  | cons e m ih =>
    obtain ⟨k', v'⟩ := e
    simp only [Table.wf, Bool.and_eq_true, List.all_eq_true, decide_eq_true_eq] at h
    obtain ⟨⟨h1, h2⟩, h3⟩ := h
    simp only [Table.put]
    split
    · subst_vars
      simp only [Table.wf, Bool.and_eq_true, List.all_eq_true, decide_eq_true_eq]
      exact ⟨⟨h1, hv⟩, h3⟩
    · split
      · simp only [Table.wf, Bool.and_eq_true, List.all_eq_true, decide_eq_true_eq, List.all_cons]
        exact ⟨⟨⟨‹_›, fun x hx => trans _ _ _ ‹_› (h1 x hx)⟩, hv⟩, ⟨h1, h2⟩, h3⟩
      · simp only [Table.wf, Bool.and_eq_true, decide_eq_true_eq]
        exact ⟨⟨Table.all_put lt m k v (lt k' ·) (by simpa using h1) (conn _ _ (Ne.symm ‹_›) (by simp_all)), h2⟩, ih h3⟩

/-- A write keeps the canonical form. -/
theorem Table.wf_set (lt : κ → κ → Bool) (trans : ∀ a b c, lt a b = true → lt b c = true → lt a c = true)
    (conn : ∀ a b, a ≠ b → lt a b = false → lt b a = true) (dflt : κ → α) (m : Table κ α) (k : κ) (v : α)
    (h : Table.wf lt dflt m = true) : Table.wf lt dflt (Table.set lt (dflt k) m k v) = true := by
  unfold Table.set
  split
  · exact Table.wf_filter _ _ _ _ h
  · exact Table.wf_put _ trans conn _ _ _ _ ‹_› h

end

theorem NTable.wf_set {α : Type} [DecidableEq α] (dflt : Nat → α) (m : NTable α) (k : Nat) (v : α)
    (h : Table.wf Nat.blt dflt m = true) : Table.wf Nat.blt dflt (NTable.set (dflt k) m k v) = true :=
  Table.wf_set _ (by simp only [Nat.blt_eq]; omega) (by simp only [Nat.blt_eq, ← Bool.not_eq_true]; omega) dflt m k v h

end Sys2Proof.Machine
end

