-- ==== Sys2Proof/Laws/State.lean ====
section
/-!
SUPPORT. What each basic update of the block leaves alone: one lemma per update and part, and per update and reader. -/

namespace Sys2Proof.Machine.Hw

variable (h : Hw)

@[simp] theorem setReg_mem (n : RegName) (i j : Nat) (v : BitVec 64) : (h.setReg n i j v).mem = h.mem := (rfl)
@[simp] theorem rb_setReg (n : RegName) (i j : Nat) (v : BitVec 64) (a' : Nat) : (h.setReg n i j v).rb a' = h.rb a' := (rfl)
@[simp] theorem setReg_cots (n : RegName) (i j : Nat) (v : BitVec 64) : (h.setReg n i j v).cots = h.cots := (rfl)
@[simp] theorem cot_setReg (n : RegName) (i j : Nat) (v : BitVec 64) (c' : Nat) : (h.setReg n i j v).cot c' = h.cot c' := (rfl)
@[simp] theorem ctx_setReg (n : RegName) (i j : Nat) (v : BitVec 64) (c' : Nat) : (h.setReg n i j v).ctx c' = h.ctx c' := (rfl)
@[simp] theorem setReg_par (n : RegName) (i j : Nat) (v : BitVec 64) : (h.setReg n i j v).par = h.par := (rfl)
@[simp] theorem parish_setReg (n : RegName) (i j : Nat) (v : BitVec 64) (n' : Nat) : (h.setReg n i j v).parish n' = h.parish n' := (rfl)
@[simp] theorem setReg_reeves (n : RegName) (i j : Nat) (v : BitVec 64) : (h.setReg n i j v).reeves = h.reeves := (rfl)
@[simp] theorem reeve_setReg (n : RegName) (i j : Nat) (v : BitVec 64) (r' : Nat) : (h.setReg n i j v).reeve r' = h.reeve r' := (rfl)
@[simp] theorem setReg_gran (n : RegName) (i j : Nat) (v : BitVec 64) : (h.setReg n i j v).gran = h.gran := (rfl)
@[simp] theorem frame_setReg (n : RegName) (i j : Nat) (v : BitVec 64) (f' : Nat) : (h.setReg n i j v).frame f' = h.frame f' := (rfl)
@[simp] theorem setReg_fns (n : RegName) (i j : Nat) (v : BitVec 64) : (h.setReg n i j v).fns = h.fns := (rfl)
@[simp] theorem fn_setReg (n : RegName) (i j : Nat) (v : BitVec 64) (o' : Nat) : (h.setReg n i j v).fn o' = h.fn o' := (rfl)
@[simp] theorem setReg_ports (n : RegName) (i j : Nat) (v : BitVec 64) : (h.setReg n i j v).ports = h.ports := (rfl)
@[simp] theorem port_setReg (n : RegName) (i j : Nat) (v : BitVec 64) (p' : Nat) : (h.setReg n i j v).port p' = h.port p' := (rfl)
@[simp] theorem setReg_timers (n : RegName) (i j : Nat) (v : BitVec 64) : (h.setReg n i j v).timers = h.timers := (rfl)
@[simp] theorem setReg_lanes (n : RegName) (i j : Nat) (v : BitVec 64) : (h.setReg n i j v).lanes = h.lanes := (rfl)
@[simp] theorem setReg_uartRx (n : RegName) (i j : Nat) (v : BitVec 64) : (h.setReg n i j v).uartRx = h.uartRx := (rfl)
@[simp] theorem setReg_treadles (n : RegName) (i j : Nat) (v : BitVec 64) : (h.setReg n i j v).treadles = h.treadles := (rfl)
@[simp] theorem setReg_edp (n : RegName) (i j : Nat) (v : BitVec 64) : (h.setReg n i j v).edp = h.edp := (rfl)
@[simp] theorem setReg_tdm (n : RegName) (i j : Nat) (v : BitVec 64) : (h.setReg n i j v).tdm = h.tdm := (rfl)
@[simp] theorem setReg_arb (n : RegName) (i j : Nat) (v : BitVec 64) : (h.setReg n i j v).arb = h.arb := (rfl)
@[simp] theorem setReg_modArm (n : RegName) (i j : Nat) (v : BitVec 64) : (h.setReg n i j v).modArm = h.modArm := (rfl)
@[simp] theorem setReg_job (n : RegName) (i j : Nat) (v : BitVec 64) : (h.setReg n i j v).job = h.job := (rfl)
@[simp] theorem setReg_power (n : RegName) (i j : Nat) (v : BitVec 64) : (h.setReg n i j v).power = h.power := (rfl)
@[simp] theorem setReg_boot (n : RegName) (i j : Nat) (v : BitVec 64) : (h.setReg n i j v).boot = h.boot := (rfl)
@[simp] theorem setReg_spdm (n : RegName) (i j : Nat) (v : BitVec 64) : (h.setReg n i j v).spdm = h.spdm := (rfl)
@[simp] theorem setReg_sbd (n : RegName) (i j : Nat) (v : BitVec 64) : (h.setReg n i j v).sbd = h.sbd := (rfl)
@[simp] theorem setReg_memPoison (n : RegName) (i j : Nat) (v : BitVec 64) : (h.setReg n i j v).memPoison = h.memPoison := (rfl)
@[simp] theorem setReg_out (n : RegName) (i j : Nat) (v : BitVec 64) : (h.setReg n i j v).out = h.out := (rfl)
@[simp] theorem setReg_fresh (n : RegName) (i j : Nat) (v : BitVec 64) : (h.setReg n i j v).fresh = h.fresh := (rfl)

@[simp] theorem setFld_mem (f : Fld) (i j v : Nat) : (h.setFld f i j v).mem = h.mem := (rfl)
@[simp] theorem rb_setFld (f : Fld) (i j v : Nat) (a' : Nat) : (h.setFld f i j v).rb a' = h.rb a' := (rfl)
@[simp] theorem setFld_cots (f : Fld) (i j v : Nat) : (h.setFld f i j v).cots = h.cots := (rfl)
@[simp] theorem cot_setFld (f : Fld) (i j v : Nat) (c' : Nat) : (h.setFld f i j v).cot c' = h.cot c' := (rfl)
@[simp] theorem ctx_setFld (f : Fld) (i j v : Nat) (c' : Nat) : (h.setFld f i j v).ctx c' = h.ctx c' := (rfl)
@[simp] theorem setFld_par (f : Fld) (i j v : Nat) : (h.setFld f i j v).par = h.par := (rfl)
@[simp] theorem parish_setFld (f : Fld) (i j v : Nat) (n' : Nat) : (h.setFld f i j v).parish n' = h.parish n' := (rfl)
@[simp] theorem setFld_reeves (f : Fld) (i j v : Nat) : (h.setFld f i j v).reeves = h.reeves := (rfl)
@[simp] theorem reeve_setFld (f : Fld) (i j v : Nat) (r' : Nat) : (h.setFld f i j v).reeve r' = h.reeve r' := (rfl)
@[simp] theorem setFld_gran (f : Fld) (i j v : Nat) : (h.setFld f i j v).gran = h.gran := (rfl)
@[simp] theorem frame_setFld (f : Fld) (i j v : Nat) (f' : Nat) : (h.setFld f i j v).frame f' = h.frame f' := (rfl)
@[simp] theorem setFld_fns (f : Fld) (i j v : Nat) : (h.setFld f i j v).fns = h.fns := (rfl)
@[simp] theorem fn_setFld (f : Fld) (i j v : Nat) (o' : Nat) : (h.setFld f i j v).fn o' = h.fn o' := (rfl)
@[simp] theorem setFld_ports (f : Fld) (i j v : Nat) : (h.setFld f i j v).ports = h.ports := (rfl)
@[simp] theorem port_setFld (f : Fld) (i j v : Nat) (p' : Nat) : (h.setFld f i j v).port p' = h.port p' := (rfl)
@[simp] theorem setFld_timers (f : Fld) (i j v : Nat) : (h.setFld f i j v).timers = h.timers := (rfl)
@[simp] theorem setFld_lanes (f : Fld) (i j v : Nat) : (h.setFld f i j v).lanes = h.lanes := (rfl)
@[simp] theorem setFld_uartRx (f : Fld) (i j v : Nat) : (h.setFld f i j v).uartRx = h.uartRx := (rfl)
@[simp] theorem setFld_treadles (f : Fld) (i j v : Nat) : (h.setFld f i j v).treadles = h.treadles := (rfl)
@[simp] theorem setFld_edp (f : Fld) (i j v : Nat) : (h.setFld f i j v).edp = h.edp := (rfl)
@[simp] theorem setFld_tdm (f : Fld) (i j v : Nat) : (h.setFld f i j v).tdm = h.tdm := (rfl)
@[simp] theorem setFld_arb (f : Fld) (i j v : Nat) : (h.setFld f i j v).arb = h.arb := (rfl)
@[simp] theorem setFld_modArm (f : Fld) (i j v : Nat) : (h.setFld f i j v).modArm = h.modArm := (rfl)
@[simp] theorem setFld_job (f : Fld) (i j v : Nat) : (h.setFld f i j v).job = h.job := (rfl)
@[simp] theorem setFld_power (f : Fld) (i j v : Nat) : (h.setFld f i j v).power = h.power := (rfl)
@[simp] theorem setFld_boot (f : Fld) (i j v : Nat) : (h.setFld f i j v).boot = h.boot := (rfl)
@[simp] theorem setFld_spdm (f : Fld) (i j v : Nat) : (h.setFld f i j v).spdm = h.spdm := (rfl)
@[simp] theorem setFld_sbd (f : Fld) (i j v : Nat) : (h.setFld f i j v).sbd = h.sbd := (rfl)
@[simp] theorem setFld_memPoison (f : Fld) (i j v : Nat) : (h.setFld f i j v).memPoison = h.memPoison := (rfl)
@[simp] theorem setFld_out (f : Fld) (i j v : Nat) : (h.setFld f i j v).out = h.out := (rfl)
@[simp] theorem setFld_fresh (f : Fld) (i j v : Nat) : (h.setFld f i j v).fresh = h.fresh := (rfl)

@[simp] theorem emit_regs (o : Out) : (h.emit o).regs = h.regs := (rfl)
@[simp] theorem reg_emit (o : Out) (n' : RegName) (i' j' : Nat) : (h.emit o).reg n' i' j' = h.reg n' i' j' := (rfl)
@[simp] theorem fld_emit (o : Out) (f' : Fld) (i' j' : Nat) : (h.emit o).fld f' i' j' = h.fld f' i' j' := (rfl)
@[simp] theorem flag_emit (o : Out) (f' : Fld) (i' j' : Nat) : (h.emit o).flag f' i' j' = h.flag f' i' j' := (rfl)
@[simp] theorem emit_mem (o : Out) : (h.emit o).mem = h.mem := (rfl)
@[simp] theorem rb_emit (o : Out) (a' : Nat) : (h.emit o).rb a' = h.rb a' := (rfl)
@[simp] theorem emit_cots (o : Out) : (h.emit o).cots = h.cots := (rfl)
@[simp] theorem cot_emit (o : Out) (c' : Nat) : (h.emit o).cot c' = h.cot c' := (rfl)
@[simp] theorem ctx_emit (o : Out) (c' : Nat) : (h.emit o).ctx c' = h.ctx c' := (rfl)
@[simp] theorem emit_par (o : Out) : (h.emit o).par = h.par := (rfl)
@[simp] theorem parish_emit (o : Out) (n' : Nat) : (h.emit o).parish n' = h.parish n' := (rfl)
@[simp] theorem emit_reeves (o : Out) : (h.emit o).reeves = h.reeves := (rfl)
@[simp] theorem reeve_emit (o : Out) (r' : Nat) : (h.emit o).reeve r' = h.reeve r' := (rfl)
@[simp] theorem emit_gran (o : Out) : (h.emit o).gran = h.gran := (rfl)
@[simp] theorem frame_emit (o : Out) (f' : Nat) : (h.emit o).frame f' = h.frame f' := (rfl)
@[simp] theorem emit_fns (o : Out) : (h.emit o).fns = h.fns := (rfl)
@[simp] theorem fn_emit (o : Out) (o' : Nat) : (h.emit o).fn o' = h.fn o' := (rfl)
@[simp] theorem emit_ports (o : Out) : (h.emit o).ports = h.ports := (rfl)
@[simp] theorem port_emit (o : Out) (p' : Nat) : (h.emit o).port p' = h.port p' := (rfl)
@[simp] theorem emit_timers (o : Out) : (h.emit o).timers = h.timers := (rfl)
@[simp] theorem emit_lanes (o : Out) : (h.emit o).lanes = h.lanes := (rfl)
@[simp] theorem emit_uartRx (o : Out) : (h.emit o).uartRx = h.uartRx := (rfl)
@[simp] theorem emit_treadles (o : Out) : (h.emit o).treadles = h.treadles := (rfl)
@[simp] theorem emit_edp (o : Out) : (h.emit o).edp = h.edp := (rfl)
@[simp] theorem emit_tdm (o : Out) : (h.emit o).tdm = h.tdm := (rfl)
@[simp] theorem emit_arb (o : Out) : (h.emit o).arb = h.arb := (rfl)
@[simp] theorem emit_modArm (o : Out) : (h.emit o).modArm = h.modArm := (rfl)
@[simp] theorem emit_job (o : Out) : (h.emit o).job = h.job := (rfl)
@[simp] theorem emit_power (o : Out) : (h.emit o).power = h.power := (rfl)
@[simp] theorem emit_boot (o : Out) : (h.emit o).boot = h.boot := (rfl)
@[simp] theorem emit_spdm (o : Out) : (h.emit o).spdm = h.spdm := (rfl)
@[simp] theorem emit_sbd (o : Out) : (h.emit o).sbd = h.sbd := (rfl)
@[simp] theorem emit_memPoison (o : Out) : (h.emit o).memPoison = h.memPoison := (rfl)
@[simp] theorem emit_fresh (o : Out) : (h.emit o).fresh = h.fresh := (rfl)

@[simp] theorem wb_regs (a : Nat) (v : Byte) : (h.wb a v).regs = h.regs := (rfl)
@[simp] theorem reg_wb (a : Nat) (v : Byte) (n' : RegName) (i' j' : Nat) : (h.wb a v).reg n' i' j' = h.reg n' i' j' := (rfl)
@[simp] theorem fld_wb (a : Nat) (v : Byte) (f' : Fld) (i' j' : Nat) : (h.wb a v).fld f' i' j' = h.fld f' i' j' := (rfl)
@[simp] theorem flag_wb (a : Nat) (v : Byte) (f' : Fld) (i' j' : Nat) : (h.wb a v).flag f' i' j' = h.flag f' i' j' := (rfl)
@[simp] theorem wb_cots (a : Nat) (v : Byte) : (h.wb a v).cots = h.cots := (rfl)
@[simp] theorem cot_wb (a : Nat) (v : Byte) (c' : Nat) : (h.wb a v).cot c' = h.cot c' := (rfl)
@[simp] theorem ctx_wb (a : Nat) (v : Byte) (c' : Nat) : (h.wb a v).ctx c' = h.ctx c' := (rfl)
@[simp] theorem wb_par (a : Nat) (v : Byte) : (h.wb a v).par = h.par := (rfl)
@[simp] theorem parish_wb (a : Nat) (v : Byte) (n' : Nat) : (h.wb a v).parish n' = h.parish n' := (rfl)
@[simp] theorem wb_reeves (a : Nat) (v : Byte) : (h.wb a v).reeves = h.reeves := (rfl)
@[simp] theorem reeve_wb (a : Nat) (v : Byte) (r' : Nat) : (h.wb a v).reeve r' = h.reeve r' := (rfl)
@[simp] theorem wb_gran (a : Nat) (v : Byte) : (h.wb a v).gran = h.gran := (rfl)
@[simp] theorem frame_wb (a : Nat) (v : Byte) (f' : Nat) : (h.wb a v).frame f' = h.frame f' := (rfl)
@[simp] theorem wb_fns (a : Nat) (v : Byte) : (h.wb a v).fns = h.fns := (rfl)
@[simp] theorem fn_wb (a : Nat) (v : Byte) (o' : Nat) : (h.wb a v).fn o' = h.fn o' := (rfl)
@[simp] theorem wb_ports (a : Nat) (v : Byte) : (h.wb a v).ports = h.ports := (rfl)
@[simp] theorem port_wb (a : Nat) (v : Byte) (p' : Nat) : (h.wb a v).port p' = h.port p' := (rfl)
@[simp] theorem wb_timers (a : Nat) (v : Byte) : (h.wb a v).timers = h.timers := (rfl)
@[simp] theorem wb_lanes (a : Nat) (v : Byte) : (h.wb a v).lanes = h.lanes := (rfl)
@[simp] theorem wb_uartRx (a : Nat) (v : Byte) : (h.wb a v).uartRx = h.uartRx := (rfl)
@[simp] theorem wb_treadles (a : Nat) (v : Byte) : (h.wb a v).treadles = h.treadles := (rfl)
@[simp] theorem wb_edp (a : Nat) (v : Byte) : (h.wb a v).edp = h.edp := (rfl)
@[simp] theorem wb_tdm (a : Nat) (v : Byte) : (h.wb a v).tdm = h.tdm := (rfl)
@[simp] theorem wb_arb (a : Nat) (v : Byte) : (h.wb a v).arb = h.arb := (rfl)
@[simp] theorem wb_modArm (a : Nat) (v : Byte) : (h.wb a v).modArm = h.modArm := (rfl)
@[simp] theorem wb_job (a : Nat) (v : Byte) : (h.wb a v).job = h.job := (rfl)
@[simp] theorem wb_power (a : Nat) (v : Byte) : (h.wb a v).power = h.power := (rfl)
@[simp] theorem wb_boot (a : Nat) (v : Byte) : (h.wb a v).boot = h.boot := (rfl)
@[simp] theorem wb_spdm (a : Nat) (v : Byte) : (h.wb a v).spdm = h.spdm := (rfl)
@[simp] theorem wb_sbd (a : Nat) (v : Byte) : (h.wb a v).sbd = h.sbd := (rfl)
@[simp] theorem wb_memPoison (a : Nat) (v : Byte) : (h.wb a v).memPoison = h.memPoison := (rfl)
@[simp] theorem wb_out (a : Nat) (v : Byte) : (h.wb a v).out = h.out := (rfl)
@[simp] theorem wb_fresh (a : Nat) (v : Byte) : (h.wb a v).fresh = h.fresh := (rfl)

@[simp] theorem setCot_regs (c : Nat) (x : Cottage) : (h.setCot c x).regs = h.regs := (rfl)
@[simp] theorem reg_setCot (c : Nat) (x : Cottage) (n' : RegName) (i' j' : Nat) : (h.setCot c x).reg n' i' j' = h.reg n' i' j' := (rfl)
@[simp] theorem fld_setCot (c : Nat) (x : Cottage) (f' : Fld) (i' j' : Nat) : (h.setCot c x).fld f' i' j' = h.fld f' i' j' := (rfl)
@[simp] theorem flag_setCot (c : Nat) (x : Cottage) (f' : Fld) (i' j' : Nat) : (h.setCot c x).flag f' i' j' = h.flag f' i' j' := (rfl)
@[simp] theorem setCot_mem (c : Nat) (x : Cottage) : (h.setCot c x).mem = h.mem := (rfl)
@[simp] theorem rb_setCot (c : Nat) (x : Cottage) (a' : Nat) : (h.setCot c x).rb a' = h.rb a' := (rfl)
@[simp] theorem setCot_par (c : Nat) (x : Cottage) : (h.setCot c x).par = h.par := (rfl)
@[simp] theorem parish_setCot (c : Nat) (x : Cottage) (n' : Nat) : (h.setCot c x).parish n' = h.parish n' := (rfl)
@[simp] theorem setCot_reeves (c : Nat) (x : Cottage) : (h.setCot c x).reeves = h.reeves := (rfl)
@[simp] theorem reeve_setCot (c : Nat) (x : Cottage) (r' : Nat) : (h.setCot c x).reeve r' = h.reeve r' := (rfl)
@[simp] theorem setCot_gran (c : Nat) (x : Cottage) : (h.setCot c x).gran = h.gran := (rfl)
@[simp] theorem frame_setCot (c : Nat) (x : Cottage) (f' : Nat) : (h.setCot c x).frame f' = h.frame f' := (rfl)
@[simp] theorem setCot_fns (c : Nat) (x : Cottage) : (h.setCot c x).fns = h.fns := (rfl)
@[simp] theorem fn_setCot (c : Nat) (x : Cottage) (o' : Nat) : (h.setCot c x).fn o' = h.fn o' := (rfl)
@[simp] theorem setCot_ports (c : Nat) (x : Cottage) : (h.setCot c x).ports = h.ports := (rfl)
@[simp] theorem port_setCot (c : Nat) (x : Cottage) (p' : Nat) : (h.setCot c x).port p' = h.port p' := (rfl)
@[simp] theorem setCot_timers (c : Nat) (x : Cottage) : (h.setCot c x).timers = h.timers := (rfl)
@[simp] theorem setCot_lanes (c : Nat) (x : Cottage) : (h.setCot c x).lanes = h.lanes := (rfl)
@[simp] theorem setCot_uartRx (c : Nat) (x : Cottage) : (h.setCot c x).uartRx = h.uartRx := (rfl)
@[simp] theorem setCot_treadles (c : Nat) (x : Cottage) : (h.setCot c x).treadles = h.treadles := (rfl)
@[simp] theorem setCot_edp (c : Nat) (x : Cottage) : (h.setCot c x).edp = h.edp := (rfl)
@[simp] theorem setCot_tdm (c : Nat) (x : Cottage) : (h.setCot c x).tdm = h.tdm := (rfl)
@[simp] theorem setCot_arb (c : Nat) (x : Cottage) : (h.setCot c x).arb = h.arb := (rfl)
@[simp] theorem setCot_modArm (c : Nat) (x : Cottage) : (h.setCot c x).modArm = h.modArm := (rfl)
@[simp] theorem setCot_job (c : Nat) (x : Cottage) : (h.setCot c x).job = h.job := (rfl)
@[simp] theorem setCot_power (c : Nat) (x : Cottage) : (h.setCot c x).power = h.power := (rfl)
@[simp] theorem setCot_boot (c : Nat) (x : Cottage) : (h.setCot c x).boot = h.boot := (rfl)
@[simp] theorem setCot_spdm (c : Nat) (x : Cottage) : (h.setCot c x).spdm = h.spdm := (rfl)
@[simp] theorem setCot_sbd (c : Nat) (x : Cottage) : (h.setCot c x).sbd = h.sbd := (rfl)
@[simp] theorem setCot_memPoison (c : Nat) (x : Cottage) : (h.setCot c x).memPoison = h.memPoison := (rfl)
@[simp] theorem setCot_out (c : Nat) (x : Cottage) : (h.setCot c x).out = h.out := (rfl)
@[simp] theorem setCot_fresh (c : Nat) (x : Cottage) : (h.setCot c x).fresh = h.fresh := (rfl)

@[simp] theorem setCtx_regs (c : Nat) (x : Context) : (h.setCtx c x).regs = h.regs := (rfl)
@[simp] theorem reg_setCtx (c : Nat) (x : Context) (n' : RegName) (i' j' : Nat) : (h.setCtx c x).reg n' i' j' = h.reg n' i' j' := (rfl)
@[simp] theorem fld_setCtx (c : Nat) (x : Context) (f' : Fld) (i' j' : Nat) : (h.setCtx c x).fld f' i' j' = h.fld f' i' j' := (rfl)
@[simp] theorem flag_setCtx (c : Nat) (x : Context) (f' : Fld) (i' j' : Nat) : (h.setCtx c x).flag f' i' j' = h.flag f' i' j' := (rfl)
@[simp] theorem setCtx_mem (c : Nat) (x : Context) : (h.setCtx c x).mem = h.mem := (rfl)
@[simp] theorem rb_setCtx (c : Nat) (x : Context) (a' : Nat) : (h.setCtx c x).rb a' = h.rb a' := (rfl)
@[simp] theorem setCtx_par (c : Nat) (x : Context) : (h.setCtx c x).par = h.par := (rfl)
@[simp] theorem parish_setCtx (c : Nat) (x : Context) (n' : Nat) : (h.setCtx c x).parish n' = h.parish n' := (rfl)
@[simp] theorem setCtx_reeves (c : Nat) (x : Context) : (h.setCtx c x).reeves = h.reeves := (rfl)
@[simp] theorem reeve_setCtx (c : Nat) (x : Context) (r' : Nat) : (h.setCtx c x).reeve r' = h.reeve r' := (rfl)
@[simp] theorem setCtx_gran (c : Nat) (x : Context) : (h.setCtx c x).gran = h.gran := (rfl)
@[simp] theorem frame_setCtx (c : Nat) (x : Context) (f' : Nat) : (h.setCtx c x).frame f' = h.frame f' := (rfl)
@[simp] theorem setCtx_fns (c : Nat) (x : Context) : (h.setCtx c x).fns = h.fns := (rfl)
@[simp] theorem fn_setCtx (c : Nat) (x : Context) (o' : Nat) : (h.setCtx c x).fn o' = h.fn o' := (rfl)
@[simp] theorem setCtx_ports (c : Nat) (x : Context) : (h.setCtx c x).ports = h.ports := (rfl)
@[simp] theorem port_setCtx (c : Nat) (x : Context) (p' : Nat) : (h.setCtx c x).port p' = h.port p' := (rfl)
@[simp] theorem setCtx_timers (c : Nat) (x : Context) : (h.setCtx c x).timers = h.timers := (rfl)
@[simp] theorem setCtx_lanes (c : Nat) (x : Context) : (h.setCtx c x).lanes = h.lanes := (rfl)
@[simp] theorem setCtx_uartRx (c : Nat) (x : Context) : (h.setCtx c x).uartRx = h.uartRx := (rfl)
@[simp] theorem setCtx_treadles (c : Nat) (x : Context) : (h.setCtx c x).treadles = h.treadles := (rfl)
@[simp] theorem setCtx_edp (c : Nat) (x : Context) : (h.setCtx c x).edp = h.edp := (rfl)
@[simp] theorem setCtx_tdm (c : Nat) (x : Context) : (h.setCtx c x).tdm = h.tdm := (rfl)
@[simp] theorem setCtx_arb (c : Nat) (x : Context) : (h.setCtx c x).arb = h.arb := (rfl)
@[simp] theorem setCtx_modArm (c : Nat) (x : Context) : (h.setCtx c x).modArm = h.modArm := (rfl)
@[simp] theorem setCtx_job (c : Nat) (x : Context) : (h.setCtx c x).job = h.job := (rfl)
@[simp] theorem setCtx_power (c : Nat) (x : Context) : (h.setCtx c x).power = h.power := (rfl)
@[simp] theorem setCtx_boot (c : Nat) (x : Context) : (h.setCtx c x).boot = h.boot := (rfl)
@[simp] theorem setCtx_spdm (c : Nat) (x : Context) : (h.setCtx c x).spdm = h.spdm := (rfl)
@[simp] theorem setCtx_sbd (c : Nat) (x : Context) : (h.setCtx c x).sbd = h.sbd := (rfl)
@[simp] theorem setCtx_memPoison (c : Nat) (x : Context) : (h.setCtx c x).memPoison = h.memPoison := (rfl)
@[simp] theorem setCtx_out (c : Nat) (x : Context) : (h.setCtx c x).out = h.out := (rfl)
@[simp] theorem setCtx_fresh (c : Nat) (x : Context) : (h.setCtx c x).fresh = h.fresh := (rfl)

@[simp] theorem setParish_regs (n : Nat) (x : Parish) : (h.setParish n x).regs = h.regs := (rfl)
@[simp] theorem reg_setParish (n : Nat) (x : Parish) (n' : RegName) (i' j' : Nat) : (h.setParish n x).reg n' i' j' = h.reg n' i' j' := (rfl)
@[simp] theorem fld_setParish (n : Nat) (x : Parish) (f' : Fld) (i' j' : Nat) : (h.setParish n x).fld f' i' j' = h.fld f' i' j' := (rfl)
@[simp] theorem flag_setParish (n : Nat) (x : Parish) (f' : Fld) (i' j' : Nat) : (h.setParish n x).flag f' i' j' = h.flag f' i' j' := (rfl)
@[simp] theorem setParish_mem (n : Nat) (x : Parish) : (h.setParish n x).mem = h.mem := (rfl)
@[simp] theorem rb_setParish (n : Nat) (x : Parish) (a' : Nat) : (h.setParish n x).rb a' = h.rb a' := (rfl)
@[simp] theorem setParish_cots (n : Nat) (x : Parish) : (h.setParish n x).cots = h.cots := (rfl)
@[simp] theorem cot_setParish (n : Nat) (x : Parish) (c' : Nat) : (h.setParish n x).cot c' = h.cot c' := (rfl)
@[simp] theorem ctx_setParish (n : Nat) (x : Parish) (c' : Nat) : (h.setParish n x).ctx c' = h.ctx c' := (rfl)
@[simp] theorem setParish_reeves (n : Nat) (x : Parish) : (h.setParish n x).reeves = h.reeves := (rfl)
@[simp] theorem reeve_setParish (n : Nat) (x : Parish) (r' : Nat) : (h.setParish n x).reeve r' = h.reeve r' := (rfl)
@[simp] theorem setParish_gran (n : Nat) (x : Parish) : (h.setParish n x).gran = h.gran := (rfl)
@[simp] theorem frame_setParish (n : Nat) (x : Parish) (f' : Nat) : (h.setParish n x).frame f' = h.frame f' := (rfl)
@[simp] theorem setParish_fns (n : Nat) (x : Parish) : (h.setParish n x).fns = h.fns := (rfl)
@[simp] theorem fn_setParish (n : Nat) (x : Parish) (o' : Nat) : (h.setParish n x).fn o' = h.fn o' := (rfl)
@[simp] theorem setParish_ports (n : Nat) (x : Parish) : (h.setParish n x).ports = h.ports := (rfl)
@[simp] theorem port_setParish (n : Nat) (x : Parish) (p' : Nat) : (h.setParish n x).port p' = h.port p' := (rfl)
@[simp] theorem setParish_timers (n : Nat) (x : Parish) : (h.setParish n x).timers = h.timers := (rfl)
@[simp] theorem setParish_lanes (n : Nat) (x : Parish) : (h.setParish n x).lanes = h.lanes := (rfl)
@[simp] theorem setParish_uartRx (n : Nat) (x : Parish) : (h.setParish n x).uartRx = h.uartRx := (rfl)
@[simp] theorem setParish_treadles (n : Nat) (x : Parish) : (h.setParish n x).treadles = h.treadles := (rfl)
@[simp] theorem setParish_edp (n : Nat) (x : Parish) : (h.setParish n x).edp = h.edp := (rfl)
@[simp] theorem setParish_tdm (n : Nat) (x : Parish) : (h.setParish n x).tdm = h.tdm := (rfl)
@[simp] theorem setParish_arb (n : Nat) (x : Parish) : (h.setParish n x).arb = h.arb := (rfl)
@[simp] theorem setParish_modArm (n : Nat) (x : Parish) : (h.setParish n x).modArm = h.modArm := (rfl)
@[simp] theorem setParish_job (n : Nat) (x : Parish) : (h.setParish n x).job = h.job := (rfl)
@[simp] theorem setParish_power (n : Nat) (x : Parish) : (h.setParish n x).power = h.power := (rfl)
@[simp] theorem setParish_boot (n : Nat) (x : Parish) : (h.setParish n x).boot = h.boot := (rfl)
@[simp] theorem setParish_spdm (n : Nat) (x : Parish) : (h.setParish n x).spdm = h.spdm := (rfl)
@[simp] theorem setParish_sbd (n : Nat) (x : Parish) : (h.setParish n x).sbd = h.sbd := (rfl)
@[simp] theorem setParish_memPoison (n : Nat) (x : Parish) : (h.setParish n x).memPoison = h.memPoison := (rfl)
@[simp] theorem setParish_out (n : Nat) (x : Parish) : (h.setParish n x).out = h.out := (rfl)
@[simp] theorem setParish_fresh (n : Nat) (x : Parish) : (h.setParish n x).fresh = h.fresh := (rfl)

@[simp] theorem setReeve_regs (r : Nat) (x : Reeve) : (h.setReeve r x).regs = h.regs := (rfl)
@[simp] theorem reg_setReeve (r : Nat) (x : Reeve) (n' : RegName) (i' j' : Nat) : (h.setReeve r x).reg n' i' j' = h.reg n' i' j' := (rfl)
@[simp] theorem fld_setReeve (r : Nat) (x : Reeve) (f' : Fld) (i' j' : Nat) : (h.setReeve r x).fld f' i' j' = h.fld f' i' j' := (rfl)
@[simp] theorem flag_setReeve (r : Nat) (x : Reeve) (f' : Fld) (i' j' : Nat) : (h.setReeve r x).flag f' i' j' = h.flag f' i' j' := (rfl)
@[simp] theorem setReeve_mem (r : Nat) (x : Reeve) : (h.setReeve r x).mem = h.mem := (rfl)
@[simp] theorem rb_setReeve (r : Nat) (x : Reeve) (a' : Nat) : (h.setReeve r x).rb a' = h.rb a' := (rfl)
@[simp] theorem setReeve_cots (r : Nat) (x : Reeve) : (h.setReeve r x).cots = h.cots := (rfl)
@[simp] theorem cot_setReeve (r : Nat) (x : Reeve) (c' : Nat) : (h.setReeve r x).cot c' = h.cot c' := (rfl)
@[simp] theorem ctx_setReeve (r : Nat) (x : Reeve) (c' : Nat) : (h.setReeve r x).ctx c' = h.ctx c' := (rfl)
@[simp] theorem setReeve_par (r : Nat) (x : Reeve) : (h.setReeve r x).par = h.par := (rfl)
@[simp] theorem parish_setReeve (r : Nat) (x : Reeve) (n' : Nat) : (h.setReeve r x).parish n' = h.parish n' := (rfl)
@[simp] theorem setReeve_gran (r : Nat) (x : Reeve) : (h.setReeve r x).gran = h.gran := (rfl)
@[simp] theorem frame_setReeve (r : Nat) (x : Reeve) (f' : Nat) : (h.setReeve r x).frame f' = h.frame f' := (rfl)
@[simp] theorem setReeve_fns (r : Nat) (x : Reeve) : (h.setReeve r x).fns = h.fns := (rfl)
@[simp] theorem fn_setReeve (r : Nat) (x : Reeve) (o' : Nat) : (h.setReeve r x).fn o' = h.fn o' := (rfl)
@[simp] theorem setReeve_ports (r : Nat) (x : Reeve) : (h.setReeve r x).ports = h.ports := (rfl)
@[simp] theorem port_setReeve (r : Nat) (x : Reeve) (p' : Nat) : (h.setReeve r x).port p' = h.port p' := (rfl)
@[simp] theorem setReeve_timers (r : Nat) (x : Reeve) : (h.setReeve r x).timers = h.timers := (rfl)
@[simp] theorem setReeve_lanes (r : Nat) (x : Reeve) : (h.setReeve r x).lanes = h.lanes := (rfl)
@[simp] theorem setReeve_uartRx (r : Nat) (x : Reeve) : (h.setReeve r x).uartRx = h.uartRx := (rfl)
@[simp] theorem setReeve_treadles (r : Nat) (x : Reeve) : (h.setReeve r x).treadles = h.treadles := (rfl)
@[simp] theorem setReeve_edp (r : Nat) (x : Reeve) : (h.setReeve r x).edp = h.edp := (rfl)
@[simp] theorem setReeve_tdm (r : Nat) (x : Reeve) : (h.setReeve r x).tdm = h.tdm := (rfl)
@[simp] theorem setReeve_arb (r : Nat) (x : Reeve) : (h.setReeve r x).arb = h.arb := (rfl)
@[simp] theorem setReeve_modArm (r : Nat) (x : Reeve) : (h.setReeve r x).modArm = h.modArm := (rfl)
@[simp] theorem setReeve_job (r : Nat) (x : Reeve) : (h.setReeve r x).job = h.job := (rfl)
@[simp] theorem setReeve_power (r : Nat) (x : Reeve) : (h.setReeve r x).power = h.power := (rfl)
@[simp] theorem setReeve_boot (r : Nat) (x : Reeve) : (h.setReeve r x).boot = h.boot := (rfl)
@[simp] theorem setReeve_spdm (r : Nat) (x : Reeve) : (h.setReeve r x).spdm = h.spdm := (rfl)
@[simp] theorem setReeve_sbd (r : Nat) (x : Reeve) : (h.setReeve r x).sbd = h.sbd := (rfl)
@[simp] theorem setReeve_memPoison (r : Nat) (x : Reeve) : (h.setReeve r x).memPoison = h.memPoison := (rfl)
@[simp] theorem setReeve_out (r : Nat) (x : Reeve) : (h.setReeve r x).out = h.out := (rfl)
@[simp] theorem setReeve_fresh (r : Nat) (x : Reeve) : (h.setReeve r x).fresh = h.fresh := (rfl)

@[simp] theorem setFn_regs (o : Nat) (x : Fn) : (h.setFn o x).regs = h.regs := (rfl)
@[simp] theorem reg_setFn (o : Nat) (x : Fn) (n' : RegName) (i' j' : Nat) : (h.setFn o x).reg n' i' j' = h.reg n' i' j' := (rfl)
@[simp] theorem fld_setFn (o : Nat) (x : Fn) (f' : Fld) (i' j' : Nat) : (h.setFn o x).fld f' i' j' = h.fld f' i' j' := (rfl)
@[simp] theorem flag_setFn (o : Nat) (x : Fn) (f' : Fld) (i' j' : Nat) : (h.setFn o x).flag f' i' j' = h.flag f' i' j' := (rfl)
@[simp] theorem setFn_mem (o : Nat) (x : Fn) : (h.setFn o x).mem = h.mem := (rfl)
@[simp] theorem rb_setFn (o : Nat) (x : Fn) (a' : Nat) : (h.setFn o x).rb a' = h.rb a' := (rfl)
@[simp] theorem setFn_cots (o : Nat) (x : Fn) : (h.setFn o x).cots = h.cots := (rfl)
@[simp] theorem cot_setFn (o : Nat) (x : Fn) (c' : Nat) : (h.setFn o x).cot c' = h.cot c' := (rfl)
@[simp] theorem ctx_setFn (o : Nat) (x : Fn) (c' : Nat) : (h.setFn o x).ctx c' = h.ctx c' := (rfl)
@[simp] theorem setFn_par (o : Nat) (x : Fn) : (h.setFn o x).par = h.par := (rfl)
@[simp] theorem parish_setFn (o : Nat) (x : Fn) (n' : Nat) : (h.setFn o x).parish n' = h.parish n' := (rfl)
@[simp] theorem setFn_reeves (o : Nat) (x : Fn) : (h.setFn o x).reeves = h.reeves := (rfl)
@[simp] theorem reeve_setFn (o : Nat) (x : Fn) (r' : Nat) : (h.setFn o x).reeve r' = h.reeve r' := (rfl)
@[simp] theorem setFn_gran (o : Nat) (x : Fn) : (h.setFn o x).gran = h.gran := (rfl)
@[simp] theorem frame_setFn (o : Nat) (x : Fn) (f' : Nat) : (h.setFn o x).frame f' = h.frame f' := (rfl)
@[simp] theorem setFn_ports (o : Nat) (x : Fn) : (h.setFn o x).ports = h.ports := (rfl)
@[simp] theorem port_setFn (o : Nat) (x : Fn) (p' : Nat) : (h.setFn o x).port p' = h.port p' := (rfl)
@[simp] theorem setFn_timers (o : Nat) (x : Fn) : (h.setFn o x).timers = h.timers := (rfl)
@[simp] theorem setFn_lanes (o : Nat) (x : Fn) : (h.setFn o x).lanes = h.lanes := (rfl)
@[simp] theorem setFn_uartRx (o : Nat) (x : Fn) : (h.setFn o x).uartRx = h.uartRx := (rfl)
@[simp] theorem setFn_treadles (o : Nat) (x : Fn) : (h.setFn o x).treadles = h.treadles := (rfl)
@[simp] theorem setFn_edp (o : Nat) (x : Fn) : (h.setFn o x).edp = h.edp := (rfl)
@[simp] theorem setFn_tdm (o : Nat) (x : Fn) : (h.setFn o x).tdm = h.tdm := (rfl)
@[simp] theorem setFn_arb (o : Nat) (x : Fn) : (h.setFn o x).arb = h.arb := (rfl)
@[simp] theorem setFn_modArm (o : Nat) (x : Fn) : (h.setFn o x).modArm = h.modArm := (rfl)
@[simp] theorem setFn_job (o : Nat) (x : Fn) : (h.setFn o x).job = h.job := (rfl)
@[simp] theorem setFn_power (o : Nat) (x : Fn) : (h.setFn o x).power = h.power := (rfl)
@[simp] theorem setFn_boot (o : Nat) (x : Fn) : (h.setFn o x).boot = h.boot := (rfl)
@[simp] theorem setFn_spdm (o : Nat) (x : Fn) : (h.setFn o x).spdm = h.spdm := (rfl)
@[simp] theorem setFn_sbd (o : Nat) (x : Fn) : (h.setFn o x).sbd = h.sbd := (rfl)
@[simp] theorem setFn_memPoison (o : Nat) (x : Fn) : (h.setFn o x).memPoison = h.memPoison := (rfl)
@[simp] theorem setFn_out (o : Nat) (x : Fn) : (h.setFn o x).out = h.out := (rfl)
@[simp] theorem setFn_fresh (o : Nat) (x : Fn) : (h.setFn o x).fresh = h.fresh := (rfl)

@[simp] theorem setPort_regs (p : Nat) (x : Port) : (h.setPort p x).regs = h.regs := (rfl)
@[simp] theorem reg_setPort (p : Nat) (x : Port) (n' : RegName) (i' j' : Nat) : (h.setPort p x).reg n' i' j' = h.reg n' i' j' := (rfl)
@[simp] theorem fld_setPort (p : Nat) (x : Port) (f' : Fld) (i' j' : Nat) : (h.setPort p x).fld f' i' j' = h.fld f' i' j' := (rfl)
@[simp] theorem flag_setPort (p : Nat) (x : Port) (f' : Fld) (i' j' : Nat) : (h.setPort p x).flag f' i' j' = h.flag f' i' j' := (rfl)
@[simp] theorem setPort_mem (p : Nat) (x : Port) : (h.setPort p x).mem = h.mem := (rfl)
@[simp] theorem rb_setPort (p : Nat) (x : Port) (a' : Nat) : (h.setPort p x).rb a' = h.rb a' := (rfl)
@[simp] theorem setPort_cots (p : Nat) (x : Port) : (h.setPort p x).cots = h.cots := (rfl)
@[simp] theorem cot_setPort (p : Nat) (x : Port) (c' : Nat) : (h.setPort p x).cot c' = h.cot c' := (rfl)
@[simp] theorem ctx_setPort (p : Nat) (x : Port) (c' : Nat) : (h.setPort p x).ctx c' = h.ctx c' := (rfl)
@[simp] theorem setPort_par (p : Nat) (x : Port) : (h.setPort p x).par = h.par := (rfl)
@[simp] theorem parish_setPort (p : Nat) (x : Port) (n' : Nat) : (h.setPort p x).parish n' = h.parish n' := (rfl)
@[simp] theorem setPort_reeves (p : Nat) (x : Port) : (h.setPort p x).reeves = h.reeves := (rfl)
@[simp] theorem reeve_setPort (p : Nat) (x : Port) (r' : Nat) : (h.setPort p x).reeve r' = h.reeve r' := (rfl)
@[simp] theorem setPort_gran (p : Nat) (x : Port) : (h.setPort p x).gran = h.gran := (rfl)
@[simp] theorem frame_setPort (p : Nat) (x : Port) (f' : Nat) : (h.setPort p x).frame f' = h.frame f' := (rfl)
@[simp] theorem setPort_fns (p : Nat) (x : Port) : (h.setPort p x).fns = h.fns := (rfl)
@[simp] theorem fn_setPort (p : Nat) (x : Port) (o' : Nat) : (h.setPort p x).fn o' = h.fn o' := (rfl)
@[simp] theorem setPort_timers (p : Nat) (x : Port) : (h.setPort p x).timers = h.timers := (rfl)
@[simp] theorem setPort_lanes (p : Nat) (x : Port) : (h.setPort p x).lanes = h.lanes := (rfl)
@[simp] theorem setPort_uartRx (p : Nat) (x : Port) : (h.setPort p x).uartRx = h.uartRx := (rfl)
@[simp] theorem setPort_treadles (p : Nat) (x : Port) : (h.setPort p x).treadles = h.treadles := (rfl)
@[simp] theorem setPort_edp (p : Nat) (x : Port) : (h.setPort p x).edp = h.edp := (rfl)
@[simp] theorem setPort_tdm (p : Nat) (x : Port) : (h.setPort p x).tdm = h.tdm := (rfl)
@[simp] theorem setPort_arb (p : Nat) (x : Port) : (h.setPort p x).arb = h.arb := (rfl)
@[simp] theorem setPort_modArm (p : Nat) (x : Port) : (h.setPort p x).modArm = h.modArm := (rfl)
@[simp] theorem setPort_job (p : Nat) (x : Port) : (h.setPort p x).job = h.job := (rfl)
@[simp] theorem setPort_power (p : Nat) (x : Port) : (h.setPort p x).power = h.power := (rfl)
@[simp] theorem setPort_boot (p : Nat) (x : Port) : (h.setPort p x).boot = h.boot := (rfl)
@[simp] theorem setPort_spdm (p : Nat) (x : Port) : (h.setPort p x).spdm = h.spdm := (rfl)
@[simp] theorem setPort_sbd (p : Nat) (x : Port) : (h.setPort p x).sbd = h.sbd := (rfl)
@[simp] theorem setPort_memPoison (p : Nat) (x : Port) : (h.setPort p x).memPoison = h.memPoison := (rfl)
@[simp] theorem setPort_out (p : Nat) (x : Port) : (h.setPort p x).out = h.out := (rfl)
@[simp] theorem setPort_fresh (p : Nat) (x : Port) : (h.setPort p x).fresh = h.fresh := (rfl)

@[simp] theorem setFrame_regs (f : Nat) (x : Frame) : (h.setFrame f x).regs = h.regs := (rfl)
@[simp] theorem reg_setFrame (f : Nat) (x : Frame) (n' : RegName) (i' j' : Nat) : (h.setFrame f x).reg n' i' j' = h.reg n' i' j' := (rfl)
@[simp] theorem fld_setFrame (f : Nat) (x : Frame) (f' : Fld) (i' j' : Nat) : (h.setFrame f x).fld f' i' j' = h.fld f' i' j' := (rfl)
@[simp] theorem flag_setFrame (f : Nat) (x : Frame) (f' : Fld) (i' j' : Nat) : (h.setFrame f x).flag f' i' j' = h.flag f' i' j' := (rfl)
@[simp] theorem setFrame_mem (f : Nat) (x : Frame) : (h.setFrame f x).mem = h.mem := (rfl)
@[simp] theorem rb_setFrame (f : Nat) (x : Frame) (a' : Nat) : (h.setFrame f x).rb a' = h.rb a' := (rfl)
@[simp] theorem setFrame_cots (f : Nat) (x : Frame) : (h.setFrame f x).cots = h.cots := (rfl)
@[simp] theorem cot_setFrame (f : Nat) (x : Frame) (c' : Nat) : (h.setFrame f x).cot c' = h.cot c' := (rfl)
@[simp] theorem ctx_setFrame (f : Nat) (x : Frame) (c' : Nat) : (h.setFrame f x).ctx c' = h.ctx c' := (rfl)
@[simp] theorem setFrame_par (f : Nat) (x : Frame) : (h.setFrame f x).par = h.par := (rfl)
@[simp] theorem parish_setFrame (f : Nat) (x : Frame) (n' : Nat) : (h.setFrame f x).parish n' = h.parish n' := (rfl)
@[simp] theorem setFrame_reeves (f : Nat) (x : Frame) : (h.setFrame f x).reeves = h.reeves := (rfl)
@[simp] theorem reeve_setFrame (f : Nat) (x : Frame) (r' : Nat) : (h.setFrame f x).reeve r' = h.reeve r' := (rfl)
@[simp] theorem setFrame_fns (f : Nat) (x : Frame) : (h.setFrame f x).fns = h.fns := (rfl)
@[simp] theorem fn_setFrame (f : Nat) (x : Frame) (o' : Nat) : (h.setFrame f x).fn o' = h.fn o' := (rfl)
@[simp] theorem setFrame_ports (f : Nat) (x : Frame) : (h.setFrame f x).ports = h.ports := (rfl)
@[simp] theorem port_setFrame (f : Nat) (x : Frame) (p' : Nat) : (h.setFrame f x).port p' = h.port p' := (rfl)
@[simp] theorem setFrame_timers (f : Nat) (x : Frame) : (h.setFrame f x).timers = h.timers := (rfl)
@[simp] theorem setFrame_lanes (f : Nat) (x : Frame) : (h.setFrame f x).lanes = h.lanes := (rfl)
@[simp] theorem setFrame_uartRx (f : Nat) (x : Frame) : (h.setFrame f x).uartRx = h.uartRx := (rfl)
@[simp] theorem setFrame_treadles (f : Nat) (x : Frame) : (h.setFrame f x).treadles = h.treadles := (rfl)
@[simp] theorem setFrame_edp (f : Nat) (x : Frame) : (h.setFrame f x).edp = h.edp := (rfl)
@[simp] theorem setFrame_tdm (f : Nat) (x : Frame) : (h.setFrame f x).tdm = h.tdm := (rfl)
@[simp] theorem setFrame_arb (f : Nat) (x : Frame) : (h.setFrame f x).arb = h.arb := (rfl)
@[simp] theorem setFrame_modArm (f : Nat) (x : Frame) : (h.setFrame f x).modArm = h.modArm := (rfl)
@[simp] theorem setFrame_job (f : Nat) (x : Frame) : (h.setFrame f x).job = h.job := (rfl)
@[simp] theorem setFrame_power (f : Nat) (x : Frame) : (h.setFrame f x).power = h.power := (rfl)
@[simp] theorem setFrame_boot (f : Nat) (x : Frame) : (h.setFrame f x).boot = h.boot := (rfl)
@[simp] theorem setFrame_spdm (f : Nat) (x : Frame) : (h.setFrame f x).spdm = h.spdm := (rfl)
@[simp] theorem setFrame_sbd (f : Nat) (x : Frame) : (h.setFrame f x).sbd = h.sbd := (rfl)
@[simp] theorem setFrame_memPoison (f : Nat) (x : Frame) : (h.setFrame f x).memPoison = h.memPoison := (rfl)
@[simp] theorem setFrame_out (f : Nat) (x : Frame) : (h.setFrame f x).out = h.out := (rfl)
@[simp] theorem setFrame_fresh (f : Nat) (x : Frame) : (h.setFrame f x).fresh = h.fresh := (rfl)

@[simp] theorem count_mem (f : Fld) (i j n : Nat) : (h.count f i j n).mem = h.mem := (rfl)
@[simp] theorem rb_count (f : Fld) (i j n : Nat) (a' : Nat) : (h.count f i j n).rb a' = h.rb a' := (rfl)
@[simp] theorem count_cots (f : Fld) (i j n : Nat) : (h.count f i j n).cots = h.cots := (rfl)
@[simp] theorem cot_count (f : Fld) (i j n : Nat) (c' : Nat) : (h.count f i j n).cot c' = h.cot c' := (rfl)
@[simp] theorem ctx_count (f : Fld) (i j n : Nat) (c' : Nat) : (h.count f i j n).ctx c' = h.ctx c' := (rfl)
@[simp] theorem count_par (f : Fld) (i j n : Nat) : (h.count f i j n).par = h.par := (rfl)
@[simp] theorem parish_count (f : Fld) (i j n : Nat) (n' : Nat) : (h.count f i j n).parish n' = h.parish n' := (rfl)
@[simp] theorem count_reeves (f : Fld) (i j n : Nat) : (h.count f i j n).reeves = h.reeves := (rfl)
@[simp] theorem reeve_count (f : Fld) (i j n : Nat) (r' : Nat) : (h.count f i j n).reeve r' = h.reeve r' := (rfl)
@[simp] theorem count_gran (f : Fld) (i j n : Nat) : (h.count f i j n).gran = h.gran := (rfl)
@[simp] theorem frame_count (f : Fld) (i j n : Nat) (f' : Nat) : (h.count f i j n).frame f' = h.frame f' := (rfl)
@[simp] theorem count_fns (f : Fld) (i j n : Nat) : (h.count f i j n).fns = h.fns := (rfl)
@[simp] theorem fn_count (f : Fld) (i j n : Nat) (o' : Nat) : (h.count f i j n).fn o' = h.fn o' := (rfl)
@[simp] theorem count_ports (f : Fld) (i j n : Nat) : (h.count f i j n).ports = h.ports := (rfl)
@[simp] theorem port_count (f : Fld) (i j n : Nat) (p' : Nat) : (h.count f i j n).port p' = h.port p' := (rfl)
@[simp] theorem count_timers (f : Fld) (i j n : Nat) : (h.count f i j n).timers = h.timers := (rfl)
@[simp] theorem count_lanes (f : Fld) (i j n : Nat) : (h.count f i j n).lanes = h.lanes := (rfl)
@[simp] theorem count_uartRx (f : Fld) (i j n : Nat) : (h.count f i j n).uartRx = h.uartRx := (rfl)
@[simp] theorem count_treadles (f : Fld) (i j n : Nat) : (h.count f i j n).treadles = h.treadles := (rfl)
@[simp] theorem count_edp (f : Fld) (i j n : Nat) : (h.count f i j n).edp = h.edp := (rfl)
@[simp] theorem count_tdm (f : Fld) (i j n : Nat) : (h.count f i j n).tdm = h.tdm := (rfl)
@[simp] theorem count_arb (f : Fld) (i j n : Nat) : (h.count f i j n).arb = h.arb := (rfl)
@[simp] theorem count_modArm (f : Fld) (i j n : Nat) : (h.count f i j n).modArm = h.modArm := (rfl)
@[simp] theorem count_job (f : Fld) (i j n : Nat) : (h.count f i j n).job = h.job := (rfl)
@[simp] theorem count_power (f : Fld) (i j n : Nat) : (h.count f i j n).power = h.power := (rfl)
@[simp] theorem count_boot (f : Fld) (i j n : Nat) : (h.count f i j n).boot = h.boot := (rfl)
@[simp] theorem count_spdm (f : Fld) (i j n : Nat) : (h.count f i j n).spdm = h.spdm := (rfl)
@[simp] theorem count_sbd (f : Fld) (i j n : Nat) : (h.count f i j n).sbd = h.sbd := (rfl)
@[simp] theorem count_memPoison (f : Fld) (i j n : Nat) : (h.count f i j n).memPoison = h.memPoison := (rfl)
@[simp] theorem count_out (f : Fld) (i j n : Nat) : (h.count f i j n).out = h.out := (rfl)
@[simp] theorem count_fresh (f : Fld) (i j n : Nat) : (h.count f i j n).fresh = h.fresh := (rfl)

@[simp] theorem countWrap_mem (f : Fld) (i j n : Nat) : (h.countWrap f i j n).mem = h.mem := (rfl)
@[simp] theorem rb_countWrap (f : Fld) (i j n : Nat) (a' : Nat) : (h.countWrap f i j n).rb a' = h.rb a' := (rfl)
@[simp] theorem countWrap_cots (f : Fld) (i j n : Nat) : (h.countWrap f i j n).cots = h.cots := (rfl)
@[simp] theorem cot_countWrap (f : Fld) (i j n : Nat) (c' : Nat) : (h.countWrap f i j n).cot c' = h.cot c' := (rfl)
@[simp] theorem ctx_countWrap (f : Fld) (i j n : Nat) (c' : Nat) : (h.countWrap f i j n).ctx c' = h.ctx c' := (rfl)
@[simp] theorem countWrap_par (f : Fld) (i j n : Nat) : (h.countWrap f i j n).par = h.par := (rfl)
@[simp] theorem parish_countWrap (f : Fld) (i j n : Nat) (n' : Nat) : (h.countWrap f i j n).parish n' = h.parish n' := (rfl)
@[simp] theorem countWrap_reeves (f : Fld) (i j n : Nat) : (h.countWrap f i j n).reeves = h.reeves := (rfl)
@[simp] theorem reeve_countWrap (f : Fld) (i j n : Nat) (r' : Nat) : (h.countWrap f i j n).reeve r' = h.reeve r' := (rfl)
@[simp] theorem countWrap_gran (f : Fld) (i j n : Nat) : (h.countWrap f i j n).gran = h.gran := (rfl)
@[simp] theorem frame_countWrap (f : Fld) (i j n : Nat) (f' : Nat) : (h.countWrap f i j n).frame f' = h.frame f' := (rfl)
@[simp] theorem countWrap_fns (f : Fld) (i j n : Nat) : (h.countWrap f i j n).fns = h.fns := (rfl)
@[simp] theorem fn_countWrap (f : Fld) (i j n : Nat) (o' : Nat) : (h.countWrap f i j n).fn o' = h.fn o' := (rfl)
@[simp] theorem countWrap_ports (f : Fld) (i j n : Nat) : (h.countWrap f i j n).ports = h.ports := (rfl)
@[simp] theorem port_countWrap (f : Fld) (i j n : Nat) (p' : Nat) : (h.countWrap f i j n).port p' = h.port p' := (rfl)
@[simp] theorem countWrap_timers (f : Fld) (i j n : Nat) : (h.countWrap f i j n).timers = h.timers := (rfl)
@[simp] theorem countWrap_lanes (f : Fld) (i j n : Nat) : (h.countWrap f i j n).lanes = h.lanes := (rfl)
@[simp] theorem countWrap_uartRx (f : Fld) (i j n : Nat) : (h.countWrap f i j n).uartRx = h.uartRx := (rfl)
@[simp] theorem countWrap_treadles (f : Fld) (i j n : Nat) : (h.countWrap f i j n).treadles = h.treadles := (rfl)
@[simp] theorem countWrap_edp (f : Fld) (i j n : Nat) : (h.countWrap f i j n).edp = h.edp := (rfl)
@[simp] theorem countWrap_tdm (f : Fld) (i j n : Nat) : (h.countWrap f i j n).tdm = h.tdm := (rfl)
@[simp] theorem countWrap_arb (f : Fld) (i j n : Nat) : (h.countWrap f i j n).arb = h.arb := (rfl)
@[simp] theorem countWrap_modArm (f : Fld) (i j n : Nat) : (h.countWrap f i j n).modArm = h.modArm := (rfl)
@[simp] theorem countWrap_job (f : Fld) (i j n : Nat) : (h.countWrap f i j n).job = h.job := (rfl)
@[simp] theorem countWrap_power (f : Fld) (i j n : Nat) : (h.countWrap f i j n).power = h.power := (rfl)
@[simp] theorem countWrap_boot (f : Fld) (i j n : Nat) : (h.countWrap f i j n).boot = h.boot := (rfl)
@[simp] theorem countWrap_spdm (f : Fld) (i j n : Nat) : (h.countWrap f i j n).spdm = h.spdm := (rfl)
@[simp] theorem countWrap_sbd (f : Fld) (i j n : Nat) : (h.countWrap f i j n).sbd = h.sbd := (rfl)
@[simp] theorem countWrap_memPoison (f : Fld) (i j n : Nat) : (h.countWrap f i j n).memPoison = h.memPoison := (rfl)
@[simp] theorem countWrap_out (f : Fld) (i j n : Nat) : (h.countWrap f i j n).out = h.out := (rfl)
@[simp] theorem countWrap_fresh (f : Fld) (i j n : Nat) : (h.countWrap f i j n).fresh = h.fresh := (rfl)

@[simp] theorem bump_regs  : (h.bump ).regs = h.regs := (rfl)
@[simp] theorem reg_bump  (n' : RegName) (i' j' : Nat) : (h.bump ).reg n' i' j' = h.reg n' i' j' := (rfl)
@[simp] theorem fld_bump  (f' : Fld) (i' j' : Nat) : (h.bump ).fld f' i' j' = h.fld f' i' j' := (rfl)
@[simp] theorem flag_bump  (f' : Fld) (i' j' : Nat) : (h.bump ).flag f' i' j' = h.flag f' i' j' := (rfl)
@[simp] theorem bump_mem  : (h.bump ).mem = h.mem := (rfl)
@[simp] theorem rb_bump  (a' : Nat) : (h.bump ).rb a' = h.rb a' := (rfl)
@[simp] theorem bump_cots  : (h.bump ).cots = h.cots := (rfl)
@[simp] theorem cot_bump  (c' : Nat) : (h.bump ).cot c' = h.cot c' := (rfl)
@[simp] theorem ctx_bump  (c' : Nat) : (h.bump ).ctx c' = h.ctx c' := (rfl)
@[simp] theorem bump_par  : (h.bump ).par = h.par := (rfl)
@[simp] theorem parish_bump  (n' : Nat) : (h.bump ).parish n' = h.parish n' := (rfl)
@[simp] theorem bump_reeves  : (h.bump ).reeves = h.reeves := (rfl)
@[simp] theorem reeve_bump  (r' : Nat) : (h.bump ).reeve r' = h.reeve r' := (rfl)
@[simp] theorem bump_gran  : (h.bump ).gran = h.gran := (rfl)
@[simp] theorem frame_bump  (f' : Nat) : (h.bump ).frame f' = h.frame f' := (rfl)
@[simp] theorem bump_fns  : (h.bump ).fns = h.fns := (rfl)
@[simp] theorem fn_bump  (o' : Nat) : (h.bump ).fn o' = h.fn o' := (rfl)
@[simp] theorem bump_ports  : (h.bump ).ports = h.ports := (rfl)
@[simp] theorem port_bump  (p' : Nat) : (h.bump ).port p' = h.port p' := (rfl)
@[simp] theorem bump_timers  : (h.bump ).timers = h.timers := (rfl)
@[simp] theorem bump_lanes  : (h.bump ).lanes = h.lanes := (rfl)
@[simp] theorem bump_uartRx  : (h.bump ).uartRx = h.uartRx := (rfl)
@[simp] theorem bump_treadles  : (h.bump ).treadles = h.treadles := (rfl)
@[simp] theorem bump_edp  : (h.bump ).edp = h.edp := (rfl)
@[simp] theorem bump_tdm  : (h.bump ).tdm = h.tdm := (rfl)
@[simp] theorem bump_arb  : (h.bump ).arb = h.arb := (rfl)
@[simp] theorem bump_modArm  : (h.bump ).modArm = h.modArm := (rfl)
@[simp] theorem bump_job  : (h.bump ).job = h.job := (rfl)
@[simp] theorem bump_power  : (h.bump ).power = h.power := (rfl)
@[simp] theorem bump_boot  : (h.bump ).boot = h.boot := (rfl)
@[simp] theorem bump_spdm  : (h.bump ).spdm = h.spdm := (rfl)
@[simp] theorem bump_sbd  : (h.bump ).sbd = h.sbd := (rfl)
@[simp] theorem bump_memPoison  : (h.bump ).memPoison = h.memPoison := (rfl)
@[simp] theorem bump_out  : (h.bump ).out = h.out := (rfl)

@[simp] theorem setPower_regs (p : Power) : (h.setPower p).regs = h.regs := (rfl)
@[simp] theorem reg_setPower (p : Power) (n' : RegName) (i' j' : Nat) : (h.setPower p).reg n' i' j' = h.reg n' i' j' := (rfl)
@[simp] theorem fld_setPower (p : Power) (f' : Fld) (i' j' : Nat) : (h.setPower p).fld f' i' j' = h.fld f' i' j' := (rfl)
@[simp] theorem flag_setPower (p : Power) (f' : Fld) (i' j' : Nat) : (h.setPower p).flag f' i' j' = h.flag f' i' j' := (rfl)
@[simp] theorem setPower_mem (p : Power) : (h.setPower p).mem = h.mem := (rfl)
@[simp] theorem rb_setPower (p : Power) (a' : Nat) : (h.setPower p).rb a' = h.rb a' := (rfl)
@[simp] theorem setPower_cots (p : Power) : (h.setPower p).cots = h.cots := (rfl)
@[simp] theorem cot_setPower (p : Power) (c' : Nat) : (h.setPower p).cot c' = h.cot c' := (rfl)
@[simp] theorem ctx_setPower (p : Power) (c' : Nat) : (h.setPower p).ctx c' = h.ctx c' := (rfl)
@[simp] theorem setPower_par (p : Power) : (h.setPower p).par = h.par := (rfl)
@[simp] theorem parish_setPower (p : Power) (n' : Nat) : (h.setPower p).parish n' = h.parish n' := (rfl)
@[simp] theorem setPower_reeves (p : Power) : (h.setPower p).reeves = h.reeves := (rfl)
@[simp] theorem reeve_setPower (p : Power) (r' : Nat) : (h.setPower p).reeve r' = h.reeve r' := (rfl)
@[simp] theorem setPower_gran (p : Power) : (h.setPower p).gran = h.gran := (rfl)
@[simp] theorem frame_setPower (p : Power) (f' : Nat) : (h.setPower p).frame f' = h.frame f' := (rfl)
@[simp] theorem setPower_fns (p : Power) : (h.setPower p).fns = h.fns := (rfl)
@[simp] theorem fn_setPower (p : Power) (o' : Nat) : (h.setPower p).fn o' = h.fn o' := (rfl)
@[simp] theorem setPower_ports (p : Power) : (h.setPower p).ports = h.ports := (rfl)
@[simp] theorem port_setPower (p : Power) (p' : Nat) : (h.setPower p).port p' = h.port p' := (rfl)
@[simp] theorem setPower_timers (p : Power) : (h.setPower p).timers = h.timers := (rfl)
@[simp] theorem setPower_lanes (p : Power) : (h.setPower p).lanes = h.lanes := (rfl)
@[simp] theorem setPower_uartRx (p : Power) : (h.setPower p).uartRx = h.uartRx := (rfl)
@[simp] theorem setPower_treadles (p : Power) : (h.setPower p).treadles = h.treadles := (rfl)
@[simp] theorem setPower_edp (p : Power) : (h.setPower p).edp = h.edp := (rfl)
@[simp] theorem setPower_tdm (p : Power) : (h.setPower p).tdm = h.tdm := (rfl)
@[simp] theorem setPower_arb (p : Power) : (h.setPower p).arb = h.arb := (rfl)
@[simp] theorem setPower_modArm (p : Power) : (h.setPower p).modArm = h.modArm := (rfl)
@[simp] theorem setPower_job (p : Power) : (h.setPower p).job = h.job := (rfl)
@[simp] theorem setPower_boot (p : Power) : (h.setPower p).boot = h.boot := (rfl)
@[simp] theorem setPower_spdm (p : Power) : (h.setPower p).spdm = h.spdm := (rfl)
@[simp] theorem setPower_sbd (p : Power) : (h.setPower p).sbd = h.sbd := (rfl)
@[simp] theorem setPower_memPoison (p : Power) : (h.setPower p).memPoison = h.memPoison := (rfl)
@[simp] theorem setPower_out (p : Power) : (h.setPower p).out = h.out := (rfl)
@[simp] theorem setPower_fresh (p : Power) : (h.setPower p).fresh = h.fresh := (rfl)

@[simp] theorem modCtx_regs (c : Nat) (g : Context → Context) : (h.modCtx c g).regs = h.regs := (rfl)
@[simp] theorem reg_modCtx (c : Nat) (g : Context → Context) (n' : RegName) (i' j' : Nat) : (h.modCtx c g).reg n' i' j' = h.reg n' i' j' := (rfl)
@[simp] theorem fld_modCtx (c : Nat) (g : Context → Context) (f' : Fld) (i' j' : Nat) : (h.modCtx c g).fld f' i' j' = h.fld f' i' j' := (rfl)
@[simp] theorem flag_modCtx (c : Nat) (g : Context → Context) (f' : Fld) (i' j' : Nat) : (h.modCtx c g).flag f' i' j' = h.flag f' i' j' := (rfl)
@[simp] theorem modCtx_mem (c : Nat) (g : Context → Context) : (h.modCtx c g).mem = h.mem := (rfl)
@[simp] theorem rb_modCtx (c : Nat) (g : Context → Context) (a' : Nat) : (h.modCtx c g).rb a' = h.rb a' := (rfl)
@[simp] theorem modCtx_par (c : Nat) (g : Context → Context) : (h.modCtx c g).par = h.par := (rfl)
@[simp] theorem parish_modCtx (c : Nat) (g : Context → Context) (n' : Nat) : (h.modCtx c g).parish n' = h.parish n' := (rfl)
@[simp] theorem modCtx_reeves (c : Nat) (g : Context → Context) : (h.modCtx c g).reeves = h.reeves := (rfl)
@[simp] theorem reeve_modCtx (c : Nat) (g : Context → Context) (r' : Nat) : (h.modCtx c g).reeve r' = h.reeve r' := (rfl)
@[simp] theorem modCtx_gran (c : Nat) (g : Context → Context) : (h.modCtx c g).gran = h.gran := (rfl)
@[simp] theorem frame_modCtx (c : Nat) (g : Context → Context) (f' : Nat) : (h.modCtx c g).frame f' = h.frame f' := (rfl)
@[simp] theorem modCtx_fns (c : Nat) (g : Context → Context) : (h.modCtx c g).fns = h.fns := (rfl)
@[simp] theorem fn_modCtx (c : Nat) (g : Context → Context) (o' : Nat) : (h.modCtx c g).fn o' = h.fn o' := (rfl)
@[simp] theorem modCtx_ports (c : Nat) (g : Context → Context) : (h.modCtx c g).ports = h.ports := (rfl)
@[simp] theorem port_modCtx (c : Nat) (g : Context → Context) (p' : Nat) : (h.modCtx c g).port p' = h.port p' := (rfl)
@[simp] theorem modCtx_timers (c : Nat) (g : Context → Context) : (h.modCtx c g).timers = h.timers := (rfl)
@[simp] theorem modCtx_lanes (c : Nat) (g : Context → Context) : (h.modCtx c g).lanes = h.lanes := (rfl)
@[simp] theorem modCtx_uartRx (c : Nat) (g : Context → Context) : (h.modCtx c g).uartRx = h.uartRx := (rfl)
@[simp] theorem modCtx_treadles (c : Nat) (g : Context → Context) : (h.modCtx c g).treadles = h.treadles := (rfl)
@[simp] theorem modCtx_edp (c : Nat) (g : Context → Context) : (h.modCtx c g).edp = h.edp := (rfl)
@[simp] theorem modCtx_tdm (c : Nat) (g : Context → Context) : (h.modCtx c g).tdm = h.tdm := (rfl)
@[simp] theorem modCtx_arb (c : Nat) (g : Context → Context) : (h.modCtx c g).arb = h.arb := (rfl)
@[simp] theorem modCtx_modArm (c : Nat) (g : Context → Context) : (h.modCtx c g).modArm = h.modArm := (rfl)
@[simp] theorem modCtx_job (c : Nat) (g : Context → Context) : (h.modCtx c g).job = h.job := (rfl)
@[simp] theorem modCtx_power (c : Nat) (g : Context → Context) : (h.modCtx c g).power = h.power := (rfl)
@[simp] theorem modCtx_boot (c : Nat) (g : Context → Context) : (h.modCtx c g).boot = h.boot := (rfl)
@[simp] theorem modCtx_spdm (c : Nat) (g : Context → Context) : (h.modCtx c g).spdm = h.spdm := (rfl)
@[simp] theorem modCtx_sbd (c : Nat) (g : Context → Context) : (h.modCtx c g).sbd = h.sbd := (rfl)
@[simp] theorem modCtx_memPoison (c : Nat) (g : Context → Context) : (h.modCtx c g).memPoison = h.memPoison := (rfl)
@[simp] theorem modCtx_out (c : Nat) (g : Context → Context) : (h.modCtx c g).out = h.out := (rfl)
@[simp] theorem modCtx_fresh (c : Nat) (g : Context → Context) : (h.modCtx c g).fresh = h.fresh := (rfl)

@[simp] theorem modLoom_regs (c : Nat) (g : LoomState → LoomState) : (h.modLoom c g).regs = h.regs := (rfl)
@[simp] theorem reg_modLoom (c : Nat) (g : LoomState → LoomState) (n' : RegName) (i' j' : Nat) : (h.modLoom c g).reg n' i' j' = h.reg n' i' j' := (rfl)
@[simp] theorem fld_modLoom (c : Nat) (g : LoomState → LoomState) (f' : Fld) (i' j' : Nat) : (h.modLoom c g).fld f' i' j' = h.fld f' i' j' := (rfl)
@[simp] theorem flag_modLoom (c : Nat) (g : LoomState → LoomState) (f' : Fld) (i' j' : Nat) : (h.modLoom c g).flag f' i' j' = h.flag f' i' j' := (rfl)
@[simp] theorem modLoom_mem (c : Nat) (g : LoomState → LoomState) : (h.modLoom c g).mem = h.mem := (rfl)
@[simp] theorem rb_modLoom (c : Nat) (g : LoomState → LoomState) (a' : Nat) : (h.modLoom c g).rb a' = h.rb a' := (rfl)
@[simp] theorem modLoom_par (c : Nat) (g : LoomState → LoomState) : (h.modLoom c g).par = h.par := (rfl)
@[simp] theorem parish_modLoom (c : Nat) (g : LoomState → LoomState) (n' : Nat) : (h.modLoom c g).parish n' = h.parish n' := (rfl)
@[simp] theorem modLoom_reeves (c : Nat) (g : LoomState → LoomState) : (h.modLoom c g).reeves = h.reeves := (rfl)
@[simp] theorem reeve_modLoom (c : Nat) (g : LoomState → LoomState) (r' : Nat) : (h.modLoom c g).reeve r' = h.reeve r' := (rfl)
@[simp] theorem modLoom_gran (c : Nat) (g : LoomState → LoomState) : (h.modLoom c g).gran = h.gran := (rfl)
@[simp] theorem frame_modLoom (c : Nat) (g : LoomState → LoomState) (f' : Nat) : (h.modLoom c g).frame f' = h.frame f' := (rfl)
@[simp] theorem modLoom_fns (c : Nat) (g : LoomState → LoomState) : (h.modLoom c g).fns = h.fns := (rfl)
@[simp] theorem fn_modLoom (c : Nat) (g : LoomState → LoomState) (o' : Nat) : (h.modLoom c g).fn o' = h.fn o' := (rfl)
@[simp] theorem modLoom_ports (c : Nat) (g : LoomState → LoomState) : (h.modLoom c g).ports = h.ports := (rfl)
@[simp] theorem port_modLoom (c : Nat) (g : LoomState → LoomState) (p' : Nat) : (h.modLoom c g).port p' = h.port p' := (rfl)
@[simp] theorem modLoom_timers (c : Nat) (g : LoomState → LoomState) : (h.modLoom c g).timers = h.timers := (rfl)
@[simp] theorem modLoom_lanes (c : Nat) (g : LoomState → LoomState) : (h.modLoom c g).lanes = h.lanes := (rfl)
@[simp] theorem modLoom_uartRx (c : Nat) (g : LoomState → LoomState) : (h.modLoom c g).uartRx = h.uartRx := (rfl)
@[simp] theorem modLoom_treadles (c : Nat) (g : LoomState → LoomState) : (h.modLoom c g).treadles = h.treadles := (rfl)
@[simp] theorem modLoom_edp (c : Nat) (g : LoomState → LoomState) : (h.modLoom c g).edp = h.edp := (rfl)
@[simp] theorem modLoom_tdm (c : Nat) (g : LoomState → LoomState) : (h.modLoom c g).tdm = h.tdm := (rfl)
@[simp] theorem modLoom_arb (c : Nat) (g : LoomState → LoomState) : (h.modLoom c g).arb = h.arb := (rfl)
@[simp] theorem modLoom_modArm (c : Nat) (g : LoomState → LoomState) : (h.modLoom c g).modArm = h.modArm := (rfl)
@[simp] theorem modLoom_job (c : Nat) (g : LoomState → LoomState) : (h.modLoom c g).job = h.job := (rfl)
@[simp] theorem modLoom_power (c : Nat) (g : LoomState → LoomState) : (h.modLoom c g).power = h.power := (rfl)
@[simp] theorem modLoom_boot (c : Nat) (g : LoomState → LoomState) : (h.modLoom c g).boot = h.boot := (rfl)
@[simp] theorem modLoom_spdm (c : Nat) (g : LoomState → LoomState) : (h.modLoom c g).spdm = h.spdm := (rfl)
@[simp] theorem modLoom_sbd (c : Nat) (g : LoomState → LoomState) : (h.modLoom c g).sbd = h.sbd := (rfl)
@[simp] theorem modLoom_memPoison (c : Nat) (g : LoomState → LoomState) : (h.modLoom c g).memPoison = h.memPoison := (rfl)
@[simp] theorem modLoom_out (c : Nat) (g : LoomState → LoomState) : (h.modLoom c g).out = h.out := (rfl)
@[simp] theorem modLoom_fresh (c : Nat) (g : LoomState → LoomState) : (h.modLoom c g).fresh = h.fresh := (rfl)

@[simp] theorem modRelief_regs (c : Nat) (g : ReliefState → ReliefState) : (h.modRelief c g).regs = h.regs := (rfl)
@[simp] theorem reg_modRelief (c : Nat) (g : ReliefState → ReliefState) (n' : RegName) (i' j' : Nat) : (h.modRelief c g).reg n' i' j' = h.reg n' i' j' := (rfl)
@[simp] theorem fld_modRelief (c : Nat) (g : ReliefState → ReliefState) (f' : Fld) (i' j' : Nat) : (h.modRelief c g).fld f' i' j' = h.fld f' i' j' := (rfl)
@[simp] theorem flag_modRelief (c : Nat) (g : ReliefState → ReliefState) (f' : Fld) (i' j' : Nat) : (h.modRelief c g).flag f' i' j' = h.flag f' i' j' := (rfl)
@[simp] theorem modRelief_mem (c : Nat) (g : ReliefState → ReliefState) : (h.modRelief c g).mem = h.mem := (rfl)
@[simp] theorem rb_modRelief (c : Nat) (g : ReliefState → ReliefState) (a' : Nat) : (h.modRelief c g).rb a' = h.rb a' := (rfl)
@[simp] theorem modRelief_par (c : Nat) (g : ReliefState → ReliefState) : (h.modRelief c g).par = h.par := (rfl)
@[simp] theorem parish_modRelief (c : Nat) (g : ReliefState → ReliefState) (n' : Nat) : (h.modRelief c g).parish n' = h.parish n' := (rfl)
@[simp] theorem modRelief_reeves (c : Nat) (g : ReliefState → ReliefState) : (h.modRelief c g).reeves = h.reeves := (rfl)
@[simp] theorem reeve_modRelief (c : Nat) (g : ReliefState → ReliefState) (r' : Nat) : (h.modRelief c g).reeve r' = h.reeve r' := (rfl)
@[simp] theorem modRelief_gran (c : Nat) (g : ReliefState → ReliefState) : (h.modRelief c g).gran = h.gran := (rfl)
@[simp] theorem frame_modRelief (c : Nat) (g : ReliefState → ReliefState) (f' : Nat) : (h.modRelief c g).frame f' = h.frame f' := (rfl)
@[simp] theorem modRelief_fns (c : Nat) (g : ReliefState → ReliefState) : (h.modRelief c g).fns = h.fns := (rfl)
@[simp] theorem fn_modRelief (c : Nat) (g : ReliefState → ReliefState) (o' : Nat) : (h.modRelief c g).fn o' = h.fn o' := (rfl)
@[simp] theorem modRelief_ports (c : Nat) (g : ReliefState → ReliefState) : (h.modRelief c g).ports = h.ports := (rfl)
@[simp] theorem port_modRelief (c : Nat) (g : ReliefState → ReliefState) (p' : Nat) : (h.modRelief c g).port p' = h.port p' := (rfl)
@[simp] theorem modRelief_timers (c : Nat) (g : ReliefState → ReliefState) : (h.modRelief c g).timers = h.timers := (rfl)
@[simp] theorem modRelief_lanes (c : Nat) (g : ReliefState → ReliefState) : (h.modRelief c g).lanes = h.lanes := (rfl)
@[simp] theorem modRelief_uartRx (c : Nat) (g : ReliefState → ReliefState) : (h.modRelief c g).uartRx = h.uartRx := (rfl)
@[simp] theorem modRelief_treadles (c : Nat) (g : ReliefState → ReliefState) : (h.modRelief c g).treadles = h.treadles := (rfl)
@[simp] theorem modRelief_edp (c : Nat) (g : ReliefState → ReliefState) : (h.modRelief c g).edp = h.edp := (rfl)
@[simp] theorem modRelief_tdm (c : Nat) (g : ReliefState → ReliefState) : (h.modRelief c g).tdm = h.tdm := (rfl)
@[simp] theorem modRelief_arb (c : Nat) (g : ReliefState → ReliefState) : (h.modRelief c g).arb = h.arb := (rfl)
@[simp] theorem modRelief_modArm (c : Nat) (g : ReliefState → ReliefState) : (h.modRelief c g).modArm = h.modArm := (rfl)
@[simp] theorem modRelief_job (c : Nat) (g : ReliefState → ReliefState) : (h.modRelief c g).job = h.job := (rfl)
@[simp] theorem modRelief_power (c : Nat) (g : ReliefState → ReliefState) : (h.modRelief c g).power = h.power := (rfl)
@[simp] theorem modRelief_boot (c : Nat) (g : ReliefState → ReliefState) : (h.modRelief c g).boot = h.boot := (rfl)
@[simp] theorem modRelief_spdm (c : Nat) (g : ReliefState → ReliefState) : (h.modRelief c g).spdm = h.spdm := (rfl)
@[simp] theorem modRelief_sbd (c : Nat) (g : ReliefState → ReliefState) : (h.modRelief c g).sbd = h.sbd := (rfl)
@[simp] theorem modRelief_memPoison (c : Nat) (g : ReliefState → ReliefState) : (h.modRelief c g).memPoison = h.memPoison := (rfl)
@[simp] theorem modRelief_out (c : Nat) (g : ReliefState → ReliefState) : (h.modRelief c g).out = h.out := (rfl)
@[simp] theorem modRelief_fresh (c : Nat) (g : ReliefState → ReliefState) : (h.modRelief c g).fresh = h.fresh := (rfl)

@[simp] theorem modPorch_regs (c : Nat) (g : PorchState → PorchState) : (h.modPorch c g).regs = h.regs := (rfl)
@[simp] theorem reg_modPorch (c : Nat) (g : PorchState → PorchState) (n' : RegName) (i' j' : Nat) : (h.modPorch c g).reg n' i' j' = h.reg n' i' j' := (rfl)
@[simp] theorem fld_modPorch (c : Nat) (g : PorchState → PorchState) (f' : Fld) (i' j' : Nat) : (h.modPorch c g).fld f' i' j' = h.fld f' i' j' := (rfl)
@[simp] theorem flag_modPorch (c : Nat) (g : PorchState → PorchState) (f' : Fld) (i' j' : Nat) : (h.modPorch c g).flag f' i' j' = h.flag f' i' j' := (rfl)
@[simp] theorem modPorch_mem (c : Nat) (g : PorchState → PorchState) : (h.modPorch c g).mem = h.mem := (rfl)
@[simp] theorem rb_modPorch (c : Nat) (g : PorchState → PorchState) (a' : Nat) : (h.modPorch c g).rb a' = h.rb a' := (rfl)
@[simp] theorem modPorch_par (c : Nat) (g : PorchState → PorchState) : (h.modPorch c g).par = h.par := (rfl)
@[simp] theorem parish_modPorch (c : Nat) (g : PorchState → PorchState) (n' : Nat) : (h.modPorch c g).parish n' = h.parish n' := (rfl)
@[simp] theorem modPorch_reeves (c : Nat) (g : PorchState → PorchState) : (h.modPorch c g).reeves = h.reeves := (rfl)
@[simp] theorem reeve_modPorch (c : Nat) (g : PorchState → PorchState) (r' : Nat) : (h.modPorch c g).reeve r' = h.reeve r' := (rfl)
@[simp] theorem modPorch_gran (c : Nat) (g : PorchState → PorchState) : (h.modPorch c g).gran = h.gran := (rfl)
@[simp] theorem frame_modPorch (c : Nat) (g : PorchState → PorchState) (f' : Nat) : (h.modPorch c g).frame f' = h.frame f' := (rfl)
@[simp] theorem modPorch_fns (c : Nat) (g : PorchState → PorchState) : (h.modPorch c g).fns = h.fns := (rfl)
@[simp] theorem fn_modPorch (c : Nat) (g : PorchState → PorchState) (o' : Nat) : (h.modPorch c g).fn o' = h.fn o' := (rfl)
@[simp] theorem modPorch_ports (c : Nat) (g : PorchState → PorchState) : (h.modPorch c g).ports = h.ports := (rfl)
@[simp] theorem port_modPorch (c : Nat) (g : PorchState → PorchState) (p' : Nat) : (h.modPorch c g).port p' = h.port p' := (rfl)
@[simp] theorem modPorch_timers (c : Nat) (g : PorchState → PorchState) : (h.modPorch c g).timers = h.timers := (rfl)
@[simp] theorem modPorch_lanes (c : Nat) (g : PorchState → PorchState) : (h.modPorch c g).lanes = h.lanes := (rfl)
@[simp] theorem modPorch_uartRx (c : Nat) (g : PorchState → PorchState) : (h.modPorch c g).uartRx = h.uartRx := (rfl)
@[simp] theorem modPorch_treadles (c : Nat) (g : PorchState → PorchState) : (h.modPorch c g).treadles = h.treadles := (rfl)
@[simp] theorem modPorch_edp (c : Nat) (g : PorchState → PorchState) : (h.modPorch c g).edp = h.edp := (rfl)
@[simp] theorem modPorch_tdm (c : Nat) (g : PorchState → PorchState) : (h.modPorch c g).tdm = h.tdm := (rfl)
@[simp] theorem modPorch_arb (c : Nat) (g : PorchState → PorchState) : (h.modPorch c g).arb = h.arb := (rfl)
@[simp] theorem modPorch_modArm (c : Nat) (g : PorchState → PorchState) : (h.modPorch c g).modArm = h.modArm := (rfl)
@[simp] theorem modPorch_job (c : Nat) (g : PorchState → PorchState) : (h.modPorch c g).job = h.job := (rfl)
@[simp] theorem modPorch_power (c : Nat) (g : PorchState → PorchState) : (h.modPorch c g).power = h.power := (rfl)
@[simp] theorem modPorch_boot (c : Nat) (g : PorchState → PorchState) : (h.modPorch c g).boot = h.boot := (rfl)
@[simp] theorem modPorch_spdm (c : Nat) (g : PorchState → PorchState) : (h.modPorch c g).spdm = h.spdm := (rfl)
@[simp] theorem modPorch_sbd (c : Nat) (g : PorchState → PorchState) : (h.modPorch c g).sbd = h.sbd := (rfl)
@[simp] theorem modPorch_memPoison (c : Nat) (g : PorchState → PorchState) : (h.modPorch c g).memPoison = h.memPoison := (rfl)
@[simp] theorem modPorch_out (c : Nat) (g : PorchState → PorchState) : (h.modPorch c g).out = h.out := (rfl)
@[simp] theorem modPorch_fresh (c : Nat) (g : PorchState → PorchState) : (h.modPorch c g).fresh = h.fresh := (rfl)

@[simp] theorem modChoir_regs (c : Nat) (g : ChoirState → ChoirState) : (h.modChoir c g).regs = h.regs := (rfl)
@[simp] theorem reg_modChoir (c : Nat) (g : ChoirState → ChoirState) (n' : RegName) (i' j' : Nat) : (h.modChoir c g).reg n' i' j' = h.reg n' i' j' := (rfl)
@[simp] theorem fld_modChoir (c : Nat) (g : ChoirState → ChoirState) (f' : Fld) (i' j' : Nat) : (h.modChoir c g).fld f' i' j' = h.fld f' i' j' := (rfl)
@[simp] theorem flag_modChoir (c : Nat) (g : ChoirState → ChoirState) (f' : Fld) (i' j' : Nat) : (h.modChoir c g).flag f' i' j' = h.flag f' i' j' := (rfl)
@[simp] theorem modChoir_mem (c : Nat) (g : ChoirState → ChoirState) : (h.modChoir c g).mem = h.mem := (rfl)
@[simp] theorem rb_modChoir (c : Nat) (g : ChoirState → ChoirState) (a' : Nat) : (h.modChoir c g).rb a' = h.rb a' := (rfl)
@[simp] theorem modChoir_par (c : Nat) (g : ChoirState → ChoirState) : (h.modChoir c g).par = h.par := (rfl)
@[simp] theorem parish_modChoir (c : Nat) (g : ChoirState → ChoirState) (n' : Nat) : (h.modChoir c g).parish n' = h.parish n' := (rfl)
@[simp] theorem modChoir_reeves (c : Nat) (g : ChoirState → ChoirState) : (h.modChoir c g).reeves = h.reeves := (rfl)
@[simp] theorem reeve_modChoir (c : Nat) (g : ChoirState → ChoirState) (r' : Nat) : (h.modChoir c g).reeve r' = h.reeve r' := (rfl)
@[simp] theorem modChoir_gran (c : Nat) (g : ChoirState → ChoirState) : (h.modChoir c g).gran = h.gran := (rfl)
@[simp] theorem frame_modChoir (c : Nat) (g : ChoirState → ChoirState) (f' : Nat) : (h.modChoir c g).frame f' = h.frame f' := (rfl)
@[simp] theorem modChoir_fns (c : Nat) (g : ChoirState → ChoirState) : (h.modChoir c g).fns = h.fns := (rfl)
@[simp] theorem fn_modChoir (c : Nat) (g : ChoirState → ChoirState) (o' : Nat) : (h.modChoir c g).fn o' = h.fn o' := (rfl)
@[simp] theorem modChoir_ports (c : Nat) (g : ChoirState → ChoirState) : (h.modChoir c g).ports = h.ports := (rfl)
@[simp] theorem port_modChoir (c : Nat) (g : ChoirState → ChoirState) (p' : Nat) : (h.modChoir c g).port p' = h.port p' := (rfl)
@[simp] theorem modChoir_timers (c : Nat) (g : ChoirState → ChoirState) : (h.modChoir c g).timers = h.timers := (rfl)
@[simp] theorem modChoir_lanes (c : Nat) (g : ChoirState → ChoirState) : (h.modChoir c g).lanes = h.lanes := (rfl)
@[simp] theorem modChoir_uartRx (c : Nat) (g : ChoirState → ChoirState) : (h.modChoir c g).uartRx = h.uartRx := (rfl)
@[simp] theorem modChoir_treadles (c : Nat) (g : ChoirState → ChoirState) : (h.modChoir c g).treadles = h.treadles := (rfl)
@[simp] theorem modChoir_edp (c : Nat) (g : ChoirState → ChoirState) : (h.modChoir c g).edp = h.edp := (rfl)
@[simp] theorem modChoir_tdm (c : Nat) (g : ChoirState → ChoirState) : (h.modChoir c g).tdm = h.tdm := (rfl)
@[simp] theorem modChoir_arb (c : Nat) (g : ChoirState → ChoirState) : (h.modChoir c g).arb = h.arb := (rfl)
@[simp] theorem modChoir_modArm (c : Nat) (g : ChoirState → ChoirState) : (h.modChoir c g).modArm = h.modArm := (rfl)
@[simp] theorem modChoir_job (c : Nat) (g : ChoirState → ChoirState) : (h.modChoir c g).job = h.job := (rfl)
@[simp] theorem modChoir_power (c : Nat) (g : ChoirState → ChoirState) : (h.modChoir c g).power = h.power := (rfl)
@[simp] theorem modChoir_boot (c : Nat) (g : ChoirState → ChoirState) : (h.modChoir c g).boot = h.boot := (rfl)
@[simp] theorem modChoir_spdm (c : Nat) (g : ChoirState → ChoirState) : (h.modChoir c g).spdm = h.spdm := (rfl)
@[simp] theorem modChoir_sbd (c : Nat) (g : ChoirState → ChoirState) : (h.modChoir c g).sbd = h.sbd := (rfl)
@[simp] theorem modChoir_memPoison (c : Nat) (g : ChoirState → ChoirState) : (h.modChoir c g).memPoison = h.memPoison := (rfl)
@[simp] theorem modChoir_out (c : Nat) (g : ChoirState → ChoirState) : (h.modChoir c g).out = h.out := (rfl)
@[simp] theorem modChoir_fresh (c : Nat) (g : ChoirState → ChoirState) : (h.modChoir c g).fresh = h.fresh := (rfl)

@[simp] theorem modIo_regs (c : Nat) (g : CotIo → CotIo) : (h.modIo c g).regs = h.regs := (rfl)
@[simp] theorem reg_modIo (c : Nat) (g : CotIo → CotIo) (n' : RegName) (i' j' : Nat) : (h.modIo c g).reg n' i' j' = h.reg n' i' j' := (rfl)
@[simp] theorem fld_modIo (c : Nat) (g : CotIo → CotIo) (f' : Fld) (i' j' : Nat) : (h.modIo c g).fld f' i' j' = h.fld f' i' j' := (rfl)
@[simp] theorem flag_modIo (c : Nat) (g : CotIo → CotIo) (f' : Fld) (i' j' : Nat) : (h.modIo c g).flag f' i' j' = h.flag f' i' j' := (rfl)
@[simp] theorem modIo_mem (c : Nat) (g : CotIo → CotIo) : (h.modIo c g).mem = h.mem := (rfl)
@[simp] theorem rb_modIo (c : Nat) (g : CotIo → CotIo) (a' : Nat) : (h.modIo c g).rb a' = h.rb a' := (rfl)
@[simp] theorem modIo_par (c : Nat) (g : CotIo → CotIo) : (h.modIo c g).par = h.par := (rfl)
@[simp] theorem parish_modIo (c : Nat) (g : CotIo → CotIo) (n' : Nat) : (h.modIo c g).parish n' = h.parish n' := (rfl)
@[simp] theorem modIo_reeves (c : Nat) (g : CotIo → CotIo) : (h.modIo c g).reeves = h.reeves := (rfl)
@[simp] theorem reeve_modIo (c : Nat) (g : CotIo → CotIo) (r' : Nat) : (h.modIo c g).reeve r' = h.reeve r' := (rfl)
@[simp] theorem modIo_gran (c : Nat) (g : CotIo → CotIo) : (h.modIo c g).gran = h.gran := (rfl)
@[simp] theorem frame_modIo (c : Nat) (g : CotIo → CotIo) (f' : Nat) : (h.modIo c g).frame f' = h.frame f' := (rfl)
@[simp] theorem modIo_fns (c : Nat) (g : CotIo → CotIo) : (h.modIo c g).fns = h.fns := (rfl)
@[simp] theorem fn_modIo (c : Nat) (g : CotIo → CotIo) (o' : Nat) : (h.modIo c g).fn o' = h.fn o' := (rfl)
@[simp] theorem modIo_ports (c : Nat) (g : CotIo → CotIo) : (h.modIo c g).ports = h.ports := (rfl)
@[simp] theorem port_modIo (c : Nat) (g : CotIo → CotIo) (p' : Nat) : (h.modIo c g).port p' = h.port p' := (rfl)
@[simp] theorem modIo_timers (c : Nat) (g : CotIo → CotIo) : (h.modIo c g).timers = h.timers := (rfl)
@[simp] theorem modIo_lanes (c : Nat) (g : CotIo → CotIo) : (h.modIo c g).lanes = h.lanes := (rfl)
@[simp] theorem modIo_uartRx (c : Nat) (g : CotIo → CotIo) : (h.modIo c g).uartRx = h.uartRx := (rfl)
@[simp] theorem modIo_treadles (c : Nat) (g : CotIo → CotIo) : (h.modIo c g).treadles = h.treadles := (rfl)
@[simp] theorem modIo_edp (c : Nat) (g : CotIo → CotIo) : (h.modIo c g).edp = h.edp := (rfl)
@[simp] theorem modIo_tdm (c : Nat) (g : CotIo → CotIo) : (h.modIo c g).tdm = h.tdm := (rfl)
@[simp] theorem modIo_arb (c : Nat) (g : CotIo → CotIo) : (h.modIo c g).arb = h.arb := (rfl)
@[simp] theorem modIo_modArm (c : Nat) (g : CotIo → CotIo) : (h.modIo c g).modArm = h.modArm := (rfl)
@[simp] theorem modIo_job (c : Nat) (g : CotIo → CotIo) : (h.modIo c g).job = h.job := (rfl)
@[simp] theorem modIo_power (c : Nat) (g : CotIo → CotIo) : (h.modIo c g).power = h.power := (rfl)
@[simp] theorem modIo_boot (c : Nat) (g : CotIo → CotIo) : (h.modIo c g).boot = h.boot := (rfl)
@[simp] theorem modIo_spdm (c : Nat) (g : CotIo → CotIo) : (h.modIo c g).spdm = h.spdm := (rfl)
@[simp] theorem modIo_sbd (c : Nat) (g : CotIo → CotIo) : (h.modIo c g).sbd = h.sbd := (rfl)
@[simp] theorem modIo_memPoison (c : Nat) (g : CotIo → CotIo) : (h.modIo c g).memPoison = h.memPoison := (rfl)
@[simp] theorem modIo_out (c : Nat) (g : CotIo → CotIo) : (h.modIo c g).out = h.out := (rfl)
@[simp] theorem modIo_fresh (c : Nat) (g : CotIo → CotIo) : (h.modIo c g).fresh = h.fresh := (rfl)

@[simp] theorem modParish_regs (n : Nat) (g : Parish → Parish) : (h.modParish n g).regs = h.regs := (rfl)
@[simp] theorem reg_modParish (n : Nat) (g : Parish → Parish) (n' : RegName) (i' j' : Nat) : (h.modParish n g).reg n' i' j' = h.reg n' i' j' := (rfl)
@[simp] theorem fld_modParish (n : Nat) (g : Parish → Parish) (f' : Fld) (i' j' : Nat) : (h.modParish n g).fld f' i' j' = h.fld f' i' j' := (rfl)
@[simp] theorem flag_modParish (n : Nat) (g : Parish → Parish) (f' : Fld) (i' j' : Nat) : (h.modParish n g).flag f' i' j' = h.flag f' i' j' := (rfl)
@[simp] theorem modParish_mem (n : Nat) (g : Parish → Parish) : (h.modParish n g).mem = h.mem := (rfl)
@[simp] theorem rb_modParish (n : Nat) (g : Parish → Parish) (a' : Nat) : (h.modParish n g).rb a' = h.rb a' := (rfl)
@[simp] theorem modParish_cots (n : Nat) (g : Parish → Parish) : (h.modParish n g).cots = h.cots := (rfl)
@[simp] theorem cot_modParish (n : Nat) (g : Parish → Parish) (c' : Nat) : (h.modParish n g).cot c' = h.cot c' := (rfl)
@[simp] theorem ctx_modParish (n : Nat) (g : Parish → Parish) (c' : Nat) : (h.modParish n g).ctx c' = h.ctx c' := (rfl)
@[simp] theorem modParish_reeves (n : Nat) (g : Parish → Parish) : (h.modParish n g).reeves = h.reeves := (rfl)
@[simp] theorem reeve_modParish (n : Nat) (g : Parish → Parish) (r' : Nat) : (h.modParish n g).reeve r' = h.reeve r' := (rfl)
@[simp] theorem modParish_gran (n : Nat) (g : Parish → Parish) : (h.modParish n g).gran = h.gran := (rfl)
@[simp] theorem frame_modParish (n : Nat) (g : Parish → Parish) (f' : Nat) : (h.modParish n g).frame f' = h.frame f' := (rfl)
@[simp] theorem modParish_fns (n : Nat) (g : Parish → Parish) : (h.modParish n g).fns = h.fns := (rfl)
@[simp] theorem fn_modParish (n : Nat) (g : Parish → Parish) (o' : Nat) : (h.modParish n g).fn o' = h.fn o' := (rfl)
@[simp] theorem modParish_ports (n : Nat) (g : Parish → Parish) : (h.modParish n g).ports = h.ports := (rfl)
@[simp] theorem port_modParish (n : Nat) (g : Parish → Parish) (p' : Nat) : (h.modParish n g).port p' = h.port p' := (rfl)
@[simp] theorem modParish_timers (n : Nat) (g : Parish → Parish) : (h.modParish n g).timers = h.timers := (rfl)
@[simp] theorem modParish_lanes (n : Nat) (g : Parish → Parish) : (h.modParish n g).lanes = h.lanes := (rfl)
@[simp] theorem modParish_uartRx (n : Nat) (g : Parish → Parish) : (h.modParish n g).uartRx = h.uartRx := (rfl)
@[simp] theorem modParish_treadles (n : Nat) (g : Parish → Parish) : (h.modParish n g).treadles = h.treadles := (rfl)
@[simp] theorem modParish_edp (n : Nat) (g : Parish → Parish) : (h.modParish n g).edp = h.edp := (rfl)
@[simp] theorem modParish_tdm (n : Nat) (g : Parish → Parish) : (h.modParish n g).tdm = h.tdm := (rfl)
@[simp] theorem modParish_arb (n : Nat) (g : Parish → Parish) : (h.modParish n g).arb = h.arb := (rfl)
@[simp] theorem modParish_modArm (n : Nat) (g : Parish → Parish) : (h.modParish n g).modArm = h.modArm := (rfl)
@[simp] theorem modParish_job (n : Nat) (g : Parish → Parish) : (h.modParish n g).job = h.job := (rfl)
@[simp] theorem modParish_power (n : Nat) (g : Parish → Parish) : (h.modParish n g).power = h.power := (rfl)
@[simp] theorem modParish_boot (n : Nat) (g : Parish → Parish) : (h.modParish n g).boot = h.boot := (rfl)
@[simp] theorem modParish_spdm (n : Nat) (g : Parish → Parish) : (h.modParish n g).spdm = h.spdm := (rfl)
@[simp] theorem modParish_sbd (n : Nat) (g : Parish → Parish) : (h.modParish n g).sbd = h.sbd := (rfl)
@[simp] theorem modParish_memPoison (n : Nat) (g : Parish → Parish) : (h.modParish n g).memPoison = h.memPoison := (rfl)
@[simp] theorem modParish_out (n : Nat) (g : Parish → Parish) : (h.modParish n g).out = h.out := (rfl)
@[simp] theorem modParish_fresh (n : Nat) (g : Parish → Parish) : (h.modParish n g).fresh = h.fresh := (rfl)

@[simp] theorem modFn_regs (o : Nat) (g : Fn → Fn) : (h.modFn o g).regs = h.regs := (rfl)
@[simp] theorem reg_modFn (o : Nat) (g : Fn → Fn) (n' : RegName) (i' j' : Nat) : (h.modFn o g).reg n' i' j' = h.reg n' i' j' := (rfl)
@[simp] theorem fld_modFn (o : Nat) (g : Fn → Fn) (f' : Fld) (i' j' : Nat) : (h.modFn o g).fld f' i' j' = h.fld f' i' j' := (rfl)
@[simp] theorem flag_modFn (o : Nat) (g : Fn → Fn) (f' : Fld) (i' j' : Nat) : (h.modFn o g).flag f' i' j' = h.flag f' i' j' := (rfl)
@[simp] theorem modFn_mem (o : Nat) (g : Fn → Fn) : (h.modFn o g).mem = h.mem := (rfl)
@[simp] theorem rb_modFn (o : Nat) (g : Fn → Fn) (a' : Nat) : (h.modFn o g).rb a' = h.rb a' := (rfl)
@[simp] theorem modFn_cots (o : Nat) (g : Fn → Fn) : (h.modFn o g).cots = h.cots := (rfl)
@[simp] theorem cot_modFn (o : Nat) (g : Fn → Fn) (c' : Nat) : (h.modFn o g).cot c' = h.cot c' := (rfl)
@[simp] theorem ctx_modFn (o : Nat) (g : Fn → Fn) (c' : Nat) : (h.modFn o g).ctx c' = h.ctx c' := (rfl)
@[simp] theorem modFn_par (o : Nat) (g : Fn → Fn) : (h.modFn o g).par = h.par := (rfl)
@[simp] theorem parish_modFn (o : Nat) (g : Fn → Fn) (n' : Nat) : (h.modFn o g).parish n' = h.parish n' := (rfl)
@[simp] theorem modFn_reeves (o : Nat) (g : Fn → Fn) : (h.modFn o g).reeves = h.reeves := (rfl)
@[simp] theorem reeve_modFn (o : Nat) (g : Fn → Fn) (r' : Nat) : (h.modFn o g).reeve r' = h.reeve r' := (rfl)
@[simp] theorem modFn_gran (o : Nat) (g : Fn → Fn) : (h.modFn o g).gran = h.gran := (rfl)
@[simp] theorem frame_modFn (o : Nat) (g : Fn → Fn) (f' : Nat) : (h.modFn o g).frame f' = h.frame f' := (rfl)
@[simp] theorem modFn_ports (o : Nat) (g : Fn → Fn) : (h.modFn o g).ports = h.ports := (rfl)
@[simp] theorem port_modFn (o : Nat) (g : Fn → Fn) (p' : Nat) : (h.modFn o g).port p' = h.port p' := (rfl)
@[simp] theorem modFn_timers (o : Nat) (g : Fn → Fn) : (h.modFn o g).timers = h.timers := (rfl)
@[simp] theorem modFn_lanes (o : Nat) (g : Fn → Fn) : (h.modFn o g).lanes = h.lanes := (rfl)
@[simp] theorem modFn_uartRx (o : Nat) (g : Fn → Fn) : (h.modFn o g).uartRx = h.uartRx := (rfl)
@[simp] theorem modFn_treadles (o : Nat) (g : Fn → Fn) : (h.modFn o g).treadles = h.treadles := (rfl)
@[simp] theorem modFn_edp (o : Nat) (g : Fn → Fn) : (h.modFn o g).edp = h.edp := (rfl)
@[simp] theorem modFn_tdm (o : Nat) (g : Fn → Fn) : (h.modFn o g).tdm = h.tdm := (rfl)
@[simp] theorem modFn_arb (o : Nat) (g : Fn → Fn) : (h.modFn o g).arb = h.arb := (rfl)
@[simp] theorem modFn_modArm (o : Nat) (g : Fn → Fn) : (h.modFn o g).modArm = h.modArm := (rfl)
@[simp] theorem modFn_job (o : Nat) (g : Fn → Fn) : (h.modFn o g).job = h.job := (rfl)
@[simp] theorem modFn_power (o : Nat) (g : Fn → Fn) : (h.modFn o g).power = h.power := (rfl)
@[simp] theorem modFn_boot (o : Nat) (g : Fn → Fn) : (h.modFn o g).boot = h.boot := (rfl)
@[simp] theorem modFn_spdm (o : Nat) (g : Fn → Fn) : (h.modFn o g).spdm = h.spdm := (rfl)
@[simp] theorem modFn_sbd (o : Nat) (g : Fn → Fn) : (h.modFn o g).sbd = h.sbd := (rfl)
@[simp] theorem modFn_memPoison (o : Nat) (g : Fn → Fn) : (h.modFn o g).memPoison = h.memPoison := (rfl)
@[simp] theorem modFn_out (o : Nat) (g : Fn → Fn) : (h.modFn o g).out = h.out := (rfl)
@[simp] theorem modFn_fresh (o : Nat) (g : Fn → Fn) : (h.modFn o g).fresh = h.fresh := (rfl)

end Sys2Proof.Machine.Hw
end

