-- ==== Sys2Proof/Laws/Ops.lean ====
section
/-!
SUPPORT. Laws of the named operations: bit fields, registers and their fields, units, memory bytes. -/

namespace Sys2Proof.Machine

/-! ### Bit fields -/

theorem bits_lt (n hi lo : Nat) : bits n hi lo < 2 ^ (hi + 1 - lo) := Nat.mod_lt _ (Nat.two_pow_pos _)

theorem bits_testBit (n hi lo i : Nat) : (bits n hi lo).testBit i = (decide (i < hi + 1 - lo) && n.testBit (lo + i)) := by
  simp [bits, Nat.testBit_mod_two_pow, Nat.testBit_div_two_pow, Nat.add_comm]

/-- Replacing a field, as three pieces. -/
theorem setBits_eq (n hi lo v : Nat) (h : lo ≤ hi) :
    setBits n hi lo v = n / 2 ^ (hi + 1) * 2 ^ (hi + 1) + (v % 2 ^ (hi + 1 - lo) * 2 ^ lo + n % 2 ^ lo) := by
  have e : 2 ^ (hi + 1) = 2 ^ (hi + 1 - lo) * 2 ^ lo := by rw [← Nat.pow_add]; congr 1; omega
  have d : n / 2 ^ (hi + 1) = n / 2 ^ lo / 2 ^ (hi + 1 - lo) := by rw [Nat.div_div_eq_div_mul, e, Nat.mul_comm]
  have m := Nat.div_add_mod n (2 ^ lo)
  have m2 := Nat.div_add_mod (n / 2 ^ lo) (2 ^ (hi + 1 - lo))
  have k : n / 2 ^ (hi + 1) * 2 ^ (hi + 1) + bits n hi lo * 2 ^ lo + n % 2 ^ lo = n := by
    rw [d, e, bits, ← Nat.mul_assoc, ← Nat.add_mul, Nat.mul_comm _ (2 ^ (hi + 1 - lo)), m2, Nat.mul_comm, m]
  unfold setBits
  omega

theorem setBits_testBit (n hi lo v i : Nat) (h : lo ≤ hi) :
    (setBits n hi lo v).testBit i = if lo ≤ i ∧ i ≤ hi then v.testBit (i - lo) else n.testBit i := by
  have e : 2 ^ (hi + 1) = 2 ^ (hi + 1 - lo) * 2 ^ lo := by rw [← Nat.pow_add]; congr 1; omega
  have l1 : n % 2 ^ lo < 2 ^ lo := Nat.mod_lt _ (Nat.two_pow_pos _)
  have l2 : v % 2 ^ (hi + 1 - lo) * 2 ^ lo + n % 2 ^ lo < 2 ^ (hi + 1) := by
    have := Nat.mod_lt v (Nat.two_pow_pos (hi + 1 - lo))
    have : (v % 2 ^ (hi + 1 - lo) + 1) * 2 ^ lo ≤ 2 ^ (hi + 1 - lo) * 2 ^ lo := Nat.mul_le_mul_right _ this
    rw [Nat.add_mul] at this; omega
  rw [setBits_eq n hi lo v h, Nat.mul_comm, Nat.testBit_two_pow_mul_add _ l2]
  split
  · rw [Nat.mul_comm, Nat.testBit_two_pow_mul_add _ l1]
    split
    · rw [if_neg (by omega), Nat.testBit_mod_two_pow]; simp_all
    · rw [if_pos (by omega), Nat.testBit_mod_two_pow, decide_eq_true (by omega), Bool.true_and]
  · rw [if_neg (by omega), Nat.testBit_div_two_pow]; congr 1; omega

theorem bits_setBits_same (n hi lo v : Nat) (h : lo ≤ hi) : bits (setBits n hi lo v) hi lo = v % 2 ^ (hi + 1 - lo) := by
  apply Nat.eq_of_testBit_eq; intro i
  rw [bits_testBit, setBits_testBit _ _ _ _ _ h, Nat.testBit_mod_two_pow]
  by_cases c : i < hi + 1 - lo
  · rw [if_pos (by omega)]; simp
  · simp [c]

theorem bits_setBits_ne (n hi lo hi' lo' v : Nat) (h : lo ≤ hi) (d : hi' < lo ∨ hi < lo') :
    bits (setBits n hi lo v) hi' lo' = bits n hi' lo' := by
  apply Nat.eq_of_testBit_eq; intro i
  rw [bits_testBit, bits_testBit, setBits_testBit _ _ _ _ _ h]
  by_cases c : i < hi' + 1 - lo'
  · rw [if_neg (by omega)]
  · simp [c]

theorem bits_mod (n hi lo w : Nat) (h : hi < w) : bits (n % 2 ^ w) hi lo = bits n hi lo := by
  apply Nat.eq_of_testBit_eq; intro i
  rw [bits_testBit, bits_testBit, Nat.testBit_mod_two_pow]
  by_cases c : i < hi + 1 - lo
  · rw [decide_eq_true (show lo + i < w by omega), Bool.true_and]
  · simp [c]

namespace Hw

variable (h : Hw)

/-! ### Registers and fields -/

@[simp] theorem reg_setReg_same (n : RegName) (i j : Nat) (v : BitVec 64) : (h.setReg n i j v).reg n i j = v := by
  simp [reg, setReg]

theorem reg_setReg_ne (n : RegName) (i j : Nat) (v : BitVec 64) (n' : RegName) (i' j' : Nat)
    (d : ¬ (n = n' ∧ i = i' ∧ j = j')) : (h.setReg n i j v).reg n' i' j' = h.reg n' i' j' := by
  simp only [reg, setReg]
  exact Table.get_set_ne _ _ _ _ _ _ _ (by simpa using d)

/-- A register after a store of any register. -/
@[simp] theorem reg_setReg (n : RegName) (i j : Nat) (v : BitVec 64) (n' : RegName) (i' j' : Nat) :
    (h.setReg n i j v).reg n' i' j' = if n = n' ∧ i = i' ∧ j = j' then v else h.reg n' i' j' := by
  split
  · rename_i e; obtain ⟨rfl, rfl, rfl⟩ := e; simp
  · exact reg_setReg_ne _ _ _ _ _ _ _ _ ‹_›

theorem fld_setReg_ne (n : RegName) (i j : Nat) (v : BitVec 64) (f : Fld) (i' j' : Nat)
    (d : ¬ (n = f.reg ∧ i = i' ∧ j = j')) : (h.setReg n i j v).fld f i' j' = h.fld f i' j' := by
  simp only [fld, reg_setReg_ne _ _ _ _ _ _ _ _ d]

/-- A field after a store of itself: the value, at the field's width. -/
theorem fld_setFld_same (f : Fld) (i j v : Nat) (w : f.lo ≤ f.hi) (u : f.hi < 64) :
    (h.setFld f i j v).fld f i j = v % 2 ^ (f.hi + 1 - f.lo) := by
  simp only [fld, setFld, reg_setReg_same, BitVec.toNat_ofNat, bits_mod _ _ _ _ u, bits_setBits_same _ _ _ _ w]

/-- A field after a store of a field of another register, or of other bits of its own. -/
theorem fld_setFld_ne (f g : Fld) (i j v i' j' : Nat) (w : f.lo ≤ f.hi) (u : g.hi < 64)
    (d : ¬ (f.reg = g.reg ∧ i = i' ∧ j = j') ∨ (g.hi < f.lo ∨ f.hi < g.lo)) :
    (h.setFld f i j v).fld g i' j' = h.fld g i' j' := by
  by_cases e : f.reg = g.reg ∧ i = i' ∧ j = j'
  · obtain ⟨e1, rfl, rfl⟩ := e
    have d' : g.hi < f.lo ∨ f.hi < g.lo := by simpa [e1] using d
    simp only [fld, setFld, e1, reg_setReg_same, BitVec.toNat_ofNat, bits_mod _ _ _ _ u, bits_setBits_ne _ _ _ _ _ _ w d']
  · exact fld_setReg_ne _ _ _ _ _ _ _ _ e

/-- A field of another register stays. -/
theorem fld_setFld_reg (f g : Fld) (i j v i' j' : Nat) (d : f.reg ≠ g.reg) :
    (h.setFld f i j v).fld g i' j' = h.fld g i' j' := fld_setReg_ne _ _ _ _ _ _ _ _ (by simp [d])

/-- A field of other bits stays. -/
theorem fld_setFld_bits (f g : Fld) (i j v i' j' : Nat) (w : f.lo ≤ f.hi) (u : g.hi < 64) (d : g.hi < f.lo ∨ f.hi < g.lo) :
    (h.setFld f i j v).fld g i' j' = h.fld g i' j' := fld_setFld_ne _ _ _ _ _ _ _ _ w u (.inr d)

theorem reg_setFld_ne (f : Fld) (i j v : Nat) (n' : RegName) (i' j' : Nat)
    (d : ¬ (f.reg = n' ∧ i = i' ∧ j = j')) : (h.setFld f i j v).reg n' i' j' = h.reg n' i' j' :=
  reg_setReg_ne _ _ _ _ _ _ _ _ d

/-- A register stays when a field of another register is stored. -/
theorem reg_setFld_reg (f : Fld) (i j v : Nat) (n' : RegName) (i' j' : Nat) (d : f.reg ≠ n') :
    (h.setFld f i j v).reg n' i' j' = h.reg n' i' j' := reg_setFld_ne _ _ _ _ _ _ _ _ (by simp [d])

/-- A field stays when another register is stored. -/
theorem fld_setReg_reg (n : RegName) (i j : Nat) (v : BitVec 64) (f : Fld) (i' j' : Nat) (d : n ≠ f.reg) :
    (h.setReg n i j v).fld f i' j' = h.fld f i' j' := fld_setReg_ne _ _ _ _ _ _ _ _ (by simp [d])

/-- Registers are what `regs` says. -/
theorem fld_congr (g : Hw) (e : g.regs = h.regs) (f : Fld) (i j : Nat) : g.fld f i j = h.fld f i j := by
  simp only [fld, reg, e]

/-- An effect repeated over a list keeps what each of its steps keeps. -/
theorem each_keeps {α β : Type} (φ : Hw → β) (f : Hw → α → Hw) (k : ∀ h a, φ (f h a) = φ h) (l : List α) :
    ∀ h : Hw, φ (h.each l f) = φ h := by
  induction l with
  | nil => intro h; rfl
  | cons a l ih => intro h; exact (ih (f h a)).trans (k h a)

@[simp] theorem fresh_bump : h.bump.fresh = h.fresh + 1 := (rfl)
@[simp] theorem out_emit (o : Out) : (h.emit o).out = o :: h.out := (rfl)

/-- What is sent word by word leaves in order. -/
theorem each_emit {α : Type} (f : α → Out) (l : List α) : ∀ h : Hw,
    h.each l (fun h a => h.emit (f a)) = { h with out := (l.map f).reverse ++ h.out } := by
  induction l with
  | nil => intro h; rfl
  | cons a l ih => intro h; exact (ih (h.emit (f a))).trans (by simp [emit])

/-! ### Units -/

@[simp] theorem cot_setCot (c : Nat) (x : Cottage) (c' : Nat) :
    (h.setCot c x).cot c' = if c = c' then x else h.cot c' := by
  simp only [cot, setCot, NTable.get_set]
@[simp] theorem ctx_setCtx (c : Nat) (x : Context) (c' : Nat) :
    (h.setCtx c x).ctx c' = if c = c' then x else h.ctx c' := by
  simp only [ctx, setCtx, cot_setCot]; split <;> rfl
@[simp] theorem parish_setParish (n : Nat) (x : Parish) (n' : Nat) :
    (h.setParish n x).parish n' = if n = n' then x else h.parish n' := by
  simp only [parish, setParish, NTable.get_set]
@[simp] theorem port_setPort (p : Nat) (x : Port) (p' : Nat) :
    (h.setPort p x).port p' = if p = p' then x else h.port p' := by
  simp only [port, setPort, NTable.get_set]
@[simp] theorem fn_setFn (o : Nat) (x : Fn) (o' : Nat) :
    (h.setFn o x).fn o' = if o = o' then x else h.fn o' := by
  by_cases e : o = o'
  · subst e; simp [fn, setFn]
  · simp only [fn, setFn, if_neg e]; exact NTable.get_set_ne _ _ _ _ _ _ e
@[simp] theorem reeve_setReeve (r : Nat) (x : Reeve) (r' : Nat) :
    (h.setReeve r x).reeve r' = if r = r' then x else h.reeve r' := by
  by_cases e : r = r'
  · subst e; simp [reeve, setReeve]
  · simp only [reeve, setReeve, if_neg e]; exact NTable.get_set_ne _ _ _ _ _ _ e
@[simp] theorem frame_setFrame (f : Nat) (x : Frame) (f' : Nat) :
    (h.setFrame f x).frame f' = if f = f' then x else h.frame f' := by
  by_cases e : f = f'
  · subst e; simp [frame, setFrame]
  · simp only [frame, setFrame, if_neg e]; exact NTable.get_set_ne _ _ _ _ _ _ e

@[simp] theorem ctx_modCtx (c : Nat) (g : Context → Context) (c' : Nat) :
    (h.modCtx c g).ctx c' = if c = c' then g (h.ctx c) else h.ctx c' := by simp only [modCtx, ctx_setCtx]
@[simp] theorem parish_modParish (n : Nat) (g : Parish → Parish) (m : Nat) :
    (h.modParish n g).parish m = if n = m then g (h.parish n) else h.parish m := by simp only [modParish, parish_setParish]
@[simp] theorem fn_modFn (o : Nat) (g : Fn → Fn) (o' : Nat) :
    (h.modFn o g).fn o' = if o = o' then g (h.fn o) else h.fn o' := by simp only [modFn, fn_setFn]

@[simp] theorem cot_modLoom (c : Nat) (g : LoomState → LoomState) (c' : Nat) :
    (h.modLoom c g).cot c' = if c = c' then { h.cot c with loom := g (h.cot c).loom } else h.cot c' := by
  simp only [modLoom, cot_setCot]
@[simp] theorem ctx_modLoom (c : Nat) (g : LoomState → LoomState) (c' : Nat) : (h.modLoom c g).ctx c' = h.ctx c' := by
  simp only [ctx, cot_modLoom]; split <;> subst_vars <;> rfl
@[simp] theorem cot_modRelief (c : Nat) (g : ReliefState → ReliefState) (c' : Nat) :
    (h.modRelief c g).cot c' = if c = c' then { h.cot c with relief := g (h.cot c).relief } else h.cot c' := by
  simp only [modRelief, cot_setCot]
@[simp] theorem ctx_modRelief (c : Nat) (g : ReliefState → ReliefState) (c' : Nat) : (h.modRelief c g).ctx c' = h.ctx c' := by
  simp only [ctx, cot_modRelief]; split <;> subst_vars <;> rfl
@[simp] theorem cot_modPorch (c : Nat) (g : PorchState → PorchState) (c' : Nat) :
    (h.modPorch c g).cot c' = if c = c' then { h.cot c with porch := g (h.cot c).porch } else h.cot c' := by
  simp only [modPorch, cot_setCot]
@[simp] theorem ctx_modPorch (c : Nat) (g : PorchState → PorchState) (c' : Nat) : (h.modPorch c g).ctx c' = h.ctx c' := by
  simp only [ctx, cot_modPorch]; split <;> subst_vars <;> rfl
@[simp] theorem cot_modChoir (c : Nat) (g : ChoirState → ChoirState) (c' : Nat) :
    (h.modChoir c g).cot c' = if c = c' then { h.cot c with choir := g (h.cot c).choir } else h.cot c' := by
  simp only [modChoir, cot_setCot]
@[simp] theorem ctx_modChoir (c : Nat) (g : ChoirState → ChoirState) (c' : Nat) : (h.modChoir c g).ctx c' = h.ctx c' := by
  simp only [ctx, cot_modChoir]; split <;> subst_vars <;> rfl
@[simp] theorem cot_modIo (c : Nat) (g : CotIo → CotIo) (c' : Nat) :
    (h.modIo c g).cot c' = if c = c' then { h.cot c with io := g (h.cot c).io } else h.cot c' := by
  simp only [modIo, cot_setCot]
@[simp] theorem ctx_modIo (c : Nat) (g : CotIo → CotIo) (c' : Nat) : (h.modIo c g).ctx c' = h.ctx c' := by
  simp only [ctx, cot_modIo]; split <;> subst_vars <;> rfl
@[simp] theorem cot_setCtx (c : Nat) (x : Context) (c' : Nat) :
    (h.setCtx c x).cot c' = if c = c' then { h.cot c with ctx := x } else h.cot c' := by simp only [setCtx, cot_setCot]
@[simp] theorem cot_modCtx (c : Nat) (g : Context → Context) (c' : Nat) :
    (h.modCtx c g).cot c' = if c = c' then { h.cot c with ctx := g (h.ctx c) } else h.cot c' := by
  simp only [modCtx, cot_setCtx]

/-! ### Owners and classes depend on the parishes alone -/

theorem slotOf_congr (g : Hw) (e : g.par = h.par) (c : Nat) : g.slotOf c = h.slotOf c := by
  simp only [slotOf, parish, e]
theorem ownerOf_congr (g : Hw) (e : g.par = h.par) (c : Nat) : g.ownerOf c = h.ownerOf c := by
  simp only [ownerOf, slotOf_congr h g e]
theorem portOf_congr (g : Hw) (e : g.par = h.par) (c : Nat) : g.portOf c = h.portOf c := by
  simp only [portOf, ownerOf_congr h g e]
theorem cls_congr (g : Hw) (e : g.par = h.par) (c : Nat) : g.cls c = h.cls c := by
  simp only [cls, classOf, slotOf_congr h g e, parish, e]

/-! ### Memory -/

@[simp] theorem rb_wb (a : Nat) (v : Byte) (b : Nat) : (h.wb a v).rb b = if a = b then v else h.rb b := by
  simp only [rb, wb]
  split
  · subst_vars; exact Table.get_set_same ..
  · exact Table.get_set_ne _ _ _ _ _ _ _ ‹_›

theorem wb_wf (a : Nat) (v : Byte) (w : Memory.wf h.mem) : Memory.wf (h.wb a v).mem :=
  NTable.wf_set (fun _ => memDefault) h.mem a v w

/-- A store of bytes keeps whatever a store of one byte and the mending of poison keep. -/
theorem wbs_keeps {β : Type} (φ : Hw → β) (k : ∀ h a b, φ (Hw.wb h a b) = φ h) (m : ∀ h a n, φ (Hw.mend h a n) = φ h)
    (l : List Byte) (h : Hw) (a : Nat) : φ (h.wbs a l) = φ h := by
  have p : ∀ (l : List Byte) (h : Hw) (a : Nat), φ (h.putBytes a l) = φ h := by
    intro l
    induction l with
    | nil => intros; rfl
    | cons b l ih => intro h a; exact (ih _ _).trans (k _ _ _)
  exact (m _ _ _).trans (p _ _ _)

theorem putBytes_wf (l : List Byte) : ∀ (h : Hw) (a : Nat), Memory.wf h.mem → Memory.wf (h.putBytes a l).mem := by
  induction l with
  | nil => intro h a w; exact w
  | cons b l ih => intro h a w; exact ih _ _ (wb_wf h a b w)

theorem wbs_wf (a : Nat) (l : List Byte) (w : Memory.wf h.mem) : Memory.wf (h.wbs a l).mem :=
  putBytes_wf l h a w

theorem zero_wf (a n : Nat) (w : Memory.wf h.mem) : Memory.wf (h.zero a n).mem := Table.wf_filter _ _ _ _ w

theorem copyMem_wf (src dst n : Nat) (w : Memory.wf h.mem) : Memory.wf (h.copyMem src dst n).mem := by
  have step : ∀ (l : List Host.Cell) (g : Hw), Memory.wf g.mem →
      Memory.wf (l.foldl (fun g c => g.wb (c.1 - src + dst) c.2) g).mem := by
    intro l
    induction l with
    | nil => intro g w; exact w
    | cons c l ih => intro g w; exact ih _ (wb_wf g _ _ w)
  exact step _ _ (zero_wf h dst n w)

theorem reset_wf : Memory.wf Hw.reset.mem := rfl

end Hw

end Sys2Proof.Machine
end

