-- ==== Sys2Proof/Laws/Errors.lean ====
section
/-!
SUPPORT. Laws of events, rings and error records: the parts of the block that they can change are registers of a few names,
memory, functions, ports and what has left the block. -/

namespace Sys2Proof.Machine.Hw

/-- The registers that events, ring slots and records write. -/
def recordReg : RegName → Bool
  | .FAB_LINK | .COM_VMOD | .COM_RING_PUB | .COM_EQ_STAT | .ERR_MSEQ | .ERR_CNT | .ERR_FATAL => true
  | _ => false

/-- g differs from h at most in what events, ring slots and records can change. -/
structure RecordsOnly (g h : Hw) : Prop where
  reg : ∀ n i j, recordReg n = false → g.reg n i j = h.reg n i j
  cots : g.cots = h.cots
  par : g.par = h.par
  reeves : g.reeves = h.reeves
  gran : g.gran = h.gran
  timers : g.timers = h.timers
  lanes : g.lanes = h.lanes
  uartRx : g.uartRx = h.uartRx
  treadles : g.treadles = h.treadles
  edp : g.edp = h.edp
  tdm : g.tdm = h.tdm
  arb : g.arb = h.arb
  modArm : g.modArm = h.modArm
  job : g.job = h.job
  power : g.power = h.power
  boot : g.boot = h.boot
  spdm : g.spdm = h.spdm
  sbd : g.sbd = h.sbd
  fresh : g.fresh = h.fresh

namespace RecordsOnly

theorem refl (h : Hw) : RecordsOnly h h := by constructor <;> intros <;> rfl

theorem trans {g h k : Hw} (a : RecordsOnly g h) (b : RecordsOnly h k) : RecordsOnly g k where
  reg n i j hn := (a.reg n i j hn).trans (b.reg n i j hn)
  cots := a.cots.trans b.cots
  par := a.par.trans b.par
  reeves := a.reeves.trans b.reeves
  gran := a.gran.trans b.gran
  timers := a.timers.trans b.timers
  lanes := a.lanes.trans b.lanes
  uartRx := a.uartRx.trans b.uartRx
  treadles := a.treadles.trans b.treadles
  edp := a.edp.trans b.edp
  tdm := a.tdm.trans b.tdm
  arb := a.arb.trans b.arb
  modArm := a.modArm.trans b.modArm
  job := a.job.trans b.job
  power := a.power.trans b.power
  boot := a.boot.trans b.boot
  spdm := a.spdm.trans b.spdm
  sbd := a.sbd.trans b.sbd
  fresh := a.fresh.trans b.fresh

theorem setFld (h : Hw) (f : Fld) (i j v : Nat) (hf : recordReg f.reg = true) : RecordsOnly (h.setFld f i j v) h := by
  constructor
  · intro n i' j' hn
    exact reg_setReg_ne _ _ _ _ _ _ _ _ (by rintro ⟨rfl, -⟩; simp [hf] at hn)
  all_goals rfl

theorem count (h : Hw) (f : Fld) (i j v : Nat) (hf : recordReg f.reg = true) : RecordsOnly (h.count f i j v) h :=
  setFld _ _ _ _ _ hf
theorem countWrap (h : Hw) (f : Fld) (i j v : Nat) (hf : recordReg f.reg = true) :
    RecordsOnly (h.countWrap f i j v) h := setFld _ _ _ _ _ hf
theorem setFn (h : Hw) (o : Nat) (x : Fn) : RecordsOnly (h.setFn o x) h := by constructor <;> intros <;> rfl
theorem modFn (h : Hw) (o : Nat) (x : Fn → Fn) : RecordsOnly (h.modFn o x) h := by constructor <;> intros <;> rfl
theorem setPort (h : Hw) (p : Nat) (x : Port) : RecordsOnly (h.setPort p x) h := by constructor <;> intros <;> rfl
theorem emit (h : Hw) (o : Out) : RecordsOnly (h.emit o) h := by constructor <;> intros <;> rfl
theorem wb (h : Hw) (a : Nat) (v : Byte) : RecordsOnly (h.wb a v) h := by constructor <;> intros <;> rfl

theorem each {α : Type} (f : Hw → α → Hw) (k : ∀ h a, RecordsOnly (f h a) h) (l : List α) :
    ∀ h : Hw, RecordsOnly (h.each l f) h := by
  induction l with
  | nil => intro h; exact refl h
  | cons a l ih => intro h; exact (ih (f h a)).trans (k h a)

theorem ite (c : Prop) [Decidable c] {a b h : Hw} (ha : RecordsOnly a h) (hb : RecordsOnly b h) :
    RecordsOnly (if c then a else b) h := by split <;> assumption

theorem leaveL1 (h : Hw) (p : Nat) : RecordsOnly (h.leaveL1 p) h :=
  ((emit _ _).trans (setFld _ _ _ _ _ rfl)).trans (setPort _ _ _)

theorem sendMsix (h : Hw) (o vec : Nat) : RecordsOnly (h.sendMsix o vec) h := by
  unfold Hw.sendMsix
  refine ite _ ?_ (ite _ (setFn _ _ _) ?_)
  · exact ite _ (setFn _ _ _) ((emit _ _).trans (setFn _ _ _))
  · exact (emit _ _).trans (ite _ (leaveL1 _ _) (refl _))

theorem sendAndHold (h : Hw) (o vec : Nat) : RecordsOnly (h.sendAndHold o vec) h :=
  ((sendMsix _ _ _).trans (setFn _ _ _)).trans (setFld _ _ _ _ _ rfl)

theorem event (h : Hw) (o vec : Nat) : RecordsOnly (h.event o vec) h := by
  unfold Hw.event
  exact ite _ (sendAndHold _ _ _) (ite _ (sendAndHold _ _ _) ((setFld _ _ _ _ _ rfl).trans (setFn _ _ _)))

theorem mend (h : Hw) (a n : Nat) : RecordsOnly (h.mend a n) h := by constructor <;> intros <;> rfl

theorem commonsPut (o space : Nat) (l : List Byte) : ∀ (h : Hw) (a : Nat), RecordsOnly (h.commonsPut o space a l) h := by
  induction l with
  | nil => intro h _; exact refl h
  | cons b l ih => intro h a; exact (ih _ _).trans (wb _ _ _)

theorem commonsMend (h : Hw) (o space a n : Nat) : RecordsOnly (h.commonsMend o space a n) h :=
  each _ (fun h _ => ite _ (mend h _ _) (refl h)) _ _

theorem commonsWrite (o space : Nat) (l : List Byte) (h : Hw) (a : Nat) : RecordsOnly (h.commonsWrite o space a l) h :=
  (commonsMend _ _ _ _ _).trans (commonsPut _ _ _ _ _)

theorem slotWrite (h : Hw) (o r tag : Nat) (pl : List Byte) : RecordsOnly (h.slotWrite o r tag pl).2 h := by
  unfold Hw.slotWrite
  dsimp only
  exact (modFn _ _ _).trans (commonsWrite _ _ _ _ _)

theorem slotFlip (h : Hw) (o r i len seq flags type : Nat) : RecordsOnly (h.slotFlip o r i len seq flags type) h := by
  unfold Hw.slotFlip
  have k := (setFld (h.commonsWrite o (h.fld F.COM_RING_BASE_SPACE o r) (h.slotAt o r i)
    (leBytes 8 (slotHeader len seq flags type))) F.COM_RING_PUB_PUB o r (i + 1) rfl).trans (commonsWrite o _ _ h _)
  exact ite _ ((event _ _ _).trans k) k

theorem slotPublish (h : Hw) (o r tag : Nat) (pl : List Byte) (seq flags type : Nat) :
    RecordsOnly (h.slotPublish o r tag pl seq flags type) h :=
  (slotFlip _ _ _ _ _ _ _ _).trans (slotWrite _ _ _ _ _)

theorem eqLose (h : Hw) (o n : Nat) : RecordsOnly (h.eqLose o n) h := (modFn _ _ _).trans (count _ _ _ _ _ rfl)

theorem eqFlip (h : Hw) (o : Nat) : RecordsOnly (h.eqFlip o) h := by
  unfold Hw.eqFlip
  dsimp only
  split
  · exact refl h
  · exact ite _ (((modFn _ _ _).trans (slotPublish _ _ _ _ _ _ _ _)).trans (setFn _ _ _)) ((eqLose _ _ _).trans (setFn _ _ _))

theorem eqPut (h : Hw) (o : Nat) (e : ErrRec) : RecordsOnly (h.eqPut o e) h := by
  unfold Hw.eqPut
  dsimp only
  refine ite _ ((eqLose _ _ _).trans (modFn _ _ _)) ?_
  split
  · exact ite _ (((eqFlip _ _).trans (setFn _ _ _)).trans (modFn _ _ _)) ((setFn _ _ _).trans (modFn _ _ _))
  · exact ite _ ((setFn _ _ _).trans (modFn _ _ _)) ((eqLose _ _ _).trans (modFn _ _ _))

/-- A record changes nothing but what records can change. -/
theorem raise (h : Hw) (sev scope : Nat) (src : Blk) (cause index : Nat) (q : Option Nat) (dests : List Nat)
    (detail : Nat) : RecordsOnly (h.raise sev scope src cause index q dests detail) h := by
  unfold Hw.raise
  dsimp only
  refine (each _ (fun h a => eqPut h a _) _ _).trans ?_
  have k := (count (h.countWrap F.ERR_MSEQ_NEXT) F.ERR_CNT_COUNT 0 sev 1 rfl).trans (countWrap _ _ _ _ _ rfl)
  exact ite _ ((each _ (fun h a => setFld h _ _ _ _ rfl) _ _).trans k) k

theorem raiseCot (h : Hw) (sev : Nat) (src : Blk) (cause c detail : Nat) :
    RecordsOnly (h.raiseCot sev src cause c detail) h := raise _ _ _ _ _ _ _ _ _
theorem raiseParish (h : Hw) (sev : Nat) (src : Blk) (cause n detail : Nat) :
    RecordsOnly (h.raiseParish sev src cause n detail) h := raise _ _ _ _ _ _ _ _ _
theorem raiseModule (h : Hw) (sev : Nat) (src : Blk) (cause detail : Nat) :
    RecordsOnly (h.raiseModule sev src cause detail) h := raise _ _ _ _ _ _ _ _ _
theorem raiseChan (h : Hw) (sev : Nat) (src : Blk) (cause kind o num : Nat) (q : Option Nat) (detail : Nat) :
    RecordsOnly (h.raiseChan sev src cause kind o num q detail) h := raise _ _ _ _ _ _ _ _ _
theorem raiseShared (h : Hw) (sev : Nat) (src : Blk) (cause kind num : Nat) (q : Option Nat) (detail : Nat) :
    RecordsOnly (h.raiseShared sev src cause kind num q detail) h := raise _ _ _ _ _ _ _ _ _

theorem droppedAt (h : Hw) (b : Blk) (kind : Bank) (i j cause detail : Nat) :
    RecordsOnly (h.droppedAt b kind i j cause detail) h := by
  unfold Hw.droppedAt
  split
  · exact raiseCot _ _ _ _ _ _
  · exact raiseCot _ _ _ _ _ _
  · exact raiseCot _ _ _ _ _ _
  · exact ite _ (raiseCot _ _ _ _ _ _) (raiseParish _ _ _ _ _ _)
  · exact raiseChan _ _ _ _ _ _ _ _ _
  · exact raiseModule _ _ _ _ _

theorem dropRecord (h : Hw) (n : RegName) (i j cause detail : Nat) :
    RecordsOnly (h.dropRecord n i j cause detail) h := by
  unfold Hw.dropRecord
  dsimp only
  split
  all_goals first
    | with_reducible exact raiseChan _ _ _ _ _ _ _ _ _
    | with_reducible exact raiseCot _ _ _ _ _ _
    | with_reducible exact raiseShared _ _ _ _ _ _ _ _
    | with_reducible exact ite _ (raise _ _ _ _ _ _ _ _ _) (raiseChan _ _ _ _ _ _ _ _ _)
    | with_reducible exact droppedAt _ _ _ _ _ _ _

/-- A write that is dropped and reported changes nothing but what records can change. -/
theorem refuse (h : Hw) (ag : Agent) (n : RegName) (i j : Nat) : RecordsOnly (h.refuse ag n i j) h :=
  ite _ (refl h) (dropRecord _ _ _ _ _ _)

variable {g h : Hw} (k : RecordsOnly g h)
include k

theorem fld_eq (f : Fld) (i j : Nat) (hn : recordReg f.reg = false) : g.fld f i j = h.fld f i j := by
  simp only [fld, k.reg _ _ _ hn]
theorem flag_eq (f : Fld) (i j : Nat) (hn : recordReg f.reg = false) : g.flag f i j = h.flag f i j := by
  simp only [flag, k.fld_eq _ _ _ hn]
theorem cot_eq (c : Nat) : g.cot c = h.cot c := by simp only [cot, k.cots]
theorem ctx_eq (c : Nat) : g.ctx c = h.ctx c := by simp only [ctx, cot, k.cots]
theorem parish_eq (n : Nat) : g.parish n = h.parish n := by simp only [parish, k.par]
theorem reeve_eq (r : Nat) : g.reeve r = h.reeve r := by simp only [reeve, k.reeves]
theorem frame_eq (f : Nat) : g.frame f = h.frame f := by simp only [frame, k.gran]

end RecordsOnly

variable (h : Hw)

@[simp] theorem storeFields_mem (n : RegName) (i j v : Nat) : (h.storeFields n i j v).mem = h.mem := (rfl)
@[simp] theorem rb_storeFields (n : RegName) (i j v : Nat) (a' : Nat) : (h.storeFields n i j v).rb a' = h.rb a' := (rfl)
@[simp] theorem storeFields_cots (n : RegName) (i j v : Nat) : (h.storeFields n i j v).cots = h.cots := (rfl)
@[simp] theorem cot_storeFields (n : RegName) (i j v : Nat) (c' : Nat) : (h.storeFields n i j v).cot c' = h.cot c' := (rfl)
@[simp] theorem ctx_storeFields (n : RegName) (i j v : Nat) (c' : Nat) : (h.storeFields n i j v).ctx c' = h.ctx c' := (rfl)
@[simp] theorem storeFields_par (n : RegName) (i j v : Nat) : (h.storeFields n i j v).par = h.par := (rfl)
@[simp] theorem parish_storeFields (n : RegName) (i j v : Nat) (n' : Nat) : (h.storeFields n i j v).parish n' = h.parish n' := (rfl)
@[simp] theorem storeFields_reeves (n : RegName) (i j v : Nat) : (h.storeFields n i j v).reeves = h.reeves := (rfl)
@[simp] theorem reeve_storeFields (n : RegName) (i j v : Nat) (r' : Nat) : (h.storeFields n i j v).reeve r' = h.reeve r' := (rfl)
@[simp] theorem storeFields_gran (n : RegName) (i j v : Nat) : (h.storeFields n i j v).gran = h.gran := (rfl)
@[simp] theorem frame_storeFields (n : RegName) (i j v : Nat) (f' : Nat) : (h.storeFields n i j v).frame f' = h.frame f' := (rfl)
@[simp] theorem storeFields_fns (n : RegName) (i j v : Nat) : (h.storeFields n i j v).fns = h.fns := (rfl)
@[simp] theorem fn_storeFields (n : RegName) (i j v : Nat) (o' : Nat) : (h.storeFields n i j v).fn o' = h.fn o' := (rfl)
@[simp] theorem storeFields_ports (n : RegName) (i j v : Nat) : (h.storeFields n i j v).ports = h.ports := (rfl)
@[simp] theorem port_storeFields (n : RegName) (i j v : Nat) (p' : Nat) : (h.storeFields n i j v).port p' = h.port p' := (rfl)
@[simp] theorem storeFields_timers (n : RegName) (i j v : Nat) : (h.storeFields n i j v).timers = h.timers := (rfl)
@[simp] theorem storeFields_lanes (n : RegName) (i j v : Nat) : (h.storeFields n i j v).lanes = h.lanes := (rfl)
@[simp] theorem storeFields_uartRx (n : RegName) (i j v : Nat) : (h.storeFields n i j v).uartRx = h.uartRx := (rfl)
@[simp] theorem storeFields_treadles (n : RegName) (i j v : Nat) : (h.storeFields n i j v).treadles = h.treadles := (rfl)
@[simp] theorem storeFields_edp (n : RegName) (i j v : Nat) : (h.storeFields n i j v).edp = h.edp := (rfl)
@[simp] theorem storeFields_tdm (n : RegName) (i j v : Nat) : (h.storeFields n i j v).tdm = h.tdm := (rfl)
@[simp] theorem storeFields_arb (n : RegName) (i j v : Nat) : (h.storeFields n i j v).arb = h.arb := (rfl)
@[simp] theorem storeFields_modArm (n : RegName) (i j v : Nat) : (h.storeFields n i j v).modArm = h.modArm := (rfl)
@[simp] theorem storeFields_job (n : RegName) (i j v : Nat) : (h.storeFields n i j v).job = h.job := (rfl)
@[simp] theorem storeFields_power (n : RegName) (i j v : Nat) : (h.storeFields n i j v).power = h.power := (rfl)
@[simp] theorem storeFields_boot (n : RegName) (i j v : Nat) : (h.storeFields n i j v).boot = h.boot := (rfl)
@[simp] theorem storeFields_spdm (n : RegName) (i j v : Nat) : (h.storeFields n i j v).spdm = h.spdm := (rfl)
@[simp] theorem storeFields_sbd (n : RegName) (i j v : Nat) : (h.storeFields n i j v).sbd = h.sbd := (rfl)
@[simp] theorem storeFields_memPoison (n : RegName) (i j v : Nat) : (h.storeFields n i j v).memPoison = h.memPoison := (rfl)
@[simp] theorem storeFields_out (n : RegName) (i j v : Nat) : (h.storeFields n i j v).out = h.out := (rfl)
@[simp] theorem storeFields_fresh (n : RegName) (i j v : Nat) : (h.storeFields n i j v).fresh = h.fresh := (rfl)

@[simp] theorem event_cots (o vec : Nat) : (h.event o vec).cots = h.cots := (RecordsOnly.event h _ _).cots
@[simp] theorem cot_event (o vec : Nat) (c' : Nat) : (h.event o vec).cot c' = h.cot c' := (RecordsOnly.event h _ _).cot_eq _
@[simp] theorem ctx_event (o vec : Nat) (c' : Nat) : (h.event o vec).ctx c' = h.ctx c' := (RecordsOnly.event h _ _).ctx_eq _
@[simp] theorem event_par (o vec : Nat) : (h.event o vec).par = h.par := (RecordsOnly.event h _ _).par
@[simp] theorem parish_event (o vec : Nat) (n' : Nat) : (h.event o vec).parish n' = h.parish n' := (RecordsOnly.event h _ _).parish_eq _
@[simp] theorem event_reeves (o vec : Nat) : (h.event o vec).reeves = h.reeves := (RecordsOnly.event h _ _).reeves
@[simp] theorem reeve_event (o vec : Nat) (r' : Nat) : (h.event o vec).reeve r' = h.reeve r' := (RecordsOnly.event h _ _).reeve_eq _
@[simp] theorem event_gran (o vec : Nat) : (h.event o vec).gran = h.gran := (RecordsOnly.event h _ _).gran
@[simp] theorem frame_event (o vec : Nat) (f' : Nat) : (h.event o vec).frame f' = h.frame f' := (RecordsOnly.event h _ _).frame_eq _
@[simp] theorem event_timers (o vec : Nat) : (h.event o vec).timers = h.timers := (RecordsOnly.event h _ _).timers
@[simp] theorem event_lanes (o vec : Nat) : (h.event o vec).lanes = h.lanes := (RecordsOnly.event h _ _).lanes
@[simp] theorem event_uartRx (o vec : Nat) : (h.event o vec).uartRx = h.uartRx := (RecordsOnly.event h _ _).uartRx
@[simp] theorem event_treadles (o vec : Nat) : (h.event o vec).treadles = h.treadles := (RecordsOnly.event h _ _).treadles
@[simp] theorem event_edp (o vec : Nat) : (h.event o vec).edp = h.edp := (RecordsOnly.event h _ _).edp
@[simp] theorem event_tdm (o vec : Nat) : (h.event o vec).tdm = h.tdm := (RecordsOnly.event h _ _).tdm
@[simp] theorem event_arb (o vec : Nat) : (h.event o vec).arb = h.arb := (RecordsOnly.event h _ _).arb
@[simp] theorem event_modArm (o vec : Nat) : (h.event o vec).modArm = h.modArm := (RecordsOnly.event h _ _).modArm
@[simp] theorem event_job (o vec : Nat) : (h.event o vec).job = h.job := (RecordsOnly.event h _ _).job
@[simp] theorem event_power (o vec : Nat) : (h.event o vec).power = h.power := (RecordsOnly.event h _ _).power
@[simp] theorem event_boot (o vec : Nat) : (h.event o vec).boot = h.boot := (RecordsOnly.event h _ _).boot
@[simp] theorem event_spdm (o vec : Nat) : (h.event o vec).spdm = h.spdm := (RecordsOnly.event h _ _).spdm
@[simp] theorem event_sbd (o vec : Nat) : (h.event o vec).sbd = h.sbd := (RecordsOnly.event h _ _).sbd
@[simp] theorem event_fresh (o vec : Nat) : (h.event o vec).fresh = h.fresh := (RecordsOnly.event h _ _).fresh
@[simp] theorem reg_event (o vec : Nat) (n' : RegName) (i' j' : Nat) (hn : recordReg n' = false) :
    (h.event o vec).reg n' i' j' = h.reg n' i' j' := (RecordsOnly.event h _ _).reg _ _ _ hn
@[simp] theorem fld_event (o vec : Nat) (f' : Fld) (i' j' : Nat) (hn : recordReg f'.reg = false) :
    (h.event o vec).fld f' i' j' = h.fld f' i' j' := (RecordsOnly.event h _ _).fld_eq _ _ _ hn
@[simp] theorem flag_event (o vec : Nat) (f' : Fld) (i' j' : Nat) (hn : recordReg f'.reg = false) :
    (h.event o vec).flag f' i' j' = h.flag f' i' j' := (RecordsOnly.event h _ _).flag_eq _ _ _ hn

@[simp] theorem sendMsix_cots (o vec : Nat) : (h.sendMsix o vec).cots = h.cots := (RecordsOnly.sendMsix h _ _).cots
@[simp] theorem cot_sendMsix (o vec : Nat) (c' : Nat) : (h.sendMsix o vec).cot c' = h.cot c' := (RecordsOnly.sendMsix h _ _).cot_eq _
@[simp] theorem ctx_sendMsix (o vec : Nat) (c' : Nat) : (h.sendMsix o vec).ctx c' = h.ctx c' := (RecordsOnly.sendMsix h _ _).ctx_eq _
@[simp] theorem sendMsix_par (o vec : Nat) : (h.sendMsix o vec).par = h.par := (RecordsOnly.sendMsix h _ _).par
@[simp] theorem parish_sendMsix (o vec : Nat) (n' : Nat) : (h.sendMsix o vec).parish n' = h.parish n' := (RecordsOnly.sendMsix h _ _).parish_eq _
@[simp] theorem sendMsix_reeves (o vec : Nat) : (h.sendMsix o vec).reeves = h.reeves := (RecordsOnly.sendMsix h _ _).reeves
@[simp] theorem reeve_sendMsix (o vec : Nat) (r' : Nat) : (h.sendMsix o vec).reeve r' = h.reeve r' := (RecordsOnly.sendMsix h _ _).reeve_eq _
@[simp] theorem sendMsix_gran (o vec : Nat) : (h.sendMsix o vec).gran = h.gran := (RecordsOnly.sendMsix h _ _).gran
@[simp] theorem frame_sendMsix (o vec : Nat) (f' : Nat) : (h.sendMsix o vec).frame f' = h.frame f' := (RecordsOnly.sendMsix h _ _).frame_eq _
@[simp] theorem sendMsix_timers (o vec : Nat) : (h.sendMsix o vec).timers = h.timers := (RecordsOnly.sendMsix h _ _).timers
@[simp] theorem sendMsix_lanes (o vec : Nat) : (h.sendMsix o vec).lanes = h.lanes := (RecordsOnly.sendMsix h _ _).lanes
@[simp] theorem sendMsix_uartRx (o vec : Nat) : (h.sendMsix o vec).uartRx = h.uartRx := (RecordsOnly.sendMsix h _ _).uartRx
@[simp] theorem sendMsix_treadles (o vec : Nat) : (h.sendMsix o vec).treadles = h.treadles := (RecordsOnly.sendMsix h _ _).treadles
@[simp] theorem sendMsix_edp (o vec : Nat) : (h.sendMsix o vec).edp = h.edp := (RecordsOnly.sendMsix h _ _).edp
@[simp] theorem sendMsix_tdm (o vec : Nat) : (h.sendMsix o vec).tdm = h.tdm := (RecordsOnly.sendMsix h _ _).tdm
@[simp] theorem sendMsix_arb (o vec : Nat) : (h.sendMsix o vec).arb = h.arb := (RecordsOnly.sendMsix h _ _).arb
@[simp] theorem sendMsix_modArm (o vec : Nat) : (h.sendMsix o vec).modArm = h.modArm := (RecordsOnly.sendMsix h _ _).modArm
@[simp] theorem sendMsix_job (o vec : Nat) : (h.sendMsix o vec).job = h.job := (RecordsOnly.sendMsix h _ _).job
@[simp] theorem sendMsix_power (o vec : Nat) : (h.sendMsix o vec).power = h.power := (RecordsOnly.sendMsix h _ _).power
@[simp] theorem sendMsix_boot (o vec : Nat) : (h.sendMsix o vec).boot = h.boot := (RecordsOnly.sendMsix h _ _).boot
@[simp] theorem sendMsix_spdm (o vec : Nat) : (h.sendMsix o vec).spdm = h.spdm := (RecordsOnly.sendMsix h _ _).spdm
@[simp] theorem sendMsix_sbd (o vec : Nat) : (h.sendMsix o vec).sbd = h.sbd := (RecordsOnly.sendMsix h _ _).sbd
@[simp] theorem sendMsix_fresh (o vec : Nat) : (h.sendMsix o vec).fresh = h.fresh := (RecordsOnly.sendMsix h _ _).fresh
@[simp] theorem reg_sendMsix (o vec : Nat) (n' : RegName) (i' j' : Nat) (hn : recordReg n' = false) :
    (h.sendMsix o vec).reg n' i' j' = h.reg n' i' j' := (RecordsOnly.sendMsix h _ _).reg _ _ _ hn
@[simp] theorem fld_sendMsix (o vec : Nat) (f' : Fld) (i' j' : Nat) (hn : recordReg f'.reg = false) :
    (h.sendMsix o vec).fld f' i' j' = h.fld f' i' j' := (RecordsOnly.sendMsix h _ _).fld_eq _ _ _ hn
@[simp] theorem flag_sendMsix (o vec : Nat) (f' : Fld) (i' j' : Nat) (hn : recordReg f'.reg = false) :
    (h.sendMsix o vec).flag f' i' j' = h.flag f' i' j' := (RecordsOnly.sendMsix h _ _).flag_eq _ _ _ hn

@[simp] theorem eqFlip_cots (o : Nat) : (h.eqFlip o).cots = h.cots := (RecordsOnly.eqFlip h _).cots
@[simp] theorem cot_eqFlip (o : Nat) (c' : Nat) : (h.eqFlip o).cot c' = h.cot c' := (RecordsOnly.eqFlip h _).cot_eq _
@[simp] theorem ctx_eqFlip (o : Nat) (c' : Nat) : (h.eqFlip o).ctx c' = h.ctx c' := (RecordsOnly.eqFlip h _).ctx_eq _
@[simp] theorem eqFlip_par (o : Nat) : (h.eqFlip o).par = h.par := (RecordsOnly.eqFlip h _).par
@[simp] theorem parish_eqFlip (o : Nat) (n' : Nat) : (h.eqFlip o).parish n' = h.parish n' := (RecordsOnly.eqFlip h _).parish_eq _
@[simp] theorem eqFlip_reeves (o : Nat) : (h.eqFlip o).reeves = h.reeves := (RecordsOnly.eqFlip h _).reeves
@[simp] theorem reeve_eqFlip (o : Nat) (r' : Nat) : (h.eqFlip o).reeve r' = h.reeve r' := (RecordsOnly.eqFlip h _).reeve_eq _
@[simp] theorem eqFlip_gran (o : Nat) : (h.eqFlip o).gran = h.gran := (RecordsOnly.eqFlip h _).gran
@[simp] theorem frame_eqFlip (o : Nat) (f' : Nat) : (h.eqFlip o).frame f' = h.frame f' := (RecordsOnly.eqFlip h _).frame_eq _
@[simp] theorem eqFlip_timers (o : Nat) : (h.eqFlip o).timers = h.timers := (RecordsOnly.eqFlip h _).timers
@[simp] theorem eqFlip_lanes (o : Nat) : (h.eqFlip o).lanes = h.lanes := (RecordsOnly.eqFlip h _).lanes
@[simp] theorem eqFlip_uartRx (o : Nat) : (h.eqFlip o).uartRx = h.uartRx := (RecordsOnly.eqFlip h _).uartRx
@[simp] theorem eqFlip_treadles (o : Nat) : (h.eqFlip o).treadles = h.treadles := (RecordsOnly.eqFlip h _).treadles
@[simp] theorem eqFlip_edp (o : Nat) : (h.eqFlip o).edp = h.edp := (RecordsOnly.eqFlip h _).edp
@[simp] theorem eqFlip_tdm (o : Nat) : (h.eqFlip o).tdm = h.tdm := (RecordsOnly.eqFlip h _).tdm
@[simp] theorem eqFlip_arb (o : Nat) : (h.eqFlip o).arb = h.arb := (RecordsOnly.eqFlip h _).arb
@[simp] theorem eqFlip_modArm (o : Nat) : (h.eqFlip o).modArm = h.modArm := (RecordsOnly.eqFlip h _).modArm
@[simp] theorem eqFlip_job (o : Nat) : (h.eqFlip o).job = h.job := (RecordsOnly.eqFlip h _).job
@[simp] theorem eqFlip_power (o : Nat) : (h.eqFlip o).power = h.power := (RecordsOnly.eqFlip h _).power
@[simp] theorem eqFlip_boot (o : Nat) : (h.eqFlip o).boot = h.boot := (RecordsOnly.eqFlip h _).boot
@[simp] theorem eqFlip_spdm (o : Nat) : (h.eqFlip o).spdm = h.spdm := (RecordsOnly.eqFlip h _).spdm
@[simp] theorem eqFlip_sbd (o : Nat) : (h.eqFlip o).sbd = h.sbd := (RecordsOnly.eqFlip h _).sbd
@[simp] theorem eqFlip_fresh (o : Nat) : (h.eqFlip o).fresh = h.fresh := (RecordsOnly.eqFlip h _).fresh
@[simp] theorem reg_eqFlip (o : Nat) (n' : RegName) (i' j' : Nat) (hn : recordReg n' = false) :
    (h.eqFlip o).reg n' i' j' = h.reg n' i' j' := (RecordsOnly.eqFlip h _).reg _ _ _ hn
@[simp] theorem fld_eqFlip (o : Nat) (f' : Fld) (i' j' : Nat) (hn : recordReg f'.reg = false) :
    (h.eqFlip o).fld f' i' j' = h.fld f' i' j' := (RecordsOnly.eqFlip h _).fld_eq _ _ _ hn
@[simp] theorem flag_eqFlip (o : Nat) (f' : Fld) (i' j' : Nat) (hn : recordReg f'.reg = false) :
    (h.eqFlip o).flag f' i' j' = h.flag f' i' j' := (RecordsOnly.eqFlip h _).flag_eq _ _ _ hn

@[simp] theorem slotPublish_cots (o r tag : Nat) (pl : List Byte) (seq flags type : Nat) : (h.slotPublish o r tag pl seq flags type).cots = h.cots := (RecordsOnly.slotPublish h _ _ _ _ _ _ _).cots
@[simp] theorem cot_slotPublish (o r tag : Nat) (pl : List Byte) (seq flags type : Nat) (c' : Nat) : (h.slotPublish o r tag pl seq flags type).cot c' = h.cot c' := (RecordsOnly.slotPublish h _ _ _ _ _ _ _).cot_eq _
@[simp] theorem ctx_slotPublish (o r tag : Nat) (pl : List Byte) (seq flags type : Nat) (c' : Nat) : (h.slotPublish o r tag pl seq flags type).ctx c' = h.ctx c' := (RecordsOnly.slotPublish h _ _ _ _ _ _ _).ctx_eq _
@[simp] theorem slotPublish_par (o r tag : Nat) (pl : List Byte) (seq flags type : Nat) : (h.slotPublish o r tag pl seq flags type).par = h.par := (RecordsOnly.slotPublish h _ _ _ _ _ _ _).par
@[simp] theorem parish_slotPublish (o r tag : Nat) (pl : List Byte) (seq flags type : Nat) (n' : Nat) : (h.slotPublish o r tag pl seq flags type).parish n' = h.parish n' := (RecordsOnly.slotPublish h _ _ _ _ _ _ _).parish_eq _
@[simp] theorem slotPublish_reeves (o r tag : Nat) (pl : List Byte) (seq flags type : Nat) : (h.slotPublish o r tag pl seq flags type).reeves = h.reeves := (RecordsOnly.slotPublish h _ _ _ _ _ _ _).reeves
@[simp] theorem reeve_slotPublish (o r tag : Nat) (pl : List Byte) (seq flags type : Nat) (r' : Nat) : (h.slotPublish o r tag pl seq flags type).reeve r' = h.reeve r' := (RecordsOnly.slotPublish h _ _ _ _ _ _ _).reeve_eq _
@[simp] theorem slotPublish_gran (o r tag : Nat) (pl : List Byte) (seq flags type : Nat) : (h.slotPublish o r tag pl seq flags type).gran = h.gran := (RecordsOnly.slotPublish h _ _ _ _ _ _ _).gran
@[simp] theorem frame_slotPublish (o r tag : Nat) (pl : List Byte) (seq flags type : Nat) (f' : Nat) : (h.slotPublish o r tag pl seq flags type).frame f' = h.frame f' := (RecordsOnly.slotPublish h _ _ _ _ _ _ _).frame_eq _
@[simp] theorem slotPublish_timers (o r tag : Nat) (pl : List Byte) (seq flags type : Nat) : (h.slotPublish o r tag pl seq flags type).timers = h.timers := (RecordsOnly.slotPublish h _ _ _ _ _ _ _).timers
@[simp] theorem slotPublish_lanes (o r tag : Nat) (pl : List Byte) (seq flags type : Nat) : (h.slotPublish o r tag pl seq flags type).lanes = h.lanes := (RecordsOnly.slotPublish h _ _ _ _ _ _ _).lanes
@[simp] theorem slotPublish_uartRx (o r tag : Nat) (pl : List Byte) (seq flags type : Nat) : (h.slotPublish o r tag pl seq flags type).uartRx = h.uartRx := (RecordsOnly.slotPublish h _ _ _ _ _ _ _).uartRx
@[simp] theorem slotPublish_treadles (o r tag : Nat) (pl : List Byte) (seq flags type : Nat) : (h.slotPublish o r tag pl seq flags type).treadles = h.treadles := (RecordsOnly.slotPublish h _ _ _ _ _ _ _).treadles
@[simp] theorem slotPublish_edp (o r tag : Nat) (pl : List Byte) (seq flags type : Nat) : (h.slotPublish o r tag pl seq flags type).edp = h.edp := (RecordsOnly.slotPublish h _ _ _ _ _ _ _).edp
@[simp] theorem slotPublish_tdm (o r tag : Nat) (pl : List Byte) (seq flags type : Nat) : (h.slotPublish o r tag pl seq flags type).tdm = h.tdm := (RecordsOnly.slotPublish h _ _ _ _ _ _ _).tdm
@[simp] theorem slotPublish_arb (o r tag : Nat) (pl : List Byte) (seq flags type : Nat) : (h.slotPublish o r tag pl seq flags type).arb = h.arb := (RecordsOnly.slotPublish h _ _ _ _ _ _ _).arb
@[simp] theorem slotPublish_modArm (o r tag : Nat) (pl : List Byte) (seq flags type : Nat) : (h.slotPublish o r tag pl seq flags type).modArm = h.modArm := (RecordsOnly.slotPublish h _ _ _ _ _ _ _).modArm
@[simp] theorem slotPublish_job (o r tag : Nat) (pl : List Byte) (seq flags type : Nat) : (h.slotPublish o r tag pl seq flags type).job = h.job := (RecordsOnly.slotPublish h _ _ _ _ _ _ _).job
@[simp] theorem slotPublish_power (o r tag : Nat) (pl : List Byte) (seq flags type : Nat) : (h.slotPublish o r tag pl seq flags type).power = h.power := (RecordsOnly.slotPublish h _ _ _ _ _ _ _).power
@[simp] theorem slotPublish_boot (o r tag : Nat) (pl : List Byte) (seq flags type : Nat) : (h.slotPublish o r tag pl seq flags type).boot = h.boot := (RecordsOnly.slotPublish h _ _ _ _ _ _ _).boot
@[simp] theorem slotPublish_spdm (o r tag : Nat) (pl : List Byte) (seq flags type : Nat) : (h.slotPublish o r tag pl seq flags type).spdm = h.spdm := (RecordsOnly.slotPublish h _ _ _ _ _ _ _).spdm
@[simp] theorem slotPublish_sbd (o r tag : Nat) (pl : List Byte) (seq flags type : Nat) : (h.slotPublish o r tag pl seq flags type).sbd = h.sbd := (RecordsOnly.slotPublish h _ _ _ _ _ _ _).sbd
@[simp] theorem slotPublish_fresh (o r tag : Nat) (pl : List Byte) (seq flags type : Nat) : (h.slotPublish o r tag pl seq flags type).fresh = h.fresh := (RecordsOnly.slotPublish h _ _ _ _ _ _ _).fresh
@[simp] theorem reg_slotPublish (o r tag : Nat) (pl : List Byte) (seq flags type : Nat) (n' : RegName) (i' j' : Nat) (hn : recordReg n' = false) :
    (h.slotPublish o r tag pl seq flags type).reg n' i' j' = h.reg n' i' j' := (RecordsOnly.slotPublish h _ _ _ _ _ _ _).reg _ _ _ hn
@[simp] theorem fld_slotPublish (o r tag : Nat) (pl : List Byte) (seq flags type : Nat) (f' : Fld) (i' j' : Nat) (hn : recordReg f'.reg = false) :
    (h.slotPublish o r tag pl seq flags type).fld f' i' j' = h.fld f' i' j' := (RecordsOnly.slotPublish h _ _ _ _ _ _ _).fld_eq _ _ _ hn
@[simp] theorem flag_slotPublish (o r tag : Nat) (pl : List Byte) (seq flags type : Nat) (f' : Fld) (i' j' : Nat) (hn : recordReg f'.reg = false) :
    (h.slotPublish o r tag pl seq flags type).flag f' i' j' = h.flag f' i' j' := (RecordsOnly.slotPublish h _ _ _ _ _ _ _).flag_eq _ _ _ hn

@[simp] theorem slotFlip_cots (o r i len seq flags type : Nat) : (h.slotFlip o r i len seq flags type).cots = h.cots := (RecordsOnly.slotFlip h _ _ _ _ _ _ _).cots
@[simp] theorem cot_slotFlip (o r i len seq flags type : Nat) (c' : Nat) : (h.slotFlip o r i len seq flags type).cot c' = h.cot c' := (RecordsOnly.slotFlip h _ _ _ _ _ _ _).cot_eq _
@[simp] theorem ctx_slotFlip (o r i len seq flags type : Nat) (c' : Nat) : (h.slotFlip o r i len seq flags type).ctx c' = h.ctx c' := (RecordsOnly.slotFlip h _ _ _ _ _ _ _).ctx_eq _
@[simp] theorem slotFlip_par (o r i len seq flags type : Nat) : (h.slotFlip o r i len seq flags type).par = h.par := (RecordsOnly.slotFlip h _ _ _ _ _ _ _).par
@[simp] theorem parish_slotFlip (o r i len seq flags type : Nat) (n' : Nat) : (h.slotFlip o r i len seq flags type).parish n' = h.parish n' := (RecordsOnly.slotFlip h _ _ _ _ _ _ _).parish_eq _
@[simp] theorem slotFlip_reeves (o r i len seq flags type : Nat) : (h.slotFlip o r i len seq flags type).reeves = h.reeves := (RecordsOnly.slotFlip h _ _ _ _ _ _ _).reeves
@[simp] theorem reeve_slotFlip (o r i len seq flags type : Nat) (r' : Nat) : (h.slotFlip o r i len seq flags type).reeve r' = h.reeve r' := (RecordsOnly.slotFlip h _ _ _ _ _ _ _).reeve_eq _
@[simp] theorem slotFlip_gran (o r i len seq flags type : Nat) : (h.slotFlip o r i len seq flags type).gran = h.gran := (RecordsOnly.slotFlip h _ _ _ _ _ _ _).gran
@[simp] theorem frame_slotFlip (o r i len seq flags type : Nat) (f' : Nat) : (h.slotFlip o r i len seq flags type).frame f' = h.frame f' := (RecordsOnly.slotFlip h _ _ _ _ _ _ _).frame_eq _
@[simp] theorem slotFlip_timers (o r i len seq flags type : Nat) : (h.slotFlip o r i len seq flags type).timers = h.timers := (RecordsOnly.slotFlip h _ _ _ _ _ _ _).timers
@[simp] theorem slotFlip_lanes (o r i len seq flags type : Nat) : (h.slotFlip o r i len seq flags type).lanes = h.lanes := (RecordsOnly.slotFlip h _ _ _ _ _ _ _).lanes
@[simp] theorem slotFlip_uartRx (o r i len seq flags type : Nat) : (h.slotFlip o r i len seq flags type).uartRx = h.uartRx := (RecordsOnly.slotFlip h _ _ _ _ _ _ _).uartRx
@[simp] theorem slotFlip_treadles (o r i len seq flags type : Nat) : (h.slotFlip o r i len seq flags type).treadles = h.treadles := (RecordsOnly.slotFlip h _ _ _ _ _ _ _).treadles
@[simp] theorem slotFlip_edp (o r i len seq flags type : Nat) : (h.slotFlip o r i len seq flags type).edp = h.edp := (RecordsOnly.slotFlip h _ _ _ _ _ _ _).edp
@[simp] theorem slotFlip_tdm (o r i len seq flags type : Nat) : (h.slotFlip o r i len seq flags type).tdm = h.tdm := (RecordsOnly.slotFlip h _ _ _ _ _ _ _).tdm
@[simp] theorem slotFlip_arb (o r i len seq flags type : Nat) : (h.slotFlip o r i len seq flags type).arb = h.arb := (RecordsOnly.slotFlip h _ _ _ _ _ _ _).arb
@[simp] theorem slotFlip_modArm (o r i len seq flags type : Nat) : (h.slotFlip o r i len seq flags type).modArm = h.modArm := (RecordsOnly.slotFlip h _ _ _ _ _ _ _).modArm
@[simp] theorem slotFlip_job (o r i len seq flags type : Nat) : (h.slotFlip o r i len seq flags type).job = h.job := (RecordsOnly.slotFlip h _ _ _ _ _ _ _).job
@[simp] theorem slotFlip_power (o r i len seq flags type : Nat) : (h.slotFlip o r i len seq flags type).power = h.power := (RecordsOnly.slotFlip h _ _ _ _ _ _ _).power
@[simp] theorem slotFlip_boot (o r i len seq flags type : Nat) : (h.slotFlip o r i len seq flags type).boot = h.boot := (RecordsOnly.slotFlip h _ _ _ _ _ _ _).boot
@[simp] theorem slotFlip_spdm (o r i len seq flags type : Nat) : (h.slotFlip o r i len seq flags type).spdm = h.spdm := (RecordsOnly.slotFlip h _ _ _ _ _ _ _).spdm
@[simp] theorem slotFlip_sbd (o r i len seq flags type : Nat) : (h.slotFlip o r i len seq flags type).sbd = h.sbd := (RecordsOnly.slotFlip h _ _ _ _ _ _ _).sbd
@[simp] theorem slotFlip_fresh (o r i len seq flags type : Nat) : (h.slotFlip o r i len seq flags type).fresh = h.fresh := (RecordsOnly.slotFlip h _ _ _ _ _ _ _).fresh
@[simp] theorem reg_slotFlip (o r i len seq flags type : Nat) (n' : RegName) (i' j' : Nat) (hn : recordReg n' = false) :
    (h.slotFlip o r i len seq flags type).reg n' i' j' = h.reg n' i' j' := (RecordsOnly.slotFlip h _ _ _ _ _ _ _).reg _ _ _ hn
@[simp] theorem fld_slotFlip (o r i len seq flags type : Nat) (f' : Fld) (i' j' : Nat) (hn : recordReg f'.reg = false) :
    (h.slotFlip o r i len seq flags type).fld f' i' j' = h.fld f' i' j' := (RecordsOnly.slotFlip h _ _ _ _ _ _ _).fld_eq _ _ _ hn
@[simp] theorem flag_slotFlip (o r i len seq flags type : Nat) (f' : Fld) (i' j' : Nat) (hn : recordReg f'.reg = false) :
    (h.slotFlip o r i len seq flags type).flag f' i' j' = h.flag f' i' j' := (RecordsOnly.slotFlip h _ _ _ _ _ _ _).flag_eq _ _ _ hn

@[simp] theorem raise_cots (sev scope : Nat) (src : Blk) (cause index : Nat) (q : Option Nat) (dests : List Nat) (detail : Nat) : (h.raise sev scope src cause index q dests detail).cots = h.cots := (RecordsOnly.raise h _ _ _ _ _ _ _ _).cots
@[simp] theorem cot_raise (sev scope : Nat) (src : Blk) (cause index : Nat) (q : Option Nat) (dests : List Nat) (detail : Nat) (c' : Nat) : (h.raise sev scope src cause index q dests detail).cot c' = h.cot c' := (RecordsOnly.raise h _ _ _ _ _ _ _ _).cot_eq _
@[simp] theorem ctx_raise (sev scope : Nat) (src : Blk) (cause index : Nat) (q : Option Nat) (dests : List Nat) (detail : Nat) (c' : Nat) : (h.raise sev scope src cause index q dests detail).ctx c' = h.ctx c' := (RecordsOnly.raise h _ _ _ _ _ _ _ _).ctx_eq _
@[simp] theorem raise_par (sev scope : Nat) (src : Blk) (cause index : Nat) (q : Option Nat) (dests : List Nat) (detail : Nat) : (h.raise sev scope src cause index q dests detail).par = h.par := (RecordsOnly.raise h _ _ _ _ _ _ _ _).par
@[simp] theorem parish_raise (sev scope : Nat) (src : Blk) (cause index : Nat) (q : Option Nat) (dests : List Nat) (detail : Nat) (n' : Nat) : (h.raise sev scope src cause index q dests detail).parish n' = h.parish n' := (RecordsOnly.raise h _ _ _ _ _ _ _ _).parish_eq _
@[simp] theorem raise_reeves (sev scope : Nat) (src : Blk) (cause index : Nat) (q : Option Nat) (dests : List Nat) (detail : Nat) : (h.raise sev scope src cause index q dests detail).reeves = h.reeves := (RecordsOnly.raise h _ _ _ _ _ _ _ _).reeves
@[simp] theorem reeve_raise (sev scope : Nat) (src : Blk) (cause index : Nat) (q : Option Nat) (dests : List Nat) (detail : Nat) (r' : Nat) : (h.raise sev scope src cause index q dests detail).reeve r' = h.reeve r' := (RecordsOnly.raise h _ _ _ _ _ _ _ _).reeve_eq _
@[simp] theorem raise_gran (sev scope : Nat) (src : Blk) (cause index : Nat) (q : Option Nat) (dests : List Nat) (detail : Nat) : (h.raise sev scope src cause index q dests detail).gran = h.gran := (RecordsOnly.raise h _ _ _ _ _ _ _ _).gran
@[simp] theorem frame_raise (sev scope : Nat) (src : Blk) (cause index : Nat) (q : Option Nat) (dests : List Nat) (detail : Nat) (f' : Nat) : (h.raise sev scope src cause index q dests detail).frame f' = h.frame f' := (RecordsOnly.raise h _ _ _ _ _ _ _ _).frame_eq _
@[simp] theorem raise_timers (sev scope : Nat) (src : Blk) (cause index : Nat) (q : Option Nat) (dests : List Nat) (detail : Nat) : (h.raise sev scope src cause index q dests detail).timers = h.timers := (RecordsOnly.raise h _ _ _ _ _ _ _ _).timers
@[simp] theorem raise_lanes (sev scope : Nat) (src : Blk) (cause index : Nat) (q : Option Nat) (dests : List Nat) (detail : Nat) : (h.raise sev scope src cause index q dests detail).lanes = h.lanes := (RecordsOnly.raise h _ _ _ _ _ _ _ _).lanes
@[simp] theorem raise_uartRx (sev scope : Nat) (src : Blk) (cause index : Nat) (q : Option Nat) (dests : List Nat) (detail : Nat) : (h.raise sev scope src cause index q dests detail).uartRx = h.uartRx := (RecordsOnly.raise h _ _ _ _ _ _ _ _).uartRx
@[simp] theorem raise_treadles (sev scope : Nat) (src : Blk) (cause index : Nat) (q : Option Nat) (dests : List Nat) (detail : Nat) : (h.raise sev scope src cause index q dests detail).treadles = h.treadles := (RecordsOnly.raise h _ _ _ _ _ _ _ _).treadles
@[simp] theorem raise_edp (sev scope : Nat) (src : Blk) (cause index : Nat) (q : Option Nat) (dests : List Nat) (detail : Nat) : (h.raise sev scope src cause index q dests detail).edp = h.edp := (RecordsOnly.raise h _ _ _ _ _ _ _ _).edp
@[simp] theorem raise_tdm (sev scope : Nat) (src : Blk) (cause index : Nat) (q : Option Nat) (dests : List Nat) (detail : Nat) : (h.raise sev scope src cause index q dests detail).tdm = h.tdm := (RecordsOnly.raise h _ _ _ _ _ _ _ _).tdm
@[simp] theorem raise_arb (sev scope : Nat) (src : Blk) (cause index : Nat) (q : Option Nat) (dests : List Nat) (detail : Nat) : (h.raise sev scope src cause index q dests detail).arb = h.arb := (RecordsOnly.raise h _ _ _ _ _ _ _ _).arb
@[simp] theorem raise_modArm (sev scope : Nat) (src : Blk) (cause index : Nat) (q : Option Nat) (dests : List Nat) (detail : Nat) : (h.raise sev scope src cause index q dests detail).modArm = h.modArm := (RecordsOnly.raise h _ _ _ _ _ _ _ _).modArm
@[simp] theorem raise_job (sev scope : Nat) (src : Blk) (cause index : Nat) (q : Option Nat) (dests : List Nat) (detail : Nat) : (h.raise sev scope src cause index q dests detail).job = h.job := (RecordsOnly.raise h _ _ _ _ _ _ _ _).job
@[simp] theorem raise_power (sev scope : Nat) (src : Blk) (cause index : Nat) (q : Option Nat) (dests : List Nat) (detail : Nat) : (h.raise sev scope src cause index q dests detail).power = h.power := (RecordsOnly.raise h _ _ _ _ _ _ _ _).power
@[simp] theorem raise_boot (sev scope : Nat) (src : Blk) (cause index : Nat) (q : Option Nat) (dests : List Nat) (detail : Nat) : (h.raise sev scope src cause index q dests detail).boot = h.boot := (RecordsOnly.raise h _ _ _ _ _ _ _ _).boot
@[simp] theorem raise_spdm (sev scope : Nat) (src : Blk) (cause index : Nat) (q : Option Nat) (dests : List Nat) (detail : Nat) : (h.raise sev scope src cause index q dests detail).spdm = h.spdm := (RecordsOnly.raise h _ _ _ _ _ _ _ _).spdm
@[simp] theorem raise_sbd (sev scope : Nat) (src : Blk) (cause index : Nat) (q : Option Nat) (dests : List Nat) (detail : Nat) : (h.raise sev scope src cause index q dests detail).sbd = h.sbd := (RecordsOnly.raise h _ _ _ _ _ _ _ _).sbd
@[simp] theorem raise_fresh (sev scope : Nat) (src : Blk) (cause index : Nat) (q : Option Nat) (dests : List Nat) (detail : Nat) : (h.raise sev scope src cause index q dests detail).fresh = h.fresh := (RecordsOnly.raise h _ _ _ _ _ _ _ _).fresh
@[simp] theorem reg_raise (sev scope : Nat) (src : Blk) (cause index : Nat) (q : Option Nat) (dests : List Nat) (detail : Nat) (n' : RegName) (i' j' : Nat) (hn : recordReg n' = false) :
    (h.raise sev scope src cause index q dests detail).reg n' i' j' = h.reg n' i' j' := (RecordsOnly.raise h _ _ _ _ _ _ _ _).reg _ _ _ hn
@[simp] theorem fld_raise (sev scope : Nat) (src : Blk) (cause index : Nat) (q : Option Nat) (dests : List Nat) (detail : Nat) (f' : Fld) (i' j' : Nat) (hn : recordReg f'.reg = false) :
    (h.raise sev scope src cause index q dests detail).fld f' i' j' = h.fld f' i' j' := (RecordsOnly.raise h _ _ _ _ _ _ _ _).fld_eq _ _ _ hn
@[simp] theorem flag_raise (sev scope : Nat) (src : Blk) (cause index : Nat) (q : Option Nat) (dests : List Nat) (detail : Nat) (f' : Fld) (i' j' : Nat) (hn : recordReg f'.reg = false) :
    (h.raise sev scope src cause index q dests detail).flag f' i' j' = h.flag f' i' j' := (RecordsOnly.raise h _ _ _ _ _ _ _ _).flag_eq _ _ _ hn

@[simp] theorem raiseCot_cots (sev : Nat) (src : Blk) (cause c detail : Nat) : (h.raiseCot sev src cause c detail).cots = h.cots := (RecordsOnly.raiseCot h _ _ _ _ _).cots
@[simp] theorem cot_raiseCot (sev : Nat) (src : Blk) (cause c detail : Nat) (c' : Nat) : (h.raiseCot sev src cause c detail).cot c' = h.cot c' := (RecordsOnly.raiseCot h _ _ _ _ _).cot_eq _
@[simp] theorem ctx_raiseCot (sev : Nat) (src : Blk) (cause c detail : Nat) (c' : Nat) : (h.raiseCot sev src cause c detail).ctx c' = h.ctx c' := (RecordsOnly.raiseCot h _ _ _ _ _).ctx_eq _
@[simp] theorem raiseCot_par (sev : Nat) (src : Blk) (cause c detail : Nat) : (h.raiseCot sev src cause c detail).par = h.par := (RecordsOnly.raiseCot h _ _ _ _ _).par
@[simp] theorem parish_raiseCot (sev : Nat) (src : Blk) (cause c detail : Nat) (n' : Nat) : (h.raiseCot sev src cause c detail).parish n' = h.parish n' := (RecordsOnly.raiseCot h _ _ _ _ _).parish_eq _
@[simp] theorem raiseCot_reeves (sev : Nat) (src : Blk) (cause c detail : Nat) : (h.raiseCot sev src cause c detail).reeves = h.reeves := (RecordsOnly.raiseCot h _ _ _ _ _).reeves
@[simp] theorem reeve_raiseCot (sev : Nat) (src : Blk) (cause c detail : Nat) (r' : Nat) : (h.raiseCot sev src cause c detail).reeve r' = h.reeve r' := (RecordsOnly.raiseCot h _ _ _ _ _).reeve_eq _
@[simp] theorem raiseCot_gran (sev : Nat) (src : Blk) (cause c detail : Nat) : (h.raiseCot sev src cause c detail).gran = h.gran := (RecordsOnly.raiseCot h _ _ _ _ _).gran
@[simp] theorem frame_raiseCot (sev : Nat) (src : Blk) (cause c detail : Nat) (f' : Nat) : (h.raiseCot sev src cause c detail).frame f' = h.frame f' := (RecordsOnly.raiseCot h _ _ _ _ _).frame_eq _
@[simp] theorem raiseCot_timers (sev : Nat) (src : Blk) (cause c detail : Nat) : (h.raiseCot sev src cause c detail).timers = h.timers := (RecordsOnly.raiseCot h _ _ _ _ _).timers
@[simp] theorem raiseCot_lanes (sev : Nat) (src : Blk) (cause c detail : Nat) : (h.raiseCot sev src cause c detail).lanes = h.lanes := (RecordsOnly.raiseCot h _ _ _ _ _).lanes
@[simp] theorem raiseCot_uartRx (sev : Nat) (src : Blk) (cause c detail : Nat) : (h.raiseCot sev src cause c detail).uartRx = h.uartRx := (RecordsOnly.raiseCot h _ _ _ _ _).uartRx
@[simp] theorem raiseCot_treadles (sev : Nat) (src : Blk) (cause c detail : Nat) : (h.raiseCot sev src cause c detail).treadles = h.treadles := (RecordsOnly.raiseCot h _ _ _ _ _).treadles
@[simp] theorem raiseCot_edp (sev : Nat) (src : Blk) (cause c detail : Nat) : (h.raiseCot sev src cause c detail).edp = h.edp := (RecordsOnly.raiseCot h _ _ _ _ _).edp
@[simp] theorem raiseCot_tdm (sev : Nat) (src : Blk) (cause c detail : Nat) : (h.raiseCot sev src cause c detail).tdm = h.tdm := (RecordsOnly.raiseCot h _ _ _ _ _).tdm
@[simp] theorem raiseCot_arb (sev : Nat) (src : Blk) (cause c detail : Nat) : (h.raiseCot sev src cause c detail).arb = h.arb := (RecordsOnly.raiseCot h _ _ _ _ _).arb
@[simp] theorem raiseCot_modArm (sev : Nat) (src : Blk) (cause c detail : Nat) : (h.raiseCot sev src cause c detail).modArm = h.modArm := (RecordsOnly.raiseCot h _ _ _ _ _).modArm
@[simp] theorem raiseCot_job (sev : Nat) (src : Blk) (cause c detail : Nat) : (h.raiseCot sev src cause c detail).job = h.job := (RecordsOnly.raiseCot h _ _ _ _ _).job
@[simp] theorem raiseCot_power (sev : Nat) (src : Blk) (cause c detail : Nat) : (h.raiseCot sev src cause c detail).power = h.power := (RecordsOnly.raiseCot h _ _ _ _ _).power
@[simp] theorem raiseCot_boot (sev : Nat) (src : Blk) (cause c detail : Nat) : (h.raiseCot sev src cause c detail).boot = h.boot := (RecordsOnly.raiseCot h _ _ _ _ _).boot
@[simp] theorem raiseCot_spdm (sev : Nat) (src : Blk) (cause c detail : Nat) : (h.raiseCot sev src cause c detail).spdm = h.spdm := (RecordsOnly.raiseCot h _ _ _ _ _).spdm
@[simp] theorem raiseCot_sbd (sev : Nat) (src : Blk) (cause c detail : Nat) : (h.raiseCot sev src cause c detail).sbd = h.sbd := (RecordsOnly.raiseCot h _ _ _ _ _).sbd
@[simp] theorem raiseCot_fresh (sev : Nat) (src : Blk) (cause c detail : Nat) : (h.raiseCot sev src cause c detail).fresh = h.fresh := (RecordsOnly.raiseCot h _ _ _ _ _).fresh
@[simp] theorem reg_raiseCot (sev : Nat) (src : Blk) (cause c detail : Nat) (n' : RegName) (i' j' : Nat) (hn : recordReg n' = false) :
    (h.raiseCot sev src cause c detail).reg n' i' j' = h.reg n' i' j' := (RecordsOnly.raiseCot h _ _ _ _ _).reg _ _ _ hn
@[simp] theorem fld_raiseCot (sev : Nat) (src : Blk) (cause c detail : Nat) (f' : Fld) (i' j' : Nat) (hn : recordReg f'.reg = false) :
    (h.raiseCot sev src cause c detail).fld f' i' j' = h.fld f' i' j' := (RecordsOnly.raiseCot h _ _ _ _ _).fld_eq _ _ _ hn
@[simp] theorem flag_raiseCot (sev : Nat) (src : Blk) (cause c detail : Nat) (f' : Fld) (i' j' : Nat) (hn : recordReg f'.reg = false) :
    (h.raiseCot sev src cause c detail).flag f' i' j' = h.flag f' i' j' := (RecordsOnly.raiseCot h _ _ _ _ _).flag_eq _ _ _ hn

@[simp] theorem raiseParish_cots (sev : Nat) (src : Blk) (cause n detail : Nat) : (h.raiseParish sev src cause n detail).cots = h.cots := (RecordsOnly.raiseParish h _ _ _ _ _).cots
@[simp] theorem cot_raiseParish (sev : Nat) (src : Blk) (cause n detail : Nat) (c' : Nat) : (h.raiseParish sev src cause n detail).cot c' = h.cot c' := (RecordsOnly.raiseParish h _ _ _ _ _).cot_eq _
@[simp] theorem ctx_raiseParish (sev : Nat) (src : Blk) (cause n detail : Nat) (c' : Nat) : (h.raiseParish sev src cause n detail).ctx c' = h.ctx c' := (RecordsOnly.raiseParish h _ _ _ _ _).ctx_eq _
@[simp] theorem raiseParish_par (sev : Nat) (src : Blk) (cause n detail : Nat) : (h.raiseParish sev src cause n detail).par = h.par := (RecordsOnly.raiseParish h _ _ _ _ _).par
@[simp] theorem parish_raiseParish (sev : Nat) (src : Blk) (cause n detail : Nat) (n' : Nat) : (h.raiseParish sev src cause n detail).parish n' = h.parish n' := (RecordsOnly.raiseParish h _ _ _ _ _).parish_eq _
@[simp] theorem raiseParish_reeves (sev : Nat) (src : Blk) (cause n detail : Nat) : (h.raiseParish sev src cause n detail).reeves = h.reeves := (RecordsOnly.raiseParish h _ _ _ _ _).reeves
@[simp] theorem reeve_raiseParish (sev : Nat) (src : Blk) (cause n detail : Nat) (r' : Nat) : (h.raiseParish sev src cause n detail).reeve r' = h.reeve r' := (RecordsOnly.raiseParish h _ _ _ _ _).reeve_eq _
@[simp] theorem raiseParish_gran (sev : Nat) (src : Blk) (cause n detail : Nat) : (h.raiseParish sev src cause n detail).gran = h.gran := (RecordsOnly.raiseParish h _ _ _ _ _).gran
@[simp] theorem frame_raiseParish (sev : Nat) (src : Blk) (cause n detail : Nat) (f' : Nat) : (h.raiseParish sev src cause n detail).frame f' = h.frame f' := (RecordsOnly.raiseParish h _ _ _ _ _).frame_eq _
@[simp] theorem raiseParish_timers (sev : Nat) (src : Blk) (cause n detail : Nat) : (h.raiseParish sev src cause n detail).timers = h.timers := (RecordsOnly.raiseParish h _ _ _ _ _).timers
@[simp] theorem raiseParish_lanes (sev : Nat) (src : Blk) (cause n detail : Nat) : (h.raiseParish sev src cause n detail).lanes = h.lanes := (RecordsOnly.raiseParish h _ _ _ _ _).lanes
@[simp] theorem raiseParish_uartRx (sev : Nat) (src : Blk) (cause n detail : Nat) : (h.raiseParish sev src cause n detail).uartRx = h.uartRx := (RecordsOnly.raiseParish h _ _ _ _ _).uartRx
@[simp] theorem raiseParish_treadles (sev : Nat) (src : Blk) (cause n detail : Nat) : (h.raiseParish sev src cause n detail).treadles = h.treadles := (RecordsOnly.raiseParish h _ _ _ _ _).treadles
@[simp] theorem raiseParish_edp (sev : Nat) (src : Blk) (cause n detail : Nat) : (h.raiseParish sev src cause n detail).edp = h.edp := (RecordsOnly.raiseParish h _ _ _ _ _).edp
@[simp] theorem raiseParish_tdm (sev : Nat) (src : Blk) (cause n detail : Nat) : (h.raiseParish sev src cause n detail).tdm = h.tdm := (RecordsOnly.raiseParish h _ _ _ _ _).tdm
@[simp] theorem raiseParish_arb (sev : Nat) (src : Blk) (cause n detail : Nat) : (h.raiseParish sev src cause n detail).arb = h.arb := (RecordsOnly.raiseParish h _ _ _ _ _).arb
@[simp] theorem raiseParish_modArm (sev : Nat) (src : Blk) (cause n detail : Nat) : (h.raiseParish sev src cause n detail).modArm = h.modArm := (RecordsOnly.raiseParish h _ _ _ _ _).modArm
@[simp] theorem raiseParish_job (sev : Nat) (src : Blk) (cause n detail : Nat) : (h.raiseParish sev src cause n detail).job = h.job := (RecordsOnly.raiseParish h _ _ _ _ _).job
@[simp] theorem raiseParish_power (sev : Nat) (src : Blk) (cause n detail : Nat) : (h.raiseParish sev src cause n detail).power = h.power := (RecordsOnly.raiseParish h _ _ _ _ _).power
@[simp] theorem raiseParish_boot (sev : Nat) (src : Blk) (cause n detail : Nat) : (h.raiseParish sev src cause n detail).boot = h.boot := (RecordsOnly.raiseParish h _ _ _ _ _).boot
@[simp] theorem raiseParish_spdm (sev : Nat) (src : Blk) (cause n detail : Nat) : (h.raiseParish sev src cause n detail).spdm = h.spdm := (RecordsOnly.raiseParish h _ _ _ _ _).spdm
@[simp] theorem raiseParish_sbd (sev : Nat) (src : Blk) (cause n detail : Nat) : (h.raiseParish sev src cause n detail).sbd = h.sbd := (RecordsOnly.raiseParish h _ _ _ _ _).sbd
@[simp] theorem raiseParish_fresh (sev : Nat) (src : Blk) (cause n detail : Nat) : (h.raiseParish sev src cause n detail).fresh = h.fresh := (RecordsOnly.raiseParish h _ _ _ _ _).fresh
@[simp] theorem reg_raiseParish (sev : Nat) (src : Blk) (cause n detail : Nat) (n' : RegName) (i' j' : Nat) (hn : recordReg n' = false) :
    (h.raiseParish sev src cause n detail).reg n' i' j' = h.reg n' i' j' := (RecordsOnly.raiseParish h _ _ _ _ _).reg _ _ _ hn
@[simp] theorem fld_raiseParish (sev : Nat) (src : Blk) (cause n detail : Nat) (f' : Fld) (i' j' : Nat) (hn : recordReg f'.reg = false) :
    (h.raiseParish sev src cause n detail).fld f' i' j' = h.fld f' i' j' := (RecordsOnly.raiseParish h _ _ _ _ _).fld_eq _ _ _ hn
@[simp] theorem flag_raiseParish (sev : Nat) (src : Blk) (cause n detail : Nat) (f' : Fld) (i' j' : Nat) (hn : recordReg f'.reg = false) :
    (h.raiseParish sev src cause n detail).flag f' i' j' = h.flag f' i' j' := (RecordsOnly.raiseParish h _ _ _ _ _).flag_eq _ _ _ hn

@[simp] theorem raiseModule_cots (sev : Nat) (src : Blk) (cause detail : Nat) : (h.raiseModule sev src cause detail).cots = h.cots := (RecordsOnly.raiseModule h _ _ _ _).cots
@[simp] theorem cot_raiseModule (sev : Nat) (src : Blk) (cause detail : Nat) (c' : Nat) : (h.raiseModule sev src cause detail).cot c' = h.cot c' := (RecordsOnly.raiseModule h _ _ _ _).cot_eq _
@[simp] theorem ctx_raiseModule (sev : Nat) (src : Blk) (cause detail : Nat) (c' : Nat) : (h.raiseModule sev src cause detail).ctx c' = h.ctx c' := (RecordsOnly.raiseModule h _ _ _ _).ctx_eq _
@[simp] theorem raiseModule_par (sev : Nat) (src : Blk) (cause detail : Nat) : (h.raiseModule sev src cause detail).par = h.par := (RecordsOnly.raiseModule h _ _ _ _).par
@[simp] theorem parish_raiseModule (sev : Nat) (src : Blk) (cause detail : Nat) (n' : Nat) : (h.raiseModule sev src cause detail).parish n' = h.parish n' := (RecordsOnly.raiseModule h _ _ _ _).parish_eq _
@[simp] theorem raiseModule_reeves (sev : Nat) (src : Blk) (cause detail : Nat) : (h.raiseModule sev src cause detail).reeves = h.reeves := (RecordsOnly.raiseModule h _ _ _ _).reeves
@[simp] theorem reeve_raiseModule (sev : Nat) (src : Blk) (cause detail : Nat) (r' : Nat) : (h.raiseModule sev src cause detail).reeve r' = h.reeve r' := (RecordsOnly.raiseModule h _ _ _ _).reeve_eq _
@[simp] theorem raiseModule_gran (sev : Nat) (src : Blk) (cause detail : Nat) : (h.raiseModule sev src cause detail).gran = h.gran := (RecordsOnly.raiseModule h _ _ _ _).gran
@[simp] theorem frame_raiseModule (sev : Nat) (src : Blk) (cause detail : Nat) (f' : Nat) : (h.raiseModule sev src cause detail).frame f' = h.frame f' := (RecordsOnly.raiseModule h _ _ _ _).frame_eq _
@[simp] theorem raiseModule_timers (sev : Nat) (src : Blk) (cause detail : Nat) : (h.raiseModule sev src cause detail).timers = h.timers := (RecordsOnly.raiseModule h _ _ _ _).timers
@[simp] theorem raiseModule_lanes (sev : Nat) (src : Blk) (cause detail : Nat) : (h.raiseModule sev src cause detail).lanes = h.lanes := (RecordsOnly.raiseModule h _ _ _ _).lanes
@[simp] theorem raiseModule_uartRx (sev : Nat) (src : Blk) (cause detail : Nat) : (h.raiseModule sev src cause detail).uartRx = h.uartRx := (RecordsOnly.raiseModule h _ _ _ _).uartRx
@[simp] theorem raiseModule_treadles (sev : Nat) (src : Blk) (cause detail : Nat) : (h.raiseModule sev src cause detail).treadles = h.treadles := (RecordsOnly.raiseModule h _ _ _ _).treadles
@[simp] theorem raiseModule_edp (sev : Nat) (src : Blk) (cause detail : Nat) : (h.raiseModule sev src cause detail).edp = h.edp := (RecordsOnly.raiseModule h _ _ _ _).edp
@[simp] theorem raiseModule_tdm (sev : Nat) (src : Blk) (cause detail : Nat) : (h.raiseModule sev src cause detail).tdm = h.tdm := (RecordsOnly.raiseModule h _ _ _ _).tdm
@[simp] theorem raiseModule_arb (sev : Nat) (src : Blk) (cause detail : Nat) : (h.raiseModule sev src cause detail).arb = h.arb := (RecordsOnly.raiseModule h _ _ _ _).arb
@[simp] theorem raiseModule_modArm (sev : Nat) (src : Blk) (cause detail : Nat) : (h.raiseModule sev src cause detail).modArm = h.modArm := (RecordsOnly.raiseModule h _ _ _ _).modArm
@[simp] theorem raiseModule_job (sev : Nat) (src : Blk) (cause detail : Nat) : (h.raiseModule sev src cause detail).job = h.job := (RecordsOnly.raiseModule h _ _ _ _).job
@[simp] theorem raiseModule_power (sev : Nat) (src : Blk) (cause detail : Nat) : (h.raiseModule sev src cause detail).power = h.power := (RecordsOnly.raiseModule h _ _ _ _).power
@[simp] theorem raiseModule_boot (sev : Nat) (src : Blk) (cause detail : Nat) : (h.raiseModule sev src cause detail).boot = h.boot := (RecordsOnly.raiseModule h _ _ _ _).boot
@[simp] theorem raiseModule_spdm (sev : Nat) (src : Blk) (cause detail : Nat) : (h.raiseModule sev src cause detail).spdm = h.spdm := (RecordsOnly.raiseModule h _ _ _ _).spdm
@[simp] theorem raiseModule_sbd (sev : Nat) (src : Blk) (cause detail : Nat) : (h.raiseModule sev src cause detail).sbd = h.sbd := (RecordsOnly.raiseModule h _ _ _ _).sbd
@[simp] theorem raiseModule_fresh (sev : Nat) (src : Blk) (cause detail : Nat) : (h.raiseModule sev src cause detail).fresh = h.fresh := (RecordsOnly.raiseModule h _ _ _ _).fresh
@[simp] theorem reg_raiseModule (sev : Nat) (src : Blk) (cause detail : Nat) (n' : RegName) (i' j' : Nat) (hn : recordReg n' = false) :
    (h.raiseModule sev src cause detail).reg n' i' j' = h.reg n' i' j' := (RecordsOnly.raiseModule h _ _ _ _).reg _ _ _ hn
@[simp] theorem fld_raiseModule (sev : Nat) (src : Blk) (cause detail : Nat) (f' : Fld) (i' j' : Nat) (hn : recordReg f'.reg = false) :
    (h.raiseModule sev src cause detail).fld f' i' j' = h.fld f' i' j' := (RecordsOnly.raiseModule h _ _ _ _).fld_eq _ _ _ hn
@[simp] theorem flag_raiseModule (sev : Nat) (src : Blk) (cause detail : Nat) (f' : Fld) (i' j' : Nat) (hn : recordReg f'.reg = false) :
    (h.raiseModule sev src cause detail).flag f' i' j' = h.flag f' i' j' := (RecordsOnly.raiseModule h _ _ _ _).flag_eq _ _ _ hn

@[simp] theorem raiseChan_cots (sev : Nat) (src : Blk) (cause kind o num : Nat) (q : Option Nat) (detail : Nat) : (h.raiseChan sev src cause kind o num q detail).cots = h.cots := (RecordsOnly.raiseChan h _ _ _ _ _ _ _ _).cots
@[simp] theorem cot_raiseChan (sev : Nat) (src : Blk) (cause kind o num : Nat) (q : Option Nat) (detail : Nat) (c' : Nat) : (h.raiseChan sev src cause kind o num q detail).cot c' = h.cot c' := (RecordsOnly.raiseChan h _ _ _ _ _ _ _ _).cot_eq _
@[simp] theorem ctx_raiseChan (sev : Nat) (src : Blk) (cause kind o num : Nat) (q : Option Nat) (detail : Nat) (c' : Nat) : (h.raiseChan sev src cause kind o num q detail).ctx c' = h.ctx c' := (RecordsOnly.raiseChan h _ _ _ _ _ _ _ _).ctx_eq _
@[simp] theorem raiseChan_par (sev : Nat) (src : Blk) (cause kind o num : Nat) (q : Option Nat) (detail : Nat) : (h.raiseChan sev src cause kind o num q detail).par = h.par := (RecordsOnly.raiseChan h _ _ _ _ _ _ _ _).par
@[simp] theorem parish_raiseChan (sev : Nat) (src : Blk) (cause kind o num : Nat) (q : Option Nat) (detail : Nat) (n' : Nat) : (h.raiseChan sev src cause kind o num q detail).parish n' = h.parish n' := (RecordsOnly.raiseChan h _ _ _ _ _ _ _ _).parish_eq _
@[simp] theorem raiseChan_reeves (sev : Nat) (src : Blk) (cause kind o num : Nat) (q : Option Nat) (detail : Nat) : (h.raiseChan sev src cause kind o num q detail).reeves = h.reeves := (RecordsOnly.raiseChan h _ _ _ _ _ _ _ _).reeves
@[simp] theorem reeve_raiseChan (sev : Nat) (src : Blk) (cause kind o num : Nat) (q : Option Nat) (detail : Nat) (r' : Nat) : (h.raiseChan sev src cause kind o num q detail).reeve r' = h.reeve r' := (RecordsOnly.raiseChan h _ _ _ _ _ _ _ _).reeve_eq _
@[simp] theorem raiseChan_gran (sev : Nat) (src : Blk) (cause kind o num : Nat) (q : Option Nat) (detail : Nat) : (h.raiseChan sev src cause kind o num q detail).gran = h.gran := (RecordsOnly.raiseChan h _ _ _ _ _ _ _ _).gran
@[simp] theorem frame_raiseChan (sev : Nat) (src : Blk) (cause kind o num : Nat) (q : Option Nat) (detail : Nat) (f' : Nat) : (h.raiseChan sev src cause kind o num q detail).frame f' = h.frame f' := (RecordsOnly.raiseChan h _ _ _ _ _ _ _ _).frame_eq _
@[simp] theorem raiseChan_timers (sev : Nat) (src : Blk) (cause kind o num : Nat) (q : Option Nat) (detail : Nat) : (h.raiseChan sev src cause kind o num q detail).timers = h.timers := (RecordsOnly.raiseChan h _ _ _ _ _ _ _ _).timers
@[simp] theorem raiseChan_lanes (sev : Nat) (src : Blk) (cause kind o num : Nat) (q : Option Nat) (detail : Nat) : (h.raiseChan sev src cause kind o num q detail).lanes = h.lanes := (RecordsOnly.raiseChan h _ _ _ _ _ _ _ _).lanes
@[simp] theorem raiseChan_uartRx (sev : Nat) (src : Blk) (cause kind o num : Nat) (q : Option Nat) (detail : Nat) : (h.raiseChan sev src cause kind o num q detail).uartRx = h.uartRx := (RecordsOnly.raiseChan h _ _ _ _ _ _ _ _).uartRx
@[simp] theorem raiseChan_treadles (sev : Nat) (src : Blk) (cause kind o num : Nat) (q : Option Nat) (detail : Nat) : (h.raiseChan sev src cause kind o num q detail).treadles = h.treadles := (RecordsOnly.raiseChan h _ _ _ _ _ _ _ _).treadles
@[simp] theorem raiseChan_edp (sev : Nat) (src : Blk) (cause kind o num : Nat) (q : Option Nat) (detail : Nat) : (h.raiseChan sev src cause kind o num q detail).edp = h.edp := (RecordsOnly.raiseChan h _ _ _ _ _ _ _ _).edp
@[simp] theorem raiseChan_tdm (sev : Nat) (src : Blk) (cause kind o num : Nat) (q : Option Nat) (detail : Nat) : (h.raiseChan sev src cause kind o num q detail).tdm = h.tdm := (RecordsOnly.raiseChan h _ _ _ _ _ _ _ _).tdm
@[simp] theorem raiseChan_arb (sev : Nat) (src : Blk) (cause kind o num : Nat) (q : Option Nat) (detail : Nat) : (h.raiseChan sev src cause kind o num q detail).arb = h.arb := (RecordsOnly.raiseChan h _ _ _ _ _ _ _ _).arb
@[simp] theorem raiseChan_modArm (sev : Nat) (src : Blk) (cause kind o num : Nat) (q : Option Nat) (detail : Nat) : (h.raiseChan sev src cause kind o num q detail).modArm = h.modArm := (RecordsOnly.raiseChan h _ _ _ _ _ _ _ _).modArm
@[simp] theorem raiseChan_job (sev : Nat) (src : Blk) (cause kind o num : Nat) (q : Option Nat) (detail : Nat) : (h.raiseChan sev src cause kind o num q detail).job = h.job := (RecordsOnly.raiseChan h _ _ _ _ _ _ _ _).job
@[simp] theorem raiseChan_power (sev : Nat) (src : Blk) (cause kind o num : Nat) (q : Option Nat) (detail : Nat) : (h.raiseChan sev src cause kind o num q detail).power = h.power := (RecordsOnly.raiseChan h _ _ _ _ _ _ _ _).power
@[simp] theorem raiseChan_boot (sev : Nat) (src : Blk) (cause kind o num : Nat) (q : Option Nat) (detail : Nat) : (h.raiseChan sev src cause kind o num q detail).boot = h.boot := (RecordsOnly.raiseChan h _ _ _ _ _ _ _ _).boot
@[simp] theorem raiseChan_spdm (sev : Nat) (src : Blk) (cause kind o num : Nat) (q : Option Nat) (detail : Nat) : (h.raiseChan sev src cause kind o num q detail).spdm = h.spdm := (RecordsOnly.raiseChan h _ _ _ _ _ _ _ _).spdm
@[simp] theorem raiseChan_sbd (sev : Nat) (src : Blk) (cause kind o num : Nat) (q : Option Nat) (detail : Nat) : (h.raiseChan sev src cause kind o num q detail).sbd = h.sbd := (RecordsOnly.raiseChan h _ _ _ _ _ _ _ _).sbd
@[simp] theorem raiseChan_fresh (sev : Nat) (src : Blk) (cause kind o num : Nat) (q : Option Nat) (detail : Nat) : (h.raiseChan sev src cause kind o num q detail).fresh = h.fresh := (RecordsOnly.raiseChan h _ _ _ _ _ _ _ _).fresh
@[simp] theorem reg_raiseChan (sev : Nat) (src : Blk) (cause kind o num : Nat) (q : Option Nat) (detail : Nat) (n' : RegName) (i' j' : Nat) (hn : recordReg n' = false) :
    (h.raiseChan sev src cause kind o num q detail).reg n' i' j' = h.reg n' i' j' := (RecordsOnly.raiseChan h _ _ _ _ _ _ _ _).reg _ _ _ hn
@[simp] theorem fld_raiseChan (sev : Nat) (src : Blk) (cause kind o num : Nat) (q : Option Nat) (detail : Nat) (f' : Fld) (i' j' : Nat) (hn : recordReg f'.reg = false) :
    (h.raiseChan sev src cause kind o num q detail).fld f' i' j' = h.fld f' i' j' := (RecordsOnly.raiseChan h _ _ _ _ _ _ _ _).fld_eq _ _ _ hn
@[simp] theorem flag_raiseChan (sev : Nat) (src : Blk) (cause kind o num : Nat) (q : Option Nat) (detail : Nat) (f' : Fld) (i' j' : Nat) (hn : recordReg f'.reg = false) :
    (h.raiseChan sev src cause kind o num q detail).flag f' i' j' = h.flag f' i' j' := (RecordsOnly.raiseChan h _ _ _ _ _ _ _ _).flag_eq _ _ _ hn

@[simp] theorem raiseShared_cots (sev : Nat) (src : Blk) (cause kind num : Nat) (q : Option Nat) (detail : Nat) : (h.raiseShared sev src cause kind num q detail).cots = h.cots := (RecordsOnly.raiseShared h _ _ _ _ _ _ _).cots
@[simp] theorem cot_raiseShared (sev : Nat) (src : Blk) (cause kind num : Nat) (q : Option Nat) (detail : Nat) (c' : Nat) : (h.raiseShared sev src cause kind num q detail).cot c' = h.cot c' := (RecordsOnly.raiseShared h _ _ _ _ _ _ _).cot_eq _
@[simp] theorem ctx_raiseShared (sev : Nat) (src : Blk) (cause kind num : Nat) (q : Option Nat) (detail : Nat) (c' : Nat) : (h.raiseShared sev src cause kind num q detail).ctx c' = h.ctx c' := (RecordsOnly.raiseShared h _ _ _ _ _ _ _).ctx_eq _
@[simp] theorem raiseShared_par (sev : Nat) (src : Blk) (cause kind num : Nat) (q : Option Nat) (detail : Nat) : (h.raiseShared sev src cause kind num q detail).par = h.par := (RecordsOnly.raiseShared h _ _ _ _ _ _ _).par
@[simp] theorem parish_raiseShared (sev : Nat) (src : Blk) (cause kind num : Nat) (q : Option Nat) (detail : Nat) (n' : Nat) : (h.raiseShared sev src cause kind num q detail).parish n' = h.parish n' := (RecordsOnly.raiseShared h _ _ _ _ _ _ _).parish_eq _
@[simp] theorem raiseShared_reeves (sev : Nat) (src : Blk) (cause kind num : Nat) (q : Option Nat) (detail : Nat) : (h.raiseShared sev src cause kind num q detail).reeves = h.reeves := (RecordsOnly.raiseShared h _ _ _ _ _ _ _).reeves
@[simp] theorem reeve_raiseShared (sev : Nat) (src : Blk) (cause kind num : Nat) (q : Option Nat) (detail : Nat) (r' : Nat) : (h.raiseShared sev src cause kind num q detail).reeve r' = h.reeve r' := (RecordsOnly.raiseShared h _ _ _ _ _ _ _).reeve_eq _
@[simp] theorem raiseShared_gran (sev : Nat) (src : Blk) (cause kind num : Nat) (q : Option Nat) (detail : Nat) : (h.raiseShared sev src cause kind num q detail).gran = h.gran := (RecordsOnly.raiseShared h _ _ _ _ _ _ _).gran
@[simp] theorem frame_raiseShared (sev : Nat) (src : Blk) (cause kind num : Nat) (q : Option Nat) (detail : Nat) (f' : Nat) : (h.raiseShared sev src cause kind num q detail).frame f' = h.frame f' := (RecordsOnly.raiseShared h _ _ _ _ _ _ _).frame_eq _
@[simp] theorem raiseShared_timers (sev : Nat) (src : Blk) (cause kind num : Nat) (q : Option Nat) (detail : Nat) : (h.raiseShared sev src cause kind num q detail).timers = h.timers := (RecordsOnly.raiseShared h _ _ _ _ _ _ _).timers
@[simp] theorem raiseShared_lanes (sev : Nat) (src : Blk) (cause kind num : Nat) (q : Option Nat) (detail : Nat) : (h.raiseShared sev src cause kind num q detail).lanes = h.lanes := (RecordsOnly.raiseShared h _ _ _ _ _ _ _).lanes
@[simp] theorem raiseShared_uartRx (sev : Nat) (src : Blk) (cause kind num : Nat) (q : Option Nat) (detail : Nat) : (h.raiseShared sev src cause kind num q detail).uartRx = h.uartRx := (RecordsOnly.raiseShared h _ _ _ _ _ _ _).uartRx
@[simp] theorem raiseShared_treadles (sev : Nat) (src : Blk) (cause kind num : Nat) (q : Option Nat) (detail : Nat) : (h.raiseShared sev src cause kind num q detail).treadles = h.treadles := (RecordsOnly.raiseShared h _ _ _ _ _ _ _).treadles
@[simp] theorem raiseShared_edp (sev : Nat) (src : Blk) (cause kind num : Nat) (q : Option Nat) (detail : Nat) : (h.raiseShared sev src cause kind num q detail).edp = h.edp := (RecordsOnly.raiseShared h _ _ _ _ _ _ _).edp
@[simp] theorem raiseShared_tdm (sev : Nat) (src : Blk) (cause kind num : Nat) (q : Option Nat) (detail : Nat) : (h.raiseShared sev src cause kind num q detail).tdm = h.tdm := (RecordsOnly.raiseShared h _ _ _ _ _ _ _).tdm
@[simp] theorem raiseShared_arb (sev : Nat) (src : Blk) (cause kind num : Nat) (q : Option Nat) (detail : Nat) : (h.raiseShared sev src cause kind num q detail).arb = h.arb := (RecordsOnly.raiseShared h _ _ _ _ _ _ _).arb
@[simp] theorem raiseShared_modArm (sev : Nat) (src : Blk) (cause kind num : Nat) (q : Option Nat) (detail : Nat) : (h.raiseShared sev src cause kind num q detail).modArm = h.modArm := (RecordsOnly.raiseShared h _ _ _ _ _ _ _).modArm
@[simp] theorem raiseShared_job (sev : Nat) (src : Blk) (cause kind num : Nat) (q : Option Nat) (detail : Nat) : (h.raiseShared sev src cause kind num q detail).job = h.job := (RecordsOnly.raiseShared h _ _ _ _ _ _ _).job
@[simp] theorem raiseShared_power (sev : Nat) (src : Blk) (cause kind num : Nat) (q : Option Nat) (detail : Nat) : (h.raiseShared sev src cause kind num q detail).power = h.power := (RecordsOnly.raiseShared h _ _ _ _ _ _ _).power
@[simp] theorem raiseShared_boot (sev : Nat) (src : Blk) (cause kind num : Nat) (q : Option Nat) (detail : Nat) : (h.raiseShared sev src cause kind num q detail).boot = h.boot := (RecordsOnly.raiseShared h _ _ _ _ _ _ _).boot
@[simp] theorem raiseShared_spdm (sev : Nat) (src : Blk) (cause kind num : Nat) (q : Option Nat) (detail : Nat) : (h.raiseShared sev src cause kind num q detail).spdm = h.spdm := (RecordsOnly.raiseShared h _ _ _ _ _ _ _).spdm
@[simp] theorem raiseShared_sbd (sev : Nat) (src : Blk) (cause kind num : Nat) (q : Option Nat) (detail : Nat) : (h.raiseShared sev src cause kind num q detail).sbd = h.sbd := (RecordsOnly.raiseShared h _ _ _ _ _ _ _).sbd
@[simp] theorem raiseShared_fresh (sev : Nat) (src : Blk) (cause kind num : Nat) (q : Option Nat) (detail : Nat) : (h.raiseShared sev src cause kind num q detail).fresh = h.fresh := (RecordsOnly.raiseShared h _ _ _ _ _ _ _).fresh
@[simp] theorem reg_raiseShared (sev : Nat) (src : Blk) (cause kind num : Nat) (q : Option Nat) (detail : Nat) (n' : RegName) (i' j' : Nat) (hn : recordReg n' = false) :
    (h.raiseShared sev src cause kind num q detail).reg n' i' j' = h.reg n' i' j' := (RecordsOnly.raiseShared h _ _ _ _ _ _ _).reg _ _ _ hn
@[simp] theorem fld_raiseShared (sev : Nat) (src : Blk) (cause kind num : Nat) (q : Option Nat) (detail : Nat) (f' : Fld) (i' j' : Nat) (hn : recordReg f'.reg = false) :
    (h.raiseShared sev src cause kind num q detail).fld f' i' j' = h.fld f' i' j' := (RecordsOnly.raiseShared h _ _ _ _ _ _ _).fld_eq _ _ _ hn
@[simp] theorem flag_raiseShared (sev : Nat) (src : Blk) (cause kind num : Nat) (q : Option Nat) (detail : Nat) (f' : Fld) (i' j' : Nat) (hn : recordReg f'.reg = false) :
    (h.raiseShared sev src cause kind num q detail).flag f' i' j' = h.flag f' i' j' := (RecordsOnly.raiseShared h _ _ _ _ _ _ _).flag_eq _ _ _ hn

@[simp] theorem refuse_cots (ag : Agent) (n : RegName) (i j : Nat) : (h.refuse ag n i j).cots = h.cots := (RecordsOnly.refuse h _ _ _ _).cots
@[simp] theorem cot_refuse (ag : Agent) (n : RegName) (i j : Nat) (c' : Nat) : (h.refuse ag n i j).cot c' = h.cot c' := (RecordsOnly.refuse h _ _ _ _).cot_eq _
@[simp] theorem ctx_refuse (ag : Agent) (n : RegName) (i j : Nat) (c' : Nat) : (h.refuse ag n i j).ctx c' = h.ctx c' := (RecordsOnly.refuse h _ _ _ _).ctx_eq _
@[simp] theorem refuse_par (ag : Agent) (n : RegName) (i j : Nat) : (h.refuse ag n i j).par = h.par := (RecordsOnly.refuse h _ _ _ _).par
@[simp] theorem parish_refuse (ag : Agent) (n : RegName) (i j : Nat) (n' : Nat) : (h.refuse ag n i j).parish n' = h.parish n' := (RecordsOnly.refuse h _ _ _ _).parish_eq _
@[simp] theorem refuse_reeves (ag : Agent) (n : RegName) (i j : Nat) : (h.refuse ag n i j).reeves = h.reeves := (RecordsOnly.refuse h _ _ _ _).reeves
@[simp] theorem reeve_refuse (ag : Agent) (n : RegName) (i j : Nat) (r' : Nat) : (h.refuse ag n i j).reeve r' = h.reeve r' := (RecordsOnly.refuse h _ _ _ _).reeve_eq _
@[simp] theorem refuse_gran (ag : Agent) (n : RegName) (i j : Nat) : (h.refuse ag n i j).gran = h.gran := (RecordsOnly.refuse h _ _ _ _).gran
@[simp] theorem frame_refuse (ag : Agent) (n : RegName) (i j : Nat) (f' : Nat) : (h.refuse ag n i j).frame f' = h.frame f' := (RecordsOnly.refuse h _ _ _ _).frame_eq _
@[simp] theorem refuse_timers (ag : Agent) (n : RegName) (i j : Nat) : (h.refuse ag n i j).timers = h.timers := (RecordsOnly.refuse h _ _ _ _).timers
@[simp] theorem refuse_lanes (ag : Agent) (n : RegName) (i j : Nat) : (h.refuse ag n i j).lanes = h.lanes := (RecordsOnly.refuse h _ _ _ _).lanes
@[simp] theorem refuse_uartRx (ag : Agent) (n : RegName) (i j : Nat) : (h.refuse ag n i j).uartRx = h.uartRx := (RecordsOnly.refuse h _ _ _ _).uartRx
@[simp] theorem refuse_treadles (ag : Agent) (n : RegName) (i j : Nat) : (h.refuse ag n i j).treadles = h.treadles := (RecordsOnly.refuse h _ _ _ _).treadles
@[simp] theorem refuse_edp (ag : Agent) (n : RegName) (i j : Nat) : (h.refuse ag n i j).edp = h.edp := (RecordsOnly.refuse h _ _ _ _).edp
@[simp] theorem refuse_tdm (ag : Agent) (n : RegName) (i j : Nat) : (h.refuse ag n i j).tdm = h.tdm := (RecordsOnly.refuse h _ _ _ _).tdm
@[simp] theorem refuse_arb (ag : Agent) (n : RegName) (i j : Nat) : (h.refuse ag n i j).arb = h.arb := (RecordsOnly.refuse h _ _ _ _).arb
@[simp] theorem refuse_modArm (ag : Agent) (n : RegName) (i j : Nat) : (h.refuse ag n i j).modArm = h.modArm := (RecordsOnly.refuse h _ _ _ _).modArm
@[simp] theorem refuse_job (ag : Agent) (n : RegName) (i j : Nat) : (h.refuse ag n i j).job = h.job := (RecordsOnly.refuse h _ _ _ _).job
@[simp] theorem refuse_power (ag : Agent) (n : RegName) (i j : Nat) : (h.refuse ag n i j).power = h.power := (RecordsOnly.refuse h _ _ _ _).power
@[simp] theorem refuse_boot (ag : Agent) (n : RegName) (i j : Nat) : (h.refuse ag n i j).boot = h.boot := (RecordsOnly.refuse h _ _ _ _).boot
@[simp] theorem refuse_spdm (ag : Agent) (n : RegName) (i j : Nat) : (h.refuse ag n i j).spdm = h.spdm := (RecordsOnly.refuse h _ _ _ _).spdm
@[simp] theorem refuse_sbd (ag : Agent) (n : RegName) (i j : Nat) : (h.refuse ag n i j).sbd = h.sbd := (RecordsOnly.refuse h _ _ _ _).sbd
@[simp] theorem refuse_fresh (ag : Agent) (n : RegName) (i j : Nat) : (h.refuse ag n i j).fresh = h.fresh := (RecordsOnly.refuse h _ _ _ _).fresh
@[simp] theorem reg_refuse (ag : Agent) (n : RegName) (i j : Nat) (n' : RegName) (i' j' : Nat) (hn : recordReg n' = false) :
    (h.refuse ag n i j).reg n' i' j' = h.reg n' i' j' := (RecordsOnly.refuse h _ _ _ _).reg _ _ _ hn
@[simp] theorem fld_refuse (ag : Agent) (n : RegName) (i j : Nat) (f' : Fld) (i' j' : Nat) (hn : recordReg f'.reg = false) :
    (h.refuse ag n i j).fld f' i' j' = h.fld f' i' j' := (RecordsOnly.refuse h _ _ _ _).fld_eq _ _ _ hn
@[simp] theorem flag_refuse (ag : Agent) (n : RegName) (i j : Nat) (f' : Fld) (i' j' : Nat) (hn : recordReg f'.reg = false) :
    (h.refuse ag n i j).flag f' i' j' = h.flag f' i' j' := (RecordsOnly.refuse h _ _ _ _).flag_eq _ _ _ hn

end Sys2Proof.Machine.Hw
end

