-- ==== Sys2Proof/Laws/Access.lean ====
section
/-!
SUPPORT. Laws of register writes: what a field reads after its register was written, and what the guard of a write lets
through. -/

namespace Sys2Proof.Machine

/-- Two fields have no bit in common. -/
def FieldDesc.apart (f g : FieldDesc) : Bool := decide (f.hi < g.lo) || decide (g.hi < f.lo)

/-- The fields of a row lie within 64 bits, apart from each other. -/
def fieldsApart : List FieldDesc → Bool
  | [] => true
  | f :: fs => decide (f.lo ≤ f.hi) && decide (f.hi < 64) && fs.all f.apart && fieldsApart fs

/-- In every row of the register map they do. -/
theorem fields_apart (n : RegName) : fieldsApart n.desc.fields = true := by cases n <;> decide

theorem store_lt (a : Acc) (old v w : Nat) (ho : old < 2 ^ w) (hv : v < 2 ^ w) : a.store old v < 2 ^ w := by
  cases a <;> simp only [Acc.store]
  · exact hv
  · exact ho
  · exact ho
  · exact Nat.and_lt_two_pow _ (Nat.xor_lt_two_pow ho hv)
  · exact Nat.or_lt_two_pow ho hv
  · exact hv

theorem merge_other (fs : List FieldDesc) (old v hi lo : Nat) :
    ∀ acc, (∀ f ∈ fs, f.lo ≤ f.hi ∧ (hi < f.lo ∨ f.hi < lo)) →
    bits (fs.foldl (fun acc f => setBits acc f.hi f.lo (f.acc.store (bits old f.hi f.lo) (bits v f.hi f.lo))) acc) hi lo =
      bits acc hi lo := by
  induction fs with
  | nil => intro acc _; rfl
  | cons f fs ih =>
    intro acc k
    have kf := k f (by simp)
    rw [List.foldl_cons, ih _ fun g hg => k g (by simp [hg]), bits_setBits_ne _ _ _ _ _ _ kf.1 kf.2]

theorem merge_field (fs : List FieldDesc) (old v : Nat) (f : FieldDesc) :
    ∀ acc, fieldsApart fs = true → f ∈ fs →
    bits (fs.foldl (fun acc f => setBits acc f.hi f.lo (f.acc.store (bits old f.hi f.lo) (bits v f.hi f.lo))) acc) f.hi f.lo =
      f.acc.store (bits old f.hi f.lo) (bits v f.hi f.lo) := by
  induction fs with
  | nil => intro acc _ hf; cases hf
  | cons g fs ih =>
    intro acc k hf
    simp only [fieldsApart, Bool.and_eq_true, decide_eq_true_eq, List.all_eq_true] at k
    obtain ⟨⟨⟨k1, k2⟩, k3⟩, k4⟩ := k
    rw [List.foldl_cons]
    by_cases hm : f ∈ fs
    · exact ih _ k4 hm
    · have e : f = g := by simpa [hm] using hf
      subst e
      have wf : ∀ x ∈ fs, x.lo ≤ x.hi := by
        clear ih k3 hm hf
        induction fs with
        | nil => simp
        | cons y ys ih2 =>
          simp only [fieldsApart, Bool.and_eq_true, decide_eq_true_eq] at k4
          intro x hx
          rcases List.mem_cons.1 hx with rfl | hx
          · exact k4.1.1.1
          · exact ih2 k4.2 x hx
      rw [merge_other, bits_setBits_same _ _ _ _ k1]
      · exact Nat.mod_eq_of_lt (store_lt _ _ _ _ (bits_lt _ _ _) (bits_lt _ _ _))
      · intro x hx
        refine ⟨wf x hx, ?_⟩
        have := k3 x hx
        simp only [FieldDesc.apart, Bool.or_eq_true, decide_eq_true_eq] at this
        exact this

namespace Hw

variable (h : Hw)

/-- A field after a write of its register: what its access type stores (R5). -/
theorem fld_storeFields (n : RegName) (i j v : Nat) (f : Fld) (d : FieldDesc) (hd : d ∈ n.desc.fields)
    (e : f = ⟨n, d.hi, d.lo⟩) (u : d.hi < 64) :
    (h.storeFields n i j v).fld f i j = d.acc.store (h.fld f i j) (bits v d.hi d.lo) := by
  subst e
  simp only [fld, storeFields, reg_setReg_same, BitVec.toNat_ofNat, bits_mod _ _ _ _ u, mergeFields]
  exact merge_field _ _ _ _ _ (fields_apart n) hd

theorem fld_storeFields_off (n : RegName) (i j v : Nat) (f : Fld) (i' j' : Nat) (d : n ≠ f.reg) :
    (h.storeFields n i j v).fld f i' j' = h.fld f i' j' := fld_setReg_ne _ _ _ _ _ _ _ _ (by simp [d])

/-- The guard lets an allowed write of a register in view through. -/
theorem guarded_ok (ag : Agent) (n : RegName) (i j v : Nat) (ok : Bool) (act : Hw → Hw) (hs : h.sees ag n i j = true)
    (hl : h.changesLocked ag n i j v = false) (ho : ok = true) : h.guarded ag n i j v ok act = act h := by
  simp [guarded, hs, hl, ho]

/-- It drops and reports any other write of a register in view. -/
theorem guarded_refuses (ag : Agent) (n : RegName) (i j v : Nat) (ok : Bool) (act : Hw → Hw)
    (hs : h.sees ag n i j = true) (ho : h.changesLocked ag n i j v = true ∨ ok = false) :
    h.guarded ag n i j v ok act = h.refuse ag n i j := by
  rcases ho with ho | ho <;> simp [guarded, hs, ho]

end Hw

end Sys2Proof.Machine
end

