-- ==== Sys2Proof/Laws/Bank.lean ====
section
/-!
SUPPORT. Laws of the command banks: what taking a command up, turning one away and completing one do. -/

namespace Sys2Proof.Machine.Hw

variable (h : Hw)

/-! ### Events and signals -/

@[simp] theorem sendMsix_mem (o vec : Nat) : (h.sendMsix o vec).mem = h.mem := by
  unfold sendMsix leaveL1
  dsimp only
  repeat' split
  all_goals simp

@[simp] theorem event_mem (o vec : Nat) : (h.event o vec).mem = h.mem := by
  unfold event sendAndHold
  dsimp only
  repeat' split
  all_goals simp

theorem bankSignal_only (p vec : Nat) : RecordsOnly (h.bankSignal p vec) h := by
  unfold bankSignal; split
  · exact RecordsOnly.event h _ _
  · exact RecordsOnly.refl h

theorem bankSignal_mem (p vec : Nat) : (h.bankSignal p vec).mem = h.mem := by
  unfold bankSignal; split
  · exact event_mem h _ _
  · rfl

/-- The log of a read's end leaves the block alone. -/
theorem aerRead_out (p : Nat) (how : ReadEnd) : ∃ o, h.aerRead p how = { h with out := o } := by
  cases how <;> exact ⟨_, rfl⟩

/-! ### Bank registers -/

/-- The registers of STATE and CODE. -/
def bankReg : RegName → Bool
  | .ARM_STAT | .LOM_STG_STAT | .PWR_TEST_STAT | .RVE_FW_STAT => true
  | _ => false

/-- Block g is h but for registers of STATE and CODE. -/
structure BankRegs (g h : Hw) : Prop where
  only : ∃ r, g = { h with regs := r }
  reg : ∀ n i j, bankReg n = false → g.reg n i j = h.reg n i j

theorem BankRegs.trans {g h k : Hw} (a : BankRegs k g) (b : BankRegs g h) : BankRegs k h := by
  refine ⟨?_, fun n i j e => (a.reg n i j e).trans (b.reg n i j e)⟩
  obtain ⟨⟨_, rfl⟩, -⟩ := b; obtain ⟨⟨_, rfl⟩, -⟩ := a; exact ⟨_, rfl⟩
theorem BankRegs.setFld (f : Fld) (i j v : Nat) (b : bankReg f.reg = true) : BankRegs (h.setFld f i j v) h :=
  ⟨⟨_, rfl⟩, fun n i' j' e => reg_setFld_reg _ _ _ _ _ _ _ _ (by intro q; subst q; rw [b] at e; cases e)⟩

theorem setBankState_only (k p v : Nat) : BankRegs (h.setBankState k p v) h := by
  unfold setBankState; split <;> exact BankRegs.setFld _ _ _ _ _ rfl
theorem setBankCode_only (k p v : Nat) : BankRegs (h.setBankCode k p v) h := by
  unfold setBankCode; split <;> exact BankRegs.setFld _ _ _ _ _ rfl

theorem bankState_set (k p v : Nat) : (h.setBankState k p v).bankState k p = v % 4 := by
  rcases k with _ | _ | _ | k <;> simp only [setBankState, bankState] <;> (refine fld_setFld_same _ _ _ _ _ ?_ ?_ <;> decide)
theorem bankCode_set (k p v : Nat) : (h.setBankCode k p v).bankCode k p = v % 256 := by
  rcases k with _ | _ | _ | k <;> simp only [setBankCode, bankCode] <;> (refine fld_setFld_same _ _ _ _ _ ?_ ?_ <;> decide)
theorem bankState_setCode (k p v : Nat) : (h.setBankCode k p v).bankState k p = h.bankState k p := by
  rcases k with _ | _ | _ | k <;> simp only [bankState, setBankCode] <;> (refine fld_setFld_bits _ _ _ _ _ _ _ _ ?_ ?_ ?_ <;> decide)
theorem bankState_event {g : Hw} (s : RecordsOnly g h) (k p : Nat) : g.bankState k p = h.bankState k p := by
  unfold bankState; split <;> exact s.fld_eq _ _ _ rfl
theorem bankCode_event {g : Hw} (s : RecordsOnly g h) (k p : Nat) : g.bankCode k p = h.bankCode k p := by
  unfold bankCode; split <;> exact s.fld_eq _ _ _ rfl

theorem RecordsOnly.setPower (x : Power) (e : x = h.power) : RecordsOnly (h.setPower x) h := by subst e; exact RecordsOnly.refl h

/-- A command that may run is taken up: its bank leaves IDLE, and nothing else changes. -/
theorem bankStart_says (k p op m vec st : Nat) (x : Power) (hs : st < 4) :
    ((h.bankStart k p op m vec st).setPower x).job = some ⟨k, p, op, m, vec, [], none, none, none, none⟩ ∧
    ((h.bankStart k p op m vec st).setPower x).bankState k p = st ∧
    h.Untouched ((h.bankStart k p op m vec st).setPower x) := by
  unfold bankStart
  dsimp only
  have b := bankState_set { h with job := some ⟨k, p, op, m, vec, [], none, none, none, none⟩ } k p st
  obtain ⟨⟨r, e⟩, -⟩ := setBankState_only { h with job := some ⟨k, p, op, m, vec, [], none, none, none, none⟩ } k p st
  rw [e] at b ⊢
  exact ⟨rfl, b.trans (Nat.mod_eq_of_lt hs), rfl, rfl, rfl, rfl, rfl, rfl, rfl, rfl, rfl⟩

/-- A command turned away at its write: CODE and the signal. -/
theorem bankRefused_says (k p vec c : Nat) (x : Power) (hc : c < 256) :
    ((h.bankRefused k p vec c).setPower x).bankCode k p = c ∧ h.Unbothered ((h.bankRefused k p vec c).setPower x) ∧
    ((h.bankRefused k p vec c).setPower x).bankState k p = h.bankState k p := by
  unfold bankRefused
  have b := bankCode_set h k p c
  have t := bankState_setCode h k p c
  obtain ⟨⟨r, e⟩, -⟩ := setBankCode_only h k p c
  rw [e] at b t ⊢
  have s := bankSignal_only ({ h with regs := r } : Hw) p vec
  exact ⟨(bankCode_event _ s k p).trans (b.trans (Nat.mod_eq_of_lt hc)),
    ⟨s.job, s.par, s.cots, s.gran, s.reeves, s.modArm, s.boot⟩, (bankState_event _ s k p).trans t⟩

/-- Completion: no command, IDLE with the code, the signal, and nothing else. -/
theorem bankDone_says (j : BankJob) (code : Nat) (x : Power) (hc : code < 256) :
    let g := (h.bankDone j code).setPower x
    g.job = none ∧ g.bankState j.kind j.port = 0 ∧ g.bankCode j.kind j.port = code ∧ g.par = h.par ∧ g.cots = h.cots ∧
    g.gran = h.gran ∧ g.modArm = h.modArm ∧ g.reeves = h.reeves ∧ g.boot = h.boot ∧ g.mem = h.mem ∧
    (∀ n i k, bankReg n = false → recordReg n = false → g.reg n i k = h.reg n i k) := by
  unfold bankDone
  dsimp only
  obtain ⟨⟨r1, e1⟩, k1⟩ := setBankState_only { h with job := none } j.kind j.port 0
  have t1 := bankState_set { h with job := none } j.kind j.port 0
  rw [e1] at t1 k1 ⊢
  have t2 := bankState_setCode ({ h with job := none, regs := r1 } : Hw) j.kind j.port code
  have t3 := bankCode_set ({ h with job := none, regs := r1 } : Hw) j.kind j.port code
  obtain ⟨⟨r2, e2⟩, k2⟩ := setBankCode_only ({ h with job := none, regs := r1 } : Hw) j.kind j.port code
  rw [e2] at t2 t3 k2 ⊢
  have s := bankSignal_only ({ h with job := none, regs := r2 } : Hw) j.port j.vec
  have m := bankSignal_mem ({ h with job := none, regs := r2 } : Hw) j.port j.vec
  exact ⟨s.job, (bankState_event _ s _ _).trans (t2.trans t1), (bankCode_event _ s _ _).trans (t3.trans (Nat.mod_eq_of_lt hc)),
    s.par, s.cots, s.gran, s.modArm, s.reeves, s.boot, m,
    fun n i k a b => (s.reg n i k b).trans ((k2 n i k a).trans (k1 n i k a))⟩

/-- A write of a register without lockable fields, by an agent that sees it, in range, is taken. -/
theorem guarded_open (ag : Agent) (n : RegName) (i j v : Nat) (act : Hw → Hw) (s : h.sees ag n i j = true)
    (k : n.desc.fields.all (fun f => f.acc != .rwl) = true) : h.guarded ag n i j v true act = act h := by
  have : h.changesLocked ag n i j v = false := by
    unfold changesLocked
    have : (n.desc.fields.any fun f => f.acc == .rwl && bits (h.reg n i j).toNat f.hi f.lo != bits v f.hi f.lo) = false := by
      rw [List.any_eq_false]; intro f hf
      have := List.all_eq_true.1 k f hf
      simp_all
    rw [this]; simp
  simp [guarded, s, this]

end Sys2Proof.Machine.Hw
end

