-- ==== Sys2Proof/Laws/Irq.lean ====
section
/-!
SUPPORT. Laws of interrupt sources: what an event or a level changes. -/

namespace Sys2Proof.Machine.Hw

variable (h : Hw)

@[simp] theorem picDue_regs (n i : Nat) : (h.picDue n i).regs = h.regs := by unfold picDue; dsimp only; split <;> rfl
@[simp] theorem reg_picDue (n i : Nat) (n' : RegName) (i' j' : Nat) : (h.picDue n i).reg n' i' j' = h.reg n' i' j' := by simp only [reg, picDue_regs]
@[simp] theorem fld_picDue (n i : Nat) (f' : Fld) (i' j' : Nat) : (h.picDue n i).fld f' i' j' = h.fld f' i' j' := by simp only [fld, reg, picDue_regs]
@[simp] theorem flag_picDue (n i : Nat) (f' : Fld) (i' j' : Nat) : (h.picDue n i).flag f' i' j' = h.flag f' i' j' := by simp only [flag, fld, reg, picDue_regs]
@[simp] theorem picDue_mem (n i : Nat) : (h.picDue n i).mem = h.mem := by unfold picDue; dsimp only; split <;> rfl
@[simp] theorem rb_picDue (n i : Nat) (a' : Nat) : (h.picDue n i).rb a' = h.rb a' := by simp only [rb, picDue_mem]
@[simp] theorem picDue_cots (n i : Nat) : (h.picDue n i).cots = h.cots := by unfold picDue; dsimp only; split <;> rfl
@[simp] theorem cot_picDue (n i : Nat) (c' : Nat) : (h.picDue n i).cot c' = h.cot c' := by simp only [cot, picDue_cots]
@[simp] theorem ctx_picDue (n i : Nat) (c' : Nat) : (h.picDue n i).ctx c' = h.ctx c' := by simp only [ctx, cot, picDue_cots]
@[simp] theorem picDue_reeves (n i : Nat) : (h.picDue n i).reeves = h.reeves := by unfold picDue; dsimp only; split <;> rfl
@[simp] theorem reeve_picDue (n i : Nat) (r' : Nat) : (h.picDue n i).reeve r' = h.reeve r' := by simp only [reeve, picDue_reeves]
@[simp] theorem picDue_gran (n i : Nat) : (h.picDue n i).gran = h.gran := by unfold picDue; dsimp only; split <;> rfl
@[simp] theorem frame_picDue (n i : Nat) (f' : Nat) : (h.picDue n i).frame f' = h.frame f' := by simp only [frame, picDue_gran]
@[simp] theorem picDue_fns (n i : Nat) : (h.picDue n i).fns = h.fns := by unfold picDue; dsimp only; split <;> rfl
@[simp] theorem fn_picDue (n i : Nat) (o' : Nat) : (h.picDue n i).fn o' = h.fn o' := by simp only [fn, picDue_fns]
@[simp] theorem picDue_ports (n i : Nat) : (h.picDue n i).ports = h.ports := by unfold picDue; dsimp only; split <;> rfl
@[simp] theorem port_picDue (n i : Nat) (p' : Nat) : (h.picDue n i).port p' = h.port p' := by simp only [port, picDue_ports]
@[simp] theorem picDue_timers (n i : Nat) : (h.picDue n i).timers = h.timers := by unfold picDue; dsimp only; split <;> rfl
@[simp] theorem picDue_lanes (n i : Nat) : (h.picDue n i).lanes = h.lanes := by unfold picDue; dsimp only; split <;> rfl
@[simp] theorem picDue_uartRx (n i : Nat) : (h.picDue n i).uartRx = h.uartRx := by unfold picDue; dsimp only; split <;> rfl
@[simp] theorem picDue_treadles (n i : Nat) : (h.picDue n i).treadles = h.treadles := by unfold picDue; dsimp only; split <;> rfl
@[simp] theorem picDue_edp (n i : Nat) : (h.picDue n i).edp = h.edp := by unfold picDue; dsimp only; split <;> rfl
@[simp] theorem picDue_tdm (n i : Nat) : (h.picDue n i).tdm = h.tdm := by unfold picDue; dsimp only; split <;> rfl
@[simp] theorem picDue_arb (n i : Nat) : (h.picDue n i).arb = h.arb := by unfold picDue; dsimp only; split <;> rfl
@[simp] theorem picDue_modArm (n i : Nat) : (h.picDue n i).modArm = h.modArm := by unfold picDue; dsimp only; split <;> rfl
@[simp] theorem picDue_job (n i : Nat) : (h.picDue n i).job = h.job := by unfold picDue; dsimp only; split <;> rfl
@[simp] theorem picDue_power (n i : Nat) : (h.picDue n i).power = h.power := by unfold picDue; dsimp only; split <;> rfl
@[simp] theorem picDue_boot (n i : Nat) : (h.picDue n i).boot = h.boot := by unfold picDue; dsimp only; split <;> rfl
@[simp] theorem picDue_spdm (n i : Nat) : (h.picDue n i).spdm = h.spdm := by unfold picDue; dsimp only; split <;> rfl
@[simp] theorem picDue_sbd (n i : Nat) : (h.picDue n i).sbd = h.sbd := by unfold picDue; dsimp only; split <;> rfl
@[simp] theorem picDue_memPoison (n i : Nat) : (h.picDue n i).memPoison = h.memPoison := by unfold picDue; dsimp only; split <;> rfl
@[simp] theorem picDue_out (n i : Nat) : (h.picDue n i).out = h.out := by unfold picDue; dsimp only; split <;> rfl
@[simp] theorem picDue_fresh (n i : Nat) : (h.picDue n i).fresh = h.fresh := by unfold picDue; dsimp only; split <;> rfl

@[simp] theorem picEvent_regs (n i : Nat) : (h.picEvent n i).regs = h.regs := by unfold picEvent; dsimp only; split <;> simp
@[simp] theorem reg_picEvent (n i : Nat) (n' : RegName) (i' j' : Nat) : (h.picEvent n i).reg n' i' j' = h.reg n' i' j' := by simp only [reg, picEvent_regs]
@[simp] theorem fld_picEvent (n i : Nat) (f' : Fld) (i' j' : Nat) : (h.picEvent n i).fld f' i' j' = h.fld f' i' j' := by simp only [fld, reg, picEvent_regs]
@[simp] theorem flag_picEvent (n i : Nat) (f' : Fld) (i' j' : Nat) : (h.picEvent n i).flag f' i' j' = h.flag f' i' j' := by simp only [flag, fld, reg, picEvent_regs]
@[simp] theorem picEvent_mem (n i : Nat) : (h.picEvent n i).mem = h.mem := by unfold picEvent; dsimp only; split <;> simp
@[simp] theorem rb_picEvent (n i : Nat) (a' : Nat) : (h.picEvent n i).rb a' = h.rb a' := by simp only [rb, picEvent_mem]
@[simp] theorem picEvent_cots (n i : Nat) : (h.picEvent n i).cots = h.cots := by unfold picEvent; dsimp only; split <;> simp
@[simp] theorem cot_picEvent (n i : Nat) (c' : Nat) : (h.picEvent n i).cot c' = h.cot c' := by simp only [cot, picEvent_cots]
@[simp] theorem ctx_picEvent (n i : Nat) (c' : Nat) : (h.picEvent n i).ctx c' = h.ctx c' := by simp only [ctx, cot, picEvent_cots]
@[simp] theorem picEvent_reeves (n i : Nat) : (h.picEvent n i).reeves = h.reeves := by unfold picEvent; dsimp only; split <;> simp
@[simp] theorem reeve_picEvent (n i : Nat) (r' : Nat) : (h.picEvent n i).reeve r' = h.reeve r' := by simp only [reeve, picEvent_reeves]
@[simp] theorem picEvent_gran (n i : Nat) : (h.picEvent n i).gran = h.gran := by unfold picEvent; dsimp only; split <;> simp
@[simp] theorem frame_picEvent (n i : Nat) (f' : Nat) : (h.picEvent n i).frame f' = h.frame f' := by simp only [frame, picEvent_gran]
@[simp] theorem picEvent_fns (n i : Nat) : (h.picEvent n i).fns = h.fns := by unfold picEvent; dsimp only; split <;> simp
@[simp] theorem fn_picEvent (n i : Nat) (o' : Nat) : (h.picEvent n i).fn o' = h.fn o' := by simp only [fn, picEvent_fns]
@[simp] theorem picEvent_ports (n i : Nat) : (h.picEvent n i).ports = h.ports := by unfold picEvent; dsimp only; split <;> simp
@[simp] theorem port_picEvent (n i : Nat) (p' : Nat) : (h.picEvent n i).port p' = h.port p' := by simp only [port, picEvent_ports]
@[simp] theorem picEvent_timers (n i : Nat) : (h.picEvent n i).timers = h.timers := by unfold picEvent; dsimp only; split <;> simp
@[simp] theorem picEvent_lanes (n i : Nat) : (h.picEvent n i).lanes = h.lanes := by unfold picEvent; dsimp only; split <;> simp
@[simp] theorem picEvent_uartRx (n i : Nat) : (h.picEvent n i).uartRx = h.uartRx := by unfold picEvent; dsimp only; split <;> simp
@[simp] theorem picEvent_treadles (n i : Nat) : (h.picEvent n i).treadles = h.treadles := by unfold picEvent; dsimp only; split <;> simp
@[simp] theorem picEvent_edp (n i : Nat) : (h.picEvent n i).edp = h.edp := by unfold picEvent; dsimp only; split <;> simp
@[simp] theorem picEvent_tdm (n i : Nat) : (h.picEvent n i).tdm = h.tdm := by unfold picEvent; dsimp only; split <;> simp
@[simp] theorem picEvent_arb (n i : Nat) : (h.picEvent n i).arb = h.arb := by unfold picEvent; dsimp only; split <;> simp
@[simp] theorem picEvent_modArm (n i : Nat) : (h.picEvent n i).modArm = h.modArm := by unfold picEvent; dsimp only; split <;> simp
@[simp] theorem picEvent_job (n i : Nat) : (h.picEvent n i).job = h.job := by unfold picEvent; dsimp only; split <;> simp
@[simp] theorem picEvent_power (n i : Nat) : (h.picEvent n i).power = h.power := by unfold picEvent; dsimp only; split <;> simp
@[simp] theorem picEvent_boot (n i : Nat) : (h.picEvent n i).boot = h.boot := by unfold picEvent; dsimp only; split <;> simp
@[simp] theorem picEvent_spdm (n i : Nat) : (h.picEvent n i).spdm = h.spdm := by unfold picEvent; dsimp only; split <;> simp
@[simp] theorem picEvent_sbd (n i : Nat) : (h.picEvent n i).sbd = h.sbd := by unfold picEvent; dsimp only; split <;> simp
@[simp] theorem picEvent_memPoison (n i : Nat) : (h.picEvent n i).memPoison = h.memPoison := by unfold picEvent; dsimp only; split <;> simp
@[simp] theorem picEvent_out (n i : Nat) : (h.picEvent n i).out = h.out := by unfold picEvent; dsimp only; split <;> simp
@[simp] theorem picEvent_fresh (n i : Nat) : (h.picEvent n i).fresh = h.fresh := by unfold picEvent; dsimp only; split <;> simp

@[simp] theorem picLevel_regs (n i : Nat) (high : Bool) : (h.picLevel n i high).regs = h.regs := by unfold picLevel; dsimp only; repeat (first | rfl | (split) | simp)
@[simp] theorem reg_picLevel (n i : Nat) (high : Bool) (n' : RegName) (i' j' : Nat) : (h.picLevel n i high).reg n' i' j' = h.reg n' i' j' := by simp only [reg, picLevel_regs]
@[simp] theorem fld_picLevel (n i : Nat) (high : Bool) (f' : Fld) (i' j' : Nat) : (h.picLevel n i high).fld f' i' j' = h.fld f' i' j' := by simp only [fld, reg, picLevel_regs]
@[simp] theorem flag_picLevel (n i : Nat) (high : Bool) (f' : Fld) (i' j' : Nat) : (h.picLevel n i high).flag f' i' j' = h.flag f' i' j' := by simp only [flag, fld, reg, picLevel_regs]
@[simp] theorem picLevel_mem (n i : Nat) (high : Bool) : (h.picLevel n i high).mem = h.mem := by unfold picLevel; dsimp only; repeat (first | rfl | (split) | simp)
@[simp] theorem rb_picLevel (n i : Nat) (high : Bool) (a' : Nat) : (h.picLevel n i high).rb a' = h.rb a' := by simp only [rb, picLevel_mem]
@[simp] theorem picLevel_cots (n i : Nat) (high : Bool) : (h.picLevel n i high).cots = h.cots := by unfold picLevel; dsimp only; repeat (first | rfl | (split) | simp)
@[simp] theorem cot_picLevel (n i : Nat) (high : Bool) (c' : Nat) : (h.picLevel n i high).cot c' = h.cot c' := by simp only [cot, picLevel_cots]
@[simp] theorem ctx_picLevel (n i : Nat) (high : Bool) (c' : Nat) : (h.picLevel n i high).ctx c' = h.ctx c' := by simp only [ctx, cot, picLevel_cots]
@[simp] theorem picLevel_reeves (n i : Nat) (high : Bool) : (h.picLevel n i high).reeves = h.reeves := by unfold picLevel; dsimp only; repeat (first | rfl | (split) | simp)
@[simp] theorem reeve_picLevel (n i : Nat) (high : Bool) (r' : Nat) : (h.picLevel n i high).reeve r' = h.reeve r' := by simp only [reeve, picLevel_reeves]
@[simp] theorem picLevel_gran (n i : Nat) (high : Bool) : (h.picLevel n i high).gran = h.gran := by unfold picLevel; dsimp only; repeat (first | rfl | (split) | simp)
@[simp] theorem frame_picLevel (n i : Nat) (high : Bool) (f' : Nat) : (h.picLevel n i high).frame f' = h.frame f' := by simp only [frame, picLevel_gran]
@[simp] theorem picLevel_fns (n i : Nat) (high : Bool) : (h.picLevel n i high).fns = h.fns := by unfold picLevel; dsimp only; repeat (first | rfl | (split) | simp)
@[simp] theorem fn_picLevel (n i : Nat) (high : Bool) (o' : Nat) : (h.picLevel n i high).fn o' = h.fn o' := by simp only [fn, picLevel_fns]
@[simp] theorem picLevel_ports (n i : Nat) (high : Bool) : (h.picLevel n i high).ports = h.ports := by unfold picLevel; dsimp only; repeat (first | rfl | (split) | simp)
@[simp] theorem port_picLevel (n i : Nat) (high : Bool) (p' : Nat) : (h.picLevel n i high).port p' = h.port p' := by simp only [port, picLevel_ports]
@[simp] theorem picLevel_timers (n i : Nat) (high : Bool) : (h.picLevel n i high).timers = h.timers := by unfold picLevel; dsimp only; repeat (first | rfl | (split) | simp)
@[simp] theorem picLevel_lanes (n i : Nat) (high : Bool) : (h.picLevel n i high).lanes = h.lanes := by unfold picLevel; dsimp only; repeat (first | rfl | (split) | simp)
@[simp] theorem picLevel_uartRx (n i : Nat) (high : Bool) : (h.picLevel n i high).uartRx = h.uartRx := by unfold picLevel; dsimp only; repeat (first | rfl | (split) | simp)
@[simp] theorem picLevel_treadles (n i : Nat) (high : Bool) : (h.picLevel n i high).treadles = h.treadles := by unfold picLevel; dsimp only; repeat (first | rfl | (split) | simp)
@[simp] theorem picLevel_edp (n i : Nat) (high : Bool) : (h.picLevel n i high).edp = h.edp := by unfold picLevel; dsimp only; repeat (first | rfl | (split) | simp)
@[simp] theorem picLevel_tdm (n i : Nat) (high : Bool) : (h.picLevel n i high).tdm = h.tdm := by unfold picLevel; dsimp only; repeat (first | rfl | (split) | simp)
@[simp] theorem picLevel_arb (n i : Nat) (high : Bool) : (h.picLevel n i high).arb = h.arb := by unfold picLevel; dsimp only; repeat (first | rfl | (split) | simp)
@[simp] theorem picLevel_modArm (n i : Nat) (high : Bool) : (h.picLevel n i high).modArm = h.modArm := by unfold picLevel; dsimp only; repeat (first | rfl | (split) | simp)
@[simp] theorem picLevel_job (n i : Nat) (high : Bool) : (h.picLevel n i high).job = h.job := by unfold picLevel; dsimp only; repeat (first | rfl | (split) | simp)
@[simp] theorem picLevel_power (n i : Nat) (high : Bool) : (h.picLevel n i high).power = h.power := by unfold picLevel; dsimp only; repeat (first | rfl | (split) | simp)
@[simp] theorem picLevel_boot (n i : Nat) (high : Bool) : (h.picLevel n i high).boot = h.boot := by unfold picLevel; dsimp only; repeat (first | rfl | (split) | simp)
@[simp] theorem picLevel_spdm (n i : Nat) (high : Bool) : (h.picLevel n i high).spdm = h.spdm := by unfold picLevel; dsimp only; repeat (first | rfl | (split) | simp)
@[simp] theorem picLevel_sbd (n i : Nat) (high : Bool) : (h.picLevel n i high).sbd = h.sbd := by unfold picLevel; dsimp only; repeat (first | rfl | (split) | simp)
@[simp] theorem picLevel_memPoison (n i : Nat) (high : Bool) : (h.picLevel n i high).memPoison = h.memPoison := by unfold picLevel; dsimp only; repeat (first | rfl | (split) | simp)
@[simp] theorem picLevel_out (n i : Nat) (high : Bool) : (h.picLevel n i high).out = h.out := by unfold picLevel; dsimp only; repeat (first | rfl | (split) | simp)
@[simp] theorem picLevel_fresh (n i : Nat) (high : Bool) : (h.picLevel n i high).fresh = h.fresh := by unfold picLevel; dsimp only; repeat (first | rfl | (split) | simp)

/-- An event leaves its source pending. -/
theorem picEvent_pends (n i : Nat) : i ∈ ((h.picEvent n i).parish n).pic.pend := by
  unfold picEvent picDue
  dsimp only
  split
  · simp_all
  · split <;> simp [modParish]

/-- An event of a parish changes no other parish, and of its own nothing but the interrupt controller. -/
theorem picEvent_parish (n i m : Nat) : (h.picEvent n i).parish m =
    { h.parish m with pic := ((h.picEvent n i).parish m).pic } := by
  unfold picEvent picDue
  dsimp only
  split
  · rfl
  · split <;> (simp only [modParish, parish_setParish]; split <;> (try split) <;> subst_vars <;> rfl)

/-- A level of a parish changes no other parish, and of its own nothing but the interrupt controller. -/
theorem picLevel_parish (n i : Nat) (high : Bool) (m : Nat) : (h.picLevel n i high).parish m =
    { h.parish m with pic := ((h.picLevel n i high).parish m).pic } := by
  unfold picLevel
  dsimp only
  split
  · simp only [modParish, parish_setParish]; split <;> subst_vars <;> rfl
  · split
    · split
      · simp only [modParish, parish_setParish]; split <;> subst_vars <;> rfl
      · rw [picEvent_parish]; simp only [modParish, parish_setParish]; split <;> subst_vars <;> rfl
    · simp only [modParish, parish_setParish]; split <;> subst_vars <;> simp

@[simp] theorem arm_picEvent (n i m : Nat) : ((h.picEvent n i).parish m).arm = (h.parish m).arm := by rw [picEvent_parish]
@[simp] theorem arm_picLevel (n i : Nat) (high : Bool) (m : Nat) : ((h.picLevel n i high).parish m).arm = (h.parish m).arm := by
  rw [picLevel_parish]
@[simp] theorem bellRuns_picEvent (n i m : Nat) : ((h.picEvent n i).parish m).bellRuns = (h.parish m).bellRuns := by rw [picEvent_parish]
@[simp] theorem bellRuns_picLevel (n i : Nat) (high : Bool) (m : Nat) : ((h.picLevel n i high).parish m).bellRuns = (h.parish m).bellRuns := by
  rw [picLevel_parish]
@[simp] theorem bellPend_picEvent (n i m : Nat) : ((h.picEvent n i).parish m).bellPend = (h.parish m).bellPend := by rw [picEvent_parish]
@[simp] theorem bellPend_picLevel (n i : Nat) (high : Bool) (m : Nat) : ((h.picLevel n i high).parish m).bellPend = (h.parish m).bellPend := by
  rw [picLevel_parish]
@[simp] theorem rates_picEvent (n i m : Nat) : ((h.picEvent n i).parish m).rates = (h.parish m).rates := by rw [picEvent_parish]
@[simp] theorem rates_picLevel (n i : Nat) (high : Bool) (m : Nat) : ((h.picLevel n i high).parish m).rates = (h.parish m).rates := by
  rw [picLevel_parish]
@[simp] theorem captures_picEvent (n i m : Nat) : ((h.picEvent n i).parish m).captures = (h.parish m).captures := by rw [picEvent_parish]
@[simp] theorem captures_picLevel (n i : Nat) (high : Bool) (m : Nat) : ((h.picLevel n i high).parish m).captures = (h.parish m).captures := by
  rw [picLevel_parish]
@[simp] theorem pcache_picEvent (n i m : Nat) : ((h.picEvent n i).parish m).pcache = (h.parish m).pcache := by rw [picEvent_parish]
@[simp] theorem pcache_picLevel (n i : Nat) (high : Bool) (m : Nat) : ((h.picLevel n i high).parish m).pcache = (h.parish m).pcache := by
  rw [picLevel_parish]
@[simp] theorem larder_picEvent (n i m : Nat) : ((h.picEvent n i).parish m).larder = (h.parish m).larder := by rw [picEvent_parish]
@[simp] theorem larder_picLevel (n i : Nat) (high : Bool) (m : Nat) : ((h.picLevel n i high).parish m).larder = (h.parish m).larder := by
  rw [picLevel_parish]
@[simp] theorem banksAwaited_picEvent (n i m : Nat) : ((h.picEvent n i).parish m).banksAwaited = (h.parish m).banksAwaited := by rw [picEvent_parish]
@[simp] theorem banksAwaited_picLevel (n i : Nat) (high : Bool) (m : Nat) : ((h.picLevel n i high).parish m).banksAwaited = (h.parish m).banksAwaited := by
  rw [picLevel_parish]
@[simp] theorem banksRetiring_picEvent (n i m : Nat) : ((h.picEvent n i).parish m).banksRetiring = (h.parish m).banksRetiring := by rw [picEvent_parish]
@[simp] theorem banksRetiring_picLevel (n i : Nat) (high : Bool) (m : Nat) : ((h.picLevel n i high).parish m).banksRetiring = (h.parish m).banksRetiring := by
  rw [picLevel_parish]
@[simp] theorem srcInForce_picEvent (n i m : Nat) : ((h.picEvent n i).parish m).srcInForce = (h.parish m).srcInForce := by rw [picEvent_parish]
@[simp] theorem srcInForce_picLevel (n i : Nat) (high : Bool) (m : Nat) : ((h.picLevel n i high).parish m).srcInForce = (h.parish m).srcInForce := by
  rw [picLevel_parish]
@[simp] theorem srcPend_picEvent (n i m : Nat) : ((h.picEvent n i).parish m).srcPend = (h.parish m).srcPend := by rw [picEvent_parish]
@[simp] theorem srcPend_picLevel (n i : Nat) (high : Bool) (m : Nat) : ((h.picLevel n i high).parish m).srcPend = (h.parish m).srcPend := by
  rw [picLevel_parish]
@[simp] theorem lockLostNow_picEvent (n i m : Nat) : ((h.picEvent n i).parish m).lockLostNow = (h.parish m).lockLostNow := by rw [picEvent_parish]
@[simp] theorem lockLostNow_picLevel (n i : Nat) (high : Bool) (m : Nat) : ((h.picLevel n i high).parish m).lockLostNow = (h.parish m).lockLostNow := by
  rw [picLevel_parish]
@[simp] theorem bell0Due_picEvent (n i m : Nat) : ((h.picEvent n i).parish m).bell0Due = (h.parish m).bell0Due := by rw [picEvent_parish]
@[simp] theorem bell0Due_picLevel (n i : Nat) (high : Bool) (m : Nat) : ((h.picLevel n i high).parish m).bell0Due = (h.parish m).bell0Due := by
  rw [picLevel_parish]
@[simp] theorem refEdge_picEvent (n i m : Nat) : ((h.picEvent n i).parish m).refEdge = (h.parish m).refEdge := by rw [picEvent_parish]
@[simp] theorem refEdge_picLevel (n i : Nat) (high : Bool) (m : Nat) : ((h.picLevel n i high).parish m).refEdge = (h.parish m).refEdge := by
  rw [picLevel_parish]
@[simp] theorem active_picEvent (n i m : Nat) : ((h.picEvent n i).parish m).active = (h.parish m).active := by rw [picEvent_parish]
@[simp] theorem active_picLevel (n i : Nat) (high : Bool) (m : Nat) : ((h.picLevel n i high).parish m).active = (h.parish m).active := by
  rw [picLevel_parish]
@[simp] theorem shadow_picEvent (n i m : Nat) : ((h.picEvent n i).parish m).shadow = (h.parish m).shadow := by rw [picEvent_parish]
@[simp] theorem shadow_picLevel (n i : Nat) (high : Bool) (m : Nat) : ((h.picLevel n i high).parish m).shadow = (h.parish m).shadow := by
  rw [picLevel_parish]
@[simp] theorem refPool_picEvent (n i m : Nat) : ((h.picEvent n i).parish m).refPool = (h.parish m).refPool := by rw [picEvent_parish]
@[simp] theorem refPool_picLevel (n i : Nat) (high : Bool) (m : Nat) : ((h.picLevel n i high).parish m).refPool = (h.parish m).refPool := by
  rw [picLevel_parish]
@[simp] theorem chains_picEvent (n i m : Nat) : ((h.picEvent n i).parish m).chains = (h.parish m).chains := by rw [picEvent_parish]
@[simp] theorem chains_picLevel (n i : Nat) (high : Bool) (m : Nat) : ((h.picLevel n i high).parish m).chains = (h.parish m).chains := by
  rw [picLevel_parish]
@[simp] theorem regChs_picEvent (n i m : Nat) : ((h.picEvent n i).parish m).regChs = (h.parish m).regChs := by rw [picEvent_parish]
@[simp] theorem regChs_picLevel (n i : Nat) (high : Bool) (m : Nat) : ((h.picLevel n i high).parish m).regChs = (h.parish m).regChs := by
  rw [picLevel_parish]
@[simp] theorem chisel_picEvent (n i m : Nat) : ((h.picEvent n i).parish m).chisel = (h.parish m).chisel := by rw [picEvent_parish]
@[simp] theorem chisel_picLevel (n i : Nat) (high : Bool) (m : Nat) : ((h.picLevel n i high).parish m).chisel = (h.parish m).chisel := by
  rw [picLevel_parish]
@[simp] theorem privChisel_picEvent (n i m : Nat) : ((h.picEvent n i).parish m).privChisel = (h.parish m).privChisel := by rw [picEvent_parish]
@[simp] theorem privChisel_picLevel (n i : Nat) (high : Bool) (m : Nat) : ((h.picLevel n i high).parish m).privChisel = (h.parish m).privChisel := by
  rw [picLevel_parish]
@[simp] theorem banksWaking_picEvent (n i m : Nat) : ((h.picEvent n i).parish m).banksWaking = (h.parish m).banksWaking := by rw [picEvent_parish]
@[simp] theorem banksWaking_picLevel (n i : Nat) (high : Bool) (m : Nat) : ((h.picLevel n i high).parish m).banksWaking = (h.parish m).banksWaking := by
  rw [picLevel_parish]
@[simp] theorem bankStalls_picEvent (n i m : Nat) : ((h.picEvent n i).parish m).bankStalls = (h.parish m).bankStalls := by rw [picEvent_parish]
@[simp] theorem bankStalls_picLevel (n i : Nat) (high : Bool) (m : Nat) : ((h.picLevel n i high).parish m).bankStalls = (h.parish m).bankStalls := by
  rw [picLevel_parish]
@[simp] theorem poisoned_picEvent (n i m : Nat) : ((h.picEvent n i).parish m).poisoned = (h.parish m).poisoned := by rw [picEvent_parish]
@[simp] theorem poisoned_picLevel (n i : Nat) (high : Bool) (m : Nat) : ((h.picLevel n i high).parish m).poisoned = (h.parish m).poisoned := by
  rw [picLevel_parish]
@[simp] theorem corrSeen_picEvent (n i m : Nat) : ((h.picEvent n i).parish m).corrSeen = (h.parish m).corrSeen := by rw [picEvent_parish]
@[simp] theorem corrSeen_picLevel (n i : Nat) (high : Bool) (m : Nat) : ((h.picLevel n i high).parish m).corrSeen = (h.parish m).corrSeen := by
  rw [picLevel_parish]

end Sys2Proof.Machine.Hw
end

