-- ==== Sys2Proof/Laws/Cottage.lean ====
section
/-!
SUPPORT. Laws of a context's states: what entering a state changes. -/

namespace Sys2Proof.Machine.Hw

variable (h : Hw)

@[simp] theorem hayArrives_mem (c : Nat) : (h.hayArrives c).mem = h.mem := by unfold hayArrives; split <;> (try split) <;> rfl
@[simp] theorem hayTake_mem (c : Nat) : (h.hayTake c).mem = h.mem := by unfold hayTake; split <;> simp
@[simp] theorem rb_hayTake (c : Nat) (a' : Nat) : (h.hayTake c).rb a' = h.rb a' := by simp only [rb, hayTake_mem]
@[simp] theorem hayArrives_cots (c : Nat) : (h.hayArrives c).cots = h.cots := by unfold hayArrives; split <;> (try split) <;> rfl
@[simp] theorem hayTake_cots (c : Nat) : (h.hayTake c).cots = h.cots := by unfold hayTake; split <;> simp
@[simp] theorem cot_hayTake (c : Nat) (c' : Nat) : (h.hayTake c).cot c' = h.cot c' := by simp only [cot, hayTake_cots]
@[simp] theorem ctx_hayTake (c : Nat) (c' : Nat) : (h.hayTake c).ctx c' = h.ctx c' := by simp only [ctx, cot, hayTake_cots]
@[simp] theorem hayArrives_reeves (c : Nat) : (h.hayArrives c).reeves = h.reeves := by unfold hayArrives; split <;> (try split) <;> rfl
@[simp] theorem hayTake_reeves (c : Nat) : (h.hayTake c).reeves = h.reeves := by unfold hayTake; split <;> simp
@[simp] theorem reeve_hayTake (c : Nat) (r' : Nat) : (h.hayTake c).reeve r' = h.reeve r' := by simp only [reeve, hayTake_reeves]
@[simp] theorem hayArrives_gran (c : Nat) : (h.hayArrives c).gran = h.gran := by unfold hayArrives; split <;> (try split) <;> rfl
@[simp] theorem hayTake_gran (c : Nat) : (h.hayTake c).gran = h.gran := by unfold hayTake; split <;> simp
@[simp] theorem frame_hayTake (c : Nat) (f' : Nat) : (h.hayTake c).frame f' = h.frame f' := by simp only [frame, hayTake_gran]
@[simp] theorem hayArrives_fns (c : Nat) : (h.hayArrives c).fns = h.fns := by unfold hayArrives; split <;> (try split) <;> rfl
@[simp] theorem hayTake_fns (c : Nat) : (h.hayTake c).fns = h.fns := by unfold hayTake; split <;> simp
@[simp] theorem fn_hayTake (c : Nat) (o' : Nat) : (h.hayTake c).fn o' = h.fn o' := by simp only [fn, hayTake_fns]
@[simp] theorem hayArrives_ports (c : Nat) : (h.hayArrives c).ports = h.ports := by unfold hayArrives; split <;> (try split) <;> rfl
@[simp] theorem hayTake_ports (c : Nat) : (h.hayTake c).ports = h.ports := by unfold hayTake; split <;> simp
@[simp] theorem port_hayTake (c : Nat) (p' : Nat) : (h.hayTake c).port p' = h.port p' := by simp only [port, hayTake_ports]
@[simp] theorem hayArrives_timers (c : Nat) : (h.hayArrives c).timers = h.timers := by unfold hayArrives; split <;> (try split) <;> rfl
@[simp] theorem hayTake_timers (c : Nat) : (h.hayTake c).timers = h.timers := by unfold hayTake; split <;> simp
@[simp] theorem hayArrives_lanes (c : Nat) : (h.hayArrives c).lanes = h.lanes := by unfold hayArrives; split <;> (try split) <;> rfl
@[simp] theorem hayTake_lanes (c : Nat) : (h.hayTake c).lanes = h.lanes := by unfold hayTake; split <;> simp
@[simp] theorem hayArrives_uartRx (c : Nat) : (h.hayArrives c).uartRx = h.uartRx := by unfold hayArrives; split <;> (try split) <;> rfl
@[simp] theorem hayTake_uartRx (c : Nat) : (h.hayTake c).uartRx = h.uartRx := by unfold hayTake; split <;> simp
@[simp] theorem hayArrives_treadles (c : Nat) : (h.hayArrives c).treadles = h.treadles := by unfold hayArrives; split <;> (try split) <;> rfl
@[simp] theorem hayTake_treadles (c : Nat) : (h.hayTake c).treadles = h.treadles := by unfold hayTake; split <;> simp
@[simp] theorem hayArrives_edp (c : Nat) : (h.hayArrives c).edp = h.edp := by unfold hayArrives; split <;> (try split) <;> rfl
@[simp] theorem hayTake_edp (c : Nat) : (h.hayTake c).edp = h.edp := by unfold hayTake; split <;> simp
@[simp] theorem hayArrives_tdm (c : Nat) : (h.hayArrives c).tdm = h.tdm := by unfold hayArrives; split <;> (try split) <;> rfl
@[simp] theorem hayTake_tdm (c : Nat) : (h.hayTake c).tdm = h.tdm := by unfold hayTake; split <;> simp
@[simp] theorem hayArrives_arb (c : Nat) : (h.hayArrives c).arb = h.arb := by unfold hayArrives; split <;> (try split) <;> rfl
@[simp] theorem hayTake_arb (c : Nat) : (h.hayTake c).arb = h.arb := by unfold hayTake; split <;> simp
@[simp] theorem hayArrives_modArm (c : Nat) : (h.hayArrives c).modArm = h.modArm := by unfold hayArrives; split <;> (try split) <;> rfl
@[simp] theorem hayTake_modArm (c : Nat) : (h.hayTake c).modArm = h.modArm := by unfold hayTake; split <;> simp
@[simp] theorem hayArrives_job (c : Nat) : (h.hayArrives c).job = h.job := by unfold hayArrives; split <;> (try split) <;> rfl
@[simp] theorem hayTake_job (c : Nat) : (h.hayTake c).job = h.job := by unfold hayTake; split <;> simp
@[simp] theorem hayArrives_power (c : Nat) : (h.hayArrives c).power = h.power := by unfold hayArrives; split <;> (try split) <;> rfl
@[simp] theorem hayTake_power (c : Nat) : (h.hayTake c).power = h.power := by unfold hayTake; split <;> simp
@[simp] theorem hayArrives_boot (c : Nat) : (h.hayArrives c).boot = h.boot := by unfold hayArrives; split <;> (try split) <;> rfl
@[simp] theorem hayTake_boot (c : Nat) : (h.hayTake c).boot = h.boot := by unfold hayTake; split <;> simp
@[simp] theorem hayArrives_spdm (c : Nat) : (h.hayArrives c).spdm = h.spdm := by unfold hayArrives; split <;> (try split) <;> rfl
@[simp] theorem hayTake_spdm (c : Nat) : (h.hayTake c).spdm = h.spdm := by unfold hayTake; split <;> simp
@[simp] theorem hayArrives_sbd (c : Nat) : (h.hayArrives c).sbd = h.sbd := by unfold hayArrives; split <;> (try split) <;> rfl
@[simp] theorem hayTake_sbd (c : Nat) : (h.hayTake c).sbd = h.sbd := by unfold hayTake; split <;> simp
@[simp] theorem hayArrives_memPoison (c : Nat) : (h.hayArrives c).memPoison = h.memPoison := by unfold hayArrives; split <;> (try split) <;> rfl
@[simp] theorem hayTake_memPoison (c : Nat) : (h.hayTake c).memPoison = h.memPoison := by unfold hayTake; split <;> simp
@[simp] theorem hayArrives_out (c : Nat) : (h.hayArrives c).out = h.out := by unfold hayArrives; split <;> (try split) <;> rfl
@[simp] theorem hayTake_out (c : Nat) : (h.hayTake c).out = h.out := by unfold hayTake; split <;> simp
@[simp] theorem hayArrives_fresh (c : Nat) : (h.hayArrives c).fresh = h.fresh := by unfold hayArrives; split <;> (try split) <;> rfl
@[simp] theorem hayTake_fresh (c : Nat) : (h.hayTake c).fresh = h.fresh := by unfold hayTake; split <;> simp

theorem hayArrives_regs (c : Nat) : (h.hayArrives c).regs = h.regs := by unfold hayArrives; split <;> (try split) <;> rfl

/-- The queue of a parish's captures is all that the arrival of a Hayloft command changes of a parish. -/
theorem hayTake_parish (c m : Nat) : ∃ l, (h.hayTake c).parish m = { h.parish m with captures := l } := by
  unfold hayTake hayArrives
  dsimp only
  split
  · split
    · split
      · simp only [modParish, parish_setParish, parish_setFld]; split
        · subst_vars; exact ⟨_, rfl⟩
        · exact ⟨_, rfl⟩
      · exact ⟨(h.parish m).captures, by simp only [parish_setFld]⟩
    · exact ⟨(h.parish m).captures, by simp only [parish_setFld]⟩
  · exact ⟨_, rfl⟩

theorem reg_hayTake (c : Nat) (n : RegName) (i j : Nat) (hn : n ≠ .HAY_STAT) : (h.hayTake c).reg n i j = h.reg n i j := by
  unfold hayTake
  split
  · simp only [reg, hayArrives_regs]
    show ((h.setFld F.HAY_STAT_PENDING c 0 0).setFld F.HAY_STAT_ACTIVE c 0 1).reg n i j = _
    rw [reg_setFld_ne _ _ _ _ _ _ _ _ (by rintro ⟨rfl, -⟩; exact hn rfl),
      reg_setFld_ne _ _ _ _ _ _ _ _ (by rintro ⟨rfl, -⟩; exact hn rfl)]
    rfl
  · rfl

@[simp] theorem setSt_mem (c : Nat) (st : CotState) : (h.setSt c st).mem = h.mem := by unfold setSt; dsimp only; split <;> simp
@[simp] theorem rb_setSt (c : Nat) (st : CotState) (a' : Nat) : (h.setSt c st).rb a' = h.rb a' := by simp only [rb, setSt_mem]
@[simp] theorem setSt_reeves (c : Nat) (st : CotState) : (h.setSt c st).reeves = h.reeves := by unfold setSt; dsimp only; split <;> simp
@[simp] theorem reeve_setSt (c : Nat) (st : CotState) (r' : Nat) : (h.setSt c st).reeve r' = h.reeve r' := by simp only [reeve, setSt_reeves]
@[simp] theorem setSt_gran (c : Nat) (st : CotState) : (h.setSt c st).gran = h.gran := by unfold setSt; dsimp only; split <;> simp
@[simp] theorem frame_setSt (c : Nat) (st : CotState) (f' : Nat) : (h.setSt c st).frame f' = h.frame f' := by simp only [frame, setSt_gran]
@[simp] theorem setSt_fns (c : Nat) (st : CotState) : (h.setSt c st).fns = h.fns := by unfold setSt; dsimp only; split <;> simp
@[simp] theorem fn_setSt (c : Nat) (st : CotState) (o' : Nat) : (h.setSt c st).fn o' = h.fn o' := by simp only [fn, setSt_fns]
@[simp] theorem setSt_ports (c : Nat) (st : CotState) : (h.setSt c st).ports = h.ports := by unfold setSt; dsimp only; split <;> simp
@[simp] theorem port_setSt (c : Nat) (st : CotState) (p' : Nat) : (h.setSt c st).port p' = h.port p' := by simp only [port, setSt_ports]
@[simp] theorem setSt_timers (c : Nat) (st : CotState) : (h.setSt c st).timers = h.timers := by unfold setSt; dsimp only; split <;> simp
@[simp] theorem setSt_lanes (c : Nat) (st : CotState) : (h.setSt c st).lanes = h.lanes := by unfold setSt; dsimp only; split <;> simp
@[simp] theorem setSt_uartRx (c : Nat) (st : CotState) : (h.setSt c st).uartRx = h.uartRx := by unfold setSt; dsimp only; split <;> simp
@[simp] theorem setSt_treadles (c : Nat) (st : CotState) : (h.setSt c st).treadles = h.treadles := by unfold setSt; dsimp only; split <;> simp
@[simp] theorem setSt_edp (c : Nat) (st : CotState) : (h.setSt c st).edp = h.edp := by unfold setSt; dsimp only; split <;> simp
@[simp] theorem setSt_tdm (c : Nat) (st : CotState) : (h.setSt c st).tdm = h.tdm := by unfold setSt; dsimp only; split <;> simp
@[simp] theorem setSt_arb (c : Nat) (st : CotState) : (h.setSt c st).arb = h.arb := by unfold setSt; dsimp only; split <;> simp
@[simp] theorem setSt_modArm (c : Nat) (st : CotState) : (h.setSt c st).modArm = h.modArm := by unfold setSt; dsimp only; split <;> simp
@[simp] theorem setSt_job (c : Nat) (st : CotState) : (h.setSt c st).job = h.job := by unfold setSt; dsimp only; split <;> simp
@[simp] theorem setSt_power (c : Nat) (st : CotState) : (h.setSt c st).power = h.power := by unfold setSt; dsimp only; split <;> simp
@[simp] theorem setSt_boot (c : Nat) (st : CotState) : (h.setSt c st).boot = h.boot := by unfold setSt; dsimp only; split <;> simp
@[simp] theorem setSt_spdm (c : Nat) (st : CotState) : (h.setSt c st).spdm = h.spdm := by unfold setSt; dsimp only; split <;> simp
@[simp] theorem setSt_sbd (c : Nat) (st : CotState) : (h.setSt c st).sbd = h.sbd := by unfold setSt; dsimp only; split <;> simp
@[simp] theorem setSt_memPoison (c : Nat) (st : CotState) : (h.setSt c st).memPoison = h.memPoison := by unfold setSt; dsimp only; split <;> simp
@[simp] theorem setSt_out (c : Nat) (st : CotState) : (h.setSt c st).out = h.out := by unfold setSt; dsimp only; split <;> simp
@[simp] theorem setSt_fresh (c : Nat) (st : CotState) : (h.setSt c st).fresh = h.fresh := by unfold setSt; dsimp only; split <;> simp

/-- The deadlines of R30 rest on the contexts, the parishes and BEL_PACE alone. -/
theorem outruns_congr (g : Hw) (ec : g.cots = h.cots) (ep : g.par = h.par)
    (er : ∀ n, g.fld F.BEL_PACE_PACE n = h.fld F.BEL_PACE_PACE n) (c : Nat) : g.outruns c = h.outruns c := by
  have e1 : ∀ d, g.ctx d = h.ctx d := fun d => by simp only [ctx, cot, ec]
  have e2 : ∀ d, g.cls d = h.cls d := fun d => cls_congr h g ep d
  have e3 : ∀ n, g.parish n = h.parish n := fun n => by simp only [parish, ep]
  have e4 : ∀ n f, g.bellTime n f = h.bellTime n f := fun n f => by simp only [bellTime, e3]
  have e6 : ∀ n, g.bellRate n = h.bellRate n := fun n => by simp only [bellRate, e3]
  have e5 : ∀ d, g.deadline d = h.deadline d := fun d => by
    simp only [deadline, lineDeadline, e1, e2, e4, e6, er]
  simp only [outruns, running, earlier, e1, e5]
theorem outruns_setFld (f : Fld) (i j v c : Nat) (hf : f.reg ≠ .BEL_PACE) : (h.setFld f i j v).outruns c = h.outruns c :=
  outruns_congr _ _ (by simp) (by simp) (fun n => fld_setFld_reg _ _ _ _ _ _ _ _ hf) _
@[simp] theorem outruns_setPower (p : Power) (c : Nat) : (h.setPower p).outruns c = h.outruns c :=
  outruns_congr h (h.setPower p) rfl rfl (fun _ => rfl) _

/-- Context c as it is in state st (R30, R135). -/
def entered (c : Nat) (st : CotState) : Context :=
  { h.ctx c with
    st := st, ahead := st == .ready && h.outruns c,
    seen := if (h.ctx c).st = .run ∧ st ≠ .run then hobView (h.ctx c).hob else (h.ctx c).seen }

/-- Entering a state changes, of all contexts, this one. -/
@[simp] theorem ctx_setSt (c : Nat) (st : CotState) (c' : Nat) :
    (h.setSt c st).ctx c' = if c = c' then h.entered c st else h.ctx c' := by
  have k : ((h.modCtx c fun x =>
      { x with st := st, ahead := st == .ready && h.outruns c,
               seen := if x.st = .run ∧ st ≠ .run then hobView x.hob else x.seen }).picLevel
        (c / 256) (c % 256) (st == .cont || st == .halt)).ctx c' = if c = c' then h.entered c st else h.ctx c' := by
    simp only [ctx_picLevel, modCtx, ctx_setCtx]; rfl
  unfold setSt
  dsimp only
  split
  · rw [ctx_hayTake, k]
  · exact k

theorem reg_setSt (c : Nat) (st : CotState) (n : RegName) (i j : Nat) (hn : n ≠ .HAY_STAT) :
    (h.setSt c st).reg n i j = h.reg n i j := by
  unfold setSt
  dsimp only
  split
  · rw [reg_hayTake _ _ _ _ _ hn, reg_picLevel, reg_modCtx]
  · rw [reg_picLevel, reg_modCtx]

theorem fld_setSt (c : Nat) (st : CotState) (f : Fld) (i j : Nat) (hn : f.reg ≠ .HAY_STAT) :
    (h.setSt c st).fld f i j = h.fld f i j := by simp only [fld, reg_setSt _ _ _ _ _ _ hn]

/-- What the end of a Hayloft command leaves: the code, and nothing pending. -/
theorem fld_hayDone_code (c code : Nat) (b : Bool) : (h.hayDone c code b).fld F.HAY_STAT_CODE c = code % 256 := by
  unfold hayDone
  dsimp only
  split
  · split <;> simp (disch := decide) [fld_setFld_same]
  · simp (disch := decide) [fld_setFld_same]
theorem fld_hayDone_pending (c code : Nat) (b : Bool) : (h.hayDone c code b).fld F.HAY_STAT_PENDING c = 0 := by
  unfold hayDone
  dsimp only
  split
  · split <;> simp (disch := decide) [fld_setFld_same, fld_setFld_bits]
  · simp (disch := decide) [fld_setFld_same, fld_setFld_bits]
theorem reg_hayDone (c code : Nat) (b : Bool) (n : RegName) (i j : Nat) (hr : recordReg n = false) (hn : n ≠ .HAY_STAT) :
    (h.hayDone c code b).reg n i j = h.reg n i j := by
  unfold hayDone
  dsimp only
  have k : ∀ g : Hw, (((g.setFld F.HAY_STAT_PENDING c 0 0).setFld F.HAY_STAT_ACTIVE c 0 0).setFld F.HAY_STAT_CODE c 0 code).reg
      n i j = g.reg n i j := fun g => by
    rw [reg_setFld_reg _ _ _ _ _ _ _ _ (fun e => hn e.symm), reg_setFld_reg _ _ _ _ _ _ _ _ (fun e => hn e.symm),
      reg_setFld_reg _ _ _ _ _ _ _ _ (fun e => hn e.symm)]
  split
  · split
    · rw [reg_event _ _ _ _ _ _ hr, k]; rfl
    · rw [k]; rfl
  · rw [k]; rfl
@[simp] theorem cot_hayDone (c code : Nat) (b : Bool) : (h.hayDone c code b).cot c = { h.cot c with hay := none } := by
  unfold hayDone
  dsimp only
  split
  · split <;> simp
  · simp
@[simp] theorem ctx_hayDone (c code : Nat) (b : Bool) : (h.hayDone c code b).ctx c = h.ctx c := by
  simp [ctx, cot_hayDone]
@[simp] theorem hayDone_gran (c code : Nat) (b : Bool) : (h.hayDone c code b).gran = h.gran := by
  unfold hayDone
  dsimp only
  split
  · split <;> simp
  · simp

end Sys2Proof.Machine.Hw
end

