-- ==== Sys2Proof/Laws/Choir.lean ====
section
/-!
SUPPORT. Laws of the Choir's TDM ports. -/

namespace Sys2Proof.Machine.Hw

variable (h : Hw)

@[simp] theorem setTdmPort_regs (p : Nat) (x : TdmPort) : (h.setTdmPort p x).regs = h.regs := (rfl)
@[simp] theorem reg_setTdmPort (p : Nat) (x : TdmPort) (n' : RegName) (i' j' : Nat) : (h.setTdmPort p x).reg n' i' j' = h.reg n' i' j' := (rfl)
@[simp] theorem fld_setTdmPort (p : Nat) (x : TdmPort) (f' : Fld) (i' j' : Nat) : (h.setTdmPort p x).fld f' i' j' = h.fld f' i' j' := (rfl)
@[simp] theorem flag_setTdmPort (p : Nat) (x : TdmPort) (f' : Fld) (i' j' : Nat) : (h.setTdmPort p x).flag f' i' j' = h.flag f' i' j' := (rfl)
@[simp] theorem setTdmPort_mem (p : Nat) (x : TdmPort) : (h.setTdmPort p x).mem = h.mem := (rfl)
@[simp] theorem rb_setTdmPort (p : Nat) (x : TdmPort) (a' : Nat) : (h.setTdmPort p x).rb a' = h.rb a' := (rfl)
@[simp] theorem setTdmPort_cots (p : Nat) (x : TdmPort) : (h.setTdmPort p x).cots = h.cots := (rfl)
@[simp] theorem cot_setTdmPort (p : Nat) (x : TdmPort) (c' : Nat) : (h.setTdmPort p x).cot c' = h.cot c' := (rfl)
@[simp] theorem ctx_setTdmPort (p : Nat) (x : TdmPort) (c' : Nat) : (h.setTdmPort p x).ctx c' = h.ctx c' := (rfl)
@[simp] theorem setTdmPort_par (p : Nat) (x : TdmPort) : (h.setTdmPort p x).par = h.par := (rfl)
@[simp] theorem parish_setTdmPort (p : Nat) (x : TdmPort) (n' : Nat) : (h.setTdmPort p x).parish n' = h.parish n' := (rfl)
@[simp] theorem setTdmPort_reeves (p : Nat) (x : TdmPort) : (h.setTdmPort p x).reeves = h.reeves := (rfl)
@[simp] theorem reeve_setTdmPort (p : Nat) (x : TdmPort) (r' : Nat) : (h.setTdmPort p x).reeve r' = h.reeve r' := (rfl)
@[simp] theorem setTdmPort_gran (p : Nat) (x : TdmPort) : (h.setTdmPort p x).gran = h.gran := (rfl)
@[simp] theorem frame_setTdmPort (p : Nat) (x : TdmPort) (f' : Nat) : (h.setTdmPort p x).frame f' = h.frame f' := (rfl)
@[simp] theorem setTdmPort_fns (p : Nat) (x : TdmPort) : (h.setTdmPort p x).fns = h.fns := (rfl)
@[simp] theorem fn_setTdmPort (p : Nat) (x : TdmPort) (o' : Nat) : (h.setTdmPort p x).fn o' = h.fn o' := (rfl)
@[simp] theorem setTdmPort_ports (p : Nat) (x : TdmPort) : (h.setTdmPort p x).ports = h.ports := (rfl)
@[simp] theorem port_setTdmPort (p : Nat) (x : TdmPort) (p' : Nat) : (h.setTdmPort p x).port p' = h.port p' := (rfl)
@[simp] theorem setTdmPort_timers (p : Nat) (x : TdmPort) : (h.setTdmPort p x).timers = h.timers := (rfl)
@[simp] theorem setTdmPort_lanes (p : Nat) (x : TdmPort) : (h.setTdmPort p x).lanes = h.lanes := (rfl)
@[simp] theorem setTdmPort_uartRx (p : Nat) (x : TdmPort) : (h.setTdmPort p x).uartRx = h.uartRx := (rfl)
@[simp] theorem setTdmPort_treadles (p : Nat) (x : TdmPort) : (h.setTdmPort p x).treadles = h.treadles := (rfl)
@[simp] theorem setTdmPort_edp (p : Nat) (x : TdmPort) : (h.setTdmPort p x).edp = h.edp := (rfl)
@[simp] theorem setTdmPort_arb (p : Nat) (x : TdmPort) : (h.setTdmPort p x).arb = h.arb := (rfl)
@[simp] theorem setTdmPort_modArm (p : Nat) (x : TdmPort) : (h.setTdmPort p x).modArm = h.modArm := (rfl)
@[simp] theorem setTdmPort_job (p : Nat) (x : TdmPort) : (h.setTdmPort p x).job = h.job := (rfl)
@[simp] theorem setTdmPort_power (p : Nat) (x : TdmPort) : (h.setTdmPort p x).power = h.power := (rfl)
@[simp] theorem setTdmPort_boot (p : Nat) (x : TdmPort) : (h.setTdmPort p x).boot = h.boot := (rfl)
@[simp] theorem setTdmPort_spdm (p : Nat) (x : TdmPort) : (h.setTdmPort p x).spdm = h.spdm := (rfl)
@[simp] theorem setTdmPort_sbd (p : Nat) (x : TdmPort) : (h.setTdmPort p x).sbd = h.sbd := (rfl)
@[simp] theorem setTdmPort_memPoison (p : Nat) (x : TdmPort) : (h.setTdmPort p x).memPoison = h.memPoison := (rfl)
@[simp] theorem setTdmPort_out (p : Nat) (x : TdmPort) : (h.setTdmPort p x).out = h.out := (rfl)
@[simp] theorem setTdmPort_fresh (p : Nat) (x : TdmPort) : (h.setTdmPort p x).fresh = h.fresh := (rfl)

@[simp] theorem tdmPort_setReg (n : RegName) (i j : Nat) (v : BitVec 64) (p' : Nat) : (h.setReg n i j v).tdmPort p' = h.tdmPort p' := by simp only [tdmPort, setReg_tdm]
@[simp] theorem tdmPort_setFld (f : Fld) (i j v : Nat) (p' : Nat) : (h.setFld f i j v).tdmPort p' = h.tdmPort p' := by simp only [tdmPort, setFld_tdm]
@[simp] theorem tdmPort_storeFields (n : RegName) (i j v : Nat) (p' : Nat) : (h.storeFields n i j v).tdmPort p' = h.tdmPort p' := by simp only [tdmPort, storeFields_tdm]
@[simp] theorem tdmPort_emit (o : Out) (p' : Nat) : (h.emit o).tdmPort p' = h.tdmPort p' := by simp only [tdmPort, emit_tdm]
@[simp] theorem tdmPort_wb (a : Nat) (v : Byte) (p' : Nat) : (h.wb a v).tdmPort p' = h.tdmPort p' := by simp only [tdmPort, wb_tdm]
@[simp] theorem tdmPort_bump  (p' : Nat) : (h.bump ).tdmPort p' = h.tdmPort p' := by simp only [tdmPort, bump_tdm]
@[simp] theorem tdmPort_setPower (p : Power) (p' : Nat) : (h.setPower p).tdmPort p' = h.tdmPort p' := by simp only [tdmPort, setPower_tdm]
@[simp] theorem tdmPort_setCot (c : Nat) (x : Cottage) (p' : Nat) : (h.setCot c x).tdmPort p' = h.tdmPort p' := by simp only [tdmPort, setCot_tdm]
@[simp] theorem tdmPort_modCtx (c : Nat) (g : Context → Context) (p' : Nat) : (h.modCtx c g).tdmPort p' = h.tdmPort p' := by simp only [tdmPort, modCtx_tdm]
@[simp] theorem tdmPort_modParish (n : Nat) (g : Parish → Parish) (p' : Nat) : (h.modParish n g).tdmPort p' = h.tdmPort p' := by simp only [tdmPort, modParish_tdm]
@[simp] theorem tdmPort_modFn (o : Nat) (g : Fn → Fn) (p' : Nat) : (h.modFn o g).tdmPort p' = h.tdmPort p' := by simp only [tdmPort, modFn_tdm]
@[simp] theorem tdmPort_setFn (o : Nat) (x : Fn) (p' : Nat) : (h.setFn o x).tdmPort p' = h.tdmPort p' := by simp only [tdmPort, setFn_tdm]
@[simp] theorem tdmPort_setPort (p : Nat) (x : Port) (p' : Nat) : (h.setPort p x).tdmPort p' = h.tdmPort p' := by simp only [tdmPort, setPort_tdm]
@[simp] theorem tdmPort_setReeve (r : Nat) (x : Reeve) (p' : Nat) : (h.setReeve r x).tdmPort p' = h.tdmPort p' := by simp only [tdmPort, setReeve_tdm]
@[simp] theorem tdmPort_picEvent (n i : Nat) (p' : Nat) : (h.picEvent n i).tdmPort p' = h.tdmPort p' := by simp only [tdmPort, picEvent_tdm]
@[simp] theorem tdmPort_picLevel (n i : Nat) (b : Bool) (p' : Nat) : (h.picLevel n i b).tdmPort p' = h.tdmPort p' := by simp only [tdmPort, picLevel_tdm]
@[simp] theorem tdmPort_setSt (c : Nat) (st : CotState) (p' : Nat) : (h.setSt c st).tdmPort p' = h.tdmPort p' := by simp only [tdmPort, setSt_tdm]
@[simp] theorem tdmPort_event (o vec : Nat) (p' : Nat) : (h.event o vec).tdmPort p' = h.tdmPort p' := by simp only [tdmPort, event_tdm]
@[simp] theorem tdmPort_raise (sev scope : Nat) (src : Blk) (cause index : Nat) (q : Option Nat) (dests : List Nat) (detail : Nat) (p' : Nat) : (h.raise sev scope src cause index q dests detail).tdmPort p' = h.tdmPort p' := by simp only [tdmPort, raise_tdm]
@[simp] theorem tdmPort_raiseCot (sev : Nat) (src : Blk) (cause c detail : Nat) (p' : Nat) : (h.raiseCot sev src cause c detail).tdmPort p' = h.tdmPort p' := by simp only [tdmPort, raiseCot_tdm]
@[simp] theorem tdmPort_raiseParish (sev : Nat) (src : Blk) (cause n detail : Nat) (p' : Nat) : (h.raiseParish sev src cause n detail).tdmPort p' = h.tdmPort p' := by simp only [tdmPort, raiseParish_tdm]
@[simp] theorem tdmPort_raiseModule (sev : Nat) (src : Blk) (cause detail : Nat) (p' : Nat) : (h.raiseModule sev src cause detail).tdmPort p' = h.tdmPort p' := by simp only [tdmPort, raiseModule_tdm]
@[simp] theorem tdmPort_raiseChan (sev : Nat) (src : Blk) (cause kind o num : Nat) (q : Option Nat) (detail : Nat) (p' : Nat) : (h.raiseChan sev src cause kind o num q detail).tdmPort p' = h.tdmPort p' := by simp only [tdmPort, raiseChan_tdm]
@[simp] theorem tdmPort_raiseShared (sev : Nat) (src : Blk) (cause kind num : Nat) (q : Option Nat) (detail : Nat) (p' : Nat) : (h.raiseShared sev src cause kind num q detail).tdmPort p' = h.tdmPort p' := by simp only [tdmPort, raiseShared_tdm]
@[simp] theorem tdmPort_refuse (ag : Agent) (n : RegName) (i j : Nat) (p' : Nat) : (h.refuse ag n i j).tdmPort p' = h.tdmPort p' := by simp only [tdmPort, refuse_tdm]

@[simp] theorem tdmPort_setTdmPort (p : Nat) (x : TdmPort) (p' : Nat) :
    (h.setTdmPort p x).tdmPort p' = if p = p' then x else h.tdmPort p' := by
  simp only [tdmPort, setTdmPort, NTable.get_set]
@[simp] theorem tdmPort_count (f : Fld) (i j n : Nat) (p' : Nat) : (h.count f i j n).tdmPort p' = h.tdmPort p' := (rfl)
@[simp] theorem tdmPort_countWrap (f : Fld) (i j n : Nat) (p' : Nat) : (h.countWrap f i j n).tdmPort p' = h.tdmPort p' := (rfl)
@[simp] theorem tdmPort_tdmGap (p a n p' : Nat) : (h.tdmGap p a n).tdmPort p' = h.tdmPort p' := by simp [tdmGap]

/-- A gap record changes no register but those of records. -/
theorem fld_tdmGap (p a n : Nat) (f : Fld) (i j : Nat) (hn : recordReg f.reg = false) :
    (h.tdmGap p a n).fld f i j = h.fld f i j := by simp only [tdmGap]; exact fld_raiseShared _ _ _ _ _ _ _ _ _ _ _ hn

/-- The end of a run of zero frames leaves every field but the gap counter and those of records. -/
theorem fld_tdmEndRun (p : Nat) (f : Fld) (i j : Nat) (hn : recordReg f.reg = false) (hg : f.reg ≠ .CHR_TDM_GAP) :
    (h.tdmEndRun p).fld f i j = h.fld f i j := by
  unfold tdmEndRun
  split
  · rfl
  · rw [fld_tdmGap _ _ _ _ _ _ _ hn]
    exact (fld_setReg_ne _ _ _ _ _ _ _ _ (by rintro ⟨e, -⟩; exact hg e.symm)).trans (by simp)

end Sys2Proof.Machine.Hw
end

