-- ==== Sys2Proof/Laws/Granary.lean ====
section
/-!
SUPPORT. Laws of frame references, slabs and snapshots. -/

namespace Sys2Proof.Machine.Hw

variable (h : Hw)

@[simp] theorem addRef_regs (f : Nat) (live : Bool) : (h.addRef f live).regs = h.regs := (rfl)
@[simp] theorem reg_addRef (f : Nat) (live : Bool) (n' : RegName) (i' j' : Nat) : (h.addRef f live).reg n' i' j' = h.reg n' i' j' := (rfl)
@[simp] theorem fld_addRef (f : Nat) (live : Bool) (f' : Fld) (i' j' : Nat) : (h.addRef f live).fld f' i' j' = h.fld f' i' j' := (rfl)
@[simp] theorem flag_addRef (f : Nat) (live : Bool) (f' : Fld) (i' j' : Nat) : (h.addRef f live).flag f' i' j' = h.flag f' i' j' := (rfl)
@[simp] theorem addRef_mem (f : Nat) (live : Bool) : (h.addRef f live).mem = h.mem := (rfl)
@[simp] theorem rb_addRef (f : Nat) (live : Bool) (a' : Nat) : (h.addRef f live).rb a' = h.rb a' := (rfl)
@[simp] theorem addRef_cots (f : Nat) (live : Bool) : (h.addRef f live).cots = h.cots := (rfl)
@[simp] theorem cot_addRef (f : Nat) (live : Bool) (c' : Nat) : (h.addRef f live).cot c' = h.cot c' := (rfl)
@[simp] theorem ctx_addRef (f : Nat) (live : Bool) (c' : Nat) : (h.addRef f live).ctx c' = h.ctx c' := (rfl)
@[simp] theorem addRef_par (f : Nat) (live : Bool) : (h.addRef f live).par = h.par := (rfl)
@[simp] theorem parish_addRef (f : Nat) (live : Bool) (n' : Nat) : (h.addRef f live).parish n' = h.parish n' := (rfl)
@[simp] theorem addRef_reeves (f : Nat) (live : Bool) : (h.addRef f live).reeves = h.reeves := (rfl)
@[simp] theorem reeve_addRef (f : Nat) (live : Bool) (r' : Nat) : (h.addRef f live).reeve r' = h.reeve r' := (rfl)
@[simp] theorem addRef_fns (f : Nat) (live : Bool) : (h.addRef f live).fns = h.fns := (rfl)
@[simp] theorem fn_addRef (f : Nat) (live : Bool) (o' : Nat) : (h.addRef f live).fn o' = h.fn o' := (rfl)
@[simp] theorem addRef_ports (f : Nat) (live : Bool) : (h.addRef f live).ports = h.ports := (rfl)
@[simp] theorem port_addRef (f : Nat) (live : Bool) (p' : Nat) : (h.addRef f live).port p' = h.port p' := (rfl)
@[simp] theorem addRef_timers (f : Nat) (live : Bool) : (h.addRef f live).timers = h.timers := (rfl)
@[simp] theorem addRef_lanes (f : Nat) (live : Bool) : (h.addRef f live).lanes = h.lanes := (rfl)
@[simp] theorem addRef_uartRx (f : Nat) (live : Bool) : (h.addRef f live).uartRx = h.uartRx := (rfl)
@[simp] theorem addRef_treadles (f : Nat) (live : Bool) : (h.addRef f live).treadles = h.treadles := (rfl)
@[simp] theorem addRef_edp (f : Nat) (live : Bool) : (h.addRef f live).edp = h.edp := (rfl)
@[simp] theorem addRef_tdm (f : Nat) (live : Bool) : (h.addRef f live).tdm = h.tdm := (rfl)
@[simp] theorem addRef_arb (f : Nat) (live : Bool) : (h.addRef f live).arb = h.arb := (rfl)
@[simp] theorem addRef_modArm (f : Nat) (live : Bool) : (h.addRef f live).modArm = h.modArm := (rfl)
@[simp] theorem addRef_job (f : Nat) (live : Bool) : (h.addRef f live).job = h.job := (rfl)
@[simp] theorem addRef_power (f : Nat) (live : Bool) : (h.addRef f live).power = h.power := (rfl)
@[simp] theorem addRef_boot (f : Nat) (live : Bool) : (h.addRef f live).boot = h.boot := (rfl)
@[simp] theorem addRef_spdm (f : Nat) (live : Bool) : (h.addRef f live).spdm = h.spdm := (rfl)
@[simp] theorem addRef_sbd (f : Nat) (live : Bool) : (h.addRef f live).sbd = h.sbd := (rfl)
@[simp] theorem addRef_memPoison (f : Nat) (live : Bool) : (h.addRef f live).memPoison = h.memPoison := (rfl)
@[simp] theorem addRef_out (f : Nat) (live : Bool) : (h.addRef f live).out = h.out := (rfl)
@[simp] theorem addRef_fresh (f : Nat) (live : Bool) : (h.addRef f live).fresh = h.fresh := (rfl)

@[simp] theorem unindex_regs (f : Nat) : (h.unindex f).regs = h.regs := (rfl)
@[simp] theorem reg_unindex (f : Nat) (n' : RegName) (i' j' : Nat) : (h.unindex f).reg n' i' j' = h.reg n' i' j' := (rfl)
@[simp] theorem fld_unindex (f : Nat) (f' : Fld) (i' j' : Nat) : (h.unindex f).fld f' i' j' = h.fld f' i' j' := (rfl)
@[simp] theorem flag_unindex (f : Nat) (f' : Fld) (i' j' : Nat) : (h.unindex f).flag f' i' j' = h.flag f' i' j' := (rfl)
@[simp] theorem unindex_mem (f : Nat) : (h.unindex f).mem = h.mem := (rfl)
@[simp] theorem rb_unindex (f : Nat) (a' : Nat) : (h.unindex f).rb a' = h.rb a' := (rfl)
@[simp] theorem unindex_cots (f : Nat) : (h.unindex f).cots = h.cots := (rfl)
@[simp] theorem cot_unindex (f : Nat) (c' : Nat) : (h.unindex f).cot c' = h.cot c' := (rfl)
@[simp] theorem ctx_unindex (f : Nat) (c' : Nat) : (h.unindex f).ctx c' = h.ctx c' := (rfl)
@[simp] theorem unindex_par (f : Nat) : (h.unindex f).par = h.par := (rfl)
@[simp] theorem parish_unindex (f : Nat) (n' : Nat) : (h.unindex f).parish n' = h.parish n' := (rfl)
@[simp] theorem unindex_reeves (f : Nat) : (h.unindex f).reeves = h.reeves := (rfl)
@[simp] theorem reeve_unindex (f : Nat) (r' : Nat) : (h.unindex f).reeve r' = h.reeve r' := (rfl)
@[simp] theorem unindex_fns (f : Nat) : (h.unindex f).fns = h.fns := (rfl)
@[simp] theorem fn_unindex (f : Nat) (o' : Nat) : (h.unindex f).fn o' = h.fn o' := (rfl)
@[simp] theorem unindex_ports (f : Nat) : (h.unindex f).ports = h.ports := (rfl)
@[simp] theorem port_unindex (f : Nat) (p' : Nat) : (h.unindex f).port p' = h.port p' := (rfl)
@[simp] theorem unindex_timers (f : Nat) : (h.unindex f).timers = h.timers := (rfl)
@[simp] theorem unindex_lanes (f : Nat) : (h.unindex f).lanes = h.lanes := (rfl)
@[simp] theorem unindex_uartRx (f : Nat) : (h.unindex f).uartRx = h.uartRx := (rfl)
@[simp] theorem unindex_treadles (f : Nat) : (h.unindex f).treadles = h.treadles := (rfl)
@[simp] theorem unindex_edp (f : Nat) : (h.unindex f).edp = h.edp := (rfl)
@[simp] theorem unindex_tdm (f : Nat) : (h.unindex f).tdm = h.tdm := (rfl)
@[simp] theorem unindex_arb (f : Nat) : (h.unindex f).arb = h.arb := (rfl)
@[simp] theorem unindex_modArm (f : Nat) : (h.unindex f).modArm = h.modArm := (rfl)
@[simp] theorem unindex_job (f : Nat) : (h.unindex f).job = h.job := (rfl)
@[simp] theorem unindex_power (f : Nat) : (h.unindex f).power = h.power := (rfl)
@[simp] theorem unindex_boot (f : Nat) : (h.unindex f).boot = h.boot := (rfl)
@[simp] theorem unindex_spdm (f : Nat) : (h.unindex f).spdm = h.spdm := (rfl)
@[simp] theorem unindex_sbd (f : Nat) : (h.unindex f).sbd = h.sbd := (rfl)
@[simp] theorem unindex_memPoison (f : Nat) : (h.unindex f).memPoison = h.memPoison := (rfl)
@[simp] theorem unindex_out (f : Nat) : (h.unindex f).out = h.out := (rfl)
@[simp] theorem unindex_fresh (f : Nat) : (h.unindex f).fresh = h.fresh := (rfl)

@[simp] theorem releaseFrame_mem (f : Nat) : (h.releaseFrame f).2.mem = h.mem := by simp only [releaseFrame]; split <;> simp
@[simp] theorem releaseFrame_cots (f : Nat) : (h.releaseFrame f).2.cots = h.cots := by simp only [releaseFrame]; split <;> simp
@[simp] theorem releaseFrame_par (f : Nat) : (h.releaseFrame f).2.par = h.par := by simp only [releaseFrame]; split <;> simp
@[simp] theorem releaseFrame_reeves (f : Nat) : (h.releaseFrame f).2.reeves = h.reeves := by simp only [releaseFrame]; split <;> simp
@[simp] theorem releaseFrame_fns (f : Nat) : (h.releaseFrame f).2.fns = h.fns := by simp only [releaseFrame]; split <;> simp
@[simp] theorem releaseFrame_ports (f : Nat) : (h.releaseFrame f).2.ports = h.ports := by simp only [releaseFrame]; split <;> simp
@[simp] theorem releaseFrame_timers (f : Nat) : (h.releaseFrame f).2.timers = h.timers := by simp only [releaseFrame]; split <;> simp
@[simp] theorem releaseFrame_lanes (f : Nat) : (h.releaseFrame f).2.lanes = h.lanes := by simp only [releaseFrame]; split <;> simp
@[simp] theorem releaseFrame_uartRx (f : Nat) : (h.releaseFrame f).2.uartRx = h.uartRx := by simp only [releaseFrame]; split <;> simp
@[simp] theorem releaseFrame_treadles (f : Nat) : (h.releaseFrame f).2.treadles = h.treadles := by simp only [releaseFrame]; split <;> simp
@[simp] theorem releaseFrame_edp (f : Nat) : (h.releaseFrame f).2.edp = h.edp := by simp only [releaseFrame]; split <;> simp
@[simp] theorem releaseFrame_tdm (f : Nat) : (h.releaseFrame f).2.tdm = h.tdm := by simp only [releaseFrame]; split <;> simp
@[simp] theorem releaseFrame_arb (f : Nat) : (h.releaseFrame f).2.arb = h.arb := by simp only [releaseFrame]; split <;> simp
@[simp] theorem releaseFrame_modArm (f : Nat) : (h.releaseFrame f).2.modArm = h.modArm := by simp only [releaseFrame]; split <;> simp
@[simp] theorem releaseFrame_job (f : Nat) : (h.releaseFrame f).2.job = h.job := by simp only [releaseFrame]; split <;> simp
@[simp] theorem releaseFrame_power (f : Nat) : (h.releaseFrame f).2.power = h.power := by simp only [releaseFrame]; split <;> simp
@[simp] theorem releaseFrame_boot (f : Nat) : (h.releaseFrame f).2.boot = h.boot := by simp only [releaseFrame]; split <;> simp
@[simp] theorem releaseFrame_spdm (f : Nat) : (h.releaseFrame f).2.spdm = h.spdm := by simp only [releaseFrame]; split <;> simp
@[simp] theorem releaseFrame_sbd (f : Nat) : (h.releaseFrame f).2.sbd = h.sbd := by simp only [releaseFrame]; split <;> simp
@[simp] theorem releaseFrame_memPoison (f : Nat) : (h.releaseFrame f).2.memPoison = h.memPoison := by simp only [releaseFrame]; split <;> simp
@[simp] theorem releaseFrame_out (f : Nat) : (h.releaseFrame f).2.out = h.out := by simp only [releaseFrame]; split <;> simp
@[simp] theorem releaseFrame_fresh (f : Nat) : (h.releaseFrame f).2.fresh = h.fresh := by simp only [releaseFrame]; split <;> simp

theorem reg_releaseFrame (f : Nat) (n : RegName) (i j : Nat) (hn : n ≠ .GRN_OWN) :
    (h.releaseFrame f).2.reg n i j = h.reg n i j := by
  simp only [releaseFrame]
  split
  · simp
  · simp only [reg_unindex, reg_setFrame]
    exact reg_setFld_reg _ _ _ _ _ _ _ _ (fun e => hn e.symm)

/-- Dropping references changes the map, the index and the owners' counts alone. -/
theorem dropRefs_only : ∀ (n : Nat) (h : Hw) (f : Nat) (live : Bool), ∃ r g, dropRefs n h f live = { h with regs := r, gran := g }
  | 0, h, f, live => ⟨_, _, rfl⟩
  | n + 1, h, f, live => by
    have k : ∃ r g, (h.releaseFrame f).2 = { h with regs := r, gran := g } := by
      simp only [releaseFrame]; split <;> exact ⟨_, _, rfl⟩
    obtain ⟨r, g, k⟩ := k
    rw [dropRefs]
    repeat (any_goals split)
    · exact ⟨_, _, rfl⟩
    · exact ⟨_, _, rfl⟩
    · rename_i e
      obtain ⟨r', g', e'⟩ := dropRefs_only n ((h.releaseFrame f).2) _ false
      rw [e] at e'; rw [e', ← show (h.releaseFrame f).2 = _ from congrArg Prod.snd e, k]; exact ⟨_, _, rfl⟩
    · rename_i e; rw [e] at k; exact ⟨_, _, k⟩
    · exact ⟨_, _, rfl⟩
theorem reg_dropRefs : ∀ (k : Nat) (h : Hw) (f : Nat) (live : Bool) (n : RegName) (i j : Nat) (_ : n ≠ .GRN_OWN),
    (dropRefs k h f live).reg n i j = h.reg n i j
  | 0, h, f, live, n, i, j, hn => rfl
  | k + 1, h, f, live, n, i, j, hn => by
    rw [dropRefs]
    repeat (any_goals split)
    · rfl
    · rfl
    · rename_i e; rw [reg_dropRefs k _ _ _ _ _ _ hn, ← reg_releaseFrame h f _ _ _ hn, e]
    · rename_i e; rw [← reg_releaseFrame h f _ _ _ hn, e]
    · rfl

@[simp] theorem dropRef_mem (f : Nat) (live : Bool) : (h.dropRef f live).mem = h.mem := by
  obtain ⟨_, _, e⟩ := dropRefs_only 16 h f live; rw [dropRef, e]
@[simp] theorem rb_dropRef (f : Nat) (live : Bool) (a' : Nat) : (h.dropRef f live).rb a' = h.rb a' := by simp only [rb, dropRef_mem]
@[simp] theorem dropRef_cots (f : Nat) (live : Bool) : (h.dropRef f live).cots = h.cots := by
  obtain ⟨_, _, e⟩ := dropRefs_only 16 h f live; rw [dropRef, e]
@[simp] theorem cot_dropRef (f : Nat) (live : Bool) (c' : Nat) : (h.dropRef f live).cot c' = h.cot c' := by simp only [cot, dropRef_cots]
@[simp] theorem ctx_dropRef (f : Nat) (live : Bool) (c' : Nat) : (h.dropRef f live).ctx c' = h.ctx c' := by simp only [ctx, cot, dropRef_cots]
@[simp] theorem dropRef_par (f : Nat) (live : Bool) : (h.dropRef f live).par = h.par := by
  obtain ⟨_, _, e⟩ := dropRefs_only 16 h f live; rw [dropRef, e]
@[simp] theorem parish_dropRef (f : Nat) (live : Bool) (n' : Nat) : (h.dropRef f live).parish n' = h.parish n' := by simp only [parish, dropRef_par]
@[simp] theorem dropRef_reeves (f : Nat) (live : Bool) : (h.dropRef f live).reeves = h.reeves := by
  obtain ⟨_, _, e⟩ := dropRefs_only 16 h f live; rw [dropRef, e]
@[simp] theorem reeve_dropRef (f : Nat) (live : Bool) (r' : Nat) : (h.dropRef f live).reeve r' = h.reeve r' := by simp only [reeve, dropRef_reeves]
@[simp] theorem dropRef_fns (f : Nat) (live : Bool) : (h.dropRef f live).fns = h.fns := by
  obtain ⟨_, _, e⟩ := dropRefs_only 16 h f live; rw [dropRef, e]
@[simp] theorem fn_dropRef (f : Nat) (live : Bool) (o' : Nat) : (h.dropRef f live).fn o' = h.fn o' := by simp only [fn, dropRef_fns]
@[simp] theorem dropRef_ports (f : Nat) (live : Bool) : (h.dropRef f live).ports = h.ports := by
  obtain ⟨_, _, e⟩ := dropRefs_only 16 h f live; rw [dropRef, e]
@[simp] theorem port_dropRef (f : Nat) (live : Bool) (p' : Nat) : (h.dropRef f live).port p' = h.port p' := by simp only [port, dropRef_ports]
@[simp] theorem dropRef_timers (f : Nat) (live : Bool) : (h.dropRef f live).timers = h.timers := by
  obtain ⟨_, _, e⟩ := dropRefs_only 16 h f live; rw [dropRef, e]
@[simp] theorem dropRef_lanes (f : Nat) (live : Bool) : (h.dropRef f live).lanes = h.lanes := by
  obtain ⟨_, _, e⟩ := dropRefs_only 16 h f live; rw [dropRef, e]
@[simp] theorem dropRef_uartRx (f : Nat) (live : Bool) : (h.dropRef f live).uartRx = h.uartRx := by
  obtain ⟨_, _, e⟩ := dropRefs_only 16 h f live; rw [dropRef, e]
@[simp] theorem dropRef_treadles (f : Nat) (live : Bool) : (h.dropRef f live).treadles = h.treadles := by
  obtain ⟨_, _, e⟩ := dropRefs_only 16 h f live; rw [dropRef, e]
@[simp] theorem dropRef_edp (f : Nat) (live : Bool) : (h.dropRef f live).edp = h.edp := by
  obtain ⟨_, _, e⟩ := dropRefs_only 16 h f live; rw [dropRef, e]
@[simp] theorem dropRef_tdm (f : Nat) (live : Bool) : (h.dropRef f live).tdm = h.tdm := by
  obtain ⟨_, _, e⟩ := dropRefs_only 16 h f live; rw [dropRef, e]
@[simp] theorem dropRef_arb (f : Nat) (live : Bool) : (h.dropRef f live).arb = h.arb := by
  obtain ⟨_, _, e⟩ := dropRefs_only 16 h f live; rw [dropRef, e]
@[simp] theorem dropRef_modArm (f : Nat) (live : Bool) : (h.dropRef f live).modArm = h.modArm := by
  obtain ⟨_, _, e⟩ := dropRefs_only 16 h f live; rw [dropRef, e]
@[simp] theorem dropRef_job (f : Nat) (live : Bool) : (h.dropRef f live).job = h.job := by
  obtain ⟨_, _, e⟩ := dropRefs_only 16 h f live; rw [dropRef, e]
@[simp] theorem dropRef_power (f : Nat) (live : Bool) : (h.dropRef f live).power = h.power := by
  obtain ⟨_, _, e⟩ := dropRefs_only 16 h f live; rw [dropRef, e]
@[simp] theorem dropRef_boot (f : Nat) (live : Bool) : (h.dropRef f live).boot = h.boot := by
  obtain ⟨_, _, e⟩ := dropRefs_only 16 h f live; rw [dropRef, e]
@[simp] theorem dropRef_spdm (f : Nat) (live : Bool) : (h.dropRef f live).spdm = h.spdm := by
  obtain ⟨_, _, e⟩ := dropRefs_only 16 h f live; rw [dropRef, e]
@[simp] theorem dropRef_sbd (f : Nat) (live : Bool) : (h.dropRef f live).sbd = h.sbd := by
  obtain ⟨_, _, e⟩ := dropRefs_only 16 h f live; rw [dropRef, e]
@[simp] theorem dropRef_memPoison (f : Nat) (live : Bool) : (h.dropRef f live).memPoison = h.memPoison := by
  obtain ⟨_, _, e⟩ := dropRefs_only 16 h f live; rw [dropRef, e]
@[simp] theorem dropRef_out (f : Nat) (live : Bool) : (h.dropRef f live).out = h.out := by
  obtain ⟨_, _, e⟩ := dropRefs_only 16 h f live; rw [dropRef, e]
@[simp] theorem dropRef_fresh (f : Nat) (live : Bool) : (h.dropRef f live).fresh = h.fresh := by
  obtain ⟨_, _, e⟩ := dropRefs_only 16 h f live; rw [dropRef, e]

theorem reg_dropRef (f : Nat) (live : Bool) (n : RegName) (i j : Nat) (hn : n ≠ .GRN_OWN) :
    (h.dropRef f live).reg n i j = h.reg n i j := reg_dropRefs _ _ _ _ _ _ _ hn
theorem fld_dropRef (f : Nat) (live : Bool) (g : Fld) (i j : Nat) (hn : g.reg ≠ .GRN_OWN) :
    (h.dropRef f live).fld g i j = h.fld g i j := by simp only [fld, reg_dropRef _ _ _ _ _ _ hn]

@[simp] theorem freeSlab_mem (b : Nat × Nat) : (h.freeSlab b).mem = h.mem := by unfold freeSlab; dsimp only; split <;> simp
@[simp] theorem rb_freeSlab (b : Nat × Nat) (a' : Nat) : (h.freeSlab b).rb a' = h.rb a' := by simp only [rb, freeSlab_mem]
@[simp] theorem freeSlab_cots (b : Nat × Nat) : (h.freeSlab b).cots = h.cots := by unfold freeSlab; dsimp only; split <;> simp
@[simp] theorem cot_freeSlab (b : Nat × Nat) (c' : Nat) : (h.freeSlab b).cot c' = h.cot c' := by simp only [cot, freeSlab_cots]
@[simp] theorem ctx_freeSlab (b : Nat × Nat) (c' : Nat) : (h.freeSlab b).ctx c' = h.ctx c' := by simp only [ctx, cot, freeSlab_cots]
@[simp] theorem freeSlab_par (b : Nat × Nat) : (h.freeSlab b).par = h.par := by unfold freeSlab; dsimp only; split <;> simp
@[simp] theorem parish_freeSlab (b : Nat × Nat) (n' : Nat) : (h.freeSlab b).parish n' = h.parish n' := by simp only [parish, freeSlab_par]
@[simp] theorem freeSlab_reeves (b : Nat × Nat) : (h.freeSlab b).reeves = h.reeves := by unfold freeSlab; dsimp only; split <;> simp
@[simp] theorem reeve_freeSlab (b : Nat × Nat) (r' : Nat) : (h.freeSlab b).reeve r' = h.reeve r' := by simp only [reeve, freeSlab_reeves]
@[simp] theorem freeSlab_fns (b : Nat × Nat) : (h.freeSlab b).fns = h.fns := by unfold freeSlab; dsimp only; split <;> simp
@[simp] theorem fn_freeSlab (b : Nat × Nat) (o' : Nat) : (h.freeSlab b).fn o' = h.fn o' := by simp only [fn, freeSlab_fns]
@[simp] theorem freeSlab_ports (b : Nat × Nat) : (h.freeSlab b).ports = h.ports := by unfold freeSlab; dsimp only; split <;> simp
@[simp] theorem port_freeSlab (b : Nat × Nat) (p' : Nat) : (h.freeSlab b).port p' = h.port p' := by simp only [port, freeSlab_ports]
@[simp] theorem freeSlab_timers (b : Nat × Nat) : (h.freeSlab b).timers = h.timers := by unfold freeSlab; dsimp only; split <;> simp
@[simp] theorem freeSlab_lanes (b : Nat × Nat) : (h.freeSlab b).lanes = h.lanes := by unfold freeSlab; dsimp only; split <;> simp
@[simp] theorem freeSlab_uartRx (b : Nat × Nat) : (h.freeSlab b).uartRx = h.uartRx := by unfold freeSlab; dsimp only; split <;> simp
@[simp] theorem freeSlab_treadles (b : Nat × Nat) : (h.freeSlab b).treadles = h.treadles := by unfold freeSlab; dsimp only; split <;> simp
@[simp] theorem freeSlab_edp (b : Nat × Nat) : (h.freeSlab b).edp = h.edp := by unfold freeSlab; dsimp only; split <;> simp
@[simp] theorem freeSlab_tdm (b : Nat × Nat) : (h.freeSlab b).tdm = h.tdm := by unfold freeSlab; dsimp only; split <;> simp
@[simp] theorem freeSlab_arb (b : Nat × Nat) : (h.freeSlab b).arb = h.arb := by unfold freeSlab; dsimp only; split <;> simp
@[simp] theorem freeSlab_modArm (b : Nat × Nat) : (h.freeSlab b).modArm = h.modArm := by unfold freeSlab; dsimp only; split <;> simp
@[simp] theorem freeSlab_job (b : Nat × Nat) : (h.freeSlab b).job = h.job := by unfold freeSlab; dsimp only; split <;> simp
@[simp] theorem freeSlab_power (b : Nat × Nat) : (h.freeSlab b).power = h.power := by unfold freeSlab; dsimp only; split <;> simp
@[simp] theorem freeSlab_boot (b : Nat × Nat) : (h.freeSlab b).boot = h.boot := by unfold freeSlab; dsimp only; split <;> simp
@[simp] theorem freeSlab_spdm (b : Nat × Nat) : (h.freeSlab b).spdm = h.spdm := by unfold freeSlab; dsimp only; split <;> simp
@[simp] theorem freeSlab_sbd (b : Nat × Nat) : (h.freeSlab b).sbd = h.sbd := by unfold freeSlab; dsimp only; split <;> simp
@[simp] theorem freeSlab_memPoison (b : Nat × Nat) : (h.freeSlab b).memPoison = h.memPoison := by unfold freeSlab; dsimp only; split <;> simp
@[simp] theorem freeSlab_out (b : Nat × Nat) : (h.freeSlab b).out = h.out := by unfold freeSlab; dsimp only; split <;> simp
@[simp] theorem freeSlab_fresh (b : Nat × Nat) : (h.freeSlab b).fresh = h.fresh := by unfold freeSlab; dsimp only; split <;> simp

@[simp] theorem dropSnap_mem (c k : Nat) : (h.dropSnap c k).mem = h.mem := by
  unfold dropSnap
  split
  · rfl
  · rw [freeSlab_mem, each_keeps (·.mem) _ (fun _ _ => dropRef_mem _ _ _)]; rfl
@[simp] theorem rb_dropSnap (c k : Nat) (a' : Nat) : (h.dropSnap c k).rb a' = h.rb a' := by simp only [rb, dropSnap_mem]
@[simp] theorem dropSnap_par (c k : Nat) : (h.dropSnap c k).par = h.par := by
  unfold dropSnap
  split
  · rfl
  · rw [freeSlab_par, each_keeps (·.par) _ (fun _ _ => dropRef_par _ _ _)]; rfl
@[simp] theorem parish_dropSnap (c k : Nat) (n' : Nat) : (h.dropSnap c k).parish n' = h.parish n' := by simp only [parish, dropSnap_par]
@[simp] theorem dropSnap_reeves (c k : Nat) : (h.dropSnap c k).reeves = h.reeves := by
  unfold dropSnap
  split
  · rfl
  · rw [freeSlab_reeves, each_keeps (·.reeves) _ (fun _ _ => dropRef_reeves _ _ _)]; rfl
@[simp] theorem reeve_dropSnap (c k : Nat) (r' : Nat) : (h.dropSnap c k).reeve r' = h.reeve r' := by simp only [reeve, dropSnap_reeves]
@[simp] theorem dropSnap_fns (c k : Nat) : (h.dropSnap c k).fns = h.fns := by
  unfold dropSnap
  split
  · rfl
  · rw [freeSlab_fns, each_keeps (·.fns) _ (fun _ _ => dropRef_fns _ _ _)]; rfl
@[simp] theorem fn_dropSnap (c k : Nat) (o' : Nat) : (h.dropSnap c k).fn o' = h.fn o' := by simp only [fn, dropSnap_fns]
@[simp] theorem dropSnap_ports (c k : Nat) : (h.dropSnap c k).ports = h.ports := by
  unfold dropSnap
  split
  · rfl
  · rw [freeSlab_ports, each_keeps (·.ports) _ (fun _ _ => dropRef_ports _ _ _)]; rfl
@[simp] theorem port_dropSnap (c k : Nat) (p' : Nat) : (h.dropSnap c k).port p' = h.port p' := by simp only [port, dropSnap_ports]
@[simp] theorem dropSnap_timers (c k : Nat) : (h.dropSnap c k).timers = h.timers := by
  unfold dropSnap
  split
  · rfl
  · rw [freeSlab_timers, each_keeps (·.timers) _ (fun _ _ => dropRef_timers _ _ _)]; rfl
@[simp] theorem dropSnap_lanes (c k : Nat) : (h.dropSnap c k).lanes = h.lanes := by
  unfold dropSnap
  split
  · rfl
  · rw [freeSlab_lanes, each_keeps (·.lanes) _ (fun _ _ => dropRef_lanes _ _ _)]; rfl
@[simp] theorem dropSnap_uartRx (c k : Nat) : (h.dropSnap c k).uartRx = h.uartRx := by
  unfold dropSnap
  split
  · rfl
  · rw [freeSlab_uartRx, each_keeps (·.uartRx) _ (fun _ _ => dropRef_uartRx _ _ _)]; rfl
@[simp] theorem dropSnap_treadles (c k : Nat) : (h.dropSnap c k).treadles = h.treadles := by
  unfold dropSnap
  split
  · rfl
  · rw [freeSlab_treadles, each_keeps (·.treadles) _ (fun _ _ => dropRef_treadles _ _ _)]; rfl
@[simp] theorem dropSnap_edp (c k : Nat) : (h.dropSnap c k).edp = h.edp := by
  unfold dropSnap
  split
  · rfl
  · rw [freeSlab_edp, each_keeps (·.edp) _ (fun _ _ => dropRef_edp _ _ _)]; rfl
@[simp] theorem dropSnap_tdm (c k : Nat) : (h.dropSnap c k).tdm = h.tdm := by
  unfold dropSnap
  split
  · rfl
  · rw [freeSlab_tdm, each_keeps (·.tdm) _ (fun _ _ => dropRef_tdm _ _ _)]; rfl
@[simp] theorem dropSnap_arb (c k : Nat) : (h.dropSnap c k).arb = h.arb := by
  unfold dropSnap
  split
  · rfl
  · rw [freeSlab_arb, each_keeps (·.arb) _ (fun _ _ => dropRef_arb _ _ _)]; rfl
@[simp] theorem dropSnap_modArm (c k : Nat) : (h.dropSnap c k).modArm = h.modArm := by
  unfold dropSnap
  split
  · rfl
  · rw [freeSlab_modArm, each_keeps (·.modArm) _ (fun _ _ => dropRef_modArm _ _ _)]; rfl
@[simp] theorem dropSnap_job (c k : Nat) : (h.dropSnap c k).job = h.job := by
  unfold dropSnap
  split
  · rfl
  · rw [freeSlab_job, each_keeps (·.job) _ (fun _ _ => dropRef_job _ _ _)]; rfl
@[simp] theorem dropSnap_power (c k : Nat) : (h.dropSnap c k).power = h.power := by
  unfold dropSnap
  split
  · rfl
  · rw [freeSlab_power, each_keeps (·.power) _ (fun _ _ => dropRef_power _ _ _)]; rfl
@[simp] theorem dropSnap_boot (c k : Nat) : (h.dropSnap c k).boot = h.boot := by
  unfold dropSnap
  split
  · rfl
  · rw [freeSlab_boot, each_keeps (·.boot) _ (fun _ _ => dropRef_boot _ _ _)]; rfl
@[simp] theorem dropSnap_spdm (c k : Nat) : (h.dropSnap c k).spdm = h.spdm := by
  unfold dropSnap
  split
  · rfl
  · rw [freeSlab_spdm, each_keeps (·.spdm) _ (fun _ _ => dropRef_spdm _ _ _)]; rfl
@[simp] theorem dropSnap_sbd (c k : Nat) : (h.dropSnap c k).sbd = h.sbd := by
  unfold dropSnap
  split
  · rfl
  · rw [freeSlab_sbd, each_keeps (·.sbd) _ (fun _ _ => dropRef_sbd _ _ _)]; rfl
@[simp] theorem dropSnap_memPoison (c k : Nat) : (h.dropSnap c k).memPoison = h.memPoison := by
  unfold dropSnap
  split
  · rfl
  · rw [freeSlab_memPoison, each_keeps (·.memPoison) _ (fun _ _ => dropRef_memPoison _ _ _)]; rfl
@[simp] theorem dropSnap_out (c k : Nat) : (h.dropSnap c k).out = h.out := by
  unfold dropSnap
  split
  · rfl
  · rw [freeSlab_out, each_keeps (·.out) _ (fun _ _ => dropRef_out _ _ _)]; rfl
@[simp] theorem dropSnap_fresh (c k : Nat) : (h.dropSnap c k).fresh = h.fresh := by
  unfold dropSnap
  split
  · rfl
  · rw [freeSlab_fresh, each_keeps (·.fresh) _ (fun _ _ => dropRef_fresh _ _ _)]; rfl

/-- `g` is `h` with other memory and frames and other registers of the Granary. -/
structure GranOnly (g h : Hw) : Prop where
  only : ∃ r m p a, g = { h with regs := r, mem := m, memPoison := p, gran := a }
  reg : ∀ n i j, n.desc.blk ≠ .GRN → g.reg n i j = h.reg n i j

theorem GranOnly.refl (h : Hw) : GranOnly h h := ⟨⟨_, _, _, _, rfl⟩, fun _ _ _ _ => rfl⟩
theorem GranOnly.trans {g h k : Hw} (a : GranOnly k g) (b : GranOnly g h) : GranOnly k h := by
  refine ⟨?_, fun n i j e => (a.reg n i j e).trans (b.reg n i j e)⟩
  obtain ⟨⟨_, _, _, _, rfl⟩, -⟩ := b; obtain ⟨⟨_, _, _, _, rfl⟩, -⟩ := a; exact ⟨_, _, _, _, rfl⟩
theorem GranOnly.mk' {g h : Hw} (e : ∃ m p a, g = { h with mem := m, memPoison := p, gran := a }) : GranOnly g h := by
  obtain ⟨_, _, _, rfl⟩ := e; exact ⟨⟨_, _, _, _, rfl⟩, fun _ _ _ _ => rfl⟩
theorem GranOnly.each {α : Type} (f : Hw → α → Hw) (k : ∀ h a, GranOnly (f h a) h) (l : List α) :
    ∀ h : Hw, GranOnly (h.each l f) h := by
  induction l with
  | nil => exact GranOnly.refl
  | cons x l ih => exact fun h => (ih (f h x)).trans (k h x)
theorem GranOnly.setFld (f : Fld) (i j v : Nat) (b : f.reg.desc.blk = .GRN) : GranOnly (h.setFld f i j v) h :=
  ⟨⟨_, _, _, _, rfl⟩, fun n i' j' e => reg_setFld_reg _ _ _ _ _ _ _ _ (by rintro rfl; exact e b)⟩
theorem GranOnly.dropMapRefs (f : Nat) : GranOnly (h.dropMapRefs f) h :=
  GranOnly.each _ (fun _ _ => (setFld _ _ _ _ _ rfl).trans (setFld _ _ _ _ _ rfl)) _ _
theorem GranOnly.setFrame (f : Nat) (x : Frame) : GranOnly (h.setFrame f x) h := mk' ⟨_, _, _, rfl⟩
theorem GranOnly.unindex (f : Nat) : GranOnly (h.unindex f) h := mk' ⟨_, _, _, rfl⟩
theorem GranOnly.countWrap (f : Fld) (i j n : Nat) (b : f.reg.desc.blk = .GRN) : GranOnly (h.countWrap f i j n) h := setFld _ _ _ _ _ b
theorem GranOnly.releaseFrame (f : Nat) : GranOnly (h.releaseFrame f).2 h := by
  simp only [Hw.releaseFrame]
  refine ((unindex _ _).trans (setFrame _ _ _)).trans ?_
  split
  · exact refl _
  · exact setFld _ _ _ _ _ rfl
theorem GranOnly.evictFrame (f : Nat) : GranOnly (h.evictFrame f) h :=
  (countWrap _ _ _ _ _ rfl).trans ((releaseFrame _ f).trans (dropMapRefs h f))
theorem GranOnly.clock : ∀ (l : List Nat) (h : Hw) (o : Nat), GranOnly (Hw.clock l h o).2 h
  | [], h, o => refl h
  | f :: l, h, o => by
    rw [Hw.clock]
    dsimp only
    split
    · exact (clock l _ o).trans (mk' ⟨_, _, _, rfl⟩)
    split
    · exact (clock l _ o).trans (mk' ⟨_, _, _, rfl⟩)
    split
    · exact (evictFrame _ f).trans (mk' ⟨_, _, _, rfl⟩)
    · exact (clock l _ o).trans (mk' ⟨_, _, _, rfl⟩)
theorem GranOnly.takeFrame (o : Nat) (e : Frame) : GranOnly (h.takeFrame o e).2 h := by
  rw [Hw.takeFrame]
  split
  · exact refl h
  · dsimp only
    split
    · exact mk' ⟨_, _, _, rfl⟩
    · exact (countWrap _ _ _ _ _ rfl).trans (mk' ⟨_, _, _, rfl⟩)
/-- An allocation changes registers, memory and frames alone. -/
theorem GranOnly.allocFrame (o : Nat) (e : Frame) : GranOnly (h.allocFrame o e).2 h := by
  rw [Hw.allocFrame]
  split
  · exact takeFrame _ _ _
  split
  · have k : GranOnly (h.evict o).2 h := clock _ _ _
    split <;> rename_i e' <;> rw [e'] at k
    · exact k
    · exact (takeFrame _ _ _).trans k
  · exact takeFrame _ _ _
theorem GranOnly.allocSlab (o : Nat) : GranOnly (h.allocSlab o).2 h := by
  rw [Hw.allocSlab]
  split
  · exact mk' ⟨_, _, _, rfl⟩
  · have k := allocFrame h o privFrame
    split <;> rename_i e <;> rw [e] at k
    · exact k
    · exact GranOnly.trans (mk' ⟨_, _, _, rfl⟩) k
theorem GranOnly.addRef (f : Nat) (b : Bool) : GranOnly (h.addRef f b) h := mk' ⟨_, _, _, rfl⟩
theorem GranOnly.cots {g h : Hw} (k : GranOnly g h) : g.cots = h.cots := by obtain ⟨⟨_, _, _, _, rfl⟩, -⟩ := k; rfl
theorem GranOnly.par {g h : Hw} (k : GranOnly g h) : g.par = h.par := by obtain ⟨⟨_, _, _, _, rfl⟩, -⟩ := k; rfl
theorem GranOnly.cot {g h : Hw} (k : GranOnly g h) (c : Nat) : g.cot c = h.cot c := by rw [Hw.cot, k.cots]; rfl
theorem GranOnly.ctx {g h : Hw} (k : GranOnly g h) (c : Nat) : g.ctx c = h.ctx c := by rw [Hw.ctx, k.cot]; rfl

theorem GranOnly.dropRefs : ∀ (n : Nat) (h : Hw) (f : Nat) (live : Bool), GranOnly (Hw.dropRefs n h f live) h
  | 0, h, f, live => refl h
  | n + 1, h, f, live => by
    have k := GranOnly.releaseFrame h f
    rw [Hw.dropRefs]
    repeat (any_goals split)
    · exact refl h
    · exact setFrame _ _ _
    · rename_i e; rw [e] at k; exact (dropRefs n _ _ _).trans k
    · rename_i e; rw [e] at k; exact k
    · exact setFrame _ _ _
theorem GranOnly.dropRef (f : Nat) (live : Bool) : GranOnly (h.dropRef f live) h := dropRefs _ _ _ _
theorem GranOnly.freeSlab (b : Nat × Nat) : GranOnly (h.freeSlab b) h := by
  unfold Hw.freeSlab
  dsimp only
  split
  · exact (dropRef _ _ _).trans (mk' ⟨_, _, _, rfl⟩)
  · exact mk' ⟨_, _, _, rfl⟩
/-- Dropping a snapshot empties its slot; the references it held go. -/
theorem GranOnly.dropSnap (c k : Nat) :
    GranOnly (h.dropSnap c k) (if (h.snap c k).isSome then h.setSnap c k none else h) := by
  unfold Hw.dropSnap
  split
  · rename_i e; simp [e, refl]
  · rename_i e
    simp only [e, Option.isSome_some, if_true]
    exact (freeSlab _ _).trans (GranOnly.each _ (fun _ _ => dropRef _ _ _) _ _)
theorem cot_dropSnap (c k : Nat) : (h.dropSnap c k).cot c = { h.cot c with
    snaps := if (h.snap c k).isSome then (h.cot c).snaps.set k none else (h.cot c).snaps } := by
  rw [(GranOnly.dropSnap h c k).cot]
  split <;> simp [setSnap]

@[simp] theorem snap_hayDone (c code : Nat) (b : Bool) (k : Nat) : (h.hayDone c code b).snap c k = h.snap c k := by
  simp [snap, cot_hayDone]
@[simp] theorem snap_setPower (p : Power) (c k : Nat) : (h.setPower p).snap c k = h.snap c k := rfl

/-- Dropping a snapshot leaves of all contexts everything but that snapshot. -/
theorem dropSnap_cots (c k : Nat) : (h.dropSnap c k).cots = if (h.snap c k).isSome then (h.setSnap c k none).cots else h.cots := by
  unfold dropSnap
  split
  · rename_i e; simp [e]
  · rename_i e; rw [freeSlab_cots, each_keeps (·.cots) _ (fun _ _ => dropRef_cots _ _ _)]; simp [e]
theorem snap_setSnap (c k : Nat) (x : Option Snapshot) (hk : k < (h.cot c).snaps.length) : (h.setSnap c k x).snap c k = x := by
  simp [snap, setSnap, hk]

end Sys2Proof.Machine.Hw
end

