-- ==== Sys2Proof/Laws/Hayloft.lean ====
section
/-!
SUPPORT. The length of a snapshot's image, and the reach of the Hayloft's address range. -/

namespace Sys2Proof.Machine

theorem length_leBytes (n v : Nat) : (leBytes n v).length = n := by simp [leBytes]

theorem length_wordBytes (l : List Nat) : (Hw.wordBytes l).length = 4 * l.length := by
  induction l with
  | nil => rfl
  | cons a l ih => simp only [Hw.wordBytes, List.flatMap_cons, List.length_append, length_leBytes] at *; simp [ih]; omega

/-- A section is no longer than its body, its header and its padding. -/
theorem length_sectionOf_le (t i : Nat) (b : List Byte) : (Hw.sectionOf t i b).length ≤ 31 + b.length := by
  simp only [Hw.sectionOf, Hw.pad16, List.length_append, length_leBytes, List.length_replicate]
  omega

/-- An image is never empty. -/
theorem length_imageOf_pos (h : Hw) (c : Nat) (x : Snapshot) : 0 < (h.imageOf c x).length := by
  simp only [Hw.imageOf, List.length_append, length_leBytes]
  omega

theorem length_intBytes (l : List Int) : (Hw.intBytes l).length = 8 * l.length := by
  induction l with
  | nil => rfl
  | cons a l ih =>
    simp only [Hw.intBytes, List.flatMap_cons, List.length_append, length_leBytes, List.length_cons] at *; omega

theorem length_audioBody (a : AudioPart) : (Hw.audioBody a).length = 14592 := by
  have e : ((List.range 32).flatMap fun v => Hw.voiceInts (NTable.get Voice.reset a.voices v)).length = 800 := by
    rw [List.length_flatMap]; simp only [Hw.voiceInts, List.length_cons, List.length_nil]; decide +kernel
  simp only [Hw.audioBody, List.length_append, length_wordBytes, length_intBytes, List.length_map, List.length_range, e]

theorem length_cottageBody (x : CottagePart) (hl : x.io.late = []) (hw : x.io.words = []) :
    (Hw.cottageBody x).length = 320 := by
  simp [Hw.cottageBody, length_intBytes, hl, hw, Hw.pairInts, List.range_succ]

/-- An image without map entries, video RAM contents, Tally, pending writes and charged words has less than two mebibytes. -/
theorem length_imageOf_le (h : Hw) (c : Nat) (x : Snapshot) (hm : x.map = []) (hv : bit x.vram.toNat 2 = false)
    (ht : x.tally = []) (hq : x.hob.queue = []) (hl : x.cottage.io.late = []) (hw : x.cottage.io.words = []) :
    (h.imageOf c x).length ≤ 0x200000 := by
  have a := length_sectionOf_le 0x01 0 (Hw.cpuBody x.hob)
  have b := length_sectionOf_le 0x02 0 (Hw.wordBytes ((List.range 4096).map fun i => (NTable.get 0 x.vreg (4 * i)).toNat) ++
     Hw.wordBytes ((List.range 4096).map (NTable.get 0 x.pal)))
  have d := length_sectionOf_le 0x03 0 (Hw.wordBytes [x.nextSeq, 0])
  have e := length_sectionOf_le 0x04 0 (Hw.audioBody x.audio)
  have f := length_sectionOf_le 0x05 0 (Hw.cottageBody x.cottage)
  have g := length_sectionOf_le 0x10 0 ((List.range 256).flatMap (fun _ => leBytes 8 0) ++ leBytes 8 0)
  have i := length_sectionOf_le 0x11 0x100 (List.replicate 0x100000 0)
  have g1 : ((List.range 256).flatMap (fun _ => leBytes 8 0)).length = 2048 := by
    rw [List.length_flatMap]; simp only [length_leBytes]; decide +kernel
  rw [length_audioBody] at e
  rw [length_cottageBody _ hl hw] at f
  simp only [Hw.cpuBody, hq, Hw.pendingValues, List.flatMap_nil, List.length_append, List.length_map, List.length_cons,
    List.length_nil, length_wordBytes, length_leBytes, List.length_range, List.length_replicate, Vector.length_toList, g1] at a b d g i
  simp only [Hw.imageOf, Hw.imageSections, hm, ht, hv, Hw.cpuBody, hq, Hw.pendingValues, List.flatMap_nil, List.append_nil,
    List.length_append, length_leBytes, digestBytes, List.length_reverse, List.nil_append, List.filter_nil, List.map_cons,
    List.map_nil, List.cons_append, List.flatten_cons, List.flatten_nil, List.find?_nil, Option.map_none, Option.getD_none,
    List.length_nil, Bool.false_eq_true, if_false] at *
  omega

/-- A range that fits still fits when it is shorter. -/
theorem hayRange_mono {h : Hw} {c : Nat} {k : HayCmd} {l m : Nat} (hm : h.hayRange c k m = true) (hl : l ≤ m) :
    h.hayRange c k l = true := by
  simp only [Hw.hayRange, Hw.commonsOk] at *
  by_cases z : (Hw.imagePlace k).1 = 0
  · simp only [z, if_true, Bool.and_eq_true, decide_eq_true_eq] at *
    exact ⟨hm.1, by omega⟩
  · simp only [z, if_false, Bool.and_eq_true, decide_eq_true_eq] at *
    exact ⟨hm.1, by omega⟩

end Sys2Proof.Machine
end

