-- ==== Sys2Proof/Laws/Run.lean ====
section
/-!
SUPPORT. Laws of the runners: what a command's outcome is, given the effect its meaning runs. -/

namespace Sys2Proof.Machine

namespace Hw

variable (h : Hw) (p : Power)

@[simp] theorem setPower_self : h.setPower h.power = h := rfl
@[simp] theorem setPower_power : (h.setPower p).power = p := rfl

end Hw

variable {i : Instr} {s : State} {f : Hw → Hw} {P : Hw → Prop}

/-- A command that runs `f` on the block completes with what `f` gives. -/
theorem completes_run (e : exec i s = s.run f) (p : P (f s.hw)) : Completes i s P := ⟨_, e, rfl, p⟩

theorem completes_keep (e : exec i s = s.runKeep f) (p : P ((f s.hw).setPower s.hw.power)) : Completes i s P :=
  ⟨_, e, rfl, p⟩

/-- A core-domain command completes with its effect while the core domain works. -/
theorem completes_live (e : exec i s = s.runLive f) (a : s.hw.act = true)
    (p : P ((f s.hw).setPower { s.hw.power with asleep := (f s.hw).power.asleep })) : Completes i s P :=
  ⟨_, e, rfl, by simpa [Hw.live, a] using p⟩

theorem completesAs_live {g : Hw} (e : exec i s = s.runLive f) (a : s.hw.act = true) (p : f s.hw = g) :
    CompletesAs i s g := by
  subst p
  unfold CompletesAs
  rw [e]
  simp [State.runLive, State.run, Hw.live, a]

/-- A core-domain command changes nothing while the core domain does not work. -/
theorem runLive_dormant (a : s.hw.act = false) : s.runLive f = .next s := by simp [State.runLive, State.run, Hw.live, a]

end Sys2Proof.Machine
end

