-- ==== Sys2Proof/Laws/Hob.lean ====
section
/-!
SUPPORT. Laws of the end of an instruction: what issuing, charging and retiring leave. -/

namespace Sys2Proof.Machine.Hw

@[simp] theorem hobOf_cottage (h : Hw) (c : Nat) : h.hobOf (.cottage c) = (h.ctx c).hob := (rfl)
@[simp] theorem hobOf_reeve (h : Hw) (r : Nat) : h.hobOf (.reeve r) = (h.reeve r).hob := (rfl)
theorem pcAfter_cottage (h : Hw) (c n : Nat) : h.pcAfter (.cottage c) n = (h.ctx c).hob.pc + BitVec.ofNat 32 n := (rfl)
theorem pcAfter_reeve (h : Hw) (r n : Nat) : h.pcAfter (.reeve r) n =
    ((h.reeve r).slot.bind (·.goesTo)).getD ((h.reeve r).hob.pc + BitVec.ofNat 32 n) := (rfl)

theorem Beside.refl (who : Ctx) (g : Hw) : Beside who g g := by
  cases who <;> simp [Beside]

theorem Beside.trans {who : Ctx} {g h k : Hw} (a : Beside who g h) (b : Beside who h k) : Beside who g k := by
  obtain ⟨a1, a2, a3, a4, a5, a6, a7, a8, a9, a⟩ := a
  obtain ⟨b1, b2, b3, b4, b5, b6, b7, b8, b9, b⟩ := b
  refine ⟨b1.trans a1, b2.trans a2, b3.trans a3, b4.trans a4, b5.trans a5, b6.trans a6, b7.trans a7, b8.trans a8,
    b9.trans a9, ?_⟩
  cases who with
  | cottage c =>
    exact ⟨fun k d => (b.1 k d).trans (a.1 k d), b.2.1.trans a.2.1, b.2.2.1.trans a.2.2.1,
      fun n i j p q r s => (b.2.2.2 n i j p q r s).trans (a.2.2.2 n i j p q r s)⟩
  | reeve r =>
    exact ⟨b.1.trans a.1, b.2.1.trans a.2.1, fun k d => (b.2.2.1 k d).trans (a.2.2.1 k d),
      fun n i j p q r => (b.2.2.2 n i j p q r).trans (a.2.2.2 n i j p q r)⟩

theorem Beside.setPower {who : Ctx} {g h : Hw} (p : Power) (b : Beside who g h) : Beside who g (h.setPower p) := by
  obtain ⟨b1, b2, b3, b4, b5, b6, b7, b8, b9, b⟩ := b
  refine ⟨b1, b2, b3, b4, b5, b6, b7, b8, b9, ?_⟩
  cases who with
  | cottage c => exact b
  | reeve r => exact b

theorem hobOf_setPower (h : Hw) (p : Power) (who : Ctx) : (h.setPower p).hobOf who = h.hobOf who := by
  cases who <;> rfl

theorem Retired.setPower {who : Ctx} {n : Nat} {x : Hob} {res : List PendingWrite} {g m h : Hw} (p : Power)
    (r : Retired who n x res g m h) : Retired who n x res g m (h.setPower p) :=
  ⟨(hobOf_setPower h p who).trans r.1, r.2.1.setPower p, by
    have := r.2.2
    cases who with
    | cottage c => trivial
    | reeve r => exact this⟩

theorem Went.setPower {who : Ctx} {n : Nat} {x : Hob} {res : List PendingWrite} {goal : Option Word} {g m h : Hw} (p : Power)
    (r : Went who n x res goal g m h) : Went who n x res goal g m (h.setPower p) := by
  obtain ⟨⟨d, i, k, e⟩, b, s⟩ := r
  refine ⟨⟨d, i, k, (hobOf_setPower h p who).trans e⟩, b.setPower p, ?_⟩
  cases who with
  | cottage c => trivial
  | reeve r => exact s

/-- The end of a cottage's instruction keeps the processor as well. -/
def Kept (c : Nat) (g h : Hw) : Prop :=
  (h.ctx c).hob = (g.ctx c).hob ∧ Beside (.cottage c) g h ∧ (h.ctx c).frame = (g.ctx c).frame ∧ (h.ctx c).vc = (g.ctx c).vc

theorem Kept.trans {c : Nat} {g h k : Hw} (a : Kept c g h) (b : Kept c h k) : Kept c g k :=
  ⟨b.1.trans a.1, a.2.1.trans b.2.1, b.2.2.1.trans a.2.2.1, b.2.2.2.trans a.2.2.2⟩
theorem Kept.refl (c : Nat) (g : Hw) : Kept c g g := ⟨rfl, .refl _ _, rfl, rfl⟩

theorem Kept.each {α : Type} (c : Nat) (f : Hw → α → Hw) (k : ∀ h x, Kept c h (f h x)) (l : List α) (h : Hw) :
    Kept c h (h.each l f) := by
  induction l generalizing h with
  | nil => exact .refl _ _
  | cons x l ih => exact (k h x).trans (ih (f h x))

theorem Beside.setCot (h : Hw) (c : Nat) (x : Cottage) : Beside (.cottage c) h (h.setCot c x) := by
  refine ⟨rfl, rfl, rfl, rfl, rfl, rfl, rfl, rfl, rfl, fun k d => ?_, rfl, rfl, fun _ _ _ _ _ _ _ => rfl⟩
  rw [cot_setCot, if_neg (Ne.symm d)]

theorem Kept.modCtx (h : Hw) (c : Nat) (f : Context → Context) (k : (f (h.ctx c)).hob = (h.ctx c).hob)
    (k1 : (f (h.ctx c)).frame = (h.ctx c).frame) (k2 : (f (h.ctx c)).vc = (h.ctx c).vc) :
    Kept c h (h.modCtx c f) := by
  refine ⟨?_, Beside.setCot _ _ _, ?_, ?_⟩ <;> simp [Hw.modCtx, k, k1, k2]

theorem Kept.modIo (h : Hw) (c : Nat) (f : CotIo → CotIo) : Kept c h (h.modIo c f) := by
  refine ⟨?_, Beside.setCot _ _ _, ?_, ?_⟩ <;> simp [Hw.modIo, Hw.ctx]

theorem Kept.setFld (h : Hw) (c : Nat) (f : Fld) (i j v : Nat)
    (d : f.reg = .COT_PERF ∨ f.reg = .COT_CNT_DHOLD ∨ f.reg = .COT_CNT_BWAIT ∨ f.reg = .HAY_STAT) :
    Kept c h (h.setFld f i j v) := by
  refine ⟨by simp, ⟨rfl, rfl, rfl, rfl, rfl, rfl, rfl, rfl, rfl, fun k _ => by simp, rfl, rfl, fun n _ _ p q r s => ?_⟩,
    by simp, by simp⟩
  refine reg_setFld_reg _ _ _ _ _ _ _ _ fun e => ?_
  rcases d with d | d | d | d <;> simp_all

theorem Kept.count (h : Hw) (c : Nat) (f : Fld) (i j n : Nat)
    (d : f.reg = .COT_PERF ∨ f.reg = .COT_CNT_DHOLD ∨ f.reg = .COT_CNT_BWAIT ∨ f.reg = .HAY_STAT) :
    Kept c h (h.count f i j n) := Kept.setFld _ _ _ _ _ _ d
theorem Kept.countWrap (h : Hw) (c : Nat) (f : Fld) (i j n : Nat)
    (d : f.reg = .COT_PERF ∨ f.reg = .COT_CNT_DHOLD ∨ f.reg = .COT_CNT_BWAIT ∨ f.reg = .HAY_STAT) :
    Kept c h (h.countWrap f i j n) := Kept.setFld _ _ _ _ _ _ d

theorem Kept.bump (h : Hw) (c : Nat) : Kept c h h.bump := by
  refine ⟨?_, ?_, ?_, ?_⟩ <;> simp [Beside]

theorem Kept.cibEvent (h : Hw) (c i : Nat) (st : Stamp) : Kept c h (h.cibEvent c i st) := Kept.modIo _ _ _

theorem Kept.beamMoved (h : Hw) (c : Nat) (a b : Stamp) : Kept c h (h.beamMoved c a b) := by
  unfold Hw.beamMoved
  dsimp only
  refine ((Kept.each c _ (fun h e => Kept.cibEvent _ _ _ _) _ h).trans (Kept.each c _ (fun h e => ?_) _ _)).trans
    (Kept.modIo _ _ _)
  unfold Hw.lateEvent
  split
  · exact Kept.cibEvent _ _ _ _
  · exact .refl _ _

theorem Kept.picLevel (h : Hw) (c n i : Nat) (b : Bool) : Kept c h (h.picLevel n i b) := by
  refine ⟨by simp, ?_, by simp, by simp⟩
  simp only [Beside, picLevel_mem, picLevel_memPoison, picLevel_gran, picLevel_fns, picLevel_ports, picLevel_lanes,
    picLevel_edp, picLevel_tdm, picLevel_out, picLevel_reeves, picLevel_timers, true_and]
  exact ⟨fun k _ => by simp, fun n i j _ _ _ _ => reg_picLevel _ _ _ _ _ _ _⟩

theorem Kept.modParish (h : Hw) (c n : Nat) (f : Parish → Parish) : Kept c h (h.modParish n f) :=
  ⟨rfl, ⟨rfl, rfl, rfl, rfl, rfl, rfl, rfl, rfl, rfl, fun _ _ => rfl, rfl, rfl, fun _ _ _ _ _ _ _ => rfl⟩, rfl, rfl⟩

theorem Kept.hayArrives (h : Hw) (c : Nat) : Kept c h (h.hayArrives c) := by
  unfold Hw.hayArrives
  split
  · split
    · exact Kept.modParish _ _ _ _
    · exact .refl _ _
  · exact .refl _ _

theorem Kept.hayTake (h : Hw) (c : Nat) : Kept c h (h.hayTake c) := by
  unfold Hw.hayTake
  split
  · exact ((Kept.setFld _ _ _ _ _ _ (by simp)).trans (Kept.setFld _ _ _ _ _ _ (by simp))).trans (Kept.hayArrives _ _)
  · exact .refl _ _

theorem Kept.setSt (h : Hw) (c : Nat) (st : CotState) : Kept c h (h.setSt c st) := by
  unfold Hw.setSt
  dsimp only
  split
  · exact ((Kept.modCtx _ _ _ rfl rfl rfl).trans (Kept.picLevel _ _ _ _ _)).trans (Kept.hayTake _ _)
  · exact (Kept.modCtx _ _ _ rfl rfl rfl).trans (Kept.picLevel _ _ _ _ _)

theorem Kept.toReady (h : Hw) (c : Nat) : Kept c h (h.toReady c) := by
  unfold Hw.toReady
  dsimp only
  split
  · exact ((Kept.modCtx _ _ _ rfl rfl rfl).trans (Kept.modCtx _ _ _ rfl rfl rfl)).trans (Kept.setSt _ _ _)
  · exact (Kept.modCtx _ _ _ rfl rfl rfl).trans (Kept.setSt _ _ _)

theorem Kept.toThold (h : Hw) (c : Nat) : Kept c h (h.toThold c) := by
  unfold Hw.toThold
  dsimp only
  split
  · exact ((Kept.modCtx _ _ _ rfl rfl rfl).trans (Kept.modCtx _ _ _ rfl rfl rfl)).trans (Kept.setSt _ _ _)
  · exact (Kept.modCtx _ _ _ rfl rfl rfl).trans (Kept.setSt _ _ _)

theorem Kept.waitIn (h : Hw) (c : Nat) (st : CotState) (w : WaitFor) : Kept c h (h.waitIn c st w) :=
  (Kept.modCtx _ _ _ rfl rfl rfl).trans (Kept.setSt _ _ _)

theorem Kept.setStart (h : Hw) (c : Nat) (t : StartStage) : Kept c h (h.setStart c t) := Kept.modCtx _ _ _ rfl rfl rfl

theorem Kept.collRaise (h : Hw) (c : Nat) : Kept c h (h.collRaise c) := by
  unfold Hw.collRaise
  dsimp only
  generalize (if (h.ctx c).frame ≤ (h.cot c).loom.frame then (h.cot c).loom.collPrev
    else decide ((h.cot c).loom.coll ≠ 0)) = b
  cases b
  · exact .refl _ _
  · exact Kept.cibEvent _ _ _ _

theorem Kept.frameGo (h : Hw) (c : Nat) : Kept c h (h.frameGo c) := by
  unfold Hw.frameGo
  split
  · dsimp only
    split
    · exact ((Kept.count _ _ _ _ _ _ (by simp)).trans (Kept.collRaise _ _)).trans (Kept.setStart _ _ _)
    · exact (Kept.count _ _ _ _ _ _ (by simp)).trans (Kept.waitIn _ _ _ _)
  · exact Kept.setStart _ _ _

theorem Kept.bellWait (h : Hw) (c : Nat) : Kept c h (h.bellWait c) := by
  unfold Hw.bellWait
  split
  · exact (Kept.setStart _ _ _).trans (Kept.frameGo _ _)
  · split
    · exact (Kept.setStart _ _ _).trans (Kept.setSt _ _ _)
    · exact Kept.toThold _ _

theorem Kept.frameStart (h : Hw) (c : Nat) : Kept c h (h.frameStart c) := by
  unfold Hw.frameStart
  dsimp only
  split
  · exact .refl _ _
  · split
    · exact .refl _ _
    · split
      · exact (Kept.setStart _ _ _).trans (Kept.setSt _ _ _)
      · split
        · exact (Kept.count _ _ _ _ _ _ (by simp)).trans (Kept.waitIn _ _ _ _)
        · exact Kept.bellWait _ _
    · exact Kept.bellWait _ _
    · exact Kept.frameGo _ _

/-- The beam n virtual cycles after a stamp (R17, R18). -/
def beamAfter (k : ClassRec) (a : Stamp) (n : Nat) : Stamp :=
  if frameLen k ≤ a.vc + n then ⟨a.frame + 1, a.vc + n - frameLen k⟩ else ⟨a.frame, a.vc + n⟩

theorem beamAfter_in (k : ClassRec) (a : Stamp) (n : Nat) (l : a.vc + n < k.vcpl * k.tl) : beamAfter k a n = ⟨a.frame, a.vc + n⟩ := by
  unfold beamAfter frameLen
  rw [if_neg (by omega)]
theorem beamAfter_over (k : ClassRec) (a : Stamp) (n : Nat) (l : k.vcpl * k.tl ≤ a.vc + n) :
    beamAfter k a n = ⟨a.frame + 1, a.vc + n - k.vcpl * k.tl⟩ := by
  unfold beamAfter frameLen
  rw [if_pos l]

/-- Charging virtual cycles keeps the processor and everything beside the cottage, and moves the beam. -/
theorem charge_says (h : Hw) (c n : Nat) : ((h.charge c n).ctx c).hob = (h.ctx c).hob ∧ Beside (.cottage c) h (h.charge c n) ∧
    ((h.charge c n).ctx c).frame = (beamAfter (h.cls c) (h.stamp c) n).frame ∧
    ((h.charge c n).ctx c).vc = (beamAfter (h.cls c) (h.stamp c) n).vc := by
  have e : h.charge c n =
      (let b := beamAfter (h.cls c) (h.stamp c) n
       let k := (h.modCtx c fun x => { x with frame := b.frame, vc := b.vc }).beamMoved c (h.stamp c) b
       if b.frame ≠ (h.stamp c).frame then (k.setStart c .arrived).frameStart c else k) := rfl
  rw [e]
  generalize beamAfter (h.cls c) (h.stamp c) n = b
  dsimp only
  have m : ((h.modCtx c fun x => { x with frame := b.frame, vc := b.vc }).ctx c).hob = (h.ctx c).hob ∧
      Beside (.cottage c) h (h.modCtx c fun x => { x with frame := b.frame, vc := b.vc }) ∧
      ((h.modCtx c fun x => { x with frame := b.frame, vc := b.vc }).ctx c).frame = b.frame ∧
      ((h.modCtx c fun x => { x with frame := b.frame, vc := b.vc }).ctx c).vc = b.vc :=
    ⟨by simp [Hw.modCtx], Beside.setCot _ _ _, by simp [Hw.modCtx], by simp [Hw.modCtx]⟩
  have t : ∀ k, Kept c (h.modCtx c fun x => { x with frame := b.frame, vc := b.vc }) k → (k.ctx c).hob = (h.ctx c).hob ∧
      Beside (.cottage c) h k ∧ (k.ctx c).frame = b.frame ∧ (k.ctx c).vc = b.vc := fun k q =>
    ⟨q.1.trans m.1, m.2.1.trans q.2.1, q.2.2.1.trans m.2.2.1, q.2.2.2.trans m.2.2.2⟩
  split
  · exact t _ ((Kept.beamMoved _ _ _ _).trans ((Kept.setStart _ _ _).trans (Kept.frameStart _ _)))
  · exact t _ (Kept.beamMoved _ _ _ _)

theorem Kept.mispredicted (h : Hw) (c : Nat) : Kept c h (h.mispredicted (.cottage c)) := by
  unfold Hw.mispredicted
  dsimp only [Hw.draw]
  exact (((((Kept.bump h c).trans (Kept.bump _ c)).trans (Kept.countWrap _ _ _ _ _ _ (by simp))).trans
    (Kept.countWrap _ _ _ _ _ _ (by simp))).trans (Kept.countWrap _ _ _ _ _ _ (by simp))).trans
    (Kept.countWrap _ _ _ _ _ _ (by simp))

/-! ### A cottage's instruction -/

theorem Kept.resolved (h : Hw) (c : Nat) (x : Hob) (pc : Word) (p : Predicted) (goal : Option Word) :
    Kept c h (h.resolved (.cottage c) x pc p goal).2 := by
  unfold Hw.resolved
  dsimp only
  have k : ∀ w : Bool, Kept c h (if w = true then h.mispredicted (.cottage c) else h) := fun w => by
    split
    · exact Kept.mispredicted _ _
    · exact .refl _ _
  split
  · exact .refl _ _
  · exact k _

/-- Resolving a transfer changes the prediction tables and the history of the processor, nothing else of it. -/
theorem resolved_hob (h : Hw) (who : Ctx) (x : Hob) (pc : Word) (p : Predicted) (goal : Option Word) :
    ∃ d i n, (h.resolved who x pc p goal).1 = { x with dirTable := d, indTable := i, hist := n } := by
  unfold Hw.resolved
  dsimp only
  split
  · exact ⟨_, _, _, rfl⟩
  · cases p <;> cases goal <;> exact ⟨_, _, _, rfl⟩

theorem cotEnds_says (h : Hw) (c : Nat) (st : Stamp) (x : Hob) (n : Nat) :
    ((h.cotEnds c st x n).ctx c).hob = x ∧ Beside (.cottage c) h (h.cotEnds c st x n) ∧
    ((h.cotEnds c st x n).ctx c).frame = (beamAfter (h.cls c) (h.stamp c) n).frame ∧
    ((h.cotEnds c st x n).ctx c).vc = (beamAfter (h.cls c) (h.stamp c) n).vc := by
  have k := Kept.countWrap (h.modCtx c fun y => { y with hob := x, issued := some st, landed := false }) c F.COT_PERF_COUNT c 0 1 (by simp)
  have a1 : ((h.modCtx c fun y => { y with hob := x, issued := some st, landed := false }).ctx c).hob = x := by simp [Hw.modCtx]
  have a2 : Beside (.cottage c) h (h.modCtx c fun y => { y with hob := x, issued := some st, landed := false }) := Beside.setCot _ _ _
  have s : ((h.modCtx c fun y => { y with hob := x, issued := some st, landed := false }).countWrap F.COT_PERF_COUNT c 0 1).stamp c = h.stamp c := by
    simp [stamp, Hw.modCtx, countWrap]
  have l : ((h.modCtx c fun y => { y with hob := x, issued := some st, landed := false }).countWrap F.COT_PERF_COUNT c 0 1).cls c = h.cls c := by
    exact cls_congr h _ (by simp [Hw.modCtx, countWrap]) c
  have e : h.cotEnds c st x n =
      ((h.modCtx c fun y => { y with hob := x, issued := some st, landed := false }).countWrap F.COT_PERF_COUNT c 0 1).charge c n := rfl
  rw [e]
  generalize (h.modCtx c fun y => { y with hob := x, issued := some st, landed := false }).countWrap F.COT_PERF_COUNT c 0 1 = g at *
  generalize (h.modCtx c fun y => { y with hob := x, issued := some st, landed := false }) = g0 at *
  have b := charge_says g c n
  rw [s, l] at b
  exact ⟨b.1.trans (k.1.trans a1), (a2.trans k.2.1).trans b.2.1, b.2.2⟩

/-- The virtual cycles charged to a completed instruction (R17, R19, R121). -/
def costOf (h : Hw) (c : Nat) (o : Op) (k : Nat) (cy : Option Nat) : Nat :=
  cy.getD ((h.cls c).timing.getD k 0 + (if o.limm then (h.cls c).timing.getD 2 0 else 0))

theorem cotCompletes_next (c : Nat) (o : Op) (h : Hw) (x : Hob) (res : List PendingWrite) (p : Predicted) (k : Nat)
    (cy : Option Nat) : cotCompletes c o ⟨h, x, res, .next, p, k, cy⟩ =
      h.cotEnds c (h.stamp c) { x with pc := x.pc + BitVec.ofNat 32 o.len, queue := x.queue ++ res } (h.costOf c o k cy) := rfl

theorem cotCompletes_transfer (c : Nat) (o : Op) (h : Hw) (x : Hob) (res : List PendingWrite) (goal : Option Word) (b : Bool)
    (p : Predicted) (k : Nat) (cy : Option Nat) : ∃ n, cotCompletes c o ⟨h, x, res, .transfer goal b, p, k, cy⟩ =
      (h.resolved (.cottage c) x x.pc p goal).2.cotEnds c (h.stamp c) { (h.resolved (.cottage c) x x.pc p goal).1 with
        pc := goal.getD (x.pc + BitVec.ofNat 32 o.len),
        queue := (h.resolved (.cottage c) x x.pc p goal).1.queue ++ res } n := ⟨_, rfl⟩

theorem cotCompletes_back (c : Nat) (o : Op) (h : Hw) (x : Hob) (res : List PendingWrite) (t : Word)
    (p : Predicted) (k : Nat) (cy : Option Nat) : ∃ n, cotCompletes c o ⟨h, x, res, .back t, p, k, cy⟩ =
      (h.resolved (.cottage c) x x.pc p (some t)).2.cotEnds c (h.stamp c) { (h.resolved (.cottage c) x x.pc p (some t)).1 with
        pc := t, queue := (h.resolved (.cottage c) x x.pc p (some t)).1.queue ++ res } n := ⟨_, rfl⟩

theorem landOne_pc (x : Hob) (w : PendingWrite) : (Hob.landOne x w).pc = x.pc := by
  unfold Hob.landOne
  dsimp only
  split <;> rfl
theorem issue_pc (x : Hob) : x.issue.pc = x.pc := by
  have k : ∀ (l : List PendingWrite) (y : Hob), (l.foldl Hob.landOne y).pc = y.pc := fun l => by
    induction l with
    | nil => exact fun _ => rfl
    | cons w l ih => exact fun y => (ih _).trans (landOne_pc _ _)
  exact k _ _

theorem issued_pc (h : Hw) (who : Ctx) : (h.issued who).pc = (h.hobOf who).pc := by
  cases who with
  | cottage c => simp only [issued, hobOf_cottage]; split <;> simp only [issue_pc]
  | reeve r => exact issue_pc _
theorem hobOf_issued (h : Hw) (c : Nat) : h.issued (.cottage c) = (if !(h.ctx c).landed then (h.ctx c).hob.issue else (h.ctx c).hob) := rfl

/-- An instruction that a cottage issues executes at its beam. -/
theorem cotIssues_now (h : Hw) (c : Nat) (o : Op) (a : h.Issues (.cottage c) o.len) : h.cotIssues c o = h.cotExecutes c o !(h.ctx c).landed := by
  obtain ⟨i, e, k, l, v, f⟩ := a
  have s1 : h.carterSettle c (h.stamp c) = h := by simp [carterSettle, k]
  have s2 : h.chiselSettle c (h.stamp c) = h := by simp [chiselSettle, l]
  have t : h.transferOwed c = false := by simp [transferOwed, k, l]
  unfold cotIssues
  rw [i, e]
  simp only [Bool.not_true, Bool.or_self, Bool.false_eq_true, if_false, s1, s2, t, f]

/-- An instruction of a cottage that transfers no control. -/
theorem cottage_retires (h m : Hw) (c : Nat) (o : Op) (res : List PendingWrite) (k : Nat) (cy : Option Nat)
    (a : h.Issues (.cottage c) o.len) (b : o.bad = 0) (p : Predicted)
    (x : Hob) (xp : x.pc = (h.ctx c).hob.pc)
    (e : o.body h (h.issued (.cottage c)) ((h.hobOf (.cottage c)).pc + BitVec.ofNat 32 o.len) =
      .ok ⟨m, x, res, .next, p, k, cy⟩) :
    Retired (.cottage c) o.len x res h m (h.issues (.cottage c) o) ∧
    ((h.issues (.cottage c) o).ctx c).frame = (beamAfter (m.cls c) (m.stamp c) (m.costOf c o k cy)).frame ∧
    ((h.issues (.cottage c) o).ctx c).vc = (beamAfter (m.cls c) (m.stamp c) (m.costOf c o k cy)).vc := by
  have i : h.issues (.cottage c) o = h.cotIssues c o := rfl
  rw [i]
  rw [cotIssues_now _ _ _ a]
  unfold cotExecutes
  simp only [hobOf, Hw.issued] at e
  simp only [b, ne_eq, not_true, if_false, e]
  rw [cotCompletes_next]
  have z := cotEnds_says m c (m.stamp c) { x with pc := x.pc + BitVec.ofNat 32 o.len, queue := x.queue ++ res } (m.costOf c o k cy)
  refine ⟨⟨?_, z.2.1, trivial⟩, z.2.2⟩
  rw [hobOf_cottage, z.1, pcAfter_cottage, xp]

/-- An instruction of a cottage that transfers control. -/
theorem cottage_went (h m : Hw) (c : Nat) (o : Op) (res : List PendingWrite) (k : Nat) (cy : Option Nat)
    (a : h.Issues (.cottage c) o.len) (b : o.bad = 0) (p : Predicted) (x : Hob) (xp : x.pc = (h.ctx c).hob.pc)
    (goal : Option Word) (j : Jump) (hj : (∃ n, j = .transfer goal n) ∨ ∃ t, goal = some t ∧ j = .back t)
    (e : o.body h (h.issued (.cottage c)) ((h.hobOf (.cottage c)).pc + BitVec.ofNat 32 o.len) =
      .ok ⟨m, x, res, j, p, k, cy⟩) :
    Went (.cottage c) o.len x res goal h m (h.issues (.cottage c) o) := by
  have s : ∃ n, cotCompletes c o ⟨m, x, res, j, p, k, cy⟩ =
      (m.resolved (.cottage c) x x.pc p goal).2.cotEnds c (m.stamp c) { (m.resolved (.cottage c) x x.pc p goal).1 with
        pc := goal.getD (x.pc + BitVec.ofNat 32 o.len),
        queue := (m.resolved (.cottage c) x x.pc p goal).1.queue ++ res } n := by
    obtain ⟨n, rfl⟩ | ⟨t, rfl, rfl⟩ := hj
    · exact cotCompletes_transfer _ _ _ _ _ _ _ _ _ _
    · exact cotCompletes_back _ _ _ _ _ _ _ _ _
  obtain ⟨n, q⟩ := s
  obtain ⟨d, i, l, rx⟩ := resolved_hob m (.cottage c) x x.pc p goal
  have r2 := (Kept.resolved m c x x.pc p goal).2.1
  show Went _ _ _ _ _ _ _ (h.cotIssues c o)
  rw [cotIssues_now _ _ _ a]
  unfold cotExecutes
  simp only [hobOf, Hw.issued] at e
  simp only [b, ne_eq, not_true, if_false, e]
  rw [q]
  generalize (m.resolved (.cottage c) x x.pc p goal).2 = m' at *
  rw [rx]
  have z := cotEnds_says m' c (m.stamp c) { x with
    dirTable := d, indTable := i, hist := l, pc := goal.getD (x.pc + BitVec.ofNat 32 o.len), queue := x.queue ++ res } n
  refine ⟨⟨d, i, l, ?_⟩, r2.trans z.2.1, trivial⟩
  rw [hobOf_cottage, z.1, hobOf_cottage, xp]
  rfl

/-! ### A Reeve core's instruction -/

theorem Beside.setFld_rve (h : Hw) (r : Nat) (f : Fld) (i j v : Nat)
    (d : f.reg = .RVE_PERF ∨ f.reg = .RVE_STAT ∨ f.reg = .TMR_STAT) : Beside (.reeve r) h (h.setFld f i j v) := by
  refine ⟨rfl, rfl, rfl, rfl, rfl, rfl, rfl, rfl, rfl, rfl, rfl, fun k _ => by simp, fun n _ _ p q s => ?_⟩
  refine reg_setFld_reg _ _ _ _ _ _ _ _ fun e => ?_
  rcases d with d | d | d <;> simp_all

theorem tmrModes_says (h : Hw) (r : Nat) : Beside (.reeve r) h h.tmrModes ∧ h.tmrModes.reeves = h.reeves := by
  unfold tmrModes
  generalize List.range 16 = l
  induction l generalizing h with
  | nil => exact ⟨.refl _ _, rfl⟩
  | cons u l ih =>
    have s : Beside (.reeve r) h (if h.flag F.TMR_STAT_LF 0 u = h.tmrSlow u then h
        else (h.setFld F.TMR_STAT_LF 0 u (b2n (h.tmrSlow u))).setTmr u { h.tmr u with frac := 0 }) ∧
        (if h.flag F.TMR_STAT_LF 0 u = h.tmrSlow u then h
          else (h.setFld F.TMR_STAT_LF 0 u (b2n (h.tmrSlow u))).setTmr u { h.tmr u with frac := 0 }).reeves = h.reeves := by
      split
      · exact ⟨.refl _ _, rfl⟩
      · exact ⟨(Beside.setFld_rve h r F.TMR_STAT_LF 0 u _ (by simp)).trans
          ⟨rfl, rfl, rfl, rfl, rfl, rfl, rfl, rfl, rfl, rfl, rfl, fun _ _ => rfl, fun _ _ _ _ _ _ => rfl⟩, rfl⟩
    exact ⟨s.1.trans (ih _).1, (ih _).2.trans s.2⟩

theorem rveBoundary_says (h : Hw) (r : Nat) : Beside (.reeve r) h (h.rveBoundary r) ∧ (h.rveBoundary r).reeves = h.reeves := by
  unfold rveBoundary
  exact ⟨(Beside.setFld_rve _ _ _ _ _ _ (by simp)).trans (tmrModes_says _ r).1, (tmrModes_says _ r).2⟩

theorem Beside.setReeve (h : Hw) (r : Nat) (x : Reeve) : Beside (.reeve r) h (h.setReeve r x) := by
  refine ⟨rfl, rfl, rfl, rfl, rfl, rfl, rfl, rfl, rfl, rfl, rfl, fun k d => ?_, fun _ _ _ _ _ _ => rfl⟩
  rw [reeve_setReeve, if_neg (Ne.symm d)]

theorem reeveEnds_says (h : Hw) (r : Nat) (v : Reeve) : (h.reeveEnds r v).reeve r = v ∧ Beside (.reeve r) h (h.reeveEnds r v) := by
  refine ⟨?_, ((Beside.setReeve h r v).trans (Beside.setFld_rve _ _ _ _ _ _ (by simp))).trans (rveBoundary_says _ r).1⟩
  show NTable.get (Reeve.reset r) (h.reeveEnds r v).reeves r = v
  unfold reeveEnds
  rw [(rveBoundary_says _ r).2]
  show ((h.setReeve r v).countWrap F.RVE_PERF_CORRECT 0 r).reeve r = v
  simp [countWrap]

/-- An instruction that a core issues executes. -/
theorem reeveIssues_now (h : Hw) (r : Nat) (o : Op) (a : h.Issues (.reeve r) o.len) : h.reeveIssues r o = h.reeveExecutes r o := by
  obtain ⟨a1, a2, a3, a4⟩ := a
  unfold reeveIssues
  rw [a1, a2, a3, a4]
  rfl

theorem reeveExecutes_next (h m : Hw) (r : Nat) (o : Op) (x : Hob) (res : List PendingWrite) (p : Predicted) (k : Nat)
    (cy : Option Nat) (b : o.bad = 0) (same : (m.reeve r).hob = (h.reeve r).hob)
    (e : o.body h (h.reeve r).hob.issue ((h.reeve r).hob.pc + BitVec.ofNat 32 o.len) = .ok ⟨m, x, res, .next, p, k, cy⟩) :
    ∃ v : Reeve, v.hob = { x with
        pc := (((h.reeve r).slot.bind (·.goesTo)).getD ((h.reeve r).hob.pc + BitVec.ofNat 32 o.len)), queue := x.queue ++ res } ∧
      (v.slot = none ∧ v.waiting = (m.reeve r).waiting ∧ v.bmode = match (h.reeve r).slot with
        | some d => if d.goesTo.isSome then d.bmode else (h.reeve r).bmode
        | none => (h.reeve r).bmode) ∧
      h.reeveExecutes r o = m.reeveEnds r v := by
  have g : m.reeveGoes r (h.reeve r) ((h.reeve r).hob.pc + BitVec.ofNat 32 o.len) .next =
      .ok (((h.reeve r).slot.bind (·.goesTo)).getD ((h.reeve r).hob.pc + BitVec.ofNat 32 o.len),
        (match (h.reeve r).slot with
        | some d => if d.goesTo.isSome then d.bmode else (h.reeve r).bmode
        | none => (h.reeve r).bmode), none) := by
    unfold reeveGoes
    cases sl : (h.reeve r).slot <;> rfl
  have c : h.reeveExecutes r o = h.reeveCompletes r o ⟨m, x, res, .next, p, k, cy⟩ := by
    unfold reeveExecutes
    dsimp only
    rw [if_neg (by simp [b]), e]
  rw [c]
  unfold reeveCompletes
  dsimp only
  rw [if_neg (by simp [same]), g]
  exact ⟨⟨{ x with
      pc := (((h.reeve r).slot.bind (·.goesTo)).getD ((h.reeve r).hob.pc + BitVec.ofNat 32 o.len))
      queue := x.queue ++ res },
    (match (h.reeve r).slot with
        | some d => if d.goesTo.isSome then d.bmode else (h.reeve r).bmode
        | none => (h.reeve r).bmode), none, (m.reeve r).waiting⟩, rfl, ⟨rfl, rfl, rfl⟩, rfl⟩

/-- An instruction of a core that transfers no control. -/
theorem reeve_retires (h m : Hw) (r : Nat) (o : Op) (res : List PendingWrite) (k : Nat) (cy : Option Nat)
    (a : h.Issues (.reeve r) o.len) (b : o.bad = 0) (p : Predicted) (same : (m.reeve r).hob = (h.reeve r).hob)
    (x : Hob)
    (e : o.body h (h.issued (.reeve r)) ((h.hobOf (.reeve r)).pc + BitVec.ofNat 32 o.len) =
      .ok ⟨m, x, res, .next, p, k, cy⟩) :
    Retired (.reeve r) o.len x res h m (h.issues (.reeve r) o) := by
  show Retired _ _ _ _ _ _ (h.reeveIssues r o)
  rw [reeveIssues_now _ _ _ a]
  obtain ⟨v, vh, vs, ve⟩ := reeveExecutes_next h m r o x res p k cy b same e
  rw [ve]
  have z := reeveEnds_says m r v
  refine ⟨?_, z.2, ?_⟩
  · rw [hobOf_reeve, z.1, vh, pcAfter_reeve]
  · dsimp only
    rw [z.1]
    exact vs

theorem Beside.mispredicted_rve (h : Hw) (r : Nat) : Beside (.reeve r) h (h.mispredicted (.reeve r)) ∧
    (h.mispredicted (.reeve r)).reeves = h.reeves := by
  unfold Hw.mispredicted
  dsimp only [Hw.draw]
  have k : Beside (.reeve r) h h.bump := by simp [Beside]
  exact ⟨k.trans (Beside.setFld_rve _ _ _ _ _ _ (by simp)), rfl⟩

theorem resolved_rve (h : Hw) (r : Nat) (x : Hob) (pc : Word) (p : Predicted) (goal : Option Word) :
    Beside (.reeve r) h (h.resolved (.reeve r) x pc p goal).2 ∧ (h.resolved (.reeve r) x pc p goal).2.reeves = h.reeves := by
  unfold Hw.resolved
  dsimp only
  have k : ∀ w : Bool, Beside (.reeve r) h (if w = true then h.mispredicted (.reeve r) else h) ∧
      (if w = true then h.mispredicted (.reeve r) else h).reeves = h.reeves := fun w => by
    split
    · exact Beside.mispredicted_rve _ _
    · exact ⟨.refl _ _, rfl⟩
  split
  · exact ⟨.refl _ _, rfl⟩
  · exact k _

/-- Where a core goes after a transfer that annuls nothing. -/
theorem reeveGoes_transfer (m : Hw) (r : Nat) (v : Reeve) (next : Word) (goal : Option Word) (j : Jump) (sl : v.slot = none)
    (hj : (∃ n, j = .transfer goal n ∧ (n && goal.isNone) = false) ∨ ∃ t, goal = some t ∧ j = .back t ∧ v.bmode = false) :
    m.reeveGoes r v next j = .ok ((if v.bmode then next else goal.getD next),
      (if v.bmode then true else goal.isSome && m.flag F.RVE_CTL_BMODE 0 r),
      (if v.bmode then some ⟨v.hob.pc, goal, m.flag F.RVE_CTL_BMODE 0 r⟩ else none)) := by
  unfold reeveGoes
  rw [sl]
  obtain ⟨n, rfl, hn⟩ | ⟨t, rfl, rfl, vb⟩ := hj
  · cases vb : v.bmode
    · cases goal <;> simp
    · simp [hn]
  · simp [vb]

/-- What a core that completes a transfer leaves. -/
theorem reeve_leaves (m : Hw) (r : Nat) (v : Reeve) (f : Fin) (goal : Option Word) (pc : Word) (mode : Bool)
    (slot : Option DelaySlot) (hj : (∃ n, f.jump = .transfer goal n) ∨ ∃ t, goal = some t ∧ f.jump = .back t) :
    ∃ d i k, ((m.reeveLeaves r v f pc mode slot).reeve r) = { m.reeve r with
      hob := { f.hob with pc := pc, queue := f.hob.queue ++ f.res, dirTable := d, indTable := i, hist := k },
      bmode := mode, slot := slot } ∧ Beside (.reeve r) m (m.reeveLeaves r v f pc mode slot) := by
  have e : m.reeveLeaves r v f pc mode slot = (m.resolved (.reeve r) f.hob v.hob.pc f.pred goal).2.reeveEnds r
      { (m.resolved (.reeve r) f.hob v.hob.pc f.pred goal).2.reeve r with
        hob := { (m.resolved (.reeve r) f.hob v.hob.pc f.pred goal).1 with
          pc := pc, queue := (m.resolved (.reeve r) f.hob v.hob.pc f.pred goal).1.queue ++ f.res }, bmode := mode, slot := slot } := by
    unfold reeveLeaves
    obtain ⟨n, q⟩ | ⟨t, rfl, q⟩ := hj <;> rw [q] <;> rfl
  obtain ⟨d, i, l, rx⟩ := resolved_hob m (.reeve r) f.hob v.hob.pc f.pred goal
  have r2 := resolved_rve m r f.hob v.hob.pc f.pred goal
  rw [e, rx]
  generalize (m.resolved (.reeve r) f.hob v.hob.pc f.pred goal).2 = m' at *
  have rr : m'.reeve r = m.reeve r := by simp only [reeve, r2.2]
  rw [rr]
  have z := reeveEnds_says m' r { m.reeve r with
    hob := { f.hob with dirTable := d, indTable := i, hist := l, pc := pc, queue := f.hob.queue ++ f.res }, bmode := mode, slot := slot }
  exact ⟨d, i, l, z.1, r2.1.trans z.2⟩

/-- An instruction of a core that transfers control, annulling nothing. -/
theorem reeve_went (h m : Hw) (r : Nat) (o : Op) (res : List PendingWrite) (k : Nat) (cy : Option Nat)
    (a : h.Issues (.reeve r) o.len) (b : o.bad = 0) (p : Predicted) (same : (m.reeve r).hob = (h.reeve r).hob) (x : Hob)
    (sl : (h.reeve r).slot = none) (goal : Option Word) (j : Jump)
    (hj : (∃ n, j = .transfer goal n ∧ (n && goal.isNone) = false) ∨ ∃ t, goal = some t ∧ j = .back t ∧ (h.reeve r).bmode = false)
    (e : o.body h (h.issued (.reeve r)) ((h.hobOf (.reeve r)).pc + BitVec.ofNat 32 o.len) = .ok ⟨m, x, res, j, p, k, cy⟩) :
    Went (.reeve r) o.len x res goal h m (h.issues (.reeve r) o) := by
  show Went _ _ _ _ _ _ _ (h.reeveIssues r o)
  rw [reeveIssues_now _ _ _ a]
  have c : h.reeveExecutes r o = h.reeveCompletes r o ⟨m, x, res, j, p, k, cy⟩ := by
    unfold reeveExecutes
    dsimp only
    simp only [Hw.issued, hobOf_reeve] at e
    rw [if_neg (by simp [b]), e]
  have g := reeveGoes_transfer m r (h.reeve r) ((h.reeve r).hob.pc + BitVec.ofNat 32 o.len) goal j sl hj
  rw [c]
  unfold reeveCompletes
  dsimp only
  rw [if_neg (by simp [same]), g]
  dsimp only
  obtain ⟨d, i, l, z1, z2⟩ := reeve_leaves m r (h.reeve r) ⟨m, x, res, j, p, k, cy⟩ goal
    (if (h.reeve r).bmode = true then (h.reeve r).hob.pc + BitVec.ofNat 32 o.len
      else goal.getD ((h.reeve r).hob.pc + BitVec.ofNat 32 o.len))
    (if (h.reeve r).bmode = true then true else goal.isSome && m.flag F.RVE_CTL_BMODE 0 r)
    (if (h.reeve r).bmode = true then some ⟨(h.reeve r).hob.pc, goal, m.flag F.RVE_CTL_BMODE 0 r⟩ else none)
    (hj.imp (fun ⟨n, q, _⟩ => ⟨n, q⟩) fun ⟨t, q, s, _⟩ => ⟨t, q, s⟩)
  refine ⟨⟨d, i, l, ?_⟩, z2, ?_⟩
  · rw [hobOf_reeve, z1, hobOf_reeve]
  · dsimp only
    rw [z1]
    exact ⟨rfl, rfl⟩

/-- An instruction of any context that transfers no control. -/
theorem retires (h m : Hw) (who : Ctx) (o : Op) (x : Hob) (res : List PendingWrite) (k : Nat) (cy : Option Nat) (p : Predicted)
    (a : h.Issues who o.len) (b : o.bad = 0) (same : ∀ r, who = .reeve r → (m.reeve r).hob = (h.reeve r).hob)
    (xp : x.pc = (h.hobOf who).pc)
    (e : o.body h (h.issued who) ((h.hobOf who).pc + BitVec.ofNat 32 o.len) = .ok ⟨m, x, res, .next, p, k, cy⟩) :
    Retired who o.len x res h m (h.issues who o) := by
  cases who with
  | cottage c => exact (cottage_retires h m c o res k cy a b p x xp e).1
  | reeve r => exact reeve_retires h m r o res k cy a b p (same r rfl) x e

/-- An instruction of any context that transfers control and annuls nothing. -/
theorem went (h m : Hw) (who : Ctx) (o : Op) (x : Hob) (res : List PendingWrite) (k : Nat) (cy : Option Nat) (p : Predicted)
    (goal : Option Word) (n : Bool) (hn : (n && goal.isNone) = false) (sl : h.inSlot who = false)
    (a : h.Issues who o.len) (b : o.bad = 0) (same : ∀ r, who = .reeve r → (m.reeve r).hob = (h.reeve r).hob)
    (xp : x.pc = (h.hobOf who).pc)
    (e : o.body h (h.issued who) ((h.hobOf who).pc + BitVec.ofNat 32 o.len) = .ok ⟨m, x, res, .transfer goal n, p, k, cy⟩) :
    Went who o.len x res goal h m (h.issues who o) := by
  cases who with
  | cottage c => exact cottage_went h m c o res k cy a b p x xp goal _ (.inl ⟨n, rfl⟩) e
  | reeve r =>
    have s : (h.reeve r).slot = none := by simpa [inSlot] using sl
    exact reeve_went h m r o res k cy a b p (same r rfl) x s goal _ (.inl ⟨n, rfl, hn⟩) e

theorem Returned.setPower {who : Ctx} {x : Hob} {t : Word} {m h : Hw} (p : Power) (r : Returned who x t m h) :
    Returned who x t m (h.setPower p) := by
  obtain ⟨⟨d, i, k, e⟩, b, s⟩ := r
  refine ⟨⟨d, i, k, (hobOf_setPower h p who).trans e⟩, b.setPower p, ?_⟩
  cases who with
  | cottage c => trivial
  | reeve r => exact s

/-- A core's return. -/
theorem reeve_returned (h m : Hw) (r : Nat) (o : Op) (k : Nat) (cy : Option Nat)
    (a : h.Issues (.reeve r) o.len) (b : o.bad = 0) (p : Predicted) (same : (m.reeve r).hob = (h.reeve r).hob) (x : Hob)
    (xq : x.queue = []) (sl : (h.reeve r).slot = none) (t : Word)
    (e : o.body h (h.issued (.reeve r)) ((h.hobOf (.reeve r)).pc + BitVec.ofNat 32 o.len) = .ok ⟨m, x, [], .back t, p, k, cy⟩) :
    Returned (.reeve r) x t m (h.issues (.reeve r) o) := by
  show Returned _ _ _ _ (h.reeveIssues r o)
  rw [reeveIssues_now _ _ _ a]
  have c : h.reeveExecutes r o = h.reeveCompletes r o ⟨m, x, [], .back t, p, k, cy⟩ := by
    unfold reeveExecutes
    dsimp only
    simp only [Hw.issued, hobOf_reeve] at e
    rw [if_neg (by simp [b]), e]
  have g : m.reeveGoes r (h.reeve r) ((h.reeve r).hob.pc + BitVec.ofNat 32 o.len) (.back t) =
      .ok (t, m.flag F.RVE_CTL_BMODE 0 r, none) := by
    unfold reeveGoes
    rw [sl]
  rw [c]
  unfold reeveCompletes
  dsimp only
  rw [if_neg (by simp [same]), g]
  dsimp only
  obtain ⟨d, i, l, z1, z2⟩ := reeve_leaves m r (h.reeve r) ⟨m, x, [], .back t, p, k, cy⟩ (some t) t
    (m.flag F.RVE_CTL_BMODE 0 r) none (.inr ⟨t, rfl, rfl⟩)
  refine ⟨⟨d, i, l, ?_⟩, z2, ?_⟩
  · rw [hobOf_reeve, z1]
    simp [xq]
  · dsimp only
    rw [z1]
    exact ⟨rfl, rfl⟩

/-- Any context's return. -/
theorem returned (h m : Hw) (who : Ctx) (o : Op) (k : Nat) (cy : Option Nat) (a : h.Issues who o.len) (b : o.bad = 0) (p : Predicted)
    (same : ∀ r, who = .reeve r → (m.reeve r).hob = (h.reeve r).hob) (x : Hob) (xp : x.pc = (h.hobOf who).pc)
    (xq : x.queue = []) (sl : h.inSlot who = false) (t : Word)
    (e : o.body h (h.issued who) ((h.hobOf who).pc + BitVec.ofNat 32 o.len) = .ok ⟨m, x, [], .back t, p, k, cy⟩) :
    Returned who x t m (h.issues who o) := by
  cases who with
  | cottage c =>
    obtain ⟨⟨d, i, l, z⟩, w, -⟩ := cottage_went h m c o [] k cy a b p x xp (some t) _ (.inr ⟨t, rfl, rfl⟩) e
    exact ⟨⟨d, i, l, z.trans (by simp [xq])⟩, w, trivial⟩
  | reeve r =>
    have s : (h.reeve r).slot = none := by simpa [inSlot] using sl
    exact reeve_returned h m r o k cy a b p (same r rfl) x xq s t e

/-- A core in B-mode steps over the slot of an untaken transfer that annuls it. -/
theorem reeve_annuls (h m : Hw) (r : Nat) (o : Op) (res : List PendingWrite) (k : Nat) (cy : Option Nat)
    (a : h.Issues (.reeve r) o.len) (b : o.bad = 0) (p : Predicted) (same : (m.reeve r).hob = (h.reeve r).hob) (x : Hob)
    (sl : (h.reeve r).slot = none) (bm : (h.reeve r).bmode = true) (goal : Word)
    (af : m.afterSlot (.reeve r) ((h.reeve r).hob.pc + BitVec.ofNat 32 o.len) = .ok goal)
    (e : o.body h (h.issued (.reeve r)) ((h.hobOf (.reeve r)).pc + BitVec.ofNat 32 o.len) =
      .ok ⟨m, x, res, .transfer none true, p, k, cy⟩) :
    (∃ d i l, ((h.issues (.reeve r) o).reeve r) = { m.reeve r with
      hob := { x with pc := goal, queue := x.queue ++ res, dirTable := d, indTable := i, hist := l },
      bmode := true, slot := none }) ∧ Beside (.reeve r) m (h.issues (.reeve r) o) := by
  have i : h.issues (.reeve r) o = h.reeveIssues r o := rfl
  rw [i, reeveIssues_now _ _ _ a]
  have c : h.reeveExecutes r o = h.reeveCompletes r o ⟨m, x, res, .transfer none true, p, k, cy⟩ := by
    unfold reeveExecutes
    dsimp only
    simp only [Hw.issued, hobOf_reeve] at e
    rw [if_neg (by simp [b]), e]
  have g : m.reeveGoes r (h.reeve r) ((h.reeve r).hob.pc + BitVec.ofNat 32 o.len) (.transfer none true) = .ok (goal, true, none) := by
    unfold reeveGoes
    rw [sl, af]
    simp [bm]
  rw [c]
  unfold reeveCompletes
  dsimp only
  rw [if_neg (by simp [same]), g]
  dsimp only
  obtain ⟨d, i, l, z1, z2⟩ := reeve_leaves m r (h.reeve r) ⟨m, x, res, .transfer none true, p, k, cy⟩ none goal true none
    (.inl ⟨true, rfl⟩)
  exact ⟨⟨d, i, l, z1⟩, z2⟩

/-! ### Waits that end -/

theorem resumed_hob (h : Hw) (c : Nat) : ((h.resumed c).ctx c).hob = (h.ctx c).hob := by
  simp [resumed, Hw.modCtx]

/-- The instruction that a wait holds completes. -/
theorem goesOn_completes (h m : Hw) (c : Nat) (i : Instr) (o : Op) (x : Hob) (res : List PendingWrite) (p : Predicted) (k : Nat)
    (cy : Option Nat) (hi : (h.ctx c).held = some i) (ho : h.heldOp i = some o) (b : o.bad = 0)
    (e : o.body (h.resumed c) (h.ctx c).hob ((h.ctx c).hob.pc + BitVec.ofNat 32 o.len) = .ok ⟨m, x, res, .next, p, k, cy⟩) :
    ((h.goesOn c).ctx c).hob = { x with pc := x.pc + BitVec.ofNat 32 o.len, queue := x.queue ++ res } ∧
    Beside (.cottage c) m (h.goesOn c) := by
  have q : (h.ctx c).held.bind h.heldOp = some o := by rw [hi]; exact ho
  have r : (h.resumed c).cotExecutes c o false =
      m.cotEnds c (m.stamp c) { x with pc := x.pc + BitVec.ofNat 32 o.len, queue := x.queue ++ res } (m.costOf c o k cy) := by
    unfold cotExecutes
    rw [resumed_hob]
    simp only [b, ne_eq, not_true, if_false, Bool.false_eq_true, e]
    exact cotCompletes_next _ _ _ _ _ _ _ _
  have z := cotEnds_says m c (m.stamp c) { x with pc := x.pc + BitVec.ofNat 32 o.len, queue := x.queue ++ res } (m.costOf c o k cy)
  have d : h.goesOn c = (if ((h.resumed c).cotExecutes c o false).resumedDone c then ((h.resumed c).cotExecutes c o false).toReady c
      else (h.resumed c).cotExecutes c o false) := by
    unfold goesOn
    rw [q]
  rw [d, r]
  generalize m.cotEnds c (m.stamp c) { x with pc := x.pc + BitVec.ofNat 32 o.len, queue := x.queue ++ res } (m.costOf c o k cy) = g at *
  split
  · have t := Kept.toReady g c
    exact ⟨t.1.trans z.1, z.2.1.trans t.2.1⟩
  · exact ⟨z.1, z.2.1⟩

end Sys2Proof.Machine.Hw
end

