-- ==== Sys2Proof/WellFormed.lean ====
section
/-!
DEFINITION. Well-formed commands: the ranges that the units and fields a command names must lie in. A command that is not
well-formed names a unit the block does not have. -/

namespace Sys2Proof

/-- A context the block has: 4,096 cottages (R15), four Reeve cores (R91). -/
def Ctx.wf : Ctx → Bool
  | .cottage c => decide (c < 4096)
  | .reeve r => decide (r < 4)

/-- An agent the block has: the PFs and VFs of two ports (R309), four Reeve cores, 4,096 cottages. -/
def Agent.wf : Agent → Bool
  | .pf port => decide (port < 2)
  | .vf port v => decide (port < 2 ∧ 1 ≤ v ∧ v ≤ 128)
  | .reeve r _ => decide (r < 4)
  | .cottage c => decide (c < 4096)

/-- An arbiter the block has: 16 parish ports, 64 channels (R322). -/
def Arbiter.wf : Arbiter → Bool
  | .parish n => decide (n < 16)
  | .channel q => decide (q < 64)

/-- The requesters of an arbiter (R322). -/
def Arbiter.requesters : Arbiter → Nat
  | .parish _ => 6
  | .channel _ => 21

/-- The rings of a function: 8,192 of a PF, 1,024 of a VF (R337). -/
def rings (o : Nat) : Nat := if o % 129 = 0 then 8192 else 1024

/-- The opcodes of NOP rows (R96, R100): NOP's own, and the reserved ones. -/
def nopOpcode (b : Byte) : Bool :=
  let n := b.toNat
  n == 0x80 || n == 0x77 || decide (0x5A ≤ n ∧ n ≤ 0x5F) || decide (0x8B ≤ n ∧ n ≤ 0x8F) || decide (0xA0 ≤ n ∧ n ≤ 0xEF) ||
    decide (0xF8 ≤ n)

/-- Where an access of a Larder bank goes exists (R313): a word of the bank, or of a region that a parish can have. -/
def LarderPlace.wf : LarderPlace → Bool
  | .word w => decide (w < 12288)
  | .region (.pcache j) _ => decide (j < 4)
  | .region (.l2 entry) _ => decide (entry < 16)
  | .region _ _ => true

/-- The ECC outcome of a read is one of three (R318). -/
def LarderOp.wf : LarderOp → Bool
  | .read ecc => decide (ecc < 3)
  | .write _ _ => true

/-- The command names units and fields the block has. -/
def Instr.wf (i : Instr) : Bool :=
  match i with
  | .registerWrite ag view off bytes _ =>
    ag.wf && decide (view < 258) && decide (off < 0x4000000) && decide (1 ≤ bytes ∧ bytes ≤ 8)
  | .aluMov who _ _ => who.wf
  | .aluAdd who _ _ => who.wf
  | .aluAdc who _ _ => who.wf
  | .aluSub who _ _ => who.wf
  | .aluSbc who _ _ => who.wf
  | .aluCmp who _ _ => who.wf
  | .aluAnd who _ _ => who.wf
  | .aluOr who _ _ => who.wf
  | .aluXor who _ _ => who.wf
  | .aluTst who _ _ => who.wf
  | .aluShl who _ _ => who.wf
  | .aluShr who _ _ => who.wf
  | .aluSar who _ _ => who.wf
  | .aluRol who _ _ => who.wf
  | .aluRor who _ _ => who.wf
  | .aluMul who _ _ => who.wf
  | .cmovcc who _ _ _ => who.wf
  | .aluNeg who _ _ => who.wf
  | .aluNot who _ _ => who.wf
  | .sext8 who _ _ => who.wf
  | .sext16 who _ _ => who.wf
  | .mulh who _ _ => who.wf
  | .mulhu who _ _ => who.wf
  | .divu who _ _ => who.wf
  | .divs who _ _ => who.wf
  | .sel who _ _ _ _ => who.wf
  | .lea who _ _ => who.wf
  | .bcc who _ _ _ => who.wf
  | .bccAnnul who _ _ _ => who.wf
  | .ld who _ _ _ => who.wf
  | .lds who _ _ _ => who.wf
  | .st who _ _ _ => who.wf
  | .push who _ _ _ => who.wf
  | .pop who _ _ _ => who.wf
  | .stp who _ _ _ => who.wf
  | .ldp who _ _ _ => who.wf
  | .jmp who _ _ => who.wf
  | .call who _ _ _ => who.wf
  | .ret who _ _ => who.wf
  | .reti who _ _ => who.wf
  | .waitline who _ _ => who.wf
  | .nop who _ opc => who.wf && nopOpcode opc
  | .fence who _ => who.wf
  | .flushp who _ => who.wf
  | .barp who _ => who.wf
  | .unbarp who _ => who.wf
  | .movsRead who _ _ => who.wf
  | .movsWrite who _ _ => who.wf
  | .ei who _ => who.wf
  | .di who _ => who.wf
  | .wfi who _ => who.wf
  | .eret who _ => who.wf
  | .missDataReturn c => decide (c < 4096)
  | .beamWaitEnd c => decide (c < 4096)
  | .tallyFullResume c => decide (c < 4096)
  | .parityHoldEnd c => decide (c < 4096)
  | .interruptEntry c => decide (c < 4096)
  | .reeveInterrupt r => decide (r < 4)
  | .schedulerPick n core => decide (n < 16) && decide (core < 16)
  | .bell n => decide (n < 16)
  | .bellRateWrite ag n _ _ => ag.wf && decide (n < 16)
  | .bellSourceWrite ag n _ => ag.wf && decide (n < 16)
  | .bellSourceLost n => decide (n < 16)
  | .bellRelock n => decide (n < 16)
  | .cotCtlRun ag c _ _ => ag.wf && decide (c < 4096)
  | .cotCtlRst ag c => ag.wf && decide (c < 4096)
  | .cotCtlHalt ag c _ => ag.wf && decide (c < 4096)
  | .cotContextWrite ag c r _ => ag.wf && decide (c < 4096) && decide (r < 19)
  | .inputPush ag c _ => ag.wf && decide (c < 4096)
  | .inputApplied c => decide (c < 4096)
  | .validateParish ag p mask vec => ag.wf && decide (p < 2) && decide (mask < 65536) && decide (vec < 4096)
  | .loadParish ag p mask vec => ag.wf && decide (p < 2) && decide (mask < 65536) && decide (vec < 4096)
  | .validateModule ag p vec => ag.wf && decide (p < 2) && decide (vec < 4096)
  | .loadModule ag p vec => ag.wf && decide (p < 2) && decide (vec < 4096)
  | .armFetchDone _ => true
  | .armCheckDone => true
  | .armComplete _ => true
  | .reeveHalt ag r _ => ag.wf && decide (r < 4)
  | .bmodeWrite ag r _ => ag.wf && decide (r < 4)
  | .predOffWrite ag r _ => ag.wf && decide (r < 4)
  | .visibleJob c j _ _ => decide (c < 4096) && decide (j < 4)
  | .blankingJob c j _ _ => decide (c < 4096) && decide (j < 4)
  | .jobResume c j _ _ => decide (c < 4096) && decide (j < 4)
  | .patternCacheFill c _ _ => decide (c < 4096)
  | .safeGap c j path => decide (c < 4096) && decide (j < 4) && (path.all fun x => decide (x < 2048))
  | .porchFlip c k _ => decide (c < 4096) && decide (k < 2)
  | .streamEnable ag c _ => ag.wf && decide (c < 4096)
  | .porS1CtlWrite ag c _ => ag.wf && decide (c < 4096)
  | .refresh ag c k => ag.wf && decide (c < 4096) && decide (k < 2)
  | .edpEnable ag e _ => ag.wf && decide (e < 2)
  | .edpGeometryWrite ag e _ _ => ag.wf && decide (e < 2)
  | .edpPanelFrame e _ _ => decide (e < 2)
  | .edpLinkLost e _ => decide (e < 2)
  | .auxTransaction ag e _ => ag.wf && decide (e < 2)
  | .voiceSample c _ => decide (c < 4096)
  | .mixSample n clocks realign =>
    decide (n < 16) && (clocks.all fun x => decide (x.k < 256)) && (realign.all fun k => decide (k < 256))
  | .mixBlockBoundary n => decide (n < 16)
  | .routeWrite ag c r _ => ag.wf && decide (c < 4096) && decide (r < 4)
  | .chrBusWrite ag c _ => ag.wf && decide (c < 4096)
  | .hostAudioEnable ag c _ => ag.wf && decide (c < 4096)
  | .audio c => decide (c < 4096)
  | .tdmPortFrame p _ => decide (p < 2)
  | .tdmSlip p _ => decide (p < 2)
  | .tdmConfigWrite ag p _ => ag.wf && decide (p < 2)
  | .amclkSourceWrite ag _ => ag.wf
  | .amclkLost => true
  | .amclkLock => true
  | .cmapWrite ag c e _ => ag.wf && decide (c < 4096) && decide (e ≤ 256)
  | .granuleArrival f g => decide (f < 65536) && decide (g < 16)
  | .pageinFail f g _ => decide (f < 65536) && decide (g < 16)
  | .cowCopyDone f g => decide (f < 65536) && decide (g < 16)
  | .allocCmd ag p vec => ag.wf && decide (p < 2) && decide (vec < 4096)
  | .freeCmd ag p vec => ag.wf && decide (p < 2) && decide (vec < 4096)
  | .granaryDrop ag p vec => ag.wf && decide (p < 2) && decide (vec < 4096)
  | .readCmd ag p vec => ag.wf && decide (p < 2) && decide (vec < 4096)
  | .evacuate ag p vec => ag.wf && decide (p < 2) && decide (vec < 4096)
  | .evacuateRelease ag p vec => ag.wf && decide (p < 2) && decide (vec < 4096)
  | .evacuateDone q => decide (q < 64)
  | .capture ag c slot vec => ag.wf && decide (c < 4096) && decide (slot < 8) && decide (vec < 4096)
  | .capturePoint c _ => decide (c < 4096)
  | .restore ag c slot vec => ag.wf && decide (c < 4096) && decide (slot < 8) && decide (vec < 4096)
  | .restoreTaken c _ _ => decide (c < 4096)
  | .snapshotDrop ag c slot vec => ag.wf && decide (c < 4096) && decide (slot < 8) && decide (vec < 4096)
  | .exportCmd ag c slot vec => ag.wf && decide (c < 4096) && decide (slot < 8) && decide (vec < 4096)
  | .exportDone c _ => decide (c < 4096)
  | .importCmd ag c slot vec => ag.wf && decide (c < 4096) && decide (slot < 8) && decide (vec < 4096)
  | .importDone c _ => decide (c < 4096)
  | .cancel ag c => ag.wf && decide (c < 4096)
  | .retentionWrite ag n _ => ag.wf && decide (n < 16)
  | .bankWake n b => decide (n < 16) && decide (b < 64)
  | .larderBankAccess n b accs =>
    decide (n < 16) && decide (b < 64) && (accs.all fun x => decide (x.req < 7) && x.place.wf && x.op.wf)
  | .selfRefreshEntry k _ => decide (k < 4)
  | .selfRefreshExit k => decide (k < 4)
  | .arbWindow a => a.wf
  | .arbiterGrant a reqs returned _ _ =>
    a.wf && (reqs.all fun x => decide (x.req < a.requesters ∧ 0 < x.bytes)) && (returned.all fun x => decide (x < a.requesters))
  | .urgent a r _ => a.wf && decide (r < a.requesters)
  | .regionRegister ag o _ _ => ag.wf && decide (o < 258)
  | .bar2Enable ag o _ => ag.wf && decide (o < 258)
  | .inboundBar2Access o _ _ _ => decide (o < 258)
  | .ringEnable ag o r _ => ag.wf && decide (o < 258) && decide (r < rings o)
  | .comRingRet ag o r _ => ag.wf && decide (o < 258) && decide (r < rings o)
  | .ringErr o r => decide (o < 258) && decide (r < rings o)
  | .errors o => decide (o < 258)
  | .comEqWrite ag o _ => ag.wf && decide (o < 258)
  | .holdoffExpiry o vec => decide (o < 258) && decide (vec < 4096)
  | .msixUnmask o _ => decide (o < 258)
  | .carterStart c _ => decide (c < 4096)
  | .registerTransferDone n i _ => decide (n < 16) && decide (i < 16)
  | .chainRun ag n j => ag.wf && decide (n < 16) && decide (j < 8)
  | .descriptorFetch n j => decide (n < 16) && decide (j < 8)
  | .descriptorDone n j _ => decide (n < 16) && decide (j < 8)
  | .nextRead n j => decide (n < 16) && decide (j < 8)
  | .carChDb ag n j => ag.wf && decide (n < 16) && decide (j < 8)
  | .pause ag n reg j => ag.wf && decide (n < 16) && decide (j < if reg then 16 else 8)
  | .pauseClear ag n reg j => ag.wf && decide (n < 16) && decide (j < if reg then 16 else 8)
  | .pauseDrained n reg j _ => decide (n < 16) && decide (j < if reg then 16 else 8)
  | .chainAbort ag n j _ => ag.wf && decide (n < 16) && decide (j < 8)
  | .registerChannelAbort ag n i _ => ag.wf && decide (n < 16) && decide (i < 16)
  | .stopAll n space _ _ port _ => decide (n < 16) && decide (space < 16) && (port.all fun x => decide (x < 2))
  | .resume ag n => ag.wf && decide (n < 16)
  | .chiselStart c _ => decide (c < 4096)
  | .vramBlitStart n i => decide (n < 16) && decide (i < 6)
  | .chiselTransferDone n i _ => decide (n < 16) && decide (i < 6)
  | .privilegedStart ag n m _ => ag.wf && decide (n < 16) && decide (m < 2)
  | .privilegedDone n m _ => decide (n < 16) && decide (m < 2)
  | .readFail n i _ _ port => decide (n < 16) && decide (i < 6) && decide (port < 2)
  | .pReadFail n m _ _ port => decide (n < 16) && decide (m < 2) && decide (port < 2)
  | .picTake ag n w => ag.wf && decide (n < 16) && decide (w < 16)
  | .picAct ag n w _ => ag.wf && decide (n < 16) && decide (w < 16)
  | .picSet ag n w _ => ag.wf && decide (n < 16) && decide (w < 16)
  | .picEnWrite ag n w _ => ag.wf && decide (n < 16) && decide (w < 16)
  | .notification n => decide (n < 16)
  | .vanishSample n i => decide (n < 16) && decide (i < 512)
  | .cibTake c => decide (c < 4096)
  | .cibAct c _ => decide (c < 4096)
  | .cibSet c _ => decide (c < 4096)
  | .cibVtCtl c k _ => decide (c < 4096) && decide (k < 4)
  | .vtFire c k => decide (c < 4096) && decide (k < 4)
  | .tmrArm ag u _ => ag.wf && decide (u < 16)
  | .tmrStop ag u => ag.wf && decide (u < 16)
  | .tmrCmpWrite ag u _ => ag.wf && decide (u < 16)
  | .timerTick u _ => decide (u < 16)
  | .timerCapture u _ => decide (u < 16)
  | .lfclkStep u => decide (u < 16)
  | .pairLowRead ag m => ag.wf && decide (m < 8)
  | .pairHighRead ag m => ag.wf && decide (m < 8)
  | .functionSwitch ag l _ _ => ag.wf && decide (l < 48)
  | .handoverTake l => decide (l < 48)
  | .lanOutWrite ag b _ => ag.wf && decide (b < 3)
  | .lanSecWrite ag _ => ag.wf
  | .wakeLane l => decide (l < 48)
  | .bellRefEdge => true
  | .bellRefLost n => decide (n < 16)
  | .uartTx ag u _ => ag.wf && decide (u < 2)
  | .uartRxByte u _ _ => decide (u < 2)
  | .spiTx ag u _ _ => ag.wf && decide (u < 2)
  | .i2cCmd ag u _ _ _ => ag.wf && decide (u < 2)
  | .treadleStep t _ _ => decide (t < 8)
  | .treadleEnable ag t _ => ag.wf && decide (t < 8)
  | .treadleDisable ag t _ => ag.wf && decide (t < 8)
  | .treadleCommit ag t => ag.wf && decide (t < 8)
  | .flush ag t => ag.wf && decide (t < 8)
  | .trdTxfWrite ag t _ => ag.wf && decide (t < 8)
  | .trdRxfRead ag t => ag.wf && decide (t < 8)
  | .lutWrite ag t i _ => ag.wf && decide (t < 8) && decide (i < 1024)
  | .stage ag p mask vec => ag.wf && decide (p < 2) && decide (mask < 65536) && decide (vec < 4096)
  | .swap ag p mask vec => ag.wf && decide (p < 2) && decide (mask < 65536) && decide (vec < 4096)
  | .stageDone _ => true
  | .moduleReset => true
  | .portReset p kind => decide (p < 2) && decide (kind < 3)
  | .linkUp p _ _ _ _ => decide (p < 2)
  | .flr p v => decide (p < 2) && decide (1 ≤ v ∧ v ≤ 128)
  | .pfFlr p => decide (p < 2)
  | .flrComplete o => decide (o < 258)
  | .vfEnableClear p n => decide (p < 2) && decide (n ≤ 128)
  | .d3hotEntry o => decide (o < 258)
  | .d0Return o => decide (o < 258)
  | .ltrMessage p _ _ _ _ => decide (p < 2)
  | .aspmL1Entry p => decide (p < 2)
  | .l1Exit p => decide (p < 2)
  | .ptmRefresh p _ => decide (p < 2)
  | .ptmLost p => decide (p < 2)
  | .epochWrite ag _ => ag.wf
  | .unsupportedRequest p => decide (p < 2)
  | .getVersion i _ => decide (i < 3)
  | .getCapabilities i _ => decide (i < 3)
  | .negotiateAlgorithms i _ => decide (i < 3)
  | .getDigests i _ => decide (i < 3)
  | .getCertificate i _ => decide (i < 3)
  | .challenge i _ => decide (i < 3)
  | .getMeasurements i _ => decide (i < 3)
  | .spdmUnsupported i _ => decide (i < 3)
  | .setEndpointId _ _ _ => true
  | .getEndpointId _ => true
  | .getMctpVersionSupport _ _ => true
  | .getMessageTypeSupport _ => true
  | .clearFaults _ temps => (temps.length == 3)
  | .capability => true
  | .statusByte => true
  | .statusWord => true
  | .statusInputRead => true
  | .statusTemperature => true
  | .statusCmlRead => true
  | .readVin _ => true
  | .readIin _ => true
  | .readPin _ => true
  | .readTemperature1 _ => true
  | .readTemperature2 _ => true
  | .readTemperature3 _ => true
  | .pmbusRevision => true
  | .mfrId => true
  | .mfrModel => true
  | .unsupportedCommand _ => true
  | .pecError => true
  | .alertResponse => true
  | .standbyReady _ _ _ => true
  | .uvloFall _ => true
  | .powerLoss _ => true
  | .lowvinSet _ => true
  | .lowvinClear _ => true
  | .cclkSwitch => true
  | .ovWarning _ => true
  | .sleep ag _ => ag.wf
  | .sleepExit => true
  | .pwrfail _ _ _ => true
  | .tempWarn k _ => decide (1 ≤ k ∧ k ≤ 3)
  | .thermCrit k _ => decide (1 ≤ k ∧ k ≤ 2)
  | .coreRailRemoval => true
  | .go p vec => decide (p < 2) && decide (vec < 4096)
  | .bootFetchDone p _ => decide (p < 2)
  | .bootCheckDone p => decide (p < 2)
  | .fieldArmatureApply => true
  | .hbmTrained q => decide (q < 64)
  | .parishCalibrated n => decide (n < 16)
  | .larder ag p n vec => ag.wf && decide (p < 2) && decide (n < 16) && decide (vec < 4096)
  | .loom ag p n vec => ag.wf && decide (p < 2) && decide (n < 16) && decide (vec < 4096)
  | .hbmTest ag p q vec => ag.wf && decide (p < 2) && decide (q < 64) && decide (vec < 4096)
  | .retrain ag p q vec => ag.wf && decide (p < 2) && decide (q < 64) && decide (vec < 4096)
  | .testDone _ _ => true
  | .injected ag _ => ag.wf
  | .fwStage ag vec => ag.wf && decide (vec < 4096)
  | .fwStageDone _ => true
  | .switch ag vec => ag.wf && decide (vec < 4096)
  | .ack ag => ag.wf
  | .force ag vec => ag.wf && decide (vec < 4096)
  | .perstRelease _ _ => true
  | .configSpaceWrite o _ => decide (o < 258)
  | .edpLinkTrained e _ => decide (e < 2)
  | .smbusTimeout => true

end Sys2Proof
end

