-- ==== Sys2Proof/Laws/Porch.lean ====
section
/-!
SUPPORT. Laws of the Porch's eDP ports and streams. -/

namespace Sys2Proof.Machine.Hw

variable (h : Hw)

@[simp] theorem setEdpPort_regs (e : Nat) (p : EdpPort) : (h.setEdpPort e p).regs = h.regs := (rfl)
@[simp] theorem reg_setEdpPort (e : Nat) (p : EdpPort) (n' : RegName) (i' j' : Nat) : (h.setEdpPort e p).reg n' i' j' = h.reg n' i' j' := (rfl)
@[simp] theorem fld_setEdpPort (e : Nat) (p : EdpPort) (f' : Fld) (i' j' : Nat) : (h.setEdpPort e p).fld f' i' j' = h.fld f' i' j' := (rfl)
@[simp] theorem flag_setEdpPort (e : Nat) (p : EdpPort) (f' : Fld) (i' j' : Nat) : (h.setEdpPort e p).flag f' i' j' = h.flag f' i' j' := (rfl)
@[simp] theorem setEdpPort_mem (e : Nat) (p : EdpPort) : (h.setEdpPort e p).mem = h.mem := (rfl)
@[simp] theorem rb_setEdpPort (e : Nat) (p : EdpPort) (a' : Nat) : (h.setEdpPort e p).rb a' = h.rb a' := (rfl)
@[simp] theorem setEdpPort_cots (e : Nat) (p : EdpPort) : (h.setEdpPort e p).cots = h.cots := (rfl)
@[simp] theorem cot_setEdpPort (e : Nat) (p : EdpPort) (c' : Nat) : (h.setEdpPort e p).cot c' = h.cot c' := (rfl)
@[simp] theorem ctx_setEdpPort (e : Nat) (p : EdpPort) (c' : Nat) : (h.setEdpPort e p).ctx c' = h.ctx c' := (rfl)
@[simp] theorem setEdpPort_par (e : Nat) (p : EdpPort) : (h.setEdpPort e p).par = h.par := (rfl)
@[simp] theorem parish_setEdpPort (e : Nat) (p : EdpPort) (n' : Nat) : (h.setEdpPort e p).parish n' = h.parish n' := (rfl)
@[simp] theorem setEdpPort_reeves (e : Nat) (p : EdpPort) : (h.setEdpPort e p).reeves = h.reeves := (rfl)
@[simp] theorem reeve_setEdpPort (e : Nat) (p : EdpPort) (r' : Nat) : (h.setEdpPort e p).reeve r' = h.reeve r' := (rfl)
@[simp] theorem setEdpPort_gran (e : Nat) (p : EdpPort) : (h.setEdpPort e p).gran = h.gran := (rfl)
@[simp] theorem frame_setEdpPort (e : Nat) (p : EdpPort) (f' : Nat) : (h.setEdpPort e p).frame f' = h.frame f' := (rfl)
@[simp] theorem setEdpPort_fns (e : Nat) (p : EdpPort) : (h.setEdpPort e p).fns = h.fns := (rfl)
@[simp] theorem fn_setEdpPort (e : Nat) (p : EdpPort) (o' : Nat) : (h.setEdpPort e p).fn o' = h.fn o' := (rfl)
@[simp] theorem setEdpPort_ports (e : Nat) (p : EdpPort) : (h.setEdpPort e p).ports = h.ports := (rfl)
@[simp] theorem port_setEdpPort (e : Nat) (p : EdpPort) (p' : Nat) : (h.setEdpPort e p).port p' = h.port p' := (rfl)
@[simp] theorem setEdpPort_timers (e : Nat) (p : EdpPort) : (h.setEdpPort e p).timers = h.timers := (rfl)
@[simp] theorem setEdpPort_lanes (e : Nat) (p : EdpPort) : (h.setEdpPort e p).lanes = h.lanes := (rfl)
@[simp] theorem setEdpPort_uartRx (e : Nat) (p : EdpPort) : (h.setEdpPort e p).uartRx = h.uartRx := (rfl)
@[simp] theorem setEdpPort_treadles (e : Nat) (p : EdpPort) : (h.setEdpPort e p).treadles = h.treadles := (rfl)
@[simp] theorem setEdpPort_tdm (e : Nat) (p : EdpPort) : (h.setEdpPort e p).tdm = h.tdm := (rfl)
@[simp] theorem setEdpPort_arb (e : Nat) (p : EdpPort) : (h.setEdpPort e p).arb = h.arb := (rfl)
@[simp] theorem setEdpPort_modArm (e : Nat) (p : EdpPort) : (h.setEdpPort e p).modArm = h.modArm := (rfl)
@[simp] theorem setEdpPort_job (e : Nat) (p : EdpPort) : (h.setEdpPort e p).job = h.job := (rfl)
@[simp] theorem setEdpPort_power (e : Nat) (p : EdpPort) : (h.setEdpPort e p).power = h.power := (rfl)
@[simp] theorem setEdpPort_boot (e : Nat) (p : EdpPort) : (h.setEdpPort e p).boot = h.boot := (rfl)
@[simp] theorem setEdpPort_spdm (e : Nat) (p : EdpPort) : (h.setEdpPort e p).spdm = h.spdm := (rfl)
@[simp] theorem setEdpPort_sbd (e : Nat) (p : EdpPort) : (h.setEdpPort e p).sbd = h.sbd := (rfl)
@[simp] theorem setEdpPort_memPoison (e : Nat) (p : EdpPort) : (h.setEdpPort e p).memPoison = h.memPoison := (rfl)
@[simp] theorem setEdpPort_out (e : Nat) (p : EdpPort) : (h.setEdpPort e p).out = h.out := (rfl)
@[simp] theorem setEdpPort_fresh (e : Nat) (p : EdpPort) : (h.setEdpPort e p).fresh = h.fresh := (rfl)

@[simp] theorem edpPort_setReg (n : RegName) (i j : Nat) (v : BitVec 64) (e' : Nat) : (h.setReg n i j v).edpPort e' = h.edpPort e' := by simp only [edpPort, setReg_edp]
@[simp] theorem edpPort_setFld (f : Fld) (i j v : Nat) (e' : Nat) : (h.setFld f i j v).edpPort e' = h.edpPort e' := by simp only [edpPort, setFld_edp]
@[simp] theorem edpPort_storeFields (n : RegName) (i j v : Nat) (e' : Nat) : (h.storeFields n i j v).edpPort e' = h.edpPort e' := by simp only [edpPort, storeFields_edp]
@[simp] theorem edpPort_emit (o : Out) (e' : Nat) : (h.emit o).edpPort e' = h.edpPort e' := by simp only [edpPort, emit_edp]
@[simp] theorem edpPort_wb (a : Nat) (v : Byte) (e' : Nat) : (h.wb a v).edpPort e' = h.edpPort e' := by simp only [edpPort, wb_edp]
@[simp] theorem edpPort_bump  (e' : Nat) : (h.bump ).edpPort e' = h.edpPort e' := by simp only [edpPort, bump_edp]
@[simp] theorem edpPort_setPower (p : Power) (e' : Nat) : (h.setPower p).edpPort e' = h.edpPort e' := by simp only [edpPort, setPower_edp]
@[simp] theorem edpPort_setCot (c : Nat) (x : Cottage) (e' : Nat) : (h.setCot c x).edpPort e' = h.edpPort e' := by simp only [edpPort, setCot_edp]
@[simp] theorem edpPort_modCtx (c : Nat) (g : Context → Context) (e' : Nat) : (h.modCtx c g).edpPort e' = h.edpPort e' := by simp only [edpPort, modCtx_edp]
@[simp] theorem edpPort_modParish (n : Nat) (g : Parish → Parish) (e' : Nat) : (h.modParish n g).edpPort e' = h.edpPort e' := by simp only [edpPort, modParish_edp]
@[simp] theorem edpPort_modFn (o : Nat) (g : Fn → Fn) (e' : Nat) : (h.modFn o g).edpPort e' = h.edpPort e' := by simp only [edpPort, modFn_edp]
@[simp] theorem edpPort_setFn (o : Nat) (x : Fn) (e' : Nat) : (h.setFn o x).edpPort e' = h.edpPort e' := by simp only [edpPort, setFn_edp]
@[simp] theorem edpPort_setPort (p : Nat) (x : Port) (e' : Nat) : (h.setPort p x).edpPort e' = h.edpPort e' := by simp only [edpPort, setPort_edp]
@[simp] theorem edpPort_setReeve (r : Nat) (x : Reeve) (e' : Nat) : (h.setReeve r x).edpPort e' = h.edpPort e' := by simp only [edpPort, setReeve_edp]
@[simp] theorem edpPort_picEvent (n i : Nat) (e' : Nat) : (h.picEvent n i).edpPort e' = h.edpPort e' := by simp only [edpPort, picEvent_edp]
@[simp] theorem edpPort_picLevel (n i : Nat) (b : Bool) (e' : Nat) : (h.picLevel n i b).edpPort e' = h.edpPort e' := by simp only [edpPort, picLevel_edp]
@[simp] theorem edpPort_setSt (c : Nat) (st : CotState) (e' : Nat) : (h.setSt c st).edpPort e' = h.edpPort e' := by simp only [edpPort, setSt_edp]
@[simp] theorem edpPort_event (o vec : Nat) (e' : Nat) : (h.event o vec).edpPort e' = h.edpPort e' := by simp only [edpPort, event_edp]
@[simp] theorem edpPort_raise (sev scope : Nat) (src : Blk) (cause index : Nat) (q : Option Nat) (dests : List Nat) (detail : Nat) (e' : Nat) : (h.raise sev scope src cause index q dests detail).edpPort e' = h.edpPort e' := by simp only [edpPort, raise_edp]
@[simp] theorem edpPort_raiseCot (sev : Nat) (src : Blk) (cause c detail : Nat) (e' : Nat) : (h.raiseCot sev src cause c detail).edpPort e' = h.edpPort e' := by simp only [edpPort, raiseCot_edp]
@[simp] theorem edpPort_raiseParish (sev : Nat) (src : Blk) (cause n detail : Nat) (e' : Nat) : (h.raiseParish sev src cause n detail).edpPort e' = h.edpPort e' := by simp only [edpPort, raiseParish_edp]
@[simp] theorem edpPort_raiseModule (sev : Nat) (src : Blk) (cause detail : Nat) (e' : Nat) : (h.raiseModule sev src cause detail).edpPort e' = h.edpPort e' := by simp only [edpPort, raiseModule_edp]
@[simp] theorem edpPort_raiseChan (sev : Nat) (src : Blk) (cause kind o num : Nat) (q : Option Nat) (detail : Nat) (e' : Nat) : (h.raiseChan sev src cause kind o num q detail).edpPort e' = h.edpPort e' := by simp only [edpPort, raiseChan_edp]
@[simp] theorem edpPort_raiseShared (sev : Nat) (src : Blk) (cause kind num : Nat) (q : Option Nat) (detail : Nat) (e' : Nat) : (h.raiseShared sev src cause kind num q detail).edpPort e' = h.edpPort e' := by simp only [edpPort, raiseShared_edp]
@[simp] theorem edpPort_refuse (ag : Agent) (n : RegName) (i j : Nat) (e' : Nat) : (h.refuse ag n i j).edpPort e' = h.edpPort e' := by simp only [edpPort, refuse_edp]

@[simp] theorem edpPort_setEdpPort (e : Nat) (p : EdpPort) (e' : Nat) :
    (h.setEdpPort e p).edpPort e' = if e = e' then p else h.edpPort e' := by
  simp only [edpPort, setEdpPort, NTable.get_set]

end Sys2Proof.Machine.Hw
end

