-- ==== Sys2Proof/Tests/Slice0.lean ====
section
/-!
SUPPORT. The model's own tests: worked examples of the spec, commands that are well-formed and commands that are not, and for each
obligation that has hypotheses a concrete state and operands that meet them. -/

set_option Elab.async false
set_option maxRecDepth 4000
set_option linter.unusedVariables false

namespace Sys2Proof.Tests

open Sys2Proof Sys2Proof.Machine Sys2Proof.Machine.Hw

/-- An empty queue: the block idles (log entry 2). -/
theorem test_idle : step State.reset = .next State.reset := rfl

/-! ### States -/

/-- A class of 640 by 480 pixels. -/
def cls : ClassRec := ⟨0, 0, 0xFF, 4, 640, 480, 525, 1600, 240, 32, 2, 0, 0, 64, 1024, 0,
  [2, 2, 2, 2, 2, 6, 8, 36, 4, 4, 6, 4, 4, 6, 4, 4, 2, 4, 6, 6, 8, 12, 2, 2, 2, 1, 1, 1, 1, 1, 1, 1], []⟩
/-- A cottage of VF 0 of PA in slots 0 and 1 of core 0, with host audio. -/
def slots : SlotsRec :=
  { coreFirst := 0, coreCount := 1, slotFirst := 0, slotCount := 2, cls := 0, flags := 1, owner := 1, sinkfmt := 0, audio := 1,
    routes := [] }
/-- A parish Armature with every expert bit. -/
def arm : ParishArm :=
  { classes := [cls], slots := [slots], larder := none, ucHash := 0, ucVer := 0, hasUcode := true, arbW := [], ageN := 16, urg := [],
    hasArb := false, src := 0, preset := 1, pace := 250, bellMax := 60000, period := 0, hasBell := true, expert := 0xFFF,
    keySlot := 0, version := 1, digest := 0, mode := 1 }
/-- The fabric released, both links up, every memory channel in service, VF 0 of PA enabled, parish 0 under `arm`, its Bell running. -/
def up : Hw :=
  let h := Hw.reset
  let p : Port := { Port.reset with perst := false, up := true, vfEn := true, numVfs := 1 }
  ({ h with
    boot := { h.boot with stage := .released }, ports := [(0, p), (1, p)]
    fns := [(1, { Fn.reset 1 with enabled := true, msixEn := true })]
    par := [(0, { Parish.reset with arm := some arm, bellRuns := true, bellPend := true, active := none })] } : Hw).setFld
    F.PWR_HBMTR_CHAN 0 0 (2 ^ 64 - 1)
/-- The same with cottage 0 in RUN. -/
def running : Hw := up.modCtx 0 fun x => { x with st := .run, frame := 12, vc := 40 * 1600 + 100, admitted := true }
/-- A state without commands. -/
def st (h : Hw) : State := ⟨h, []⟩
/-- A snapshot of that cottage. -/
def snapX : Snapshot := up.takeSnapshot 0 (100, 0)
/-- The same with the snapshot in slot 0 and command `k` in progress. -/
def hay (h : Hw) (k : Option HayCmd) : Hw :=
  (h.setFld F.HAY_STAT_ACTIVE 0 0 1).setCot 0 { h.cot 0 with hay := k, snaps := some snapX :: List.replicate 7 none }
/-- Parish 0 alone locks to PTM. -/
theorem ptm_one : ∀ m, ((running.modParish 0 fun p => { p with srcInForce := 1 }).parish m).srcInForce = 1 ↔ m = 0 := by
  intro m
  by_cases e : m = 0
  · subst e; exact ⟨fun _ => rfl, fun _ => rfl⟩
  · refine ⟨fun w => absurd w ?_, fun w => absurd w e⟩
    simp only [Hw.modParish, Hw.setParish, Hw.parish]
    rw [NTable.get_set_ne _ _ _ _ _ _ (Ne.symm e)]
    show ¬ (NTable.get Parish.reset [(0, _)] m).srcInForce = 1
    simp [NTable.get, Table.get, Ne.symm e, Parish.reset]
theorem alias_len (h : Hw) (k : BitVec 384) : 52 ≤ (h.aliasChain k).length := by
  simp only [Hw.aliasChain, List.length_append, digestBytes, List.length_reverse, length_leBytes]; omega
/-- The same with a frame at address 0 of the cottage, and HBM at address 0 of Reeve core 0: both can fetch and use a stack. -/
def core : Hw :=
  let h := ((running.setFrame 100 { Hw.privFrame with owner := 1 }).setReg .GRN_CMAP 0 0 (5 + 100 * 2 ^ 20)).modCtx 0 fun x =>
    { x with hob := { x.hob with sp := 0x1000 } }
  { (h.setFld F.RVE_WIN_EN 0 0 1).setFld F.RVE_WIN_BASE 0 0 200 with
    reeves := [(0, { Reeve.reset 0 with hob := { Hob.reset with sp := 0x1000 } })] }
theorem cot_issues {n : Nat} (hn : n = 1 ∨ n = 2 ∨ n = 3) : core.Issues (.cottage 0) n := by
  rcases hn with e | e | e <;> subst e <;>
    exact ⟨by decide +kernel, by decide +kernel, by decide +kernel, by decide +kernel, 0, by rfl⟩
theorem reeve_issues {n : Nat} (hn : n = 1 ∨ n = 2) : core.Issues (.reeve 0) n := by
  rcases hn with e | e <;> subst e <;> exact ⟨by decide +kernel, by decide +kernel, by decide +kernel, by rfl⟩

/-- A load of cottage 0 that is held for its data. -/
def held0 : Instr := .ld (.cottage 0) [] ⟨⟨14, 0⟩, 0, 0, 15, 0⟩ .hit
/-- `core` with cottage 0 waiting for the data of that load from behind L2. -/
def missed : Hw := core.modCtx 0 fun x => { x with st := .miss, wait := .cache true, held := some held0 }

/-! ### Worked examples of the spec -/

/-- The acknowledgement of 00_scope.md's example: of the event bits 5, writing 1 leaves bit 2. -/
theorem test_w1c_acknowledge : Acc.w1c.store 5 1 = 4 := by decide

/-- The Tally entry of 01_cottages_bell_tally.md's example: palette 2, entry 0x1F, at (7, 100, 880), SEQ 0x0A3. -/
theorem test_tally_palette_entry :
    tallyBytes cls ⟨0x003366CC, 0x0A3, 0b0111, 0x0021F, .palette, ⟨7, 100 * 1600 + 880⟩⟩ =
      leBytes 8 0x0A370021F1464370 ++ leBytes 8 0x003366CC := by decide +kernel

/-- The store of 03_hob_processor.md's example is 5 bytes long. -/
theorem test_palette_store_length : memLen [0xF4] ⟨⟨5, 0⟩, 1, 0, 2, 0x7C⟩ = 5 := by decide

/-- DIVU of 100 by 0 of 03_hob_processor.md's example: all ones in g6, 100 in g7, FL.DZ, each at distance 10. -/
theorem test_divu_by_zero :
    let h := core.modCtx 0 fun x => { x with hob := { x.hob with g := (x.hob.g.set 6 100).set 7 0x20 } }
    let t := h.divu (.cottage 0) [] ⟨6, 8⟩
    let q := (t.ctx 0).hob.queue
    q.map (fun w => (w.target, w.dist)) = [(.g 6, 10), (.g 7, 10), (.fl, 10)] ∧
      q.map (·.value) = [0xFFFFFFFF, 100, 4] ∧ q.map (·.orBits) = [0, 0, 0x10] := by decide +kernel

/-- The presets of R27: 50 Hz, 59.94 Hz and 60 Hz, as periods of 20 ms, 1001/60 ms and 1/60 s in thirds of 2⁻³² ns. -/
theorem test_bell_presets :
    bellPeriod 1 0 = 3 * 20000000 * 2 ^ 32 ∧ 60 * bellPeriod 2 0 = 3 * 1001000000 * 2 ^ 32 ∧
      60 * bellPeriod 3 0 = 3 * 1000000000 * 2 ^ 32 := by decide

/-- The C960 class of 02_armature.md. -/
def c960 : ClassRec :=
  { id := 2, layers := 0x1C, forms := 0x3F, voices := 32, width := 960, height := 540, tl := 562, vcpl := 2400, hstart := 240,
    pixcyc := 32, vspl := 2, sprFrame := 256, sprLine := 64, vramKib := 1024, wramKib := 1024, vsrcMax := 2048, timing := [],
    body := [] }

/-- A parish image of C960 cottages at 60 Hz on rectangles from core `c` and slot 0. -/
def c960Image (l : List (Nat × Nat × Nat)) : ParishArm :=
  { arm with
    classes := [c960]
    slots := l.map fun e =>
      { coreFirst := e.1, coreCount := e.2.1, slotFirst := 0, slotCount := e.2.2, cls := 2, flags := 1, owner := 1, sinkfmt := 1,
        audio := 1, routes := [] } }

/-- 02_armature.md's image of 185 C960 cottages passes every sum. -/
theorem test_c960_passes : up.checkSums (c960Image [(0, 6, 15), (6, 6, 15), (12, 1, 5)]) [5] = [] := by decide +kernel

/-- 02_armature.md's image of 192 C960 cottages fails LOOM and VCYCLE alone, without a record. -/
theorem test_c960_refused :
    up.checkSums (c960Image [(0, 12, 16)]) [5] = [(0x0B, 0xFFFF), (0x0C, 0xFFFF)] := by decide +kernel

/-- The surface of 11_chisel.md's straight copy: row 50, columns 100 to 107 hold 0x10 to 0x17. -/
def surface : Hw := Hw.reset.putBytes (50 * 320 + 100) [0x10, 0x11, 0x12, 0x13, 0x14, 0x15, 0x16, 0x17]

/-- Its copy, ascending or descending. -/
def shift (left : Bool) : Blit :=
  { op := 0, fmt := 1, keyen := false, rop := 0xC, src := .hbm 0, dst := .hbm 0, spitch := 320, dpitch := 320, sx := 100, sy := 50,
    dx := 102, dy := 50, w := 6, rows := 1, ex := 0, ey := 0, color := 0, key := 0, clips := [], up := false, left := left }

/-- The smear of 11_chisel.md's example. -/
theorem test_copy_smears :
    (surface.blitRun (shift false)).2.rbs (50 * 320 + 100) 8 = [0x10, 0x11, 0x10, 0x11, 0x10, 0x11, 0x10, 0x11] := by
  decide +kernel

/-- With XDIR 1 the same copy does not smear. -/
theorem test_copy_descending :
    (surface.blitRun (shift true)).2.rbs (50 * 320 + 100) 8 = [0x10, 0x11, 0x10, 0x11, 0x12, 0x13, 0x14, 0x15] := by
  decide +kernel

/-- Timer unit 4 of 12_interrupts_timers.md's example just before 800 ns: running, C at 1,004, compare value 1,005. -/
def unit4 : Hw :=
  ((up.setFld F.TMR_STAT_RUN 0 4 1).setFld F.TMR_CNT_CNT 0 4 1004).setFld F.TMR_CMP_CMP 0 4 1005

/-- The tick at 800 ns matches under rule (a): MATCH and DWELL are set, and the unit still runs. -/
theorem test_tick_matches :
    let t := unit4.timerTick 4 none
    (t.fld F.TMR_CNT_CNT 0 4, t.flag F.TMR_STAT_MATCH 0 4, t.flag F.TMR_STAT_DWELL 0 4, t.flag F.TMR_STAT_RUN 0 4) =
      (1005, true, true, true) := by decide +kernel

/-- The tick at 960 ns stops the unit at 1,005 and ends the dwell. -/
theorem test_tick_after_match_stops :
    let t := (unit4.timerTick 4 none).timerTick 4 none
    (t.fld F.TMR_CNT_CNT 0 4, t.flag F.TMR_STAT_RUN 0 4, t.flag F.TMR_STAT_DWELL 0 4) = (1005, false, false) := by decide +kernel

/-- The linked pair of 12_interrupts_timers.md's example after the carry: low half 3, high half 8. -/
def pair2 : Hw := ((up.setFld F.TMR_CTL_LINK 0 2 1).setFld F.TMR_CNT_CNT 0 2 3).setFld F.TMR_CNT_CNT 0 3 8

/-- The low read returns 3 and latches 8 for Reeve 1. -/
theorem test_pair_low_latches :
    ((pair2.tmrCntRead 1 2).1, (((pair2.tmrCntRead 1 2).2.setFld F.TMR_CNT_CNT 0 3 9).tmrCntRead 1 3).1) = (3, 8) := by
  decide +kernel

/-- The record of 15_power_startup_faults.md's stop-all, byte for byte. -/
theorem test_stop_all_record :
    recBytes 0x1A2B ⟨0x000451C0, 1, 1, 0x14, 0x01, 6, 0x860000000003A9C2, 0x0100200000062000⟩ =
      leBytes 8 0x000451C000001A2B ++ leBytes 8 0x0000000601140101 ++ leBytes 8 0x860000000003A9C2 ++
        leBytes 8 0x0100200000062000 := by decide +kernel

/-- The crossfade of 07_choir.md's example, 240 mix samples long from 1,000,064. -/
def fading : Hw :=
  up.modChoir 0x212 fun s => { s with routes := [(1, ⟨0x80, 4096, 0x82, 4096, 1000064, 240⟩)] }

/-- Its gains at its first sample and at k = 60. -/
theorem test_route_crossfade :
    fading.routeGains 0x212 1 1000064 = [(0x82, 17), (0x80, 4079)] ∧
      fading.routeGains 0x212 1 1000123 = [(0x82, 1024), (0x80, 3072)] := by decide +kernel

/-- The left bus of that example at those gains. -/
theorem test_route_outputs :
    [17, 4079, 1024, 3072].map (routeOut 2097152) = [8704, 2088448, 524288, 1572864] := by decide

/-- The weights of 09_larder_arbitration.md's example: the Loom 64, the Hob 64, the Choir 8. -/
def weighted : Hw := up.setReg .ARB_W 4 0 0x084040

/-- A grant of 128 bytes costs 2 of a requester's 512 credits. -/
theorem test_grant_costs_two_credits :
    let a : Arbiter := .parish 4
    let t := (weighted.arbWindow a).arbiterGrant a [⟨0, 0, 128, 0, false⟩] [] false ⟨[], [], false⟩
    ((List.range 3).map fun r => NTable.get 0 (t.arbOf a).credit r) = [510, 512, 64] := by decide +kernel

/-- The digest of "abc", from FIPS 180-4's own example of SHA-384. -/
theorem test_sha384_abc :
    Crypto.sha384 [0x61, 0x62, 0x63] =
      0xCB00753F45A35E8BB5A03D699AC65007272C32AB0EDED1631A8B605A43FF5BED8086072BA1E7CC2358BAECA134C825A7 := by
  decide +kernel

/-! ### Well-formed commands -/

/-- A command of each row: register writes. -/
theorem test_wf_accepts_register_writes :
    (([.registerWrite (.pf 0) 0 0 4 .read] : List Instr).all
      fun i => i.wf) = true := by decide

/-- An ill-formed command for each check: register writes. -/
theorem test_wf_refuses_register_writes :
    (([.registerWrite (.pf 2) 0 0 4 .read, .registerWrite (.pf 0) 258 0 4 .read,
       .registerWrite (.pf 0) 0 0x4000000 4 .read, .registerWrite (.pf 0) 0 0 0 .read,
       .registerWrite (.pf 0) 0 0 9 .read] : List Instr).all
      fun i => !i.wf) = true := by decide

/-- A command of each row: hob. -/
theorem test_wf_accepts_hob :
    (([.aluMov (.cottage 0) [] (.reg ⟨0, 0⟩ false), .aluAdd (.cottage 0) [] (.reg ⟨0, 0⟩ false),
       .aluAdc (.cottage 0) [] (.reg ⟨0, 0⟩ false), .aluSub (.cottage 0) [] (.reg ⟨0, 0⟩ false),
       .aluSbc (.cottage 0) [] (.reg ⟨0, 0⟩ false), .aluCmp (.cottage 0) [] (.reg ⟨0, 0⟩ false),
       .aluAnd (.cottage 0) [] (.reg ⟨0, 0⟩ false), .aluOr (.cottage 0) [] (.reg ⟨0, 0⟩ false),
       .aluXor (.cottage 0) [] (.reg ⟨0, 0⟩ false), .aluTst (.cottage 0) [] (.reg ⟨0, 0⟩ false),
       .aluShl (.cottage 0) [] (.reg ⟨0, 0⟩ false), .aluShr (.cottage 0) [] (.reg ⟨0, 0⟩ false),
       .aluSar (.cottage 0) [] (.reg ⟨0, 0⟩ false), .aluRol (.cottage 0) [] (.reg ⟨0, 0⟩ false),
       .aluRor (.cottage 0) [] (.reg ⟨0, 0⟩ false), .aluMul (.cottage 0) [] (.reg ⟨0, 0⟩ false),
       .cmovcc (.cottage 0) [] 0 ⟨0, 0⟩, .aluNeg (.cottage 0) [] ⟨0, 0⟩, .aluNot (.cottage 0) [] ⟨0, 0⟩,
       .sext8 (.cottage 0) [] ⟨0, 0⟩, .sext16 (.cottage 0) [] ⟨0, 0⟩, .mulh (.cottage 0) [] ⟨0, 0⟩,
       .mulhu (.cottage 0) [] ⟨0, 0⟩, .divu (.cottage 0) [] ⟨0, 0⟩, .divs (.cottage 0) [] ⟨0, 0⟩,
       .sel (.cottage 0) [] ⟨0, 0⟩ 0 0, .lea (.cottage 0) [] ⟨⟨0, 0⟩, 0, 0, 0, 0⟩, .bcc (.cottage 0) [] 0 0,
       .bccAnnul (.cottage 0) [] 0 0, .ld (.cottage 0) [] ⟨⟨0, 0⟩, 0, 0, 0, 0⟩ .hit,
       .lds (.cottage 0) [] ⟨⟨0, 0⟩, 0, 0, 0, 0⟩ .hit, .st (.cottage 0) [] ⟨⟨0, 0⟩, 0, 0, 0, 0⟩ .hit,
       .push (.cottage 0) [] ⟨0, 0⟩ .hit, .pop (.cottage 0) [] ⟨0, 0⟩ .hit,
       .stp (.cottage 0) [] ⟨⟨0, 0⟩, 0, 0, 0, 0⟩ .hit, .ldp (.cottage 0) [] ⟨⟨0, 0⟩, 0, 0, 0, 0⟩ .hit,
       .jmp (.cottage 0) [] (.rel 0), .call (.cottage 0) [] (.rel 0) .hit, .ret (.cottage 0) [] .hit,
       .reti (.cottage 0) [] .hit] ++
     [.waitline (.cottage 0) [] (.imm 0), .nop (.cottage 0) [] 0x80, .fence (.cottage 0) [], .flushp (.cottage 0) [],
       .barp (.cottage 0) [], .unbarp (.cottage 0) [], .movsRead (.cottage 0) [] ⟨0, 0⟩,
       .movsWrite (.cottage 0) [] ⟨0, 0⟩, .ei (.cottage 0) [], .di (.cottage 0) [], .wfi (.cottage 0) [],
       .eret (.cottage 0) []] : List Instr).all
      fun i => i.wf) = true := by decide

/-- An ill-formed command for each check: hob. -/
theorem test_wf_refuses_hob :
    (([.aluMov (.reeve 4) [] (.reg ⟨0, 0⟩ false), .aluAdd (.reeve 4) [] (.reg ⟨0, 0⟩ false),
       .aluAdc (.reeve 4) [] (.reg ⟨0, 0⟩ false), .aluSub (.reeve 4) [] (.reg ⟨0, 0⟩ false),
       .aluSbc (.reeve 4) [] (.reg ⟨0, 0⟩ false), .aluCmp (.reeve 4) [] (.reg ⟨0, 0⟩ false),
       .aluAnd (.reeve 4) [] (.reg ⟨0, 0⟩ false), .aluOr (.reeve 4) [] (.reg ⟨0, 0⟩ false),
       .aluXor (.reeve 4) [] (.reg ⟨0, 0⟩ false), .aluTst (.reeve 4) [] (.reg ⟨0, 0⟩ false),
       .aluShl (.reeve 4) [] (.reg ⟨0, 0⟩ false), .aluShr (.reeve 4) [] (.reg ⟨0, 0⟩ false),
       .aluSar (.reeve 4) [] (.reg ⟨0, 0⟩ false), .aluRol (.reeve 4) [] (.reg ⟨0, 0⟩ false),
       .aluRor (.reeve 4) [] (.reg ⟨0, 0⟩ false), .aluMul (.reeve 4) [] (.reg ⟨0, 0⟩ false),
       .cmovcc (.reeve 4) [] 0 ⟨0, 0⟩, .aluNeg (.reeve 4) [] ⟨0, 0⟩, .aluNot (.reeve 4) [] ⟨0, 0⟩,
       .sext8 (.reeve 4) [] ⟨0, 0⟩, .sext16 (.reeve 4) [] ⟨0, 0⟩, .mulh (.reeve 4) [] ⟨0, 0⟩,
       .mulhu (.reeve 4) [] ⟨0, 0⟩, .divu (.reeve 4) [] ⟨0, 0⟩, .divs (.reeve 4) [] ⟨0, 0⟩,
       .sel (.reeve 4) [] ⟨0, 0⟩ 0 0, .lea (.reeve 4) [] ⟨⟨0, 0⟩, 0, 0, 0, 0⟩, .bcc (.reeve 4) [] 0 0,
       .bccAnnul (.reeve 4) [] 0 0, .ld (.reeve 4) [] ⟨⟨0, 0⟩, 0, 0, 0, 0⟩ .hit,
       .lds (.reeve 4) [] ⟨⟨0, 0⟩, 0, 0, 0, 0⟩ .hit, .st (.reeve 4) [] ⟨⟨0, 0⟩, 0, 0, 0, 0⟩ .hit,
       .push (.reeve 4) [] ⟨0, 0⟩ .hit, .pop (.reeve 4) [] ⟨0, 0⟩ .hit, .stp (.reeve 4) [] ⟨⟨0, 0⟩, 0, 0, 0, 0⟩ .hit,
       .ldp (.reeve 4) [] ⟨⟨0, 0⟩, 0, 0, 0, 0⟩ .hit, .jmp (.reeve 4) [] (.rel 0), .call (.reeve 4) [] (.rel 0) .hit,
       .ret (.reeve 4) [] .hit, .reti (.reeve 4) [] .hit] ++
     [.waitline (.reeve 4) [] (.imm 0), .nop (.reeve 4) [] 0x80, .fence (.reeve 4) [], .flushp (.reeve 4) [],
       .barp (.reeve 4) [], .unbarp (.reeve 4) [], .movsRead (.reeve 4) [] ⟨0, 0⟩, .movsWrite (.reeve 4) [] ⟨0, 0⟩,
       .ei (.reeve 4) [], .di (.reeve 4) [], .wfi (.reeve 4) [], .eret (.reeve 4) [], .nop (.cottage 0) [] 0x81,
       .aluMov (.cottage 4096) [] (.imm ⟨0, 0⟩ 0 false)] : List Instr).all
      fun i => !i.wf) = true := by decide

/-- A command of each row: cottages. -/
theorem test_wf_accepts_cottages :
    (([.missDataReturn 0, .beamWaitEnd 0, .tallyFullResume 0, .parityHoldEnd 0, .interruptEntry 0, .reeveInterrupt 0,
       .schedulerPick 0 0, .bell 0, .bellRateWrite (.pf 0) 0 true 0, .bellSourceWrite (.pf 0) 0 0, .bellSourceLost 0,
       .bellRelock 0, .cotCtlRun (.pf 0) 0 true .sound, .cotCtlRst (.pf 0) 0, .cotCtlHalt (.pf 0) 0 true,
       .cotContextWrite (.pf 0) 0 0 0, .inputPush (.pf 0) 0 0, .inputApplied 0] : List Instr).all
      fun i => i.wf) = true := by decide

/-- An ill-formed command for each check: cottages. -/
theorem test_wf_refuses_cottages :
    (([.missDataReturn 4096, .beamWaitEnd 4096, .tallyFullResume 4096, .parityHoldEnd 4096, .interruptEntry 4096,
       .reeveInterrupt 4, .schedulerPick 16 0, .schedulerPick 0 16, .bell 16, .bellRateWrite (.pf 2) 0 true 0,
       .bellRateWrite (.pf 0) 16 true 0, .bellSourceWrite (.pf 2) 0 0, .bellSourceWrite (.pf 0) 16 0,
       .bellSourceLost 16, .bellRelock 16, .cotCtlRun (.pf 2) 0 true .sound, .cotCtlRun (.pf 0) 4096 true .sound,
       .cotCtlRst (.pf 2) 0, .cotCtlRst (.pf 0) 4096, .cotCtlHalt (.pf 2) 0 true, .cotCtlHalt (.pf 0) 4096 true,
       .cotContextWrite (.pf 2) 0 0 0, .cotContextWrite (.pf 0) 4096 0 0, .cotContextWrite (.pf 0) 0 19 0,
       .inputPush (.pf 2) 0 0, .inputPush (.pf 0) 4096 0, .inputApplied 4096] : List Instr).all
      fun i => !i.wf) = true := by decide

/-- A command of each row: armature. -/
theorem test_wf_accepts_armature :
    (([.validateParish (.pf 0) 0 0 0, .loadParish (.pf 0) 0 0 0, .validateModule (.pf 0) 0 0, .loadModule (.pf 0) 0 0,
       .armFetchDone .ok, .armCheckDone, .armComplete []] : List Instr).all
      fun i => i.wf) = true := by decide

/-- An ill-formed command for each check: armature. -/
theorem test_wf_refuses_armature :
    (([.validateParish (.pf 2) 0 0 0, .validateParish (.pf 0) 2 0 0, .validateParish (.pf 0) 0 65536 0,
       .validateParish (.pf 0) 0 0 4096, .loadParish (.pf 2) 0 0 0, .loadParish (.pf 0) 2 0 0,
       .loadParish (.pf 0) 0 65536 0, .loadParish (.pf 0) 0 0 4096, .validateModule (.pf 2) 0 0,
       .validateModule (.pf 0) 2 0, .validateModule (.pf 0) 0 4096, .loadModule (.pf 2) 0 0, .loadModule (.pf 0) 2 0,
       .loadModule (.pf 0) 0 4096] : List Instr).all
      fun i => !i.wf) = true := by decide

/-- A command of each row: looms. -/
theorem test_wf_accepts_looms :
    (([.reeveHalt (.pf 0) 0 true, .bmodeWrite (.pf 0) 0 true, .predOffWrite (.pf 0) 0 true,
       .visibleJob 0 0 .none .none, .blankingJob 0 0 .none .none, .jobResume 0 0 .none .none,
       .patternCacheFill 0 .none .none, .safeGap 0 0 []] : List Instr).all
      fun i => i.wf) = true := by decide

/-- An ill-formed command for each check: looms. -/
theorem test_wf_refuses_looms :
    (([.reeveHalt (.pf 2) 0 true, .reeveHalt (.pf 0) 4 true, .bmodeWrite (.pf 2) 0 true, .bmodeWrite (.pf 0) 4 true,
       .predOffWrite (.pf 2) 0 true, .predOffWrite (.pf 0) 4 true, .visibleJob 4096 0 .none .none,
       .visibleJob 0 4 .none .none, .blankingJob 4096 0 .none .none, .blankingJob 0 4 .none .none,
       .jobResume 4096 0 .none .none, .jobResume 0 4 .none .none, .patternCacheFill 4096 .none .none,
       .safeGap 4096 0 [], .safeGap 0 4 [], .safeGap 0 0 [2048]] : List Instr).all
      fun i => !i.wf) = true := by decide

/-- A command of each row: porch. -/
theorem test_wf_accepts_porch :
    (([.porchFlip 0 0 true, .streamEnable (.pf 0) 0 0, .porS1CtlWrite (.pf 0) 0 0, .refresh (.pf 0) 0 0,
       .edpEnable (.pf 0) 0 true, .edpGeometryWrite (.pf 0) 0 true 0, .edpPanelFrame 0 0 true, .edpLinkLost 0 true,
       .auxTransaction (.pf 0) 0 []] : List Instr).all
      fun i => i.wf) = true := by decide

/-- An ill-formed command for each check: porch. -/
theorem test_wf_refuses_porch :
    (([.porchFlip 4096 0 true, .porchFlip 0 2 true, .streamEnable (.pf 2) 0 0, .streamEnable (.pf 0) 4096 0,
       .porS1CtlWrite (.pf 2) 0 0, .porS1CtlWrite (.pf 0) 4096 0, .refresh (.pf 2) 0 0, .refresh (.pf 0) 4096 0,
       .refresh (.pf 0) 0 2, .edpEnable (.pf 2) 0 true, .edpEnable (.pf 0) 2 true,
       .edpGeometryWrite (.pf 2) 0 true 0, .edpGeometryWrite (.pf 0) 2 true 0, .edpPanelFrame 2 0 true,
       .edpLinkLost 2 true, .auxTransaction (.pf 2) 0 [], .auxTransaction (.pf 0) 2 []] : List Instr).all
      fun i => !i.wf) = true := by decide

/-- A command of each row: choir. -/
theorem test_wf_accepts_choir :
    (([.voiceSample 0 .none, .mixSample 0 [] [], .mixBlockBoundary 0, .routeWrite (.pf 0) 0 0 0,
       .chrBusWrite (.pf 0) 0 0, .hostAudioEnable (.pf 0) 0 0, .audio 0, .tdmPortFrame 0 true, .tdmSlip 0 true,
       .tdmConfigWrite (.pf 0) 0 0, .amclkSourceWrite (.pf 0) 0, .amclkLost, .amclkLock] : List Instr).all
      fun i => i.wf) = true := by decide

/-- An ill-formed command for each check: choir. -/
theorem test_wf_refuses_choir :
    (([.voiceSample 4096 .none, .mixSample 16 [] [], .mixBlockBoundary 16, .routeWrite (.pf 2) 0 0 0,
       .routeWrite (.pf 0) 4096 0 0, .routeWrite (.pf 0) 0 4 0, .chrBusWrite (.pf 2) 0 0,
       .chrBusWrite (.pf 0) 4096 0, .hostAudioEnable (.pf 2) 0 0, .hostAudioEnable (.pf 0) 4096 0, .audio 4096,
       .tdmPortFrame 2 true, .tdmSlip 2 true, .tdmConfigWrite (.pf 2) 0 0, .tdmConfigWrite (.pf 0) 2 0,
       .amclkSourceWrite (.pf 2) 0, .mixSample 0 [] [256], .mixSample 0 [⟨256, (0, 0), (0, 0), 0⟩] []] : List Instr).all
      fun i => !i.wf) = true := by decide

/-- A command of each row: granary. -/
theorem test_wf_accepts_granary :
    (([.cmapWrite (.pf 0) 0 0 0, .granuleArrival 0 0, .pageinFail 0 0 .ok, .cowCopyDone 0 0, .allocCmd (.pf 0) 0 0,
       .freeCmd (.pf 0) 0 0, .granaryDrop (.pf 0) 0 0, .readCmd (.pf 0) 0 0, .evacuate (.pf 0) 0 0,
       .evacuateRelease (.pf 0) 0 0, .evacuateDone 0] : List Instr).all
      fun i => i.wf) = true := by decide

/-- An ill-formed command for each check: granary. -/
theorem test_wf_refuses_granary :
    (([.cmapWrite (.pf 2) 0 0 0, .cmapWrite (.pf 0) 4096 0 0, .cmapWrite (.pf 0) 0 257 0, .granuleArrival 65536 0,
       .granuleArrival 0 16, .pageinFail 65536 0 .ok, .pageinFail 0 16 .ok, .cowCopyDone 65536 0, .cowCopyDone 0 16,
       .allocCmd (.pf 2) 0 0, .allocCmd (.pf 0) 2 0, .allocCmd (.pf 0) 0 4096, .freeCmd (.pf 2) 0 0,
       .freeCmd (.pf 0) 2 0, .freeCmd (.pf 0) 0 4096, .granaryDrop (.pf 2) 0 0, .granaryDrop (.pf 0) 2 0,
       .granaryDrop (.pf 0) 0 4096, .readCmd (.pf 2) 0 0, .readCmd (.pf 0) 2 0, .readCmd (.pf 0) 0 4096,
       .evacuate (.pf 2) 0 0, .evacuate (.pf 0) 2 0, .evacuate (.pf 0) 0 4096, .evacuateRelease (.pf 2) 0 0,
       .evacuateRelease (.pf 0) 2 0, .evacuateRelease (.pf 0) 0 4096, .evacuateDone 64] : List Instr).all
      fun i => !i.wf) = true := by decide

/-- A command of each row: hayloft. -/
theorem test_wf_accepts_hayloft :
    (([.capture (.pf 0) 0 0 0, .capturePoint 0 .sound, .restore (.pf 0) 0 0 0, .restoreTaken 0 true .sound,
       .snapshotDrop (.pf 0) 0 0 0, .exportCmd (.pf 0) 0 0 0, .exportDone 0 none, .importCmd (.pf 0) 0 0 0,
       .importDone 0 .ok, .cancel (.pf 0) 0] : List Instr).all
      fun i => i.wf) = true := by decide

/-- An ill-formed command for each check: hayloft. -/
theorem test_wf_refuses_hayloft :
    (([.capture (.pf 2) 0 0 0, .capture (.pf 0) 4096 0 0, .capture (.pf 0) 0 8 0, .capture (.pf 0) 0 0 4096,
       .capturePoint 4096 .sound, .restore (.pf 2) 0 0 0, .restore (.pf 0) 4096 0 0, .restore (.pf 0) 0 8 0,
       .restore (.pf 0) 0 0 4096, .restoreTaken 4096 true .sound, .snapshotDrop (.pf 2) 0 0 0,
       .snapshotDrop (.pf 0) 4096 0 0, .snapshotDrop (.pf 0) 0 8 0, .snapshotDrop (.pf 0) 0 0 4096,
       .exportCmd (.pf 2) 0 0 0, .exportCmd (.pf 0) 4096 0 0, .exportCmd (.pf 0) 0 8 0, .exportCmd (.pf 0) 0 0 4096,
       .exportDone 4096 none, .importCmd (.pf 2) 0 0 0, .importCmd (.pf 0) 4096 0 0, .importCmd (.pf 0) 0 8 0,
       .importCmd (.pf 0) 0 0 4096, .importDone 4096 .ok, .cancel (.pf 2) 0, .cancel (.pf 0) 4096] : List Instr).all
      fun i => !i.wf) = true := by decide

/-- A command of each row: larder. -/
theorem test_wf_accepts_larder :
    (([.retentionWrite (.pf 0) 0 0, .bankWake 0 0, .larderBankAccess 0 0 [], .selfRefreshEntry 0 0,
       .selfRefreshExit 0, .arbWindow (.parish 0), .arbiterGrant (.parish 0) [] [] true ⟨[], [], false⟩,
       .urgent (.parish 0) 0 0] : List Instr).all
      fun i => i.wf) = true := by decide

/-- An ill-formed command for each check: larder. -/
theorem test_wf_refuses_larder :
    (([.retentionWrite (.pf 2) 0 0, .retentionWrite (.pf 0) 16 0, .bankWake 16 0, .bankWake 0 64,
       .larderBankAccess 16 0 [], .larderBankAccess 0 64 [], .selfRefreshEntry 4 0, .selfRefreshExit 4,
       .arbWindow (.parish 16), .arbiterGrant (.parish 16) [] [] true ⟨[], [], false⟩, .urgent (.parish 16) 0 0,
       .larderBankAccess 0 0 [⟨7, .word 0, .read 0⟩], .larderBankAccess 0 0 [⟨0, .word 12288, .read 0⟩],
       .larderBankAccess 0 0 [⟨0, .region (.pcache 4) 0, .read 0⟩],
       .larderBankAccess 0 0 [⟨0, .region (.l2 16) 0, .read 0⟩], .larderBankAccess 0 0 [⟨0, .word 0, .read 3⟩],
       .arbiterGrant (.parish 0) [⟨6, 0, 64, 0, false⟩] [] false ⟨[], [], false⟩,
       .arbiterGrant (.channel 0) [⟨20, 0, 0, 0, false⟩] [] false ⟨[], [], false⟩,
       .arbiterGrant (.channel 0) [] [21] false ⟨[], [], false⟩,
       .arbiterGrant (.channel 64) [] [] false ⟨[], [], false⟩, .urgent (.parish 0) 6 0] : List Instr).all
      fun i => !i.wf) = true := by decide

/-- A command of each row: commons. -/
theorem test_wf_accepts_commons :
    (([.regionRegister (.pf 0) 0 true 0, .bar2Enable (.pf 0) 0 0, .inboundBar2Access 0 0 0 none,
       .ringEnable (.pf 0) 0 0 0, .comRingRet (.pf 0) 0 0 0, .ringErr 0 0, .errors 0, .comEqWrite (.pf 0) 0 0,
       .holdoffExpiry 0 0, .msixUnmask 0 (.function true)] : List Instr).all
      fun i => i.wf) = true := by decide

/-- An ill-formed command for each check: commons. -/
theorem test_wf_refuses_commons :
    (([.regionRegister (.pf 2) 0 true 0, .regionRegister (.pf 0) 258 true 0, .bar2Enable (.pf 2) 0 0,
       .bar2Enable (.pf 0) 258 0, .inboundBar2Access 258 0 0 none, .ringEnable (.pf 2) 0 0 0,
       .ringEnable (.pf 0) 258 0 0, .comRingRet (.pf 2) 0 0 0, .comRingRet (.pf 0) 258 0 0, .ringErr 258 0,
       .errors 258, .comEqWrite (.pf 2) 0 0, .comEqWrite (.pf 0) 258 0, .holdoffExpiry 258 0, .holdoffExpiry 0 4096,
       .msixUnmask 258 (.function true), .ringEnable (.pf 0) 0 8192 0, .ringEnable (.pf 0) 1 1024 0,
       .comRingRet (.pf 0) 0 8192 0, .ringErr 0 8192] : List Instr).all
      fun i => !i.wf) = true := by decide

/-- A command of each row: carter. -/
theorem test_wf_accepts_carter :
    (([.carterStart 0 0, .registerTransferDone 0 0 .sound, .chainRun (.pf 0) 0 0, .descriptorFetch 0 0,
       .descriptorDone 0 0 .sound, .nextRead 0 0, .carChDb (.pf 0) 0 0, .pause (.pf 0) 0 true 0,
       .pauseClear (.pf 0) 0 true 0, .pauseDrained 0 true 0 0, .chainAbort (.pf 0) 0 0 0,
       .registerChannelAbort (.pf 0) 0 0 0, .stopAll 0 0 0 .ok none [], .resume (.pf 0) 0] : List Instr).all
      fun i => i.wf) = true := by decide

/-- An ill-formed command for each check: carter. -/
theorem test_wf_refuses_carter :
    (([.carterStart 4096 0, .registerTransferDone 16 0 .sound, .registerTransferDone 0 16 .sound,
       .chainRun (.pf 2) 0 0, .chainRun (.pf 0) 16 0, .chainRun (.pf 0) 0 8, .descriptorFetch 16 0,
       .descriptorFetch 0 8, .descriptorDone 16 0 .sound, .descriptorDone 0 8 .sound, .nextRead 16 0, .nextRead 0 8,
       .carChDb (.pf 2) 0 0, .carChDb (.pf 0) 16 0, .carChDb (.pf 0) 0 8, .pause (.pf 2) 0 true 0,
       .pause (.pf 0) 16 true 0, .pauseClear (.pf 2) 0 true 0, .pauseClear (.pf 0) 16 true 0,
       .pauseDrained 16 true 0 0, .chainAbort (.pf 2) 0 0 0, .chainAbort (.pf 0) 16 0 0, .chainAbort (.pf 0) 0 8 0,
       .registerChannelAbort (.pf 2) 0 0 0, .registerChannelAbort (.pf 0) 16 0 0,
       .registerChannelAbort (.pf 0) 0 16 0, .stopAll 16 0 0 .ok none [], .stopAll 0 16 0 .ok none [],
       .resume (.pf 2) 0, .resume (.pf 0) 16, .pause (.pf 0) 0 true 16, .pause (.pf 0) 0 false 8,
       .pauseClear (.pf 0) 0 true 16, .pauseClear (.pf 0) 0 false 8, .pauseDrained 0 true 16 0,
       .pauseDrained 0 false 8 0, .stopAll 0 0 0 .timeout (some 2) []] : List Instr).all
      fun i => !i.wf) = true := by decide

/-- A command of each row: chisel. -/
theorem test_wf_accepts_chisel :
    (([.chiselStart 0 0, .vramBlitStart 0 0, .chiselTransferDone 0 0 .sound, .privilegedStart (.pf 0) 0 0 0,
       .privilegedDone 0 0 .sound, .readFail 0 0 0 .ok 0, .pReadFail 0 0 0 .ok 0] : List Instr).all
      fun i => i.wf) = true := by decide

/-- An ill-formed command for each check: chisel. -/
theorem test_wf_refuses_chisel :
    (([.chiselStart 4096 0, .vramBlitStart 16 0, .vramBlitStart 0 6, .chiselTransferDone 16 0 .sound,
       .chiselTransferDone 0 6 .sound, .privilegedStart (.pf 2) 0 0 0, .privilegedStart (.pf 0) 16 0 0,
       .privilegedStart (.pf 0) 0 2 0, .privilegedDone 16 0 .sound, .privilegedDone 0 2 .sound,
       .readFail 16 0 0 .ok 0, .readFail 0 6 0 .ok 0, .readFail 0 0 0 .ok 2, .pReadFail 16 0 0 .ok 0,
       .pReadFail 0 2 0 .ok 0, .pReadFail 0 0 0 .ok 2] : List Instr).all
      fun i => !i.wf) = true := by decide

/-- A command of each row: interrupts. -/
theorem test_wf_accepts_interrupts :
    (([.picTake (.pf 0) 0 0, .picAct (.pf 0) 0 0 0, .picSet (.pf 0) 0 0 0, .picEnWrite (.pf 0) 0 0 0, .notification 0,
       .vanishSample 0 0, .cibTake 0, .cibAct 0 0, .cibSet 0 0, .cibVtCtl 0 0 0, .vtFire 0 0] : List Instr).all
      fun i => i.wf) = true := by decide

/-- An ill-formed command for each check: interrupts. -/
theorem test_wf_refuses_interrupts :
    (([.picTake (.pf 2) 0 0, .picTake (.pf 0) 16 0, .picTake (.pf 0) 0 16, .picAct (.pf 2) 0 0 0,
       .picAct (.pf 0) 16 0 0, .picAct (.pf 0) 0 16 0, .picSet (.pf 2) 0 0 0, .picSet (.pf 0) 16 0 0,
       .picSet (.pf 0) 0 16 0, .picEnWrite (.pf 2) 0 0 0, .picEnWrite (.pf 0) 16 0 0, .picEnWrite (.pf 0) 0 16 0,
       .notification 16, .vanishSample 16 0, .vanishSample 0 512, .cibTake 4096, .cibAct 4096 0, .cibSet 4096 0,
       .cibVtCtl 4096 0 0, .cibVtCtl 0 4 0, .vtFire 4096 0, .vtFire 0 4] : List Instr).all
      fun i => !i.wf) = true := by decide

/-- A command of each row: timers. -/
theorem test_wf_accepts_timers :
    (([.tmrArm (.pf 0) 0 0, .tmrStop (.pf 0) 0, .tmrCmpWrite (.pf 0) 0 0, .timerTick 0 none, .timerCapture 0 true,
       .lfclkStep 0, .pairLowRead (.pf 0) 0, .pairHighRead (.pf 0) 0] : List Instr).all
      fun i => i.wf) = true := by decide

/-- An ill-formed command for each check: timers. -/
theorem test_wf_refuses_timers :
    (([.tmrArm (.pf 2) 0 0, .tmrArm (.pf 0) 16 0, .tmrStop (.pf 2) 0, .tmrStop (.pf 0) 16, .tmrCmpWrite (.pf 2) 0 0,
       .tmrCmpWrite (.pf 0) 16 0, .timerTick 16 none, .timerCapture 16 true, .lfclkStep 16, .pairLowRead (.pf 2) 0,
       .pairLowRead (.pf 0) 8, .pairHighRead (.pf 2) 0, .pairHighRead (.pf 0) 8] : List Instr).all
      fun i => !i.wf) = true := by decide

/-- A command of each row: lanes. -/
theorem test_wf_accepts_lanes :
    (([.functionSwitch (.pf 0) 0 0 true, .handoverTake 0, .lanOutWrite (.pf 0) 0 0, .lanSecWrite (.pf 0) 0,
       .wakeLane 0, .bellRefEdge, .bellRefLost 0, .uartTx (.pf 0) 0 0, .uartRxByte 0 0 0, .spiTx (.pf 0) 0 0 0,
       .i2cCmd (.pf 0) 0 0 0 0] : List Instr).all
      fun i => i.wf) = true := by decide

/-- An ill-formed command for each check: lanes. -/
theorem test_wf_refuses_lanes :
    (([.functionSwitch (.pf 2) 0 0 true, .functionSwitch (.pf 0) 48 0 true, .handoverTake 48,
       .lanOutWrite (.pf 2) 0 0, .lanOutWrite (.pf 0) 3 0, .lanSecWrite (.pf 2) 0, .wakeLane 48, .bellRefLost 16,
       .uartTx (.pf 2) 0 0, .uartTx (.pf 0) 2 0, .uartRxByte 2 0 0, .spiTx (.pf 2) 0 0 0, .spiTx (.pf 0) 2 0 0,
       .i2cCmd (.pf 2) 0 0 0 0, .i2cCmd (.pf 0) 2 0 0 0] : List Instr).all
      fun i => !i.wf) = true := by decide

/-- A command of each row: treadles. -/
theorem test_wf_accepts_treadles :
    (([.treadleStep 0 0 true, .treadleEnable (.pf 0) 0 0, .treadleDisable (.pf 0) 0 0, .treadleCommit (.pf 0) 0,
       .flush (.pf 0) 0, .trdTxfWrite (.pf 0) 0 0, .trdRxfRead (.pf 0) 0, .lutWrite (.pf 0) 0 0 0] : List Instr).all
      fun i => i.wf) = true := by decide

/-- An ill-formed command for each check: treadles. -/
theorem test_wf_refuses_treadles :
    (([.treadleStep 8 0 true, .treadleEnable (.pf 2) 0 0, .treadleEnable (.pf 0) 8 0, .treadleDisable (.pf 2) 0 0,
       .treadleDisable (.pf 0) 8 0, .treadleCommit (.pf 2) 0, .treadleCommit (.pf 0) 8, .flush (.pf 2) 0,
       .flush (.pf 0) 8, .trdTxfWrite (.pf 2) 0 0, .trdTxfWrite (.pf 0) 8 0, .trdRxfRead (.pf 2) 0,
       .trdRxfRead (.pf 0) 8, .lutWrite (.pf 2) 0 0 0, .lutWrite (.pf 0) 8 0 0, .lutWrite (.pf 0) 0 1024 0] : List Instr).all
      fun i => !i.wf) = true := by decide

/-- A command of each row: banks. -/
theorem test_wf_accepts_banks :
    (([.stage (.pf 0) 0 0 0, .swap (.pf 0) 0 0 0, .stageDone .ok] : List Instr).all
      fun i => i.wf) = true := by decide

/-- An ill-formed command for each check: banks. -/
theorem test_wf_refuses_banks :
    (([.stage (.pf 2) 0 0 0, .stage (.pf 0) 2 0 0, .stage (.pf 0) 0 65536 0, .stage (.pf 0) 0 0 4096,
       .swap (.pf 2) 0 0 0, .swap (.pf 0) 2 0 0, .swap (.pf 0) 0 65536 0, .swap (.pf 0) 0 0 4096,
       .stage (.vf 0 0) 0 0 0, .stage (.vf 0 129) 0 0 0, .stage (.reeve 4 .io) 0 0 0, .stage (.cottage 4096) 0 0 0] : List Instr).all
      fun i => !i.wf) = true := by decide

/-- A command of each row: fabric. -/
theorem test_wf_accepts_fabric :
    (([.moduleReset, .portReset 0 0, .linkUp 0 0 0 true 0, .flr 0 1, .pfFlr 0, .flrComplete 0, .vfEnableClear 0 0,
       .d3hotEntry 0, .d0Return 0, .ltrMessage 0 none true true true, .aspmL1Entry 0, .l1Exit 0, .ptmRefresh 0 true,
       .ptmLost 0, .epochWrite (.pf 0) 0, .unsupportedRequest 0] : List Instr).all
      fun i => i.wf) = true := by decide

/-- An ill-formed command for each check: fabric. -/
theorem test_wf_refuses_fabric :
    (([.portReset 2 0, .portReset 0 3, .linkUp 2 0 0 true 0, .flr 2 1, .flr 0 0, .flr 0 129, .pfFlr 2,
       .flrComplete 258, .vfEnableClear 2 0, .vfEnableClear 0 129, .d3hotEntry 258, .d0Return 258,
       .ltrMessage 2 none true true true, .aspmL1Entry 2, .l1Exit 2, .ptmRefresh 2 true, .ptmLost 2,
       .epochWrite (.pf 2) 0, .unsupportedRequest 2] : List Instr).all
      fun i => !i.wf) = true := by decide

/-- A command of each row: identity. -/
theorem test_wf_accepts_identity :
    (([.getVersion 0 [], .getCapabilities 0 [], .negotiateAlgorithms 0 [], .getDigests 0 [], .getCertificate 0 [],
       .challenge 0 [], .getMeasurements 0 [], .spdmUnsupported 0 [], .setEndpointId 0 0 0, .getEndpointId 0,
       .getMctpVersionSupport 0 0, .getMessageTypeSupport 0] : List Instr).all
      fun i => i.wf) = true := by decide

/-- An ill-formed command for each check: identity. -/
theorem test_wf_refuses_identity :
    (([.getVersion 3 [], .getCapabilities 3 [], .negotiateAlgorithms 3 [], .getDigests 3 [], .getCertificate 3 [],
       .challenge 3 [], .getMeasurements 3 [], .spdmUnsupported 3 []] : List Instr).all
      fun i => !i.wf) = true := by decide

/-- A command of each row: pmbus. -/
theorem test_wf_accepts_pmbus :
    (([.clearFaults 0 [40, 50, 30], .capability, .statusByte, .statusWord, .statusInputRead, .statusTemperature,
       .statusCmlRead, .readVin 0, .readIin 0, .readPin 0, .readTemperature1 0, .readTemperature2 0,
       .readTemperature3 0, .pmbusRevision, .mfrId, .mfrModel, .unsupportedCommand 0, .pecError, .alertResponse] : List Instr).all
      fun i => i.wf) = true := by decide

/-- An ill-formed command for each check: pmbus. -/
theorem test_wf_refuses_pmbus :
    (([.clearFaults 1200 [40, 50]] : List Instr).all
      fun i => !i.wf) = true := by decide

/-- A command of each row: power. -/
theorem test_wf_accepts_power :
    (([.standbyReady 0 true true, .uvloFall 0, .powerLoss 0, .lowvinSet 0, .lowvinClear 0, .cclkSwitch, .ovWarning 0,
       .sleep (.pf 0) true, .sleepExit, .pwrfail true 0 0, .tempWarn 1 0, .thermCrit 1 0, .coreRailRemoval] : List Instr).all
      fun i => i.wf) = true := by decide

/-- An ill-formed command for each check: power. -/
theorem test_wf_refuses_power :
    (([.sleep (.pf 2) true, .tempWarn 0 0, .tempWarn 4 0, .thermCrit 0 0, .thermCrit 3 0] : List Instr).all
      fun i => !i.wf) = true := by decide

/-- A command of each row: startup. -/
theorem test_wf_accepts_startup :
    (([.go 0 0, .bootFetchDone 0 .ok, .bootCheckDone 0, .fieldArmatureApply, .hbmTrained 0, .parishCalibrated 0,
       .larder (.pf 0) 0 0 0, .loom (.pf 0) 0 0 0, .hbmTest (.pf 0) 0 0 0, .retrain (.pf 0) 0 0 0, .testDone 0 0,
       .injected (.pf 0) 0] : List Instr).all
      fun i => i.wf) = true := by decide

/-- An ill-formed command for each check: startup. -/
theorem test_wf_refuses_startup :
    (([.go 2 0, .go 0 4096, .bootFetchDone 2 .ok, .bootCheckDone 2, .hbmTrained 64, .parishCalibrated 16,
       .larder (.pf 2) 0 0 0, .larder (.pf 0) 2 0 0, .larder (.pf 0) 0 16 0, .larder (.pf 0) 0 0 4096,
       .loom (.pf 2) 0 0 0, .loom (.pf 0) 2 0 0, .loom (.pf 0) 0 16 0, .loom (.pf 0) 0 0 4096,
       .hbmTest (.pf 2) 0 0 0, .hbmTest (.pf 0) 2 0 0, .hbmTest (.pf 0) 0 64 0, .hbmTest (.pf 0) 0 0 4096,
       .retrain (.pf 2) 0 0 0, .retrain (.pf 0) 2 0 0, .retrain (.pf 0) 0 64 0, .retrain (.pf 0) 0 0 4096,
       .injected (.pf 2) 0] : List Instr).all
      fun i => !i.wf) = true := by decide

/-- A command of each row: firmware. -/
theorem test_wf_accepts_firmware :
    (([.fwStage (.pf 0) 0, .fwStageDone .ok, .switch (.pf 0) 0, .ack (.pf 0), .force (.pf 0) 0,
       .perstRelease true true, .configSpaceWrite 0 (.bme true), .edpLinkTrained 0 .plugged, .smbusTimeout] : List Instr).all
      fun i => i.wf) = true := by decide

/-- An ill-formed command for each check: firmware. -/
theorem test_wf_refuses_firmware :
    (([.fwStage (.pf 2) 0, .fwStage (.pf 0) 4096, .switch (.pf 2) 0, .switch (.pf 0) 4096, .ack (.pf 2),
       .force (.pf 2) 0, .force (.pf 0) 4096, .configSpaceWrite 258 (.bme true), .edpLinkTrained 2 .plugged] : List Instr).all
      fun i => !i.wf) = true := by decide

/-! ### Witnesses of the obligations' hypotheses -/

theorem witness_StepRunsFront :
    (∃ (s : State) (i : Instr) (rest : List Instr), s.pending = i :: rest) ∧
    (∃ (s : State), s.pending = []) :=
  ⟨⟨⟨running, [.bell 0]⟩, .bell 0, [], by decide +kernel⟩,
   ⟨st running, by decide +kernel⟩⟩

theorem witness_PowerLegalKept :
    (∃ (s : State) (t : State), PowerLegal s.hw.power ∧ step s = .next t) :=
  ⟨st running, st running, ⟨by decide, by decide, by decide⟩, rfl⟩

theorem witness_BellRateAndSourceWrites :
    (∃ (s : State) (ag : Agent) (n : Nat) (v : DWord), s.hw.act = true ∧ s.hw.sees ag .BEL_PERIOD n 0 = true ∧
        s.hw.changesLocked ag .BEL_PERIOD n 0 v.toNat = false ∧ s.hw.rateOk n 0 v.toNat = true) ∧
    (∃ (s : State) (ag : Agent) (n : Nat) (v : DWord), s.hw.act = true ∧ s.hw.sees ag .BEL_CTL n 0 = true ∧
        s.hw.changesLocked ag .BEL_CTL n 0 v.toNat = false ∧ bits v.toNat 7 6 ≠ 3 ∧
            bits v.toNat 2 1 ≠ s.hw.fld F.BEL_CTL_PRESET n ∧
            s.hw.rateOk n (bits v.toNat 2 1) (s.hw.reg .BEL_PERIOD n).toNat = true) ∧
    (∃ (s : State) (ag : Agent) (n : Nat) (src : BitVec 2), s.hw.act = true ∧ s.hw.sees ag .BEL_CTL n 0 = true ∧
        s.hw.changesLocked ag .BEL_CTL n 0 (setBits (s.hw.reg .BEL_CTL n).toNat 7 6 src.toNat) = false ∧ src ≠ 3) :=
  ⟨⟨st running, .pf 0, 0, 16666667 * 0x100000000, by decide +kernel⟩,
   ⟨st running, .pf 0, 0, 2, by decide +kernel⟩,
   ⟨st running, .pf 0, 0, 0, by decide +kernel⟩⟩

theorem witness_BellLockLostAndRegained :
    (∃ (s : State) (n : Nat), s.hw.act = true ∧ (s.hw.parish n).bellRuns = true ∧ (s.hw.parish n).srcInForce ≠ 0 ∧
        (s.hw.parish n).lockLostNow = false) ∧
    (∃ (s : State) (n : Nat), s.hw.act = true ∧ (s.hw.parish n).bellRuns = true ∧ s.hw.sourceGives n = true) :=
  ⟨⟨st (running.modParish 0 fun p => { p with srcInForce := 2 }), 0, by decide +kernel⟩,
   ⟨st (running.modParish 0 fun p => { p with srcInForce := 2, refEdge := true }), 0, by decide +kernel⟩⟩

theorem witness_BellAdvances :
    (∃ (s : State) (n : Nat), (s.hw.parish n).bellRuns = true ∧ (s.hw.act = true ∨ s.hw.power.asleep = true)) :=
  ⟨st running, 0, by decide +kernel⟩

theorem witness_SchedulingAndHalt :
    (∃ (s : State) (n : Nat) (core : Nat), s.hw.act = true ∧
        (s.hw.eligible n core = none ∨ (∃ d, s.hw.running n core = some d) ∧ s.hw.preempts n core = false)) ∧
    (∃ (s : State) (n : Nat) (core : Nat) (c : Nat), s.hw.act = true ∧ s.hw.eligible n core = some c ∧
        s.hw.running n core = none) ∧
    (∃ (s : State) (n : Nat) (core : Nat) (c : Nat) (d : Nat), s.hw.act = true ∧ s.hw.eligible n core = some c ∧
        s.hw.running n core = some d ∧ s.hw.preempts n core = true ∧ c ≠ d) ∧
    (∃ (s : State) (ag : Agent) (c : Nat), s.hw.act = true ∧ s.hw.sees ag .COT_CTL c 0 = true ∧ Hw.mayHalt ag = true ∧
        s.hw.ownerEnabled c = true ∧ (s.hw.slotOf c).isSome = true ∧ s.hw.flag F.COT_CTL_HALT c = false ∧
            (s.hw.ctx c).st ≠ .off ∧ (((s.hw.ctx c).st = .thold → s.hw.flag F.COT_CTL_RUN c = true))) ∧
    (∃ (s : State) (ag : Agent) (c : Nat), s.hw.act = true ∧ s.hw.sees ag .COT_CTL c 0 = true ∧ Hw.mayHalt ag = true ∧
        s.hw.ownerEnabled c = true ∧ (s.hw.slotOf c).isSome = true ∧ s.hw.flag F.COT_CTL_HALT c = true ∧
            (s.hw.ctx c).st = .halt ∧ (s.hw.ctx c).haltFrom ≠ .thold) :=
  ⟨⟨st up, 0, 0, by decide +kernel, .inl (by decide +kernel)⟩,
   ⟨st (running.modCtx 0 fun x => { x with st := .ready }), 0, 0, 0, by decide +kernel⟩,
   ⟨st (running.modCtx 1 fun x => { x with st := .ready, frame := 11, ahead := true }), 0, 0, 1, 0, by decide +kernel⟩,
   ⟨st running, .reeve 0 .io, 0, by decide +kernel⟩,
   ⟨st ((running.setFld F.COT_CTL_HALT 0 0 1).modCtx 0 fun x => { x with st := .halt, haltFrom := .ready }), .pf 0, 0,
       by decide +kernel⟩⟩

theorem witness_CottageRunAndReset :
    (∃ (s : State) (ag : Agent) (c : Nat) (ev : MapEvent), s.hw.act = true ∧ s.hw.sees ag .COT_CTL c 0 = true ∧
        s.hw.runWithout ag c = false) ∧
    (∃ (s : State) (ag : Agent) (c : Nat) (ev : MapEvent), s.hw.act = true ∧ s.hw.sees ag .COT_CTL c 0 = true ∧
        s.hw.ownerEnabled c = true ∧ (s.hw.slotOf c).isSome = true ∧ (s.hw.ctx c).st ≠ .off) ∧
    (∃ (s : State) (ag : Agent) (c : Nat), s.hw.act = true ∧ s.hw.sees ag .COT_CTL c 0 = true ∧
        s.hw.ownerEnabled c = true ∧ (s.hw.slotOf c).isSome = true ∧ (s.hw.ctx c).st = .off) :=
  ⟨⟨st running, .pf 0, 0, .sound, by decide +kernel⟩,
   ⟨st running, .pf 0, 0, .sound, by decide +kernel⟩,
   ⟨st up, .pf 0, 0, by decide +kernel⟩⟩

theorem witness_ContextViewAndInput :
    (∃ (s : State) (ag : Agent) (c : Nat) (r : Nat) (v : Word), s.hw.act = true ∧ r < 19 ∧ s.hw.sees ag (Hw.ctxName r) c (if r < 16 then r else 0) = true ∧ v ≠ s.hw.ctxView c r ∧ (s.hw.ctx c).st = .halt ∧ s.hw.unlocked ag (Hw.ctxName r) c = true) ∧
    (∃ (s : State) (ag : Agent) (c : Nat) (v : Word), s.hw.act = true ∧ s.hw.sees ag .COT_IN_VAL c 0 = true ∧
        (s.hw.ctx c).inq.length < 32 ∧ s.hw.fld F.COT_IN_TGT_LINE c < (s.hw.cls c).tl) ∧
    (∃ (s : State) (c : Nat) (e : InputEvent) (rest : List InputEvent), s.hw.act = true ∧ (s.hw.ctx c).inq = e :: rest ∧
        e.applied.le (s.hw.stamp c) = true ∧ s.hw.takesInput c = true ∧ s.hw.tallyFill c < 512) ∧
    (∃ (s : State) (c : Nat), s.hw.act = true ∧ (s.hw.ctx c).st = .dhold ∧ (s.hw.ctx c).wait = .parity ∧
        s.hw.rendered c ((s.hw.ctx c).frame - 2) = true) :=
  ⟨⟨st (running.modCtx 0 fun x => { x with st := .halt }), .pf 0, 0, 18, 7, by decide +kernel⟩,
   ⟨st running, .pf 0, 0, 0xFFFFFFFF, by decide +kernel⟩,
   ⟨st (running.modCtx 0 fun x => { x with inq := [⟨15, 1, 12, 0, ⟨12, 0⟩⟩] }), 0, ⟨15, 1, 12, 0, ⟨12, 0⟩⟩, [],
       by decide +kernel⟩,
   ⟨st (((running.setFld F.COT_CTL_RUN 0 0 1).modCtx 0 fun x => { x with st := .dhold, wait := .parity }).setCot 0 { running.cot 0 with ctx := { running.ctx 0 with st := .dhold, wait := .parity }, loom := { (running.cot 0).loom with frame := 11 }, choir := { (running.cot 0).choir with frame := 11 } }), 0, by decide +kernel⟩⟩

theorem witness_LoomJobsAdvance :
    (∃ (s : State) (c : Nat) (j : Nat) (stop : JobStop) (start : Hw) (g : Hw) (e : Hw.JobEnd), s.hw.act = true ∧ s.hw.takesJob c j = true ∧ (s.hw.cot c).loom.phase = .idle ∧ (s.hw.cot c).loom.line < (s.hw.cls c).height ∧ (start = (if (s.hw.cot c).loom.line = 0 then (s.hw.plinthApply c j (s.hw.cot c).loom.frame).modRelief c fun r => { r with zoneSum := [], total := 0 } else s.hw)) ∧ start.workPixels c j stop (!start.jobReady c) = (e, g)) ∧
    (∃ (s : State) (c : Nat) (j : Nat) (stop : JobStop) (g : Hw) (e : Hw.JobEnd), s.hw.act = true ∧
        s.hw.takesJob c j = true ∧ ((s.hw.cot c).loom.phase = .parked ∨ (s.hw.cot c).loom.phase = .yielded) ∧
            (s.hw.cot c).loom.line < (s.hw.cls c).height ∧ s.hw.workPixels c j stop (!s.hw.jobReady c) = (e, g)) ∧
    (∃ (s : State) (c : Nat) (j : Nat) (stop : JobStop) (start : Hw) (g : Hw) (e : Hw.JobEnd), s.hw.act = true ∧ (s.hw.cot c).loom.phase = .stalled j ∧ (start = ((s.hw.each (if (s.hw.cot c).loom.awaits.isNone then s.hw.nextLines c else []) fun h line => h.cacheFill c j line).modLoom c fun m => { m with phase := .idle, awaits := none }).loomShows c j false false) ∧ (start.cot c).loom.line < (start.cls c).height ∧ start.workPixels c j stop (!start.jobReady c) = (e, g)) ∧
    (∃ (s : State) (c : Nat) (j : Nat) (g : Hw), s.hw.act = true ∧ s.hw.takesJob c j = true ∧
        (s.hw.cot c).loom.phase = .idle ∧ (s.hw.cls c).height ≤ (s.hw.cot c).loom.line ∧
            s.hw.applyBefore c ⟨(s.hw.cot c).loom.frame + 1, 0⟩ = (.ok, g) ∧ g.jobReady c = true) ∧
    (∃ (s : State) (c : Nat) (j : Nat) (path : List Nat), s.hw.act = true ∧ s.hw.takesJob c j = true ∧ path.length = 64 ∧
        unsafePath (((s.hw.parish (c / 256)).active.map (·.words)).getD []) path = true) :=
  ⟨⟨st running, 0, 0, .none, _, _, _, by decide +kernel, by decide +kernel, by decide +kernel, by decide +kernel, rfl,
      (Prod.eta _).symm⟩,
   ⟨st (running.modLoom 0 fun m => { m with phase := .yielded, line := 479, x := 3 }), 0, 0, .yield 3 0, _, _,
       by decide +kernel, by decide +kernel, by decide +kernel, by decide +kernel, (Prod.eta _).symm⟩,
   ⟨st (running.modLoom 0 fun m => { m with phase := .stalled 3 }), 0, 3, .none, _, _, _, by decide +kernel,
       by decide +kernel, rfl, by decide +kernel, (Prod.eta _).symm⟩,
   ⟨st (running.modLoom 0 fun m => { m with line := 480 }), 0, 0, _, by decide +kernel, by decide +kernel,
       by decide +kernel, by decide +kernel, rfl, by decide +kernel⟩,
   ⟨st running, 0, 3, List.range 64, by decide +kernel⟩⟩

theorem witness_StreamControlAndFlips :
    (∃ (s : State) (ag : Agent) (c : Nat) (v : Word), s.hw.act = true ∧ s.hw.sees ag .POR_S0_CTL c 0 = true ∧
        s.hw.changesLocked ag .POR_S0_CTL c 0 v.toNat = false ∧
            s.hw.streamCtlOk c (s.hw.streamFn c 0) (bits (s.hw.reg .POR_S0_CTL c).toNat 7 5) v.toNat
            (bits v.toNat 31 16 ≠ bits (s.hw.reg .POR_S0_CTL c).toNat 31 16 || !bit (s.hw.reg .POR_S0_CTL c).toNat 0)
            = true) ∧
    (∃ (s : State) (ag : Agent) (c : Nat) (p : Nat) (v : Word), s.hw.act = true ∧ s.hw.portOf c = some p ∧
        s.hw.sees ag .POR_S1_CTL p c = true ∧ s.hw.changesLocked ag .POR_S1_CTL p c v.toNat = false ∧
            ((bit v.toNat 0 = true → s.hw.damageReliant c = true ∨ s.hw.outputSum p + Hw.pictureRate (s.hw.cls c)
            (bits v.toNat 7 5) (s.hw.bellMaxOf c) ≤ Hw.outputLimit)) ∧
            s.hw.streamCtlOk c (129 * p) (bits v.toNat 7 5) v.toNat
            (bits v.toNat 31 16 ≠ bits (s.hw.reg .POR_S1_CTL p c).toNat 31 16 || !bit (s.hw.reg .POR_S1_CTL p c).toNat 0)
            = true) ∧
    (∃ (s : State) (ag : Agent) (c : Nat), s.hw.act = true ∧ s.hw.sees ag .POR_S0_CTL c 0 = true ∧
        (let v := (BitVec.ofNat 32 (setBits (s.hw.reg .POR_S0_CTL c).toNat 1 1 1)).toNat
     s.hw.changesLocked ag .POR_S0_CTL c 0 v = false ∧
     s.hw.streamCtlOk c (s.hw.streamFn c 0) (bits (s.hw.reg .POR_S0_CTL c).toNat 7 5) v
      (bits v 31 16 ≠ bits (s.hw.reg .POR_S0_CTL c).toNat 31 16 || !bit (s.hw.reg .POR_S0_CTL c).toNat 0) = true)) ∧
    (∃ (s : State) (c : Nat) (k : Nat) (late : Bool) (r : Nat) (e : RingRec), s.hw.act = true ∧
        (((s.hw.closedSets (s.hw.streamFn c k) c k).find? fun x =>
            (s.hw.closedSets (s.hw.streamFn c k) c k).all fun y => decide (x.2.set ≤ y.2.set)) = some (r, e))) :=
  ⟨⟨st running, .pf 0, 0, 0, by decide +kernel⟩,
   ⟨st running, .pf 0, 0, 0, 0, by decide +kernel⟩,
   ⟨st running, .pf 0, 0, by decide +kernel⟩,
   ⟨st (running.modFn 1 fun f => { f with rq := [(0, [⟨0, 0, 4, 11, 5, [1], false, false⟩])] }), 0, 0, false, 0,
       ⟨0, 0, 4, 11, 5, [1], false, false⟩, by decide +kernel⟩⟩

theorem witness_EdpPortRuns :
    (∃ (s : State) (ag : Agent) (e : Nat) (v : Nat), s.hw.act = true ∧ s.hw.sees ag .POR_EDP_CTL 0 e = true ∧
        v = setBits (s.hw.reg .POR_EDP_CTL 0 e).toNat 0 0 1 ∧ s.hw.edpWriter ag (bits v 31 20) = true ∧
            s.hw.edpWriter ag (bits (s.hw.reg .POR_EDP_CTL 0 e).toNat 31 20) = true ∧
            s.hw.edpGeometry e (bits v 31 20) (bit v 8) (s.hw.reg .POR_EDP_DST 0 e).toNat = true ∧
            s.hw.edpBuffer e ((s.hw.portOf (bits v 31 20)).getD 0) = true ∧ s.hw.edpClockOk e = true ∧ bits v 7 6 ≠ 3 ∧
            bits v 5 4 ≠ 3 ∧ s.hw.flag F.POR_EDP_STAT_ACTIVE 0 e = false ∧ (s.hw.edpPort e).training = false) ∧
    (∃ (s : State) (ag : Agent) (e : Nat) (v : Nat), s.hw.act = true ∧ s.hw.sees ag .POR_EDP_CTL 0 e = true ∧
        v = setBits (s.hw.reg .POR_EDP_CTL 0 e).toNat 0 0 0 ∧ s.hw.edpWriter ag (bits v 31 20) = true ∧
            s.hw.edpWriter ag (bits (s.hw.reg .POR_EDP_CTL 0 e).toNat 31 20) = true ∧ bits v 7 6 ≠ 3 ∧ bits v 5 4 ≠ 3 ∧
            (s.hw.reg .POR_EDP_DST 0 e).toNat = 0) ∧
    (∃ (s : State) (ag : Agent) (e : Nat) (v : DWord), s.hw.act = true ∧ s.hw.sees ag .POR_EDP_DST 0 e = true ∧
        s.hw.edpWriter ag (bits (s.hw.reg .POR_EDP_CTL 0 e).toNat 31 20) = true ∧
            s.hw.edpGeometry e (bits (s.hw.reg .POR_EDP_CTL 0 e).toNat 31 20) (bit (s.hw.reg .POR_EDP_CTL 0 e).toNat 8)
            v.toNat = true) ∧
    (∃ (s : State) (e : Nat) (psr2 : Bool), s.hw.act = true ∧ (s.hw.edpPort e).training = true ∧
        s.hw.flag F.POR_EDP_CTL_EN 0 e = true) ∧
    (∃ (s : State) (e : Nat) (gran : Nat), s.hw.act = true ∧ s.hw.flag F.POR_EDP_STAT_ACTIVE 0 e = true ∧
        s.hw.flag F.POR_EDP_STAT_PSR2_ACT 0 e = true ∧ (s.hw.edpPort e).lines ≠ [] ∧ 1 ≤ gran) ∧
    (∃ (s : State) (e : Nat) (hpd : Bool), s.hw.act = true ∧
        (s.hw.flag F.POR_EDP_STAT_ACTIVE 0 e = true ∨ (s.hw.edpPort e).training = true)) ∧
    (∃ (s : State) (ag : Agent) (e : Nat) (l : List Word), s.hw.act = true ∧ s.hw.sees ag .POR_EDP_AUX 0 (8 * e) = true ∧
        s.hw.edpWriter ag (s.hw.fld F.POR_EDP_CTL_SRC 0 e) = true) :=
  ⟨⟨st (((List.range 9).foldl (fun (h : Hw) k => h.setFrame (256 + k) { Frame.free with state := .priv, owner := 0 })
      ((((running.setFld F.POR_EDP_TIM_TIM 0 0 1920).setFld F.POR_EDP_TIM_TIM 0 1 1080).setFld F.POR_EDP_FB_ADDR 0 0 0x10000).setReg .POR_EDP_DST 0 0 0x01E0028000000000))), .pf 0, 0, setBits (running.reg .POR_EDP_CTL 0 0).toNat 0 0 1, by decide +kernel⟩,
   ⟨st running, .pf 0, 0, setBits (running.reg .POR_EDP_CTL 0 0).toNat 0 0 0, by decide +kernel⟩,
   ⟨st (((((running.setFld F.POR_EDP_TIM_TIM 0 0 1920).setFld F.POR_EDP_TIM_TIM 0 1 1080).setFld F.POR_EDP_FB_ADDR 0 0 0x10000).setReg .POR_EDP_DST 0 0 0x01E0028000000000)), .pf 0, 0, 0x01E0028000000000, by decide +kernel⟩,
   ⟨st ((running.setEdpPort 0 { running.edpPort 0 with training := true }).setFld F.POR_EDP_CTL_EN 0 0 1), 0, false,
       by decide +kernel⟩,
   ⟨st (((running.setFld F.POR_EDP_STAT_ACTIVE 0 0 1).setFld F.POR_EDP_STAT_PSR2_ACT 0 0 1).setEdpPort 0 { running.edpPort 0 with lines := [(5, 900)] }), 0, 4, by decide +kernel⟩,
   ⟨st (running.setEdpPort 0 { running.edpPort 0 with training := true }), 0, false, by decide +kernel⟩,
   ⟨st running, .pf 0, 0, [], by decide +kernel⟩⟩

theorem witness_ChoirSamplesAndBlocks :
    (∃ (s : State) (c : Nat) (g : Hw), s.hw.act = true ∧ (s.hw.slotOf c).isSome = true ∧ (s.hw.ctx c).st ≠ .cont ∧
        s.hw.sampleDue c = true ∧ s.hw.genSample c = (none, g)) ∧
    (∃ (s : State) (c : Nat), s.hw.act = true ∧ (s.hw.slotOf c).isSome = true ∧ (s.hw.ctx c).st ≠ .cont ∧
        s.hw.sampleDue c = true) ∧
    (∃ (s : State) (n : Nat) (m : Nat) (clocks : List BridgeClock) (realign : List Nat), s.hw.act = true ∧
        (s.hw.parish n).arm.isSome = true ∧ s.hw.fld F.CHR_MIXPOS_POS n = m) ∧
    (∃ (s : State) (n : Nat), s.hw.act = true ∧ (s.hw.parish n).arm.isSome = true ∧ s.hw.fld F.CHR_MIXPOS_POS n % 64 = 0) ∧
    (∃ (s : State) (c : Nat), s.hw.act = true ∧ 240 ≤ (s.hw.cot c).choir.samples.length ∧
        ((s.hw.cot c).choir.mute = true ∨ s.hw.audioRoom c (1 + (s.hw.cot c).choir.gaps.length) = false) ∧
            (s.hw.cot c).choir.restart = none) :=
  ⟨⟨st running, 0, _, by decide +kernel, by decide +kernel, by decide +kernel, by decide +kernel, rfl⟩,
   ⟨st running, 0, by decide +kernel⟩,
   ⟨st running, 0, 0, [⟨0, (12, 1), (12, 2), 0⟩], [], by decide +kernel⟩,
   ⟨st running, 0, by decide +kernel⟩,
   ⟨st (running.modChoir 0 fun x => { x with samples := List.replicate 240 ⟨1, 1, false, false, none⟩, mute := true }), 0,
       by decide +kernel⟩⟩

theorem witness_ChoirRouteAndBusWrites :
    (∃ (s : State) (ag : Agent) (c : Nat) (r : Nat) (v : Word), s.hw.act = true ∧
        s.hw.sees ag .CHR_RT (c / 256) (c % 256 * 4 + r) = true ∧
            s.hw.changesLocked ag .CHR_RT (c / 256) (c % 256 * 4 + r) v.toNat = false ∧
            Hw.sinkOk (bits v.toNat 7 0) = true ∧
            ((bits v.toNat 7 0 = 0 ∨ ∀ k, k < 4 → k ≠ r → s.hw.routeTwice c r k (bits v.toNat 7 0) = false)) ∧
            bits v.toNat 28 16 ≤ 4096) ∧
    (∃ (s : State) (ag : Agent) (c : Nat) (v : Word), s.hw.act = true ∧ s.hw.sees ag .CHR_BUS c 0 = true ∧
        s.hw.changesLocked ag .CHR_BUS c 0 v.toNat = false ∧ bits v.toNat 21 16 ≤ 50 ∧ bits v.toNat 12 0 ≤ 4096) ∧
    (∃ (s : State) (ag : Agent) (c : Nat) (v : Word), s.hw.act = true ∧ s.hw.sees ag .CHR_S_CTL c 0 = true ∧
        s.hw.changesLocked ag .CHR_S_CTL c 0 v.toNat = false ∧ bit v.toNat 0 = true ∧
            bit (s.hw.reg .CHR_S_CTL c).toNat 0 = true ∧ bits v.toNat 31 16 = bits (s.hw.reg .CHR_S_CTL c).toNat 31 16 ∧
            (s.hw.cot c).choir.live = false) ∧
    (∃ (s : State) (ag : Agent) (c : Nat) (v : Word), s.hw.act = true ∧ s.hw.sees ag .CHR_S_CTL c 0 = true ∧
        s.hw.changesLocked ag .CHR_S_CTL c 0 v.toNat = false ∧ bit v.toNat 0 = false) :=
  ⟨⟨st running, .pf 0, 0, 3, 4096 * 65536 + 1, by decide +kernel, by decide +kernel, by decide +kernel, by decide +kernel,
      .inr fun k hk _ => (by decide +kernel : ∀ k,
          k < 4 → (st running).hw.routeTwice 0 3 k (bits (BitVec.toNat (4096 * 65536 + 1 : Word)) 7 0) = false) k hk,
          by decide +kernel⟩,
   ⟨st running, .pf 0, 0, 50 * 65536 + 4096, by decide +kernel⟩,
   ⟨st (running.setFld F.CHR_S_CTL_EN 0 0 1), .pf 0, 0, 1, by decide +kernel⟩,
   ⟨st running, .pf 0, 0, 0, by decide +kernel⟩⟩

theorem witness_TdmPortsAndAmclk :
    (∃ (s : State) (p : Nat) (l : List Word), s.hw.act = true ∧ s.hw.flag F.CHR_TDM_STAT_ACTIVE 0 p = true ∧
        (s.hw.tdmPort p).stopped = false ∧ (s.hw.tdmPort p).resumes = false ∧
            l = List.replicate (s.hw.fld F.CHR_TDM_CTL_SLOTS 0 p) 0) ∧
    (∃ (s : State) (p : Nat) (again : Bool), s.hw.act = true ∧ s.hw.flag F.CHR_TDM_STAT_ACTIVE 0 p = true ∧
        s.hw.flag F.CHR_TDM_CTL_SLAVE 0 p = true) ∧
    (∃ (s : State) (ag : Agent) (p : Nat) (v : Word), s.hw.act = true ∧ s.hw.sees ag .CHR_TDM_CTL 0 p = true ∧
        Hw.tdmOk v.toNat = true ∧ bit v.toNat 31 = true ∧ bit (s.hw.reg .CHR_TDM_CTL 0 p).toNat 31 = false) ∧
    (∃ (s : State) (ag : Agent) (p : Nat) (v : Word), s.hw.act = true ∧ s.hw.sees ag .CHR_TDM_CTL 0 p = true ∧
        Hw.tdmOk v.toNat = true ∧ bit v.toNat 31 = false) ∧
    (∃ (s : State) (ag : Agent) (v : Word), s.hw.act = true ∧ s.hw.sees ag .CHR_AMCLK 0 0 = true ∧
        s.hw.changesLocked ag .CHR_AMCLK 0 0 v.toNat = false ∧ bit v.toNat 0 ≠ s.hw.flag F.CHR_AMCLK_SRC) ∧
    (∃ (s : State), s.hw.act = true ∧ s.hw.flag F.CHR_AMCLK_LOCKED = true) ∧
    (∃ (s : State), s.hw.act = true ∧ ((∀ p, p < 2 → (s.hw.tdmPort p).noClock = false))) :=
  ⟨⟨st ((running.setFld F.CHR_TDM_STAT_ACTIVE 0 1 1)), 1, List.replicate (running.fld F.CHR_TDM_CTL_SLOTS 0 1) (0 : Word),
      by decide +kernel⟩,
   ⟨st (((running.setFld F.CHR_TDM_STAT_ACTIVE 0 1 1).setFld F.CHR_TDM_CTL_SLAVE 0 1 1)), 1, false, by decide +kernel⟩,
   ⟨st running, .pf 0, 0, 0x80000000 + 16 * 65536 + 256, by decide +kernel⟩,
   ⟨st running, .pf 0, 0, 8 * 65536 + 256, by decide +kernel⟩,
   ⟨st running, .pf 0, 1, by decide +kernel⟩,
   ⟨st ((running.setFld F.CHR_AMCLK_LOCKED 0 0 1)), by decide +kernel⟩,
   ⟨st running, by decide +kernel, fun p _ => by simp only [Hw.tdmPort]; rfl⟩⟩

theorem witness_GranaryMapAndArrivals :
    (∃ (s : State) (ag : Agent) (c : Nat) (e : Nat) (v : DWord), s.hw.act = true ∧ e < 256 ∧
        s.hw.sees ag .GRN_CMAP (c / 256) (c % 256 * 256 + e) = true ∧
            s.hw.changesLocked ag .GRN_CMAP (c / 256) (c % 256 * 256 + e) v.toNat = false ∧
            (bits v.toNat 1 0 = 0 ∨ bits v.toNat 1 0 = 2) ∧ ((s.hw.ctx c).st = .off ∨ (s.hw.ctx c).st = .cont) ∧
            (bits v.toNat 1 0 ≠ bits (s.hw.cmap c e) 1 0 ∨ bits v.toNat 61 36 ≠ bits (s.hw.cmap c e) 61 36) ∧
            s.hw.cmapFrame c e = none) ∧
    (∃ (s : State) (f : Nat) (g : Nat), s.hw.act = true ∧ (s.hw.frame f).state = .inFlight ∧ g ∈ s.hw.outstanding f) ∧
    (∃ (s : State) (f : Nat) (g : Nat) (how : ReadEnd), s.hw.act = true ∧ (s.hw.frame f).state = .inFlight ∧
        g ∈ s.hw.outstanding f) ∧
    (∃ (s : State) (f : Nat) (g : Nat) (e : GranuleCopy), s.hw.act = true ∧
        (s.hw.gran.copies.find? (fun e => e.frame == f && e.g == g) = some e)) :=
  ⟨⟨st up, .pf 0, 0, 255, 2, by decide +kernel⟩,
   ⟨st ({ running.setFrame 64 { Frame.free with state := .inFlight } with gran := { (running.setFrame 64 { Frame.free with state := .inFlight }).gran with pageins := [(64, 15, 8)] } }), 64, 15, by decide +kernel⟩,
   ⟨st ({ running.setFrame 64 { Frame.free with state := .inFlight } with gran := { (running.setFrame 64 { Frame.free with state := .inFlight }).gran with pageins := [(64, 15, 8)] } }), 64, 15, .poisoned, by decide +kernel⟩,
   ⟨st ({ running with gran := { running.gran with copies := [⟨65, 15, 0⟩] } }), 65, 15, ⟨65, 15, 0⟩, by decide +kernel⟩⟩

theorem witness_GranaryCommands :
    (∃ (s : State) (ag : Agent) (p : Nat) (vec : Nat) (f : Nat) (g : Hw), s.hw.act = true ∧
        s.hw.sees ag .GRN_CMD p 0 = true ∧ vec < Hw.vectors (129 * p) ∧ s.hw.flag F.GRN_STAT_STATE p = false ∧
            f < 2 ^ 64 ∧ s.hw.allocFrame (129 * p) Hw.privFrame = (some f, g)) ∧
    (∃ (s : State) (ag : Agent) (p : Nat) (vec : Nat), s.hw.act = true ∧ s.hw.sees ag .GRN_CMD p 0 = true ∧
        vec < Hw.vectors (129 * p) ∧ s.hw.flag F.GRN_STAT_STATE p = true) ∧
    (∃ (s : State) (ag : Agent) (p : Nat) (vec : Nat) (f : Nat), s.hw.act = true ∧ s.hw.sees ag .GRN_CMD p 0 = true ∧
        vec < Hw.vectors (129 * p) ∧ s.hw.flag F.GRN_STAT_STATE p = false ∧ f = bits (s.hw.reg .GRN_ARG0 p).toNat 15 0 ∧
            (s.hw.frame f).state ≠ .free ∧ (s.hw.frame f).owner = 129 * p ∧ (s.hw.fn (129 * p)).allocs.contains f = true ∧
            (s.hw.frame f).sharers ≤ 1 ∧ s.hw.isScanBuffer f = false) ∧
    (∃ (s : State) (ag : Agent) (p : Nat) (vec : Nat) (arg : Nat), s.hw.act = true ∧ s.hw.sees ag .GRN_CMD p 0 = true ∧
        vec < Hw.vectors (129 * p) ∧ s.hw.flag F.GRN_STAT_STATE p = false ∧ arg = (s.hw.reg .GRN_ARG0 p).toNat ∧
            ((s.hw.gran.map.filter fun e => decide ((e.2.state = .poisoned ∨ e.2.state = .sharedRo) ∧
            e.2.link = bits arg 45 20 ∧ e.2.owner / 129 = p ∧ bits arg 46 46 = p ∧ e.2.owner ≠ moduleOwner)) = [])) ∧
    (∃ (s : State) (ag : Agent) (p : Nat) (vec : Nat) (hit : List Nat), s.hw.act = true ∧
        s.hw.sees ag .GRN_CMD p 0 = true ∧ vec < Hw.vectors (129 * p) ∧ s.hw.flag F.GRN_STAT_STATE p = false ∧ hit ≠ [] ∧
            (hit = (s.hw.gran.map.filter fun e => decide ((e.2.state = .poisoned ∨ e.2.state = .sharedRo) ∧
            e.2.link = bits (s.hw.reg .GRN_ARG0 p).toNat 45 20 ∧ e.2.owner / 129 = p ∧
            bits (s.hw.reg .GRN_ARG0 p).toNat 46 46 = p ∧ e.2.owner ≠ moduleOwner)).map (·.1))) ∧
    (∃ (s : State) (ag : Agent) (p : Nat) (vec : Nat), s.hw.act = true ∧ s.hw.sees ag .GRN_CMD p 0 = true ∧
        vec < Hw.vectors (129 * p) ∧ s.hw.flag F.GRN_STAT_STATE p = false ∧ bit (s.hw.reg .GRN_ARG0 p).toNat 63 = false ∧
            bits (s.hw.reg .GRN_ARG0 p).toNat 5 0 ≠ 0) ∧
    (∃ (s : State) (ag : Agent) (p : Nat) (vec : Nat), s.hw.act = true ∧ s.hw.sees ag .GRN_CMD p 0 = true ∧
        vec < Hw.vectors (129 * p) ∧ s.hw.flag F.GRN_STAT_STATE p = false ∧ bit (s.hw.reg .GRN_ARG0 p).toNat 63 = false ∧
            bits (s.hw.reg .GRN_ARG0 p).toNat 5 0 = 0) ∧
    (∃ (s : State) (ag : Agent) (p : Nat) (vec : Nat), s.hw.act = true ∧ s.hw.sees ag .GRN_CMD p 0 = true ∧
        vec < Hw.vectors (129 * p) ∧ s.hw.flag F.GRN_STAT_STATE p = false ∧ bit (s.hw.reg .GRN_ARG0 p).toNat 63 = true) ∧
    (∃ (s : State) (q : Nat) (w : Nat) (g : Hw), s.hw.act = true ∧
        (s.hw.gran.evacuating.find? (fun e => e.2 == q) = some (w, q)) ∧
            (((s.hw.gran.map.filter fun e => decide (e.1 / 1024 = q ∧ e.2.state ≠ .free ∧
            64 ≤ e.1)).map (·.1)).foldl (fun (a : Bool × Hw) f => (a.1 && (a.2.moveFrame f).1,
            (a.2.moveFrame f).2)) (true, s.hw) = (true, g))) :=
  ⟨⟨st running, .pf 0, 0, 0, 64, (running.allocFrame 0 Hw.privFrame).2, by decide +kernel, by decide +kernel,
      by decide +kernel, by decide +kernel, by decide +kernel, by decide +kernel⟩,
   ⟨st ((running.setFld F.GRN_STAT_STATE 0 0 1)), .pf 0, 0, 0, by decide +kernel⟩,
   ⟨st ((running.modFn 0 fun x => { x with allocs := [64] }).setFrame 64 { Hw.privFrame with owner := 0 } |>.setReg .GRN_ARG0 0 0 64), .pf 0, 0, 0, 64, by decide +kernel⟩,
   ⟨st running, .pf 0, 0, 0, 0, by decide +kernel⟩,
   ⟨st (running.setFrame 64 { Frame.free with state := .sharedRo, owner := 1 }), .pf 0, 0, 0, [64], by decide +kernel⟩,
   ⟨st (running.setReg .GRN_ARG0 0 0 5), .pf 0, 0, 0, by decide +kernel⟩,
   ⟨st running, .pf 0, 0, 0, by decide +kernel⟩,
   ⟨st (running.setReg .GRN_ARG0 0 0 0x8000000000000000), .pf 0, 0, 0, by decide +kernel⟩,
   ⟨st ({ running with gran := { running.gran with evacuating := [(0, 63)] } }), 63, 0, _, by decide +kernel,
       by decide +kernel, rfl⟩⟩

theorem witness_HayloftCommands :
    (∃ (s : State) (ag : Agent) (c : Nat) (slot : Nat) (vec : Nat), let st := (s.hw.ctx c).st;
        s.hw.act = true ∧ s.hw.HayTakes ag c vec ∧ st = .cont) ∧
    (∃ (s : State) (ag : Agent) (c : Nat) (slot : Nat) (vec : Nat), let st := (s.hw.ctx c).st;
        s.hw.act = true ∧ s.hw.HayTakes ag c vec ∧ st ≠ .cont) ∧
    (∃ (s : State) (ag : Agent) (c : Nat) (slot : Nat) (vec : Nat), s.hw.act = true ∧ s.hw.HayTakes ag c vec ∧
        s.hw.snap c (slot % 8) = none) ∧
    (∃ (s : State) (ag : Agent) (c : Nat) (slot : Nat) (vec : Nat), s.hw.act = true ∧ s.hw.HayTakes ag c vec ∧
        s.hw.snap c (slot % 8) ≠ none) ∧
    (∃ (s : State) (ag : Agent) (c : Nat) (slot : Nat) (vec : Nat), s.hw.act = true ∧ s.hw.HayTakes ag c vec ∧
        s.hw.snap c (slot % 8) ≠ none ∧ slot % 8 < (s.hw.cot c).snaps.length) ∧
    (∃ (s : State) (ag : Agent) (c : Nat) (slot : Nat) (vec : Nat), ∃ x, s.hw.act = true ∧ s.hw.HayTakes ag c vec ∧
        s.hw.snap c (slot % 8) = some x ∧ s.hw.fld F.HAY_XLEN_LEN c < (s.hw.imageOf c x).length) ∧
    (∃ (s : State) (ag : Agent) (c : Nat) (slot : Nat) (vec : Nat), ∃ x, s.hw.act = true ∧ s.hw.HayTakes ag c vec ∧
        s.hw.snap c (slot % 8) = some x ∧ (s.hw.imageOf c x).length ≤ s.hw.fld F.HAY_XLEN_LEN c ∧
            s.hw.hayRange c (s.hw.hayAsked ag c 4 slot vec) (s.hw.imageOf c x).length = true) ∧
    (∃ (s : State) (ag : Agent) (c : Nat) (slot : Nat) (vec : Nat), let st := (s.hw.ctx c).st;
        s.hw.act = true ∧ s.hw.HayTakes ag c vec ∧ (s.hw.snap c (slot % 8) ≠ none ∨ (st ≠ .off ∧ st ≠ .cont))) ∧
    (∃ (s : State) (ag : Agent) (c : Nat) (slot : Nat) (vec : Nat), let st := (s.hw.ctx c).st;
        s.hw.act = true ∧ s.hw.HayTakes ag c vec ∧ s.hw.snap c (slot % 8) = none ∧ (st = .off ∨ st = .cont) ∧
            ((128 ≤ s.hw.fld F.HAY_XLEN_LEN c → s.hw.hayRange c (s.hw.hayAsked ag c 5 slot vec) 128 = true))) ∧
    (∃ (s : State) (ag : Agent) (c : Nat), s.hw.act = true ∧ s.hw.sees ag .HAY_CMD c 0 = true ∧
        0 < Hw.vectors ((Hw.agentFn ag).getD 258) ∧ s.hw.flag F.HAY_STAT_PENDING c = true) ∧
    (∃ (s : State) (ag : Agent) (c : Nat), s.hw.act = true ∧ s.hw.sees ag .HAY_CMD c 0 = true ∧
        0 < Hw.vectors ((Hw.agentFn ag).getD 258) ∧ s.hw.flag F.HAY_STAT_PENDING c = false) ∧
    (∃ (s : State) (ag : Agent) (c : Nat) (slot : Nat) (vec : Nat), s.hw.act = true ∧ s.hw.sees ag .HAY_CMD c 0 = true ∧
        (((Hw.agentFn ag).getD 258 < 258 → vec < Hw.vectors ((Hw.agentFn ag).getD 258))) ∧ (s.hw.cot c).hay ≠ none) :=
  ⟨⟨st (running.modCtx 0 fun x => { x with st := .cont }), .pf 0, 0, 7, 0, by decide +kernel,
      ⟨by decide, by decide, fun _ => by decide⟩, by decide +kernel⟩,
   ⟨st running, .pf 0, 0, 7, 0, by decide +kernel, ⟨by decide, by decide, fun _ => by decide⟩, by decide +kernel⟩,
   ⟨st running, .pf 0, 0, 7, 0, by decide +kernel, ⟨by decide, by decide, fun _ => by decide⟩, by decide +kernel⟩,
   ⟨st (hay running none), .pf 0, 0, 0, 0, by decide +kernel, ⟨by decide, by decide, fun _ => by decide⟩, by decide +kernel⟩,
   ⟨st (hay running none), .pf 0, 0, 0, 0, by decide +kernel, ⟨by decide, by decide, fun _ => by decide⟩,
       by decide +kernel, by decide +kernel⟩,
   ⟨st (hay running none), .pf 0, 0, 0, 0, snapX, by decide +kernel, ⟨by decide, by decide, fun _ => by decide⟩,
       by decide +kernel, Nat.lt_of_le_of_lt (by decide +kernel) (length_imageOf_pos _ _ _)⟩,
   ⟨st ((((hay running none).setReg .HAY_XLEN 0 0 0xFFFFFFFF).setFld F.COM_REGION_BASE_EN 1 0 1).setFld F.COM_REGION_SIZE_MIB 1 0 4), .pf 0, 0, 0, 0, snapX, by decide +kernel, ⟨by decide, by decide, fun _ => by decide⟩, by decide +kernel, Nat.le_trans (length_imageOf_le _ _ _ (by decide +kernel) (by decide +kernel) rfl rfl rfl rfl) (by decide +kernel), hayRange_mono (by decide +kernel) (length_imageOf_le _ _ _ (by decide +kernel) (by decide +kernel) rfl rfl rfl rfl)⟩,
   ⟨st running, .pf 0, 0, 0, 0, by decide +kernel, ⟨by decide, by decide, fun _ => by decide⟩, by decide +kernel⟩,
   ⟨st (((up).setFld F.COM_REGION_BASE_EN 1 0 1).setFld F.COM_REGION_SIZE_MIB 1 0 4), .pf 0, 0, 0, 0, by decide +kernel,
       ⟨by decide, by decide, fun _ => by decide⟩, by decide +kernel, by decide +kernel, by decide +kernel⟩,
   ⟨st ((running.setFld F.HAY_STAT_PENDING 0 0 1)), .pf 0, 0, by decide +kernel⟩,
   ⟨st running, .pf 0, 0, by decide +kernel⟩,
   ⟨st (hay running (some ⟨1, 0, 0, 1, 0, 0⟩)), .pf 0, 0, 0, 0, by decide +kernel⟩⟩

theorem witness_HayloftCompletions :
    (∃ (s : State) (c : Nat) (k : HayCmd) (slab : Nat × Nat) (g : Hw), s.hw.act = true ∧ (s.hw.cot c).hay = some k ∧
        k.op = 1 ∧ s.hw.hayHolds c = true ∧ s.hw.captureReady c = true ∧ k.slot < (s.hw.cot c).snaps.length ∧
            (s.hw.parish (c / 256)).captures.head? = some c ∧
            ((s.hw.ctx c).st = .off ∨ ((s.hw.ctx c).st = .thold ∧ (s.hw.ctx c).restored = false ∧
            s.hw.bellPassed c (s.hw.ctx c).frame = false)) ∧
            (s.hw.setSt c .snap).allocSlab (((s.hw.setSt c .snap).ownerOf c).getD 0) = (some slab, g)) ∧
    (∃ (s : State) (c : Nat) (k : HayCmd) (g : Hw), s.hw.act = true ∧ (s.hw.cot c).hay = some k ∧ k.op = 1 ∧
        s.hw.hayHolds c = true ∧ s.hw.captureReady c = true ∧ (s.hw.parish (c / 256)).captures.head? = some c ∧
            (s.hw.ctx c).st = .off ∧ (s.hw.setSt c .snap).allocSlab (((s.hw.setSt c .snap).ownerOf c).getD 0) = (none, g)) ∧
    (∃ (s : State) (c : Nat) (k : HayCmd) (x : Snapshot), s.hw.act = true ∧ (s.hw.cot c).hay = some k ∧ k.op = 2 ∧
        s.hw.hayHolds c = true ∧ s.hw.restoreReady c = true ∧ (s.hw.ctx c).st = .off ∧ s.hw.snap c k.slot = some x ∧
            k.slot < (s.hw.cot c).snaps.length) ∧
    (∃ (s : State) (c : Nat) (k : HayCmd) (x : Snapshot), s.hw.act = true ∧ (s.hw.cot c).hay = some k ∧ k.op = 2 ∧
        s.hw.hayHolds c = true ∧ s.hw.restoreReady c = true ∧
            ((s.hw.ctx c).st = .off ∨ (s.hw.ctx c).st = .thold ∨ (s.hw.ctx c).st = .cont) ∧ s.hw.snap c k.slot = some x) ∧
    (∃ (s : State) (c : Nat) (k : HayCmd) (x : Snapshot), s.hw.act = true ∧ (s.hw.cot c).hay = some k ∧ k.op = 4 ∧
        s.hw.snap c k.slot = some x ∧ s.hw.imageIssues c k = true ∧ (s.hw.imageOf c x).length ≤ k.len ∧
            s.hw.hayRange c k (s.hw.imageOf c x).length = true) ∧
    (∃ (s : State) (c : Nat) (k : HayCmd), s.hw.act = true ∧ (s.hw.cot c).hay = some k ∧ k.op = 5 ∧
        s.hw.imageIssues c k = true) ∧
    (∃ (s : State) (c : Nat) (k : HayCmd) (code : Nat) (g : Hw), s.hw.act = true ∧ (s.hw.cot c).hay = some k ∧ k.op = 5 ∧
      s.hw.imageIssues c k = true ∧ s.hw.importNow c k = (code, g) ∧ code < 256) ∧
    (∀ r : Hw, ∃ g, Hw.applyAll snapX.tally r 0 true = (.ok, g)) :=
  ⟨⟨st ((hay { up with gran := { up.gran with slabs := [⟨64, 1, [0]⟩] } } (some ⟨1, 1, 0, 1, 0,
      0⟩)).modParish 0 fun p => { p with captures := [0] }), 0, ⟨1, 1, 0, 1, 0, 0⟩, (64, 1), _, by decide +kernel,
          by decide +kernel, by decide +kernel, by decide +kernel, by decide +kernel, by decide +kernel,
          by decide +kernel, .inl rfl, rfl⟩,
   ⟨st (((hay up (some ⟨1, 1, 0, 1, 0,
       0⟩)).setFld F.GRN_OWN_USED 0 1 0xFFFFFFFF).modParish 0 fun p => { p with captures := [0] }), 0, ⟨1, 1, 0, 1, 0, 0⟩,
           _, by decide +kernel, by decide +kernel, by decide +kernel, by decide +kernel, by decide +kernel,
           by decide +kernel, by decide +kernel, Prod.ext (by decide +kernel) rfl⟩,
   ⟨st (hay up (some ⟨2, 0, 0, 1, 0, 0⟩)), 0, ⟨2, 0, 0, 1, 0, 0⟩, snapX, by decide +kernel⟩,
   ⟨st (hay up (some ⟨2, 0, 0, 1, 0, 0⟩)), 0, ⟨2, 0, 0, 1, 0, 0⟩, snapX, by decide +kernel⟩,
   ⟨st (((hay up (some ⟨4, 0, 0, 1, 0, 0x200000⟩)).setFld F.COM_REGION_BASE_EN 1 0 1).setFld F.COM_REGION_SIZE_MIB 1 0 4),
       0, ⟨4, 0, 0, 1, 0, 0x200000⟩, snapX, by decide +kernel, by decide +kernel, by decide +kernel, by decide +kernel,
           by decide +kernel, (length_imageOf_le _ _ _ (by decide +kernel) (by decide +kernel) rfl rfl rfl rfl),
           hayRange_mono (by decide +kernel) (length_imageOf_le _ _ _ (by decide +kernel) (by decide +kernel)
           rfl rfl rfl rfl)⟩,
   ⟨st (hay up (some ⟨5, 0, 0, 1, 0, 128⟩)), 0, ⟨5, 0, 0, 1, 0, 128⟩, by decide +kernel⟩,
   ⟨st (hay (((up).setFld F.COM_REGION_BASE_EN 1 0 1).setFld F.COM_REGION_SIZE_MIB 1 0 4) (some ⟨5, 0, 0, 1, 0, 128⟩)), 0,
       ⟨5, 0, 0, 1, 0, 128⟩, 5, _, by decide +kernel, by decide +kernel, by decide +kernel, by decide +kernel, rfl,
           by decide +kernel⟩,
   fun r => ⟨r, rfl⟩⟩

theorem witness_LarderBanks :
    (∃ (s : State) (ag : Agent) (n : Nat) (v : DWord), s.hw.act = true ∧ s.hw.sees ag .LRD_RET n 0 = true ∧
        s.hw.changesLocked ag .LRD_RET n 0 v.toNat = false) ∧
    (∃ (s : State) (n : Nat) (b : Nat), s.hw.act = true ∧ b ∈ (s.hw.parish n).banksWaking ∧ b < 64) ∧
    (∃ (s : State) (n : Nat) (b : Nat) (accs : List LarderAcc), s.hw.act = true ∧
        s.hw.bankOrder n b (s.hw.bankAccs n b accs) ≠ [] ∧ s.hw.retained n b = true) ∧
    (∃ (s : State) (n : Nat) (b : Nat) (w : Nat) (x : LarderAcc), s.hw.act = true ∧ s.hw.retained n b = false ∧
        x.req < 7 ∧ s.hw.larderAt n b x.place = some w ∧ x.op = .read 2) ∧
    (∃ (s : State) (n : Nat) (b : Nat) (w : Nat) (x : LarderAcc), s.hw.act = true ∧ s.hw.retained n b = false ∧
        x.req < 7 ∧ s.hw.larderAt n b x.place = some w ∧ x.op = .read 0 ∧ ¬ 16384 * b + w ∈ (s.hw.parish n).poisoned) ∧
    (∃ (s : State) (n : Nat) (b : Nat) (w : Nat) (x : LarderAcc) (v : BitVec 128), s.hw.act = true ∧
        s.hw.retained n b = false ∧ x.req < 7 ∧ s.hw.larderAt n b x.place = some w ∧ x.op = .write v (BitVec.allOnes 16)) :=
  ⟨⟨st running, .pf 0, 0, 0, by decide +kernel⟩,
   ⟨st (running.modParish 0 fun p => { p with banksWaking := [63] }), 0, 63, by decide +kernel⟩,
   ⟨st (running.setReg .LRD_RETSTAT 0 0 (2 ^ 63)), 0, 63, [⟨0, .word 0, .read 0⟩], by decide +kernel⟩,
   ⟨st running, 0, 0, 12287, ⟨6, .word 12287, .read 2⟩, by decide +kernel⟩,
   ⟨st running, 0, 0, 12287, ⟨6, .word 12287, .read 0⟩, by decide +kernel⟩,
   ⟨st running, 0, 0, 12287, ⟨6, .word 12287, .write 5 (BitVec.allOnes 16)⟩, 5, by decide +kernel⟩⟩

theorem witness_MemoryArbiters :
    (∃ (s : State) (k : Nat) (hint : Nat), s.hw.act = true ∧ bit (s.hw.fld F.HBM_SR_CTL_EN) k = true ∧
        bit (s.hw.fld F.HBM_STAT_SR) k = false ∧ s.hw.stackBusy k = false ∧ s.hw.scansStack k = false ∧
            s.hw.fld F.HBM_SR_CTL_MIN_IDLE ≤ s.hw.porchHint k hint ∧ k < 4) ∧
    (∃ (s : State) (k : Nat), s.hw.act = true ∧ k < 4) ∧
    (∃ (s : State) (a : Arbiter), s.hw.act = true) ∧
    (∃ (s : State) (a : Arbiter) (reqs : List ArbReq) (q : ArbReq), s.hw.act = true ∧ s.hw.arbAge a = 0 ∧
        s.hw.arbPick a false reqs = some q) ∧
    (∃ (s : State) (n : Nat) (r : Nat) (waited : Nat), s.hw.act = true ∧ s.hw.fld F.ARB_URG_THR_THR n r ≠ 0 ∧
        s.hw.fld F.ARB_URG_THR_THR n r < waited ∧ r < 6 ∧ s.hw.flag F.ARB_URG_STAT_REP n = false) ∧
    (∃ (s : State) (n : Nat) (r : Nat) (waited : Nat), s.hw.act = true ∧ waited ≤ s.hw.fld F.ARB_URG_THR_THR n r) :=
  ⟨⟨st ((running.setFld F.HBM_SR_CTL_EN 0 0 8)), 3, 0xFFFFFFFF, by decide +kernel⟩,
   ⟨st running, 3, by decide +kernel⟩,
   ⟨st running, .parish 0, by decide +kernel⟩,
   ⟨st running, .parish 0, [⟨5, 0, 1, 0, true⟩], ⟨5, 0, 1, 0, true⟩, by decide +kernel⟩,
   ⟨st ((running.setFld F.ARB_URG_THR_THR 0 5 7)), 0, 5, 8, by decide +kernel⟩,
   ⟨st ((running.setFld F.ARB_URG_THR_THR 0 5 7)), 0, 5, 7, by decide +kernel⟩⟩

theorem witness_CarterCottageTransfers :
    (∃ (s : State) (c : Nat) (v : Word), s.hw.act = true ∧ (s.hw.ctx c).st = .run ∧ bit v.toNat 0 = true ∧
        (s.hw.cot c).io.carter = none ∧
            s.hw.carterCheck c (s.hw.ioWord c 0xB000) (s.hw.ioWord c 0xB004) (s.hw.ioWord c 0xB008) v.toNat (s.hw.stamp c)
            = 0) ∧
    (∃ (s : State) (c : Nat) (v : Word) (e : Nat), s.hw.act = true ∧ (s.hw.ctx c).st = .run ∧ bit v.toNat 0 = true ∧
        (s.hw.cot c).io.carter = none ∧
            s.hw.carterCheck c (s.hw.ioWord c 0xB000) (s.hw.ioWord c 0xB004) (s.hw.ioWord c 0xB008) v.toNat (s.hw.stamp c)
            = e ∧ e ≠ 0 ∧ e < 256) ∧
    (∃ (s : State) (c : Nat) (v : Word), s.hw.act = true ∧ ((s.hw.ctx c).st ≠ .run ∨ bit v.toNat 0 = false)) ∧
    (∃ (s : State) (n : Nat) (i : Nat) (c : Nat) (rest : List Nat) (t : CotTransfer) (f : Hw) (g : Hw), s.hw.act = true ∧
        (s.hw.regCh n i).queue = c :: rest ∧ (s.hw.cot c).io.carter = some t ∧ s.hw.fld F.CAR_RC_CTL_STATE n i = 1 ∧
            s.hw.regWaits c t = false ∧ s.hw.regReady n i (s.hw.fld F.CAR_RC_CNT_CNT n i) = (.ok, f) ∧
            f.regAdvance n i (s.hw.fld F.CAR_RC_CNT_CNT n i) = (.ok, g) ∧ (g.regCh n i).queue = c :: rest) :=
  ⟨⟨st (((running.setReg .GRN_CMAP 0 0 1).setIoWord 0 0xB008 4)), 0, 3, by decide +kernel⟩,
   ⟨st running, 0, 3, 6, by decide +kernel⟩,
   ⟨st running, 0, 0, by decide +kernel⟩,
   ⟨st (((running.modIo 0 fun x => { x with carter := some ({ (default : CotTransfer) with regs := [(0xB000, 2 ^ 31), (0xB008, 4), (0xB00C, 1)] }) }).setRegCh 0 1 { RegCh.reset with queue := [0] }).setFld F.CAR_RC_CTL_STATE 0 1 1), 0, 1, 0, [], { (default : CotTransfer) with regs := [(0xB000, 2 ^ 31), (0xB008, 4), (0xB00C, 1)] }, _, _, by decide +kernel, by decide +kernel, by decide +kernel, by decide +kernel, by decide +kernel, rfl, rfl, by decide +kernel⟩⟩

theorem witness_CarterChains :
    (∃ (s : State) (ag : Agent) (n : Nat) (j : Nat) (x : Side), s.hw.act = true ∧ s.hw.sees ag .CAR_CH_CTL n j = true ∧
        s.hw.changesLocked ag .CAR_CH_CTL n j (setBits (s.hw.reg .CAR_CH_CTL n j).toNat 0 0 1) = false ∧
            s.hw.chainState n j = 0 ∧ s.hw.soleRingOk (s.hw.chainOwner n j) (s.hw.fld F.CAR_CH_RING_RING n j) = true ∧
            s.hw.flag F.CAR_CH_CTL_PAUSE n j = false ∧ bit (s.hw.reg .CAR_CH_CTL n j).toNat 2 = false ∧
            s.hw.descSide (s.hw.chainOwner n j) (s.hw.reg .CAR_CH_HEAD n j) = .ok x) ∧
    (∃ (s : State) (n : Nat) (j : Nat) (x : Side) (b : List Byte) (g : Hw) (d : ChainDesc), s.hw.act = true ∧
        s.hw.chainState n j = 1 ∧ (s.hw.chain n j).fetching = true ∧ (s.hw.chain n j).draining = false ∧
            s.hw.chainHeld n j = false ∧ s.hw.descSide (s.hw.chainOwner n j) (s.hw.reg .CAR_CH_CUR n j) = .ok x ∧
            s.hw.sideIssues (s.hw.chainOwner n j) x = true ∧ Hw.sideReads 32 s.hw x false false 0 = (.ok, b, g) ∧
            d = ⟨s.hw.reg .CAR_CH_CUR n j, BitVec.ofNat 64 (fromLe ((b.drop 8).take 8)),
            BitVec.ofNat 64 (fromLe ((b.drop 16).take 8)), fromLe ((b.drop 24).take 4),
            BitVec.ofNat 32 (fromLe ((b.drop 28).take 4))⟩ ∧ bit d.ctrl.toNat 31 = true ∧
            s.hw.descCheck (s.hw.chainOwner n j) d = 0) ∧
    (∃ (s : State) (n : Nat) (j : Nat) (x : Side) (b : List Byte) (g : Hw) (d : ChainDesc), s.hw.act = true ∧
        s.hw.chainState n j = 1 ∧ (s.hw.chain n j).fetching = true ∧ (s.hw.chain n j).draining = false ∧
            s.hw.chainHeld n j = false ∧ s.hw.descSide (s.hw.chainOwner n j) (s.hw.reg .CAR_CH_CUR n j) = .ok x ∧
            s.hw.sideIssues (s.hw.chainOwner n j) x = true ∧ Hw.sideReads 32 s.hw x false false 0 = (.ok, b, g) ∧
            d = ⟨s.hw.reg .CAR_CH_CUR n j, BitVec.ofNat 64 (fromLe ((b.drop 8).take 8)),
            BitVec.ofNat 64 (fromLe ((b.drop 16).take 8)), fromLe ((b.drop 24).take 4),
            BitVec.ofNat 32 (fromLe ((b.drop 28).take 4))⟩ ∧ bit d.ctrl.toNat 31 = false) ∧
    (∃ (s : State) (n : Nat) (j : Nat) (d : ChainDesc) (f : Hw) (g : Hw), s.hw.act = true ∧ s.hw.chainState n j = 1 ∧
        (s.hw.chain n j).desc = some d ∧
            ((∀ m, s.hw.descMove (s.hw.chainOwner n j) d = some m → s.hw.sideIssues (s.hw.chainOwner n j) m.src = true ∧
            s.hw.sideIssues (s.hw.chainOwner n j) m.dst = true)) ∧
            s.hw.chainReady n j (s.hw.fld F.CAR_CH_CNT_CNT n j) = (.ok, f) ∧
            f.chainAdvance n j (s.hw.fld F.CAR_CH_CNT_CNT n j) = (.ok, g)) ∧
    (∃ (s : State) (n : Nat) (j : Nat) (x : Side) (b : List Byte) (g : Hw), let next := fromLe b;
        s.hw.act = true ∧ s.hw.chainState n j = 1 ∧ (s.hw.chain n j).fetching = false ∧
            (s.hw.chain n j).draining = false ∧ (s.hw.chain n j).desc = none ∧
            s.hw.descSide (s.hw.chainOwner n j) (s.hw.reg .CAR_CH_CUR n j) = .ok x ∧
            s.hw.sideIssues (s.hw.chainOwner n j) x = true ∧ Hw.sideReads 8 s.hw x false false 0 = (.ok, b, g) ∧
            bit next 0 = true ∧ s.hw.flag F.CAR_CH_STAT_DBPEND n j = true) ∧
    (∃ (s : State) (n : Nat) (j : Nat) (x : Side) (b : List Byte) (g : Hw), let next := fromLe b;
        s.hw.act = true ∧ s.hw.chainState n j = 1 ∧ (s.hw.chain n j).fetching = false ∧
            (s.hw.chain n j).draining = false ∧ (s.hw.chain n j).desc = none ∧
            s.hw.descSide (s.hw.chainOwner n j) (s.hw.reg .CAR_CH_CUR n j) = .ok x ∧
            s.hw.sideIssues (s.hw.chainOwner n j) x = true ∧ Hw.sideReads 8 s.hw x false false 0 = (.ok, b, g) ∧
            bit next 0 = true ∧ s.hw.flag F.CAR_CH_STAT_DBPEND n j = false ∧ (s.hw.chain n j).uncovered = 0) ∧
    (∃ (s : State) (n : Nat) (j : Nat) (x : Side) (b : List Byte) (g : Hw), ∃ y, let next := fromLe b;
        s.hw.act = true ∧ s.hw.chainState n j = 1 ∧ (s.hw.chain n j).fetching = false ∧
            (s.hw.chain n j).draining = false ∧ (s.hw.chain n j).desc = none ∧
            s.hw.descSide (s.hw.chainOwner n j) (s.hw.reg .CAR_CH_CUR n j) = .ok x ∧
            s.hw.sideIssues (s.hw.chainOwner n j) x = true ∧ Hw.sideReads 8 s.hw x false false 0 = (.ok, b, g) ∧
            bit next 0 = false ∧ s.hw.chainHeld n j = false ∧
            s.hw.descSide (s.hw.chainOwner n j) (BitVec.ofNat 64 next) = .ok y) ∧
    (∃ (s : State) (ag : Agent) (n : Nat) (j : Nat), s.hw.act = true ∧ s.hw.sees ag .CAR_CH_DB n j = true ∧
        s.hw.chainState n j = 0) ∧
    (∃ (s : State) (ag : Agent) (n : Nat) (j : Nat), s.hw.act = true ∧ s.hw.sees ag .CAR_CH_DB n j = true ∧
        s.hw.chainState n j = 2) ∧
    (∃ (s : State) (ag : Agent) (n : Nat) (j : Nat), s.hw.act = true ∧ s.hw.sees ag .CAR_CH_DB n j = true ∧
        s.hw.chainState n j ≠ 0 ∧ s.hw.chainState n j ≠ 2) :=
  ⟨⟨st (((running.setFld F.COM_RING_CFG_EN 0 8191 1).setFld F.CAR_CH_RING_RING 0 7 8191)), .pf 0, 0, 7,
      .fabric 0x400000000000, by decide +kernel, by decide +kernel, by decide +kernel, by decide +kernel,
          by decide +kernel, by decide +kernel, by decide +kernel, rfl⟩,
   ⟨st (((((((running.setFld F.COM_RING_CFG_EN 0 8191 1).setFld F.CAR_CH_RING_RING 0 7 8191).setFld F.COM_RING_RET_RET 0 8191 4).modFn 0 fun f => { f with bme := true }).setChain 0 7 { ChainCh.reset with fetching := true }).setChainState 0 7 1).wv 0x40000000001C 4 0x80000001), 0, 7, _, _, _, _, by decide +kernel, by decide +kernel, by decide +kernel, by decide +kernel, by decide +kernel, rfl, by decide +kernel, rfl, rfl, by decide +kernel, by decide +kernel⟩,
   ⟨st (((((((running.setFld F.COM_RING_CFG_EN 0 8191 1).setFld F.CAR_CH_RING_RING 0 7 8191).setFld F.COM_RING_RET_RET 0 8191 4).modFn 0 fun f => { f with bme := true }).setChain 0 7 { ChainCh.reset with fetching := true }).setChainState 0 7 1)), 0, 7, _, _, _, _, by decide +kernel, by decide +kernel, by decide +kernel, by decide +kernel, by decide +kernel, rfl, by decide +kernel, rfl, rfl, by decide +kernel⟩,
   ⟨st (((running.setChain 0 7 { ChainCh.reset with desc := some ⟨0, 0, 0, 0, 0⟩ }).setChainState 0 7 1)), 0, 7,
       ⟨0, 0, 0, 0, 0⟩, _, _, by decide +kernel, by decide +kernel, by decide +kernel,
           (fun m e => by obtain rfl := Option.some.inj e; exact ⟨by decide +kernel, by decide +kernel⟩), rfl, rfl⟩,
   ⟨st (((running.setChain 0 7 { ChainCh.reset with desc := none }).setChainState 0 7 1).wv 0x400000000000 8 1 |>.setFld F.CAR_CH_STAT_DBPEND 0 7 1), 0, 7, _, _, _, by decide +kernel, by decide +kernel, by decide +kernel, by decide +kernel, by decide +kernel, rfl, by decide +kernel, rfl, by decide +kernel, by decide +kernel⟩,
   ⟨st (((running.setChain 0 7 { ChainCh.reset with desc := none }).setChainState 0 7 1).wv 0x400000000000 8 1), 0, 7, _,
       _, _, by decide +kernel, by decide +kernel, by decide +kernel, by decide +kernel, by decide +kernel, rfl,
           by decide +kernel, rfl, by decide +kernel, by decide +kernel, by decide +kernel⟩,
   ⟨st (((((((running.setFld F.COM_RING_CFG_EN 0 8191 1).setFld F.CAR_CH_RING_RING 0 7 8191).setFld F.COM_RING_RET_RET 0 8191 4).modFn 0 fun f => { f with bme := true }).setChain 0 7 { ChainCh.reset with desc := none }).setChainState 0 7 1)), 0, 7, _, _, _, _, by decide +kernel, by decide +kernel, by decide +kernel, by decide +kernel, by decide +kernel, rfl, by decide +kernel, rfl, by decide +kernel, by decide +kernel, rfl⟩,
   ⟨st running, .pf 0, 0, 7, by decide +kernel⟩,
   ⟨st (((running.setChain 0 7 { ChainCh.reset with desc := none }).setChainState 0 7 2)), .pf 0, 0, 7, by decide +kernel⟩,
   ⟨st (((running.setChain 0 7 { ChainCh.reset with desc := none }).setChainState 0 7 1)), .pf 0, 0, 7, by decide +kernel⟩⟩

theorem witness_CarterPauseAbortHalt :
    (∃ (s : State) (ag : Agent) (n : Nat) (j : Nat), s.hw.act = true ∧ s.hw.sees ag .CAR_CH_CTL n j = true ∧
        s.hw.changesLocked ag .CAR_CH_CTL n j (setBits (s.hw.reg .CAR_CH_CTL n j).toNat 1 1 1) = false ∧
            bit (s.hw.reg .CAR_CH_CTL n j).toNat 0 = false ∧ bit (s.hw.reg .CAR_CH_CTL n j).toNat 1 = false ∧
            bit (s.hw.reg .CAR_CH_CTL n j).toNat 2 = false ∧ s.hw.chainState n j = 2) ∧
    (∃ (s : State) (ag : Agent) (n : Nat) (j : Nat), s.hw.act = true ∧ s.hw.sees ag .CAR_CH_CTL n j = true ∧
        s.hw.changesLocked ag .CAR_CH_CTL n j (setBits (s.hw.reg .CAR_CH_CTL n j).toNat 1 1 1) = false ∧
            bit (s.hw.reg .CAR_CH_CTL n j).toNat 0 = false ∧ bit (s.hw.reg .CAR_CH_CTL n j).toNat 1 = false ∧
            bit (s.hw.reg .CAR_CH_CTL n j).toNat 2 = false ∧ s.hw.chainState n j = 1) ∧
    (∃ (s : State) (ag : Agent) (n : Nat) (j : Nat), s.hw.act = true ∧ s.hw.sees ag .CAR_CH_CTL n j = true ∧
        s.hw.changesLocked ag .CAR_CH_CTL n j (setBits (s.hw.reg .CAR_CH_CTL n j).toNat 1 1 0) = false ∧
            bit (s.hw.reg .CAR_CH_CTL n j).toNat 0 = false ∧ bit (s.hw.reg .CAR_CH_CTL n j).toNat 1 = true ∧
            bit (s.hw.reg .CAR_CH_CTL n j).toNat 2 = false ∧ s.hw.chainState n j = 3) ∧
    (∃ (s : State) (ag : Agent) (n : Nat) (i : Nat), s.hw.act = true ∧ s.hw.sees ag .CAR_RC_CTL n i = true ∧
        s.hw.changesLocked ag .CAR_RC_CTL n i (setBits (s.hw.reg .CAR_RC_CTL n i).toNat 0 0 1) = false ∧
            bit (s.hw.reg .CAR_RC_CTL n i).toNat 0 = false ∧ bit (s.hw.reg .CAR_RC_CTL n i).toNat 1 = false ∧
            s.hw.fld F.CAR_RC_CTL_STATE n i = 1) ∧
    (∃ (s : State) (ag : Agent) (n : Nat) (i : Nat), s.hw.act = true ∧ s.hw.sees ag .CAR_RC_CTL n i = true ∧
        s.hw.changesLocked ag .CAR_RC_CTL n i (setBits (s.hw.reg .CAR_RC_CTL n i).toNat 0 0 0) = false ∧
            bit (s.hw.reg .CAR_RC_CTL n i).toNat 0 = true ∧ bit (s.hw.reg .CAR_RC_CTL n i).toNat 1 = false ∧
            s.hw.fld F.CAR_RC_CTL_STATE n i = 3) ∧
    (∃ (s : State) (n : Nat) (j : Nat) (bytes : Nat) (g : Hw), s.hw.act = true ∧ (s.hw.chain n j).draining = true ∧
        s.hw.chainDrain n j bytes = (.ok, g)) ∧
    (∃ (s : State) (n : Nat) (i : Nat) (bytes : Nat) (g : Hw), s.hw.act = true ∧ (s.hw.regCh n i).draining = true ∧
        s.hw.regDrain n i bytes = (.ok, g)) ∧
    (∃ (s : State) (ag : Agent) (n : Nat) (j : Nat) (bytes : Nat), s.hw.act = true ∧ s.hw.sees ag .CAR_CH_CTL n j = true ∧
        s.hw.changesLocked ag .CAR_CH_CTL n j (setBits (s.hw.reg .CAR_CH_CTL n j).toNat 2 2 1) = false ∧
            bit (s.hw.reg .CAR_CH_CTL n j).toNat 0 = false ∧ s.hw.chainState n j ≠ 0) ∧
    (∃ (s : State) (ag : Agent) (n : Nat) (i : Nat) (bytes : Nat), s.hw.act = true ∧ s.hw.sees ag .CAR_RC_CTL n i = true ∧
        s.hw.changesLocked ag .CAR_RC_CTL n i (setBits (s.hw.reg .CAR_RC_CTL n i).toNat 1 1 1) = false ∧
            s.hw.fld F.CAR_RC_CTL_STATE n i ≠ 0) ∧
    (∃ (s : State) (n : Nat) (space : Nat) (addr : Nat) (how : ReadEnd), s.hw.act = true ∧ how ≠ .ok) ∧
    (∃ (s : State) (ag : Agent) (n : Nat), s.hw.act = true ∧ s.hw.sees ag .CAR_CTL n 0 = true ∧
        s.hw.changesLocked ag .CAR_CTL n 0 1 = false ∧ s.hw.flag F.CAR_STAT_HALTED n = true) :=
  ⟨⟨st (((running.setChain 0 7 { ChainCh.reset with desc := none }).setChainState 0 7 2)), .pf 0, 0, 7, by decide +kernel⟩,
   ⟨st (((running.setChain 0 7 { ChainCh.reset with desc := none }).setChainState 0 7 1)), .pf 0, 0, 7, by decide +kernel⟩,
   ⟨st (((running.setChain 0 7 { ChainCh.reset with desc := none }).setChainState 0 7 3).setReg .CAR_CH_CTL 0 7 2), .pf 0,
       0, 7, by decide +kernel⟩,
   ⟨st ((running.setFld F.CAR_RC_CTL_STATE 0 1 1)), .pf 0, 0, 1, by decide +kernel⟩,
   ⟨st (((running.setFld F.CAR_RC_CTL_STATE 0 1 3).setFld F.CAR_RC_CTL_PAUSE 0 1 1)), .pf 0, 0, 1, by decide +kernel⟩,
   ⟨st (((running.setChain 0 7 { ChainCh.reset with draining := true }).setChainState 0 7 1)), 0, 7, 0, _,
       by decide +kernel, by decide +kernel, rfl⟩,
   ⟨st (running.setRegCh 0 1 { RegCh.reset with draining := true }), 0, 1, 0, _, by decide +kernel, by decide +kernel, rfl⟩,
   ⟨st (((running.setChain 0 7 { ChainCh.reset with desc := none }).setChainState 0 7 3)), .pf 0, 0, 7, 0,
       by decide +kernel⟩,
   ⟨st ((running.setFld F.CAR_RC_CTL_STATE 0 1 1)), .pf 0, 0, 1, 0, by decide +kernel⟩,
   ⟨st running, 0, 0, 0, .timeout, by decide +kernel⟩,
   ⟨st ((running.setFld F.CAR_STAT_HALTED 0 0 1)), .pf 0, 0, by decide +kernel⟩⟩

theorem witness_CommonsRegionsAndRings :
    (∃ (s : State) (ag : Agent) (o : Nat) (v : DWord), s.hw.act = true ∧ s.hw.sees ag .COM_REGION_BASE o 0 = true ∧
        s.hw.changesLocked ag .COM_REGION_BASE o 0 v.toNat = false ∧ s.hw.ringInUse o = false ∧
            ((bit v.toNat 0 = true → Hw.regionOk (bits v.toNat 45 12) (s.hw.fld F.COM_REGION_SIZE_MIB o) = true))) ∧
    (∃ (s : State) (ag : Agent) (o : Nat) (v : DWord), s.hw.act = true ∧ s.hw.sees ag .COM_REGION_SIZE o 0 = true ∧
        s.hw.flag F.COM_REGION_BASE_EN o = true ∧
            Hw.regionOk (s.hw.fld F.COM_REGION_BASE_ADDR o) (bits v.toNat 12 0) = false) ∧
    (∃ (s : State) (ag : Agent) (o : Nat) (v : Word) (g : Hw), s.hw.act = true ∧ s.hw.sees ag .COM_BAR2 o 0 = true ∧
        s.hw.changesLocked ag .COM_BAR2 o 0 v.toNat = false ∧ s.hw.flag F.COM_BAR2_EN o = false ∧ bit v.toNat 31 = true ∧
            bits v.toNat 14 0 ≤ Hw.bar2Limit o ∧
            (Hw.bar2Alloc (bits v.toNat 14 0) ((s.hw.storeFields .COM_BAR2 o 0 v.toNat).modFn o fun f => { f with bar2 := [] }) o = (true, g))) ∧
    (∃ (s : State) (ag : Agent) (o : Nat) (v : Word) (g : Hw), s.hw.act = true ∧ s.hw.sees ag .COM_BAR2 o 0 = true ∧
        s.hw.changesLocked ag .COM_BAR2 o 0 v.toNat = false ∧ s.hw.flag F.COM_BAR2_EN o = false ∧ bit v.toNat 31 = true ∧
            bits v.toNat 14 0 ≤ Hw.bar2Limit o ∧
            (Hw.bar2Alloc (bits v.toNat 14 0) ((s.hw.storeFields .COM_BAR2 o 0 v.toNat).modFn o fun f => { f with bar2 := [] }) o = (false, g))) ∧
    (∃ (s : State) (o : Nat) (off : Nat) (n : Nat) (data : List Byte), s.hw.act = true ∧ s.hw.barAnswers o = true ∧
        off + n ≤ (s.hw.fn o).bar2.length * 0x100000) ∧
    (∃ (s : State) (o : Nat) (off : Nat) (n : Nat) (data : List Byte), s.hw.act = true ∧
        (s.hw.fn o).bar2.length * 0x100000 < off + n) ∧
    (∃ (s : State) (ag : Agent) (o : Nat) (r : Nat) (v : Word), s.hw.act = true ∧ s.hw.sees ag .COM_RING_CFG o r = true ∧
        s.hw.changesLocked ag .COM_RING_CFG o r v.toNat = false ∧ s.hw.flag F.COM_RING_CFG_EN o r = false ∧
            bit v.toNat 31 = true ∧ r ≤ Hw.ringLimit o ∧ 1 ≤ bits v.toNat 4 0 ∧ bits v.toNat 4 0 ≤ 16 ∧
            bits v.toNat 27 16 < Hw.vectors o ∧
            s.hw.commonsOk o (s.hw.fld F.COM_RING_BASE_SPACE o r) (s.hw.fld F.COM_RING_BASE_ADDR o r * 4096)
            (2 ^ bits v.toNat 4 0 * 4096) = true) ∧
    (∃ (s : State) (ag : Agent) (o : Nat) (r : Nat) (v : Word), let a := (v.toNat + 2 ^ 32 - s.hw.fld F.COM_RING_PUB_PUB o r) % 2 ^ 32; let b := (s.hw.fld F.COM_RING_RET_RET o r + 2 ^ 32 - s.hw.fld F.COM_RING_PUB_PUB o r) % 2 ^ 32; s.hw.act = true ∧ s.hw.sees ag .COM_RING_RET o r = true ∧ b ≤ a ∧ a ≤ s.hw.ringSize o r) ∧
    (∃ (s : State) (ag : Agent) (o : Nat) (r : Nat) (v : Word), let a := (v.toNat + 2 ^ 32 - s.hw.fld F.COM_RING_PUB_PUB o r) % 2 ^ 32; let b := (s.hw.fld F.COM_RING_RET_RET o r + 2 ^ 32 - s.hw.fld F.COM_RING_PUB_PUB o r) % 2 ^ 32; s.hw.act = true ∧ s.hw.sees ag .COM_RING_RET o r = true ∧ (a < b ∨ s.hw.ringSize o r < a)) ∧
    (∃ (s : State) (o : Nat) (r : Nat), s.hw.act = true ∧ s.hw.flag F.COM_RING_CFG_EN o r = true ∧
        s.hw.fld F.COM_RING_BASE_SPACE o r = 0 ∧ (s.hw.fn o).ringDown.contains r = false) :=
  ⟨⟨st running, .pf 0, 0, 0, by decide +kernel⟩,
   ⟨st ((running.setFld F.COM_REGION_BASE_EN 0 0 1)), .pf 0, 0, 0, by decide +kernel⟩,
   ⟨st running, .pf 0, 0, 0x80000000, _, by decide +kernel, by decide +kernel, by decide +kernel, by decide +kernel,
       by decide +kernel, by decide +kernel, rfl⟩,
   ⟨st (running.setFld F.GRN_OWN_USED 0 0 0xFFFFFFFF), .pf 0, 0, 0x80000001, _, by decide +kernel, by decide +kernel,
       by decide +kernel, by decide +kernel, by decide +kernel, by decide +kernel, rfl⟩,
   ⟨st running, 0, 0, 0, [], by decide +kernel⟩,
   ⟨st running, 0, 0, 1, [], by decide +kernel⟩,
   ⟨st (((running.setFld F.COM_REGION_BASE_EN 1 0 1).setFld F.COM_REGION_SIZE_MIB 1 0 256)), .vf 0 1, 1, 1023, 0x80000010,
       by decide +kernel⟩,
   ⟨st running, .pf 0, 0, 0, 0, by decide +kernel⟩,
   ⟨st running, .pf 0, 0, 0, 3, by decide +kernel⟩,
   ⟨st ((running.setFld F.COM_RING_CFG_EN 0 0 1)), 0, 0, by decide +kernel⟩⟩

theorem witness_CommonsQueueAndMessages :
    (∃ (s : State) (ag : Agent) (o : Nat) (v : Word), s.hw.act = true ∧ s.hw.sees ag .COM_EQ o 0 = true ∧
        s.hw.changesLocked ag .COM_EQ o 0 v.toNat = false ∧ s.hw.flag F.COM_EQ_EN o = false ∧ bit v.toNat 31 = true ∧
            bits v.toNat 25 16 ≠ 0 ∧ s.hw.soleRingOk o (bits v.toNat 12 0) = true) ∧
    (∃ (s : State) (ag : Agent) (o : Nat) (v : Word), s.hw.act = true ∧ s.hw.sees ag .COM_EQ o 0 = true ∧
        bits v.toNat 25 16 = 0) ∧
    (∃ (s : State) (o : Nat), s.hw.act = true ∧ (s.hw.fn o).eqRing = none) ∧
    (∃ (s : State) (o : Nat), ∃ r, s.hw.act = true ∧ (s.hw.fn o).eqRing = some r ∧ s.hw.ringUp o r = false) ∧
    (∃ (s : State) (o : Nat), ∃ r, s.hw.act = true ∧ (s.hw.fn o).eqRing = some r ∧ s.hw.ringUp o r = true) ∧
    (∃ (s : State) (o : Nat) (vec : Nat), s.hw.act = true ∧
        (NTable.get ⟨false, 0⟩ (s.hw.fn o).holdoff vec).running = true ∧ s.hw.flag F.COM_VMOD_PEND o vec = false) ∧
    (∃ (s : State) (o : Nat) (vec : Nat), s.hw.act = true ∧
        (NTable.get ⟨false, 0⟩ (s.hw.fn o).holdoff vec).running = true ∧ s.hw.flag F.COM_VMOD_PEND o vec = true ∧
            (s.hw.fn o).d3 = false ∧ (s.hw.fn o).msixEn = true ∧ (s.hw.fn o).fmask = false ∧
            (s.hw.fn o).vmask.contains vec = false ∧ (s.hw.port (o / 129)).l1 = false) ∧
    (∃ (s : State) (o : Nat) (vec : Nat), s.hw.act = true ∧ (s.hw.fn o).d3 = false ∧ (s.hw.fn o).msixEn = true ∧
        (s.hw.fn o).fmask = false ∧ (s.hw.fn o).pba = [vec] ∧ (s.hw.fn o).vmask = [vec] ∧
            (s.hw.port (o / 129)).l1 = false) :=
  ⟨⟨st (running.setFld F.COM_RING_CFG_EN 0 8191 1), .pf 0, 0, 0x80001FFF + 1023 * 65536, by decide +kernel⟩,
   ⟨st running, .pf 0, 0, 0, by decide +kernel⟩,
   ⟨st running, 0, by decide +kernel⟩,
   ⟨st (running.modFn 0 fun f => { f with eqRing := some 5 }), 0, 5, by decide +kernel⟩,
   ⟨st (((((running.setFld F.COM_RING_CFG_EN 0 8191 1).setFld F.CAR_CH_RING_RING 0 7 8191).setFld F.COM_RING_RET_RET 0 8191 4).modFn 0 fun f => { f with bme := true }).modFn 0 fun f => { f with eqRing := some 8191 }), 0, 8191, by decide +kernel⟩,
   ⟨st (running.modFn 0 fun f => { f with holdoff := [(2047, ⟨true, 1⟩)] }), 0, 2047, by decide +kernel⟩,
   ⟨st ((running.modFn 0 fun f => { f with holdoff := [(2047, ⟨true, 1⟩)], msixEn := true }).setFld F.COM_VMOD_PEND 0 2047 1), 0, 2047, by decide +kernel⟩,
   ⟨st (running.modFn 0 fun f => { f with msixEn := true, fmask := false, pba := [2047], vmask := [2047] }), 0, 2047,
       by decide +kernel⟩⟩

theorem witness_ChiselBlits :
    (∃ (s : State) (c : Nat) (v : Word) (t : CotTransfer), s.hw.act = true ∧ (s.hw.ctx c).st = .run ∧
        bit v.toNat 0 = true ∧ (s.hw.cot c).io.chisel = none ∧
            (t = { regs := Hw.chiselWords.foldl (fun m a => NTable.set 0 m a (BitVec.ofNat 32 (s.hw.ioWord c a))) (NTable.set 0 [] 0xC028 (BitVec.ofNat 32 (v.toNat &&& 0xFFE6))), start := s.hw.stamp c, v := s.hw.stamp c, running := false, done := false, result := 0, awaits := none }) ∧ (s.hw.blitCheck (fun _ _ => false) (Hw.cotBlit c t) = 0)) ∧
    (∃ (s : State) (c : Nat) (v : Word) (t : CotTransfer), s.hw.act = true ∧ (s.hw.ctx c).st = .run ∧
        bit v.toNat 0 = true ∧ (s.hw.cot c).io.chisel = none ∧
            (t = { regs := Hw.chiselWords.foldl (fun m a => NTable.set 0 m a (BitVec.ofNat 32 (s.hw.ioWord c a))) (NTable.set 0 [] 0xC028 (BitVec.ofNat 32 (v.toNat &&& 0xFFE6))), start := s.hw.stamp c, v := s.hw.stamp c, running := false, done := false, result := 0, awaits := none }) ∧ (s.hw.blitCheck (fun _ _ => false) (Hw.cotBlit c t) ≠ 0)) ∧
    (∃ (s : State) (n : Nat) (i : Nat) (c : Nat) (rest : List Nat) (t : CotTransfer), s.hw.act = true ∧
        (s.hw.chiselCh n i).queue = c :: rest ∧ s.hw.vramBlit c = some t ∧ s.hw.composedTo c t.v = true ∧
            t.v.le (s.hw.stamp c) = true ∧ (((s.hw.ctx c).tally.any fun e => e.stamp.lt t.v) = false)) ∧
    (∃ (s : State) (n : Nat) (i : Nat) (c : Nat) (rest : List Nat) (t : CotTransfer) (g : Hw), s.hw.act = true ∧
        (s.hw.chiselCh n i).queue = c :: rest ∧ (s.hw.cot c).io.chisel = some t ∧ s.hw.blitMoves c t = true ∧
            s.hw.blitRun (Hw.cotBlit c t) = (.ok, g)) ∧
    (∃ (s : State) (n : Nat) (i : Nat) (c : Nat) (pixels : Nat) (port : Nat) (rest : List Nat) (t : CotTransfer)
        (how : ReadEnd), s.hw.act = true ∧ (s.hw.chiselCh n i).queue = c :: rest ∧ (s.hw.cot c).io.chisel = some t ∧
            s.hw.blitMoves c t = true ∧ how ≠ .ok) ∧
    (∃ (s : State) (ag : Agent) (n : Nat) (m : Nat) (v : Word) (a : Side) (b : Side), let k := s.hw.storeFields .CHS_P_CTL n m (v.toNat ||| 1); s.hw.act = true ∧ s.hw.sees ag .CHS_P_CTL n m = true ∧ s.hw.changesLocked ag .CHS_P_CTL n m (v.toNat ||| 1) = false ∧ s.hw.fld F.CHS_P_STAT_STATE n m = 0 ∧ bits (v.toNat ||| 1) 2 1 = 0 ∧ k.chisSide n m (k.reg .CHS_P_SRC n m).toNat = some a ∧ k.chisSide n m (k.reg .CHS_P_DST n m).toNat = some b ∧ k.blitCheck (k.chisHbm n m) (k.privLatch n m a b) = 0) ∧
    (∃ (s : State) (n : Nat) (m : Nat) (b : Blit) (g : Hw), s.hw.act = true ∧ s.hw.privBlit n m = some b ∧
        s.hw.sideIssues (s.hw.chisOwner n m) b.src = true ∧ s.hw.sideIssues (s.hw.chisOwner n m) b.dst = true ∧
            s.hw.blitRun b = (.ok, g)) ∧
    (∃ (s : State) (n : Nat) (m : Nat) (pixels : Nat) (port : Nat) (b : Blit) (how : ReadEnd), s.hw.act = true ∧
        s.hw.privBlit n m = some b ∧ how ≠ .ok) :=
  ⟨⟨st (((((running.setReg .GRN_CMAP 0 0 1).setIoWord 0 0xC014 0x10002).setIoWord 0 0xC008 0x40004))), 0, 1,
      { (default : CotTransfer) with regs := Hw.chiselWords.foldl (fun m a => NTable.set 0 m a (BitVec.ofNat 32 (((((running.setReg .GRN_CMAP 0 0 1).setIoWord 0 0xC014 0x10002).setIoWord 0 0xC008 0x40004)).ioWord 0 a))) (NTable.set 0 [] 0xC028 (BitVec.ofNat 32 ((1 : Word).toNat &&& 0xFFE6))), start := ((((running.setReg .GRN_CMAP 0 0 1).setIoWord 0 0xC014 0x10002).setIoWord 0 0xC008 0x40004)).stamp 0, v := ((((running.setReg .GRN_CMAP 0 0 1).setIoWord 0 0xC014 0x10002).setIoWord 0 0xC008 0x40004)).stamp 0, running := false, done := false, result := 0, awaits := none }, by decide +kernel⟩,
   ⟨st running, 0, 1, { (default : CotTransfer) with regs := Hw.chiselWords.foldl (fun m a => NTable.set 0 m a (BitVec.ofNat 32 (running.ioWord 0 a))) (NTable.set 0 [] 0xC028 (BitVec.ofNat 32 ((1 : Word).toNat &&& 0xFFE6))), start := running.stamp 0, v := running.stamp 0, running := false, done := false, result := 0, awaits := none }, by decide +kernel⟩,
   ⟨st (((running.setChiselCh 0 3 { ChiselCh.reset with queue := [0] }).modIo 0 fun x => { x with chisel := some ({ (default : CotTransfer) with regs := [(0xC004, 2 ^ 31)] }) })), 0, 3, 0, [], { (default : CotTransfer) with regs := [(0xC004, 2 ^ 31)] }, by decide +kernel⟩,
   ⟨st (((running.setChiselCh 0 3 { ChiselCh.reset with queue := [0] }).modIo 0 fun x => { x with chisel := some ({ (default : CotTransfer) with regs := [] }) })), 0, 3, 0, [], { (default : CotTransfer) with regs := [] }, _, by decide +kernel, by decide +kernel, by decide +kernel, by decide +kernel, (Prod.eta _).symm⟩,
   ⟨st (((running.setChiselCh 0 3 { ChiselCh.reset with queue := [0] }).modIo 0 fun x => { x with chisel := some ({ (default : CotTransfer) with regs := [] }) })), 0, 3, 0, 0, 0, [], { (default : CotTransfer) with regs := [] }, .unsuccessful, by decide +kernel⟩,
   ⟨st ((running.setReg .CHS_P_SIZE 0 3 0x10002).setReg .CHS_P_PITCH 0 3 0x40004), .pf 0, 0, 3, 0, .fabric 0x400000000000,
       .fabric 0x400000000000, by decide +kernel⟩,
   ⟨st (running.setPrivBlit 0 3 (some (Hw.cotBlit 0 default))), 0, 3, Hw.cotBlit 0 default, _, by decide +kernel,
       by decide +kernel, by decide +kernel, by decide +kernel, rfl⟩,
   ⟨st (running.setPrivBlit 0 3 (some (Hw.cotBlit 0 default))), 0, 3, 0, 0, Hw.cotBlit 0 default, .poisoned,
       by decide +kernel⟩⟩

theorem witness_ParishInterrupts :
    (∃ (s : State) (ag : Agent) (n : Nat) (w : Nat), s.hw.act = true ∧ s.hw.sees ag .PIC_TAKE n w = true) ∧
    (∃ (s : State) (ag : Agent) (n : Nat) (w : Nat) (b : Nat) (v : Word), s.hw.act = true ∧
        s.hw.sees ag .PIC_ACT n w = true ∧ s.hw.changesLocked ag .PIC_ACT n w v.toNat = false ∧
            ((∀ j, j < 32 → bit v.toNat j = decide (j = b))) ∧ b < 32 ∧ 32 * w + b ∈ (s.hw.parish n).pic.act ∧
            Hw.picIsLevel (32 * w + b) = false) ∧
    (∃ (s : State) (ag : Agent) (n : Nat) (w : Nat) (b : Nat) (v : Word), s.hw.act = true ∧
        s.hw.sees ag .PIC_SET n w = true ∧ s.hw.changesLocked ag .PIC_SET n w v.toNat = false ∧
            ((∀ j, j < 32 → bit v.toNat j = decide (j = b))) ∧ b < 32 ∧ Hw.picIsLevel (32 * w + b) = false ∧
            ¬ (262 ≤ 32 * w + b ∧ 32 * w + b < 480)) ∧
    (∃ (s : State) (ag : Agent) (n : Nat) (w : Nat) (b : Nat) (v : Word), s.hw.act = true ∧
        s.hw.sees ag .PIC_SET n w = true ∧ s.hw.changesLocked ag .PIC_SET n w v.toNat = false ∧
            ((∀ j, j < 32 → bit v.toNat j = decide (j = b))) ∧ b < 32 ∧ Hw.picIsLevel (32 * w + b) = false ∧
            262 ≤ 32 * w + b ∧ 32 * w + b < 480) ∧
    (∃ (s : State) (ag : Agent) (n : Nat) (w : Nat) (v : Word), s.hw.act = true ∧ s.hw.sees ag .PIC_EN n w = true ∧
        s.hw.changesLocked ag .PIC_EN n w v.toNat = false) ∧
    (∃ (s : State) (n : Nat) (i : Nat) (t : Nat), s.hw.act = true ∧ (s.hw.parish n).pic.notify = [i] ∧ n < 16 ∧
        s.hw.picTarget n i = some t ∧ t < 4) ∧
    (∃ (s : State) (n : Nat) (i : Nat) (t : Nat), s.hw.act = true ∧ (s.hw.parish n).pic.notify = [i] ∧ n < 16 ∧
        s.hw.picTarget n i = some t ∧ 4 ≤ t ∧ t < 8) ∧
    (∃ (s : State) (n : Nat) (i : Nat), s.hw.act = true ∧ i ∈ (s.hw.parish n).pic.sampling) :=
  ⟨⟨st running, .pf 0, 0, 0, by decide +kernel⟩,
   ⟨st (running.modParish 0 fun p => { p with pic := { p.pic with act := [511] } }), .pf 0, 0, 15, 31, 2 ^ 31,
       by decide +kernel, by decide +kernel, by decide +kernel,
           (fun j hj => (by decide +kernel : ∀ j ∈ List.range 32,
           bit (2 ^ 31 : Word).toNat j = decide (j = 31)) j (List.mem_range.2 hj)), by decide +kernel, by decide +kernel,
           by decide +kernel⟩,
   ⟨st running, .pf 0, 0, 15, 0, 1, by decide +kernel, by decide +kernel, by decide +kernel,
       (fun j hj => (by decide +kernel : ∀ j ∈ List.range 32,
           bit (1 : Word).toNat j = decide (j = 0)) j (List.mem_range.2 hj)), by decide +kernel, by decide +kernel,
           by decide +kernel⟩,
   ⟨st running, .pf 0, 0, 8, 6, 64, by decide +kernel, by decide +kernel, by decide +kernel,
       (fun j hj => (by decide +kernel : ∀ j ∈ List.range 32,
           bit (64 : Word).toNat j = decide (j = 6)) j (List.mem_range.2 hj)), by decide +kernel, by decide +kernel,
           by decide +kernel⟩,
   ⟨st running, .pf 0, 0, 0, 0, by decide +kernel⟩,
   ⟨st (((running.modParish 0 fun p => { p with pic := { p.pic with notify := [256] } }).setFld F.PIC_TGT_MASK 0 64 8).setFld F.RVE_CTL_HALT 0 3 0), 0, 256, 3, by decide +kernel⟩,
   ⟨st (((running.modParish 0 fun p => { p with pic := { p.pic with notify := [256] } }).setFld F.PIC_TGT_MASK 0 64 128).setFld F.PIC_MSIX_EN 0 3 1), 0, 256, 7, by decide +kernel⟩,
   ⟨st (running.modParish 0 fun p => { p with pic := { p.pic with sampling := [511] } }), 0, 511, by decide +kernel⟩⟩

theorem witness_CottageInterrupts :
    (∃ (s : State) (c : Nat), s.hw.act = true ∧ (s.hw.ctx c).st = .run) ∧
    (∃ (s : State) (c : Nat) (v : Word), s.hw.act = true ∧ (s.hw.ctx c).st = .run) ∧
    (∃ (s : State) (c : Nat) (k : Nat) (v : Word), s.hw.act = true ∧ (s.hw.ctx c).st = .run ∧ k < 4 ∧
        k < (s.hw.cot c).io.timers.length) ∧
    (∃ (s : State) (c : Nat) (k : Nat) (a : Nat), s.hw.act = true ∧ (s.hw.vtimer c k).next = some a ∧
        a ≤ Hw.absCount (s.hw.cls c) (s.hw.stamp c) ∧ k < 4 ∧ k < (s.hw.cot c).io.timers.length) ∧
    (∃ (s : State) (c : Nat) (k : Nat), s.hw.act = true ∧ (s.hw.vtimer c k).next = none) :=
  ⟨⟨st running, 0, by decide +kernel⟩,
   ⟨st running, 0, 0, by decide +kernel⟩,
   ⟨st running, 0, 0, 0, by decide +kernel⟩,
   ⟨st (running.setVtimer 0 3 ⟨some (12 * (1600 * 525) + 40 * 1600 + 100), 5⟩), 0, 3, 12 * (1600 * 525) + 40 * 1600 + 100,
       by decide +kernel⟩,
   ⟨st running, 0, 0, by decide +kernel⟩⟩

theorem witness_TimerUnits :
    (∃ (s : State) (ag : Agent) (u : Nat) (v : Word), s.hw.act = true ∧ s.hw.sees ag .TMR_CTL 0 u = true ∧
        s.hw.ownsCode (s.hw.fld F.TMR_OWN_OWNER 0 u) ag = true ∧ bits (v.toNat ||| 1) 22 20 ≤ 4 ∧
            bit (v.toNat ||| 1) 1 = false ∧ s.hw.tmrHigh u = false) ∧
    (∃ (s : State) (ag : Agent) (u : Nat), s.hw.act = true ∧ s.hw.sees ag .TMR_CTL 0 u = true ∧
        s.hw.ownsCode (s.hw.fld F.TMR_OWN_OWNER 0 u) ag = true ∧ bits ((s.hw.reg .TMR_CTL 0 u).toNat ||| 2) 22 20 ≤ 4 ∧
            bit ((s.hw.reg .TMR_CTL 0 u).toNat ||| 2) 0 = false ∧ bit ((s.hw.reg .TMR_CTL 0 u).toNat ||| 2) 1 = true ∧
            s.hw.tmrHigh u = false) ∧
    (∃ (s : State) (ag : Agent) (u : Nat) (v : Word), s.hw.act = true ∧ s.hw.sees ag .TMR_CMP 0 u = true ∧
        s.hw.ownsCode (s.hw.fld F.TMR_OWN_OWNER 0 u) ag = true ∧ s.hw.tmrHigh u = false) ∧
    (∃ (s : State) (u : Nat), s.hw.act = true ∧ s.hw.tmrHigh u = false ∧ s.hw.flag F.TMR_STAT_RUN 0 u = true ∧
        s.hw.flag F.TMR_STAT_LF 0 u = false ∧ s.hw.flag F.TMR_STAT_DWELL 0 u = false) ∧
    (∃ (s : State) (u : Nat), s.hw.act = true ∧ s.hw.tmrHigh u = false ∧ s.hw.flag F.TMR_STAT_RUN 0 u = true ∧
        s.hw.flag F.TMR_STAT_LF 0 u = false ∧ s.hw.flag F.TMR_STAT_DWELL 0 u = true) ∧
    (∃ (s : State) (u : Nat), s.hw.act = true ∧ s.hw.flag F.TMR_STAT_DWELL 0 u = false ∧
        ((s.hw.tmrHigh u = true ∨ s.hw.flag F.TMR_STAT_RUN 0 u = false))) ∧
    (∃ (s : State) (u : Nat) (r : Bool), s.hw.act = true ∧ s.hw.tmrHigh u = false) ∧
    (∃ (s : State) (u : Nat), s.hw.power.standby = true ∧ s.hw.flag F.ERR_STAT_FATAL = false ∧ s.hw.tmrHigh u = false ∧
        s.hw.flag F.TMR_STAT_LF 0 u = true ∧ s.hw.flag F.TMR_STAT_RUN 0 u = true ∧ s.hw.flag F.TMR_STAT_DWELL 0 u = false) ∧
    (∃ (s : State) (ag : Agent) (m : Nat) (r : Nat), s.hw.act = true ∧ s.hw.flag F.TMR_CTL_LINK 0 (2 * m) = true ∧
        Hw.readerNo ag = some r) :=
  ⟨⟨st running, .pf 0, 0, 0, by decide +kernel⟩,
   ⟨st running, .pf 0, 0, by decide +kernel⟩,
   ⟨st running, .pf 0, 0, 0, by decide +kernel⟩,
   ⟨st ((running.setFld F.TMR_STAT_RUN 0 15 1)), 15, by decide +kernel⟩,
   ⟨st (((running.setFld F.TMR_STAT_RUN 0 15 1).setFld F.TMR_STAT_DWELL 0 15 1)), 15, by decide +kernel⟩,
   ⟨st running, 0, by decide +kernel⟩,
   ⟨st running, 0, false, by decide +kernel⟩,
   ⟨st (((running.setFld F.TMR_STAT_RUN 0 15 1).setFld F.TMR_STAT_LF 0 15 1)), 15, by decide +kernel⟩,
   ⟨st ((running.setFld F.TMR_CTL_LINK 0 14 1)), .pf 1, 7, 5, by decide +kernel⟩⟩

theorem witness_TreadleStep :
    (∃ (s : State) (t : Nat) (pads : Nat) (pe : Bool), s.hw.act = true ∧ s.hw.flag F.TRD_CTL_EN 0 t = false) ∧
    (∃ (s : State) (t : Nat) (pads : Nat), s.hw.act = true ∧ s.hw.flag F.TRD_CTL_EN 0 t = true ∧
        s.hw.trdStalls t (s.hw.trdEntry t pads) = true) ∧
    (∃ (s : State) (t : Nat) (pads : Nat) (e : Nat), s.hw.act = true ∧ s.hw.flag F.TRD_CTL_EN 0 t = true ∧
        s.hw.trdEntry t pads = e ∧ s.hw.trdStalls t e = false) :=
  ⟨⟨st running, 0, 0, false, by decide +kernel⟩,
   ⟨st ((running.setFld F.TRD_CTL_EN 0 3 1).setReg .TRD_LUT 0 3072 (2 ^ 19)), 3, 0, by decide +kernel⟩,
   ⟨st ((running.setFld F.TRD_CTL_EN 0 3 1)), 3, 0, 0, by decide +kernel⟩⟩

theorem witness_TreadleWithoutBlocking :
    (∃ (s : State) (t : Nat) (pads : Nat) (e : Nat), s.hw.act = true ∧ s.hw.flag F.TRD_CTL_EN 0 t = true ∧
        s.hw.trdEntry t pads = e ∧ bit e 22 = true) ∧
    (∃ (s : State) (t : Nat) (pads : Nat) (e : Nat) (pe : Bool), s.hw.act = true ∧ s.hw.flag F.TRD_CTL_EN 0 t = true ∧
        s.hw.trdEntry t pads = e ∧ s.hw.flag F.TRD_STAT_OVERRUN 0 t = true) ∧
    (∃ (s : State) (t : Nat) (pads : Nat) (e : Nat) (pe : Bool), ∃ w, ∃ l, s.hw.act = true ∧
        s.hw.flag F.TRD_CTL_EN 0 t = true ∧ s.hw.trdEntry t pads = e ∧ (s.hw.trd t).txf = w :: l ∧ pe = false ∧
            s.hw.trdStalls t e = false ∧ s.hw.trdDrawDue t e = true) ∧
    (∃ (s : State) (t : Nat) (pads : Nat) (e : Nat) (pe : Bool), s.hw.act = true ∧ s.hw.flag F.TRD_CTL_EN 0 t = true ∧
        s.hw.trdEntry t pads = e ∧
            ((s.hw.trd t).txf = [] ∨ pe = true ∨ s.hw.trdStalls t e = true ∨ s.hw.trdDrawDue t e = false)) :=
  ⟨⟨st ((running.setFld F.TRD_CTL_EN 0 3 1).setReg .TRD_LUT 0 3072 (2 ^ 22)), 3, 0, 2 ^ 22, by decide +kernel⟩,
   ⟨st (((running.setFld F.TRD_CTL_EN 0 3 1).setFld F.TRD_STAT_OVERRUN 0 3 1)), 3, 0, 0, false, by decide +kernel⟩,
   ⟨st ((running.setFld F.TRD_CTL_EN 0 3 1).setReg .TRD_LUT 0 3072 (2 ^ 19)
       |>.setTrd 3 { running.trd 3 with txf := [7] }), 3, 0, 2 ^ 19, false, (7 : Word), ([] : List Word), by decide +kernel⟩,
   ⟨st ((running.setFld F.TRD_CTL_EN 0 3 1)), 3, 0, 0, false, by decide +kernel⟩⟩

theorem witness_TreadleCommands :
    (∃ (s : State) (ag : Agent) (t : Nat) (v : Word), s.hw.act = true ∧ s.hw.sees ag .TRD_CTL 0 t = true ∧
        s.hw.trdOwned ag t = true ∧ bits (v.toNat ||| 2 ^ 31) 23 12 < 2048 ∧ bit (v.toNat ||| 2 ^ 31) 31 = true ∧
            s.hw.flag F.TRD_CTL_EN 0 t = false) ∧
    (∃ (s : State) (ag : Agent) (t : Nat) (v : Word), s.hw.act = true ∧ s.hw.sees ag .TRD_CTL 0 t = true ∧
        s.hw.trdOwned ag t = true ∧ bits (setBits v.toNat 31 31 0) 23 12 < 2048 ∧ s.hw.flag F.TRD_CTL_EN 0 t = true) ∧
    (∃ (s : State) (ag : Agent) (t : Nat), s.hw.act = true ∧ s.hw.sees ag .TRD_CMD 0 t = true ∧
        s.hw.trdOwned ag t = true ∧ s.hw.flag F.TRD_CTL_EN 0 t = false) ∧
    (∃ (s : State) (ag : Agent) (t : Nat), s.hw.act = true ∧ s.hw.sees ag .TRD_CMD 0 t = true ∧
        s.hw.trdOwned ag t = true ∧ s.hw.flag F.TRD_CTL_EN 0 t = true) ∧
    (∃ (s : State) (ag : Agent) (t : Nat) (v : Word), s.hw.act = true ∧ s.hw.sees ag .TRD_TXF 0 t = true ∧
        s.hw.trdOwned ag t = true ∧ (s.hw.trd t).txf.length < 8) ∧
    (∃ (s : State) (ag : Agent) (t : Nat) (v : Word), s.hw.act = true ∧ s.hw.sees ag .TRD_TXF 0 t = true ∧
        s.hw.trdOwned ag t = true ∧ 8 ≤ (s.hw.trd t).txf.length) ∧
    (∃ (s : State) (ag : Agent) (t : Nat), ∃ w, ∃ l, s.hw.act = true ∧ s.hw.sees ag .TRD_RXF 0 t = true ∧
        (s.hw.trd t).rxf = w :: l) ∧
    (∃ (s : State) (ag : Agent) (t : Nat), s.hw.act = true ∧ s.hw.sees ag .TRD_RXF 0 t = true ∧ (s.hw.trd t).rxf = []) ∧
    (∃ (s : State) (ag : Agent) (t : Nat) (i : Nat) (v : Word), s.hw.act = true ∧
        s.hw.sees ag .TRD_LUT 0 (1024 * t + i) = true ∧ s.hw.trdOwned ag t = true) :=
  ⟨⟨st (running.setFld F.TRD_OWN_OWNER 0 3 5), .pf 0, 3, 0, by decide +kernel⟩,
   ⟨st ((running.setFld F.TRD_OWN_OWNER 0 3 5).setFld F.TRD_CTL_EN 0 3 1), .pf 0, 3, 0, by decide +kernel⟩,
   ⟨st (running.setFld F.TRD_OWN_OWNER 0 3 5), .pf 0, 3, by decide +kernel⟩,
   ⟨st ((running.setFld F.TRD_OWN_OWNER 0 3 5).setFld F.TRD_CTL_EN 0 3 1), .pf 0, 3, by decide +kernel⟩,
   ⟨st (running.setFld F.TRD_OWN_OWNER 0 3 5), .pf 0, 3, 0, by decide +kernel⟩,
   ⟨st ((running.setFld F.TRD_OWN_OWNER 0 3 5).setTrd 3 { running.trd 3 with txf := List.replicate 8 0 }), .pf 0, 3, 0,
       by decide +kernel⟩,
   ⟨st (running.setTrd 3 { running.trd 3 with rxf := [7] }), .pf 0, 3, (7 : Word), ([] : List Word), by decide +kernel⟩,
   ⟨st running, .pf 0, 3, by decide +kernel⟩,
   ⟨st (running.setFld F.TRD_OWN_OWNER 0 3 5), .pf 0, 3, 1023, 0, by decide +kernel⟩⟩

theorem witness_LaneCommands :
    (∃ (s : State) (ag : Agent) (l : Nat) (v : Word) (present : Bool), s.hw.act = true ∧
        s.hw.sees ag .LAN_CFG 0 l = true ∧ s.hw.ownsCode (s.hw.fld F.LAN_CFG_OWNER 0 l) ag = true ∧
            bits v.toNat 30 28 = s.hw.fld F.LAN_CFG_OWNER 0 l ∧ bits v.toNat 30 28 ≠ 7) ∧
    (∃ (s : State) (l : Nat), s.hw.act = true) ∧
    (∃ (s : State) (ag : Agent) (b : Nat) (v : Word), s.hw.act = true ∧ s.hw.sees ag .LAN_OUT 0 b = true) ∧
    (∃ (s : State) (ag : Agent) (v : Word), s.hw.act = true ∧ s.hw.sees ag .LAN_SEC 0 0 = true ∧
        s.hw.flag F.LAN_SEC_LOCK = false) ∧
    (∃ (s : State) (ag : Agent) (v : Word), s.hw.act = true ∧ s.hw.sees ag .LAN_SEC 0 0 = true ∧
        s.hw.flag F.LAN_SEC_LOCK = true) ∧
    (∃ (s : State) (l : Nat), s.hw.power.asleep = true ∧ s.hw.power.standby = true ∧ bit (s.hw.lanCfg l) 15 = true ∧
        l < 48) ∧
    (∃ (s : State) (l : Nat), s.hw.power.asleep = false) ∧
    (∃ (s : State), s.hw.act = true ∧ (s.hw.laneOf 14 0 0).isSome = true) ∧
    (∃ (s : State), s.hw.act = true ∧ s.hw.laneOf 14 0 0 = none) ∧
    (∃ (s : State) (n : Nat), s.hw.act = true) :=
  ⟨⟨st ((running.setFld F.LAN_CFG_OWNER 0 47 5)), .pf 0, 47, 0x50000000, false, by decide +kernel⟩,
   ⟨st running, 47, by decide +kernel⟩,
   ⟨st running, .pf 0, 2, 0, by decide +kernel⟩,
   ⟨st running, .pf 0, 0, by decide +kernel⟩,
   ⟨st ((running.setFld F.LAN_SEC_LOCK 0 0 1)), .pf 0, 0, by decide +kernel⟩,
   ⟨st (({ running with power := { running.power with asleep := true } } : Hw).setReg .LAN_CFG 0 47 0x8000), 47,
       by decide +kernel⟩,
   ⟨st running, 0, by decide +kernel⟩,
   ⟨st (running.setReg .LAN_CFG 0 47 14), by decide +kernel⟩,
   ⟨st running, by decide +kernel⟩,
   ⟨st running, 15, by decide +kernel⟩⟩

theorem witness_PeripheralBytes :
    (∃ (s : State) (ag : Agent) (u : Nat) (b : Byte), s.hw.act = true ∧ s.hw.sees ag .LAN_UART 0 (6 * u + 3) = true ∧
        s.hw.ownsCode ((s.hw.reg .LAN_UART 0 (6 * u + 5)).toNat % 8) ag = true) ∧
    (∃ (s : State) (ag : Agent) (u : Nat) (b : Byte), s.hw.act = true ∧ s.hw.sees ag .LAN_UART 0 (6 * u + 3) = true ∧
        s.hw.ownsCode ((s.hw.reg .LAN_UART 0 (6 * u + 5)).toNat % 8) ag = false) ∧
    (∃ (s : State) (u : Nat) (err : Nat) (b : Byte), s.hw.act = true ∧ (s.hw.laneOf 9 u 1).isSome = true) ∧
    (∃ (s : State) (u : Nat) (err : Nat) (b : Byte), s.hw.act = true ∧ s.hw.laneOf 9 u 1 = none) ∧
    (∃ (s : State) (ag : Agent) (u : Nat) (v : Word) (miso : Word), s.hw.act = true ∧
        s.hw.sees ag .LAN_SPI 0 (7 * u + 3) = true ∧ s.hw.ownsCode ((s.hw.reg .LAN_SPI 0 (7 * u + 6)).toNat % 8) ag = true) ∧
    (∃ (s : State) (ag : Agent) (u : Nat) (v : Word) (data : Word) (status : Word), s.hw.act = true ∧
        s.hw.sees ag .LAN_I2C 0 (7 * u + 4) = true ∧
            s.hw.ownsCode ((s.hw.reg .LAN_I2C 0 (7 * u + 6)).toNat % 8) ag = true) :=
  ⟨⟨st (running.setReg .LAN_UART 0 11 5), .pf 0, 1, 0, by decide +kernel⟩,
   ⟨st running, .pf 0, 0, 0, by decide +kernel⟩,
   ⟨st (running.setReg .LAN_CFG 0 47 0x00100009), 0, 0, 0, by decide +kernel⟩,
   ⟨st running, 0, 0, 0, by decide +kernel⟩,
   ⟨st (running.setReg .LAN_SPI 0 6 5), .pf 0, 0, 0, 0, by decide +kernel⟩,
   ⟨st (running.setReg .LAN_I2C 0 6 5), .pf 0, 0, 0, 0, 0, by decide +kernel⟩⟩

theorem witness_FabricLinkAndPower :
    (∃ (s : State) (p : Nat) (rate : Nat) (width : Nat) (common : Nat) (flit : Bool), (s.hw.port p).perst = false ∧
        s.hw.boot.stage ≠ .held ∧ s.hw.power.coreOn = true ∧ (s.hw.port p).up = false ∧ rate < 8 ∧ width < 32 ∧
            16 ≤ width ∧ common ≤ rate) ∧
    (∃ (s : State) (p : Nat) (rate : Nat) (width : Nat) (common : Nat) (flit : Bool), (s.hw.port p).perst = false ∧
        s.hw.boot.stage ≠ .held ∧ s.hw.power.coreOn = true ∧ (s.hw.port p).up = false ∧ rate < 8 ∧ width < 32 ∧
            (width < 16 ∨ rate < common)) ∧
    (∃ (s : State) (o : Nat), o % 129 ≠ 0) ∧
    (∃ (s : State) (o : Nat), (s.hw.fn o).d3 = true ∧ s.hw.act = false) ∧
    (∃ (s : State) (o : Nat), (s.hw.fn o).d3 = true ∧ s.hw.act = true) ∧
    (∃ (s : State) (p : Nat) (b : Option Nat) (w : Bool) (r : Bool) (aged : Bool), s.hw.act = true) ∧
    (∃ (s : State) (p : Nat), s.hw.act = true ∧ (s.hw.port p).up = true ∧ (s.hw.port p).aspmEn = true) ∧
    (∃ (s : State) (p : Nat), s.hw.act = true ∧ (s.hw.port p).aspmEn = false) ∧
    (∃ (s : State) (p : Nat), s.hw.act = true ∧ (s.hw.port p).l1 = true) ∧
    (∃ (s : State) (p : Nat), s.hw.act = true ∧ (s.hw.port p).ptmEn = true ∧ (s.hw.port p).up = true) ∧
    (∃ (s : State) (p : Nat), s.hw.act = true ∧ s.hw.fld F.FAB_PTM_PORT ≠ p) ∧
    (∃ (s : State) (p : Nat) (n : Nat), s.hw.act = true ∧ s.hw.fld F.FAB_PTM_PORT = p ∧ n < 16 ∧
        ((∀ m, (s.hw.parish m).srcInForce = 1 ↔ m = n)) ∧ (s.hw.parish n).bellRuns = true ∧
            (s.hw.parish n).lockLostNow = false) ∧
    (∃ (s : State) (ag : Agent) (v : DWord), s.hw.act = true ∧ s.hw.sees ag .FAB_PTM_EPOCH 0 0 = true ∧
        s.hw.changesLocked ag .FAB_PTM_EPOCH 0 0 v.toNat = false) ∧
    (∃ s : State, s.hw.act = true ∧ (s.hw.port 1).ltrEn = true ∧ (s.hw.port 1).up = true ∧
      s.hw.ltrDue 1 (s.hw.ltrValue 1 none true true) false = true ∧ s.hw.ltrValue 1 none true true < 2 ^ 16) :=
  ⟨⟨st ({ up with ports := [(0, { Port.reset with perst := false })] }), 0, 7, 16, 7, false, by decide +kernel⟩,
   ⟨st ({ up with ports := [(0, { Port.reset with perst := false })] }), 0, 7, 15, 0, false, by decide +kernel⟩,
   ⟨st running, 1, by decide +kernel⟩,
   ⟨st (({ up with power := { up.power with coreOn := false } } : Hw).modFn 1 fun f => { f with d3 := true }), 1,
       by decide +kernel⟩,
   ⟨st (running.modFn 1 fun f => { f with d3 := true }), 1, by decide +kernel⟩,
   ⟨st running, 0, none, false, false, false, by decide +kernel⟩,
   ⟨st (running.setPort 1 { running.port 1 with aspmEn := true }), 1, by decide +kernel⟩,
   ⟨st running, 0, by decide +kernel⟩,
   ⟨st (running.setPort 1 { running.port 1 with l1 := true }), 1, by decide +kernel⟩,
   ⟨st (running.setPort 1 { running.port 1 with ptmEn := true }), 1, by decide +kernel⟩,
   ⟨st running, 1, by decide +kernel⟩,
   ⟨st (running.modParish 0 fun p => { p with srcInForce := 1 }), 0, 0, by decide +kernel, by decide +kernel,
       by decide +kernel, ptm_one, by decide +kernel, by decide +kernel⟩,
   ⟨st running, .pf 0, 0, by decide +kernel⟩,
   ⟨st (running.setPort 1 { running.port 1 with ltrEn := true }), by decide +kernel⟩⟩

theorem witness_FabricResets :
    (∃ (s : State) (p : Nat), (s.hw.port (1 - p)).perst = true) ∧
    (∃ (s : State) (p : Nat) (kind : Nat), ¬ (kind = 0 ∧ (s.hw.port (1 - p)).perst = true)) ∧
    (∃ (s : State) (p : Nat) (v : Nat), (s.hw.fn (129 * p + v)).enabled = false) ∧
    (∃ (s : State) (p : Nat) (v : Nat), (s.hw.fn (129 * p + v)).enabled = true ∧
        ((s.hw.act = true ∨ s.hw.flag F.ERR_STAT_FATAL = true))) ∧
    (∃ (s : State) (p : Nat), ((s.hw.act = false → s.hw.flag F.ERR_STAT_FATAL = true))) ∧
    (∃ (s : State) (o : Nat), (s.hw.fn o).flr = true ∧ s.hw.flag F.ERR_STAT_FATAL = true) ∧
    (∃ (s : State) (o : Nat), (s.hw.fn o).flr = true ∧ s.hw.flag F.ERR_STAT_FATAL = false) ∧
    (∃ (s : State) (o : Nat), (s.hw.fn o).flr = false) ∧
    (∃ (s : State) (p : Nat) (n : Nat), (s.hw.port p).numVfs ≤ n) ∧
    (∃ (s : State) (p : Nat) (n : Nat), ∃ v, n < (s.hw.port p).numVfs ∧ (s.hw.fn (129 * p)).d3 = false ∧
        s.hw.boot.stage = .released ∧ n < v ∧ v ≤ 128 ∧ (s.hw.fn (129 * p + v)).enabled = true) :=
  ⟨⟨st (Hw.reset), 0, by decide +kernel⟩,
   ⟨st running, 0, 0, by decide +kernel⟩,
   ⟨st running, 0, 2, by decide +kernel⟩,
   ⟨st running, 0, 1, by decide +kernel⟩,
   ⟨st running, 0, by decide +kernel⟩,
   ⟨st ((running.modFn 1 fun f => { f with flr := true }).setFld F.ERR_STAT_FATAL 0 0 1), 1, by decide +kernel⟩,
   ⟨st ((running.modFn 1 fun f => { f with flr := true })), 1, by decide +kernel⟩,
   ⟨st running, 0, by decide +kernel⟩,
   ⟨st running, 0, 1, by decide +kernel⟩,
   ⟨st running, 0, 0, 1, by decide +kernel⟩⟩

theorem witness_SpdmResponder :
    (∃ (s : State) (i : Nat) (req : List Byte), s.hw.connAnswers i = false) ∧
    (∃ (s : State) (i : Nat) (req : List Byte), s.hw.connAnswers i = true ∧ (s.hw.conn i).stage < 1) ∧
    (∃ (s : State) (i : Nat) (req : List Byte), s.hw.connAnswers i = true ∧ (s.hw.conn i).stage < 2) ∧
    (∃ (s : State) (i : Nat) (req : List Byte), s.hw.connAnswers i = true ∧ (s.hw.conn i).stage < 3) ∧
    (∃ (s : State) (i : Nat) (req : List Byte), s.hw.connAnswers i = true ∧ 1 ≤ (s.hw.conn i).stage) ∧
    (∃ (s : State) (i : Nat) (req : List Byte), s.hw.connAnswers i = true ∧ 2 ≤ (s.hw.conn i).stage) ∧
    (∃ (s : State) (i : Nat) (req : List Byte) (key : BitVec 384), let off := fromLe ((req.drop 4).take 2);
        s.hw.connAnswers i = true ∧ 3 ≤ (s.hw.conn i).stage ∧ s.hw.boot.aliasKey = some key ∧
            (req.getD 2 0).toNat % 16 = 0 ∧ off < (s.hw.aliasChain key).length) ∧
    (∃ (s : State) (i : Nat) (req : List Byte) (key : BitVec 384), s.hw.connAnswers i = true ∧ 3 ≤ (s.hw.conn i).stage ∧
        s.hw.boot.aliasKey = some key ∧ req.getD 2 0 = 0 ∧ req.getD 3 0 = 0) ∧
    (∃ (s : State) (i : Nat) (req : List Byte) (key : BitVec 384), s.hw.connAnswers i = true ∧ 3 ≤ (s.hw.conn i).stage ∧
        s.hw.boot.aliasKey = some key ∧ s.hw.blocksOf (req.getD 3 0).toNat ≠ [] ∧ (req.getD 3 0).toNat ≠ 0 ∧
            bit (req.getD 2 0).toNat 0 = false) :=
  ⟨⟨st (Hw.reset), 1, [], by decide +kernel⟩,
   ⟨st running, 1, [], by decide +kernel⟩,
   ⟨st running, 1, [], by decide +kernel⟩,
   ⟨st running, 1, [], by decide +kernel⟩,
   ⟨st (running.setConn 2 ⟨1, [], [], []⟩), 2, [], by decide +kernel⟩,
   ⟨st (running.setConn 2 ⟨2, [], [], []⟩), 2, [], by decide +kernel⟩,
   ⟨st (({ running with boot := { running.boot with aliasKey := some 5 } } : Hw).setConn 2 ⟨3, [], [], []⟩), 2, [], 5,
       by decide +kernel, by decide +kernel, by decide +kernel, by decide +kernel,
           Nat.lt_of_lt_of_le (by decide) (alias_len _ _)⟩,
   ⟨st (({ running with boot := { running.boot with aliasKey := some 5 } } : Hw).setConn 2 ⟨3, [], [], []⟩), 2, [], 5,
       by decide +kernel⟩,
   ⟨st (({ running with boot := { running.boot with aliasKey := some 5 } } : Hw).setConn 2 ⟨3, [], [], []⟩), 2,
       [0, 0, 0, 1], 5, by decide +kernel⟩⟩

theorem witness_SidebandReads :
    (∃ (s : State), s.hw.power.standby = true) ∧
    (∃ (s : State), ∃ v, s.hw.power.standby = true ∧ v < 2 ^ 16) ∧
    (∃ (s : State), ∃ t, s.hw.power.standby = true ∧ t < 2 ^ 8) ∧
    (∃ (s : State) (hdr : Byte) (eid : Byte) (op : Nat), s.hw.power.standby = true ∧ op ≤ 1 ∧ eid ≠ 0 ∧ eid ≠ 0xFF) ∧
    (∃ (s : State) (hdr : Byte), s.hw.power.standby = true) ∧
    (∃ (s : State) (hdr : Byte) (type : Byte), s.hw.power.standby = true ∧ ((type = 0xFF ∨ type = 0 ∨ type = 5))) :=
  ⟨⟨st running, by decide +kernel⟩,
   ⟨st running, 65535, by decide +kernel⟩,
   ⟨st running, 255, by decide +kernel⟩,
   ⟨st running, 0, 0xFE, 0, by decide +kernel⟩,
   ⟨st running, 0, by decide +kernel⟩,
   ⟨st running, 0, 0, by decide +kernel⟩⟩

theorem witness_SidebandStatus :
    (∃ (s : State) (hdr : Byte) (eid : Byte) (type : Byte) (code : Byte) (op : Nat) (v : Nat) (temps : List Nat),
        s.hw.power.standby = false) ∧
    (∃ (s : State) (code : Byte), s.hw.power.standby = true ∧ Hw.pmReadOnly.contains code.toNat = false) ∧
    (∃ (s : State) (code : Byte), s.hw.power.standby = true ∧ Hw.pmReadOnly.contains code.toNat = true) ∧
    (∃ (s : State) (code : Byte), s.hw.power.standby = true ∧ s.hw.sbd.alert = true) ∧
    (∃ (s : State) (code : Byte), s.hw.power.standby = true ∧ s.hw.sbd.alert = false) ∧
    (∃ (s : State) (v : Nat) (temps : List Nat), s.hw.power.standby = true) ∧
    (∃ (s : State) (hdr : Byte) (eid : Byte) (op : Nat), s.hw.power.standby = true ∧ ¬ (op ≤ 1 ∧ eid ≠ 0 ∧ eid ≠ 0xFF)) ∧
    (∃ (s : State) (hdr : Byte) (type : Byte), s.hw.power.standby = true ∧ (¬ (type = 0xFF ∨ type = 0 ∨ type = 5))) :=
  ⟨⟨st ({ running with power := { running.power with standby := false } }), 0, 0, 0, 0, 0, 0, [], by decide +kernel⟩,
   ⟨st running, 0, by decide +kernel⟩,
   ⟨st running, 0x19, by decide +kernel⟩,
   ⟨st ({ running with sbd := { running.sbd with alert := true } }), 0, by decide +kernel⟩,
   ⟨st running, 0, by decide +kernel⟩,
   ⟨st running, 0, [], by decide +kernel⟩,
   ⟨st running, 0, 0, 0, by decide +kernel⟩,
   ⟨st running, 0, 1, by decide +kernel⟩⟩

theorem witness_HobArithmetic :
    (∃ (s : State) (op : AluOp) (who : Ctx) (pre : List Byte) (a : AluArgs), s.hw.act = true ∧
        s.hw.Issues who (aluLen pre a) ∧
            encodingFault who ⟨true, Hw.aluImm a, false⟩ pre (Hw.aluLegal op pre a) false = 0) :=
  ⟨st core, .add, .cottage 0, [], .imm ⟨15, 0⟩ 255 true, by decide +kernel, cot_issues (by decide), by decide +kernel⟩

theorem witness_HobOtherArithmetic :
    (∃ (s : State) (who : Ctx) (pre : List Byte) (ob : Ob), let x := s.hw.issued who; let b := x.read ob.b;
        s.hw.act = true ∧ s.hw.Issues who (pre.length + 2) ∧
            encodingFault who ⟨true, false, false⟩ pre (ob.b == 0) false = 0) ∧
    (∃ (s : State) (who : Ctx) (pre : List Byte) (ob : Ob), let x := s.hw.issued who; let b := x.read ob.b;
        s.hw.act = true ∧ s.hw.Issues who (pre.length + 2) ∧
            encodingFault who ⟨false, false, false⟩ pre (ob.b == 0) false = 0) ∧
    (∃ (s : State) (who : Ctx) (pre : List Byte) (ob : Ob) (sgn : Bool), s.hw.act = true ∧
        s.hw.Issues who (pre.length + 2) ∧ encodingFault who ⟨false, false, false⟩ pre true false = 0) ∧
    (∃ (s : State) (who : Ctx) (pre : List Byte) (ob : Ob) (m : MemArgs), s.hw.act = true ∧
        s.hw.Issues who (memLen pre m) ∧ encodingFault who ⟨false, true, false⟩ pre (memFields m) false = 0) :=
  ⟨⟨st core, .cottage 0, [], ⟨15, 0⟩, by decide +kernel, cot_issues (by decide), by decide +kernel⟩,
   ⟨st core, .cottage 0, [], ⟨15, 0⟩, by decide +kernel, cot_issues (by decide), by decide +kernel⟩,
   ⟨st core, .cottage 0, [], ⟨14, 15⟩, false, by decide +kernel, cot_issues (by decide), by decide +kernel⟩,
   ⟨st core, .cottage 0, [], ⟨15, 0⟩, ⟨⟨15, 0⟩, 0, 0, 15, 0⟩, by decide +kernel, cot_issues (by decide), by decide +kernel⟩⟩

theorem witness_ConditionalMoves :
    (∃ (s : State) (who : Ctx) (pre : List Byte) (ob : Ob) (cc : BitVec 4), s.hw.act = true) :=
  ⟨st running, .cottage 0, [], ⟨1, 2⟩, 0, by decide +kernel⟩

theorem witness_AluValues :
    (∃ (w : Nat) (d : Nat) (b : Nat) (n : Nat) (c : Bool), ((w = 8 ∨ w = 16 ∨ w = 32)) ∧ d < 2 ^ w ∧ b < 2 ^ w) :=
  ⟨8, 255, 255, 0, false, by decide +kernel⟩

theorem witness_HighWordsAndQuotients :
    (∃ (d : Word) (b : Word), b ≠ 0 ∧ ¬ (d = 0x80000000 ∧ b = BitVec.allOnes 32)) :=
  ⟨0x80000000, 2, by decide +kernel⟩

theorem witness_ResultsLand :
    (∃ (x : Hob) (o : AluOut) (w : Nat) (dist : Nat), ((w = 8 ∨ w = 16 ∨ w = 32))) ∧
    (∃ (x : Hob) (w : Nat) (n : BitVec 4) (dist : Nat) (v : Word), ((w = 8 ∨ w = 16 ∨ w = 32))) ∧
    (∃ (x : Hob), ((∀ p ∈ x.queue, 2 ≤ p.dist))) ∧
    (∃ (x : Hob), ((∀ p ∈ x.queue, p.dist ≤ 1))) :=
  ⟨⟨Hob.reset, ⟨0, none, none⟩, 8, 0, by decide +kernel⟩,
   ⟨Hob.reset, 16, 0, 0, 0, by decide +kernel⟩,
   ⟨Hob.reset, by decide +kernel⟩,
   ⟨Hob.reset, by decide +kernel⟩⟩

theorem witness_LoadsAndStores :
    (∃ (s : State) (who : Ctx) (pre : List Byte) (m : MemArgs) (ob : Ob) (ev : AccessEvent) (g : Hw), ∃ v, let x := s.hw.issued who; let w := preWidth pre; let a := (x.address pre m).toNat; s.hw.act = true ∧ ((∀ r, who = .reeve r → (g.reeve r).hob = (s.hw.reeve r).hob)) ∧ s.hw.Issues who (memLen pre m) ∧ encodingFault who ⟨true, true, true⟩ pre (memFields m) false = 0 ∧ s.hw.load who (preSpace pre) a (w / 8) ev = .ok (v, g)) ∧
    (∃ (s : State) (who : Ctx) (pre : List Byte) (m : MemArgs) (ob : Ob) (ev : AccessEvent) (g : Hw), let x := s.hw.issued who; let w := preWidth pre; let a := (x.address pre m).toNat; s.hw.act = true ∧ ((∀ r, who = .reeve r → (g.reeve r).hob = (s.hw.reeve r).hob)) ∧ s.hw.Issues who (memLen pre m) ∧ encodingFault who ⟨true, true, true⟩ pre (memFields m) false = 0 ∧ s.hw.store who (preSpace pre) a (w / 8) ((x.read m.ob.a).toNat % 2 ^ w) ev = .ok g) ∧
    (∃ (s : State) (who : Ctx) (pre : List Byte) (m : MemArgs) (ob : Ob) (ev : AccessEvent) (g : Hw), ∃ v, let x := s.hw.issued who; let a := (x.address pre m).toNat; s.hw.act = true ∧ ((∀ r, who = .reeve r → (g.reeve r).hob = (s.hw.reeve r).hob)) ∧ s.hw.Issues who (memLen pre m) ∧ encodingFault who ⟨false, true, false⟩ pre (memFields m && m.ob.a.toNat % 2 == 0) false = 0 ∧ s.hw.load who .default a 8 ev = .ok (v, g)) ∧
    (∃ (s : State) (who : Ctx) (pre : List Byte) (m : MemArgs) (ob : Ob) (ev : AccessEvent) (g : Hw), let x := s.hw.issued who; let a := (x.address pre m).toNat; s.hw.act = true ∧ ((∀ r, who = .reeve r → (g.reeve r).hob = (s.hw.reeve r).hob)) ∧ s.hw.Issues who (memLen pre m) ∧ encodingFault who ⟨false, true, false⟩ pre (memFields m && m.ob.a.toNat % 2 == 0) false = 0 ∧ s.hw.store who .default a 8 ((x.read m.ob.a).toNat + (x.read (m.ob.a + 1)).toNat * 2 ^ 32) ev = .ok g) ∧
    (∃ (s : State) (who : Ctx) (pre : List Byte) (m : MemArgs) (ob : Ob) (ev : AccessEvent) (g : Hw), let x := s.hw.issued who; let a := (x.address pre m).toNat; s.hw.act = true ∧ ((∀ r, who = .reeve r → (g.reeve r).hob = (s.hw.reeve r).hob)) ∧ s.hw.Issues who (pre.length + 2) ∧ encodingFault who ⟨false, false, false⟩ pre (ob.b == 0) false = 0 ∧ x.sp.toNat % 4 = 0 ∧ s.hw.store who .default (x.sp - 4).toNat 4 (x.read ob.a).toNat ev = .ok g) ∧
    (∃ (s : State) (who : Ctx) (pre : List Byte) (m : MemArgs) (ob : Ob) (ev : AccessEvent) (g : Hw), ∃ v, let x := s.hw.issued who; s.hw.act = true ∧ ((∀ r, who = .reeve r → (g.reeve r).hob = (s.hw.reeve r).hob)) ∧ s.hw.Issues who (pre.length + 2) ∧ encodingFault who ⟨false, false, false⟩ pre (ob.b == 0) false = 0 ∧ x.sp.toNat % 4 = 0 ∧ s.hw.load who .default x.sp.toNat 4 ev = .ok (v, g)) :=
  ⟨⟨st core, .cottage 0, [], ⟨⟨14, 0⟩, 0, 0, 15, 0⟩, ⟨15, 0⟩, .hit, _, _, by decide +kernel, (fun _ e => by cases e),
      cot_issues (by decide), by decide +kernel, rfl⟩,
   ⟨st core, .cottage 0, [], ⟨⟨14, 0⟩, 0, 0, 15, 0⟩, ⟨15, 0⟩, .hit, _, by decide +kernel, (fun _ e => by cases e),
       cot_issues (by decide), by decide +kernel, rfl⟩,
   ⟨st core, .cottage 0, [], ⟨⟨14, 0⟩, 0, 0, 15, 0⟩, ⟨15, 0⟩, .hit, _, _, by decide +kernel, (fun _ e => by cases e),
       cot_issues (by decide), by decide +kernel, rfl⟩,
   ⟨st core, .cottage 0, [], ⟨⟨14, 0⟩, 0, 0, 15, 0⟩, ⟨15, 0⟩, .hit, _, by decide +kernel, (fun _ e => by cases e),
       cot_issues (by decide), by decide +kernel, rfl⟩,
   ⟨st core, .cottage 0, [], ⟨⟨14, 0⟩, 0, 0, 15, 0⟩, ⟨15, 0⟩, .hit, _, by decide +kernel, (fun _ e => by cases e),
       cot_issues (by decide), by decide +kernel, by decide +kernel, rfl⟩,
   ⟨st core, .cottage 0, [], ⟨⟨14, 0⟩, 0, 0, 15, 0⟩, ⟨15, 0⟩, .hit, _, _, by decide +kernel, (fun _ e => by cases e),
       cot_issues (by decide), by decide +kernel, by decide +kernel, rfl⟩⟩

theorem witness_MemoryAccesses :
    (∃ (h : Hw) (c : Nat) (a : Nat) (n : Nat) (v : Nat) (ev : AccessEvent), 0 < n ∧ a % n ≠ 0) ∧
    (∃ (h : Hw) (c : Nat) (a : Nat) (n : Nat) (v : Nat) (ev : AccessEvent), 0 < n ∧ a % n = 0 ∧ 2 ^ 28 < a + n) ∧
    (∃ (h : Hw) (c : Nat) (a : Nat) (n : Nat) (v : Nat) (ev : AccessEvent), 0 < n ∧ n ≠ 4) ∧
    (∃ (h : Hw) (c : Nat) (a : Nat) (n : Nat) (v : Nat) (ev : AccessEvent), 0 < n ∧ a % 4 ≠ 0) ∧
    (∃ (h : Hw) (c : Nat) (a : Nat) (n : Nat) (v : Nat) (ev : AccessEvent), ∃ d, ∃ (g : Hw), 0 < n ∧ a % n = 0 ∧
        a + n ≤ 2 ^ 28 ∧ ev = .hit ∧ h.loadAt c a n = (.value d, g)) ∧
    (∃ (h : Hw) (c : Nat) (a : Nat) (n : Nat) (v : Nat) (ev : AccessEvent), ∃ f, ∃ off, ∃ (g : Hw), ∃ f', ∃ (g' : Hw),
        0 < n ∧ a % n = 0 ∧ a + n ≤ 2 ^ 28 ∧ ev = .hit ∧ h.resolve c a true = (.at f off, g) ∧
            g.writeGate c f off (Hw.moveEntry c (a / 0x100000)) = (.ready f', g')) ∧
    (∃ (h : Hw) (r : Nat) (a : Nat) (n : Nat) (v : Nat) (ev : AccessEvent), 0 < n ∧ a % n ≠ 0) ∧
    (∃ (h : Hw) (r : Nat) (a : Nat) (n : Nat) (v : Nat) (ev : AccessEvent), 0 < n ∧ n ≠ 4) ∧
    (∃ (h : Hw) (r : Nat) (a : Nat) (n : Nat) (v : Nat) (ev : AccessEvent), 0 < n ∧ a % 4 ≠ 0) ∧
    (∃ (h : Hw) (r : Nat) (a : Nat) (n : Nat) (v : Nat) (ev : AccessEvent), 0 < n ∧
        h.flag F.RVE_WIN_EN 0 (16 * r + a / 0x10000000) = false ∧ a % n = 0) ∧
    (∃ (h : Hw) (r : Nat) (a : Nat) (n : Nat) (v : Nat) (ev : AccessEvent), 0 < n) ∧
    (∃ (h : Hw) (r a n : Nat) (m : Nat), m = h.fld F.RVE_WIN_BASE 0 (16 * r + a / 0x10000000) * 0x100000 + a % 0x10000000 ∧
      h.flag F.RVE_WIN_EN 0 (16 * r + a / 0x10000000) = true ∧ a % n = 0 ∧ m < 0x1000000000 ∧ h.poisonedAt m n = false) ∧
    (∃ (h : Hw) (r a n : Nat) (m : Nat), m = h.fld F.RVE_WIN_BASE 0 (16 * r + a / 0x10000000) * 0x100000 + a % 0x10000000 ∧
      h.flag F.RVE_WIN_EN 0 (16 * r + a / 0x10000000) = true ∧ a % n = 0 ∧ 0x1100000000 ≤ m ∧ m < 0x1100010000) :=
  ⟨⟨running, 0, 1, 2, 0, .hit, by decide +kernel⟩,
   ⟨running, 0, 2 ^ 28, 4, 0, .hit, by decide +kernel⟩,
   ⟨running, 0, 0, 8, 0, .hit, by decide +kernel⟩,
   ⟨running, 0, 1, 4, 0, .hit, by decide +kernel⟩,
   ⟨core, 0, 0, 8, 0, .hit, _, _, by decide +kernel, by decide +kernel, by decide +kernel, by decide +kernel, rfl⟩,
   ⟨core, 0, 0, 8, 0, .hit, _, _, _, _, _, by decide +kernel, by decide +kernel, by decide +kernel, by decide +kernel,
       rfl, rfl⟩,
   ⟨running, 0, 1, 8, 0, .hit, by decide +kernel⟩,
   ⟨running, 0, 0, 8, 0, .hit, by decide +kernel⟩,
   ⟨running, 0, 1, 4, 0, .hit, by decide +kernel⟩,
   ⟨running, 3, 0xFFFFFFF8, 8, 0, .hit, by decide +kernel⟩,
   ⟨running, 0, 0, 8, 0, .hit, by decide +kernel⟩,
   ⟨core, 0, 0xFFFFFF8, 8, 200 * 0x100000 + 0xFFFFFF8, by decide +kernel⟩,
   ⟨core.setFld F.RVE_WIN_BASE 0 0 0x11000, 0, 0xFFF8, 8, 0x1100000000 + 0xFFF8, by decide +kernel⟩⟩

theorem witness_ControlTransfers :
    (∃ (s : State) (who : Ctx) (pre : List Byte) (ev : AccessEvent), let n := pre.length + 1 + immLen pre;
        s.hw.act = true ∧ s.hw.inSlot who = false ∧ s.hw.Issues who n ∧
            encodingFault who ⟨false, true, false⟩ pre true false = 0) ∧
    (∃ (s : State) (who : Ctx) (pre : List Byte) (ev : AccessEvent), ∃ r, ∃ cc, let x := s.hw.issued who;
        let n := pre.length + 1 + immLen pre;
            s.hw.act = true ∧ s.hw.inSlot who = false ∧ who = .reeve r ∧ (s.hw.reeve r).bmode = true ∧ s.hw.Issues who n ∧
            encodingFault who ⟨false, true, false⟩ pre true true = 0 ∧ holds cc x.fl = true) ∧
    (∃ (s : State) (who : Ctx) (pre : List Byte) (ev : AccessEvent), ∃ r, ∃ cc, ∃ k, let x := s.hw.issued who;
        let n := pre.length + 1 + immLen pre; let next := (s.hw.hobOf who).pc + BitVec.ofNat 32 n;
            s.hw.act = true ∧ s.hw.inSlot who = false ∧ who = .reeve r ∧ (s.hw.reeve r).bmode = true ∧ s.hw.Issues who n ∧
            encodingFault who ⟨false, true, false⟩ pre true true = 0 ∧ holds cc x.fl = false ∧
            s.hw.lengthAt r next = .ok k) ∧
    (∃ (s : State) (who : Ctx) (pre : List Byte) (ev : AccessEvent), ∃ j, ∃ (back : Word) (g : Hw), let x := s.hw.issued who; let after := fun (j : JumpArgs) => (s.hw.hobOf who).pc + BitVec.ofNat 32 (jumpLen pre j); s.hw.act = true ∧ s.hw.inSlot who = false ∧ s.hw.Issues who (jumpLen pre j) ∧ s.hw.jumpBad who pre j = 0 ∧ s.hw.afterSlot who (after j) = .ok back ∧ x.sp.toNat % 4 = 0 ∧ s.hw.store who .default (x.sp - 4).toNat 4 back.toNat ev = .ok g ∧ ((∀ r, who = .reeve r → (g.reeve r).hob = (s.hw.reeve r).hob))) ∧
    (∃ (s : State) (who : Ctx) (pre : List Byte) (ev : AccessEvent) (g : Hw), ∃ v, let x := s.hw.issued who;
        s.hw.act = true ∧ s.hw.inSlot who = false ∧ s.hw.Issues who (pre.length + 1) ∧
            encodingFault who ⟨false, false, false⟩ pre true false = 0 ∧
            ((∀ r, who = .reeve r → (g.reeve r).hob = (s.hw.reeve r).hob)) ∧ x.sp.toNat % 4 = 0 ∧
            s.hw.load who .default x.sp.toNat 4 ev = .ok (v, g)) ∧
    (∃ (s : State) (who : Ctx) (pre : List Byte) (ev : AccessEvent) (g : Hw), s.hw.act = true ∧ s.hw.inSlot who = false ∧
        s.hw.Issues who (pre.length + 1) ∧ encodingFault who ⟨false, false, false⟩ pre true false = 0 ∧
            ((∀ r, who = .reeve r → (g.reeve r).hob = (s.hw.reeve r).hob))) ∧
    (∃ (x : Hob) (v fl : Nat) (k g : Hw), x = Hw.Hob.landAll (core.hobOf (.cottage 0)).issue ∧ x.sp.toNat % 4 = 0 ∧
      core.load (.cottage 0) .default x.sp.toNat 4 .hit = .ok (v, k) ∧
      k.load (.cottage 0) .default (x.sp + 4).toNat 4 .hit = .ok (fl, g)) :=
  ⟨⟨st core, .cottage 0, [], .hit, by decide +kernel, by decide +kernel, cot_issues (by decide), by decide +kernel⟩,
   ⟨st core, .reeve 0, [], .hit, 0, 14, by decide +kernel, by decide +kernel, by decide +kernel, by decide +kernel,
       reeve_issues (by decide), by decide +kernel, by decide +kernel⟩,
   ⟨st core, .reeve 0, [], .hit, 0, 0, _, by decide +kernel, by decide +kernel, by decide +kernel, by decide +kernel,
       reeve_issues (by decide), by decide +kernel, by decide +kernel, rfl⟩,
   ⟨st core, .cottage 0, [], .hit, .reg ⟨15, 0⟩, _, _, by decide +kernel, by decide +kernel, cot_issues (by decide),
       by decide +kernel, rfl, by decide +kernel, rfl, (fun _ e => by cases e)⟩,
   ⟨st core, .cottage 0, [], .hit, _, _, by decide +kernel, by decide +kernel, cot_issues (by decide), by decide +kernel,
       (fun _ e => by cases e), by decide +kernel, rfl⟩,
   ⟨st core, .cottage 0, [], .hit, core, by decide +kernel, by decide +kernel, cot_issues (by decide), by decide +kernel,
       (fun _ e => by cases e)⟩,
   ⟨_, _, _, _, _, rfl, by decide +kernel, rfl, rfl⟩⟩

theorem witness_SystemInstructions :
    (∃ (s : State) (who : Ctx) (pre : List Byte), let n := pre.length + 1;
        let plain := encodingFault who ⟨false, false, false⟩ pre true false = 0;
            s.hw.act = true ∧ s.hw.Issues who n ∧ plain) ∧
    (∃ (s : State) (who : Ctx) (pre : List Byte) (opc : Byte), ∃ c, let n := pre.length + 1;
        s.hw.act = true ∧ opc ≠ 0x80 ∧ s.hw.Issues who n ∧ who = .cottage c) ∧
    (∃ (s : State) (who : Ctx) (pre : List Byte) (opc : Byte), ∃ r, let n := pre.length + 1;
        s.hw.act = true ∧ opc ≠ 0x80 ∧ s.hw.Issues who n ∧ who = .reeve r) ∧
    (∃ (s : State) (who : Ctx) (pre : List Byte), ∃ r, let n := pre.length + 1;
        s.hw.act = true ∧ who = .reeve r ∧ s.hw.Issues who n ∧ encodingFault who ⟨false, false, false⟩ pre true true = 0 ∧
            s.hw.inSlot who = false) ∧
    (∃ (s : State) (who : Ctx) (pre : List Byte) (ob : Ob), let n := pre.length + 1;
        s.hw.act = true ∧ s.hw.Issues who (n + 1) ∧
            encodingFault who ⟨false, false, false⟩ pre (Hw.isSpecial ob.b) (Hw.isReeveSpecial ob.b) = 0) ∧
    (∃ (s : State) (who : Ctx) (pre : List Byte) (ob : Ob), let n := pre.length + 1;
        s.hw.act = true ∧ s.hw.Issues who (n + 1) ∧
            encodingFault who ⟨false, false, false⟩ pre (Hw.isSpecial ob.b) (Hw.isReeveSpecial ob.b) = 0) ∧
    (∃ (s : State) (who : Ctx) (pre : List Byte) (t : LineArgs), ∃ c, s.hw.act = true ∧ who = .cottage c) ∧
    (∃ (c : Nat) (t : BitVec 16), core.Issues (.cottage c) 3 ∧
        encodingFault (.cottage c) ⟨false, false, false⟩ [] true false = 0 ∧
      1 ≤ t.toNat ∧ t.toNat = (core.cls c).tl ∧ 0 < (core.cls c).vcpl ∧
          (core.ctx c).vc < (core.cls c).vcpl * (core.cls c).tl ∧
      (core.ctx c).vc / (core.cls c).vcpl < t.toNat) ∧
    (∃ ob : Ob, core.Issues (.reeve 0) 2 ∧
        encodingFault (.reeve 0) ⟨false, false, false⟩ [] (Hw.isSpecial ob.b) (Hw.isReeveSpecial ob.b) = 0 ∧
      ob.b = 4) :=
  ⟨⟨st core, .cottage 0, [], by decide +kernel, cot_issues (by decide), by decide +kernel⟩,
   ⟨st core, .cottage 0, [], 0x5A, 0, by decide +kernel, by decide +kernel, cot_issues (by decide), by decide +kernel⟩,
   ⟨st core, .reeve 0, [], 0xFF, 0, by decide +kernel, by decide +kernel, reeve_issues (by decide), by decide +kernel⟩,
   ⟨st core, .reeve 0, [], 0, by decide +kernel, by decide +kernel, reeve_issues (by decide), by decide +kernel,
       by decide +kernel⟩,
   ⟨st core, .cottage 0, [], ⟨15, 1⟩, by decide +kernel, cot_issues (by decide), by decide +kernel⟩,
   ⟨st core, .cottage 0, [], ⟨15, 1⟩, by decide +kernel, cot_issues (by decide), by decide +kernel⟩,
   ⟨st core, .cottage 0, [], .imm 525, 0, by decide +kernel⟩,
   ⟨0, 525, cot_issues (by decide), by decide +kernel⟩,
   ⟨⟨0, 4⟩, reeve_issues (by decide), by decide +kernel⟩⟩

theorem witness_InterruptsOfContexts :
    (∃ (s : State) (c : Nat) (g : Hw), s.hw.act = true ∧ s.hw.canIssue c = true ∧ s.hw.entryDue c = true) ∧
    (∃ (s : State) (c : Nat), ((s.hw.canIssue c = false ∨ s.hw.entryDue c = false))) ∧
    (∃ (s : State) (r : Nat), s.hw.act = true ∧ s.hw.flag F.RVE_STAT_HALTED 0 r = false ∧ s.hw.reeveDue r = true) ∧
    (∃ (s : State) (r : Nat), ((s.hw.flag F.RVE_STAT_HALTED 0 r = true ∨ s.hw.reeveDue r = false))) ∧
    (∃ (s : State) (c : Nat) (g : Hw), s.hw.canIssue c = true ∧ s.hw.entryDue c = true ∧
      s.hw.entryStores c (Hw.Hob.landAll (s.hw.ctx c).hob) = .ok g) :=
  ⟨⟨st ((((core.modCtx 0 fun x => { x with hob := { x.hob with fl := 0x80 } }).setIoWord 0 0x9004 1).modIo 0 fun x => { x with pend := 1 })), 0, running, by decide +kernel⟩,
   ⟨st running, 0, by decide +kernel⟩,
   ⟨st ((({ core with reeves := [(0, { Reeve.reset 0 with hob := { Hob.reset with fl := 0x80 } })] } : Hw).setFld F.RVE_IRQ_PARISH 0 0 1)), 0, by decide +kernel⟩,
   ⟨st running, 0, by decide +kernel⟩,
   ⟨st ((((core.modCtx 0 fun x => { x with hob := { x.hob with fl := 0x80 } }).setIoWord 0 0x9004 1).modIo 0 fun x => { x with pend := 1 })), 0, _, by decide +kernel, by decide +kernel, rfl⟩⟩

theorem witness_HeldInstructions :
    (∃ (s : State) (c : Nat) (h1 m : Hw) (i : Instr) (o : Op) (x : Hob) (res : List PendingWrite) (p : Predicted) (k : Nat)
      (cy : Option Nat) (l2 : Bool), s.hw.act = true ∧ (s.hw.ctx c).st = .miss ∧ (s.hw.ctx c).wait = .cache l2 ∧
      h1 = (if l2 then s.hw.tagReturn (.parish (c / 256)) 1 else s.hw) ∧ (h1.ctx c).held = some i ∧ h1.heldOp i = some o ∧ o.bad = 0 ∧
      o.body (h1.resumed c) (h1.ctx c).hob ((h1.ctx c).hob.pc + BitVec.ofNat 32 o.len) = .ok ⟨m, x, res, .next, p, k, cy⟩) ∧
    (∃ (s : State) (c : Nat) (i : Instr) (o : Op), s.hw.act = true ∧ (s.hw.ctx c).st = .bwait ∧
        (s.hw.ctx c).wait = .beam true ∧
      s.hw.beamExact c true = true ∧ (s.hw.ctx c).held = some i ∧ s.hw.heldOp i = some o ∧ o.bad = 0) ∧
    (∃ (s : State) (c : Nat) (i : Instr) (o : Op), s.hw.act = true ∧ (s.hw.ctx c).st = .dhold ∧
        (s.hw.ctx c).wait = .tallyFull ∧
      s.hw.tallyFill c ≤ 448 ∧ (s.hw.ctx c).held = some i ∧ s.hw.heldOp i = some o ∧ o.bad = 0) ∧
    (∃ (s : State) (c : Nat), s.hw.act = true ∧ (s.hw.ctx c).st = .dhold ∧ (s.hw.ctx c).wait = .tallyFull ∧
      s.hw.tallyFill c ≤ 448 ∧ (s.hw.ctx c).held = none) ∧
    (∃ (s : State) (c : Nat), s.hw.act = true ∧ (s.hw.ctx c).st = .bwait ∧ (s.hw.ctx c).wait = .frameStart ∧
      s.hw.visibleDone c ((s.hw.ctx c).frame - 1) = true) :=
  let i := held0
  ⟨⟨st missed, 0, missed.tagReturn (.parish 0) 1, _, held0, _, _, _, _, _, _, true,
    by decide +kernel, by decide +kernel, by decide +kernel, rfl, rfl, rfl, rfl, rfl⟩,
   ⟨st ((core.modCtx 0 fun x => { x with st := .bwait, wait := .beam true, held := some i }).modLoom 0 fun m => { m with frame := 13 }), 0, i, _,
    by decide +kernel, by decide +kernel, by decide +kernel, by decide +kernel, rfl, rfl, rfl⟩,
   ⟨st (core.modCtx 0 fun x => { x with st := .dhold, wait := .tallyFull, held := some i }), 0, i, _,
    by decide +kernel, by decide +kernel, by decide +kernel, by decide +kernel, rfl, rfl, rfl⟩,
   ⟨st (core.modCtx 0 fun x => { x with st := .dhold, wait := .tallyFull }), 0, by decide +kernel⟩,
   ⟨st ((core.modCtx 0 fun x => { x with st := .bwait, wait := .frameStart }).modLoom 0 fun m => { m with frame := 12 }),
       0, by decide +kernel⟩⟩

theorem witness_CoreControl :
    (∃ (s : State) (ag : Agent) (r : Nat) (on : Bool), s.hw.act = true ∧ s.hw.sees ag .RVE_CTL 0 r = true) :=
  ⟨st running, .pf 0, 0, false, by decide +kernel⟩

theorem witness_BankCommands :
    (∃ (s : State) (ag : Agent) (p : Nat) (mask : Nat) (vec : Nat), s.hw.act = true ∧ s.hw.sees ag .ARM_CMD p 0 = true ∧
        vec < 2048 ∧ s.hw.job = none) ∧
    (∃ (s : State) (ag : Agent) (p : Nat) (mask : Nat) (vec : Nat), s.hw.act = true ∧ s.hw.sees ag .ARM_CMD p 0 = true ∧
        vec < 2048 ∧ s.hw.job ≠ none) ∧
    (∃ (s : State) (ag : Agent) (p : Nat) (mask : Nat) (vec : Nat), s.hw.act = true ∧
        s.hw.sees ag .LOM_STG_CMD p 0 = true ∧ vec < 2048 ∧ (s.hw.job ≠ none ∨ s.hw.uncalibrated mask = true)) ∧
    (∃ (s : State) (ag : Agent) (p : Nat) (mask : Nat) (vec : Nat), s.hw.act = true ∧
        s.hw.sees ag .LOM_STG_CMD p 0 = true ∧ vec < 2048 ∧ s.hw.job = none ∧ s.hw.uncalibrated mask = false ∧
            ((∃ n, n ∈ Hw.maskList mask ∧ s.hw.drained n = false))) ∧
    (∃ (s : State) (ag : Agent) (p : Nat) (mask : Nat) (vec : Nat), s.hw.act = true ∧
        s.hw.sees ag .LOM_STG_CMD p 0 = true ∧ vec < 2048 ∧ s.hw.job = none ∧ s.hw.uncalibrated mask = false ∧
            ((∀ n, n ∈ Hw.maskList mask → s.hw.drained n = true)) ∧
            ((∃ n, n ∈ Hw.maskList mask ∧ (s.hw.parish n).shadow = none))) ∧
    (∃ (s : State) (ag : Agent) (p : Nat) (mask : Nat) (vec : Nat), s.hw.act = true ∧
        s.hw.sees ag .LOM_STG_CMD p 0 = true ∧ vec < 2048 ∧ s.hw.job = none ∧ s.hw.uncalibrated mask = false ∧
            ((∀ n, n ∈ Hw.maskList mask → s.hw.drained n = true ∧ (s.hw.parish n).shadow ≠ none))) ∧
    (∃ (s : State) (ag : Agent) (p : Nat) (t : Nat) (vec : Nat), s.hw.act = true ∧ s.hw.sees ag .PWR_TEST_CMD p 0 = true ∧
        vec < 2048 ∧ t < 16) ∧
    (∃ (s : State) (ag : Agent) (p : Nat) (t : Nat) (vec : Nat), s.hw.act = true ∧ s.hw.sees ag .PWR_TEST_CMD p 0 = true ∧
        vec < 2048 ∧ t < 64) ∧
    (∃ (s : State) (ag : Agent) (vec : Nat), s.hw.act = true ∧ s.hw.sees ag .RVE_FW_CMD 0 0 = true ∧ vec < 2048 ∧
        (s.hw.job ≠ none ∨ s.hw.awaitsAck = true)) ∧
    (∃ (s : State) (ag : Agent) (vec : Nat), s.hw.act = true ∧ s.hw.sees ag .RVE_FW_CMD 0 0 = true ∧ vec < 2048 ∧
        s.hw.job = none ∧ s.hw.awaitsAck = false ∧ s.hw.inactiveFw = none) ∧
    (∃ (s : State) (ag : Agent) (vec : Nat), s.hw.act = true ∧ s.hw.sees ag .RVE_FW_CMD 0 0 = true ∧ vec < 2048 ∧
        s.hw.job = none ∧ s.hw.awaitsAck = false ∧ s.hw.inactiveFw ≠ none) ∧
    (∃ (s : State) (view : Path), s.hw.act = true ∧ s.hw.sees (.reeve 0 view) .RVE_FW_CTL 0 0 = true ∧
        s.hw.awaitsAck = false) :=
  ⟨⟨st running, .pf 0, 0, 0xFFFF, 2047, by decide +kernel⟩,
   ⟨st (({ running with job := some ⟨0, 0, 1, 1, 5, [], none, none, none, none⟩ } : Hw)), .pf 0, 0, 0, 2047,
       by decide +kernel⟩,
   ⟨st (({ running with job := some ⟨0, 0, 1, 1, 5, [], none, none, none, none⟩ } : Hw)), .pf 0, 0, 0, 2047,
       by decide +kernel⟩,
   ⟨st ((running.setFld F.PWR_CAL_PARISH 0 0 0xFFFF)), .pf 0, 0, 1, 0, by decide +kernel⟩,
   ⟨st ((up.setFld F.PWR_CAL_PARISH 0 0 0xFFFF)), .pf 0, 0, 1, 0, by decide +kernel⟩,
   ⟨st ((up.setFld F.PWR_CAL_PARISH 0 0 0xFFFF)), .pf 0, 0, 0, 0, by decide +kernel⟩,
   ⟨st running, .pf 0, 0, 15, 0, by decide +kernel⟩,
   ⟨st running, .pf 0, 0, 63, 0, by decide +kernel⟩,
   ⟨st (({ running with job := some ⟨0, 0, 1, 1, 5, [], none, none, none, none⟩ } : Hw)), .pf 0, 2047, by decide +kernel⟩,
   ⟨st running, .pf 0, 0, by decide +kernel⟩,
   ⟨st ({ running with boot := { running.boot with fwA := some (0, 1, 5), fwB := some (4, 2, 7) } }), .pf 0, 0,
       by decide +kernel⟩,
   ⟨st running, .io, by decide +kernel⟩⟩

theorem witness_ArmatureJobs :
    (∃ (s : State) (how : ReadEnd) (j : BankJob), ∃ b, let img := s.hw.bankImage j.port (s.hw.fld F.ARM_SRC_SPACE j.port) (s.hw.fld F.ARM_SRC_ADDR j.port * 8) (min (s.hw.fld F.ARM_LEN_LEN j.port) 0x100008); s.hw.act = true ∧ s.hw.job = some j ∧ j.kind = 0 ∧ s.hw.fld F.ARM_STAT_STATE j.port = 1 ∧ how = .ok ∧ img = some b) ∧
    (∃ (s : State) (how : ReadEnd) (j : BankJob), let img := s.hw.bankImage j.port (s.hw.fld F.ARM_SRC_SPACE j.port) (s.hw.fld F.ARM_SRC_ADDR j.port * 8) (min (s.hw.fld F.ARM_LEN_LEN j.port) 0x100008); s.hw.act = true ∧ s.hw.job = some j ∧ j.kind = 0 ∧ s.hw.fld F.ARM_STAT_STATE j.port = 1 ∧ (how ≠ .ok ∨ img = none)) ∧
    (∃ (s : State) (j : BankJob), let opened := openImage j.image (if j.op ≤ 2 then 2 else 1) (s.hw.fld F.ARM_LEN_LEN j.port); s.hw.act = true ∧ s.hw.job = some j ∧ j.kind = 0 ∧ s.hw.fld F.ARM_STAT_STATE j.port = 2 ∧ j.result = none ∧ opened = none) ∧
    (∃ (s : State) (j : BankJob), ∃ recs, let opened := openImage j.image (if j.op ≤ 2 then 2 else 1) (s.hw.fld F.ARM_LEN_LEN j.port); s.hw.act = true ∧ s.hw.job = some j ∧ j.kind = 0 ∧ s.hw.fld F.ARM_STAT_STATE j.port = 2 ∧ j.result = none ∧ opened = some recs ∧ j.op ≤ 2) ∧
    (∃ (s : State) (j : BankJob), ∃ recs, let opened := openImage j.image (if j.op ≤ 2 then 2 else 1) (s.hw.fld F.ARM_LEN_LEN j.port); s.hw.act = true ∧ s.hw.job = some j ∧ j.kind = 0 ∧ s.hw.fld F.ARM_STAT_STATE j.port = 2 ∧ j.result = none ∧ opened = some recs ∧ ¬ j.op ≤ 2) ∧
    (∃ (s : State) (pads : List Bool) (j : BankJob) (code : Nat) (mask : Nat) (rec : Nat), s.hw.act = true ∧
        s.hw.job = some j ∧ j.kind = 0 ∧ j.result = some (code, mask, rec) ∧ code < 256 ∧ mask < 2 ^ 16 ∧ rec < 2 ^ 16 ∧
            s.hw.fld F.ARM_STAT_STATE j.port ≠ 3) ∧
    (∃ (s : State) (pads : List Bool) (j : BankJob) (code : Nat) (mask : Nat) (rec : Nat), ∃ a, s.hw.act = true ∧
        s.hw.job = some j ∧ j.kind = 0 ∧ j.result = some (code, mask, rec) ∧ code < 256 ∧ mask < 2 ^ 16 ∧ rec < 2 ^ 16 ∧
            s.hw.fld F.ARM_STAT_STATE j.port = 3 ∧ j.parish = some a) ∧
    (∃ (s : State) (pads : List Bool) (j : BankJob) (code : Nat) (mask : Nat) (rec : Nat), ∃ m, s.hw.act = true ∧
        s.hw.job = some j ∧ j.kind = 0 ∧ j.result = some (code, mask, rec) ∧ code < 256 ∧ mask < 2 ^ 16 ∧ rec < 2 ^ 16 ∧
            s.hw.fld F.ARM_STAT_STATE j.port = 3 ∧ j.parish = none ∧ j.modArm = some m) ∧
    (∃ (s : State) (how : ReadEnd) (j : BankJob), let len := s.hw.fld F.LOM_STG_LEN_LEN j.port;
        let img := if how = .ok then s.hw.bankImage j.port (s.hw.fld F.LOM_STG_SRC_SPACE j.port) (s.hw.fld F.LOM_STG_SRC_ADDR j.port * 8) (min len 0x20000) else none; s.hw.act = true ∧ s.hw.job = some j ∧ j.kind = 1 ∧ img = none) ∧
    (∃ (s : State) (how : ReadEnd) (j : BankJob), ∃ b, let len := s.hw.fld F.LOM_STG_LEN_LEN j.port;
        let img := if how = .ok then s.hw.bankImage j.port (s.hw.fld F.LOM_STG_SRC_SPACE j.port) (s.hw.fld F.LOM_STG_SRC_ADDR j.port * 8) (min len 0x20000) else none; s.hw.act = true ∧ s.hw.job = some j ∧ j.kind = 1 ∧ img = some b) :=
  ⟨⟨st (((({ (((running.setFld F.COM_REGION_BASE_EN 0 0 1).setFld F.COM_REGION_SIZE_MIB 0 0 1).modFn 0 fun f => { f with bme := true }) with job := some ⟨0, 0, 1, 1, 5, [], none, none, none, none⟩ } : Hw).setFld F.ARM_STAT_STATE 0 0 1).setFld F.ARM_LEN_LEN 0 0 16)), .ok, ⟨0, 0, 1, 1, 5, [], none, none, none, none⟩, List.replicate 16 0, by decide +kernel⟩,
   ⟨st ((({ running with job := some ⟨0, 0, 1, 1, 5, [], none, none, none, none⟩ } : Hw).setFld F.ARM_STAT_STATE 0 0 1)),
       .poisoned, ⟨0, 0, 1, 1, 5, [], none, none, none, none⟩, by decide +kernel⟩,
   ⟨st ((({ running with job := some ⟨0, 0, 1, 1, 5, [], none, none, none, none⟩ } : Hw).setFld F.ARM_STAT_STATE 0 0 2)),
       ⟨0, 0, 1, 1, 5, [], none, none, none, none⟩, by decide +kernel⟩,
   ⟨st (((({ running with job := some ⟨0, 0, 2, 1, 5, (leBytes 4 0x544D5241 ++ leBytes 2 1 ++ leBytes 2 2 ++ leBytes 4 256 ++ leBytes 2 1 ++ List.replicate 50 0 ++ leBytes 2 77 ++ leBytes 2 88 ++ List.replicate 188 0), none, none, none, none⟩ } : Hw).setFld F.ARM_STAT_STATE 0 0 2).setFld F.ARM_LEN_LEN 0 0 256)), ⟨0, 0, 2, 1, 5, (leBytes 4 0x544D5241 ++ leBytes 2 1 ++ leBytes 2 2 ++ leBytes 4 256 ++ leBytes 2 1 ++ List.replicate 50 0 ++ leBytes 2 77 ++ leBytes 2 88 ++ List.replicate 188 0), none, none, none, none⟩, _, by decide +kernel, by decide +kernel, by decide +kernel, by decide +kernel, by decide +kernel, rfl, by decide +kernel⟩,
   ⟨st (((({ running with job := some ⟨0, 0, 3, 1, 5, (leBytes 4 0x544D5241 ++ leBytes 2 1 ++ leBytes 2 1 ++ leBytes 4 256 ++ leBytes 2 1 ++ List.replicate 50 0 ++ leBytes 2 77 ++ leBytes 2 88 ++ List.replicate 188 0), none, none, none, none⟩ } : Hw).setFld F.ARM_STAT_STATE 0 0 2).setFld F.ARM_LEN_LEN 0 0 256)), ⟨0, 0, 3, 1, 5, (leBytes 4 0x544D5241 ++ leBytes 2 1 ++ leBytes 2 1 ++ leBytes 4 256 ++ leBytes 2 1 ++ List.replicate 50 0 ++ leBytes 2 77 ++ leBytes 2 88 ++ List.replicate 188 0), none, none, none, none⟩, _, by decide +kernel, by decide +kernel, by decide +kernel, by decide +kernel, by decide +kernel, rfl, by decide +kernel⟩,
   ⟨st ((({ running with job := some ⟨0, 0, 1, 1, 5, [], none, none, none, (some (255, 65535, 65535))⟩ } : Hw).setFld F.ARM_STAT_STATE 0 0 2)), [], ⟨0, 0, 1, 1, 5, [], none, none, none, (some (255, 65535, 65535))⟩, 255, 65535, 65535, by decide +kernel⟩,
   ⟨st ((({ running with job := some ⟨0, 0, 2, 1, 5, [], (some arm), none, none, (some (0, 0, 65535))⟩ } : Hw).setFld F.ARM_STAT_STATE 0 0 3)), [], ⟨0, 0, 2, 1, 5, [], (some arm), none, none, (some (0, 0, 65535))⟩, 0, 0, 65535, arm, by decide +kernel⟩,
   ⟨st ((({ running with job := some ⟨0, 0, 4, 1, 5, [], none, (some ⟨[], [], [], 0, 0, 1, 0⟩), none, (some (0, 0, 65535))⟩ } : Hw).setFld F.ARM_STAT_STATE 0 0 3)), [], ⟨0, 0, 4, 1, 5, [], none, (some ⟨[], [], [], 0, 0, 1, 0⟩), none, (some (0, 0, 65535))⟩, 0, 0, 65535, ⟨[], [], [], 0, 0, 1, 0⟩, by decide +kernel⟩,
   ⟨st (({ running with job := some ⟨1, 0, 1, 1, 5, [], none, none, none, none⟩ } : Hw)), .timeout,
       ⟨1, 0, 1, 1, 5, [], none, none, none, none⟩, by decide +kernel⟩,
   ⟨st ((({ (((running.setFld F.COM_REGION_BASE_EN 0 0 1).setFld F.COM_REGION_SIZE_MIB 0 0 1).modFn 0 fun f => { f with bme := true }) with job := some ⟨1, 0, 1, 1, 5, [], none, none, none, none⟩ } : Hw).setFld F.LOM_STG_LEN_LEN 0 0 16)), .ok, ⟨1, 0, 1, 1, 5, [], none, none, none, none⟩, List.replicate 16 0, by decide +kernel⟩⟩

theorem witness_TestAndFirmwareJobs :
    (∃ (s : State) (j : BankJob) (failing : Nat) (first : Nat), s.hw.act = true ∧ s.hw.job = some j ∧ j.kind = 2 ∧
        j.op = 1) ∧
    (∃ (s : State) (j : BankJob) (failing : Nat) (first : Nat), s.hw.act = true ∧ s.hw.job = some j ∧ j.kind = 2 ∧
        j.op = 2) ∧
    (∃ (s : State) (j : BankJob) (failing : Nat) (first : Nat), s.hw.act = true ∧ s.hw.job = some j ∧ j.kind = 2 ∧
        2 < j.op) ∧
    (∃ (s : State) (how : ReadEnd) (j : BankJob), let len := s.hw.fld F.RVE_FW_LEN_LEN;
        let img := if how = .ok then s.hw.bankImage (if j.port < 2 then j.port else 0) (s.hw.fld F.RVE_FW_SRC_SPACE) (s.hw.fld F.RVE_FW_SRC_ADDR * 8) (min len 0x1000000) else none; s.hw.act = true ∧ s.hw.job = some j ∧ j.kind = 3 ∧ img = none) ∧
    (∃ (s : State) (how : ReadEnd) (j : BankJob), ∃ b, let len := s.hw.fld F.RVE_FW_LEN_LEN;
        let img := if how = .ok then s.hw.bankImage (if j.port < 2 then j.port else 0) (s.hw.fld F.RVE_FW_SRC_SPACE) (s.hw.fld F.RVE_FW_SRC_ADDR * 8) (min len 0x1000000) else none; s.hw.act = true ∧ s.hw.job = some j ∧ j.kind = 3 ∧ img = some b) ∧
    (∃ (s : State) (entry : Nat) (version : Nat) (digest : BitVec 384) (ag : Agent) (vec : Nat), s.hw.act = true ∧
        s.hw.awaitsAck = true ∧ s.hw.inactiveFw = some (entry, version, digest) ∧ s.hw.sees ag .RVE_FW_CMD 0 0 = true ∧
            vec < 2048) ∧
    (∃ (s : State) (entry : Nat) (version : Nat) (digest : BitVec 384) (view : Path), s.hw.act = true ∧
        s.hw.awaitsAck = true ∧ s.hw.inactiveFw = some (entry, version, digest) ∧
            s.hw.sees (.reeve 0 view) .RVE_FW_CTL 0 0 = true) :=
  ⟨⟨st (({ running with job := some ⟨2, 0, 1, 15, 5, [], none, none, none, none⟩ } : Hw)),
      ⟨2, 0, 1, 15, 5, [], none, none, none, none⟩, 3, 5, by decide +kernel⟩,
   ⟨st (({ running with job := some ⟨2, 0, 2, 15, 5, [], none, none, none, none⟩ } : Hw)),
       ⟨2, 0, 2, 15, 5, [], none, none, none, none⟩, 3, 5, by decide +kernel⟩,
   ⟨st (({ running with job := some ⟨2, 0, 4, 15, 5, [], none, none, none, none⟩ } : Hw)),
       ⟨2, 0, 4, 15, 5, [], none, none, none, none⟩, 3, 5, by decide +kernel⟩,
   ⟨st (({ running with job := some ⟨3, 0, 1, 0, 5, [], none, none, none, none⟩ } : Hw)), .poisoned,
       ⟨3, 0, 1, 0, 5, [], none, none, none, none⟩, by decide +kernel⟩,
   ⟨st ((({ (((running.setFld F.COM_REGION_BASE_EN 0 0 1).setFld F.COM_REGION_SIZE_MIB 0 0 1).modFn 0 fun f => { f with bme := true }) with job := some ⟨3, 0, 1, 0, 5, [], none, none, none, none⟩ } : Hw).setFld F.RVE_FW_LEN_LEN 0 0 16)), .ok, ⟨3, 0, 1, 0, 5, [], none, none, none, none⟩, List.replicate 16 0, by decide +kernel⟩,
   ⟨st (({ running with boot := { running.boot with fwA := some (0, 1, 5), fwB := some (4, 2, 7) } } : Hw).setFld F.RVE_FW_STAT_STATE 0 0 3), 4, 2, 7, .pf 0, 2047, by decide +kernel⟩,
   ⟨st (({ running with boot := { running.boot with fwA := some (0, 1, 5), fwB := some (4, 2, 7) } } : Hw).setFld F.RVE_FW_STAT_STATE 0 0 3), 4, 2, 7, .io, by decide +kernel⟩⟩

theorem witness_BootSequence :
    (∃ (s : State) (p : Nat) (vec : Nat), s.hw.act = true ∧ s.hw.fld F.PWR_BOOT_STAT_STATE p = 0 ∧
        s.hw.boot.prov = false ∧ s.hw.boot.winner = none) ∧
    (∃ (s : State) (p : Nat) (vec : Nat), s.hw.act = true ∧ s.hw.fld F.PWR_BOOT_STAT_STATE p = 0 ∧
        s.hw.boot.prov = false ∧ s.hw.boot.winner ≠ none) ∧
    (∃ (s : State) (p : Nat) (vec : Nat), s.hw.act = true ∧ s.hw.fld F.PWR_BOOT_STAT_STATE p = 0 ∧ s.hw.boot.prov = true) ∧
    (∃ (s : State) (p : Nat) (how : ReadEnd), let f := s.hw.fn (129 * p);
        s.hw.act = true ∧ s.hw.fld F.PWR_BOOT_STAT_STATE p = 1 ∧ (how ≠ .ok ∨ f.bme = false ∨ f.d3 = true)) ∧
    (∃ (s : State) (p : Nat) (how : ReadEnd), let f := s.hw.fn (129 * p);
        s.hw.act = true ∧ s.hw.fld F.PWR_BOOT_STAT_STATE p = 1 ∧ how = .ok ∧ f.bme = true ∧ f.d3 = false ∧
            s.hw.boot.winner ≠ none) ∧
    (∃ (s : State) (p : Nat) (how : ReadEnd), let f := s.hw.fn (129 * p);
        s.hw.act = true ∧ s.hw.fld F.PWR_BOOT_STAT_STATE p = 1 ∧ how = .ok ∧ f.bme = true ∧ f.d3 = false ∧
            s.hw.boot.winner = none) ∧
    (∃ (s : State) (p : Nat), s.hw.act = true ∧ s.hw.fld F.PWR_BOOT_STAT_STATE p = 2) ∧
    (∃ (s : State), s.hw.act = true ∧ s.hw.boot.stage = .released ∧ s.hw.boot.fieldLoaded = false) ∧
    (∃ (s : State) (q : Nat), s.hw.act = true ∧ q < 64) ∧
    (∃ (s : State) (n : Nat), s.hw.act = true ∧ n < 16) ∧
    (∃ (s : State) (ag : Agent) (v : Word), s.hw.act = true ∧ s.hw.sees ag .ERR_INJ 0 0 = true) :=
  ⟨⟨st ((({ Hw.reset with ports := up.ports, boot := { Hw.reset.boot with stage := .window } } : Hw).modFn 0 fun f => { f with bme := true }).setFld F.PWR_BOOT_STAT_STATE 0 0 0), 0, 0, by decide +kernel⟩,
   ⟨st ((({ Hw.reset with ports := up.ports, boot := { Hw.reset.boot with stage := .window, winner := some 1 } } : Hw).modFn 0 fun f => { f with bme := true }).setFld F.PWR_BOOT_STAT_STATE 0 0 0), 0, 0, by decide +kernel⟩,
   ⟨st ((({ Hw.reset with ports := up.ports, boot := { Hw.reset.boot with stage := .window, prov := true } } : Hw).modFn 0 fun f => { f with bme := true }).setFld F.PWR_BOOT_STAT_STATE 0 0 0), 0, 0, by decide +kernel⟩,
   ⟨st ((({ Hw.reset with ports := up.ports, boot := { Hw.reset.boot with stage := .window } } : Hw).modFn 0 fun f => { f with bme := true }).setFld F.PWR_BOOT_STAT_STATE 0 0 1), 0, .poisoned, by decide +kernel⟩,
   ⟨st ((({ Hw.reset with ports := up.ports, boot := { Hw.reset.boot with stage := .window, winner := some 1 } } : Hw).modFn 0 fun f => { f with bme := true }).setFld F.PWR_BOOT_STAT_STATE 0 0 1), 0, .ok, by decide +kernel⟩,
   ⟨st ((({ Hw.reset with ports := up.ports, boot := { Hw.reset.boot with stage := .window } } : Hw).modFn 0 fun f => { f with bme := true }).setFld F.PWR_BOOT_STAT_STATE 0 0 1), 0, .ok, by decide +kernel⟩,
   ⟨st ((({ Hw.reset with ports := up.ports, boot := { Hw.reset.boot with stage := .window } } : Hw).modFn 0 fun f => { f with bme := true }).setFld F.PWR_BOOT_STAT_STATE 0 0 2), 0, by decide +kernel⟩,
   ⟨st running, by decide +kernel⟩,
   ⟨st running, 63, by decide +kernel⟩,
   ⟨st running, 15, by decide +kernel⟩,
   ⟨st running, .pf 0, 0x80000000, by decide +kernel⟩⟩

theorem witness_PowerRails :
    (∃ (s : State) (v : Nat) (a : Bool) (b : Bool), s.hw.power.standby = false) ∧
    (∃ (s : State) (v : Nat), v < 520) ∧
    (∃ (s : State) (v : Nat), v < 600 ∧ s.hw.power.standby = true) ∧
    (∃ (s : State), s.hw.power.critPending = true) ∧
    (∃ (s : State), s.hw.power.critPending = false) ∧
    (∃ (s : State) (a : Bool) (b : Bool), s.hw.boot.stage = .held ∧ (a || b) = true ∧ s.hw.power.standby = true ∧
        s.hw.power.coreOn = true) ∧
    (∃ (s : State) (k : Nat) (t : Nat), s.hw.power.standby = true ∧ s.hw.power.coreOn = true ∧ s.hw.boot.stage ≠ .held ∧
        Hw.critical k t = true) :=
  ⟨⟨st ({ running with power := { running.power with standby := false } }), 0, false, false, by decide +kernel⟩,
   ⟨st running, 519, by decide +kernel⟩,
   ⟨st running, 599, by decide +kernel⟩,
   ⟨st ({ running with power := { running.power with critPending := true } }), by decide +kernel⟩,
   ⟨st running, by decide +kernel⟩,
   ⟨st (Hw.reset), true, false, by decide +kernel⟩,
   ⟨st running, 2, 105, by decide +kernel⟩⟩

theorem witness_PowerWarnings :
    (∃ (s : State) (v : Nat), v < 1080 ∧ s.hw.power.standby = true ∧ s.hw.flag F.PWR_STAT_LOWVIN = false) ∧
    (∃ (s : State) (v : Nat), 1120 ≤ v ∧ s.hw.power.standby = true ∧ s.hw.flag F.PWR_STAT_LOWVIN = true) ∧
    (∃ (s : State) (v : Nat), 6000 < v ∧ s.hw.power.standby = true) ∧
    (∃ (s : State) (pin : Bool) (v : Nat) (mean : Nat), s.hw.power.standby = true) ∧
    (∃ (s : State) (k : Nat) (t : Nat), s.hw.power.standby = true ∧ (k = 1 ∨ k = 2 ∨ k = 3) ∧ t < 256) ∧
    (∃ (s : State), s.hw.power.standby = true ∧ s.hw.power.coreOn = true ∧ s.hw.power.asleep = false) ∧
    (∃ (s : State) (ag : Agent) (rs : Bool), s.hw.act = true ∧ s.hw.sees ag .PWR_CTL 0 0 = true ∧ s.hw.maySleep = true ∧
        ((ag = .pf 0 ∨ ∃ r path, ag = .reeve r path))) ∧
    (∃ (s : State), s.hw.power.asleep = true) :=
  ⟨⟨st running, 1079, by decide +kernel⟩,
   ⟨st (running.setFld F.PWR_STAT_LOWVIN 0 0 1), 1120, by decide +kernel⟩,
   ⟨st running, 6001, by decide +kernel⟩,
   ⟨st running, false, 0, 0, by decide +kernel⟩,
   ⟨st running, 3, 255, by decide +kernel⟩,
   ⟨st running, by decide +kernel⟩,
   ⟨st up, .pf 0, false, by decide +kernel, by decide +kernel, by decide +kernel, .inl rfl⟩,
   ⟨st ({ running with power := { running.power with asleep := true } }), by decide +kernel⟩⟩

theorem witness_RegisterWrites :
    (∃ (ag : Agent) (view : Nat) (off : Nat) (bytes : Nat) (v : DWord) (s : State), ∃ o, let h := s.hw;
        s.hw.act = true ∧ h.reaches ag = false ∧ Hw.agentFn ag = some o) ∧
    (∃ (ag : Agent) (view : Nat) (off : Nat) (bytes : Nat) (v : DWord) (s : State) (q : Place), let h := s.hw;
        let w := Hw.viewOf ag view;
            let plain32 : List RegName := [.PWR_EVT, .PWR_BOOT_FWLEN, .ARM_LEN, .LOM_STG_LEN, .CHR_TDM_STAT, .HBM_URG_THR, .HBM_URG_STAT, .PLN_PITCH, .LAN_WAKE, .BEL_STAT, .ARB_URG_THR, .PIC_TGT, .PIC_MSIX, .PIC_VWIN, .COT_ARITH]; s.hw.act = true ∧ h.reaches ag = true ∧ h.regAt w off = some q ∧ off % 4 = 0 ∧ h.sees ag q.name q.bank q.idx = true ∧ q.name ∈ plain32 ∧ h.changesLocked ag q.name q.bank q.idx (v.toNat % 2 ^ 32) = false) ∧
    (∃ (ag : Agent) (view : Nat) (off : Nat) (bytes : Nat) (v : DWord) (s : State) (q : Place), let h := s.hw;
        let w := Hw.viewOf ag view;
            let plain32 : List RegName := [.PWR_EVT, .PWR_BOOT_FWLEN, .ARM_LEN, .LOM_STG_LEN, .CHR_TDM_STAT, .HBM_URG_THR, .HBM_URG_STAT, .PLN_PITCH, .LAN_WAKE, .BEL_STAT, .ARB_URG_THR, .PIC_TGT, .PIC_MSIX, .PIC_VWIN, .COT_ARITH]; s.hw.act = true ∧ h.reaches ag = true ∧ h.regAt w off = some q ∧ off % 4 = 0 ∧ h.sees ag q.name q.bank q.idx = true ∧ q.name ∈ plain32 ∧ h.changesLocked ag q.name q.bank q.idx (v.toNat % 2 ^ 32) = true) ∧
    (∃ (ag : Agent) (view : Nat) (off : Nat) (bytes : Nat) (v : DWord) (s : State) (q : Place), let h := s.hw;
        let w := Hw.viewOf ag view;
            let plain64 : List RegName := [.PWR_BOOT_FW, .ARM_SRC, .LOM_STG_SRC, .GRN_ARG0, .PLN_RECT, .PLN_BASE];
            s.hw.act = true ∧ h.reaches ag = true ∧ h.regAt w off = some q ∧ off % 4 = 0 ∧
            h.sees ag q.name q.bank q.idx = true ∧ q.name ∈ plain64 ∧ off % 8 = 0) ∧
    (∃ (ag : Agent) (view : Nat) (off : Nat) (bytes : Nat) (v : DWord) (s : State) (q : Place), let h := s.hw;
        let w := Hw.viewOf ag view;
            s.hw.act = true ∧ h.reaches ag = true ∧ h.regAt w off = some q ∧ off % 4 = 0 ∧ q.name = .TLY_HWM ∧
            h.sees ag .TLY_HWM q.bank 0 = true ∧ h.tallyFill q.bank ≤ 512) ∧
    (∃ (ag : Agent) (view : Nat) (off : Nat) (bytes : Nat) (v : DWord) (s : State) (q : Place), let h := s.hw;
        let w := Hw.viewOf ag view;
            s.hw.act = true ∧ h.reaches ag = true ∧ h.regAt w off = some q ∧ off % 4 = 0 ∧ q.name = .COT_SP) ∧
    (∃ (ag : Agent) (view : Nat) (off : Nat) (bytes : Nat) (v : DWord) (s : State) (q : Place), let h := s.hw;
        let w := Hw.viewOf ag view;
            s.hw.act = true ∧ h.reaches ag = true ∧ h.regAt w off = some q ∧ off % 4 = 0 ∧ q.name = .COT_IN_VAL) ∧
    (∃ (ag : Agent) (view : Nat) (off : Nat) (bytes : Nat) (v : DWord) (s : State) (q : Place), let h := s.hw;
        let w := Hw.viewOf ag view;
            s.hw.act = true ∧ h.reaches ag = true ∧ h.regAt w off = some q ∧ off % 4 = 0 ∧ q.name = .COM_RING_RET) ∧
    (∃ (ag : Agent) (view : Nat) (off : Nat) (bytes : Nat) (v : DWord) (s : State) (q : Place), let h := s.hw;
        let w := Hw.viewOf ag view;
            s.hw.act = true ∧ h.reaches ag = true ∧ h.regAt w off = some q ∧ off % 4 = 0 ∧ q.name = .POR_S1_CTL) ∧
    (∃ (ag : Agent) (view : Nat) (off : Nat) (bytes : Nat) (v : DWord) (s : State), let h := s.hw;
        let w := Hw.viewOf ag view; s.hw.act = true ∧ h.reaches ag = true ∧ h.regAt w off = none ∧ off % 4 = 0) ∧
    (∃ (ag : Agent) (view : Nat) (off : Nat) (bytes : Nat) (v : DWord) (s : State), let h := s.hw;
        s.hw.act = true ∧ h.reaches ag = true ∧ ¬(bytes = 4 ∧ off % 4 = 0) ∧ ¬(bytes = 8 ∧ off % 8 = 0) ∧
            h.unreported ag = false) ∧
    (∃ (ag : Agent) (view : Nat) (off : Nat) (bytes : Nat) (v : DWord) (s : State), ∃ o, let h := s.hw;
        s.hw.act = true ∧ h.reaches ag = true ∧ Hw.agentFn ag = some o ∧ off % 4 = 0) ∧
    (∃ (s : State) (q : Place), s.hw.act = true ∧ s.hw.reaches (.pf 0) = true ∧ s.hw.regAt 0 (0x14A / 4 * 4) = some q ∧
      s.hw.sees (.pf 0) q.name q.bank q.idx = true ∧ s.hw.unreported (.pf 0) = false) ∧
    (∃ s : State, s.hw.act = true ∧ s.hw.reaches (.pf 0) = true ∧ s.hw.regAt 0 (0x3FFFFFE / 4 * 4) = none ∧
        s.hw.unreported (.pf 0) = false) ∧
    (∃ (s : State) (q : Place), s.hw.act = true ∧ s.hw.reaches (.vf 0 1) = true ∧ s.hw.regAt 1 0x148 = some q ∧
      s.hw.sees (.vf 0 1) q.name q.bank q.idx = false) :=
  ⟨⟨.vf 0 5, 0, 0, 0, 0, st running, 5, by decide +kernel⟩,
   ⟨.pf 0, 0, 0x148, 0, 0xFFFFFFFF, st running, (⟨.PWR_BOOT_FWLEN, 0, 0, 0⟩ : Place), by decide +kernel⟩,
   ⟨.pf 0, 0, 0x3000048, 0, 0x80000000, st (running.modParish 0 fun p => { p with arm := some { arm with expert := 0 } }),
       (⟨.COT_ARITH, 0, 0, 0⟩ : Place), by decide +kernel⟩,
   ⟨.pf 0, 0, 0x100100, 0, 0xFFFFFFFFFFFFFFFF, st running, (⟨.GRN_ARG0, 0, 0, 0⟩ : Place), by decide +kernel⟩,
   ⟨.pf 0, 0, 0x3000044, 0, 0xFFFFFFFF, st running, (⟨.TLY_HWM, 0, 0, 0⟩ : Place), by decide +kernel⟩,
   ⟨.pf 0, 0, 0x3000140, 0, 0xFFFFFFFF, st running, (⟨.COT_SP, 0, 0, 0⟩ : Place), by decide +kernel⟩,
   ⟨.pf 0, 0, 0x3000030, 0, 0xFFFFFFFF, st running, (⟨.COT_IN_VAL, 0, 0, 0⟩ : Place), by decide +kernel⟩,
   ⟨.pf 0, 0, 0x12000C, 0, 0xFFFFFFFF, st running, (⟨.COM_RING_RET, 0, 0, 0⟩ : Place), by decide +kernel⟩,
   ⟨.pf 0, 0, 0x210000, 0, 0xFFFFFFFF, st running, (⟨.POR_S1_CTL, 0, 0, 0⟩ : Place), by decide +kernel⟩,
   ⟨.pf 0, 0, 0x3FFFFFC, 0, 0, st running, by decide +kernel⟩,
   ⟨.pf 0, 0, 0x148, 2, 0, st running, by decide +kernel⟩,
   ⟨.pf 0, 0, 0x148, 0, 0, st running, 0, by decide +kernel⟩,
   ⟨st running, ⟨.PWR_BOOT_FWLEN, 0, 0, 0⟩, by decide +kernel⟩,
   ⟨st running, by decide +kernel⟩,
   ⟨st running, ⟨.PWR_BOOT_FWLEN, 0, 0, 0⟩, by decide +kernel⟩⟩

end Sys2Proof.Tests
end

/-! SUPPORT. The queue and the reset values: what a step runs, and what the registers hold after reset (R12). -/

namespace Sys2Proof.Machine

theorem step_of_cons {s : State} {i : Instr} {rest : List Instr} (h : s.pending = i :: rest) :
    step s = exec i { s with pending := rest } := by simp only [step, h]

theorem step_of_nil {s : State} (h : s.pending = []) : step s = .next s := by simp only [step, h]

/-- The fields of a row read their Reset columns from the row's reset bits. -/
def RegDesc.readsResets (d : RegDesc) : Bool := d.fields.all fun f => bits d.resetBits f.hi f.lo == f.reset

theorem desc_readsResets (n : RegName) : n.desc.readsResets = true := by cases n <;> decide

theorem lt_of_fieldsApart {fs : List FieldDesc} (h : fieldsApart fs = true) {d : FieldDesc} (hd : d ∈ fs) : d.hi < 64 := by
  induction fs with
  | nil => cases hd
  | cons f fs ih =>
    simp only [fieldsApart, Bool.and_eq_true, decide_eq_true_eq] at h
    obtain ⟨⟨⟨-, hf⟩, -⟩, hfs⟩ := h
    rcases List.mem_cons.1 hd with rfl | hd
    · exact hf
    · exact ih hfs hd

/-- Every field of the register map lies within 64 bits. -/
theorem field_hi_lt {n : RegName} {d : FieldDesc} (hd : d ∈ n.desc.fields) : d.hi < 64 := lt_of_fieldsApart (fields_apart n) hd

/-- The registers whose Reset column names more than one value. -/
def variedResets : List RegName :=
  [.TOP_ID, .SEC_DEVSN, .SEC_OPKEY, .SBD_CFG, .RVE_CTL, .RVE_VEC, .RVE_WIN, .TMR_OWN, .HBM_W]

theorem RegId.reset_eq_resetBits {n : RegName} (hn : n ∉ variedResets) (i j : Nat) :
    RegId.reset ⟨n, i, j⟩ = BitVec.ofNat 64 n.desc.resetBits := by
  cases n
  case TOP_ID | SEC_DEVSN | SEC_OPKEY | SBD_CFG | RVE_CTL | RVE_VEC | RVE_WIN | TMR_OWN | HBM_W =>
    exact absurd (by decide) hn
  all_goals rfl

/-- A field of such a block reads what its register's Reset column says. -/
theorem Hw.fld_of_regs_nil {h : Hw} (hr : h.regs = []) {n : RegName} (hn : n ∉ variedResets) (i j : Nat) {d : FieldDesc}
    (hd : d ∈ n.desc.fields) : h.fld ⟨n, d.hi, d.lo⟩ i j = d.reset := by
  have r := List.all_eq_true.1 (desc_readsResets n) d hd
  simp only [Hw.fld, Hw.reg, hr, Table.get_nil, RegId.reset_eq_resetBits hn, BitVec.toNat_ofNat,
    bits_mod _ _ _ _ (field_hi_lt hd), eq_of_beq r]

end Sys2Proof.Machine

namespace Sys2Proof

open Sys2Proof.Machine

/-- Settles O1: both branches of `step`. -/
theorem stepRunsFront : Obligations.StepRunsFront := fun _ => ⟨fun _ _ => step_of_cons, step_of_nil⟩

/-- Settles O2: no register is listed at reset, so each reads its Reset column. -/
theorem resetState : Obligations.ResetState := by
  refine ⟨rfl, by simp [PowerLegal, State.reset, Hw.reset, Power.reset], rfl, rfl, rfl, Hw.reset_wf, ?_, ?_, ?_⟩
  · exact fun n hn i j d hd => Hw.fld_of_regs_nil rfl hn i j hd
  · decide
  · decide

end Sys2Proof

/-! SUPPORT. What a filtered table reads, and with it registers that are forgotten and memory that is cleared; loops over
units. -/

namespace Sys2Proof.Machine

/-- A table that keeps the keys of a set reads as before at those keys and nowhere else. -/
theorem Table.get_filter {κ α : Type} [DecidableEq κ] (d : α) (q : κ → Bool) (m : Table κ α) (k : κ) :
    Table.get d (m.filter fun e => q e.1) k = if q k then m.get d k else d := by
  induction m with
  | nil => simp [Table.get]
  | cons e m ih =>
    obtain ⟨k', v⟩ := e
    by_cases hk : k' = k
    · subst hk; by_cases hq : q k' = true <;> simp_all [Table.get]
    · by_cases hq : q k' = true <;> simp_all [Table.get]

namespace Hw

variable (h : Hw)

/-- Registers that are forgotten read their Reset values; the others stay (R12). -/
theorem reg_resetRegs (p : RegId → Bool) (n : RegName) (i j : Nat) :
    (h.resetRegs p).reg n i j = if p ⟨n, i, j⟩ then RegId.reset ⟨n, i, j⟩ else h.reg n i j := by
  have e := Table.get_filter (RegId.reset ⟨n, i, j⟩) (fun r => !p r) h.regs ⟨n, i, j⟩
  simp only [reg, resetRegs]
  rw [e]
  cases p ⟨n, i, j⟩ <;> rfl

@[simp] theorem fn_resetRegs (p : RegId → Bool) (o : Nat) : (h.resetRegs p).fn o = h.fn o := (rfl)

/-- A block whose memory is that of `h` above a bound reads 0 below it. -/
theorem rb_of_mem_above {g : Hw} (b : Nat) (e : g.mem = h.mem.filter fun c => decide (b ≤ c.1)) (a : Nat) :
    g.rb a = if a < b then 0 else h.rb a := by
  rw [rb, e, Table.get_filter memDefault (fun k => decide (b ≤ k))]
  by_cases hb : a < b
  · simp [hb, Nat.not_le.2 hb, memDefault]
  · simp [hb, Nat.not_lt.1 hb, rb]

theorem rb_zero (a n b : Nat) : (h.zero a n).rb b = if a ≤ b ∧ b < a + n then 0 else h.rb b := by
  have e := Table.get_filter memDefault (fun k => decide (k < a) || decide (a + n ≤ k)) h.mem b
  simp only [rb, zero]
  rw [e]
  by_cases hb : a ≤ b ∧ b < a + n
  · rw [if_pos hb, if_neg (by simp only [Bool.or_eq_true, decide_eq_true_eq]; omega)]
    rfl
  · rw [if_neg hb, if_pos (by simp only [Bool.or_eq_true, decide_eq_true_eq]; omega)]

theorem fld_zero (a n : Nat) (f : Fld) (i j : Nat) : (h.zero a n).fld f i j = h.fld f i j := rfl

/-- A loop keeps what each of its turns keeps. -/
theorem each_keeps_mem {α β : Type} (φ : Hw → β) (f : Hw → α → Hw) (l : List α) (k : ∀ a ∈ l, ∀ h, φ (f h a) = φ h) :
    ∀ h : Hw, φ (h.each l f) = φ h := by
  induction l with
  | nil => intro h; rfl
  | cons a l ih =>
    intro h
    exact (ih (fun b hb => k b (List.mem_cons_of_mem _ hb)) (f h a)).trans (k a List.mem_cons_self h)

/-- Parishes stored one by one from a list. -/
theorem parish_foldl_setParish (f : Nat → Parish) (l : List Nat) : ∀ (g : Hw) (m : Nat),
    (l.foldl (fun g n => g.setParish n (f n)) g).parish m = if m ∈ l then f m else g.parish m := by
  induction l with
  | nil => intro g m; simp
  | cons n l ih =>
    intro g m
    rw [List.foldl_cons, ih, parish_setParish]
    by_cases hm : m ∈ l
    · simp [hm]
    · by_cases e : n = m
      · subst e; simp [hm]
      · simp [hm, e, Ne.symm e]

/-- Of a parish that a module reset takes only its Larder's words and their poison remain (R13, R318). -/
theorem parish_of_larderKept {g : Hw} (e : g.par = h.larderKept) {n : Nat} (hn : n < 16) :
    g.parish n = (h.parish n).larderOnly := by
  have k := parish_foldl_setParish (fun n => (h.parish n).larderOnly) (List.range 16) Hw.reset n
  rw [if_pos (List.mem_range.2 hn)] at k
  rw [← k, parish, e]
  rfl

end Hw

end Sys2Proof.Machine

/-! SUPPORT. Resets of the fabric (R446, R453 to R456). -/

namespace Sys2Proof.Machine.Hw

variable (h : Hw)

/-- What a function level reset leaves of a function's configuration space and Commons registers (R454). -/
def FnAtReset (h : Hw) (o : Nat) : Prop :=
  let f := h.fn o
  f.bme = false ∧ f.msixEn = false ∧ f.fmask = false ∧ f.vmask = [] ∧ f.pba = [] ∧ f.heldMsgs = [] ∧ f.d3 = false ∧
    f.eqRing = none ∧ f.rq = [] ∧
    (∀ (n : RegName) (j : Nat), n.desc.bank = .perFn → h.reg n o j = RegId.reset ⟨n, o, j⟩)

theorem fn_configReset (o : Nat) : (h.configReset o).fn o = { Fn.reset o with
    enabled := (h.fn o).enabled, flr := (h.fn o).flr, quiet := true, pmeStatus := (h.fn o).pmeStatus, bar2 := (h.fn o).bar2,
    allocs := (h.fn o).allocs, eqLost := min ((h.fn o).eqLost + (h.fn o).eqSlot.length) (2 ^ 32 - 1) } := by
  simp only [configReset, fn_resetRegs, fn_modFn, if_true]

theorem reg_configReset (o : Nat) (n : RegName) (j : Nat) (hn : n.desc.bank = .perFn) :
    (h.configReset o).reg n o j = RegId.reset ⟨n, o, j⟩ := by
  rw [configReset, reg_resetRegs, if_pos (by simp [hn])]

theorem fnAtReset_configReset (o : Nat) (p : Power) : ((h.configReset o).setPower p).FnAtReset o := by
  simp only [FnAtReset, fn_setPower, reg_setPower, fn_configReset]
  exact ⟨rfl, rfl, rfl, rfl, rfl, rfl, rfl, rfl, rfl, fun n j hn => reg_configReset h o n j hn⟩

/-- The FLR of an enabled VF ends with its configuration space at reset (R454, R496). -/
theorem flr_eq_configReset {p v : Nat} (he : (h.fn (129 * p + v)).enabled = true)
    (ha : h.act = true ∨ h.flag F.ERR_STAT_FATAL = true) : ∃ g : Hw, h.flr p v = g.configReset (129 * p + v) := by
  unfold flr
  by_cases a : h.act = true
  · exact ⟨_, by simp only [he, a]; rfl⟩
  · have hf : h.flag F.ERR_STAT_FATAL = true := ha.resolve_left a
    exact ⟨h.modFn (129 * p + v) fun f => { f with flr := true }, by simp [he, a, hf]⟩

/-- So does the FLR of a PF (R456). -/
theorem pfFlr_eq_configReset {p : Nat} (ha : h.act = false → h.flag F.ERR_STAT_FATAL = true) :
    ∃ g : Hw, h.pfFlr p = g.configReset (129 * p) := by
  unfold pfFlr
  by_cases a : h.act = true
  · exact ⟨_, by simp only [a]; rfl⟩
  · exact ⟨_, by simp only [a, ha (by simpa using a)]; rfl⟩

/-- A port reset that is no module reset leaves the port at reset but for PERST#, and the power controller but for its sleep,
which PERST# ends (R453, R474). -/
theorem portReset_says {p kind : Nat} (hk : ¬ (kind = 0 ∧ (h.port (1 - p)).perst = true)) :
    (∃ b, (h.portReset p kind).port p = { Port.reset with perst := b } ∧ (kind = 0 → b = true)) ∧
      ((h.portReset p kind).fn (129 * p)).pmeStatus = false ∧
      (h.portReset p kind).power = { h.power with asleep := h.power.asleep && decide (kind ≠ 0) } := by
  have e : ∃ g : Hw, h.portReset p kind =
      ((g.modFn (129 * p) fun f => { f with pmeStatus := false }).setPort p
        { Port.reset with perst := kind == 0 || (g.port p).perst }).setPower
        { h.power with asleep := h.power.asleep && !(kind == 0 && h.power.asleep) } := ⟨_, if_neg hk⟩
  obtain ⟨g, e⟩ := e
  rw [e]
  refine ⟨⟨kind == 0 || (g.port p).perst, by simp, fun k => by simp [k]⟩, by simp, ?_⟩
  by_cases k : kind = 0 <;> cases h.power.asleep <;> simp [k]

/-! ### VFs (R446) -/

/-- Functions that a loop disables are disabled, and no other changes in that. -/
theorem enabled_each_disable (a m : Nat) (l : List Nat) : ∀ h : Hw,
    ((h.each l fun h v => h.modFn (a + v) fun f => { f with enabled := false }).fn (a + m)).enabled =
      ((h.fn (a + m)).enabled && !l.contains m) := by
  induction l with
  | nil => intro h; simp [each]
  | cons v l ih =>
    intro h
    refine (ih _).trans ?_
    rw [fn_modFn]
    by_cases e : v = m
    · subst e; simp
    · simp [e, Ne.symm e]

theorem mem_vfsAbove {p n v : Nat} (hv : n < v) (hm : v ≤ 128) (he : (h.fn (129 * p + v)).enabled = true) :
    v ∈ h.vfsAbove p n := by
  refine List.mem_filterMap.2 ⟨v - 1, List.mem_range.2 (by omega), ?_⟩
  have e : v - 1 + 1 = v := by omega
  have e' : 129 * p + (v - 1) + 1 = 129 * p + v := by omega
  simp [e, e', hv, he]

/-- The VFs above a number are disabled as they disappear. -/
theorem enabled_vfsGo {p n v : Nat} (hv : n < v) (hm : v ≤ 128) (he : (h.fn (129 * p + v)).enabled = true) :
    ((h.vfsGo p n).fn (129 * p + v)).enabled = false := by
  rw [vfsGo, enabled_each_disable]
  simp [mem_vfsAbove h hv hm he]

/-- Enabling VFs up to n changes the port and those VFs alone. -/
theorem fn_each_enable {a n : Nat} (f : Nat → Fn → Fn) {v : Nat} (hv : n < v) (g : Hw) :
    (g.each (List.range n) fun h k => h.modFn (a + k + 1) (f k)).fn (a + v) = g.fn (a + v) :=
  each_keeps_mem (·.fn (a + v)) _ _ (fun k hk h => by
    have := List.mem_range.1 hk
    simp only [fn_modFn, if_neg (show ¬ a + k + 1 = a + v by omega)]) g

theorem port_each_modFn (a : Nat → Nat) (f : Nat → Fn → Fn) (l : List Nat) (q : Nat) (g : Hw) :
    (g.each l fun h k => h.modFn (a k) (f k)).port q = g.port q :=
  each_keeps (·.port q) _ (fun h _ => port_modFn h _ _ _) l g

/-- NumVFs lowered by a PF in D0, the fabric released (R446). -/
theorem setVfs_says {p n : Nat} (hd : (h.fn (129 * p)).d3 = false) (hb : h.boot.stage = .released) :
    ((h.setVfs p n).port p).numVfs = n ∧ ((h.setVfs p n).port p).vfEn = decide (n ≠ 0) ∧
      ∀ v, n < v → v ≤ 128 → (h.fn (129 * p + v)).enabled = true → ((h.setVfs p n).fn (129 * p + v)).enabled = false := by
  simp only [setVfs, hd, hb, Bool.false_eq_true, if_false, ne_eq, not_true_eq_false]
  refine ⟨?_, ?_, fun v hv hm he => ?_⟩
  · rw [port_each_modFn, port_setPort, if_pos rfl]
  · rw [port_each_modFn, port_setPort, if_pos rfl]; cases n <;> rfl
  · rw [fn_each_enable _ hv, fn_setPort]; exact enabled_vfsGo h hv hm he

/-! ### The end of an FLR (R454, R496) -/

/-- What is done at the end of an FLR before its record. -/
def flrEnds (h : Hw) (o : Nat) : Hw :=
  ((h.modFn o fun f => { f with flr := false }).setFld F.FAB_FLR_LAST 0 (o / 129) (o % 129)).count F.FAB_FLR_COUNT 0 (o / 129)

theorem flrComplete_of_idle {o : Nat} (hf : (h.fn o).flr = false) : h.flrComplete o = h := by simp [flrComplete, hf]

theorem flrComplete_fatal {o : Nat} (hf : (h.fn o).flr = true) (e : h.flag F.ERR_STAT_FATAL = true) :
    h.flrComplete o = h.flrEnds o := by simp [flrComplete, flrEnds, hf, e]

theorem flrComplete_records {o : Nat} (hf : (h.fn o).flr = true) (e : h.flag F.ERR_STAT_FATAL = false) :
    h.flrComplete o = (h.flrEnds o).raise 0 3 .FAB 0x03 (chanIndex 9 o 0) none [129 * (o / 129)] (detailOf .FAB [0x03, o]) := by
  simp [flrComplete, flrEnds, hf, e]

theorem flrEnds_flr (o : Nat) : ((h.flrEnds o).fn o).flr = false := by simp [flrEnds, count]

theorem flrEnds_last (o : Nat) : (h.flrEnds o).fld F.FAB_FLR_LAST 0 (o / 129) = o % 129 := by
  rw [flrEnds, count, fld_setFld_bits _ _ _ _ _ _ _ _ (by decide) (by decide) (by decide),
    fld_setFld_same _ _ _ _ _ (by decide) (by decide)]
  exact Nat.mod_eq_of_lt (Nat.lt_trans (Nat.mod_lt o (by decide)) (by decide))

end Sys2Proof.Machine.Hw

namespace Sys2Proof

open Sys2Proof.Machine

/-- Settles O37: a module reset by `moduleReset`, a port reset by what it stores last, an FLR by `configReset`, with which it
ends. -/
theorem fabricResets : Obligations.FabricResets := by
  refine ⟨fun s => ?moduleReset, fun s p hp => ?bothPerst, fun s p kind hk => ?portReset, fun s p v he => ?noVf,
    fun s p v he ha => ?vfFlr, fun s p ha => ?pfFlr, fun s o hf => ⟨fun e => ?fatal, fun e => ?record⟩, fun s o hf => ?noFlr,
    fun s p n hn => ?raised, fun s p n hn hd hb => ?lowered⟩
  case moduleReset =>
    exact completes_run (f := Hw.moduleReset) rfl ⟨rfl, rfl, rfl, fun _ hn => Hw.parish_of_larderKept s.hw rfl hn, rfl, rfl,
      rfl, rfl, rfl, rfl, rfl, rfl, rfl, rfl, rfl, rfl, rfl⟩
  case bothPerst =>
    show s.run (·.portReset p 0) = s.run Hw.moduleReset
    simp [State.run, Hw.portReset, hp]
  case portReset =>
    refine completes_run (f := (·.portReset p kind)) rfl ?_
    obtain ⟨⟨b, port, perst⟩, pme, power⟩ := s.hw.portReset_says hk
    rw [port]
    exact ⟨rfl, rfl, rfl, rfl, rfl, rfl, perst, pme, power⟩
  case noVf =>
    show s.runKeep (·.flr p v) = _
    simp [State.runKeep, State.run, Hw.flr, he]
  case vfFlr =>
    obtain ⟨g, e⟩ := s.hw.flr_eq_configReset he ha
    exact completes_keep (f := (·.flr p v)) rfl (e ▸ g.fnAtReset_configReset _ _)
  case pfFlr =>
    obtain ⟨g, e⟩ := s.hw.pfFlr_eq_configReset ha
    exact completes_keep (f := (·.pfFlr p)) rfl (e ▸ g.fnAtReset_configReset _ _)
  case fatal =>
    refine completes_keep (f := (·.flrComplete o)) rfl ?_
    rw [Hw.flrComplete_fatal _ hf e]
    exact ⟨Hw.flrEnds_flr _ o, Hw.flrEnds_last _ o, rfl, rfl⟩
  case record =>
    refine completes_keep (f := (·.flrComplete o)) rfl ?_
    rw [Hw.flrComplete_records _ hf e]
    exact ⟨_, Hw.flrEnds_flr _ o, Hw.flrEnds_last _ o, rfl, Hw.raise_cots _ _ _ _ _ _ _ _ _⟩
  case noFlr =>
    show s.runKeep (·.flrComplete o) = _
    simp [State.runKeep, State.run, Hw.flrComplete_of_idle _ hf]
  case raised =>
    show s.runKeep (·.vfEnableClear p n) = _
    simp [State.runKeep, State.run, Hw.vfEnableClear, Nat.not_lt.2 hn]
  case lowered =>
    refine completes_keep (f := (·.vfEnableClear p n)) rfl ?_
    simpa only [Hw.vfEnableClear, if_pos hn, Hw.port_setPower, Hw.fn_setPower] using Hw.setVfs_says s.hw hd hb

end Sys2Proof

/-! SUPPORT. Rails, the release of PERST#, and critical temperatures (R471 to R497, R507). -/

namespace Sys2Proof.Machine

/-- A sensor's reading leaves the rails and the clock: what an effect shows of the power controller beside them stays (R497). -/
theorem completes_sense {i : Instr} {s : State} {f : Hw → Hw} {P : Hw → Prop} (e : exec i s = s.runSense f)
    (p : P ((f s.hw).setPower { (f s.hw).power with
      standby := s.hw.power.standby, coreOn := s.hw.power.coreOn, asleep := s.hw.power.asleep,
      fullSpeed := s.hw.power.fullSpeed })) : Completes i s P := ⟨_, e, rfl, p⟩

namespace Hw

variable (h : Hw)

/-! ### Domains (R478, R507) -/

/-- Without the core domain the module's memory reads 0, and fabric memory stays (R478). -/
theorem rb_of_coreLost {g : Hw} (e : g.mem = h.coreLost.mem) (a : Nat) : g.rb a = if a < fabricFirst then 0 else h.rb a :=
  rb_of_mem_above h fabricFirst e a

@[simp] theorem sbdRaise_mem (a b c : BitVec 8) : (h.sbdRaise a b c).mem = h.mem := by unfold sbdRaise; split <;> rfl
@[simp] theorem sbdRaise_power (a b c : BitVec 8) : (h.sbdRaise a b c).power = h.power := by unfold sbdRaise; split <;> rfl
@[simp] theorem sbdRaise_boot (a b c : BitVec 8) : (h.sbdRaise a b c).boot = h.boot := by unfold sbdRaise; split <;> rfl

/-! ### The release of PERST# (R481) -/

/-- The release of PERST# on ports, before what it ends. -/
def perstUp (h : Hw) (a b : Bool) : Hw :=
  let h := if a then h.setPort 0 { h.port 0 with perst := false } else h
  if b then h.setPort 1 { h.port 1 with perst := false } else h

theorem perstUp_boot (a b : Bool) : (h.perstUp a b).boot = h.boot := by cases a <;> cases b <;> rfl

theorem perstUp_keeps (a b : Bool) : (h.perstUp a b).cots = h.cots ∧ (h.perstUp a b).par = h.par ∧
    (h.perstUp a b).power = h.power ∧ (h.perstUp a b).sbd = h.sbd := by
  cases a <;> cases b <;> exact ⟨rfl, rfl, rfl, rfl⟩

theorem perst_perstUp (a b : Bool) : ((h.perstUp a b).port 0).perst = ((h.port 0).perst && !a) ∧
    ((h.perstUp a b).port 1).perst = ((h.port 1).perst && !b) := by
  cases a <;> cases b <;> simp [perstUp]

/-- The end of module reset but for what start-up derives of its boot ROM: the window, HBM channel 0 trained and its reserved
frames zero, Reeve 1 to 3 halted. -/
theorem resetEnds_eq : ∃ x : Boot, x.stage = .window ∧ h.resetEnds =
    ((({ h with boot := x } : Hw).setFld F.PWR_HBMTR_CHAN 0 0 1).zero 0 0x4000000).each [1, 2, 3] fun h r =>
      h.setFld F.RVE_STAT_HALTED 0 r 1 := by
  unfold resetEnds
  exact ⟨_, rfl, rfl⟩

theorem resetEnds_keeps : h.resetEnds.cots = h.cots ∧ h.resetEnds.par = h.par ∧ h.resetEnds.ports = h.ports ∧
    h.resetEnds.power = h.power ∧ h.resetEnds.sbd = h.sbd := by
  obtain ⟨x, -, e⟩ := h.resetEnds_eq
  rw [e]
  exact ⟨rfl, rfl, rfl, rfl, rfl⟩

theorem resetEnds_stage : h.resetEnds.boot.stage = .window := by
  obtain ⟨x, hx, e⟩ := h.resetEnds_eq
  rw [e, each_keeps (·.boot) _ fun h r => setFld_boot h _ _ _ _]
  exact hx

theorem resetEnds_trained : h.resetEnds.fld F.PWR_HBMTR_CHAN = 1 := by
  obtain ⟨x, -, e⟩ := h.resetEnds_eq
  rw [e, each_keeps (·.fld F.PWR_HBMTR_CHAN) _ fun h r => fld_setFld_reg h _ _ _ _ _ _ _ (by decide), fld_zero,
    fld_setFld_same _ _ _ _ _ (by decide) (by decide)]
  exact Nat.mod_eq_of_lt (Nat.one_lt_two_pow (by decide))

theorem resetEnds_halted : ∀ r, r = 1 ∨ r = 2 ∨ r = 3 → h.resetEnds.flag F.RVE_STAT_HALTED 0 r = true := by
  obtain ⟨x, -, e⟩ := h.resetEnds_eq
  rw [e]
  rintro r (rfl | rfl | rfl) <;> simp [each, flag, fld_setFld_same, fld_setFld_ne]

theorem rb_resetEnds {p : Nat} (hp : p < 0x4000000) : h.resetEnds.rb p = 0 := by
  obtain ⟨x, -, e⟩ := h.resetEnds_eq
  rw [e, each_keeps (·.rb p) _ fun h r => rb_setFld h _ _ _ _ _, rb_zero, if_pos ⟨Nat.zero_le p, by omega⟩]

theorem perstRelease_eq (a b : Bool) : h.perstRelease a b =
    if h.boot.stage ≠ .held ∨ ¬ (a || b) ∨ ¬ h.power.standby ∨ ¬ h.power.coreOn then h.perstUp a b
    else (h.perstUp a b).resetEnds := by
  cases a <;> cases b <;> rfl

/-- A release that meets module reset ends it. -/
theorem perstRelease_held {a b : Bool} (hs : h.boot.stage = .held) (hab : (a || b) = true) (hp : h.power.standby = true)
    (hc : h.power.coreOn = true) : h.perstRelease a b = (h.perstUp a b).resetEnds := by
  rw [perstRelease_eq, if_neg (by simp [hs, hab, hp, hc])]

theorem perstRelease_stage (a b : Bool) (hs : h.boot.stage = .held) (hp : h.power.standby = true) (hc : h.power.coreOn = true) :
    (h.perstRelease a b).boot.stage = if a || b then .window else .held := by
  by_cases hab : (a || b) = true
  · rw [perstRelease_held h hs hab hp hc, resetEnds_stage, if_pos hab]
  · rw [perstRelease_eq, if_pos (.inr (.inl hab)), perstUp_boot, hs, if_neg hab]

/-- Whatever a release ends, the standby domain stays, no cottage or parish changes, and PERST# of each port follows it. -/
theorem perstRelease_keeps (a b : Bool) : let g := h.perstRelease a b
    g.cots = h.cots ∧ g.par = h.par ∧ g.power = h.power ∧ g.sbd = h.sbd ∧
      (g.port 0).perst = ((h.port 0).perst && !a) ∧ (g.port 1).perst = ((h.port 1).perst && !b) := by
  obtain ⟨cots, par, power, sbd⟩ := h.perstUp_keeps a b
  obtain ⟨p0, p1⟩ := h.perst_perstUp a b
  rw [perstRelease_eq]
  split
  · exact ⟨cots, par, power, sbd, p0, p1⟩
  · obtain ⟨cots', par', ports', power', sbd'⟩ := (h.perstUp a b).resetEnds_keeps
    refine ⟨cots'.trans cots, par'.trans par, power'.trans power, sbd'.trans sbd, ?_, ?_⟩
    · rw [port, ports']; exact p0
    · rw [port, ports']; exact p1

/-! ### The standby domain (R507) -/

/-- The standby domain ready is a module reset, and then the release of PERST# where it has been released. -/
theorem standbyReady_eq (v : Nat) (a b : Bool) (hs : h.power.standby = false) : ∃ g : Hw,
    h.standbyReady v a b = (g.perstRelease a b).setPower g.power ∧ g.boot.stage = .held ∧ g.power.standby = true ∧
      g.power.coreOn = true ∧ g.power = { Power.reset with vin := v } ∧ g.sbd = Sideband.reset ∧ g.cots = [] ∧
      g.par = h.larderKept ∧ ∀ p, (g.port p).perst = true := by
  unfold standbyReady
  rw [if_neg (by simp [hs])]
  exact ⟨_, rfl, rfl, rfl, rfl, rfl, rfl, rfl, rfl, fun _ => rfl⟩

/-! ### Critical temperatures (R495 to R497) -/

theorem tempShow_boot (s t : Nat) : (h.tempShow s t).boot = h.boot := by
  unfold tempShow
  split <;> exact setFld_boot _ _ _ _ _
theorem tempShow_power (s t : Nat) : (h.tempShow s t).power = h.power := by
  unfold tempShow
  split <;> exact setFld_power _ _ _ _ _

/-- A crossing of a sensor's limit is recorded and warned of, and leaves start-up and the core rails as they are. -/
theorem tempCross_keeps (s t : Nat) :
    (h.tempCross s t).boot = h.boot ∧ (h.tempCross s t).power.coreOn = h.power.coreOn := by
  unfold tempCross
  dsimp only
  repeat' split
  all_goals simp

/-- So does a temperature's reading. -/
theorem tempSense_keeps (s t : Nat) :
    (h.tempSense s t).boot = h.boot ∧ (h.tempSense s t).power.coreOn = h.power.coreOn := by
  obtain ⟨boot, coreOn⟩ := (h.tempShow s t).tempCross_keeps s t
  unfold tempSense
  dsimp only
  split
  · simp only [tempShow_boot, tempShow_power, and_self]
  · simp only [setFld_boot, setFld_power, boot, coreOn, tempShow_boot, tempShow_power, and_self]

/-- A Module-fatal event leaves the module in the Module-fatal state (R495). -/
theorem moduleFatal_fatal (src : Blk) (cause detail : Nat) : (h.moduleFatal src cause detail).flag F.ERR_STAT_FATAL = true := by
  unfold moduleFatal
  rw [flag, fld_setFld_same _ _ _ _ _ (by decide) (by decide)]
  rfl

/-- A critical temperature once it is shown: Module-fatal, or in that state its record, and the core rails are to go (R496). -/
def critFalls (h : Hw) (detail : Nat) : Hw :=
  if h.flag F.ERR_STAT_FATAL then ((h.raise 2 0 .PWR 0x04 0 none bothPfs detail).eqFlip 0).eqFlip 129
  else h.moduleFatal .PWR 0x04 detail

theorem critFalls_fatal (detail : Nat) : (h.critFalls detail).flag F.ERR_STAT_FATAL = true := by
  unfold critFalls
  split
  case isTrue f => rw [flag_eqFlip _ _ _ _ _ rfl, flag_eqFlip _ _ _ _ _ rfl, flag_raise _ _ _ _ _ _ _ _ _ _ _ _ rfl, f]
  case isFalse => exact moduleFatal_fatal _ _ _ _

/-- While the core domain is out of reset, a critical temperature has that effect once it is shown and warned of. -/
theorem thermCrit_eq {k t : Nat} (hs : h.power.standby = true) (hc : h.power.coreOn = true) (hb : h.boot.stage ≠ .held)
    (hk : critical k t = true) : h.thermCrit k t =
      let g := ((h.tempSense k t).sbdRaise 0 (tempFaultBit k) 0).critFalls (k * 2 ^ 8 + t % 2 ^ 8)
      g.setPower { g.power with critPending := true } := by
  obtain ⟨boot, coreOn⟩ := h.tempSense_keeps k t
  simp only [thermCrit, hs, hk, sbdRaise_power, sbdRaise_boot, coreOn, boot, hc, beq_eq_false_iff_ne.2 hb, Bool.not_true,
    Bool.or_self, Bool.false_eq_true, if_false]
  rfl

end Hw

end Sys2Proof.Machine

namespace Sys2Proof

open Sys2Proof.Machine

/-- Settles O58: the loss of a domain by `coreLost`, the release of PERST# by `resetEnds`, a critical temperature by
`critFalls`. -/
theorem powerRails : Obligations.PowerRails := by
  refine ⟨fun s v a b hs => ?standby, fun s v hv => ?uvlo, fun s v hv hs => ?loss, fun s => ⟨fun hp => ?removed, fun hp => ?stands⟩,
    fun s a b hb hab hs hc => ?perst, fun s k t hs hc hb hk => ?critical⟩
  case standby =>
    refine completes_run (f := (·.standbyReady v a b)) rfl ?_
    obtain ⟨g, e, stage, up, on, power, sbd, cots, par, perst⟩ := s.hw.standbyReady_eq v a b hs
    obtain ⟨cots', par', -, sbd', p0, p1⟩ := g.perstRelease_keeps a b
    rw [e]
    exact ⟨power, sbd'.trans sbd, cots'.trans cots, par'.trans par, g.perstRelease_stage a b stage up on,
      p0.trans (by simp [perst]), p1.trans (by simp [perst])⟩
  case uvlo =>
    refine completes_run (f := (·.uvloFall v)) rfl ?_
    simp only [Hw.uvloFall, if_pos hv]
    exact ⟨trivial, trivial, rfl, rfl, rfl, fun a => Hw.rb_of_coreLost s.hw rfl a⟩
  case loss =>
    refine completes_run (f := (·.powerLoss v)) rfl ?_
    simp only [Hw.powerLoss, if_pos (And.intro hv hs)]
    refine ⟨?_, rfl, rfl, rfl, rfl, rfl, fun a => ?_⟩
    · exact (congrArg Power.standby (s.hw.sbdRaise_power _ _ _)).trans hs
    · exact (Hw.rb_of_coreLost _ rfl a).trans (by rw [Hw.rb, Hw.sbdRaise_mem]; rfl)
  case removed =>
    refine completes_run (f := Hw.coreRailRemoval) rfl ?_
    simp only [Hw.coreRailRemoval, hp, if_true]
    exact ⟨rfl, rfl, rfl, rfl, rfl, rfl⟩
  case stands =>
    show s.run Hw.coreRailRemoval = _
    simp [State.run, Hw.coreRailRemoval, hp]
  case perst =>
    refine completes_keep (f := (·.perstRelease a b)) rfl ?_
    obtain ⟨-, -, -, sbd, p0, p1⟩ := s.hw.perstRelease_keeps a b
    have e := s.hw.perstRelease_held hb hab hs hc
    rw [e] at sbd p0 p1 ⊢
    simp only [Hw.setPower_boot, Hw.fld_setPower, Hw.flag_setPower, Hw.rb_setPower, Hw.port_setPower, Hw.setPower_power,
      Hw.setPower_sbd, Hw.resetEnds_stage, Hw.resetEnds_trained, sbd, p0, p1]
    exact ⟨trivial, trivial, Hw.resetEnds_halted _, fun _ => Hw.rb_resetEnds _, trivial, trivial, trivial, trivial⟩
  case critical =>
    refine completes_sense (f := (·.thermCrit k t)) rfl ?_
    simp only [s.hw.thermCrit_eq hs hc hb hk]
    exact ⟨rfl, hc, fun _ => Hw.critFalls_fatal _ _⟩

end Sys2Proof

/-! SUPPORT. Accesses of registers by address (R5, R9 to R11, R442, R447, R448). -/

namespace Sys2Proof.Machine

/-! ### The runner of REGISTER_WRITE -/

namespace Hw

variable (h : Hw)

theorem act_awake {h : Hw} (a : h.act = true) : h.power.asleep = false := by
  simp only [act, Bool.and_eq_true, Bool.not_eq_true'] at a
  exact a.1.1.2

/-- What an access by address does to a block whose core domain works. -/
def barAccess (h : Hw) (ag : Agent) (view off bytes : Nat) : BarAccess → Hw
  | .read => h.readBy ag (viewOf ag view) off bytes
  | .write v => h.writeBar ag (viewOf ag view) off bytes v.toNat

theorem registerWrite_eq (a : h.act = true) (ag : Agent) (view off bytes : Nat) (acc : BarAccess) :
    h.registerWrite ag view off bytes acc = h.barAccess ag view off bytes acc := by
  cases acc <;> simp [registerWrite, act_awake a, live, a, barAccess]

end Hw

variable {s : State} {ag : Agent} {view off bytes : Nat} {acc : BarAccess} {v : DWord} {g : Hw}

theorem completesAs_registerWrite (a : s.hw.act = true) (e : s.hw.barAccess ag view off bytes acc = g) :
    CompletesAs (.registerWrite ag view off bytes acc) s g := by
  have k : exec (.registerWrite ag view off bytes acc) s =
    s.runWake fun h => h.registerWrite ag view off bytes acc := rfl
  simp [CompletesAs, k, State.runWake, State.run, s.hw.registerWrite_eq a, e, a]

theorem completes_registerWrite {P : Hw → Prop} (a : s.hw.act = true) (e : s.hw.barAccess ag view off bytes acc = g)
    (p : P (g.setPower { s.hw.power with asleep := g.power.asleep })) : Completes (.registerWrite ag view off bytes acc) s P :=
  ⟨_, completesAs_registerWrite a e, rfl, p⟩

/-- The low word of what is written. -/
theorem ofNat_word (v : DWord) : BitVec.ofNat 32 (v.toNat % 2 ^ 32) = v.setWidth 32 :=
  BitVec.eq_of_toNat_eq (by simp)

/-! ### Registers without a rule of their own -/

/-- Registers of 32 bits without a rule of their own: a write stores them by their access types (R5). -/
def plain32 : List RegName :=
  [.PWR_EVT, .PWR_BOOT_FWLEN, .ARM_LEN, .LOM_STG_LEN, .CHR_TDM_STAT, .HBM_URG_THR,
      .HBM_URG_STAT, .PLN_PITCH, .LAN_WAKE, .BEL_STAT, .ARB_URG_THR, .PIC_TGT, .PIC_MSIX, .PIC_VWIN, .COT_ARITH]

/-- Registers of 64 bits of this kind, none with a lock. -/
def plain64 : List RegName := [.PWR_BOOT_FW, .ARM_SRC, .LOM_STG_SRC, .GRN_ARG0, .PLN_RECT, .PLN_BASE]

/-- No field of the row is written only. -/
def RegDesc.readable (d : RegDesc) : Bool := d.fields.all fun f => f.acc != .wo

/-- Every field of the row takes what is written. -/
def RegDesc.writable (d : RegDesc) : Bool := d.fields.all fun f => f.acc == .rw

theorem plain32_width {n : RegName} (hn : n ∈ plain32) : n.desc.width = 32 := by revert n; decide
theorem plain64_width {n : RegName} (hn : n ∈ plain64) : n.desc.width = 64 := by revert n; decide
theorem plain_readable {n : RegName} (hn : n ∈ plain32 ++ plain64) : n.desc.readable = true := by revert n; decide
theorem plain64_writable {n : RegName} (hn : n ∈ plain64) : n.desc.writable = true := by revert n; decide

theorem foldl_of_fixed {α β : Type} {f : α → β → α} {a : α} {l : List β} (h : ∀ x ∈ l, f a x = a) : l.foldl f a = a := by
  induction l with
  | nil => rfl
  | cons x l ih => rw [List.foldl_cons, h x List.mem_cons_self, ih fun y hy => h y (List.mem_cons_of_mem _ hy)]

namespace Hw

variable (h : Hw)

/-- Neither the writes nor the reads of the register tables have a rule of their own for such a register. -/
theorem access_plain {n : RegName} (hn : n ∈ plain32 ++ plain64) (ag : Agent) (i j v : Nat) :
    (h.writeReg ag n i j v = h.guarded ag n i j v true fun h => h.storeFields n i j v) ∧
      h.readReg ag n i j = (hideWo n.desc.fields (h.reg n i j).toNat, h) := by
  rw [plain32, plain64, List.cons_append] at hn
  repeat
    obtain rfl | hn := List.mem_cons.1 hn
    · exact ⟨rfl, rfl⟩
  cases hn

/-- A write of such a register is guarded by the view and the locks alone, and stores every field by its access type (R5). -/
theorem writeReg_plain {n : RegName} (hn : n ∈ plain32 ++ plain64) (ag : Agent) (i j v : Nat) :
    h.writeReg ag n i j v = h.guarded ag n i j v true fun h => h.storeFields n i j v := (h.access_plain hn ag i j v).1

/-- A read of one shows what it holds, and changes nothing. -/
theorem readReg_plain {n : RegName} (hn : n ∈ plain32 ++ plain64) (ag : Agent) (i j : Nat) :
    h.readReg ag n i j = ((h.reg n i j).toNat, h) := by
  have readable := plain_readable hn
  simp only [RegDesc.readable, List.all_eq_true, bne_iff_ne] at readable
  rw [(h.access_plain hn ag i j 0).2, hideWo, foldl_of_fixed fun f hf => if_neg (readable f hf)]

theorem changesLocked_of_writable {n : RegName} (w : n.desc.writable = true) (ag : Agent) (i j v : Nat) :
    h.changesLocked ag n i j v = false := by
  have k : (n.desc.fields.any fun f => f.acc == .rwl && bits (h.reg n i j).toNat f.hi f.lo != bits v f.hi f.lo) = false := by
    refine List.any_eq_false.2 fun f hf => ?_
    rw [eq_of_beq (List.all_eq_true.1 w f hf)]
    exact Bool.false_ne_true
  rw [changesLocked, k, Bool.and_false]

/-- Such a register's other half stays as it is when a half is written. -/
theorem halfNeutral_of_writable {n : RegName} (w : n.desc.writable = true) (i j : Nat) :
    h.halfNeutral n i j = (h.reg n i j).toNat :=
  foldl_of_fixed fun f hf => by rw [eq_of_beq (List.all_eq_true.1 w f hf)]

/-- A register of 64 bits of these has no lock: a write in view stores. -/
theorem writeReg_plain64 {n : RegName} (hn : n ∈ plain64) {ag : Agent} {i j v : Nat} (hs : h.sees ag n i j = true) :
    h.writeReg ag n i j v = h.storeFields n i j v := by
  rw [writeReg_plain _ (List.mem_append_right _ hn),
    guarded_ok _ _ _ _ _ _ _ _ hs (changesLocked_of_writable _ (plain64_writable hn) ..) rfl]

/-! ### What a write of a place stores -/

/-- The write of x at place q has stored every field by its access type (R5) and changed no other register and nothing else. -/
def Stores (h : Hw) (q : Place) (x : Nat) (g : Hw) : Prop :=
  (∀ d ∈ q.name.desc.fields, g.fld ⟨q.name, d.hi, d.lo⟩ q.bank q.idx =
    d.acc.store (h.fld ⟨q.name, d.hi, d.lo⟩ q.bank q.idx) (bits x d.hi d.lo)) ∧
  (∀ n i j, ¬(n = q.name ∧ i = q.bank ∧ j = q.idx) → g.reg n i j = h.reg n i j) ∧ g.Untouched h

theorem stores_storeFields (q : Place) (x : Nat) (p : Power) :
    h.Stores q x ((h.storeFields q.name q.bank q.idx x).setPower p) := by
  refine ⟨fun d hd => ?_, fun n i j hn => ?_, rfl, rfl, rfl, rfl, rfl, rfl, rfl, rfl, rfl⟩
  · rw [fld_setPower, fld_storeFields h _ _ _ _ _ d hd rfl (field_hi_lt hd)]
  · rw [reg_setPower]
    exact reg_setReg_ne _ _ _ _ _ _ _ _ fun ⟨a, b, c⟩ => hn ⟨a.symm, b.symm, c.symm⟩

/-! ### Words and double words by address (R9 to R11) -/

variable {h} {ag : Agent} {view off n v : Nat} {q : Place}

theorem writeBar_word (hr : h.reaches ag = true) (ho : off % 4 = 0) : h.writeBar ag view off 4 v = h.write4 ag view off v := by
  simp [writeBar, hr, ho]

theorem write4_word (hq : h.regAt view off = some q) (hw : q.name.desc.width = 32) :
    h.write4 ag view off v = h.writeReg ag q.name q.bank q.idx (v % 2 ^ 32) := by
  simp [write4, hq, hw]

theorem write4_half (hq : h.regAt view off = some q) (hw : q.name.desc.width = 64) :
    h.write4 ag view off v = h.writeReg ag q.name q.bank q.idx
      (setBits (h.halfNeutral q.name q.bank q.idx) (8 * q.byte + 31) (8 * q.byte) v) := by
  simp [write4, hq, hw]

theorem writeBar_dword (hr : h.reaches ag = true) (ho : off % 8 = 0) (hq : h.regAt view off = some q)
    (hw : q.name.desc.width = 64) (hv : v < 2 ^ 64) : h.writeBar ag view off 8 v = h.writeReg ag q.name q.bank q.idx v := by
  conv => rhs; rw [← Nat.mod_eq_of_lt hv]
  simp [writeBar, hr, ho, hq, hw, Option.filter]

theorem writeBar_unreached (hr : h.reaches ag = false) : h.writeBar ag view off n v = h.unreached ag := by
  simp [writeBar, hr]

/-- An access of a size or alignment that R9 does not allow. -/
def badlySized (off n : Nat) : Prop := ¬(n = 4 ∧ off % 4 = 0) ∧ ¬(n = 8 ∧ off % 8 = 0)

theorem writeBar_badlySized (hr : h.reaches ag = true) (hb : badlySized off n) :
    h.writeBar ag view off n v = h.badSize ag view off n := by
  simp only [writeBar, hr, if_neg hb.1, if_neg hb.2, Bool.not_true, Bool.false_eq_true, if_false]

theorem readBy_badlySized (hr : h.reaches ag = true) (hb : badlySized off n) :
    h.readBy ag view off n = (h.badSize ag view off n).answer ag (2 ^ (8 * n) - 1) := by
  simp only [readBy, readBar, hr, if_neg hb.1, if_neg hb.2, Bool.not_true, Bool.false_eq_true, if_false]

theorem badSize_seen (hu : h.unreported ag = false) (hq : h.regAt view (off / 4 * 4) = some q)
    (hs : h.sees ag q.name q.bank q.idx = true) : h.badSize ag view off n =
      h.dropRecord q.name q.bank q.idx 0xF1 (agentBits ag * 2 ^ 48 + n % 256 * 2 ^ 40 + off % 2 ^ 32) := by
  simp [badSize, hu, hq, hs, Option.filter]

theorem badSize_hole (hu : h.unreported ag = false) (hq : h.regAt view (off / 4 * 4) = none) : h.badSize ag view off n =
      h.holeRecord off 0xF1 (agentBits ag * 2 ^ 48 + n % 256 * 2 ^ 40 + off % 2 ^ 32) := by
  simp [badSize, hu, hq]

theorem write4_hole (hq : h.regAt view off = none) : h.write4 ag view off v =
    if h.unreported ag = true ∨ h.holeInView ag off = true then h
    else h.holeRecord off 0xF0 (agentBits ag * 2 ^ 48 + off % 2 ^ 32) := by
  simp [write4, hq, writeHole]

theorem read4_hole (hq : h.regAt view off = none) : h.read4 ag view off = (0, h) := by rw [read4, hq]

theorem read4_unseen (hq : h.regAt view off = some q) (hs : h.sees ag q.name q.bank q.idx = false) :
    h.read4 ag view off = (0, h) := by simp [read4, hq, hs]

theorem read4_plain (hq : h.regAt view off = some q) (hn : q.name ∈ plain32 ++ plain64)
    (hs : h.sees ag q.name q.bank q.idx = true) :
    h.read4 ag view off = ((h.reg q.name q.bank q.idx).toNat / 2 ^ (8 * q.byte) % 2 ^ 32, h) := by
  simp [read4, hq, hs, readReg_plain h hn]

theorem answer_fn {o : Nat} (ha : agentFn ag = some o) (hr : h.reaches ag = true) (x : Nat) :
    h.answer ag x = { h with out := .readData o (BitVec.ofNat 64 x) :: h.out } := by
  have b : h.barAnswers o = true := by simpa [reaches, ha] using hr
  simp [answer, ha, b, emit]

/-! ### TLY_HWM (R63) -/

/-- The written mark, or the present fill where that is higher. -/
theorem hwmWrite_says {c : Nat} (hs : h.sees ag .TLY_HWM c 0 = true) (hf : h.tallyFill c ≤ 512) (p : Power) :
    let g := (h.hwmWrite ag c (v % 2 ^ 32)).setPower p
    g.fld F.TLY_HWM_HWM c = max (v % 2 ^ 10) (h.tallyFill c) ∧
      (∀ n i j, ¬(n = .TLY_HWM ∧ i = c ∧ j = 0) → g.reg n i j = h.reg n i j) ∧ g.Untouched h := by
  have l : h.changesLocked ag .TLY_HWM c 0 (v % 2 ^ 32) = false := changesLocked_of_writable h (by decide) ..
  have stored : (h.storeFields .TLY_HWM c 0 (v % 2 ^ 32)).fld F.TLY_HWM_HWM c = v % 2 ^ 10 := by
    rw [fld_storeFields h _ _ _ _ _ ⟨9, 0, .rw, 0⟩ (by decide) rfl (by decide)]
    exact bits_mod v 9 0 32 (by decide) |>.trans (by simp [bits])
  rw [hwmWrite, guarded_ok _ _ _ _ _ _ _ _ hs l rfl]
  refine ⟨?_, fun n i j hn => ?_, rfl, rfl, rfl, rfl, rfl, rfl, rfl, rfl, rfl⟩
  · rw [fld_setPower, tallyMark, fld_setFld_same _ _ _ _ _ (by decide) (by decide), stored]
    exact Nat.mod_eq_of_lt (Nat.max_lt.2 ⟨Nat.mod_lt _ (by decide), Nat.lt_of_le_of_lt hf (by decide)⟩)
  · rw [reg_setPower, tallyMark, reg_setFld_ne _ _ _ _ _ _ _ _ fun ⟨a, b, c⟩ => hn ⟨a.symm, b.symm, c.symm⟩]
    exact reg_setReg_ne _ _ _ _ _ _ _ _ fun ⟨a, b, c⟩ => hn ⟨a.symm, b.symm, c.symm⟩

end Hw

/-! ### Accesses of a block whose core domain works -/

section
variable {q : Place} {x : Nat} {i : Instr} {f : Hw → Hw} (a : s.hw.act = true) (hr : s.hw.reaches ag = true)
include a

theorem registerWrite_stores (e : s.hw.barAccess ag view off bytes acc = s.hw.storeFields q.name q.bank q.idx x) :
    Completes (.registerWrite ag view off bytes acc) s (s.hw.Stores q x) :=
  completes_registerWrite a e (s.hw.stores_storeFields q x _)

include hr

/-- A word at a register whose write is a command's does what the command does. -/
theorem registerWrite_sameAs (ho : off % 4 = 0) (hq : s.hw.regAt (Hw.viewOf ag view) off = some q) (hw : q.name.desc.width = 32)
    (e : exec i s = s.runLive f) (k : s.hw.writeReg ag q.name q.bank q.idx (v.toNat % 2 ^ 32) = f s.hw) :
    ∃ t, exec (.registerWrite ag view off 4 (.write v)) s = .next t ∧ exec i s = .next t :=
  ⟨_, completesAs_registerWrite a (((Hw.writeBar_word hr ho).trans (Hw.write4_word hq hw)).trans k), completesAs_live e a rfl⟩

/-- A function's read of a word is answered with what stands there. -/
theorem registerRead_answers {o : Nat} (hag : Hw.agentFn ag = some o) (ho : off % 4 = 0)
    (e : s.hw.read4 ag (Hw.viewOf ag view) off = (x, s.hw)) : CompletesAs (.registerWrite ag view off 4 .read) s
      { s.hw with out := .readData o (BitVec.ofNat 64 x) :: s.hw.out } := by
  refine completesAs_registerWrite a (Eq.trans ?_ (Hw.answer_fn hag hr x))
  simp [Hw.barAccess, Hw.readBy, Hw.readBar, hr, ho, e]

end

end Sys2Proof.Machine

namespace Sys2Proof

open Sys2Proof.Machine

/-- Settles O60: an access by address is `barAccess`; a plain register's write is `storeFields` behind its guard. -/
theorem registerWrites : Obligations.RegisterWrites := by
  intro ag view off bytes v s a
  refine ⟨fun o hr ho => ?unreached, fun hr => ⟨fun q hq ho => ⟨fun hs => ⟨fun hn hl => ?word, fun hn hl => ?locked,
    fun hn ho8 => ?dword, fun hn => ?half⟩, fun hn hs hf => ?hwm, fun hn => ?sp, fun hn => ?input, fun hn => ?ret, fun hn => ?s1⟩,
    fun hq ho => ?hole, fun h4 h8 hu => ⟨fun q hq hs => ?sizeSeen, fun hq => ?sizeHole⟩,
    fun o hag ho => ⟨fun hq => ?readHole, fun q hq => ⟨fun hn hs => ?read, fun hs => ?readUnseen⟩⟩⟩⟩
  case unreached =>
    refine completesAs_registerWrite a ((Hw.writeBar_unreached hr).trans ?_)
    rw [Hw.unreached, ho]
    rfl
  case word =>
    refine registerWrite_stores a ?_
    rw [Hw.barAccess, Hw.writeBar_word hr ho, Hw.write4_word hq (plain32_width hn),
      Hw.writeReg_plain _ (List.mem_append_left _ hn), Hw.guarded_ok _ _ _ _ _ _ _ _ hs hl rfl]
  case locked =>
    refine completesAs_registerWrite a ?_
    rw [Hw.barAccess, Hw.writeBar_word hr ho, Hw.write4_word hq (plain32_width hn),
      Hw.writeReg_plain _ (List.mem_append_left _ hn), Hw.guarded_refuses _ _ _ _ _ _ _ _ hs (.inl hl)]
  case dword =>
    refine registerWrite_stores a ?_
    rw [Hw.barAccess, Hw.writeBar_dword hr ho8 hq (plain64_width hn) v.isLt, Hw.writeReg_plain64 _ hn hs]
  case half =>
    refine registerWrite_stores a ?_
    rw [Hw.barAccess, Hw.writeBar_word hr ho, Hw.write4_half hq (plain64_width hn),
      Hw.halfNeutral_of_writable _ (plain64_writable hn), Hw.writeReg_plain64 _ hn hs]
  case hwm =>
    obtain ⟨n, i, j, b⟩ := q
    subst hn
    exact completes_registerWrite a ((Hw.writeBar_word hr ho).trans (Hw.write4_word hq rfl)) (Hw.hwmWrite_says hs hf _)
  case sp =>
    obtain ⟨n, i, j, b⟩ := q
    subst hn
    exact registerWrite_sameAs (f := (·.cotContextWrite ag i 16 (v.setWidth 32))) a hr ho hq rfl rfl
      (congrArg (s.hw.cotContextWrite ag i 16) (ofNat_word v))
  case input =>
    obtain ⟨n, i, j, b⟩ := q
    subst hn
    exact registerWrite_sameAs (f := (·.inputPush ag i (v.setWidth 32))) a hr ho hq rfl rfl
      (congrArg (s.hw.inputPush ag i) (ofNat_word v))
  case ret =>
    obtain ⟨n, i, j, b⟩ := q
    subst hn
    exact registerWrite_sameAs (f := (·.comRingRet ag i j (v.setWidth 32))) a hr ho hq rfl rfl
      (congrArg (s.hw.comRingRet ag i j) (ofNat_word v))
  case s1 =>
    obtain ⟨n, i, j, b⟩ := q
    subst hn
    exact registerWrite_sameAs (f := (·.porS1CtlWrite ag j (v.setWidth 32))) a hr ho hq rfl rfl
      (congrArg (s.hw.porS1CtlWrite ag j) (ofNat_word v))
  case hole =>
    exact completesAs_registerWrite a ((Hw.writeBar_word hr ho).trans (Hw.write4_hole hq))
  case sizeSeen =>
    have e := Hw.badSize_seen (n := bytes) hu hq hs
    exact ⟨completesAs_registerWrite a ((Hw.writeBar_badlySized hr ⟨h4, h8⟩).trans e),
      completesAs_registerWrite a (e ▸ Hw.readBy_badlySized hr ⟨h4, h8⟩)⟩
  case sizeHole =>
    have e := Hw.badSize_hole (n := bytes) hu hq
    exact ⟨completesAs_registerWrite a ((Hw.writeBar_badlySized hr ⟨h4, h8⟩).trans e),
      completesAs_registerWrite a (e ▸ Hw.readBy_badlySized hr ⟨h4, h8⟩)⟩
  case readHole => exact registerRead_answers a hr hag ho (Hw.read4_hole hq)
  case read => exact registerRead_answers a hr hag ho (Hw.read4_plain hq (List.mem_append.2 hn) hs)
  case readUnseen => exact registerRead_answers a hr hag ho (Hw.read4_unseen hq hs)

end Sys2Proof

/-! SUPPORT. Commands of the Armature, staging, test and firmware banks at their writes (R82, R170, R171, R488, R499). -/

namespace Sys2Proof.Machine

variable {i : Instr} {s : State} {f : Hw → Hw} {k p op m vec c : Nat}

/-- A write that its bank takes up completes with the command in progress and nothing else changed. -/
theorem completes_bankStart (e : exec i s = s.runLive f) (a : s.hw.act = true) (w : f s.hw = s.hw.bankStart k p op m vec 1) :
    Completes i s fun h => h.job = some ⟨k, p, op, m, vec, [], none, none, none, none⟩ ∧ h.bankState k p = 1 ∧
      s.hw.Untouched h := by
  refine completes_live e a ?_
  rw [w]
  exact Hw.bankStart_says _ _ _ _ _ _ _ _ (by decide)

/-- A write that its bank turns away completes with the refusing code and leaves what runs (R86). -/
theorem completes_bankRefused (e : exec i s = s.runLive f) (a : s.hw.act = true) (w : f s.hw = s.hw.bankRefused k p vec c)
    (hc : c < 256) : Completes i s fun h => h.bankCode k p = c ∧ s.hw.Unbothered h ∧ h.bankState k p = s.hw.bankState k p := by
  refine completes_live e a ?_
  rw [w]
  exact Hw.bankRefused_says _ _ _ _ _ _ hc

namespace Hw

theorem nodup_maskList (mask : Nat) : (maskList mask).Nodup := List.nodup_range.filter _

/-! ### What each bank makes of a write in range -/

section
variable {h : Hw} {ag : Agent} {p op mask vec t : Nat}

theorem armCmdWrite_seen (hs : h.sees ag .ARM_CMD p 0 = true) (ho : 1 ≤ op ∧ op ≤ 4) (hv : vec < 2048) :
    h.armCmdWrite ag p op mask vec =
      if h.job.isSome || (op == 2 && h.uncalibrated mask) then h.bankRefused kArm p vec 0x01
      else if op = 2 ∧ (maskList mask).any fun n => ¬ h.drained n then h.bankRefused kArm p vec 0x02
      else h.bankStart kArm p op mask vec 1 := by
  simp only [armCmdWrite, decide_eq_true ho, decide_eq_true hv, Bool.and_self]
  exact guarded_open _ _ _ _ _ _ _ hs (by decide)

/-- A command while one runs (R85). -/
theorem armCmdWrite_busy (hs : h.sees ag .ARM_CMD p 0 = true) (ho : 1 ≤ op ∧ op ≤ 4) (hv : vec < 2048) (hj : h.job ≠ none) :
    h.armCmdWrite ag p op mask vec = h.bankRefused kArm p vec 0x01 := by
  simp [armCmdWrite_seen hs ho hv, Option.isSome_iff_ne_none.2 hj]

/-- A VALIDATE, or a module load, asks nothing of parishes. -/
theorem armCmdWrite_starts (hs : h.sees ag .ARM_CMD p 0 = true) (ho : 1 ≤ op ∧ op ≤ 4) (hv : vec < 2048) (hj : h.job = none)
    (h2 : op ≠ 2) : h.armCmdWrite ag p op mask vec = h.bankStart kArm p op mask vec 1 := by
  simp [armCmdWrite_seen hs ho hv, hj, h2]

/-- A parish load asks for calibrated parishes first (R482). -/
theorem loadParish_uncalibrated (hs : h.sees ag .ARM_CMD p 0 = true) (hv : vec < 2048) (hc : h.uncalibrated mask = true) :
    h.loadParish ag p mask vec = h.bankRefused kArm p vec 0x01 := by
  simp [loadParish, armCmdWrite_seen hs (op := 2) (by decide) hv, hc]

/-- Then for drained ones (R83). -/
theorem loadParish_undrained (hs : h.sees ag .ARM_CMD p 0 = true) (hv : vec < 2048) (hj : h.job = none)
    (hc : h.uncalibrated mask = false) (hd : ∃ n, n ∈ maskList mask ∧ h.drained n = false) :
    h.loadParish ag p mask vec = h.bankRefused kArm p vec 0x02 := by
  simp [loadParish, armCmdWrite_seen hs (op := 2) (by decide) hv, hj, hc, hd]

theorem loadParish_starts (hs : h.sees ag .ARM_CMD p 0 = true) (hv : vec < 2048) (hj : h.job = none)
    (hc : h.uncalibrated mask = false) (hd : ∀ n, n ∈ maskList mask → h.drained n = true) :
    h.loadParish ag p mask vec = h.bankStart kArm p 2 mask vec 1 := by
  have : ¬ ∃ n, n ∈ maskList mask ∧ h.drained n = false := by simpa using hd
  simp [loadParish, armCmdWrite_seen hs (op := 2) (by decide) hv, hj, hc, this]

theorem stageCmdWrite_seen (hs : h.sees ag .LOM_STG_CMD p 0 = true) (ho : 1 ≤ op ∧ op ≤ 2) (hv : vec < 2048) :
    h.stageCmdWrite ag p op mask vec =
      if h.job.isSome || h.uncalibrated mask then h.bankRefused kStage p vec 0x01
      else if op = 1 then h.bankStart kStage p op mask vec 1
      else if (maskList mask).any fun n => ¬ h.drained n then h.bankRefused kStage p vec 0x02
      else if (maskList mask).any fun n => (h.parish n).shadow.isNone then h.bankRefused kStage p vec 0x07
      else (h.each (maskList mask) fun h n => h.swapBanks n).bankRefused kStage p vec 0x00 := by
  simp only [stageCmdWrite, decide_eq_true ho, decide_eq_true hv, Bool.and_self]
  exact guarded_open _ _ _ _ _ _ _ hs (by decide)

theorem stageCmdWrite_busy (hs : h.sees ag .LOM_STG_CMD p 0 = true) (ho : 1 ≤ op ∧ op ≤ 2) (hv : vec < 2048)
    (hb : h.job ≠ none ∨ h.uncalibrated mask = true) : h.stageCmdWrite ag p op mask vec = h.bankRefused kStage p vec 0x01 := by
  rw [← Option.isSome_iff_ne_none] at hb
  simp [stageCmdWrite_seen hs ho hv, hb]

theorem stage_starts (hs : h.sees ag .LOM_STG_CMD p 0 = true) (hv : vec < 2048) (hj : h.job = none)
    (hc : h.uncalibrated mask = false) : h.stage ag p mask vec = h.bankStart kStage p 1 mask vec 1 := by
  simp [stage, stageCmdWrite_seen hs (op := 1) (by decide) hv, hj, hc]

theorem swap_undrained (hs : h.sees ag .LOM_STG_CMD p 0 = true) (hv : vec < 2048) (hj : h.job = none)
    (hc : h.uncalibrated mask = false) (hd : ∃ n, n ∈ maskList mask ∧ h.drained n = false) :
    h.swap ag p mask vec = h.bankRefused kStage p vec 0x02 := by
  simp [swap, stageCmdWrite_seen hs (op := 2) (by decide) hv, hj, hc, hd]

/-- A SWAP of drained parishes: NOT_STAGED where one has no image in its shadow bank (R171). -/
theorem swap_drained (hs : h.sees ag .LOM_STG_CMD p 0 = true) (hv : vec < 2048) (hj : h.job = none)
    (hc : h.uncalibrated mask = false) (hd : ∀ n, n ∈ maskList mask → h.drained n = true) :
    h.swap ag p mask vec =
      if ∃ n, n ∈ maskList mask ∧ (h.parish n).shadow = none then h.bankRefused kStage p vec 0x07
      else (h.each (maskList mask) fun h n => h.swapBanks n).bankRefused kStage p vec 0x00 := by
  have : ¬ ∃ n, n ∈ maskList mask ∧ h.drained n = false := by simpa using hd
  simp [swap, stageCmdWrite_seen hs (op := 2) (by decide) hv, hj, hc, this]

theorem testCmdWrite_seen (hs : h.sees ag .PWR_TEST_CMD p 0 = true) (ho : 1 ≤ op ∧ op ≤ 4) (hv : vec < 2048)
    (ht : t < if op ≤ 2 then 16 else 64) : h.testCmdWrite ag p op t vec =
      if h.testMayRun op t then h.bankStart kTest p op t vec 1 else h.bankRefused kTest p vec 0x01 := by
  simp only [testCmdWrite, decide_eq_true ho, decide_eq_true hv, decide_eq_true ht, Bool.and_self]
  exact guarded_open _ _ _ _ _ _ _ hs (by decide)

theorem fwCmdWrite_seen (hs : h.sees ag .RVE_FW_CMD 0 0 = true) (ho : 1 ≤ op ∧ op ≤ 3) (hv : vec < 2048) :
    h.fwCmdWrite ag op vec =
      if op = 3 then (if h.awaitsAck then h.firmwareSwitch.bankSignal (writerPort ag) vec else h)
      else if h.job.isSome || h.awaitsAck then h.bankRefused kFw (writerPort ag) vec 0x01
      else if op = 1 then h.bankStart kFw (writerPort ag) op 0 vec 1
      else if h.inactiveFw.isNone then h.bankRefused kFw (writerPort ag) vec 0x07
      else (({ h with boot := { h.boot with switchBy := some (writerPort ag, vec) } } : Hw).setBankState kFw
        (writerPort ag) 3).setFld F.RVE_FW_CTL_REQ 0 0 1 := by
  simp only [fwCmdWrite, decide_eq_true ho, decide_eq_true hv, Bool.and_self]
  exact guarded_open _ _ _ _ _ _ _ hs (by decide)

theorem fwCmdWrite_busy (hs : h.sees ag .RVE_FW_CMD 0 0 = true) (ho : 1 ≤ op ∧ op ≤ 2) (hv : vec < 2048)
    (hb : h.job ≠ none ∨ h.awaitsAck = true) : h.fwCmdWrite ag op vec = h.bankRefused kFw (writerPort ag) vec 0x01 := by
  rw [← Option.isSome_iff_ne_none] at hb
  simp [fwCmdWrite_seen hs ⟨ho.1, Nat.le_trans ho.2 (by decide)⟩ hv, hb, (show op ≠ 3 by omega)]

theorem fwStage_starts (hs : h.sees ag .RVE_FW_CMD 0 0 = true) (hv : vec < 2048) (hj : h.job = none)
    (hw : h.awaitsAck = false) : h.fwStage ag vec = h.bankStart kFw (writerPort ag) 1 0 vec 1 := by
  simp [fwStage, fwCmdWrite_seen hs (op := 1) (by decide) hv, hj, hw]

theorem switch_unstaged (hs : h.sees ag .RVE_FW_CMD 0 0 = true) (hv : vec < 2048) (hj : h.job = none)
    (hw : h.awaitsAck = false) (hi : h.inactiveFw = none) : h.switch ag vec = h.bankRefused kFw (writerPort ag) vec 0x07 := by
  simp [switch, fwCmdWrite_seen hs (op := 2) (by decide) hv, hj, hw, hi]

/-- SWITCH to an image that is there waits for the ACK of Reeve 0 (R499). -/
theorem switch_waits (hs : h.sees ag .RVE_FW_CMD 0 0 = true) (hv : vec < 2048) (hj : h.job = none)
    (hw : h.awaitsAck = false) (hi : h.inactiveFw ≠ none) : h.switch ag vec =
      (({ h with boot := { h.boot with switchBy := some (writerPort ag, vec) } } : Hw).setFld
        F.RVE_FW_STAT_STATE 0 0 3).setFld F.RVE_FW_CTL_REQ 0 0 1 := by
  simp [switch, fwCmdWrite_seen hs (op := 2) (by decide) hv, hj, hw, hi, kFw, setBankState]

/-- FORCE without a SWITCH that waits (R499). -/
theorem force_unawaited (hs : h.sees ag .RVE_FW_CMD 0 0 = true) (hv : vec < 2048) (hw : h.awaitsAck = false) :
    h.force ag vec = h := by
  simp [force, fwCmdWrite_seen hs (op := 3) (by decide) hv, hw]

/-- ACK without a SWITCH that waits (R499). -/
theorem ack_unawaited {view : Path} (hs : h.sees (.reeve 0 view) .RVE_FW_CTL 0 0 = true) (hw : h.awaitsAck = false) :
    h.ack (.reeve 0 view) = h :=
  (guarded_open _ _ _ _ _ _ _ hs (by decide)).trans (by simp [hw])

end

variable (h : Hw)

/-- The parishes are what `par` says. -/
theorem parish_congr {g h : Hw} (e : g.par = h.par) (n : Nat) : g.parish n = h.parish n := by simp only [parish, e]

/-! ### Control stores (R171, R172) -/

theorem parish_picEvent_ne {n q : Nat} (hq : q ≠ n) (i : Nat) : (h.picEvent n i).parish q = h.parish q := by
  unfold picEvent picDue
  dsimp only
  split
  · rfl
  · split <;> simp [hq.symm]

theorem parish_picLevel_ne {n q : Nat} (hq : q ≠ n) (i : Nat) (high : Bool) : (h.picLevel n i high).parish q = h.parish q := by
  unfold picLevel
  dsimp only
  repeat' split
  all_goals simp [parish_picEvent_ne, hq, hq.symm]

theorem restartLooms_keeps (n : Nat) : (h.restartLooms n).cots = h.cots ∧ (h.restartLooms n).gran = h.gran := by
  simp only [restartLooms, picSync, picLevel_cots, picLevel_gran]
  exact ⟨each_keeps cots _ (fun _ _ => by split <;> rfl) _ h, each_keeps gran _ (fun _ _ => by split <;> rfl) _ h⟩

/-- Looms that return to service change no parish but their own, and of that neither its banks nor its Armature. -/
theorem parish_restartLooms (n : Nat) : (∀ q, q ≠ n → (h.restartLooms n).parish q = h.parish q) ∧
    ∀ q, ((h.restartLooms n).parish q).active = (h.parish q).active ∧
      ((h.restartLooms n).parish q).shadow = (h.parish q).shadow ∧ ((h.restartLooms n).parish q).arm = (h.parish q).arm := by
  have k : ∀ q, (h.each (List.range 4) fun h j =>
      if h.flag F.LOM_STAT_STOPPED n j then h.setReg .LOM_STAT n j 0 else h).parish q = h.parish q :=
    fun q => each_keeps (parish · q) _ (fun _ _ => by split <;> rfl) _ h
  refine ⟨fun q hq => ?_, fun q => ?_⟩
  · simp only [restartLooms, picSync, parish_picLevel_ne _ hq, k]
  · simp only [restartLooms, picSync, active_picLevel, shadow_picLevel, arm_picLevel, k, and_self]

@[simp] theorem parish_showUcode (n q : Nat) : (h.showUcode n).parish q = h.parish q := (rfl)

@[simp] theorem showUcode_cots (n : Nat) : (h.showUcode n).cots = h.cots := (rfl)
@[simp] theorem showUcode_gran (n : Nat) : (h.showUcode n).gran = h.gran := (rfl)

/-- A SWAP of one parish exchanges its banks, keeps its Armature, and leaves every other parish (R171). -/
theorem parish_swapBanks (n : Nat) : (∀ q, q ≠ n → (h.swapBanks n).parish q = h.parish q) ∧
    ((h.swapBanks n).parish n).active = (h.parish n).shadow ∧ ((h.swapBanks n).parish n).shadow = (h.parish n).active ∧
    ((h.swapBanks n).parish n).arm = (h.parish n).arm := by
  simp only [swapBanks, parish_showUcode]
  generalize hg : (h.modParish n fun p => { p with active := p.shadow, shadow := p.active }) = g
  have k : ∀ q, g.parish q = if n = q then { h.parish n with active := (h.parish n).shadow, shadow := (h.parish n).active }
      else h.parish q := fun q => by rw [← hg, parish_modParish]
  obtain ⟨other, own⟩ := parish_restartLooms g n
  obtain ⟨act, sh, arm⟩ := own n
  rw [k, if_pos rfl] at act sh arm
  exact ⟨fun q hq => (other q hq).trans ((k q).trans (if_neg hq.symm)), act, sh, arm⟩

theorem swapBanks_keeps (n : Nat) : (h.swapBanks n).cots = h.cots ∧ (h.swapBanks n).gran = h.gran := by
  simp only [swapBanks, showUcode_cots, showUcode_gran, restartLooms_keeps, modParish_cots, modParish_gran, and_self]

/-- A loop over parishes, each turn of which changes its own parish alone, leaves the parishes it does not name. -/
theorem parish_each_off (f : Hw → Nat → Hw) (k : ∀ h n q, q ≠ n → (f h n).parish q = h.parish q) (l : List Nat) {q : Nat}
    (hq : q ∉ l) : (h.each l f).parish q = h.parish q :=
  each_keeps_mem (parish · q) f l (fun n hn g => k g n q fun e => hq (e ▸ hn)) h

/-- Such a loop, over each parish once, does to a parish what the parish's own turn does: what that turn shows (φ) of the
parish it finds (ψ) holds of the whole loop. -/
theorem parish_each_on {β : Type} (f : Hw → Nat → Hw) (k : ∀ h n q, q ≠ n → (f h n).parish q = h.parish q) (φ ψ : Parish → β)
    (own : ∀ h n, φ ((f h n).parish n) = ψ (h.parish n)) {q : Nat} (l : List Nat) :
    ∀ h : Hw, l.Nodup → q ∈ l → φ ((h.each l f).parish q) = ψ (h.parish q) := by
  induction l with
  | nil => intro h _ hq; cases hq
  | cons n l ih =>
    intro h hn hq
    obtain ⟨hl, hd⟩ := List.nodup_cons.1 hn
    by_cases e : q = n
    · subst e
      exact (congrArg φ (parish_each_off (f h q) f k l hl)).trans (own h q)
    · rw [← k h n q e]
      exact ih (f h n) hd ((List.mem_cons.1 hq).resolve_left e)

/-- A SWAP exchanges the banks of the parishes it names and leaves every other parish, the cottages and the frames. -/
theorem each_swapBanks (mask : Nat) : let g := h.each (maskList mask) fun h n => h.swapBanks n
    (∀ n, n ∈ maskList mask → (g.parish n).active = (h.parish n).shadow ∧ (g.parish n).shadow = (h.parish n).active) ∧
    (∀ n, ¬ n ∈ maskList mask → g.parish n = h.parish n) ∧ g.cots = h.cots ∧ g.gran = h.gran := by
  have other : ∀ (h : Hw) n q, q ≠ n → (h.swapBanks n).parish q = h.parish q := fun h n => (parish_swapBanks h n).1
  have act : ∀ (h : Hw) n, ((h.swapBanks n).parish n).active = (h.parish n).shadow := fun h n =>
    let ⟨_, e, _⟩ := parish_swapBanks h n; e
  have sh : ∀ (h : Hw) n, ((h.swapBanks n).parish n).shadow = (h.parish n).active := fun h n =>
    let ⟨_, _, e, _⟩ := parish_swapBanks h n; e
  exact ⟨fun n hn => ⟨parish_each_on _ other Parish.active Parish.shadow act _ h (nodup_maskList mask) hn,
      parish_each_on _ other Parish.shadow Parish.active sh _ h (nodup_maskList mask) hn⟩,
    fun n hn => parish_each_off h _ other _ hn, each_keeps cots _ (fun h n => (swapBanks_keeps h n).1) _ h,
    each_keeps gran _ (fun h n => (swapBanks_keeps h n).2) _ h⟩

end Hw

end Sys2Proof.Machine

namespace Sys2Proof

open Sys2Proof.Machine

/-- Settles O54: each bank's write in range is taken up, turned away or, for SWAP and SWITCH, carried out, as the equation
of its bank's write says. -/
theorem bankCommands : Obligations.BankCommands := by
  refine ⟨fun s ag p mask vec a hs hv => ?armature, fun s ag p mask vec a hs hv => ?staging,
    fun s ag p t vec a hs hv => ?tests, fun s ag vec a hs hv => ?firmware,
    fun s view a hs hw => completesAs_live rfl a (Hw.ack_unawaited hs hw)⟩
  case armature =>
    have starts : ∀ {i : Instr} {op m : Nat}, exec i s = s.runLive (·.armCmdWrite ag p op m vec) → 1 ≤ op ∧ op ≤ 4 → op ≠ 2 →
        s.hw.job = none → Completes i s fun h => h.job = some ⟨0, p, op, m, vec, [], none, none, none, none⟩ ∧
          h.fld F.ARM_STAT_STATE p = 1 ∧ s.hw.Untouched h := fun e ho h2 hj =>
      completes_bankStart e a (Hw.armCmdWrite_starts hs ho hv hj h2)
    have busy : ∀ {i : Instr} {op m : Nat}, exec i s = s.runLive (·.armCmdWrite ag p op m vec) → 1 ≤ op ∧ op ≤ 4 →
        s.hw.job ≠ none → Completes i s fun h => h.fld F.ARM_STAT_CODE p = 1 ∧ s.hw.Unbothered h ∧
          h.fld F.ARM_STAT_STATE p = s.hw.fld F.ARM_STAT_STATE p := fun e ho hj =>
      completes_bankRefused (k := kArm) e a (Hw.armCmdWrite_busy hs ho hv hj) (by decide)
    refine ⟨fun hj => ⟨starts rfl (by decide) (by decide) hj, starts rfl (by decide) (by decide) hj,
      starts rfl (by decide) (by decide) hj, fun hc hd => ?_, fun hc => ?_, fun hc hd => ?_⟩, fun hj =>
      ⟨busy rfl (by decide) hj, busy rfl (by decide) hj, busy rfl (by decide) hj, busy rfl (by decide) hj⟩⟩
    · exact completes_bankStart rfl a (Hw.loadParish_starts hs hv hj hc hd)
    · exact completes_bankRefused (k := kArm) rfl a (Hw.loadParish_uncalibrated hs hv hc) (by decide)
    · exact completes_bankRefused (k := kArm) rfl a (Hw.loadParish_undrained hs hv hj hc hd) (by decide)
  case staging =>
    refine ⟨fun hb => ⟨?_, ?_⟩, fun hj hc => ⟨?_, fun hd => ?_, fun hd hi => ?_, fun hd => ?swapped⟩⟩
    · exact completes_bankRefused (k := kStage) rfl a (Hw.stageCmdWrite_busy hs (by decide) hv hb) (by decide)
    · exact completes_bankRefused (k := kStage) rfl a (Hw.stageCmdWrite_busy hs (by decide) hv hb) (by decide)
    · exact completes_bankStart rfl a (Hw.stage_starts hs hv hj hc)
    · exact completes_bankRefused (k := kStage) rfl a (Hw.swap_undrained hs hv hj hc hd) (by decide)
    · exact completes_bankRefused (k := kStage) rfl a ((Hw.swap_drained hs hv hj hc hd).trans (if_pos hi)) (by decide)
    case swapped =>
      have w := (Hw.swap_drained hs hv hj hc fun n hn => (hd n hn).1).trans
        (if_neg fun ⟨n, hn, e⟩ => (hd n hn).2 e)
      obtain ⟨banks, others, cots, gran⟩ := s.hw.each_swapBanks mask
      refine completes_live (f := (·.swap ag p mask vec)) rfl a ?_
      rw [w]
      obtain ⟨code, ⟨-, par, cots', gran', -⟩, -⟩ := Hw.bankRefused_says
        (s.hw.each (Hw.maskList mask) fun h n => h.swapBanks n) kStage p vec 0
        { s.hw.power with asleep := _ } (by decide)
      have k := Hw.parish_congr par
      exact ⟨code, fun n hn => ⟨(congrArg Parish.active (k n)).trans (banks n hn).1,
        (congrArg Parish.shadow (k n)).trans (banks n hn).2⟩, fun n hn => (k n).trans (others n hn), cots'.trans cots,
        gran'.trans gran⟩
  case tests =>
    have told : ∀ {i : Instr} {op : Nat}, exec i s = s.runLive (·.testCmdWrite ag p op t vec) → 1 ≤ op ∧ op ≤ 4 →
        (t < if op ≤ 2 then 16 else 64) →
        (s.hw.testMayRun op t = true → Completes i s fun h => h.job = some ⟨2, p, op, t, vec, [], none, none, none, none⟩ ∧
          h.fld F.PWR_TEST_STAT_STATE p = 1 ∧ s.hw.Untouched h) ∧
        (s.hw.testMayRun op t = false → Completes i s fun h => h.fld F.PWR_TEST_STAT_CODE p = 1 ∧ s.hw.Unbothered h ∧
          h.fld F.PWR_TEST_STAT_STATE p = s.hw.fld F.PWR_TEST_STAT_STATE p) := fun e ho ht =>
      have w := Hw.testCmdWrite_seen hs ho hv ht
      ⟨fun hm => completes_bankStart e a (w.trans (if_pos hm)),
        fun hm => completes_bankRefused (k := kTest) e a (w.trans (if_neg (by simp [hm]))) (by decide)⟩
    exact ⟨fun ht => ⟨told rfl (by decide) ht, told rfl (by decide) ht⟩, fun ht => ⟨told rfl (by decide) ht, told rfl (by decide) ht⟩⟩
  case firmware =>
    refine ⟨fun hb => ⟨?_, ?_⟩, fun hj hw => ⟨?_, fun hi => ?_, fun hi => ?waits⟩, fun hw => ?_⟩
    · exact completes_bankRefused (k := kFw) rfl a (Hw.fwCmdWrite_busy hs (by decide) hv hb) (by decide)
    · exact completes_bankRefused (k := kFw) rfl a (Hw.fwCmdWrite_busy hs (by decide) hv hb) (by decide)
    · exact completes_bankStart rfl a (Hw.fwStage_starts hs hv hj hw)
    · exact completes_bankRefused (k := kFw) rfl a (Hw.switch_unstaged hs hv hj hw hi) (by decide)
    case waits =>
      refine completes_live (f := (·.switch ag vec)) rfl a ?_
      rw [Hw.switch_waits hs hv hj hw hi]
      simp only [Hw.setPower_job, Hw.fld_setPower, Hw.flag_setPower, Hw.setPower_boot, Hw.setPower_reeves, Hw.setPower_par,
        Hw.setPower_cots, Hw.setPower_mem, Hw.setFld_job, Hw.setFld_boot, Hw.setFld_reeves, Hw.setFld_par, Hw.setFld_cots,
        Hw.setFld_mem]
      refine ⟨hj, ?_, ?_, trivial, trivial, trivial, trivial, trivial⟩
      · exact (Hw.fld_setFld_reg _ _ _ _ _ _ _ _ (by decide)).trans (Hw.fld_setFld_same _ _ _ _ _ (by decide) (by decide))
      · simp only [Hw.flag, Hw.fld_setFld_same _ F.RVE_FW_CTL_REQ 0 0 1 (by decide) (by decide)]
        rfl
    · exact completesAs_live rfl a (Hw.force_unawaited hs hv hw)

end Sys2Proof

/-! SUPPORT. Armature and staging commands in progress: FETCH, CHECK, completion, and what APPLY makes of a parish (R84 to
R90, R171). -/

namespace Sys2Proof.Machine.Hw

variable {h : Hw} {j : BankJob}

/-! ### Completion (R89) -/

/-- ARM_FAIL holds what was said, and nothing else of the block changes. -/
theorem setFail_says (h : Hw) (p mask rec : Nat) : (∃ r, h.setFail p mask rec = { h with regs := r }) ∧
    (h.setFail p mask rec).fld F.ARM_FAIL_FAILMASK p = mask % 2 ^ 16 ∧
    (h.setFail p mask rec).fld F.ARM_FAIL_REC p = rec % 2 ^ 16 ∧
    ∀ n i k, n ≠ .ARM_FAIL → (h.setFail p mask rec).reg n i k = h.reg n i k := by
  refine ⟨⟨_, rfl⟩, ?_, fld_setFld_same _ F.ARM_FAIL_REC _ _ _ (by decide) (by decide), fun n i k hn => ?_⟩
  · exact (fld_setFld_bits _ _ _ _ _ _ _ _ (by decide) (by decide) (by decide)).trans
      (fld_setFld_same _ F.ARM_FAIL_FAILMASK _ _ _ (by decide) (by decide))
  · exact (reg_setFld_reg _ _ _ _ _ _ _ _ (Ne.symm hn)).trans (reg_setFld_reg _ _ _ _ _ _ _ _ (Ne.symm hn))

/-- An Armature command that completes leaves its bank IDLE with CODE and ARM_FAIL, no command, and every parish, cottage, frame
and Armature, with what shows the Armatures (R89). -/
theorem armDone_says (g : Hw) (hk : j.kind = 0) {code mask rec : Nat} (hc : code < 256) (hm : mask < 2 ^ 16)
    (hr : rec < 2 ^ 16) (x : Power) : let h := ((g.setFail j.port mask rec).bankDone j code).setPower x
    h.job = none ∧ h.fld F.ARM_STAT_STATE j.port = 0 ∧ h.fld F.ARM_STAT_CODE j.port = code ∧
    h.fld F.ARM_FAIL_FAILMASK j.port = mask ∧ h.fld F.ARM_FAIL_REC j.port = rec ∧ h.par = g.par ∧ h.cots = g.cots ∧
    h.gran = g.gran ∧ h.modArm = g.modArm ∧
    ∀ i k, h.reg .ARM_PSTAT i k = g.reg .ARM_PSTAT i k ∧ h.reg .ARM_PHASH i k = g.reg .ARM_PHASH i k := by
  obtain ⟨⟨r, e⟩, fmask, frec, other⟩ := setFail_says g j.port mask rec
  obtain ⟨job, state, cd, par, cots, gran, modArm, -, -, -, reg⟩ := bankDone_says (g.setFail j.port mask rec) j code x hc
  rw [hk] at state cd
  have fail : ∀ hi lo, (((g.setFail j.port mask rec).bankDone j code).setPower x).fld ⟨.ARM_FAIL, hi, lo⟩ j.port =
      (g.setFail j.port mask rec).fld ⟨.ARM_FAIL, hi, lo⟩ j.port := fun hi lo => by
    simp only [fld]; rw [reg .ARM_FAIL _ _ rfl rfl]
  refine ⟨job, state, cd, (fail _ _).trans (fmask.trans (Nat.mod_eq_of_lt hm)),
    (fail _ _).trans (frec.trans (Nat.mod_eq_of_lt hr)), par.trans ?_, cots.trans ?_, gran.trans ?_, modArm.trans ?_,
    fun i k => ⟨(reg _ _ _ rfl rfl).trans (other _ _ _ (by decide)), (reg _ _ _ rfl rfl).trans (other _ _ _ (by decide))⟩⟩
  all_goals rw [e]

/-! ### FETCH (R85) -/

/-- The image that the Armature bank of port p names, as its command reads it. -/
def armImage (h : Hw) (p : Nat) : Option (List Byte) :=
  h.bankImage p (h.fld F.ARM_SRC_SPACE p) (h.fld F.ARM_SRC_ADDR p * 8) (min (h.fld F.ARM_LEN_LEN p) 0x100008)

theorem armImage_aerRead (h : Hw) (q : Nat) (how : ReadEnd) (p : Nat) : (h.aerRead q how).armImage p = h.armImage p := by
  obtain ⟨o, e⟩ := aerRead_out h q how
  rw [e]; rfl

/-- FETCH ends with the image `x` that it has read, or none. -/
theorem armFetchDone_fetching (hj : h.job = some j) (hk : j.kind = 0) (hs : h.fld F.ARM_STAT_STATE j.port = 1)
    (how : ReadEnd) {x : Option (List Byte)} (hx : (if how = .ok then h.armImage j.port else none) = x) :
    h.armFetchDone how = x.elim (((h.aerRead j.port how).setFail j.port 0 0xFFFF).bankDone j 0x03)
      fun b => ({ h.aerRead j.port how with job := some { j with image := b } } : Hw).setBankState kArm j.port 2 := by
  have guard : ¬ (j.kind ≠ kArm ∨ h.bankState kArm j.port ≠ 1) := by simp [hk, kArm, bankState, hs]
  rw [← armImage_aerRead h j.port how] at hx
  simp only [armImage] at hx
  simp only [armFetchDone, hj, if_neg guard, hx]
  cases x <;> rfl

/-! ### CHECK (R84) -/

/-- A command in CHECK whose checks make `k` of it: it goes to APPLY where it is a load that passes, else it stays in CHECK until
it completes. -/
theorem armCheckDone_says (hj : h.job = some j) (hk : j.kind = 0) (hs : h.fld F.ARM_STAT_STATE j.port = 2)
    (hr : j.result = none) {k : BankJob} (hc : h.armCheck j = k) {code mask rec : Nat} (hkr : k.result = some (code, mask, rec))
    (hp : k.port = j.port) (ho : k.op = j.op) (x : Power) : let g := h.armCheckDone.setPower x
    g.job = some k ∧ g.fld F.ARM_STAT_STATE j.port = (if code = 0 ∧ j.op % 2 = 0 then 3 else 2) ∧ h.Untouched g := by
  have guard : ¬ (j.kind ≠ kArm ∨ h.bankState kArm j.port ≠ 2 ∨ j.result.isSome = true) := by
    simp [hk, kArm, bankState, hs, hr]
  simp only [armCheckDone, hj, if_neg guard, hc, hkr, hp, ho]
  by_cases ok : code = 0 ∧ j.op % 2 = 0
  · rw [if_pos ok, if_pos (by simp [ok])]
    have b := bankState_set { h with job := some k } kArm j.port 3
    obtain ⟨⟨r, e⟩, -⟩ := setBankState_only { h with job := some k } kArm j.port 3
    rw [e] at b ⊢
    exact ⟨rfl, b, rfl, rfl, rfl, rfl, rfl, rfl, rfl, rfl, rfl⟩
  · rw [if_neg ok, if_neg (by simpa using ok)]
    exact ⟨rfl, hs, rfl, rfl, rfl, rfl, rfl, rfl, rfl, rfl, rfl⟩

/-- The operator's signature of the image of a command. -/
def armSigned (h : Hw) (j : BankJob) : Nat :=
  h.checkOperator (fieldAt j.image 7 1) (j.image.take (j.image.length - 96)) (j.image.drop (j.image.length - 96))

/-- The records of the image of a command, or none for a FORMAT refusal. -/
def armOpened (h : Hw) (j : BankJob) : Option (List RawRec) :=
  openImage j.image (if j.op ≤ 2 then 2 else 1) (h.fld F.ARM_LEN_LEN j.port)

theorem armCheck_format (ho : h.armOpened j = none) : h.armCheck j = { j with result := some (4, 1, 0xFFFF) } := by
  simp only [armOpened] at ho
  simp only [armCheck, ho] <;> rfl

theorem armCheck_unsigned {recs : List RawRec} (ho : h.armOpened j = some recs) (hs : h.armSigned j ≠ 0) :
    h.armCheck j = { j with result := some (h.armSigned j, 2 ^ (h.armSigned j - 4), 0xFFFF) } := by
  simp only [armOpened] at ho
  simp only [armCheck, ho]
  split
  · contradiction
  · rfl

theorem armCheck_parish {recs : List RawRec} (ho : h.armOpened j = some recs) (hs : h.armSigned j = 0) (hp : j.op ≤ 2) :
    h.armCheck j =
      { j with
        parish := some (h.checkParish j.image (sortRecords 2 [] recs).1 (maskList j.mask)).1
        result := some (failResult ((sortRecords 2 [] recs).2 ++
          (h.checkParish j.image (sortRecords 2 [] recs).1 (maskList j.mask)).2)) } := by
  simp only [armOpened, if_pos hp] at ho
  simp only [armSigned] at hs
  simp only [armCheck, if_pos hp, ho, hs]
  rfl

theorem armCheck_module {recs : List RawRec} (ho : h.armOpened j = some recs) (hs : h.armSigned j = 0) (hp : ¬ j.op ≤ 2) :
    h.armCheck j =
      { j with
        modArm := some (h.checkModule j.image (sortRecords 1 [] recs).1).1
        result := some (failResult ((sortRecords 1 [] recs).2 ++
          (h.checkModule j.image (sortRecords 1 [] recs).1).2)) } := by
  simp only [armOpened, if_neg hp] at ho
  simp only [armSigned] at hs
  simp only [armCheck, if_neg hp, ho, hs]
  rfl

/-! ### APPLY (R87, R88) -/

section
variable {code mask rec : Nat}

/-- A command that completes outside APPLY says what it has to say. -/
theorem armComplete_checked (hj : h.job = some j) (hk : j.kind = 0) (hr : j.result = some (code, mask, rec))
    (hs : h.fld F.ARM_STAT_STATE j.port ≠ 3) (pads : List Bool) :
    h.armComplete pads = (h.setFail j.port mask rec).bankDone j code := by
  simp only [armComplete, hj, hk, hr, bankState, kArm, if_neg hs]

theorem armComplete_parish (hj : h.job = some j) (hk : j.kind = 0) (hr : j.result = some (code, mask, rec))
    (hs : h.fld F.ARM_STAT_STATE j.port = 3) (pads : List Bool) {a : ParishArm} (ha : j.parish = some a) :
    h.armComplete pads =
      ((h.each (maskList j.mask) fun h n => h.applyParish n a).setFail j.port mask rec).bankDone j code := by
  simp only [armComplete, hj, hk, hr, bankState, kArm, if_pos hs, ha]

theorem armComplete_module (hj : h.job = some j) (hk : j.kind = 0) (hr : j.result = some (code, mask, rec))
    (hs : h.fld F.ARM_STAT_STATE j.port = 3) (pads : List Bool) (ha : j.parish = none) {m : ModuleArm} (hm : j.modArm = some m) :
    h.armComplete pads = ((h.applyModule m pads).setFail j.port mask rec).bankDone j code := by
  simp only [armComplete, hj, hk, hr, bankState, kArm, if_pos hs, ha, hm]

end

/-- A Lane's new configuration is in its register and its hold. -/
theorem laneSwitch_only (h : Hw) (l v : Nat) (b : Bool) : ∃ r k, h.laneSwitch l v b = { h with regs := r, lanes := k } := by
  have w : ∀ n i j, ∃ r, h.storeFields n i j v = { h with regs := r } := fun _ _ _ => ⟨_, rfl⟩
  obtain ⟨r, e⟩ := w .LAN_CFG 0 l
  simp only [laneSwitch, e]
  split
  · exact ⟨r, _, rfl⟩
  · exact ⟨r, _, rfl⟩

theorem pinApply_only (h : Hw) (m : ModuleArm) (pads : List Bool) (l : Nat) :
    ∃ r k, h.pinApply m pads l = { h with regs := r, lanes := k } := by
  unfold pinApply
  lift_lets
  intro old v
  split
  · exact ⟨_, _, rfl⟩
  · exact laneSwitch_only h l v _

/-- APPLY of a module load keeps what neither registers nor Lanes nor arbiters show, beside the Armature itself. -/
theorem applyModule_keeps {β : Type} (φ : Hw → β) (kf : ∀ h f i j v, φ (setFld h f i j v) = φ h)
    (kp : ∀ h m pads l, φ (pinApply h m pads l) = φ h) (ka : ∀ (h : Hw) x, φ { h with arb := x } = φ h)
    (h : Hw) (m : ModuleArm) (pads : List Bool) : φ (h.applyModule m pads) = φ { h with modArm := some m } := by
  unfold applyModule
  dsimp only
  rw [kf, kf, kf, kf, each_keeps φ _ fun h o => kf h _ _ _ _, each_keeps φ _ fun h l => kp h m pads l,
    each_keeps φ _ fun h q => ka h _]

/-- APPLY of a module load makes the image the module's Armature and leaves parishes, cottages and frames (R88). -/
theorem applyModule_says (h : Hw) (m : ModuleArm) (pads : List Bool) : (h.applyModule m pads).modArm = some m ∧
    (h.applyModule m pads).par = h.par ∧ (h.applyModule m pads).cots = h.cots ∧ (h.applyModule m pads).gran = h.gran := by
  refine ⟨applyModule_keeps modArm setFld_modArm ?_ (fun _ _ => rfl) h m pads,
    applyModule_keeps par setFld_par ?_ (fun _ _ => rfl) h m pads, applyModule_keeps cots setFld_cots ?_ (fun _ _ => rfl) h m pads,
    applyModule_keeps gran setFld_gran ?_ (fun _ _ => rfl) h m pads⟩
  all_goals
    intro h m pads l
    obtain ⟨r, k, e⟩ := pinApply_only h m pads l
    rw [e]

/-! ### APPLY of a parish load (R87, R90) -/

theorem arm_takePool (k n q : Nat) : ∀ h : Hw, ((takePool k h n).parish q).arm = (h.parish q).arm := by
  induction k with
  | zero => intro h; rfl
  | succ k ih =>
    intro h
    have t : ∀ q, (h.takeFrame moduleOwner privFrame).2.parish q = h.parish q := parish_congr (GranOnly.takeFrame h _ _).par
    rw [takePool]
    split <;> rename_i e <;> rw [e] at t <;> dsimp only at t
    · rw [ih, parish_modParish]
      split
      · subst_vars; rw [t]
      · rw [t]
    · rw [t]

/-- The Armature that APPLY puts in place is in place once its microcode and pool are. -/
theorem arm_armBanks (h : Hw) (n : Nat) (a : ParishArm) : ((h.armBanks n a).parish n).arm = some a := by
  simp only [armBanks]
  generalize hg : (h.parishReset n).modParish n (fun p => { p with arm := some a }) = g
  have k : (g.parish n).arm = some a := by rw [← hg, parish_modParish, if_pos rfl]
  rw [arm_takePool]
  split
  · rw [parish_showUcode, k]
  · obtain ⟨-, -, -, arm⟩ := parish_swapBanks g n
    rw [arm, k]

theorem armRegs_par (h : Hw) (n : Nat) (a : ParishArm) : (h.armRegs n a).par = h.par := by
  have sink : ∀ (h : Hw) c (l : List (Nat × Nat)), (h.each l fun h (x : Nat × Nat) =>
      h.setFld F.CHR_RT_SINK n (c % 256 * 4 + x.1) x.2).par = h.par := fun h c l => each_keeps par _ (fun _ _ => setFld_par ..) l h
  have urg : ∀ (h : Hw) (l : List (Nat × Nat)), (h.each l fun h (x : Nat × Nat) =>
      h.setFld F.ARB_URG_THR_THR n x.1 x.2).par = h.par := fun h l => each_keeps par _ (fun _ _ => setFld_par ..) l h
  unfold armRegs
  dsimp only
  rw [each_keeps par _ (fun h c => sink h c _), setReg_par, urg]
  simp only [setReg_par, setFld_par]

theorem cottageRegs_par (h : Hw) (c : Nat) : (h.cottageRegs c).par = h.par := by
  simp only [cottageRegs]
  split <;> rfl

theorem oweAll_par (h : Hw) (c s : Nat) (d : Bool) : (h.oweAll c s d).par = h.par := modPorch_par ..

theorem oweSinks_par (h : Hw) (c : Nat) : (h.oweSinks c).par = h.par := by
  unfold oweSinks
  dsimp only
  rw [each_keeps par _ fun h e => by split <;> rfl, oweAll_par, oweAll_par]

theorem armCottages_par (h : Hw) (n : Nat) : (h.armCottages n).par = h.par := by
  unfold armCottages
  rw [each_keeps par _ fun h c => by rw [oweSinks_par, modCtx_par, cottageRegs_par]]

/-- ARM_PSTAT and ARM_PHASH show the Armature's MODE, KEYSLOT and measurement (R90). -/
theorem armShown_says (h : Hw) (n : Nat) (a : ParishArm) : (h.armShown n a).fld F.ARM_PSTAT_MODE 0 n = a.mode % 16 ∧
    (h.armShown n a).fld F.ARM_PSTAT_KEYSLOT 0 n = a.keySlot % 8 ∧
    (h.armShown n a).fld F.ARM_PHASH_HASH 0 n = hashWord a.digest % 2 ^ 32 := by
  refine ⟨?_, ?_, fld_setFld_same _ F.ARM_PHASH_HASH _ _ _ (by decide) (by decide)⟩
  · refine (fld_setFld_reg _ _ _ _ _ _ _ _ (by decide)).trans <| (fld_setFld_bits _ _ _ _ _ _ _ _ ?_ ?_ ?_).trans <|
      (fld_setFld_bits _ _ _ _ _ _ _ _ ?_ ?_ ?_).trans (fld_setFld_same _ F.ARM_PSTAT_MODE _ _ _ ?_ ?_) <;> decide
  · refine (fld_setFld_reg _ _ _ _ _ _ _ _ (by decide)).trans <| (fld_setFld_bits _ _ _ _ _ _ _ _ ?_ ?_ ?_).trans
      (fld_setFld_same _ F.ARM_PSTAT_KEYSLOT _ _ _ ?_ ?_) <;> decide

/-- Parish n with its Armature in place, its Bell about to begin with Bell 0 (R87). -/
theorem armPlaced_says (h : Hw) (n : Nat) (a : ParishArm) : let x := h.armPlaced n a
    (x.parish n).arm = some a ∧ (x.parish n).bellRuns = true ∧ (x.parish n).bell0Due = true ∧
    (x.parish n).srcInForce = a.src ∧ (x.parish n).rates = [⟨0, 0, bellPeriod a.preset a.period.toNat⟩] ∧
    x.fld F.ARM_PSTAT_MODE 0 n = a.mode % 16 ∧ x.fld F.ARM_PSTAT_KEYSLOT 0 n = a.keySlot % 8 ∧
    x.fld F.ARM_PHASH_HASH 0 n = hashWord a.digest % 2 ^ 32 := by
  have arm : ((((h.armBanks n a).armRegs n a).armCottages n).armShown n a).par = (h.armBanks n a).par := by
    simp only [armShown, setFld_par, armCottages_par, armRegs_par]
  simp only [armPlaced, parish_modParish, if_true, fld_modParish]
  exact ⟨(congrArg Parish.arm (parish_congr arm n)).trans (arm_armBanks h n a), trivial, trivial, trivial, trivial,
    armShown_says _ n a⟩

/-! ### STAGE (R171) -/

/-- The image that the staging bank of port p names, as its command reads it. -/
def stageImage (h : Hw) (p : Nat) : Option (List Byte) :=
  h.bankImage p (h.fld F.LOM_STG_SRC_SPACE p) (h.fld F.LOM_STG_SRC_ADDR p * 8) (min (h.fld F.LOM_STG_LEN_LEN p) 0x20000)

theorem checkSig_lt (h : Hw) (key : BitVec 768) (slot : Option Nat) (body sig : List Byte) :
    h.checkSig key slot body sig < 256 := by
  unfold checkSig
  cases slot with
  | none => dsimp only; split <;> decide
  | some k =>
    dsimp only
    split
    · decide
    · split <;> decide

/-- A refusing code of a microcode image is FORMAT or what its signature fails. -/
theorem readUcode_error_lt {b : List Byte} {len c : Nat} (e : h.readUcode b len = .error c) : c < 256 := by
  unfold readUcode at e
  dsimp only at e
  split at e
  · cases e; decide
  · split at e
    · cases e
    · cases e
      split
      · exact checkSig_lt ..
      · exact checkSig_lt ..

/-- What the STAGE of port p gets of its image: the checked image, or the refusing code. -/
def stageRead (h : Hw) (p : Nat) (how : ReadEnd) : Except Nat UcImage :=
  (if how = .ok then h.stageImage p else none).elim (.error 0x03) (h.readUcode · (h.fld F.LOM_STG_LEN_LEN p))

theorem stageRead_eq {p : Nat} {how : ReadEnd} {x : Option (List Byte)}
    (hx : (if how = .ok then h.stageImage p else none) = x) :
    h.stageRead p how = x.elim (.error 0x03) (h.readUcode · (h.fld F.LOM_STG_LEN_LEN p)) := by rw [stageRead, hx]

theorem stageRead_error_lt {p c : Nat} {how : ReadEnd} (e : h.stageRead p how = .error c) : c < 256 := by
  rw [stageRead] at e
  cases hx : (if how = .ok then h.stageImage p else none) <;> rw [hx] at e
  · cases e; decide
  · exact readUcode_error_lt e

/-- STAGE ends refused, or puts what it has got into the shadow banks (R171). -/
theorem stageDone_eq (hj : h.job = some j) (hk : j.kind = 1) (how : ReadEnd) :
    (∀ c, h.stageRead j.port how = .error c → h.stageDone how = (h.aerRead j.port how).bankDone j c) ∧
    ∀ u, h.stageRead j.port how = .ok u → h.stageDone how = ((h.aerRead j.port how).each (maskList j.mask) fun h n =>
      (h.modParish n fun p => { p with shadow := some u }).showUcode n).bankDone j 0x00 := by
  have guard : ¬ j.kind ≠ kStage := by simp [hk, kStage]
  have k : h.stageRead j.port how = (h.aerRead j.port how).stageRead j.port how := by
    obtain ⟨o, e⟩ := aerRead_out h j.port how
    rw [e]; rfl
  rw [k]
  simp only [stageDone, hj, if_neg guard, stageRead, stageImage]
  generalize h.aerRead j.port how = g
  cases (if how = .ok then g.bankImage j.port _ _ _ else none) with
  | none => exact ⟨fun c e => by cases e; rfl, fun u e => by cases e⟩
  | some b =>
    simp only [Option.elim]
    cases g.readUcode b (g.fld F.LOM_STG_LEN_LEN j.port) with
    | error c => exact ⟨fun c e => by cases e; rfl, fun u e => by cases e⟩
    | ok u => exact ⟨fun c e => (by cases e), fun u e => by cases e; rfl⟩

/-- A checked image goes into the shadow banks of the named parishes, and into nothing else of parishes, cottages or frames. -/
theorem each_stages (h : Hw) (mask : Nat) (u : UcImage) : let g := h.each (maskList mask) fun h n =>
      (h.modParish n fun p => { p with shadow := some u }).showUcode n
    (∀ n, n ∈ maskList mask → g.parish n = { h.parish n with shadow := some u }) ∧
    (∀ n, ¬ n ∈ maskList mask → g.parish n = h.parish n) ∧ g.cots = h.cots ∧ g.gran = h.gran := by
  have k : ∀ (h : Hw) n q, q ≠ n → ((h.modParish n fun p => { p with shadow := some u }).showUcode n).parish q = h.parish q :=
    fun h n q hq => by rw [parish_showUcode, parish_modParish, if_neg (Ne.symm hq)]
  exact ⟨fun n hn => parish_each_on _ k id (fun p => { p with shadow := some u })
      (fun h n => by rw [parish_showUcode, parish_modParish, if_pos rfl]; rfl) _ h (nodup_maskList mask) hn,
    fun n hn => parish_each_off h _ k _ hn,
    each_keeps cots _ (fun h n => by rw [showUcode_cots, modParish_cots]) _ h,
    each_keeps gran _ (fun h n => by rw [showUcode_gran, modParish_gran]) _ h⟩

end Sys2Proof.Machine.Hw

namespace Sys2Proof

open Sys2Proof.Machine

/-- A command in CHECK completes it with what `armCheck` makes of the command, in APPLY where a load passes (R84). -/
theorem completes_armCheckDone {s : State} {j k : BankJob} {code mask rec state : Nat} (a : s.hw.act = true)
    (hj : s.hw.job = some j) (hk : j.kind = 0) (hs : s.hw.fld F.ARM_STAT_STATE j.port = 2) (hr : j.result = none)
    (hc : s.hw.armCheck j = k) (hkr : k.result = some (code, mask, rec)) (hp : k.port = j.port) (ho : k.op = j.op)
    (hst : (if code = 0 ∧ j.op % 2 = 0 then 3 else 2) = state) : Completes .armCheckDone s fun h =>
      h.job = some k ∧ h.fld F.ARM_STAT_STATE j.port = state ∧ s.hw.Untouched h := by
  refine completes_live (f := Hw.armCheckDone) rfl a ?_
  rw [← hst]
  exact Hw.armCheckDone_says hj hk hs hr hc hkr hp ho _

/-- A STAGE refused leaves its bank IDLE with the code, no command, and every parish, cottage and frame (R171). -/
theorem completes_stageRefused {s : State} {j : BankJob} {how : ReadEnd} {c : Nat} (a : s.hw.act = true)
    (hj : s.hw.job = some j) (hk : j.kind = 1) (hc : s.hw.stageRead j.port how = .error c) :
    Completes (.stageDone how) s fun h => h.job = none ∧ h.fld F.LOM_STG_STAT_STATE j.port = 0 ∧
      h.fld F.LOM_STG_STAT_CODE j.port = c ∧ h.par = s.hw.par ∧ h.cots = s.hw.cots ∧ h.gran = s.hw.gran := by
  refine completes_live (f := (·.stageDone how)) rfl a ?_
  rw [(Hw.stageDone_eq hj hk how).1 c hc]
  obtain ⟨o, e⟩ := Hw.aerRead_out s.hw j.port how
  rw [e]
  obtain ⟨job, state, code, par, cots, gran, -⟩ := Hw.bankDone_says { s.hw with out := o } j c
    { s.hw.power with asleep := _ } (Hw.stageRead_error_lt hc)
  rw [hk] at state code
  exact ⟨job, state, code, par, cots, gran⟩

/-- A STAGE whose image passes leaves its bank IDLE with OK, and the image in the named shadow banks (R171). -/
theorem completes_stages {s : State} {j : BankJob} {how : ReadEnd} {u : UcImage} (a : s.hw.act = true)
    (hj : s.hw.job = some j) (hk : j.kind = 1) (hu : s.hw.stageRead j.port how = .ok u) :
    Completes (.stageDone how) s fun h => h.job = none ∧ h.fld F.LOM_STG_STAT_STATE j.port = 0 ∧
      h.fld F.LOM_STG_STAT_CODE j.port = 0 ∧
      (∀ n, n ∈ Hw.maskList j.mask → h.parish n = { s.hw.parish n with shadow := some u }) ∧
      (∀ n, ¬ n ∈ Hw.maskList j.mask → h.parish n = s.hw.parish n) ∧ h.cots = s.hw.cots ∧ h.gran = s.hw.gran := by
  refine completes_live (f := (·.stageDone how)) rfl a ?_
  rw [(Hw.stageDone_eq hj hk how).2 u hu]
  obtain ⟨o, e⟩ := Hw.aerRead_out s.hw j.port how
  rw [e]
  obtain ⟨named, others, cots, gran⟩ := Hw.each_stages { s.hw with out := o } j.mask u
  obtain ⟨job, state, code, par, cots', gran', -⟩ := Hw.bankDone_says _ j 0 { s.hw.power with asleep := _ } (by decide)
  rw [hk] at state code
  have k := Hw.parish_congr par
  exact ⟨job, state, code, fun n hn => (k n).trans (named n hn), fun n hn => (k n).trans (others n hn), cots'.trans cots,
    gran'.trans gran⟩

/-- Settles O55: FETCH by `armFetchDone_fetching`, CHECK by the equations of `armCheck`, completion by `armDone_says`, APPLY by
`armPlaced_says` and `applyModule_says`, STAGE by `stageDone_eq`. -/
theorem armatureJobs : Obligations.ArmatureJobs := by
  refine ⟨fun s how j a hj hk hs => ⟨fun b hw hi => ?fetched, fun hf => ?unread⟩,
    fun s j a hj hk hs hr => ⟨fun ho => ?format, fun recs ho => ⟨fun hp => ?parish, fun hp => ?module⟩⟩,
    fun s pads j code mask rec a hj hk hr hc hm hx => ⟨fun hs => ?checked, fun hs p hp => ?appliesParish,
      fun hs hp m hm' => ?appliesModule⟩,
    fun h n p => ?placed, fun s how j a hj hk => ⟨fun hi => ?unstaged, fun b hi => ?staged⟩⟩
  case fetched =>
    refine completes_live (f := (·.armFetchDone how)) rfl a ?_
    rw [Hw.armFetchDone_fetching hj hk hs how (x := some b) ((if_pos hw).trans hi)]
    obtain ⟨o, e⟩ := Hw.aerRead_out s.hw j.port how
    simp only [Option.elim, e]
    generalize hg : ({ s.hw with out := o, job := some { j with image := b } } : Hw) = g
    have state := Hw.bankState_set g kArm j.port 2
    obtain ⟨⟨r, e'⟩, -⟩ := Hw.setBankState_only g kArm j.port 2
    rw [e'] at state ⊢
    subst hg
    exact ⟨rfl, state, rfl, rfl, rfl, rfl, rfl⟩
  case unread =>
    have hx : (if how = .ok then s.hw.armImage j.port else none) = none := by
      rcases hf with hw | hi
      · exact if_neg hw
      · exact ite_eq_right_iff.2 fun _ => hi
    refine completes_live (f := (·.armFetchDone how)) rfl a ?_
    rw [Hw.armFetchDone_fetching hj hk hs how hx]
    obtain ⟨o, e⟩ := Hw.aerRead_out s.hw j.port how
    rw [e]
    obtain ⟨job, state, code, mask, rec, par, cots, gran, modArm, -⟩ := Hw.armDone_says { s.hw with out := o } hk
      (code := 3) (mask := 0) (rec := 0xFFFF) (by decide) (by decide) (by decide) { s.hw.power with asleep := _ }
    exact ⟨job, state, code, rec, mask, par, cots, gran, modArm⟩
  case format =>
    exact completes_armCheckDone a hj hk hs hr (Hw.armCheck_format ho) rfl rfl rfl rfl
  case parish =>
    dsimp only
    split
    next hg => exact completes_armCheckDone a hj hk hs hr (Hw.armCheck_parish ho hg hp) rfl rfl rfl rfl
    next hg => exact completes_armCheckDone a hj hk hs hr (Hw.armCheck_unsigned ho hg) rfl rfl rfl (if_neg fun c => hg c.1)
  case module =>
    dsimp only
    split
    next hg => exact completes_armCheckDone a hj hk hs hr (Hw.armCheck_module ho hg hp) rfl rfl rfl rfl
    next hg => exact completes_armCheckDone a hj hk hs hr (Hw.armCheck_unsigned ho hg) rfl rfl rfl (if_neg fun c => hg c.1)
  case checked =>
    refine completes_live (f := (·.armComplete pads)) rfl a ?_
    rw [Hw.armComplete_checked hj hk hr hs pads]
    exact Hw.armDone_says _ hk hc hm hx _
  case appliesParish =>
    refine completes_live (f := (·.armComplete pads)) rfl a ?_
    rw [Hw.armComplete_parish hj hk hr hs pads hp]
    exact Hw.armDone_says _ hk hc hm hx _
  case appliesModule =>
    obtain ⟨modArm, par, cots, gran⟩ := Hw.applyModule_says s.hw m pads
    refine ⟨s.hw.applyModule m pads, modArm, par, cots, gran, completes_live (f := (·.armComplete pads)) rfl a ?_⟩
    rw [Hw.armComplete_module hj hk hr hs pads hp hm']
    exact Hw.armDone_says _ hk hc hm hx _
  case placed =>
    obtain ⟨arm, runs, due, src, rates, mode, slot, hash⟩ := Hw.armPlaced_says h n p
    exact ⟨h.armPlaced n p, arm, runs, due, src, rates, mode, slot, hash, rfl⟩
  case unstaged =>
    exact completes_stageRefused a hj hk (Hw.stageRead_eq hi)
  case staged =>
    have e : s.hw.stageRead j.port how = s.hw.readUcode b (s.hw.fld F.LOM_STG_LEN_LEN j.port) := Hw.stageRead_eq hi
    split
    next c hu => exact completes_stageRefused a hj hk (e.trans hu)
    next u hu => exact completes_stages a hj hk (e.trans hu)

end Sys2Proof

/-! SUPPORT. The boot banks, the release of the fabric, the field armature, training and calibration (R172, R481 to R485,
R501, R526). -/

namespace Sys2Proof.Machine

theorem bit_eq_testBit (n k : Nat) : bit n k = n.testBit k := by
  rw [bit, Nat.testBit_eq_decide_div_mod_eq]; rfl

/-- A number with one bit set. -/
theorem bit_setBits_one (n q k : Nat) : bit (setBits n q q 1) k = (k == q || bit n k) := by
  rw [bit_eq_testBit, bit_eq_testBit, setBits_testBit _ _ _ _ _ (Nat.le_refl q)]
  by_cases e : k = q
  · subst e; simp
  · rw [if_neg (by omega), beq_false_of_ne e, Bool.false_or]

theorem bit_mod {n w k : Nat} (hk : k < w) : bit (n % 2 ^ w) k = bit n k := by
  rw [bit_eq_testBit, bit_eq_testBit, Nat.testBit_mod_two_pow, decide_eq_true hk, Bool.true_and]

namespace Hw

variable (h : Hw)

/-- A field after one of its bits was set: each bit that it shows. -/
theorem bit_fld_setFld_one (f : Fld) (i j q : Nat) {k : Nat} (w : f.lo ≤ f.hi) (u : f.hi < 64) (hk : k < f.hi + 1 - f.lo) :
    bit ((h.setFld f i j (setBits (h.fld f i j) q q 1)).fld f i j) k = (k == q || bit (h.fld f i j) k) := by
  rw [fld_setFld_same _ _ _ _ _ w u, bit_mod hk, bit_setBits_one]

theorem Unbothered.trans {g h k : Hw} (a : g.Unbothered h) (b : h.Unbothered k) : g.Unbothered k := by
  obtain ⟨job, par, cots, gran, reeves, modArm, boot⟩ := a
  obtain ⟨job', par', cots', gran', reeves', modArm', boot'⟩ := b
  exact ⟨job'.trans job, par'.trans par, cots'.trans cots, gran'.trans gran, reeves'.trans reeves, modArm'.trans modArm,
    boot'.trans boot⟩

/-- Storing a field changes registers alone. -/
theorem setFld_only (f : Fld) (i j v : Nat) : ∃ r, h.setFld f i j v = { h with regs := r } := ⟨_, rfl⟩

theorem setFld_unbothered (f : Fld) (i j v : Nat) : h.Unbothered (h.setFld f i j v) := ⟨rfl, rfl, rfl, rfl, rfl, rfl, rfl⟩

/-- So does storing two. -/
theorem setFld_setFld_only (f : Fld) (i j v : Nat) (f' : Fld) (i' j' v' : Nat) :
    ∃ r, (h.setFld f i j v).setFld f' i' j' v' = { h with regs := r } := ⟨_, rfl⟩

/-! ### The boot banks (R483, R484) -/

/-- A GO that ends, or is refused, leaves its bank with STATE and CODE, and nothing else changes but what its vector's event
changes. -/
theorem bootCode_says (p : Nat) {state code : Nat} (hs : state < 4) (hc : code < 256) (x : Power) :
    let g := (h.bootCode p state code).setPower x
    g.fld F.PWR_BOOT_STAT_STATE p = state ∧ g.fld F.PWR_BOOT_STAT_CODE p = code ∧ h.Unbothered g ∧
      ∀ n i j, n ≠ .PWR_BOOT_STAT → recordReg n = false → g.reg n i j = h.reg n i j := by
  have st := (fld_setFld_bits (h.setFld F.PWR_BOOT_STAT_STATE p 0 state) F.PWR_BOOT_STAT_CODE F.PWR_BOOT_STAT_STATE p 0 code p 0
    (by decide) (by decide) (by decide)).trans (fld_setFld_same h F.PWR_BOOT_STAT_STATE p 0 state (by decide) (by decide))
  have cd := fld_setFld_same (h.setFld F.PWR_BOOT_STAT_STATE p 0 state) F.PWR_BOOT_STAT_CODE p 0 code (by decide) (by decide)
  have other : ∀ n i j, n ≠ .PWR_BOOT_STAT →
      ((h.setFld F.PWR_BOOT_STAT_STATE p 0 state).setFld F.PWR_BOOT_STAT_CODE p 0 code).reg n i j = h.reg n i j := fun n i j hn =>
    (reg_setFld_reg _ _ _ _ _ _ _ _ (Ne.symm hn)).trans (reg_setFld_reg _ _ _ _ _ _ _ _ (Ne.symm hn))
  obtain ⟨r, e⟩ := h.setFld_setFld_only F.PWR_BOOT_STAT_STATE p 0 state F.PWR_BOOT_STAT_CODE p 0 code
  have s := RecordsOnly.event ({ h with regs := r } : Hw) (129 * p) (({ h with regs := r } : Hw).fld F.PWR_BOOT_CMD_VEC p)
  simp only [bootCode, e, fld_setPower, reg_setPower] at st cd other ⊢
  generalize ({ h with regs := r } : Hw).event (129 * p) _ = g at s ⊢
  exact ⟨(s.fld_eq F.PWR_BOOT_STAT_STATE p 0 rfl).trans (st.trans (Nat.mod_eq_of_lt hs)),
    (s.fld_eq F.PWR_BOOT_STAT_CODE p 0 rfl).trans (cd.trans (Nat.mod_eq_of_lt hc)),
    ⟨s.job, s.par, s.cots, s.gran, s.reeves, s.modArm, s.boot⟩, fun n i j hn hr => (s.reg n i j hr).trans (other n i j hn)⟩

variable {h}

/-- GO of a bank in WAIT (R484, R512). -/
theorem go_waiting {p : Nat} (hs : h.fld F.PWR_BOOT_STAT_STATE p = 0) (vec : Nat) : h.go p vec =
    let g := h.setFld F.PWR_BOOT_CMD_VEC p 0 vec
    if h.boot.prov then g.bootCode p 0 0x01
    else if h.boot.winner.isSome then g.bootCode p 3 0x01
    else g.setFld F.PWR_BOOT_STAT_STATE p 0 1 := by
  simp only [go, hs, ne_eq, not_true_eq_false, if_false, setFld_boot]

/-- A bank that GO takes up is in FETCH with the vector of its write, and nothing else changes. -/
theorem go_fetches {p : Nat} (hs : h.fld F.PWR_BOOT_STAT_STATE p = 0) (hp : h.boot.prov = false) (hw : h.boot.winner = none)
    (vec : Nat) (x : Power) : let g := (h.go p vec).setPower x
    g.fld F.PWR_BOOT_STAT_STATE p = 1 ∧ g.fld F.PWR_BOOT_CMD_VEC p = vec % 4096 ∧ h.Untouched g := by
  have st := fld_setFld_same (h.setFld F.PWR_BOOT_CMD_VEC p 0 vec) F.PWR_BOOT_STAT_STATE p 0 1 (by decide) (by decide)
  have vc := (fld_setFld_reg (h.setFld F.PWR_BOOT_CMD_VEC p 0 vec) F.PWR_BOOT_STAT_STATE F.PWR_BOOT_CMD_VEC p 0 1 p 0
    (by decide)).trans (fld_setFld_same h F.PWR_BOOT_CMD_VEC p 0 vec (by decide) (by decide))
  obtain ⟨r, e⟩ := h.setFld_setFld_only F.PWR_BOOT_CMD_VEC p 0 vec F.PWR_BOOT_STAT_STATE p 0 1
  simp only [go_waiting hs, hp, hw, Option.isSome_none, Bool.false_eq_true, if_false, fld_setPower, e] at st vc ⊢
  exact ⟨st, vc, rfl, rfl, rfl, rfl, rfl, rfl, rfl, rfl, rfl⟩

/-- Start-up with the images of the bank of PF p, which wins (R484). -/
def bootTaken (h : Hw) (p : Nat) : Boot :=
  { h.boot with
    winner := some p
    image := h.rbs (portBase p + h.fld F.PWR_BOOT_FW_ADDR p) (min (h.fld F.PWR_BOOT_FWLEN_LEN p) 0x1000001)
    patchArea := h.rbs (portBase p + h.fld F.PWR_BOOT_PATCH_ADDR p) (h.fld F.PWR_BOOT_PLEN_LEN p) }

/-- FETCH ends: refused, too late, or with the images. -/
theorem bootFetchDone_fetching {p : Nat} (hs : h.fld F.PWR_BOOT_STAT_STATE p = 1) (how : ReadEnd) :
    ∃ o, h.bootFetchDone p how =
      let g : Hw := { h with out := o }
      if how ≠ .ok ∨ ¬ (h.fn (129 * p)).bme ∨ (h.fn (129 * p)).d3 then g.bootCode p 0 0x02
      else if h.boot.winner.isSome then g.bootCode p 3 0x01
      else ({ g with boot := h.bootTaken p } : Hw).setFld F.PWR_BOOT_STAT_STATE p 0 2 := by
  obtain ⟨o, e⟩ := h.aerRead_out p how
  refine ⟨o, ?_⟩
  simp only [bootFetchDone, hs, ne_eq, not_true_eq_false, if_false, e]
  rfl

/-- A bank in CHECK has its images refused, or the fabric is released with them. -/
theorem bootCheckDone_checking {p : Nat} (hs : h.fld F.PWR_BOOT_STAT_STATE p = 2) : h.bootCheckDone p =
    if firmwareCheck h.boot.image (h.fld F.PWR_BOOT_FWLEN_LEN p) = 1 then h.bootRefused p 0x03
    else if firmwareCheck h.boot.image (h.fld F.PWR_BOOT_FWLEN_LEN p) = 2 then h.bootRefused p 0x04
    else (cutPatches h.boot.patchArea.length h.boot.patchArea).elim (h.bootRefused p 0x05)
      fun l => (h.bootReleases p l).bootCode p 3 0x00 := by
  simp only [bootCheckDone, hs, ne_eq, not_true_eq_false, if_false]
  split
  next e => rw [if_pos e]
  next e => rw [if_neg (by omega), if_pos e]
  next h1 h2 =>
    rw [if_neg h1, if_neg h2]
    cases cutPatches h.boot.patchArea.length h.boot.patchArea <;> rfl

/-- Images refused leave the bank in WAIT with the code, no winner, and the stage and the cores as they are. -/
theorem bootRefused_says (p : Nat) {code : Nat} (hc : code < 256) (x : Power) : let g := (h.bootRefused p code).setPower x
    g.fld F.PWR_BOOT_STAT_STATE p = 0 ∧ g.fld F.PWR_BOOT_STAT_CODE p = code ∧ g.boot.winner = none ∧
      g.boot.stage = h.boot.stage ∧ g.reeves = h.reeves := by
  simp only [bootRefused]
  generalize hg : ({ h with boot := { h.boot with winner := none, image := [], patchArea := [] } } : Hw) = g
  obtain ⟨state, cd, ⟨-, -, -, -, reeves, -, boot⟩, -⟩ := g.bootCode_says p (state := 0) (by decide) hc x
  refine ⟨state, cd, ?_, ?_, reeves.trans ?_⟩
  · rw [boot, ← hg]
  · rw [boot, ← hg]
  · rw [← hg]

/-! ### The release of the fabric (R481, R485) -/

variable (h)

/-- A window that is made to name a base names it; the others stay. -/
theorem winBase_setWindow {base : Nat} (hb : base < 2 ^ 28) (k m : Nat) :
    ((h.setFld F.RVE_WIN_BASE 0 k base).setFld F.RVE_WIN_EN 0 k 1).fld F.RVE_WIN_BASE 0 m =
      if k = m then base else h.fld F.RVE_WIN_BASE 0 m := by
  rw [fld_setFld_bits _ _ _ _ _ _ _ _ (by decide) (by decide) (by decide)]
  split
  next e => rw [← e, fld_setFld_same _ _ _ _ _ (by decide) (by decide)]; exact Nat.mod_eq_of_lt hb
  next d => exact fld_setFld_ne _ _ _ _ _ _ _ _ (by decide) (by decide) (.inl (by simp [d]))

/-- Window 1 of each core of a list names the bank. -/
theorem winBase_each {base r : Nat} (hb : base < 2 ^ 28) (l : List Nat) : ∀ h : Hw, r ∈ l →
    (h.each l fun h r => (h.setFld F.RVE_WIN_BASE 0 (16 * r + 1) base).setFld F.RVE_WIN_EN 0 (16 * r + 1) 1).fld
      F.RVE_WIN_BASE 0 (16 * r + 1) = base := by
  induction l with
  | nil => intro h hr; cases hr
  | cons k l ih =>
    intro h hr
    by_cases hl : r ∈ l
    · exact ih _ hl
    · obtain rfl := (List.mem_cons.1 hr).resolve_right hl
      refine (each_keeps_mem (·.fld F.RVE_WIN_BASE 0 (16 * r + 1)) _ l (fun k hk g => ?_) _).trans ?_
      · have d : k ≠ r := fun e => hl (e ▸ hk)
        exact (winBase_setWindow g hb _ _).trans (if_neg (by omega))
      · exact (winBase_setWindow h hb _ _).trans (if_pos rfl)

theorem winBase_firmwareWindow {base r : Nat} (hb : base < 2 ^ 28) (hr : r < 4) :
    (h.firmwareWindow base).fld F.RVE_WIN_BASE 0 (16 * r + 1) = base := winBase_each hb _ h (List.mem_range.2 hr)

theorem startFirmware_says (y : Hob) (entry : Nat) : let g := h.startFirmware y entry
    (g.reeve 0).bmode = true ∧ (g.reeve 0).hob.pc = BitVec.ofNat 32 (0x10000000 + entry) ∧ g.boot = h.boot ∧
      g.cots = h.cots ∧ g.par = h.par ∧ ∀ k, g.fld F.RVE_WIN_BASE 0 k = h.fld F.RVE_WIN_BASE 0 k := by
  simp only [startFirmware, reeve_setFld, reeve_setReeve, if_true]
  exact ⟨trivial, trivial, rfl, rfl, rfl, fun k => fld_setFld_reg _ _ _ _ _ _ _ _ (by decide)⟩

theorem firmwareWindow_keeps (base : Nat) : (h.firmwareWindow base).boot = h.boot ∧ (h.firmwareWindow base).cots = h.cots ∧
    (h.firmwareWindow base).par = h.par :=
  ⟨each_keeps boot _ (fun _ _ => by rw [setFld_boot, setFld_boot]) _ h,
    each_keeps cots _ (fun _ _ => by rw [setFld_cots, setFld_cots]) _ h,
    each_keeps par _ (fun _ _ => by rw [setFld_par, setFld_par]) _ h⟩

theorem wbs_boot_cots_par (a : Nat) (l : List Byte) :
    (h.wbs a l).boot = h.boot ∧ (h.wbs a l).cots = h.cots ∧ (h.wbs a l).par = h.par :=
  ⟨wbs_keeps boot (fun _ _ _ => rfl) (fun _ _ _ => rfl) l h a, wbs_keeps cots (fun _ _ _ => rfl) (fun _ _ _ => rfl) l h a,
    wbs_keeps par (fun _ _ _ => rfl) (fun _ _ _ => rfl) l h a⟩

/-- The fabric released: start-up's results, Reeve 0 at the firmware's ENTRY in B-mode, window 1 of each core on bank A, and no
cottage or parish changed. -/
theorem bootReleases_says (p : Nat) (l : List (List Byte)) : let g := h.bootReleases p l
    g.boot = released h.boot l ∧ (g.reeve 0).bmode = true ∧
      (g.reeve 0).hob.pc = BitVec.ofNat 32 (0x10000000 + (firmwareOf h.boot.image).1) ∧
      (∀ r, r < 4 → g.fld F.RVE_WIN_BASE 0 (16 * r + 1) = 0x010) ∧ g.cots = h.cots ∧ g.par = h.par := by
  obtain ⟨boot, cots, par⟩ := wbs_boot_cots_par { h with boot := released h.boot l } (frameBase 0x10) h.boot.image
  simp only [bootReleases]
  generalize ({ h with boot := released h.boot l } : Hw).wbs (frameBase 0x10) h.boot.image = a at boot cots par ⊢
  generalize hb : a.setFld F.SEC_ALIAS_HASH 0 0 _ = b
  obtain ⟨boot', cots', par'⟩ := b.firmwareWindow_keeps 0x010
  have win := fun r (hr : r < 4) => b.winBase_firmwareWindow (base := 0x010) (by decide) hr
  generalize b.firmwareWindow 0x010 = w at boot' cots' par' win ⊢
  obtain ⟨bmode, pc, boot'', cots'', par'', base⟩ := w.startFirmware_says (b.reeve 0).hob (firmwareOf h.boot.image).1
  generalize w.startFirmware (b.reeve 0).hob (firmwareOf h.boot.image).1 = f at bmode pc boot'' cots'' par'' base ⊢
  subst hb
  simp only [setFld_boot, setFld_cots, setFld_par, reeve_setFld] at *
  exact ⟨boot''.trans (boot'.trans boot), bmode, pc, fun r hr => (fld_setFld_reg _ _ _ _ _ _ _ _ (by decide)).trans <|
    (fld_setFld_reg _ _ _ _ _ _ _ _ (by decide)).trans ((base _).trans (win r hr)), cots''.trans (cots'.trans cots),
    par''.trans (par'.trans par)⟩

/-- The same once the winner's bank has ended: DONE with OK (R484). -/
theorem bootReleases_done_says (p : Nat) (l : List (List Byte)) (x : Power) :
    let g := ((h.bootReleases p l).bootCode p 3 0).setPower x
    g.fld F.PWR_BOOT_STAT_STATE p = 3 ∧ g.fld F.PWR_BOOT_STAT_CODE p = 0 ∧ g.boot.stage = .released ∧
      g.boot.fwA = some (firmwareOf h.boot.image) ∧ g.boot.fwMeasured = (firmwareOf h.boot.image).2.2 ∧
      g.boot.patches = (acceptPatches 0 l []).map (·.2.1) ∧ (g.reeve 0).bmode = true ∧
      (g.reeve 0).hob.pc = BitVec.ofNat 32 (0x10000000 + (firmwareOf h.boot.image).1) ∧
      (∀ r, r < 4 → g.fld F.RVE_WIN_BASE 0 (16 * r + 1) = 0x010) ∧ g.cots = h.cots ∧ g.par = h.par := by
  obtain ⟨boot, bmode, pc, win, cots, par⟩ := h.bootReleases_says p l
  generalize h.bootReleases p l = m at boot bmode pc win cots par ⊢
  obtain ⟨st, cd, ⟨-, par', cots', -, reeves, -, boot'⟩, reg⟩ := m.bootCode_says p (state := 3) (code := 0)
    (by decide) (by decide) x
  have core : (((m.bootCode p 3 0).setPower x).reeve 0) = m.reeve 0 := by simp only [reeve, reeves]
  dsimp only
  rw [boot'.trans boot, core, bmode, pc]
  refine ⟨st, cd, rfl, rfl, rfl, rfl, rfl, rfl, fun r hr => ?_, cots'.trans cots, par'.trans par⟩
  simp only [fld, reg .RVE_WIN _ _ (by decide) rfl]
  exact win r hr

/-! ### The field armature (R172, R526) -/

@[simp] theorem port_showUcode (n p : Nat) : (h.showUcode n).port p = h.port p := (rfl)

/-- The field microcode with the accepted patches (R172, R176). -/
def fieldUcode (h : Hw) : UcImage :=
  patchImage h.boot.patches { hash := Config.fieldUcHash, ver := 0xF01, signer := 0, level := 0, words := Config.fieldUcWords }

/-- P0 with that microcode in its active bank, before the field armature is applied to it. -/
def fieldLoads (h : Hw) : Hw :=
  (({ h with boot := { h.boot with fieldLoaded := true } } : Hw).modParish 0 fun x =>
    { x with active := some h.fieldUcode }).showUcode 0

theorem fieldArmatureApply_released (hs : h.boot.stage = .released) (hl : h.boot.fieldLoaded = false) :
    h.fieldArmatureApply = h.fieldLoads.applyParish 0 (fieldArmature (if (h.port 0).up then 0 else 129)) := by
  have port : ∀ b : Boot, ({ h with boot := b } : Hw).port 0 = h.port 0 := fun _ => rfl
  simp only [fieldArmatureApply, hs, hl, ne_eq, not_true_eq_false, Bool.false_eq_true, or_self, if_false, fieldLoads, fieldUcode,
    port_showUcode, port_modParish, port]

/-- Loading the field microcode changes the active bank of P0, what shows it, and start-up's note of it alone. -/
theorem fieldLoads_says : let g := h.fieldLoads
    g.boot = { h.boot with fieldLoaded := true } ∧ (g.parish 0).active = some h.fieldUcode ∧
      (∀ n, n ≠ 0 → g.parish n = h.parish n) ∧ g.cots = h.cots ∧ g.mem = h.mem := by
  simp only [fieldLoads, parish_showUcode, parish_modParish, if_true]
  exact ⟨rfl, trivial, fun n hn => if_neg (Ne.symm hn), rfl, rfl⟩

/-! ### Training and calibration (R481, R482) -/

theorem hbmTrained_says {q : Nat} (x : Power) : let g := (h.hbmTrained q).setPower x
    (∀ k, k < 64 → bit (g.fld F.PWR_HBMTR_CHAN) k = (k == q || bit (h.fld F.PWR_HBMTR_CHAN) k)) ∧
      (g.fld F.PWR_HBMTR_CHAN = 2 ^ 64 - 1 → g.fld F.PWR_CAL_HBM = 1) ∧ h.Untouched g := by
  have shown := fun k (hk : k < 64) => h.bit_fld_setFld_one F.PWR_HBMTR_CHAN 0 0 q (k := k) (by decide) (by decide) hk
  obtain ⟨r, e⟩ := h.setFld_only F.PWR_HBMTR_CHAN 0 0 (setBits (h.fld F.PWR_HBMTR_CHAN) q q 1)
  simp only [hbmTrained, e, fld_setPower] at shown ⊢
  split
  next all =>
    have chan := fld_setFld_reg { h with regs := r } F.PWR_CAL_HBM F.PWR_HBMTR_CHAN 0 0 1 0 0 (by decide)
    have cal := fld_setFld_same { h with regs := r } F.PWR_CAL_HBM 0 0 1 (by decide) (by decide)
    obtain ⟨r', e'⟩ := setFld_only { h with regs := r } F.PWR_CAL_HBM 0 0 1
    rw [e'] at chan cal ⊢
    exact ⟨fun k hk => (congrArg (bit · k) chan).trans (shown k hk), fun _ => cal, rfl, rfl, rfl, rfl, rfl, rfl, rfl, rfl, rfl⟩
  next some => exact ⟨shown, fun all => absurd all some, rfl, rfl, rfl, rfl, rfl, rfl, rfl, rfl, rfl⟩

theorem parishCalibrated_says (n : Nat) (x : Power) : let g := (h.parishCalibrated n).setPower x
    (∀ k, k < 16 → bit (g.fld F.PWR_CAL_PARISH) k = (k == n || bit (h.fld F.PWR_CAL_PARISH) k)) ∧ h.Untouched g := by
  have shown := fun k (hk : k < 16) => h.bit_fld_setFld_one F.PWR_CAL_PARISH 0 0 n (k := k) (by decide) (by decide) hk
  obtain ⟨r, e⟩ := h.setFld_only F.PWR_CAL_PARISH 0 0 (setBits (h.fld F.PWR_CAL_PARISH) n n 1)
  simp only [parishCalibrated, e, fld_setPower] at shown ⊢
  exact ⟨shown, rfl, rfl, rfl, rfl, rfl, rfl, rfl, rfl, rfl⟩

end Hw

variable {i : Instr} {s : State} {f : Hw → Hw} {g : Hw} {p state code : Nat}

/-- A GO that ends, or is refused, completes with STATE and CODE of its bank and nothing else bothered. -/
theorem completes_bootCode (e : exec i s = s.runLive f) (a : s.hw.act = true) (w : f s.hw = g.bootCode p state code)
    (k : s.hw.Unbothered g) (hs : state < 4) (hc : code < 256) : Completes i s fun h =>
      h.fld F.PWR_BOOT_STAT_STATE p = state ∧ h.fld F.PWR_BOOT_STAT_CODE p = code ∧ s.hw.Unbothered h := by
  refine completes_live e a ?_
  rw [w]
  obtain ⟨st, cd, kept, -⟩ := g.bootCode_says p hs hc { s.hw.power with asleep := _ }
  exact ⟨st, cd, k.trans kept⟩

/-- Images refused at the end of CHECK. -/
theorem completes_bootRefused (a : s.hw.act = true) (w : s.hw.bootCheckDone p = s.hw.bootRefused p code) (hc : code < 256) :
    Completes (.bootCheckDone p) s fun h => h.fld F.PWR_BOOT_STAT_STATE p = 0 ∧ h.fld F.PWR_BOOT_STAT_CODE p = code ∧
      h.boot.winner = none ∧ h.boot.stage = s.hw.boot.stage ∧ h.reeves = s.hw.reeves := by
  refine completes_live (f := (·.bootCheckDone p)) rfl a ?_
  rw [w]
  exact Hw.bootRefused_says p hc _

end Sys2Proof.Machine

namespace Sys2Proof

open Sys2Proof.Machine

/-- Settles O57: the boot banks by the equations of GO, FETCH and CHECK, the release by `bootReleases_says`, the field armature
by `fieldLoads_says`. -/
theorem bootSequence : Obligations.BootSequence := by
  refine ⟨fun s p vec a hs => ⟨fun hp hw => ?fetches, fun hp hw => ?late, fun hp => ?provisioning⟩,
    fun s p how a hs => ⟨fun hb => ?unread, fun hh hb hd hw => ?lost, fun hh hb hd hw => ?won⟩,
    fun s p a hs => ?checked, fun s a hs hl => ?field, fun s q a hq => ?trained, fun s n a hn => ?calibrated,
    fun s ag v a hs => completesAs_live rfl a (Hw.guarded_open _ _ _ _ _ _ _ hs (by decide))⟩
  case fetches =>
    exact completes_live (f := (·.go p vec)) rfl a (Hw.go_fetches hs hp hw vec _)
  case late =>
    exact completes_bootCode (f := (·.go p vec)) rfl a
      (by simp [Hw.go_waiting hs, hp, Option.isSome_iff_ne_none.2 hw]) (s.hw.setFld_unbothered F.PWR_BOOT_CMD_VEC p 0 vec)
      (by decide) (by decide)
  case provisioning =>
    exact completes_bootCode (f := (·.go p vec)) rfl a (by simp only [Hw.go_waiting hs, hp, if_true])
      (s.hw.setFld_unbothered F.PWR_BOOT_CMD_VEC p 0 vec) (by decide) (by decide)
  case unread =>
    obtain ⟨o, e⟩ := Hw.bootFetchDone_fetching hs how
    exact completes_bootCode (g := { s.hw with out := o }) (f := (·.bootFetchDone p how)) rfl a
      (e.trans (if_pos (by simpa using hb))) ⟨rfl, rfl, rfl, rfl, rfl, rfl, rfl⟩ (by decide) (by decide)
  case lost =>
    obtain ⟨o, e⟩ := Hw.bootFetchDone_fetching hs how
    exact completes_bootCode (g := { s.hw with out := o }) (f := (·.bootFetchDone p how)) rfl a
      (e.trans ((if_neg (by simp [hh, hb, hd])).trans (if_pos (Option.isSome_iff_ne_none.2 hw))))
      ⟨rfl, rfl, rfl, rfl, rfl, rfl, rfl⟩ (by decide) (by decide)
  case won =>
    obtain ⟨o, e⟩ := Hw.bootFetchDone_fetching hs how
    have e' := e.trans ((if_neg (by simp [hh, hb, hd])).trans (if_neg (by simp [hw])))
    refine completes_live (f := (·.bootFetchDone p how)) rfl a ?_
    rw [e']
    have st := Hw.fld_setFld_same { s.hw with out := o, boot := s.hw.bootTaken p } F.PWR_BOOT_STAT_STATE p 0 2 (by decide)
      (by decide)
    obtain ⟨r, k⟩ := Hw.setFld_only { s.hw with out := o, boot := s.hw.bootTaken p } F.PWR_BOOT_STAT_STATE p 0 2
    rw [k] at st ⊢
    exact ⟨st, rfl, rfl⟩
  case checked =>
    have e := Hw.bootCheckDone_checking hs
    dsimp only
    split
    next h1 => exact completes_bootRefused a (e.trans (if_pos h1)) (by decide)
    next h1 =>
      rw [if_neg h1] at e
      split
      next h2 => exact completes_bootRefused a (e.trans (if_pos h2)) (by decide)
      next h2 =>
        rw [if_neg h2] at e
        split
        next hc => exact completes_bootRefused a (by rw [e, hc]; rfl) (by decide)
        next l hc =>
          have e' : s.hw.bootCheckDone p = (s.hw.bootReleases p l).bootCode p 3 0 := by rw [e, hc]; rfl
          refine completes_live (f := (·.bootCheckDone p)) rfl a ?_
          rw [e']
          exact s.hw.bootReleases_done_says p l _
  case field =>
    obtain ⟨boot, active, others, cots, mem⟩ := s.hw.fieldLoads_says
    exact ⟨s.hw.fieldLoads, boot, active, others, cots, mem, completesAs_live rfl a (s.hw.fieldArmatureApply_released hs hl)⟩
  case trained => exact completes_live (f := (·.hbmTrained q)) rfl a (s.hw.hbmTrained_says _)
  case calibrated => exact completes_live (f := (·.parishCalibrated n)) rfl a (s.hw.parishCalibrated_says n _)

end Sys2Proof

/-! SUPPORT. Picture streams: a write of a stream's control register (R231, R239, R242). -/

namespace Sys2Proof.Machine

theorem bits_self (n k : Nat) : bits n k k = b2n (bit n k) := by
  simp only [bits, bit, b2n, Nat.add_sub_cancel_left, Nat.pow_one, beq_iff_eq]
  split <;> omega

theorem bits_bit_eq_zero {n k : Nat} : bits n k k = 0 ↔ bit n k = false := by
  rw [bits_self]; cases bit n k <;> decide

/-- A bit below a field stays when the field is replaced. -/
theorem bit_setBits_below {n hi lo v k : Nat} (h : lo ≤ hi) (hk : k < lo) : bit (setBits n hi lo v) k = bit n k := by
  rw [bit_eq_testBit, bit_eq_testBit, setBits_testBit _ _ _ _ _ h, if_neg (by omega)]

namespace Hw

variable (h : Hw)

/-- A register write changes registers alone. -/
theorem storeFields_only (n : RegName) (i j v : Nat) : ∃ r, h.storeFields n i j v = { h with regs := r } := ⟨_, rfl⟩

theorem stream_modStream (c k : Nat) (f : Stream → Stream) : (h.modStream c k f).stream c k = f (h.stream c k) := by
  by_cases hk : k = 0 <;> simp [stream, modStream, hk]

/-- When the stream starts or resumes after the write; the write publishes nothing and changes no record number. -/
theorem streamWritten_says (c k old v : Nat) : let g := h.streamWritten c k old v
    (g.stream c k).start = (if !bit v 0 then .none else if bits old 0 0 = 0 then .starts
      else if h.streamFld F.POR_S0_STAT_STOPPED F.POR_S1_STAT_STOPPED c k = 1 ∧ (h.stream c k).start = .none then .resumes
      else (h.stream c k).start) ∧
    (g.stream c k).owed = (h.stream c k).owed ∧ (g.stream c k).seq = (h.stream c k).seq ∧
    (∀ f i j, g.fld f i j = h.fld f i j) ∧ (∀ d, g.ctx d = h.ctx d) ∧ g.mem = h.mem := by
  have e := stream_modStream h c k
  simp only [streamWritten, e]
  refine ⟨?start, trivial, trivial, fun _ _ _ => rfl, fun d => ctx_modPorch .., rfl⟩
  case start => simp [bits_bit_eq_zero]

/-- A write of v to POR_S0_CTL with its effect on the stream; FMT stays (R239). -/
def stream0Stored (h : Hw) (c v : Nat) : Hw :=
  (h.storeFields .POR_S0_CTL c 0 v).streamWritten c 0 (h.reg .POR_S0_CTL c).toNat
    (setBits v 7 5 (bits (h.reg .POR_S0_CTL c).toNat 7 5))

/-- A write of v to POR_S1_CTL of port p with its effect on the stream (R239). -/
def stream1Stored (h : Hw) (c p v : Nat) : Hw :=
  (h.storeFields .POR_S1_CTL p c v).streamWritten c 1 (h.reg .POR_S1_CTL p c).toNat v

theorem stream0Stored_says (c v : Nat) (x : Power) : let g := (h.stream0Stored c v).setPower x
    g.fld F.POR_S0_CTL_EN c = bits v 0 0 ∧ g.fld F.POR_S0_CTL_RING c = bits v 31 16 ∧
      g.fld F.POR_S0_CTL_FMT c = h.fld F.POR_S0_CTL_FMT c ∧
      g.fld F.POR_S0_CTL_REFRESH c = h.fld F.POR_S0_CTL_REFRESH c ||| bits v 1 1 ∧
      (g.stream c 0).start = (if !bit v 0 then .none else if h.fld F.POR_S0_CTL_EN c = 0 then .starts
        else if h.fld F.POR_S0_STAT_STOPPED c = 1 ∧ (h.stream c 0).start = .none then .resumes
        else (h.stream c 0).start) ∧
      (g.stream c 0).owed = (h.stream c 0).owed ∧ (g.stream c 0).seq = (h.stream c 0).seq ∧
      (∀ d, g.ctx d = h.ctx d) ∧ g.mem = h.mem := by
  have stored := fun f d hd e u => h.fld_storeFields .POR_S0_CTL c 0 v f d hd e u
  have stopped := h.fld_storeFields_off .POR_S0_CTL c 0 v F.POR_S0_STAT_STOPPED c 0 (by decide)
  obtain ⟨r, e⟩ := h.storeFields_only .POR_S0_CTL c 0 v
  rw [stream0Stored]
  rw [e] at stored stopped ⊢
  obtain ⟨start, owed, seq, fld, ctx, mem⟩ := ({ h with regs := r } : Hw).streamWritten_says c 0
    (h.reg .POR_S0_CTL c).toNat (setBits v 7 5 (bits (h.reg .POR_S0_CTL c).toNat 7 5))
  rw [streamFld, if_pos rfl, stopped, bit_setBits_below (by decide) (by decide)] at start
  exact ⟨(fld ..).trans (stored F.POR_S0_CTL_EN ⟨0, 0, .rw, 0⟩ (by decide) rfl (by decide)),
    (fld ..).trans (stored F.POR_S0_CTL_RING ⟨31, 16, .rw, 0⟩ (by decide) rfl (by decide)),
    (fld ..).trans (stored F.POR_S0_CTL_FMT ⟨7, 5, .ro, 0⟩ (by decide) rfl (by decide)),
    (fld ..).trans (stored F.POR_S0_CTL_REFRESH ⟨1, 1, .w1s, 0⟩ (by decide) rfl (by decide)), start, owed, seq, ctx, mem⟩

theorem stream1Stored_says {c p : Nat} (hp : h.portOf c = some p) (v : Nat) (x : Power) :
    let g := (h.stream1Stored c p v).setPower x
    g.fld F.POR_S1_CTL_EN p c = bits v 0 0 ∧ g.fld F.POR_S1_CTL_RING p c = bits v 31 16 ∧
      g.fld F.POR_S1_CTL_FMT p c = bits v 7 5 ∧
      (g.stream c 1).start = (if !bit v 0 then .none else if h.fld F.POR_S1_CTL_EN p c = 0 then .starts
        else if h.fld F.POR_S1_STAT_STOPPED p c = 1 ∧ (h.stream c 1).start = .none then .resumes
        else (h.stream c 1).start) ∧
      (g.stream c 1).seq = (h.stream c 1).seq ∧ (∀ d, g.ctx d = h.ctx d) ∧ g.mem = h.mem := by
  have stored := fun f d hd e u => h.fld_storeFields .POR_S1_CTL p c v f d hd e u
  have stopped := h.fld_storeFields_off .POR_S1_CTL p c v F.POR_S1_STAT_STOPPED p c (by decide)
  obtain ⟨r, e⟩ := h.storeFields_only .POR_S1_CTL p c v
  rw [stream1Stored]
  rw [e] at stored stopped ⊢
  obtain ⟨start, -, seq, fld, ctx, mem⟩ := ({ h with regs := r } : Hw).streamWritten_says c 1 (h.reg .POR_S1_CTL p c).toNat v
  have port : ({ h with regs := r } : Hw).portOf c = some p := hp
  rw [streamFld, if_neg Nat.one_ne_zero, port, Option.getD_some, stopped] at start
  exact ⟨(fld ..).trans (stored F.POR_S1_CTL_EN ⟨0, 0, .rw, 0⟩ (by decide) rfl (by decide)),
    (fld ..).trans (stored F.POR_S1_CTL_RING ⟨31, 16, .rw, 0⟩ (by decide) rfl (by decide)),
    (fld ..).trans (stored F.POR_S1_CTL_FMT ⟨7, 5, .rw, 0⟩ (by decide) rfl (by decide)), start, seq, ctx, mem⟩

/-- The word that sets REFRESH alone keeps RING, and REFRESH of a set bit reads 1. -/
theorem refreshWord_says (c : Nat) : let v := (BitVec.ofNat 32 (setBits (h.reg .POR_S0_CTL c).toNat 1 1 1)).toNat
    h.fld F.POR_S0_CTL_REFRESH c ||| bits v 1 1 = 1 ∧ bits v 31 16 = h.fld F.POR_S0_CTL_RING c := by
  have set : bits (setBits (h.reg .POR_S0_CTL c).toNat 1 1 1) 1 1 = 1 := bits_setBits_same _ 1 1 1 (by decide)
  have same := bits_setBits_ne (h.reg .POR_S0_CTL c).toNat 1 1 31 16 1 (by decide) (.inr (by decide))
  dsimp only
  rw [BitVec.toNat_ofNat, bits_mod _ 1 1 32 (by decide), bits_mod _ 31 16 32 (by decide), set, same, fld, bits_self]
  refine ⟨?_, rfl⟩
  cases bit (h.reg .POR_S0_CTL c).toNat 1 <;> rfl

variable {h} {ag : Agent} {c p : Nat} {v : Word}

theorem streamEnable_accepted (hs : h.sees ag .POR_S0_CTL c 0 = true)
    (hl : h.changesLocked ag .POR_S0_CTL c 0 v.toNat = false)
    (ho : h.streamCtlOk c (h.streamFn c 0) (bits (h.reg .POR_S0_CTL c).toNat 7 5) v.toNat
      (bits v.toNat 31 16 ≠ bits (h.reg .POR_S0_CTL c).toNat 31 16 || !bit (h.reg .POR_S0_CTL c).toNat 0) = true) :
    h.streamEnable ag c v = h.stream0Stored c v.toNat := by
  rw [streamEnable, guarded_ok _ _ _ _ _ _ _ _ hs hl ho, stream0Stored]

/-- An EN of 1 fits the OUTPUT sum, or need not; an EN of 0 always does. -/
theorem porS1CtlWrite_accepted (hp : h.portOf c = some p) (hs : h.sees ag .POR_S1_CTL p c = true)
    (hl : h.changesLocked ag .POR_S1_CTL p c v.toNat = false)
    (hr : bit v.toNat 0 = true → h.damageReliant c = true ∨
      h.outputSum p + pictureRate (h.cls c) (bits v.toNat 7 5) (h.bellMaxOf c) ≤ outputLimit)
    (ho : h.streamCtlOk c (129 * p) (bits v.toNat 7 5) v.toNat
      (bits v.toNat 31 16 ≠ bits (h.reg .POR_S1_CTL p c).toNat 31 16 || !bit (h.reg .POR_S1_CTL p c).toNat 0) = true) :
    h.porS1CtlWrite ag c v = h.stream1Stored c p v.toNat := by
  simp only [porS1CtlWrite, hp, Option.getD_some]
  refine guarded_ok _ _ _ _ _ _ _ _ hs hl ?_
  rw [ho, Bool.true_and]
  cases on : bit v.toNat 0 with
  | false => simp
  | true =>
    obtain reliant | fits := hr on
    · simp [reliant]
    · refine Bool.or_eq_true_iff.2 (.inr (decide_eq_true ?_))
      split <;> omega

/-- The oldest closed set of a stream, its close in ring r, flips with what stands before it (R227). -/
theorem porchFlip_closed {k r : Nat} {e : RingRec}
    (he : ((h.closedSets (h.streamFn c k) c k).find? fun x =>
      (h.closedSets (h.streamFn c k) c k).all fun y => decide (x.2.set ≤ y.2.set)) = some (r, e)) (late : Bool) :
    h.porchFlip c k late = ((if late then h.closeLate c k r e else h).markRecs c k (fun x => decide (x.set ≤ e.set))
      fun x => { x with ready := true }).drainStream c k := by
  rw [porchFlip, he]

end Hw

end Sys2Proof.Machine

namespace Sys2Proof

open Sys2Proof.Machine

/-- Settles O11: an accepted write of a stream's control register by `stream0Stored_says` and `stream1Stored_says`; REFRESH is a
write of the first. -/
theorem streamControlAndFlips : Obligations.StreamControlAndFlips := by
  refine ⟨fun s ag c v a hs hl ho => ?stream0, fun s ag c p v a hp hs hl hr ho => ?stream1, fun s ag c a hs hv => ?refresh,
    fun s c k late r e a he => completesAs_live rfl a (Hw.porchFlip_closed he late)⟩
  case stream0 =>
    refine completes_live (f := (·.streamEnable ag c v)) rfl a ?_
    rw [Hw.streamEnable_accepted hs hl ho]
    obtain ⟨en, ring, fmt, -, rest⟩ := s.hw.stream0Stored_says c v.toNat { s.hw.power with asleep := _ }
    exact ⟨en, ring, fmt, rest⟩
  case stream1 =>
    refine completes_live (f := (·.porS1CtlWrite ag c v)) rfl a ?_
    rw [Hw.porS1CtlWrite_accepted hp hs hl hr ho]
    exact s.hw.stream1Stored_says hp v.toNat _
  case refresh =>
    obtain ⟨hl, ho⟩ := hv
    refine completes_live (f := (·.refresh ag c 0)) rfl a ?_
    rw [Hw.refresh, if_pos rfl, Hw.streamEnable_accepted hs hl ho]
    obtain ⟨-, ring, -, refresh, -, -, -, ctx, mem⟩ := s.hw.stream0Stored_says c _ { s.hw.power with asleep := _ }
    obtain ⟨set, same⟩ := s.hw.refreshWord_says c
    exact ⟨refresh.trans set, ring.trans same, ctx, mem⟩

end Sys2Proof

/-! SUPPORT. The eDP ports (R232 to R236, R241). -/

namespace Sys2Proof.Machine

/-! ### Ranges of lines (R236) -/

/-- Line x lies in one of the ranges. -/
def InRanges (l : List (Nat × Nat)) (x : Nat) : Prop := ∃ r ∈ l, r.1 ≤ x ∧ x < r.2

theorem inRanges_nil (x : Nat) : ¬ InRanges [] x := by rintro ⟨r, hr, -⟩; cases hr

theorem inRanges_cons (r : Nat × Nat) (l : List (Nat × Nat)) (x : Nat) :
    InRanges (r :: l) x ↔ (r.1 ≤ x ∧ x < r.2) ∨ InRanges l x := by
  simp only [InRanges, List.mem_cons, or_and_right, exists_or, exists_eq_left]

/-- Joining two ranges that meet adds no line and loses none. -/
theorem inRanges_addRange (l : List (Nat × Nat)) (r : Nat × Nat) (x : Nat) :
    InRanges (Hw.addRange l r) x ↔ (r.1 ≤ x ∧ x < r.2) ∨ InRanges l x := by
  induction l generalizing r with
  | nil => exact inRanges_cons r [] x
  | cons q l ih =>
    obtain ⟨a, b⟩ := q
    obtain ⟨c, d⟩ := r
    rw [Hw.addRange]
    split
    next before => simp only [inRanges_cons]
    next meets =>
      split
      next behind =>
        simp only [inRanges_cons, ih]
        exact or_left_comm
      next joined =>
        have union : (min a c ≤ x ∧ x < max b d) ↔ (c ≤ x ∧ x < d) ∨ (a ≤ x ∧ x < b) := by omega
        rw [ih, inRanges_cons, union, or_assoc]

theorem inRanges_foldl_addRange (f : Nat × Nat → Nat × Nat) (l : List (Nat × Nat)) (x : Nat) :
    ∀ acc, InRanges (l.foldl (fun acc r => Hw.addRange acc (f r)) acc) x ↔
      InRanges acc x ∨ ∃ r ∈ l, (f r).1 ≤ x ∧ x < (f r).2 := by
  induction l with
  | nil => intro acc; simp
  | cons r l ih =>
    intro acc
    simp only [List.foldl_cons, ih, inRanges_addRange, List.mem_cons, or_and_right, exists_or, exists_eq_left]
    rw [or_comm (b := InRanges acc x), or_assoc]

namespace Hw

variable (h : Hw) (e : Nat)

theorem flag_congr {g h : Hw} {f : Fld} {i j : Nat} (k : g.fld f i j = h.fld f i j) : g.flag f i j = h.flag f i j := by
  simp only [flag, k]

theorem flag_of_zero {h : Hw} {f : Fld} {i j : Nat} (k : h.fld f i j = 0) : h.flag f i j = false := by
  rw [flag, k]; rfl

/-- A field after a store of a value that it holds. -/
theorem fld_setFld_lt (h : Hw) (f : Fld) (i j v : Nat) (w : f.lo ≤ f.hi) (u : f.hi < 64) (hv : v < 2 ^ (f.hi + 1 - f.lo)) :
    (h.setFld f i j v).fld f i j = v := (fld_setFld_same _ _ _ _ _ w u).trans (Nat.mod_eq_of_lt hv)

theorem fld_setFld_b2n (h : Hw) (f : Fld) (i j : Nat) (b : Bool) (w : f.lo ≤ f.hi) (u : f.hi < 64) :
    (h.setFld f i j (b2n b)).fld f i j = b2n b := by
  refine fld_setFld_lt _ _ _ _ _ w u (Nat.lt_of_lt_of_le (m := 2 ^ 1) ?_ (Nat.pow_le_pow_right (by decide) (by omega)))
  cases b <;> decide

/-! ### What a port draws, and how it stops (R233, R236) -/

theorem edpBorder_keeps {β : Type} (φ : Hw → β) (k : ∀ h a b, φ (wb h a b) = φ h) (m : ∀ h a n, φ (mend h a n) = φ h) :
    φ (h.edpBorder e) = φ h :=
  each_keeps φ _ (fun g _ => each_keeps φ _ (fun _ _ => by
    split
    · rfl
    · exact wbs_keeps φ k m _ _ _) _ g) _ h

theorem edpRedraw_idle (ha : h.flag F.POR_EDP_STAT_ACTIVE 0 e = false) (all : Bool) : h.edpRedraw e all = h := by
  simp [edpRedraw, ha]

theorem edpRedraw_active (ha : h.flag F.POR_EDP_STAT_ACTIVE 0 e = true) (all : Bool) : h.edpRedraw e all =
    (h.edpBorder e).setEdpPort e { h.edpPort e with
      lines := [(0, h.edpVact e)], owed := if all then allCells (h.cls (h.edpPort e).src) else (h.edpPort e).owed } := by
  have edp : (h.edpBorder e).edpPort e = h.edpPort e := h.edpBorder_keeps e (·.edpPort e) (fun _ _ _ => rfl) (fun _ _ _ => rfl)
  have vact : (h.edpBorder e).edpVact e = h.edpVact e := h.edpBorder_keeps e (·.edpVact e) (fun _ _ _ => rfl) (fun _ _ _ => rfl)
  have par : (h.edpBorder e).par = h.par := h.edpBorder_keeps e par (fun _ _ _ => rfl) (fun _ _ _ => rfl)
  simp only [edpRedraw, ha, if_true, edp, vact, cls_congr h _ par]

/-- A redraw writes memory and notes what is owed; registers and cottages stay. -/
theorem edpRedraw_keeps (all : Bool) : (h.edpRedraw e all).regs = h.regs ∧ (h.edpRedraw e all).cots = h.cots := by
  cases ha : h.flag F.POR_EDP_STAT_ACTIVE 0 e with
  | false => rw [edpRedraw_idle h e ha]; exact ⟨rfl, rfl⟩
  | true =>
    rw [edpRedraw_active h e ha]
    exact ⟨h.edpBorder_keeps e regs (fun _ _ _ => rfl) (fun _ _ _ => rfl),
      h.edpBorder_keeps e cots (fun _ _ _ => rfl) (fun _ _ _ => rfl)⟩

/-- A port that stops trains no more and shows neither ACTIVE nor TRAINED; nothing but its status changes besides. -/
theorem edpStop_says : let g := h.edpStop e
    (g.edpPort e).training = false ∧ g.fld F.POR_EDP_STAT_ACTIVE 0 e = 0 ∧ g.fld F.POR_EDP_STAT_TRAINED 0 e = 0 ∧
      g.fld F.POR_EDP_STAT_HPD 0 e = h.fld F.POR_EDP_STAT_HPD 0 e ∧
      (∀ f i j, f.reg ≠ .POR_EDP_STAT → g.fld f i j = h.fld f i j) ∧ g.cots = h.cots ∧ g.mem = h.mem := by
  simp (disch := decide) only [edpStop, fld_setEdpPort, fld_setFld_bits, fld_setFld_lt, edpPort_setEdpPort, if_true, true_and]
  refine ⟨fun f i j hf => ?_, rfl, rfl⟩
  rw [fld_setFld_reg _ _ f _ _ _ _ _ (Ne.symm hf), fld_setFld_reg _ _ f _ _ _ _ _ (Ne.symm hf),
    fld_setFld_reg _ _ f _ _ _ _ _ (Ne.symm hf)]

variable {h e} {ag : Agent} {v : Nat}

/-! ### Writes of its control register and destination (R234, R235, R241) -/

/-- The geometry and the scan buffer fit as EN becomes 1 (log entry 27). -/
theorem edpCtlWrite_starts (hs : h.sees ag .POR_EDP_CTL 0 e = true) (on : bit v 0 = true)
    (src : bits v 31 20 = bits (h.reg .POR_EDP_CTL 0 e).toNat 31 20) (hw : h.edpWriter ag (bits v 31 20) = true)
    (hg : h.edpGeometry e (bits v 31 20) (bit v 8) (h.reg .POR_EDP_DST 0 e).toNat = true)
    (hb : h.edpBuffer e ((h.portOf (bits v 31 20)).getD 0) = true) (hc : h.edpClockOk e = true) (bpc : bits v 7 6 ≠ 3)
    (lanes : bits v 5 4 ≠ 3) (ha : h.flag F.POR_EDP_STAT_ACTIVE 0 e = false) (ht : (h.edpPort e).training = false) :
    h.edpCtlWrite ag e v = (h.storeFields .POR_EDP_CTL 0 e v).setEdpPort e { h.edpPort e with
      training := true, src := bits v 31 20, owed := allCells (h.cls (bits v 31 20)), due := [], lines := [] } := by
  have cls := cls_congr h (h.storeFields .POR_EDP_CTL 0 e v) (storeFields_par ..) (bits v 31 20)
  simp [edpCtlWrite, hs, on, ← src, hw, hg, hb, hc, bpc, lanes, ha, ht, cls]

/-- With EN 0 and no rectangle written the geometry is not judged (log entry 27). -/
theorem edpCtlWrite_stops (hs : h.sees ag .POR_EDP_CTL 0 e = true) (off : bit v 0 = false)
    (src : bits v 31 20 = bits (h.reg .POR_EDP_CTL 0 e).toNat 31 20) (hw : h.edpWriter ag (bits v 31 20) = true)
    (hd : (h.reg .POR_EDP_DST 0 e).toNat = 0) (bpc : bits v 7 6 ≠ 3) (lanes : bits v 5 4 ≠ 3) :
    h.edpCtlWrite ag e v = (h.storeFields .POR_EDP_CTL 0 e v).edpStop e := by
  simp [edpCtlWrite, hs, off, ← src, hw, hd, bpc, lanes]

theorem flag_edpCtl_en (h : Hw) (e v : Nat) : (h.storeFields .POR_EDP_CTL 0 e v).flag F.POR_EDP_CTL_EN 0 e = bit v 0 := by
  have stored := h.fld_storeFields .POR_EDP_CTL 0 e v F.POR_EDP_CTL_EN ⟨0, 0, .rw, 0⟩ (by decide) rfl (by decide)
  rw [flag, stored, Acc.store, bits_self]
  cases bit v 0 <;> rfl

theorem edpDstWrite_fits (hs : h.sees ag .POR_EDP_DST 0 e = true)
    (hw : h.edpWriter ag (bits (h.reg .POR_EDP_CTL 0 e).toNat 31 20) = true)
    (hg : h.edpGeometry e (bits (h.reg .POR_EDP_CTL 0 e).toNat 31 20) (bit (h.reg .POR_EDP_CTL 0 e).toNat 8) v = true) :
    h.edpDstWrite ag e v = (h.storeFields .POR_EDP_DST 0 e v).edpRedraw e true := by
  simp [edpDstWrite, hs, hw, hg]

/-- A destination is stored whole; a port that runs redraws, with every cell of its source owed (R234; log entry 56). -/
theorem edpDstStored_says (p : Power) : let g := ((h.storeFields .POR_EDP_DST 0 e v).edpRedraw e true).setPower p
    g.fld F.POR_EDP_DST_DX 0 e = bits v 12 0 ∧ g.fld F.POR_EDP_DST_DY 0 e = bits v 28 16 ∧
      g.fld F.POR_EDP_DST_DW 0 e = bits v 44 32 ∧ g.fld F.POR_EDP_DST_DH 0 e = bits v 60 48 ∧ g.cots = h.cots ∧
      (h.flag F.POR_EDP_STAT_ACTIVE 0 e = false → g.edp = h.edp ∧ g.mem = h.mem) ∧
      (h.flag F.POR_EDP_STAT_ACTIVE 0 e = true →
        (g.edpPort e).lines = [(0, h.edpVact e)] ∧ (g.edpPort e).owed = allCells (h.cls (h.edpPort e).src)) := by
  have stored := fun f d hd w u => h.fld_storeFields .POR_EDP_DST 0 e v f d hd w u
  have active := flag_congr (h.fld_storeFields_off .POR_EDP_DST 0 e v F.POR_EDP_STAT_ACTIVE 0 e (by decide))
  have tim := h.fld_storeFields_off .POR_EDP_DST 0 e v F.POR_EDP_TIM_TIM 0 (4 * e + 1) (by decide)
  obtain ⟨r, k⟩ := h.storeFields_only .POR_EDP_DST 0 e v
  rw [k] at stored active tim ⊢
  obtain ⟨regs, cots⟩ := ({ h with regs := r } : Hw).edpRedraw_keeps e true
  have fld := fld_congr _ _ regs
  refine ⟨(fld ..).trans (stored F.POR_EDP_DST_DX ⟨12, 0, .rw, 0⟩ (by decide) rfl (by decide)),
    (fld ..).trans (stored F.POR_EDP_DST_DY ⟨28, 16, .rw, 0⟩ (by decide) rfl (by decide)),
    (fld ..).trans (stored F.POR_EDP_DST_DW ⟨44, 32, .rw, 0⟩ (by decide) rfl (by decide)),
    (fld ..).trans (stored F.POR_EDP_DST_DH ⟨60, 48, .rw, 0⟩ (by decide) rfl (by decide)), cots,
    fun idle => ?_, fun runs => ?_⟩
  · rw [edpRedraw_idle _ _ (active.trans idle)]
    exact ⟨rfl, rfl⟩
  · rw [edpRedraw_active _ _ (active.trans runs), edpVact, tim]
    simp only [edpPort_setPower, edpPort_setEdpPort, if_true]
    exact ⟨rfl, rfl⟩

/-! ### Training, frames and loss of the link (R232, R233, R236) -/

/-- Port e as the end of its training leaves it, before it draws its border. -/
def edpTrains (h : Hw) (e : Nat) (psr2 : Bool) : Hw :=
  ((((h.setFld F.POR_EDP_STAT_HPD 0 e 1).setEdpPort e { h.edpPort e with training := false }).setFld
    F.POR_EDP_STAT_TRAINED 0 e 1).setFld F.POR_EDP_STAT_ACTIVE 0 e 1).setFld F.POR_EDP_STAT_PSR2_ACT 0 e
      (b2n (psr2 && h.flag F.POR_EDP_CTL_PSR2 0 e))

theorem edpLinkTrained_trained (ht : (h.edpPort e).training = true) (on : h.flag F.POR_EDP_CTL_EN 0 e = true) (psr2 : Bool) :
    h.edpLinkTrained e (.trained psr2) = (h.edpTrains e psr2).edpRedraw e false := by
  simp (disch := decide) only [edpLinkTrained, edpTrains, flag, fld_setFld_reg, fld_setEdpPort] at on ⊢
  simp only [ht, on, Bool.and_self, if_true]

theorem edpTrains_says (psr2 : Bool) : let g := h.edpTrains e psr2
    g.edpPort e = { h.edpPort e with training := false } ∧ g.fld F.POR_EDP_STAT_TRAINED 0 e = 1 ∧
      g.fld F.POR_EDP_STAT_ACTIVE 0 e = 1 ∧ g.fld F.POR_EDP_STAT_HPD 0 e = 1 ∧
      g.fld F.POR_EDP_STAT_PSR2_ACT 0 e = b2n (psr2 && h.flag F.POR_EDP_CTL_PSR2 0 e) ∧ g.mem = h.mem := by
  simp (disch := decide) only [edpTrains, fld_setEdpPort, fld_setFld_bits, fld_setFld_lt, fld_setFld_b2n, edpPort_setFld,
    edpPort_setEdpPort, setFld_mem, setEdpPort_mem, if_true, and_self]

/-- A counter that wraps shows one more, at its width. -/
theorem fld_countWrap_same (h : Hw) (f : Fld) (i j n : Nat) (w : f.lo ≤ f.hi) (u : f.hi < 64) :
    (h.countWrap f i j n).fld f i j = (h.fld f i j + n) % 2 ^ (f.hi + 1 - f.lo) := fld_setFld_same _ _ _ _ _ w u

/-- The selective update of the changed lines, aligned to the panel's granularity (R236). -/
def edpUpdate (h : Hw) (e gran : Nat) : List (Nat × Nat) :=
  (h.edpPort e).lines.foldl (fun acc r => addRange acc (r.1 / gran * gran, min (h.edpVact e) (ceilDiv r.2 gran * gran))) []

theorem inRanges_edpUpdate (gran x : Nat) : InRanges (h.edpUpdate e gran) x ↔
    ∃ r ∈ (h.edpPort e).lines, r.1 / gran * gran ≤ x ∧ x < min (h.edpVact e) (ceilDiv r.2 gran * gran) :=
  (inRanges_foldl_addRange (fun r => (r.1 / gran * gran, min (h.edpVact e) (ceilDiv r.2 gran * gran))) _ x []).trans
    (or_iff_right (inRanges_nil x))

theorem edpPanelFrame_updates (ha : h.flag F.POR_EDP_STAT_ACTIVE 0 e = true) (hp : h.flag F.POR_EDP_STAT_PSR2_ACT 0 e = true)
    (hl : (h.edpPort e).lines ≠ []) {gran : Nat} (hg : 1 ≤ gran) : h.edpPanelFrame e gran false =
      ((h.setEdpPort e { h.edpPort e with lines := [] }).countWrap F.POR_EDP_SU_SU 0 e).emit
        (.edpSu e (h.edpUpdate e gran)) := by
  simp only [edpPanelFrame, ha, hp, List.isEmpty_eq_false_iff.2 hl, Nat.max_eq_right hg, if_true, Bool.false_eq_true, if_false,
    edpUpdate]

/-- Port e with HPD low if it is HPD that is lost. -/
def edpUnplugged (h : Hw) (e : Nat) (hpd : Bool) : Hw := if hpd then h.setFld F.POR_EDP_STAT_HPD 0 e 0 else h

theorem edpUnplugged_says (h : Hw) (e : Nat) (hpd : Bool) : let g := h.edpUnplugged e hpd
    g.fld F.POR_EDP_STAT_HPD 0 e = (if hpd then 0 else h.fld F.POR_EDP_STAT_HPD 0 e) ∧
      g.flag F.POR_EDP_STAT_ACTIVE 0 e = h.flag F.POR_EDP_STAT_ACTIVE 0 e ∧ g.edpPort e = h.edpPort e ∧ g.cots = h.cots := by
  cases hpd with
  | false => exact ⟨rfl, rfl, rfl, rfl⟩
  | true =>
    exact ⟨fld_setFld_lt _ _ _ _ _ (by decide) (by decide) (by decide),
      flag_congr (fld_setFld_bits _ _ _ _ _ _ _ _ (by decide) (by decide) (by decide)), rfl, rfl⟩

/-- HPD shows the line, which falls with a loss that names it (log entry 135). -/
theorem edpLinkLost_says (hr : h.flag F.POR_EDP_STAT_ACTIVE 0 e = true ∨ (h.edpPort e).training = true) (hpd : Bool)
    (p : Power) : let g := (h.edpLinkLost e hpd).setPower p
    (g.edpPort e).training = false ∧ g.fld F.POR_EDP_STAT_ACTIVE 0 e = 0 ∧ g.fld F.POR_EDP_STAT_TRAINED 0 e = 0 ∧
      g.fld F.POR_EDP_STAT_LINK_LOST 0 e = 1 ∧
      g.fld F.POR_EDP_STAT_HPD 0 e = (if hpd then 0 else h.fld F.POR_EDP_STAT_HPD 0 e) ∧ g.cots = h.cots := by
  obtain ⟨unplugged, active, edp, cots⟩ := h.edpUnplugged_says e hpd
  have runs : ((h.edpUnplugged e hpd).flag F.POR_EDP_STAT_ACTIVE 0 e || ((h.edpUnplugged e hpd).edpPort e).training) = true := by
    rw [active, edp, Bool.or_eq_true]; exact hr
  have lost : h.edpLinkLost e hpd = (((h.edpUnplugged e hpd).edpStop e).setFld F.POR_EDP_STAT_LINK_LOST 0 e 1).raiseShared 0
      .POR 0x03 6 e none (detailOf .POR [0x03, e]) := by rw [edpLinkLost, ← edpUnplugged, if_pos runs]
  obtain ⟨training, idle, untrained, plug, -, cots', -⟩ := (h.edpUnplugged e hpd).edpStop_says e
  simp (disch := decide) only [lost, edpPort_setPower, edpPort_raiseShared, edpPort_setFld, fld_setPower, fld_raiseShared,
    fld_setFld_bits, fld_setFld_lt, true_and]
  exact ⟨training, idle, untrained, plug.trans unplugged, (raiseShared_cots ..).trans (cots'.trans cots)⟩

/-! ### AUX transactions (R241) -/

/-- The first n words of the panel's answer, drawn in turn (log entry 28). -/
def auxAnswers (h : Hw) (e n : Nat) : Hw :=
  h.each (List.range n) fun h i => h.bump.setFld F.POR_EDP_AUX_AUX 0 (8 * e + i) (Config.freeValue h.fresh).toNat

theorem auxAnswers_succ (n : Nat) : h.auxAnswers e (n + 1) = (h.auxAnswers e n).bump.setFld F.POR_EDP_AUX_AUX 0 (8 * e + n)
    (Config.freeValue (h.auxAnswers e n).fresh).toNat := by
  simp only [auxAnswers, each, List.range_succ, List.foldl_append, List.foldl_cons, List.foldl_nil]

theorem auxAnswers_says (n : Nat) : let g := h.auxAnswers e n
    g.out = h.out ∧ g.fresh = h.fresh + n ∧ g.cots = h.cots ∧ g.mem = h.mem ∧
      ∀ i, i < n → g.fld F.POR_EDP_AUX_AUX 0 (8 * e + i) = (Config.freeValue (h.fresh + i)).toNat % 2 ^ 32 := by
  induction n with
  | zero => exact ⟨rfl, rfl, rfl, rfl, fun i hi => absurd hi (Nat.not_lt_zero i)⟩
  | succ n ih =>
    obtain ⟨out, fresh, cots, mem, shown⟩ := ih
    rw [auxAnswers_succ, fresh]
    refine ⟨out, congrArg (· + 1) fresh, cots, mem, fun i hi => ?_⟩
    obtain rfl | earlier := Nat.eq_or_lt_of_le (Nat.le_of_lt_succ hi)
    · exact fld_setFld_same _ _ _ _ _ (by decide) (by decide)
    · rw [fld_setFld_ne _ _ _ _ _ _ _ _ (by decide) (by decide) (.inl fun ⟨_, _, same⟩ => by omega)]
      exact shown i earlier

theorem auxTransaction_sends (hs : h.sees ag .POR_EDP_AUX 0 (8 * e) = true)
    (hw : h.edpWriter ag (h.fld F.POR_EDP_CTL_SRC 0 e) = true) (l : List Word) :
    h.auxTransaction ag e l = ({ h with out := (l.map (Out.aux e)).reverse ++ h.out } : Hw).auxAnswers e 8 := by
  simp only [auxTransaction, hs, hw, each_emit, Bool.not_true, Bool.false_eq_true, if_false]
  rfl

end Hw

end Sys2Proof.Machine

namespace Sys2Proof

open Sys2Proof.Machine

/-- Settles O12: each event of a port by the equation of its effect, and what `edpStop`, `edpRedraw` and `addRange` do. Where the
statement follows choices of the model (log entries 27, 28, 56, 130 and 135), so do the equations. -/
theorem edpPortRuns : Obligations.EdpPortRuns := by
  refine ⟨fun s ag e v a hs hv hw _ hg hb hc bpc lanes ha ht => ?starts, fun s ag e v a hs hv hw _ bpc lanes hd => ?stops,
    fun s ag e v a hs hw hg => ?destination, fun s e psr2 a ht on => ?trained, fun s e gran a ha hp hl hg => ?update,
    fun s e hpd a hr => completes_live (f := (·.edpLinkLost e hpd)) rfl a (Hw.edpLinkLost_says hr hpd _),
    fun s ag e l a hs hw => ?aux⟩
  case starts =>
    have on : bit v 0 = true := by rw [hv]; exact bit_setBits_one _ 0 0
    have src : bits v 31 20 = bits (s.hw.reg .POR_EDP_CTL 0 e).toNat 31 20 := by
      rw [hv, bits_setBits_ne _ 0 0 31 20 1 (by decide) (.inr (by decide))]
    have en := (s.hw.flag_edpCtl_en e v).trans on
    refine completes_live (f := (·.edpEnable ag e true)) rfl a ?_
    rw [Hw.edpEnable, b2n, if_pos rfl, ← hv, Hw.edpCtlWrite_starts hs on src hw hg hb hc bpc lanes ha ht]
    obtain ⟨r, k⟩ := s.hw.storeFields_only .POR_EDP_CTL 0 e v
    rw [k] at en ⊢
    simp only [Hw.edpPort_setPower, Hw.edpPort_setEdpPort, if_true, true_and]
    exact ⟨en, rfl, rfl⟩
  case stops =>
    have off : bit v 0 = false := by rw [← bits_bit_eq_zero, hv]; exact bits_setBits_same _ 0 0 0 (by decide)
    have src : bits v 31 20 = bits (s.hw.reg .POR_EDP_CTL 0 e).toNat 31 20 := by
      rw [hv, bits_setBits_ne _ 0 0 31 20 0 (by decide) (.inr (by decide))]
    have en := (s.hw.flag_edpCtl_en e v).trans off
    refine completes_live (f := (·.edpEnable ag e false)) rfl a ?_
    rw [Hw.edpEnable, b2n, if_neg Bool.false_ne_true, ← hv, Hw.edpCtlWrite_stops hs off src hw hd bpc lanes]
    obtain ⟨r, k⟩ := s.hw.storeFields_only .POR_EDP_CTL 0 e v
    rw [k] at en ⊢
    obtain ⟨training, active, trained, -, fld, cots, mem⟩ := ({ s.hw with regs := r } : Hw).edpStop_says e
    simp only [Hw.edpPort_setPower, Hw.flag_setPower, Hw.setPower_cots, Hw.setPower_mem]
    exact ⟨training, (Hw.flag_congr (fld F.POR_EDP_CTL_EN 0 e (by decide))).trans en, Hw.flag_of_zero active,
      Hw.flag_of_zero trained, cots, mem⟩
  case destination =>
    refine completes_live (f := (·.edpGeometryWrite ag e true v)) rfl a ?_
    rw [Hw.edpGeometryWrite, if_pos rfl, Hw.edpDstWrite_fits hs hw hg]
    exact Hw.edpDstStored_says _
  case trained =>
    refine completes_live (f := (·.edpLinkTrained e (.trained psr2))) rfl a ?_
    rw [Hw.edpLinkTrained_trained ht on]
    obtain ⟨port, trained, active, hpd, su, mem⟩ := Hw.edpTrains_says (h := s.hw) (e := e) psr2
    exact ⟨s.hw.edpTrains e psr2, port, trained, active, hpd, su, mem, rfl⟩
  case update =>
    refine completes_live (f := (·.edpPanelFrame e gran false)) rfl a ?_
    rw [Hw.edpPanelFrame_updates ha hp hl hg]
    refine ⟨?_, ⟨_, rfl, Hw.inRanges_edpUpdate gran⟩, ?_, rfl⟩
    · simp only [Hw.edpPort_setPower, Hw.edpPort_emit, Hw.countWrap, Hw.edpPort_setFld, Hw.edpPort_setEdpPort, if_true]
    · rw [Hw.fld_setPower, Hw.fld_emit]
      exact Hw.fld_countWrap_same _ F.POR_EDP_SU_SU 0 e 1 (by decide) (by decide)
  case aux =>
    refine completes_live (f := (·.auxTransaction ag e l)) rfl a ?_
    rw [Hw.auxTransaction_sends hs hw]
    obtain ⟨out, fresh, cots, mem, shown⟩ :=
      Hw.auxAnswers_says (h := { s.hw with out := (l.map (Out.aux e)).reverse ++ s.hw.out }) (e := e) 8
    exact ⟨out, fresh, cots, mem, shown 7 (by decide)⟩

end Sys2Proof

/-! SUPPORT. The Choir's samples and audio blocks (R245, R258, R265, R270, R278). -/

namespace Sys2Proof.Machine.Hw

variable {h : Hw} {c n : Nat}

/-! ### Voice samples (R245, R278) -/

/-- A due sample of a cottage that the Choir serves passes the test with which `voiceSample` begins. -/
theorem voiceSample_served (hs : (h.slotOf c).isSome = true) (hc : (h.ctx c).st ≠ .cont) (hd : h.sampleDue c = true) :
    ((h.slotOf c).isNone || (h.ctx c).st == .cont || (!h.sampleDue c && !h.journalServed c)) = false := by
  rw [Option.isNone_eq_false_iff.2 hs, beq_eq_false_iff_ne.2 hc, hd]
  rfl

theorem voiceSample_generated {g : Hw} (hs : (h.slotOf c).isSome = true) (hc : (h.ctx c).st ≠ .cont)
    (hd : h.sampleDue c = true) (hg : h.genSample c = (none, g)) : h.voiceSample c .none = g := by
  simp only [voiceSample, voiceSample_served hs hc hd, Bool.false_eq_true, reduceCtorEq, if_false, hg]

theorem voiceSample_ecc (hs : (h.slotOf c).isSome = true) (hc : (h.ctx c).st ≠ .cont) (hd : h.sampleDue c = true) :
    h.voiceSample c .ecc = h.containWith c .CHR 0x02 (detailOf .CHR [0x02, c]) := by
  simp only [voiceSample, voiceSample_served hs hc hd, Bool.false_eq_true, if_false]

/-! ### Mix samples (R258, R265) -/

theorem mixSample_served (ha : (h.parish n).arm.isSome = true) (clocks : List BridgeClock) (realign : List Nat) :
    let m := h.fld F.CHR_MIXPOS_POS n
    let start := if m % 64 = 0 then h.mixBoundary n m else h
    h.mixSample n clocks realign = (start.each (start.parishCots n) fun h c =>
      h.mixCot c m (clocks.find? fun t => t.k == c % 256) (realign.contains (c % 256))).countWrap F.CHR_MIXPOS_POS n := by
  simp only [mixSample, Option.isNone_eq_false_iff.2 ha, Bool.false_eq_true, if_false]

theorem mixBlockBoundary_served (ha : (h.parish n).arm.isSome = true) (hm : h.fld F.CHR_MIXPOS_POS n % 64 = 0) :
    h.mixBlockBoundary n = h.mixBoundary n (h.fld F.CHR_MIXPOS_POS n) := by
  simp only [mixBlockBoundary, ha, hm, beq_self_eq_true, Bool.and_self, if_true]

/-! ### Audio blocks (R270) -/

theorem audio_complete (hl : 240 ≤ (h.cot c).choir.samples.length) : h.audio c = h.publishBlock c := if_pos hl

/-- A muted stream publishes nothing, nor does one whose ring has no room for the block and the gaps before it: the block is owed,
and the next begins. -/
theorem publishBlock_owed
    (hb : (h.cot c).choir.mute = true ∨ h.audioRoom c (1 + (h.cot c).choir.gaps.length) = false) :
    h.publishBlock c = ((h.setFld F.CHR_S_STAT_GAP c 0 1).modChoir c fun s =>
      { s with gaps := oweBlock s.gaps s.block }).audioNext c := by
  have held : (!(h.cot c).choir.mute && h.audioRoom c (1 + (h.cot c).choir.gaps.length)) = false := by
    rcases hb with muted | full
    · rw [muted, Bool.not_true, Bool.false_and]
    · rw [full, Bool.and_false]
  simp only [publishBlock, held, Bool.false_eq_true, if_false]

/-- Where EN has begun no new stream, the next block of the stream begins: its gaps, registers but CHR_S_BLOCK, and memory stay. -/
theorem audioNext_says (hr : (h.cot c).choir.restart = none) : let g := h.audioNext c
    (g.cot c).choir.block = (h.cot c).choir.block + 1 ∧ (g.cot c).choir.samples = (h.cot c).choir.samples.drop 240 ∧
      (g.cot c).choir.gaps = (h.cot c).choir.gaps ∧
      (g.cot c).choir.live = ((h.cot c).choir.live && !(h.cot c).choir.stopping) ∧
      (∀ f i j, f.reg ≠ .CHR_S_BLOCK → g.fld f i j = h.fld f i j) ∧ g.mem = h.mem := by
  simp only [audioNext, hr, cot_setFld, cot_modChoir, if_true, true_and]
  exact ⟨fun f i j hf => fld_setFld_reg _ _ f _ _ _ _ _ (Ne.symm hf), rfl⟩

theorem publishBlock_owed_says
    (hb : (h.cot c).choir.mute = true ∨ h.audioRoom c (1 + (h.cot c).choir.gaps.length) = false)
    (hr : (h.cot c).choir.restart = none) (x : Power) : let g := (h.publishBlock c).setPower x
    (g.cot c).choir.block = (h.cot c).choir.block + 1 ∧ (g.cot c).choir.samples = (h.cot c).choir.samples.drop 240 ∧
      (g.cot c).choir.gaps = oweBlock (h.cot c).choir.gaps (h.cot c).choir.block ∧
      (g.cot c).choir.live = ((h.cot c).choir.live && !(h.cot c).choir.stopping) ∧
      g.fld F.CHR_S_STAT_GAP c = 1 ∧ g.mem = h.mem := by
  generalize hk : ((h.setFld F.CHR_S_STAT_GAP c 0 1).modChoir c fun s =>
    { s with gaps := oweBlock s.gaps s.block }) = k
  have owed : (k.cot c).choir = { (h.cot c).choir with gaps := oweBlock (h.cot c).choir.gaps (h.cot c).choir.block } := by
    rw [← hk, cot_modChoir, if_pos rfl, cot_setFld]
  have gap : k.fld F.CHR_S_STAT_GAP c = 1 := by
    rw [← hk, fld_modChoir, fld_setFld_lt _ _ _ _ _ (by decide) (by decide) (by decide)]
  have mem : k.mem = h.mem := by rw [← hk, modChoir_mem, setFld_mem]
  have next := k.audioNext_says (c := c) (by rw [owed]; exact hr)
  rw [owed] at next
  obtain ⟨block, samples, gaps, live, fld, mem'⟩ := next
  rw [publishBlock_owed hb, hk]
  exact ⟨block, samples, gaps, live, (fld _ c 0 (by decide)).trans gap, mem'.trans mem⟩

end Sys2Proof.Machine.Hw

namespace Sys2Proof

open Sys2Proof.Machine

/-- Settles O13: each command by the equation of its effect where its condition holds; an owed block by what `audioNext` does. -/
theorem choirSamplesAndBlocks : Obligations.ChoirSamplesAndBlocks := by
  refine ⟨fun s c g a hs hc hd hg => ?generated, fun s c a hs hc hd => ?uncorrectable,
    fun s n m clocks realign a ha hm => ?mixed, fun s n a ha hm => ?boundary, fun s c a hl => ?block,
    fun s c a hl hb hr => ?owed⟩
  case generated => exact completesAs_live rfl a (Hw.voiceSample_generated hs hc hd hg)
  case uncorrectable => exact completesAs_live rfl a (Hw.voiceSample_ecc hs hc hd)
  case mixed =>
    subst hm
    exact completesAs_live rfl a (Hw.mixSample_served ha clocks realign)
  case boundary => exact completesAs_live rfl a (Hw.mixBlockBoundary_served ha hm)
  case block => exact completesAs_live rfl a (Hw.audio_complete hl)
  case owed =>
    refine completes_live (f := (·.audio c)) rfl a ?_
    rw [Hw.audio_complete hl]
    exact Hw.publishBlock_owed_says hb hr _

end Sys2Proof

/-! SUPPORT. The ends of captures, restores and images (R300, R301, R303, R305, R311). -/

namespace Sys2Proof.Machine.Hw

variable {h : Hw} {c k : Nat}

/-! ### States entered with no Hayloft command pending (R34, R36) -/

theorem hayTake_idle (hp : h.fld F.HAY_STAT_PENDING c = 0) : h.hayTake c = h := by
  rw [hayTake, hayPending, flag_of_zero hp]; rfl

theorem cot_setSt (h : Hw) (c : Nat) (st : CotState) :
    (h.setSt c st).cot c = { h.cot c with ctx := h.entered c st } := by
  have entered : ((h.setSt c st).cot c).ctx = h.entered c st := (ctx_setSt h c st c).trans (if_pos rfl)
  have rest : (h.setSt c st).cot c = { h.cot c with ctx := ((h.setSt c st).cot c).ctx } := by
    unfold setSt
    dsimp only
    split <;> simp
  rw [entered] at rest
  exact rest

theorem fld_setSt_idle (hp : h.fld F.HAY_STAT_PENDING c = 0) (st : CotState) (f : Fld) (i j : Nat) :
    (h.setSt c st).fld f i j = h.fld f i j := by
  unfold setSt
  dsimp only
  split
  · rw [hayTake_idle (by rw [fld_picLevel, fld_modCtx, hp]), fld_picLevel, fld_modCtx]
  · rw [fld_picLevel, fld_modCtx]

/-- In g cottage c's context is in state st; of the cottage only its context differs from h, and its beam, processor and Tally are
those of h; registers and the Granary stay. -/
structure Enters (h : Hw) (c : Nat) (st : CotState) (g : Hw) : Prop where
  st : (g.ctx c).st = st
  frame : (g.ctx c).frame = (h.ctx c).frame
  hob : (g.ctx c).hob = (h.ctx c).hob
  tally : (g.ctx c).tally = (h.ctx c).tally
  rest : g.cot c = { h.cot c with ctx := g.ctx c }
  fld : ∀ f i j, g.fld f i j = h.fld f i j
  gran : g.gran = h.gran

theorem setSt_enters (hp : h.fld F.HAY_STAT_PENDING c = 0) (st : CotState) : h.Enters c st (h.setSt c st) := by
  have e : (h.setSt c st).ctx c = h.entered c st := (ctx_setSt h c st c).trans (if_pos rfl)
  exact ⟨by rw [e]; rfl, by rw [e]; rfl, by rw [e]; rfl, by rw [e]; rfl, by rw [e, cot_setSt], fld_setSt_idle hp st,
    setSt_gran ..⟩

/-- So it is after a change of the context that leaves its beam, processor and Tally. -/
theorem Enters.of_modCtx {g : Hw} {st : CotState} {f : Context → Context} (e : (h.modCtx c f).Enters c st g)
    (frame : (f (h.ctx c)).frame = (h.ctx c).frame) (hob : (f (h.ctx c)).hob = (h.ctx c).hob)
    (tally : (f (h.ctx c)).tally = (h.ctx c).tally) : h.Enters c st g := by
  have m : (h.modCtx c f).ctx c = f (h.ctx c) := (ctx_modCtx h c f c).trans (if_pos rfl)
  refine ⟨e.st, e.frame.trans (m ▸ frame), e.hob.trans (m ▸ hob), e.tally.trans (m ▸ tally), ?_, e.fld, e.gran⟩
  rw [e.rest, cot_modCtx, if_pos rfl]

/-- A context that would enter THOLD enters HALT instead while a halt is pending (R36). -/
theorem toThold_enters (hp : h.fld F.HAY_STAT_PENDING c = 0) :
    h.Enters c (if h.flag F.COT_CTL_HALT c then .halt else .thold) (h.toThold c) := by
  unfold toThold
  dsimp only
  rw [flag_modCtx]
  split
  · exact ((setSt_enters (by exact hp) _).of_modCtx rfl rfl rfl).of_modCtx rfl rfl rfl
  · exact (setSt_enters (by exact hp) _).of_modCtx rfl rfl rfl

/-- The state in which a context leaves SNAP, which it entered from `was` with its Bell to come (R300). -/
def afterSnap (h : Hw) (c : Nat) (was : CotState) : CotState :=
  if was = .off then .off else if h.flag F.COT_CTL_HALT c then .halt else .thold

theorem leaveSnap_enters {was : CotState} (hp : h.fld F.HAY_STAT_PENDING c = 0)
    (hw : was = .off ∨ h.bellPassed c (h.ctx c).frame = false) : h.Enters c (h.afterSnap c was) (h.leaveSnap c was) := by
  by_cases off : was = .off
  · rw [leaveSnap, afterSnap, if_pos off, if_pos off]
    exact setSt_enters hp _
  · have ahead : ¬ (h.bellPassed c (h.ctx c).frame = true ∧ ¬ (h.ctx c).restored = true) := by
      rw [hw.resolve_left off]; exact fun passed => Bool.false_ne_true passed.1
    rw [leaveSnap, afterSnap, if_neg off, if_neg off, if_neg ahead]
    exact toThold_enters hp

theorem bellPassed_congr {g : Hw} (e : (g.ctx c).bellOfs = (h.ctx c).bellOfs)
    (r : g.fld F.BEL_COUNT_COUNT (c / 256) = h.fld F.BEL_COUNT_COUNT (c / 256)) (f : Nat) :
    g.bellPassed c f = h.bellPassed c f := by rw [bellPassed, bellNow, e, r]; rfl

/-- The end of a Hayloft command shows its code; the cottage stays but for the command, and so does the Granary. -/
theorem hayDone_says (h : Hw) (c : Nat) {code : Nat} (hc : code < 256) (signal : Bool) (x : Power) :
    let g := (h.hayDone c code signal).setPower x
    g.fld F.HAY_STAT_CODE c = code ∧ (g.cot c).hay = none ∧ (g.cot c).snaps = (h.cot c).snaps ∧ g.ctx c = h.ctx c ∧
      g.gran = h.gran := by
  simp only [fld_setPower, cot_setPower, ctx_setPower, setPower_gran, fld_hayDone_code, Nat.mod_eq_of_lt hc, cot_hayDone,
    ctx_hayDone, hayDone_gran, and_self]

/-- A Hayloft command ends in SNAP and its context leaves: CODE is shown, the command is gone, and the rest of the cottage is left
but for its state (R300, R301). -/
theorem leaveSnap_hayDone_says {was : CotState} (code : Nat) (signal : Bool)
    (hw : was = .off ∨ h.bellPassed c (h.ctx c).frame = false) : let g := (h.hayDone c code signal).leaveSnap c was
    g.fld F.HAY_STAT_CODE c = code % 256 ∧ (g.ctx c).st = h.afterSnap c was ∧ (g.ctx c).frame = (h.ctx c).frame ∧
      (g.ctx c).hob = (h.ctx c).hob ∧ (g.ctx c).tally = (h.ctx c).tally ∧
      g.cot c = { h.cot c with hay := none, ctx := g.ctx c } ∧ g.gran = h.gran := by
  have ctx := h.ctx_hayDone c code signal
  have kept (f : Fld) (i : Nat) (hr : recordReg f.reg = false) (hs : f.reg ≠ .HAY_STAT) :
      (h.hayDone c code signal).fld f i = h.fld f i := by rw [fld, reg_hayDone _ _ _ _ _ _ _ hr hs, fld]
  have bell : (h.hayDone c code signal).bellPassed c ((h.hayDone c code signal).ctx c).frame =
      h.bellPassed c (h.ctx c).frame := by
    rw [ctx, bellPassed_congr (h := h) (by rw [ctx]) (kept F.BEL_COUNT_COUNT (c / 256) rfl (by decide))]
  have halt : (h.hayDone c code signal).afterSnap c was = h.afterSnap c was := by
    rw [afterSnap, afterSnap, flag_congr (kept F.COT_CTL_HALT c rfl (by decide))]
  have left := leaveSnap_enters (h.fld_hayDone_pending c code signal) (was := was) (by rwa [bell])
  exact ⟨(left.fld ..).trans (h.fld_hayDone_code c code signal), left.st.trans halt, by rw [left.frame, ctx],
    by rw [left.hob, ctx], by rw [left.tally, ctx], by rw [left.rest, cot_hayDone], left.gran.trans (hayDone_gran ..)⟩

/-! ### Captures (R300) -/

theorem capturePoint_taken {x : HayCmd} (hy : (h.cot c).hay = some x) (op : x.op = 1) (hh : h.hayHolds c = true)
    (hs : (h.ctx c).st = .off ∨ (h.ctx c).st = .thold) (hr : h.captureReady c = true)
    (hq : (h.parish (c / 256)).captures.head? = some c) : h.capturePoint c .sound = h.captureNow c x.slot := by
  simp only [capturePoint, hy]
  rw [if_pos ⟨op, hh, hs, hr, hq⟩, mapFound]

/-- The block with the cottage's journal drained and its transfer settled, from which a capture copies (R251, R352). -/
def settled (h : Hw) (c : Nat) : Hw := (h.drainJournal c).carterSettle c (h.stamp c)

theorem carterSettle_says (h : Hw) (c : Nat) (t : Stamp) : let g := h.carterSettle c t
    g.ctx c = h.ctx c ∧ (g.cot c).loom = (h.cot c).loom ∧ (g.cot c).snaps = (h.cot c).snaps ∧
      ∀ n i j, g.reg n i j = h.reg n i j := by
  unfold carterSettle
  split
  · split
    · simp
    · exact ⟨rfl, rfl, rfl, fun _ _ _ => rfl⟩
  · exact ⟨rfl, rfl, rfl, fun _ _ _ => rfl⟩

theorem settled_says (h : Hw) (c : Nat) : let g := h.settled c
    g.ctx c = h.ctx c ∧ (g.cot c).loom = (h.cot c).loom ∧ (g.cot c).snaps = (h.cot c).snaps ∧
      ∀ n i j, n ≠ .CHR_VSTAT → g.reg n i j = h.reg n i j := by
  obtain ⟨ctx, loom, snaps, reg⟩ := (h.drainJournal c).carterSettle_says c (h.stamp c)
  refine ⟨ctx.trans ?_, loom.trans ?_, snaps.trans ?_, fun n i j hn => (reg n i j).trans ?_⟩
  · simp [drainJournal]
  · simp [drainJournal]
  · simp [drainJournal]
  · rw [drainJournal, reg_setFld_reg _ _ _ _ _ _ _ _ (Ne.symm hn), reg_modChoir]

/-- The block with the capture in slot k: the frames that it names are held, and the snapshot that it replaces is dropped. -/
def captured (h : Hw) (c k : Nat) (slab : Nat × Nat) : Hw :=
  let p := (h.settled c).takeSnapshot c slab
  (((h.settled c).each (snapFrames p) fun h f => h.addRef f false).dropSnap c k).setSnap c k (some p)

theorem captured_says (hk : k < (h.cot c).snaps.length) (slab : Nat × Nat) : let g := h.captured c k slab
    g.ctx c = h.ctx c ∧ g.snap c k = some ((h.settled c).takeSnapshot c slab) ∧
      ∀ n i j, n.desc.blk ≠ .GRN → n ≠ .CHR_VSTAT → g.reg n i j = h.reg n i j := by
  obtain ⟨ctx, -, snaps, reg⟩ := h.settled_says c
  have held := GranOnly.each (fun g f => g.addRef f false) (fun g f => .addRef g f false)
    (snapFrames ((h.settled c).takeSnapshot c slab)) (h.settled c)
  generalize hg : (h.settled c).each (snapFrames ((h.settled c).takeSnapshot c slab)) (fun g f => g.addRef f false) = g at held
  have dropped := g.cot_dropSnap c k
  simp only [captured, hg]
  refine ⟨?_, snap_setSnap _ _ _ _ ?_, fun n i j hn hv => ?_⟩
  · rw [setSnap, Hw.ctx, cot_setCot, if_pos rfl, dropped]
    exact (held.ctx c).trans ctx
  · rw [dropped, held.cot, snaps]
    split
    · rwa [List.length_set]
    · exact hk
  · have emptied : (if (g.snap c k).isSome = true then g.setSnap c k none else g).reg n i j = g.reg n i j := by split <;> rfl
    exact ((((GranOnly.dropSnap g c k).reg n i j hn).trans emptied).trans (held.reg n i j hn)).trans (reg n i j hv)

theorem captureNow_held {slab : Nat × Nat} {g : Hw}
    (ha : (h.setSt c .snap).allocSlab (((h.setSt c .snap).ownerOf c).getD 0) = (some slab, g)) :
    h.captureNow c k = ((g.captured c k slab).hayDone c 0 true).leaveSnap c (h.ctx c).st := by
  simp only [captureNow, inSnap, ha]
  rfl

theorem captureNow_refused {g : Hw}
    (ha : (h.setSt c .snap).allocSlab (((h.setSt c .snap).ownerOf c).getD 0) = (none, g)) :
    h.captureNow c k = (g.hayDone c 0x03 true).leaveSnap c (h.ctx c).st := by
  simp only [captureNow, inSnap, ha]

/-- As the slab is taken in SNAP, the cottage has only entered that state, and registers outside the Granary stay but for
HAY_STAT. -/
theorem allocSlab_inSnap {o : Nat} {b : Option (Nat × Nat)} {g : Hw} (ha : (h.setSt c .snap).allocSlab o = (b, g)) :
    g.cot c = { h.cot c with ctx := h.entered c .snap } ∧
      ∀ n i j, n.desc.blk ≠ .GRN → n ≠ .HAY_STAT → g.reg n i j = h.reg n i j := by
  have only : GranOnly g (h.setSt c .snap) := by simpa only [ha] using GranOnly.allocSlab (h.setSt c .snap) o
  exact ⟨(only.cot c).trans (cot_setSt h c .snap), fun n i j hn hs => (only.reg n i j hn).trans (reg_setSt h c .snap n i j hs)⟩

/-- What a capture copies of a context that waited in OFF or THOLD. -/
theorem takeSnapshot_inSnap {o : Nat} {b : Option (Nat × Nat)} {g : Hw}
    (ha : (h.setSt c .snap).allocSlab o = (b, g)) (slab : Nat × Nat) : let p := (g.settled c).takeSnapshot c slab
    p.frame = (h.ctx c).frame ∧ p.vc = (h.ctx c).vc ∧ p.hob = (h.ctx c).hob ∧ p.tally = (h.ctx c).tally ∧
      p.nextSeq = (h.ctx c).nextSeq ∧ p.vreg = (h.cot c).loom.vreg ∧ p.pal = (h.cot c).loom.pal ∧ p.slab = slab := by
  obtain ⟨cot, -⟩ := allocSlab_inSnap ha
  obtain ⟨settledCtx, settledLoom, -, -⟩ := g.settled_says c
  have ctx : (g.settled c).ctx c = h.entered c .snap := by rw [settledCtx, Hw.ctx, cot]
  have loom : ((g.settled c).cot c).loom = (h.cot c).loom := by rw [settledLoom, cot]
  simp only [takeSnapshot, ctx, loom, and_true]
  exact ⟨rfl, rfl, rfl, rfl, rfl⟩

/-- A capture with a slab leaves its snapshot and ends with code 0; its context leaves SNAP as it came (R300). -/
theorem captureNow_held_says {slab : Nat × Nat} {g : Hw} (hk : k < (h.cot c).snaps.length)
    (hs : (h.ctx c).st = .off ∨ h.bellPassed c (h.ctx c).frame = false)
    (ha : (h.setSt c .snap).allocSlab (((h.setSt c .snap).ownerOf c).getD 0) = (some slab, g)) :
    let r := h.captureNow c k
    r.fld F.HAY_STAT_CODE c = 0 ∧ (r.cot c).hay = none ∧ (r.ctx c).st = h.afterSnap c (h.ctx c).st ∧
      (r.ctx c).frame = (h.ctx c).frame ∧ (r.ctx c).hob = (h.ctx c).hob ∧ (r.ctx c).tally = (h.ctx c).tally ∧
      r.snap c k = some ((g.settled c).takeSnapshot c slab) := by
  obtain ⟨cot, reg⟩ := allocSlab_inSnap ha
  obtain ⟨capturedCtx, snap, capturedReg⟩ := captured_says (h := g) (c := c) (k := k) (by rw [cot]; exact hk) slab
  have ctx : (g.captured c k slab).ctx c = h.entered c .snap := by rw [capturedCtx, Hw.ctx, cot]
  have kept (f : Fld) (i : Nat) (hg : f.reg.desc.blk ≠ .GRN) (hv : f.reg ≠ .CHR_VSTAT) (hs : f.reg ≠ .HAY_STAT) :
      (g.captured c k slab).fld f i = h.fld f i := by rw [fld, capturedReg _ _ _ hg hv, reg _ _ _ hg hs, fld]
  have bell : (g.captured c k slab).bellPassed c ((g.captured c k slab).ctx c).frame = h.bellPassed c (h.ctx c).frame := by
    rw [bellPassed_congr (h := h) (by rw [ctx]; rfl)
      (kept F.BEL_COUNT_COUNT (c / 256) (by decide) (by decide) (by decide)), ctx]
    rfl
  have halt : (g.captured c k slab).afterSnap c (h.ctx c).st = h.afterSnap c (h.ctx c).st := by
    rw [afterSnap, afterSnap, flag_congr (kept F.COT_CTL_HALT c (by decide) (by decide) (by decide))]
  obtain ⟨code, st, frame, hob, tally, rest, -⟩ :=
    leaveSnap_hayDone_says (h := g.captured c k slab) (was := (h.ctx c).st) 0 true (by rwa [bell])
  rw [captureNow_held ha]
  exact ⟨code, by rw [rest], st.trans halt, by rw [frame, ctx]; rfl, by rw [hob, ctx]; rfl, by rw [tally, ctx]; rfl,
    by rw [Hw.snap, rest]; exact snap⟩

/-- A capture of an OFF context that gets no slab ends with code 3 and leaves the snapshots as they are (R300). -/
theorem captureNow_refused_says {g : Hw} (hs : (h.ctx c).st = .off)
    (ha : (h.setSt c .snap).allocSlab (((h.setSt c .snap).ownerOf c).getD 0) = (none, g)) : let r := h.captureNow c k
    r.fld F.HAY_STAT_CODE c = 3 ∧ (r.cot c).hay = none ∧ (r.cot c).snaps = (h.cot c).snaps ∧ (r.ctx c).st = .off ∧
      r.gran = g.gran := by
  obtain ⟨cot, -⟩ := allocSlab_inSnap ha
  obtain ⟨code, st, -, -, -, rest, gran⟩ := leaveSnap_hayDone_says (h := g) (c := c) 3 true (.inl hs)
  rw [captureNow_refused ha]
  exact ⟨code, by rw [rest], by rw [rest, cot], st.trans (if_pos hs), gran⟩

/-! ### Restores (R301, R311) -/

theorem restoreTaken_taken {x : HayCmd} (hy : (h.cot c).hay = some x) (op : x.op = 2) (hh : h.hayHolds c = true)
    (hs : (h.ctx c).st = .off ∨ (h.ctx c).st = .thold ∨ (h.ctx c).st = .cont) (hr : h.restoreReady c = true) (ecc : Bool) :
    h.restoreTaken c ecc .sound = if ecc && (h.snap c x.slot).isSome then
      ((h.raiseCot 0 .HAY 0x07 c (detailOf .HAY [0x07, c, x.slot])).dropSnap c x.slot).restoreNow c x.slot
      else h.restoreNow c x.slot := by
  simp only [restoreTaken, hy]
  rw [if_pos ⟨op, hh, hs, hr⟩, mapFound]

/-- A dropped snapshot leaves its slot empty and the context as it is (R302). -/
theorem dropSnap_says (hk : k < (h.cot c).snaps.length) :
    (h.dropSnap c k).snap c k = none ∧ (h.dropSnap c k).ctx c = h.ctx c := by
  have dropped := h.cot_dropSnap c k
  refine ⟨?_, by rw [Hw.ctx, dropped]; rfl⟩
  rw [Hw.snap, dropped]
  split
  next full => simp [hk]
  next empty => simpa [Hw.snap] using empty

/-- A RESTORE whose snapshot has been dropped ends with code 2 (R311). -/
theorem restoreNow_dropSnap (hk : k < (h.cot c).snaps.length) (hs : (h.ctx c).st ≠ .thold) :
    (h.dropSnap c k).restoreNow c k = (h.dropSnap c k).hayDone c 0x02 true := by
  obtain ⟨empty, ctx⟩ := dropSnap_says hk
  simp only [restoreNow, empty, ctx_hayDone, ctx, if_neg hs]

/-- The block in which a snapshot's Tally entries are applied: in SNAP, with the snapshot's state (R301 steps 2 to 4). -/
def restored (h : Hw) (c : Nat) (x : Snapshot) : Hw :=
  (((h.setSt c .snap).cacheForget c).restoreMap c x).restoreState c x ((h.ctx c).st ≠ .off)

theorem restoreNow_applied {x : Snapshot} {g : Hw} (hx : h.snap c k = some x)
    (ha : applyAll x.tally (h.restored c x) c true = (.ok, g)) :
    h.restoreNow c k = (g.hayDone c 0 true).leaveSnap c (h.ctx c).st := by
  rw [restored] at ha
  simp only [restoreNow, hx, ha, if_true]

theorem restoreState_says (h : Hw) (c : Nat) (x : Snapshot) (started : Bool) : let g := h.restoreState c x started
    (g.ctx c).frame = x.frame ∧ (g.ctx c).hob = { x.hob with dirTable := [], indTable := [], hist := 0 } ∧
      (g.ctx c).inq = [] ∧ (g.ctx c).tally = x.tally ∧ (g.cot c).loom.vreg = x.vreg ∧ (g.cot c).loom.pal = x.pal ∧
      (g.ctx c).st = (h.ctx c).st := by
  simp [restoreState, audioDisc]

theorem cacheForget_cots (h : Hw) (c : Nat) : (h.cacheForget c).cots = h.cots := by
  unfold cacheForget
  split <;> rfl

theorem restoreMap_cots (h : Hw) (c : Nat) (x : Snapshot) : (h.restoreMap c x).cots = h.cots := by
  unfold restoreMap
  dsimp only
  rw [each_keeps (·.cots) _ (fun _ _ => dropRef_cots _ _ _), setReg_cots, each_keeps (·.cots) _ (fun _ _ => setReg_cots _ _ _ _ _),
    each_keeps (·.cots) _ (fun _ _ => addRef_cots _ _ _)]

theorem restored_says (h : Hw) (c : Nat) (x : Snapshot) : let g := h.restored c x
    (g.ctx c).frame = x.frame ∧ (g.ctx c).hob = { x.hob with dirTable := [], indTable := [], hist := 0 } ∧
      (g.ctx c).inq = [] ∧ (g.ctx c).tally = x.tally ∧ (g.cot c).loom.vreg = x.vreg ∧ (g.cot c).loom.pal = x.pal ∧
      (g.ctx c).st = .snap := by
  have entered : (((h.setSt c .snap).cacheForget c).restoreMap c x).ctx c = h.entered c .snap := by
    rw [Hw.ctx, Hw.cot, restoreMap_cots, cacheForget_cots]
    exact (ctx_setSt h c .snap c).trans (if_pos rfl)
  rw [restored]
  generalize ((h.setSt c .snap).cacheForget c).restoreMap c x = g at entered
  obtain ⟨frame, hob, inq, tally, vreg, pal, st⟩ := g.restoreState_says c x ((h.ctx c).st ≠ .off)
  exact ⟨frame, hob, inq, tally, vreg, pal, st.trans (congrArg Context.st entered)⟩

/-! ### Images (R303, R305) -/

theorem exportDone_ends {x : HayCmd} {p : Snapshot} (hy : (h.cot c).hay = some x) (op : x.op = 4)
    (hx : h.snap c x.slot = some p) (hi : h.imageIssues c x = true) (hl : (h.imageOf c p).length ≤ x.len)
    (hr : h.hayRange c x (h.imageOf c p).length = true) :
    let o := (h.ownerOf c).getD 0
    let sp := (imagePlace x).1
    let a := (imagePlace x).2
    h.exportDone c none = ((h.commonsWrite o sp (a + 8) ((h.imageOf c p).drop 8)).commonsWrite o sp a
      ((h.imageOf c p).take 8)).hayDone c 0 true ∧
    ∀ n, h.exportDone c (some n) = ((h.commonsWrite o sp (a + 8) (((h.imageOf c p).drop 8).take n)).aerRead (o / 129)
      .unsuccessful).hayDone c 7 true := by
  refine ⟨?_, fun n => ?_⟩ <;>
    simp only [exportDone, hy, op, hi, hx, Nat.min_eq_right hl, hr, Nat.not_lt.2 hl, and_self, if_true, Bool.not_true,
      Bool.false_eq_true, if_false, Nat.add_zero]

theorem importDone_taken {x : HayCmd} (hy : (h.cot c).hay = some x) (op : x.op = 5) (hi : h.imageIssues c x = true)
    (how : ReadEnd) : h.importDone c how = if how = .ok then (h.importNow c x).2.hayDone c (h.importNow c x).1 true
      else (h.aerRead ((h.portOf c).getD 0) how).hayDone c 0x07 true := by
  simp only [importDone, hy, op, hi, and_self, if_true]

end Sys2Proof.Machine.Hw

namespace Sys2Proof

open Sys2Proof.Machine

/-- Settles O19: captures and restores by how their contexts leave SNAP (`leaveSnap_hayDone_says`), a restored block by
`restored_says`, images by the equations of their ends. Of the video memory that its words name, the statement asserts the
snapshot's registers and palette; it has no clause for the video RAM entry. -/
theorem hayloftCompletions : Obligations.HayloftCompletions := by
  refine ⟨fun s c k slab g a hy op hh hr hk hq hs ha => ?captured, fun s c k g a hy op hh hr hq hs ha => ?refused,
    fun s c k x a hy op hh hr hs hx hk => ?uncorrectable, fun s c k x a hy op hh hr hs hx => ?restored,
    fun s c k x a hy op hx hi hl hr => ?exported, fun s c k a hy op hi => ⟨fun code g hg hc => ?imported, fun how hf => ?unread⟩⟩
  case captured =>
    refine completes_live (f := (·.capturePoint c .sound)) rfl a ?_
    rw [Hw.capturePoint_taken hy op hh (hs.imp_right (·.1)) hr hq]
    obtain ⟨code, hay, st, frame, hob, tally, snap⟩ := Hw.captureNow_held_says hk (hs.imp_right (·.2.2)) ha
    exact ⟨code, hay, st, frame, hob, tally, _, snap, Hw.takeSnapshot_inSnap ha slab⟩
  case refused =>
    refine completes_live (f := (·.capturePoint c .sound)) rfl a ?_
    rw [Hw.capturePoint_taken hy op hh (.inl hs) hr hq]
    exact Hw.captureNow_refused_says hs ha
  case uncorrectable =>
    refine completes_live (f := (·.restoreTaken c true .sound)) rfl a ?_
    rw [Hw.restoreTaken_taken hy op hh (.inl hs) hr, if_pos (by simp [hx])]
    generalize hg : s.hw.raiseCot 0 .HAY 0x07 c _ = g
    have cot : g.cot c = s.hw.cot c := by rw [← hg, Hw.cot_raiseCot]
    have ctx : g.ctx c = s.hw.ctx c := by rw [← hg, Hw.ctx_raiseCot]
    obtain ⟨empty, dropped⟩ := Hw.dropSnap_says (h := g) (c := c) (k := k.slot) (by rwa [cot])
    rw [Hw.restoreNow_dropSnap (by rwa [cot]) (by rw [ctx, hs]; decide)]
    obtain ⟨code, hay, snaps, stands, -⟩ := (g.dropSnap c k.slot).hayDone_says c (code := 2) (by decide) true _
    exact ⟨code, hay, by rw [Hw.snap, snaps]; exact empty, stands.trans (dropped.trans ctx)⟩
  case restored =>
    obtain ⟨frame, hob, inq, tally, vreg, pal, st⟩ := s.hw.restored_says c x
    refine ⟨s.hw.restored c x, frame, hob, inq, tally, vreg, pal, st, fun g ha => ?_⟩
    refine completesAs_live (f := (·.restoreTaken c false .sound)) rfl a ?_
    rw [Hw.restoreTaken_taken hy op hh hs hr, if_neg (by simp), Hw.restoreNow_applied hx ha]
  case exported =>
    obtain ⟨written, failed⟩ := Hw.exportDone_ends hy op hx hi hl hr
    refine ⟨completesAs_live (f := (·.exportDone c none)) rfl a written, fun n => ?_⟩
    refine completes_live (f := (·.exportDone c (some n))) rfl a ?_
    rw [failed n]
    obtain ⟨code, hay, -⟩ := Hw.hayDone_says _ c (code := 7) (by decide) true _
    exact ⟨code, hay⟩
  case imported =>
    refine completes_live (f := (·.importDone c .ok)) rfl a ?_
    rw [Hw.importDone_taken hy op hi, if_pos rfl, hg]
    obtain ⟨shown, hay, snaps, -, gran⟩ := g.hayDone_says c hc true _
    exact ⟨shown, hay, by rw [Hw.snap, snaps]; rfl, gran⟩
  case unread =>
    refine completes_live (f := (·.importDone c how)) rfl a ?_
    obtain ⟨out, e⟩ := s.hw.aerRead_out ((s.hw.portOf c).getD 0) how
    rw [Hw.importDone_taken hy op hi, if_neg hf, e]
    obtain ⟨code, hay, snaps, -, gran⟩ := Hw.hayDone_says _ c (code := 7) (by decide) true _
    exact ⟨code, hay, snaps, gran⟩

end Sys2Proof

/-! SUPPORT. The Larder's banks: retention, wakes, and an access alone at its bank (R315 to R318). -/

namespace Sys2Proof.Machine

/-- A number with one bit replaced. -/
theorem bit_setBits_b2n (n q k : Nat) (on : Bool) : bit (setBits n q q (b2n on)) k = if k = q then on else bit n k := by
  rw [bit_eq_testBit, bit_eq_testBit, setBits_testBit _ _ _ _ _ (Nat.le_refl q)]
  by_cases e : k = q
  · subst e; cases on <;> simp [b2n]
  · rw [if_neg (by omega), if_neg e]

namespace Hw

variable {h : Hw} {n b : Nat}

/-- An effect repeated over a list, of which only the turn at b touches what φ shows, acts on it as that turn alone. -/
theorem each_once {α β : Type} {φ : Hw → β} {f : Hw → α → Hw} {t : β → β} {b : α} {l : List α}
    (off : ∀ h a, a ≠ b → φ (f h a) = φ h) (on : ∀ h, φ (f h b) = t (φ h)) (once : l.Nodup) (hb : b ∈ l) :
    ∀ h : Hw, φ (h.each l f) = t (φ h) := by
  induction l with
  | nil => cases hb
  | cons a l ih =>
    intro h
    obtain ⟨new, once⟩ := List.nodup_cons.1 once
    rcases List.mem_cons.1 hb with rfl | hb
    · have rest : φ ((f h b).each l f) = φ (f h b) :=
        each_keeps_mem φ f l (fun a ha g => off g a fun e => new (e ▸ ha)) (f h b)
      exact rest.trans (on h)
    · exact (ih once hb (f h a)).trans (congrArg t (off h a fun e => new (e ▸ hb)))

/-! ### What an event of the banks leaves alone -/

/-- g differs from h at most in which banks rest or wake and who waits at them: the words, their poison and the last error's place
stand. -/
structure BanksOnly (g h : Hw) : Prop where
  errPos : ∀ i j, g.reg .LRD_ERR_POS i j = h.reg .LRD_ERR_POS i j
  larder : ∀ m, (g.parish m).larder = (h.parish m).larder
  poisoned : ∀ m, (g.parish m).poisoned = (h.parish m).poisoned
  cots : g.cots = h.cots
  mem : g.mem = h.mem
  gran : g.gran = h.gran
  out : g.out = h.out

namespace BanksOnly

theorem refl (h : Hw) : BanksOnly h h := by constructor <;> intros <;> rfl

theorem trans {g h k : Hw} (a : BanksOnly g h) (b : BanksOnly h k) : BanksOnly g k where
  errPos i j := (a.errPos i j).trans (b.errPos i j)
  larder m := (a.larder m).trans (b.larder m)
  poisoned m := (a.poisoned m).trans (b.poisoned m)
  cots := a.cots.trans b.cots
  mem := a.mem.trans b.mem
  gran := a.gran.trans b.gran
  out := a.out.trans b.out

theorem setReg (h : Hw) {r : RegName} (hr : r ≠ .LRD_ERR_POS) (i j : Nat) (v : BitVec 64) :
    BanksOnly (h.setReg r i j v) h := by
  constructor
  · exact fun i' j' => reg_setReg_ne _ _ _ _ _ _ _ _ fun e => hr e.1
  all_goals intros; rfl

theorem modParish (h : Hw) (n : Nat) {f : Parish → Parish} (hl : (f (h.parish n)).larder = (h.parish n).larder)
    (hp : (f (h.parish n)).poisoned = (h.parish n).poisoned) : BanksOnly (h.modParish n f) h := by
  constructor
  · exact fun _ _ => rfl
  · intro m; rw [parish_modParish]; split
    · subst m; exact hl
    · rfl
  · intro m; rw [parish_modParish]; split
    · subst m; exact hp
    · rfl
  all_goals rfl

theorem each {α : Type} {f : Hw → α → Hw} (k : ∀ h a, BanksOnly (f h a) h) (l : List α) :
    ∀ h : Hw, BanksOnly (h.each l f) h := by
  induction l with
  | nil => exact refl
  | cons a l ih => exact fun h => (ih (f h a)).trans (k h a)

theorem ite (c : Prop) [Decidable c] {a b h : Hw} (ha : BanksOnly a h) (hb : BanksOnly b h) :
    BanksOnly (if c then a else b) h := by split <;> assumption

theorem setPower (h : Hw) (p : Power) : BanksOnly (h.setPower p) h := by constructor <;> intros <;> rfl

theorem bankWakes (h : Hw) (n b : Nat) : BanksOnly (h.bankWakes n b) h := ite _ (modParish h n rfl rfl) (refl h)

theorem bankRests (h : Hw) (n b : Nat) : BanksOnly (h.bankRests n b) h :=
  (modParish _ n rfl rfl).trans (setReg h (by decide) _ _ _)

theorem bankWake (h : Hw) (n b : Nat) : BanksOnly (h.bankWake n b) h :=
  ite _ (((setReg _ (by decide) _ _ _).trans (setReg _ (by decide) _ _ _)).trans (modParish h n rfl rfl)) (refl h)

end BanksOnly

/-! ### The state of one bank (R317) -/

/-- What stands of one bank: it is in retention, it wakes, the wake awaits an access, retention is owed after that access. -/
structure LarderBank where
  retained : Bool
  waking : Bool
  awaited : Bool
  retiring : Bool

/-- Bank b of parish n in the block. -/
def larderBank (h : Hw) (n b : Nat) : LarderBank :=
  ⟨h.retained n b, decide (b ∈ (h.parish n).banksWaking), decide (b ∈ (h.parish n).banksAwaited),
    decide (b ∈ (h.parish n).banksRetiring)⟩

theorem retained_setRetained (hb : b < 64) (k : Nat) (on : Bool) :
    (h.setRetained n k on).retained n b = if b = k then on else h.retained n b := by
  rw [retained, setRetained, reg_setReg_same, BitVec.toNat_ofNat, bit_mod hb, bit_setBits_b2n, retained]

theorem retained_bankWakes (k : Nat) : (h.bankWakes n k).retained n b = h.retained n b := by
  unfold bankWakes; split <;> rfl

/-- A bank begins its wake if it is in retention. -/
theorem larderBank_bankWakes (k : Nat) : (h.bankWakes n k).larderBank n b =
    if b = k then { h.larderBank n b with waking := h.retained n b || (h.larderBank n b).waking } else h.larderBank n b := by
  rw [larderBank, retained_bankWakes, bankWakes]
  by_cases e : b = k
  · subst e
    cases hr : h.retained n b <;> by_cases hw : b ∈ (h.parish n).banksWaking <;> simp [larderBank, hr, hw]
  · split <;> simp [larderBank, e]

theorem larderBank_bankRests (hb : b < 64) (k : Nat) : (h.bankRests n k).larderBank n b =
    if b = k then { h.larderBank n b with retained := true, waking := false, retiring := false } else h.larderBank n b := by
  have shown : (h.bankRests n k).retained n b = if b = k then true else h.retained n b := retained_setRetained hb k true
  rw [larderBank, shown]
  by_cases e : b = k <;> simp [bankRests, setRetained, larderBank, e]

/-- A wake that was begun is over. -/
theorem larderBank_bankWake (hb : b < 64) (hw : b ∈ (h.parish n).banksWaking) : (h.bankWake n b).larderBank n b =
    { h.larderBank n b with retained := false, waking := false } := by
  have shown : (h.bankWake n b).retained n b = false := by
    rw [bankWake, if_pos (by simpa using hw), retained, count, reg_setFld_reg _ _ _ _ _ _ _ _ (by decide)]
    exact (retained_setRetained hb b false).trans (if_pos rfl)
  rw [larderBank, shown]
  simp [bankWake, hw, larderBank, setRetained, count, setFld]

/-! ### A write of LRD_RET (R317) -/

/-- What its bit of a write of LRD_RET makes of a bank. -/
def LarderBank.told (on : Bool) (k : LarderBank) : LarderBank :=
  if on then
    if k.awaited then { k with retiring := true } else { k with retained := true, waking := false, retiring := false }
  else { k with retiring := false, waking := k.retained || k.waking }

/-- Retention of bank b is owed. -/
def owesRetention (h : Hw) (n b : Nat) : Hw :=
  h.modParish n fun p => { p with banksRetiring := p.banksRetiring.filter (· ≠ b) ++ [b] }

/-- Retention of bank b is owed no longer. -/
def dropsRetention (h : Hw) (n b : Nat) : Hw :=
  h.modParish n fun p => { p with banksRetiring := p.banksRetiring.filter (· ≠ b) }

/-- The turn of bank b in a write of LRD_RET. -/
def tellBank (n : Nat) (v : DWord) (h : Hw) (b : Nat) : Hw :=
  if bit v.toNat b then
    if (h.parish n).banksAwaited.contains b then h.owesRetention n b else h.bankRests n b
  else (h.dropsRetention n b).bankWakes n b

theorem retentionWrite_taken {ag : Agent} {v : DWord} (hs : h.sees ag .LRD_RET n 0 = true)
    (hl : h.changesLocked ag .LRD_RET n 0 v.toNat = false) : h.retentionWrite ag n v =
      (h.storeFields .LRD_RET n 0 v.toNat).each (List.range 64) (tellBank n v) := guarded_ok _ _ _ _ _ _ _ _ hs hl rfl

theorem BanksOnly.tellBank (n : Nat) (v : DWord) (h : Hw) (b : Nat) : BanksOnly (h.tellBank n v b) h :=
  ite _ (ite _ (modParish h n rfl rfl) (bankRests h n b)) ((bankWakes _ n b).trans (modParish h n rfl rfl))

theorem larderBank_owesRetention (k : Nat) : (h.owesRetention n k).larderBank n b =
    if b = k then { h.larderBank n b with retiring := true } else h.larderBank n b := by
  by_cases e : b = k <;> simp [owesRetention, larderBank, retained, e]

theorem larderBank_dropsRetention (k : Nat) : (h.dropsRetention n k).larderBank n b =
    if b = k then { h.larderBank n b with retiring := false } else h.larderBank n b := by
  by_cases e : b = k <;> simp [dropsRetention, larderBank, retained, e]

theorem larderBank_tellBank (hb : b < 64) (v : DWord) (h : Hw) (k : Nat) : (tellBank n v h k).larderBank n b =
    if b = k then (h.larderBank n b).told (bit v.toNat b) else h.larderBank n b := by
  by_cases e : b = k
  · subst e
    rw [tellBank, LarderBank.told, if_pos rfl]
    split
    · by_cases hw : b ∈ (h.parish n).banksAwaited
      · rw [if_pos (by simpa using hw), larderBank_owesRetention, if_pos rfl, if_pos (by simpa [larderBank] using hw)]
      · rw [if_neg (by simpa using hw), larderBank_bankRests hb, if_pos rfl, if_neg (by simpa [larderBank] using hw)]
    · rw [larderBank_bankWakes, if_pos rfl, larderBank_dropsRetention, if_pos rfl]; rfl
  · rw [if_neg e, tellBank]
    split
    · split
      · rw [larderBank_owesRetention, if_neg e]
      · rw [larderBank_bankRests hb, if_neg e]
    · rw [larderBank_bankWakes, if_neg e, larderBank_dropsRetention, if_neg e]

/-- A write of LRD_RET tells each bank its bit. -/
theorem larderBank_retentionWrite {ag : Agent} {v : DWord} (hs : h.sees ag .LRD_RET n 0 = true)
    (hl : h.changesLocked ag .LRD_RET n 0 v.toNat = false) (hb : b < 64) :
    (h.retentionWrite ag n v).larderBank n b = (h.larderBank n b).told (bit v.toNat b) := by
  rw [retentionWrite_taken hs hl]
  have stored : (h.storeFields .LRD_RET n 0 v.toNat).larderBank n b = h.larderBank n b := by
    rw [larderBank, retained, storeFields, reg_setReg_ne _ _ _ _ _ _ _ _ (by simp)]; rfl
  rw [← stored]
  exact each_once (φ := (·.larderBank n b)) (t := (·.told (bit v.toNat b)))
    (fun h k e => (larderBank_tellBank hb v h k).trans (if_neg e.symm))
    (fun h => (larderBank_tellBank hb v h b).trans (if_pos rfl)) List.nodup_range (List.mem_range.2 hb) _

section
variable {ag : Agent} {v : DWord} (hs : h.sees ag .LRD_RET n 0 = true) (hl : h.changesLocked ag .LRD_RET n 0 v.toNat = false)
include hs hl

/-- A 1 sends a bank whose wake awaits no access to retention at once. -/
theorem retentionWrite_retains (hb : b < 64) (on : bit v.toNat b = true) (hw : b ∉ (h.parish n).banksAwaited) :
    let g := h.retentionWrite ag n v
    g.retained n b = true ∧ b ∉ (g.parish n).banksWaking := by
  have told := larderBank_retentionWrite hs hl hb
  rw [LarderBank.told, if_pos on, if_neg (by simpa [larderBank] using hw)] at told
  exact ⟨congrArg LarderBank.retained told, of_decide_eq_false (congrArg LarderBank.waking told)⟩

/-- A 1 leaves a bank whose wake awaits an access as it shows itself; its retention is owed. -/
theorem retentionWrite_owes (hb : b < 64) (on : bit v.toNat b = true) (hw : b ∈ (h.parish n).banksAwaited) :
    let g := h.retentionWrite ag n v
    g.retained n b = h.retained n b ∧ b ∈ (g.parish n).banksRetiring := by
  have told := larderBank_retentionWrite hs hl hb
  rw [LarderBank.told, if_pos on, if_pos (by simpa [larderBank] using hw)] at told
  exact ⟨congrArg LarderBank.retained told, of_decide_eq_true (congrArg LarderBank.retiring told)⟩

/-- A 0 wakes a bank in retention, which shows its retention meanwhile; no retention is owed. -/
theorem retentionWrite_wakes (hb : b < 64) (off : bit v.toNat b = false) : let g := h.retentionWrite ag n v
    g.retained n b = h.retained n b ∧ b ∉ (g.parish n).banksRetiring ∧
      (h.retained n b = true → b ∈ (g.parish n).banksWaking) := by
  have told := larderBank_retentionWrite hs hl hb
  rw [LarderBank.told, if_neg (by simp [off])] at told
  refine ⟨congrArg LarderBank.retained told, of_decide_eq_false (congrArg LarderBank.retiring told), fun hr => ?_⟩
  have woken : decide (b ∈ ((h.retentionWrite ag n v).parish n).banksWaking) = _ := congrArg LarderBank.waking told
  exact of_decide_eq_true (woken.trans (by simp [larderBank, hr]))

end

theorem BanksOnly.retentionWrite {ag : Agent} {v : DWord} (hs : h.sees ag .LRD_RET n 0 = true)
    (hl : h.changesLocked ag .LRD_RET n 0 v.toNat = false) : BanksOnly (h.retentionWrite ag n v) h := by
  rw [retentionWrite_taken hs hl]
  exact (each (tellBank n v) _ _).trans (setReg h (by decide) _ _ _)

/-! ### An access to a bank in retention (R317) -/

theorem bankWakes_regs : (h.bankWakes n b).regs = h.regs := by unfold bankWakes; split <;> rfl

/-- It begins the bank's wake, which awaits it, and is not served. -/
theorem larderBankAccess_retained {accs : List LarderAcc} (ho : h.bankOrder n b (h.bankAccs n b accs) ≠ [])
    (hr : h.retained n b = true) : let g := h.larderBankAccess n b accs
    b ∈ (g.parish n).banksWaking ∧ b ∈ (g.parish n).banksAwaited ∧ g.regs = h.regs ∧ BanksOnly g h := by
  have wakes : b ∈ ((h.bankWakes n b).parish n).banksWaking := by
    have k := congrArg LarderBank.waking (larderBank_bankWakes (h := h) (n := n) (b := b) b)
    rw [if_pos rfl, hr] at k
    exact of_decide_eq_true k
  have waits : h.larderBankAccess n b accs =
      (h.bankWakes n b).modParish n fun p => { p with banksAwaited := p.banksAwaited.filter (· ≠ b) ++ [b] } := by
    rw [larderBankAccess, if_neg (by simpa using ho), if_pos hr]
  rw [waits]
  exact ⟨by simpa using wakes, by simp, bankWakes_regs, (BanksOnly.modParish _ n rfl rfl).trans (BanksOnly.bankWakes h n b)⟩

/-! ### An access alone at an awake bank (R315, R318) -/

/-- The table of stalls after a CCLK in which bank b stalled nobody. -/
def noStalls (b : Nat) (t : NTable Nat) : NTable Nat := (List.range 7).foldl (fun t r => NTable.set 0 t (8 * b + r) 0) t

/-- The block once bank b has served all that came to it: no stall, no access awaited. -/
def servedAll (h : Hw) (n b : Nat) : Hw :=
  ((h.modParish n fun p => { p with bankStalls := noStalls b p.bankStalls }).countWrap F.LRD_CNT_CONF_CONF n 0 0).modParish n
    fun p => { p with banksAwaited := p.banksAwaited.filter (· ≠ b) }

/-- What follows an access that met no other at bank b: the retention that was owed. -/
def aloneEnds (h : Hw) (n b : Nat) : Hw :=
  if ((h.servedAll n b).parish n).banksRetiring.contains b then (h.servedAll n b).bankRests n b else h.servedAll n b

theorem BanksOnly.servedAll (h : Hw) (n b : Nat) : BanksOnly (h.servedAll n b) h :=
  ((modParish _ n rfl rfl).trans (setReg _ (by decide) _ _ _)).trans (modParish h n rfl rfl)

theorem BanksOnly.aloneEnds (h : Hw) (n b : Nat) : BanksOnly (h.aloneEnds n b) h :=
  ite _ ((bankRests _ n b).trans (servedAll h n b)) (servedAll h n b)

theorem bankAccs_alone {w : Nat} {x : LarderAcc} (hw : h.larderAt n b x.place = some w) :
    h.bankAccs n b [x] = [⟨x.req, w, x.op⟩] := by simp [bankAccs, hw]

/-- Of the requesters in their fixed order, the one that accesses is found. -/
theorem sorted_alone {a : BankAcc} (ha : a.req < 7) :
    ((List.range 7).filterMap fun r => [a].find? fun x => x.req == r) = [a] := by
  obtain ⟨req, word, op⟩ := a
  match req, ha with
  | 0, _ | 1, _ | 2, _ | 3, _ | 4, _ | 5, _ | 6, _ => rfl

/-- One access of a requester comes first, due or not. -/
theorem bankOrder_alone {a : BankAcc} (ha : a.req < 7) : h.bankOrder n b [a] = [a] := by
  rw [bankOrder, sorted_alone ha]
  by_cases due : 15 ≤ h.stallsOf n b a.req <;> simp [due]

theorem bankServed_alone (a : BankAcc) : bankServed [a] = [a] := by
  cases hw : a.writes <;> simp [bankServed, hw]

theorem larderBankAccess_alone {w : Nat} {x : LarderAcc} (hr : h.retained n b = false) (hx : x.req < 7)
    (hw : h.larderAt n b x.place = some w) :
    h.larderBankAccess n b [x] = (h.larderWord n b ⟨x.req, w, x.op⟩).aloneEnds n b := by
  have order : h.bankOrder n b (h.bankAccs n b [x]) = [⟨x.req, w, x.op⟩] := by
    rw [bankAccs_alone hw]; exact bankOrder_alone hx
  cases wr : BankAcc.writes ⟨x.req, w, x.op⟩ <;>
    simp [larderBankAccess, order, hr, bankServed_alone, wr, aloneEnds, servedAll, noStalls, each]

/-- A word found uncorrectable: LRD_ERR_POS names it and it is poisoned. -/
theorem larderEcc_uncorrectable {w : Nat} : let g := h.larderEcc n b w 2
    g.reg .LRD_ERR_POS n 0 = BitVec.ofNat 64 (2 ^ 31 + b * 2 ^ 14 + w) ∧ 16384 * b + w ∈ (g.parish n).poisoned ∧
      g.cots = h.cots ∧ g.gran = h.gran := by
  have plain : recordReg .LRD_ERR_POS = false := rfl
  simp [larderEcc, plain, b2n]

theorem larderWord_uncorrectable {r w : Nat} : h.larderWord n b ⟨r, w, .read 2⟩ =
    (h.larderEcc n b w 2).emit (.larder n r none) := by simp [larderWord]

theorem larderWord_read {r w : Nat} (hp : 16384 * b + w ∉ (h.parish n).poisoned) : h.larderWord n b ⟨r, w, .read 0⟩ =
    h.emit (.larder n r (some (NTable.get 0 (h.parish n).larder (16384 * b + w)))) := by
  simp [larderWord, larderEcc, hp]

theorem maskWord_whole (old v : BitVec 128) : maskWord old v (BitVec.allOnes 16) = v := by
  have ones : ((List.range 16).foldl (fun (x : BitVec 128) i =>
      if (BitVec.allOnes 16).getLsbD i then x ||| (0xFF <<< (8 * i)) else x) 0) = BitVec.allOnes 128 := by decide
  rw [maskWord, ones, BitVec.not_allOnes, BitVec.and_zero, BitVec.zero_or, BitVec.and_allOnes]

/-- A write of the whole word k: it alone is stored, and is poisoned no longer. -/
def wordHealed (h : Hw) (n k : Nat) (v : BitVec 128) : Hw :=
  h.modParish n fun p => { p with larder := NTable.set 0 p.larder k v, poisoned := p.poisoned.filter (· ≠ k) }

theorem larderWord_whole {r w : Nat} (v : BitVec 128) : h.larderWord n b ⟨r, w, .write v (BitVec.allOnes 16)⟩ =
    h.wordHealed n (16384 * b + w) v := by
  simp only [larderWord, maskWord_whole, if_true, wordHealed]

theorem larder_wordHealed (k : Nat) (v : BitVec 128) :
    ((h.wordHealed n k v).parish n).larder = NTable.set 0 (h.parish n).larder k v := by simp [wordHealed]

theorem poisoned_wordHealed (k : Nat) (v : BitVec 128) : k ∉ ((h.wordHealed n k v).parish n).poisoned := by
  simp [wordHealed]

end Hw

/-- An access alone at an awake bank completes with what its word's turn gives, but for the banks' own state. -/
theorem completes_aloneAccess {s : State} {n b w : Nat} {x : LarderAcc} {P : Hw → Prop} (a : s.hw.act = true)
    (hr : s.hw.retained n b = false) (hx : x.req < 7) (hw : s.hw.larderAt n b x.place = some w)
    (p : ∀ g, Hw.BanksOnly g (s.hw.larderWord n b ⟨x.req, w, x.op⟩) → P g) :
    Completes (.larderBankAccess n b [x]) s P := by
  refine completes_live (f := (·.larderBankAccess n b [x])) rfl a (p _ ((Hw.BanksOnly.setPower _ _).trans ?_))
  rw [Hw.larderBankAccess_alone hr hx hw]
  exact Hw.BanksOnly.aloneEnds _ n b

end Sys2Proof.Machine

namespace Sys2Proof

open Sys2Proof.Machine

/-- Settles O20: retention and wakes by what they make of one bank (`larderBank`), an access alone by the word it reads or writes
(`larderBankAccess_alone`); what each leaves is `BanksOnly`. The statement has no clause for a read found correctable, nor for
accesses that meet at one bank. -/
theorem larderBanks : Obligations.LarderBanks := by
  refine ⟨fun s ag n v a hs hl => ?written, fun s n b a hw hb => ?woken, fun s n b accs a ho hr => ?resting,
    fun s n b w x a hr hx hw op => ?uncorrectable, fun s n b w x a hr hx hw op hp => ?read,
    fun s n b w x v a hr hx hw op => ?stored⟩
  case written =>
    refine completes_live (f := (·.retentionWrite ag n v)) rfl a ?_
    have rest := Hw.BanksOnly.retentionWrite hs hl
    exact ⟨fun _ => Hw.retentionWrite_retains hs hl, fun _ => Hw.retentionWrite_owes hs hl,
      fun _ => Hw.retentionWrite_wakes hs hl, rest.cots, rest.mem, rest.gran⟩
  case woken =>
    refine completes_live (f := (·.bankWake n b)) rfl a ?_
    have awake := Hw.larderBank_bankWake hb hw
    have rest := Hw.BanksOnly.bankWake s.hw n b
    exact ⟨congrArg Hw.LarderBank.retained awake, of_decide_eq_false (congrArg Hw.LarderBank.waking awake), rest.cots,
      rest.mem⟩
  case resting =>
    refine completes_live (f := (·.larderBankAccess n b accs)) rfl a ?_
    obtain ⟨wakes, waits, regs, rest⟩ := Hw.larderBankAccess_retained ho hr
    exact ⟨wakes, waits, regs, rest.cots, rest.larder n, rest.mem⟩
  case uncorrectable =>
    refine completes_aloneAccess a hr hx hw fun g rest => ?_
    rw [op, Hw.larderWord_uncorrectable] at rest
    obtain ⟨pos, poisoned, cots, gran⟩ := Hw.larderEcc_uncorrectable (h := s.hw) (n := n) (b := b) (w := w)
    exact ⟨(rest.errPos n 0).trans pos, by rwa [rest.poisoned], by rw [rest.out]; rfl, rest.cots.trans cots,
      rest.gran.trans gran⟩
  case read =>
    refine completes_aloneAccess a hr hx hw fun g rest => ?_
    rw [op, Hw.larderWord_read hp] at rest
    exact ⟨rest.out, rest.larder n, rest.poisoned n, rest.cots, rest.mem, rest.gran⟩
  case stored =>
    refine completes_aloneAccess a hr hx hw fun g rest => ?_
    rw [op, Hw.larderWord_whole] at rest
    have stored := (rest.larder n).trans (Hw.larder_wordHealed _ v)
    refine ⟨?_, ?_, fun k e => ?_, rest.cots, rest.mem, rest.gran⟩
    · rw [stored, NTable.get_set_same]
    · rw [rest.poisoned]; exact Hw.poisoned_wordHealed _ v
    · rw [stored, NTable.get_set_ne _ _ _ _ _ _ e.symm]

end Sys2Proof

/-! SUPPORT. Operations of the Chisel's normal and privileged channels (R379 to R384). -/

namespace Sys2Proof.Machine.Hw

variable {h g : Hw} {c n i m : Nat} {v : Word} {t : CotTransfer} {rest : List Nat}

/-! ### Normal channels (R379 to R381, R384) -/

/-- The operation that a START with v latches, with V still the START's own stamp (R379). -/
def startLatches (h : Hw) (c : Nat) (v : Word) : CotTransfer :=
  { regs := chiselWords.foldl (fun m a => NTable.set 0 m a (BitVec.ofNat 32 (h.ioWord c a)))
      (NTable.set 0 [] 0xC028 (BitVec.ofNat 32 (v.toNat &&& 0xFFE6))),
    start := h.stamp c, v := h.stamp c, running := false, done := false, result := 0, awaits := none }

/-- V of operation b of the cottage, started now: 16 cycles and one for each 8 pixels on, or the next frame's start (R380). -/
def blitStamp (h : Hw) (c : Nat) (b : Blit) : Stamp :=
  if frameLen (h.cls c) ≤ (h.stamp c).vc + 16 + ceilDiv (blitSize b) 8 then ⟨(h.stamp c).frame + 1, 0⟩
  else ⟨(h.stamp c).frame, (h.stamp c).vc + 16 + ceilDiv (blitSize b) 8⟩

/-- The cottage's operation is t, and waits last in its core's channel. -/
def blitJoins (h : Hw) (c : Nat) (t : CotTransfer) : Hw :=
  let g := h.modIo c fun x => { x with chisel := some t }
  (g.setChiselCh (c / 256) (chiselOf c) { queue := (g.chiselCh (c / 256) (chiselOf c)).queue ++ [c] }).showChisel (c / 256)
    (chiselOf c)

/-- The operation at the head of channel i is done, and leaves it; DONE counts it (R380). -/
def blitDone (h : Hw) (n i c : Nat) (rest : List Nat) : Hw :=
  (((h.modIo c fun x => { x with chisel := x.chisel.map fun t => { t with done := true, running := false } }).setChiselCh n i
    { queue := rest }).showChisel n i).countWrap F.CHS_N_CNT_DONE n i

section
variable (h n i)

@[simp] theorem showChisel_cots : (h.showChisel n i).cots = h.cots := by unfold showChisel; split <;> simp
@[simp] theorem showChisel_par : (h.showChisel n i).par = h.par := by unfold showChisel; split <;> simp
@[simp] theorem showChisel_mem : (h.showChisel n i).mem = h.mem := by unfold showChisel; split <;> simp
@[simp] theorem showChisel_gran : (h.showChisel n i).gran = h.gran := by unfold showChisel; split <;> simp
@[simp] theorem cot_showChisel (c : Nat) : (h.showChisel n i).cot c = h.cot c := by simp only [cot, showChisel_cots]
@[simp] theorem ctx_showChisel (c : Nat) : (h.showChisel n i).ctx c = h.ctx c := by simp only [ctx, cot_showChisel]

@[simp] theorem chiselCh_showChisel (m j : Nat) : (h.showChisel n i).chiselCh m j = h.chiselCh m j := by
  simp only [chiselCh, parish, showChisel_par]

@[simp] theorem chiselCh_setChiselCh (x : ChiselCh) : (h.setChiselCh n i x).chiselCh n i = x := by
  simp [chiselCh, setChiselCh]

@[simp] theorem chiselCh_setPower (p : Power) : (h.setPower p).chiselCh n i = h.chiselCh n i := (rfl)

@[simp] theorem chiselCh_setFld (f : Fld) (a j v : Nat) : (h.setFld f a j v).chiselCh n i = h.chiselCh n i := (rfl)

@[simp] theorem chiselCh_modIo (c : Nat) (f : CotIo → CotIo) : (h.modIo c f).chiselCh n i = h.chiselCh n i := (rfl)

@[simp] theorem cot_setChiselCh (x : ChiselCh) (c : Nat) : (h.setChiselCh n i x).cot c = h.cot c := (rfl)

end

theorem blitJoins_says (h : Hw) (c : Nat) (t : CotTransfer) : let g := h.blitJoins c t
    (g.cot c).io.chisel = some t ∧
    (g.chiselCh (c / 256) (chiselOf c)).queue = (h.chiselCh (c / 256) (chiselOf c)).queue ++ [c] ∧
    g.mem = h.mem ∧ g.gran = h.gran := by
  refine ⟨?_, ?_, showChisel_mem _ _ _, showChisel_gran _ _ _⟩ <;> simp [blitJoins]

theorem blitDone_says (h : Hw) (n i c : Nat) (rest : List Nat) : let g := h.blitDone n i c rest
    (g.cot c).io.chisel = (h.cot c).io.chisel.map (fun t => { t with done := true, running := false }) ∧
    (g.chiselCh n i).queue = rest ∧ g.mem = h.mem := by
  refine ⟨?_, ?_, showChisel_mem _ _ _⟩ <;> simp [blitDone, countWrap]

/-- A START of a cottage without an operation: its result is stored, and the operation joins if that is 0. -/
theorem chiselStart_free (hr : (h.ctx c).st = .run) (hb : bit v.toNat 0 = true) (hn : (h.cot c).io.chisel = none) :
    h.chiselStart c v =
      let t := h.startLatches c v
      let err := h.blitCheck (fun _ _ => false) (cotBlit c t)
      let k := h.setIoWord c 0xC028 (err * 2 ^ 16 + (v.toNat &&& 0xFFE6))
      if err ≠ 0 then k else k.blitJoins c { t with v := h.blitStamp c (cotBlit c t) } := by
  have settled : h.chiselSettle c (h.stamp c) = h := by rw [chiselSettle, hn]
  have idle : h.chiselBusy c (h.stamp c) = false := by rw [chiselBusy, hn]
  rw [chiselStart, if_pos ⟨hr, hb⟩, chiselStore]
  simp only [settled, idle, Bool.false_eq_true, if_false]
  rfl

theorem vramBlitStart_starts (hq : (h.chiselCh n i).queue = c :: rest) (hv : h.vramBlit c = some t)
    (hp : h.composedTo c t.v = true) (hs : t.v.le (h.stamp c) = true)
    (ha : ((h.ctx c).tally.any fun e => e.stamp.lt t.v) = false) :
    h.vramBlitStart n i = (h.modIo c fun x => { x with chisel := some { t with running := true } }).showChisel n i := by
  simp [vramBlitStart, hq, hv, hp, hs, ha]

theorem chiselTransferDone_ok (hq : (h.chiselCh n i).queue = c :: rest) (ht : (h.cot c).io.chisel = some t)
    (hm : h.blitMoves c t = true) (hr : h.blitRun (cotBlit c t) = (.ok, g)) :
    h.chiselTransferDone n i .sound = (g.blitDone n i c rest).releaseTransfer c := by
  simp only [chiselTransferDone, hq, ht, hm, mapFound, hr]
  rfl

theorem readFail_fails {pixels port : Nat} {how : ReadEnd} (hq : (h.chiselCh n i).queue = c :: rest)
    (ht : (h.cot c).io.chisel = some t) (hm : h.blitMoves c t = true) (hw : how ≠ .ok) :
    h.readFail n i pixels how port =
      ((blitPixels ((cotBlit c t).points.take pixels) (h.aerRead port how) (cotBlit c t)).2.blitEnded c).containWith c .CHS 0x01
        (detailOf .CHS [0x01, c]) := by
  simp [readFail, hq, ht, hm, hw, blitFails]

/-! ### Privileged channels (R383, R384) -/

@[simp] theorem privBlit_setPrivBlit (h : Hw) (n m : Nat) (x : Option Blit) : (h.setPrivBlit n m x).privBlit n m = x := by
  simp [privBlit, setPrivBlit]

/-- Where a privileged address lies rests on the channel's owner and the owners of cottages. -/
theorem chisSide_congr (ep : g.par = h.par) (eo : ∀ n m, g.reg .CHS_P_OWN n m = h.reg .CHS_P_OWN n m) (n m a : Nat) :
    g.chisSide n m a = h.chisSide n m a := by
  have reeve : g.chisReeve n m = h.chisReeve n m := by simp only [chisReeve, flag, fld, eo]
  have owner : g.chisOwner n m = h.chisOwner n m := by simp only [chisOwner, reeve, fld, eo]
  have onPort : ∀ c p, g.cotOnPort c p = h.cotOnPort c p := fun c p => by simp only [cotOnPort, portOf_congr h g ep]
  unfold chisSide
  split <;> simp only [owner, reeve, onPort, ownerOf_congr h g ep]

/-- Operation b runs in channel m, with no error (R383). -/
def privTakes (h : Hw) (n m : Nat) (b : Blit) : Hw :=
  ((h.setFld F.CHS_P_STAT_ERR n m 0).setPrivBlit n m (some b)).setFld F.CHS_P_STAT_STATE n m 1

@[simp] theorem fld_setPrivBlit (h : Hw) (n m : Nat) (x : Option Blit) (f : Fld) (i j : Nat) :
    (h.setPrivBlit n m x).fld f i j = h.fld f i j := (rfl)

@[simp] theorem setPrivBlit_cots (h : Hw) (n m : Nat) (x : Option Blit) : (h.setPrivBlit n m x).cots = h.cots := (rfl)

@[simp] theorem setPrivBlit_mem (h : Hw) (n m : Nat) (x : Option Blit) : (h.setPrivBlit n m x).mem = h.mem := (rfl)

@[simp] theorem privBlit_setFld (h : Hw) (f : Fld) (i j v n m : Nat) : (h.setFld f i j v).privBlit n m = h.privBlit n m := (rfl)

@[simp] theorem privBlit_setPower (h : Hw) (p : Power) (n m : Nat) : (h.setPower p).privBlit n m = h.privBlit n m := (rfl)

/-- STATE and ERR are apart in CHS_P_STAT. -/
theorem chisErr_setFld_state (h : Hw) (n m v : Nat) :
    (h.setFld F.CHS_P_STAT_STATE n m v).fld F.CHS_P_STAT_ERR n m = h.fld F.CHS_P_STAT_ERR n m :=
  fld_setFld_bits _ _ _ _ _ _ _ _ (by decide) (by decide) (by decide)

theorem chisState_setFld_err (h : Hw) (n m v : Nat) :
    (h.setFld F.CHS_P_STAT_ERR n m v).fld F.CHS_P_STAT_STATE n m = h.fld F.CHS_P_STAT_STATE n m :=
  fld_setFld_bits _ _ _ _ _ _ _ _ (by decide) (by decide) (by decide)

theorem chisState_setFld (h : Hw) (n m : Nat) {v : Nat} (hv : v < 2 ^ 3) :
    (h.setFld F.CHS_P_STAT_STATE n m v).fld F.CHS_P_STAT_STATE n m = v := fld_setFld_lt _ _ _ _ _ (by decide) (by decide) hv

theorem chisErr_setFld (h : Hw) (n m : Nat) {v : Nat} (hv : v < 2 ^ 8) :
    (h.setFld F.CHS_P_STAT_ERR n m v).fld F.CHS_P_STAT_ERR n m = v := fld_setFld_lt _ _ _ _ _ (by decide) (by decide) hv

theorem privTakes_says (h : Hw) (n m : Nat) (b : Blit) : let g := h.privTakes n m b
    g.fld F.CHS_P_STAT_STATE n m = 1 ∧ g.fld F.CHS_P_STAT_ERR n m = 0 ∧ g.privBlit n m = some b ∧ g.cots = h.cots ∧
      g.mem = h.mem := by
  refine ⟨chisState_setFld _ n m (by decide), ?_, ?_, by simp [privTakes], by simp [privTakes]⟩
  · rw [privTakes, chisErr_setFld_state, fld_setPrivBlit, chisErr_setFld _ _ _ (by decide)]
  · rw [privTakes, privBlit_setFld, privBlit_setPrivBlit]

/-- A START of an idle channel by an agent that may write it, whose checks pass: the operation runs. -/
theorem privilegedStart_taken {ag : Agent} {a b : Side} (hs : h.sees ag .CHS_P_CTL n m = true)
    (hl : h.changesLocked ag .CHS_P_CTL n m (v.toNat ||| 1) = false) (hi : h.fld F.CHS_P_STAT_STATE n m = 0)
    (ho : bits (v.toNat ||| 1) 2 1 = 0) :
    let k := h.storeFields .CHS_P_CTL n m (v.toNat ||| 1)
    k.chisSide n m (k.reg .CHS_P_SRC n m).toNat = some a → k.chisSide n m (k.reg .CHS_P_DST n m).toNat = some b →
    k.blitCheck (k.chisHbm n m) (k.privLatch n m a b) = 0 → ∃ x, h.privilegedStart ag n m v = k.privTakes n m x := by
  intro k ha hb hc
  have start : bit (v.toNat ||| 1) 0 = true := by simp [bit_eq_testBit]
  have dst : (k.setFld F.CHS_P_STAT_ERR n m 0).chisSide n m ((k.setFld F.CHS_P_STAT_ERR n m 0).reg .CHS_P_DST n m).toNat =
      some b := by
    rw [reg_setFld_reg _ _ _ _ _ _ _ _ (by decide),
      chisSide_congr (setFld_par _ _ _ _ _) fun _ _ => reg_setFld_reg k _ _ _ _ _ _ _ (by decide)]
    exact hb
  refine ⟨(k.setFld F.CHS_P_STAT_ERR n m 0).privLatch n m a b, ?_⟩
  rw [privilegedStart, chisCtlWrite, guarded_ok h ag _ n m _ _ _ hs hl (by simp [hi])]
  simp only [start, ho, Bool.not_true, Bool.false_eq_true, if_false, if_true]
  simp only [← show k = h.storeFields .CHS_P_CTL n m (v.toNat ||| 1) from rfl, ha, hb, hc, dst]
  rfl

/-- Of the end with code e, what the record and the event after it leave as it is. -/
theorem chisEnds_says {e : Nat} (he : e < 2 ^ 8) (k : RecordsOnly g (h.chisEnds n m e)) :
    g.fld F.CHS_P_STAT_STATE n m = 0 ∧ g.fld F.CHS_P_STAT_ERR n m = e ∧ g.privBlit n m = none ∧ g.cots = h.cots := by
  refine ⟨?_, ?_, ?_, k.cots.trans (by simp [chisEnds])⟩
  · rw [k.fld_eq _ _ _ rfl, chisEnds, chisState_setFld_err, chisState_setFld _ _ _ (by decide)]
  · rw [k.fld_eq _ _ _ rfl, chisEnds, chisErr_setFld _ _ _ he]
  · rw [privBlit, k.parish_eq, ← privBlit, chisEnds, privBlit_setFld, privBlit_setFld, privBlit_setPrivBlit]

theorem recordsOnly_chisEvent (h : Hw) (n m : Nat) : RecordsOnly (h.chisEvent n m) h :=
  RecordsOnly.ite _ (.refl h) (.event h _ _)

theorem recordsOnly_chisRecord (h : Hw) (sev cause n m : Nat) : RecordsOnly (h.chisRecord sev cause n m) h :=
  RecordsOnly.ite _ (.raise h _ _ _ _ _ _ _ _) (.raiseChan h _ _ _ _ _ _ _ _)

theorem privilegedDone_ok {b : Blit} (hb : h.privBlit n m = some b) (hs : h.sideIssues (h.chisOwner n m) b.src = true)
    (hd : h.sideIssues (h.chisOwner n m) b.dst = true) (hr : h.blitRun b = (.ok, g)) :
    h.privilegedDone n m .sound = (g.chisEnds n m 0).chisEvent n m := by
  simp [privilegedDone, hb, hs, hd, mapFound, hr]

theorem pReadFail_fails {b : Blit} {pixels port : Nat} {how : ReadEnd} (hb : h.privBlit n m = some b) (hw : how ≠ .ok) :
    h.pReadFail n m pixels how port = (blitPixels (b.points.take pixels) (h.aerRead port how) b).2.privFails n m := by
  simp [pReadFail, hb, hw]

end Sys2Proof.Machine.Hw

namespace Sys2Proof

open Sys2Proof.Machine

/-- Settles O27: of each command the block that its branch answers, and what that block shows. An operation joins its channel
(`blitJoins_says`) or leaves it done (`blitDone_says`); a privileged one starts (`privTakes_says`) or ends (`chisEnds_says`), and
its record and event keep that. The statement has no clause for DONE, which `blitDone` counts. -/
theorem chiselBlits : Obligations.ChiselBlits := by
  refine ⟨fun s c v t a hr hb hn e => ?start, fun s n i c rest t a hq hv hp hs ha => ?vram,
    fun s n i c rest t g a hq ht hm hr => ?done, fun s n i c pixels port rest t how a hq ht hm hw => ?readFails,
    fun s ag n m v x y a hs hl hi ho hx hy hc => ?privileged, fun s n m b g a hb hs hd hr => ?privilegedEnds,
    fun s n m pixels port b how a hb hw => ?privilegedFails⟩
  case start =>
    obtain rfl : t = s.hw.startLatches c v := e
    have free := Hw.chiselStart_free hr hb hn
    refine ⟨fun ok => ?_, fun bad => ?_⟩
    · refine completes_live (f := (·.chiselStart c v)) rfl a ?_
      rw [free.trans (if_neg (not_not_intro ok))]
      obtain ⟨latched, queue, mem, gran⟩ := Hw.blitJoins_says (s.hw.setIoWord c 0xC028 _) c
        { s.hw.startLatches c v with v := s.hw.blitStamp c (Hw.cotBlit c (s.hw.startLatches c v)) }
      simp only [Hw.cot_setPower, Hw.chiselCh_setPower, Hw.setPower_mem, Hw.setPower_gran]
      exact ⟨⟨_, latched, rfl, rfl, rfl, rfl⟩, queue, mem, gran⟩
    · exact completesAs_live (f := (·.chiselStart c v)) rfl a (free.trans (if_pos bad))
  case vram =>
    refine completes_live (f := (·.vramBlitStart n i)) rfl a ?_
    rw [Hw.vramBlitStart_starts hq hv hp hs ha]
    simp only [Hw.cot_setPower, Hw.ctx_setPower, Hw.cot_showChisel, Hw.ctx_showChisel, Hw.cot_modIo, Hw.ctx_modIo, if_true]
    exact ⟨trivial, trivial, (Hw.showChisel_mem _ n i).trans rfl, (Hw.showChisel_gran _ n i).trans rfl⟩
  case done =>
    obtain ⟨finished, queue, mem⟩ := Hw.blitDone_says g n i c rest
    exact ⟨g.blitDone n i c rest, finished, queue, mem,
      completesAs_live (f := (·.chiselTransferDone n i .sound)) rfl a (Hw.chiselTransferDone_ok hq ht hm hr)⟩
  case readFails =>
    exact completesAs_live (f := (·.readFail n i pixels how port)) rfl a (Hw.readFail_fails hq ht hm hw)
  case privileged =>
    refine completes_live (f := (·.privilegedStart ag n m v)) rfl a ?_
    obtain ⟨b, k⟩ := Hw.privilegedStart_taken hs hl hi ho hx hy hc
    obtain ⟨state, err, blit, cots, mem⟩ := Hw.privTakes_says (s.hw.storeFields .CHS_P_CTL n m (v.toNat ||| 1)) n m b
    rw [k]
    simp only [Hw.fld_setPower, Hw.privBlit_setPower, Hw.setPower_cots, Hw.setPower_mem]
    exact ⟨state, err, fun none => Option.some_ne_none b (blit.symm.trans none), cots.trans (Hw.storeFields_cots _ _ _ _ _),
      mem.trans (Hw.storeFields_mem _ _ _ _ _)⟩
  case privilegedEnds =>
    refine completes_live (f := (·.privilegedDone n m .sound)) rfl a ?_
    rw [Hw.privilegedDone_ok hb hs hd hr]
    obtain ⟨state, err, blit, cots⟩ := Hw.chisEnds_says (e := 0) (by decide) (Hw.recordsOnly_chisEvent _ n m)
    simp only [Hw.fld_setPower, Hw.privBlit_setPower, Hw.setPower_cots]
    exact ⟨state, err, blit, cots⟩
  case privilegedFails =>
    refine completes_live (f := (·.pReadFail n m pixels how port)) rfl a ?_
    rw [Hw.pReadFail_fails hb hw]
    obtain ⟨state, err, blit, -⟩ := Hw.chisEnds_says (e := 8) (by decide)
      ((Hw.recordsOnly_chisEvent _ n m).trans (Hw.recordsOnly_chisRecord _ 1 0x02 n m))
    simp only [Hw.fld_setPower, Hw.privBlit_setPower]
    exact ⟨state, err, blit⟩

end Sys2Proof

/-! SUPPORT. The power controller's legal conditions under each runner and each command that changes the rails (R471, R474,
R478, R507). -/

namespace Sys2Proof.Machine

/-- The core domain works only while its rails stand (R471). -/
theorem Hw.act_coreOn {h : Hw} (a : h.act = true) : h.power.coreOn = true := by
  simp only [Hw.act, Bool.and_eq_true] at a
  exact a.1.1.1.2

/-- Where the outcome is a next state, its power controller is in a legal condition. -/
def StaysLegal (o : Host.Outcome State Fault Refusal) : Prop := ∀ t, o = .next t → PowerLegal t.hw.power

section
variable {s : State} {f : Hw → Hw}

theorem run_staysLegal (p : PowerLegal (f s.hw).power) : StaysLegal (s.run f) := by
  rintro t ⟨⟩
  exact p

variable (p : PowerLegal s.hw.power)
include p

theorem runKeep_staysLegal : StaysLegal (s.runKeep f) := run_staysLegal p

/-- A sensor's reading leaves the rails, the sleep and the clock. -/
theorem runSense_staysLegal : StaysLegal (s.runSense f) := run_staysLegal p

/-- Only a module that sleeps or works already can be asleep after an effect that begins or ends sleep. -/
theorem runWake_staysLegal : StaysLegal (s.runWake f) := by
  obtain ⟨rails, sleep, clock⟩ := p
  refine run_staysLegal ⟨rails, fun a => ?_, clock⟩
  simp only [Hw.setPower_power, Bool.and_eq_true, Bool.or_eq_true] at a
  exact a.2.elim sleep Hw.act_coreOn

/-- An effect on the core domain finds its rails standing. -/
theorem runLive_staysLegal : StaysLegal (s.runLive f) := by
  obtain ⟨rails, sleep, clock⟩ := p
  refine run_staysLegal ?_
  unfold Hw.live
  split
  case isTrue a => exact ⟨rails, fun _ => Hw.act_coreOn (h := s.hw) a, clock⟩
  case isFalse => exact ⟨rails, sleep, clock⟩

end

namespace Hw

variable {h : Hw}

/-- Without core rails nothing is asked of sleep and clock but that they have ended. -/
theorem powerLegal_off {p : Power} (on : p.coreOn = false) (sleep : p.asleep = false) (clock : p.fullSpeed = false) :
    PowerLegal p := by simp [PowerLegal, on, sleep, clock]

theorem coreLost_legal : PowerLegal h.coreLost.power := powerLegal_off rfl rfl rfl

/-- A module reset ends sleep and full service, and the rails follow the standby domain. -/
theorem moduleReset_legal : PowerLegal h.moduleReset.power := ⟨id, nofun, nofun⟩

theorem standbyReady_legal (v : Nat) (a b : Bool) (p : PowerLegal h.power) : PowerLegal (h.standbyReady v a b).power := by
  by_cases hs : h.power.standby = true
  · rw [standbyReady, if_pos hs]; exact p
  · obtain ⟨g, e, -, up, on, power, -⟩ := h.standbyReady_eq v a b (by simpa using hs)
    rw [e, setPower_power, power]
    exact ⟨fun _ => rfl, nofun, nofun⟩

theorem uvloFall_legal (v : Nat) (p : PowerLegal h.power) : PowerLegal (h.uvloFall v).power := by
  unfold uvloFall
  split
  · exact powerLegal_off rfl rfl rfl
  · exact p

theorem powerLoss_legal (v : Nat) (p : PowerLegal h.power) : PowerLegal (h.powerLoss v).power := by
  unfold powerLoss
  split
  · exact powerLegal_off rfl rfl rfl
  · exact p

theorem coreRailRemoval_legal (p : PowerLegal h.power) : PowerLegal h.coreRailRemoval.power := by
  unfold coreRailRemoval
  split
  · exact coreLost_legal
  · exact p

theorem cclkSwitch_legal (p : PowerLegal h.power) : PowerLegal h.cclkSwitch.power := by
  unfold cclkSwitch
  split
  case isTrue c =>
    obtain ⟨rails, sleep, -⟩ := p
    simp only [Bool.and_eq_true] at c
    exact ⟨rails, sleep, fun _ => c.1.2⟩
  case isFalse => exact p

theorem portReset_legal (q kind : Nat) (p : PowerLegal h.power) : PowerLegal (h.portReset q kind).power := by
  by_cases hk : kind = 0 ∧ (h.port (1 - q)).perst = true
  · rw [portReset, if_pos hk]; exact moduleReset_legal
  · obtain ⟨-, -, power⟩ := h.portReset_says hk
    obtain ⟨rails, sleep, clock⟩ := p
    rw [power]
    exact ⟨rails, fun a => sleep (Bool.and_eq_true_iff.1 a).1, clock⟩

end Hw

/-- Every command leaves the power controller in a legal condition: those of the power controller by what they do, every other
by its runner. -/
theorem exec_staysLegal (i : Instr) {s : State} (p : PowerLegal s.hw.power) : StaysLegal (exec i s) := by
  cases i <;> unfold exec
  case moduleReset => exact run_staysLegal (f := Hw.moduleReset) Hw.moduleReset_legal
  case portReset q kind => exact run_staysLegal (f := (·.portReset q kind)) (Hw.portReset_legal q kind p)
  case standbyReady v a b => exact run_staysLegal (f := (·.standbyReady v a b)) (Hw.standbyReady_legal v a b p)
  case uvloFall v => exact run_staysLegal (f := (·.uvloFall v)) (Hw.uvloFall_legal v p)
  case powerLoss v => exact run_staysLegal (f := (·.powerLoss v)) (Hw.powerLoss_legal v p)
  case cclkSwitch => exact run_staysLegal (f := Hw.cclkSwitch) (Hw.cclkSwitch_legal p)
  case coreRailRemoval => exact run_staysLegal (f := Hw.coreRailRemoval) (Hw.coreRailRemoval_legal p)
  case registerWrite | wakeLane | sleepExit => exact runWake_staysLegal p
  case clearFaults | readVin | readTemperature1 | readTemperature2 | readTemperature3 | lowvinSet | lowvinClear | ovWarning
    | pwrfail | tempWarn | thermCrit => exact runSense_staysLegal p
  case lfclkStep | bell | linkUp | flr | pfFlr | flrComplete | vfEnableClear | d3hotEntry | d0Return | unsupportedRequest
    | configSpaceWrite | getVersion | getCapabilities | negotiateAlgorithms | getDigests | getCertificate | challenge
    | getMeasurements | spdmUnsupported | setEndpointId | getEndpointId | getMctpVersionSupport | getMessageTypeSupport
    | capability | statusByte | statusWord | statusInputRead | statusTemperature | statusCmlRead | readIin | readPin
    | pmbusRevision | mfrId | mfrModel | unsupportedCommand | pecError | alertResponse | smbusTimeout | perstRelease =>
    exact runKeep_staysLegal p
  all_goals exact runLive_staysLegal p

end Sys2Proof.Machine

namespace Sys2Proof

open Sys2Proof.Machine

/-- Settles O3: a step is the command at the front of the queue (`exec_staysLegal`), or idles. -/
theorem powerLegalKept : Obligations.PowerLegalKept := by
  intro s t p h
  cases hq : s.pending with
  | nil =>
    rw [step_of_nil hq] at h
    cases h
    exact p
  | cons i rest =>
    rw [step_of_cons hq] at h
    exact exec_staysLegal i (s := { s with pending := rest }) p t h

end Sys2Proof

/-! SUPPORT. The SPDM responder: what each request leaves and answers (R461 to R463). -/

namespace Sys2Proof.Machine

/-- A command whose effect leaves the block leaves the state. -/
theorem keep_idle {i : Instr} {s : State} {f : Hw → Hw} (e : exec i s = s.runKeep f) (p : f s.hw = s.hw) :
    exec i s = .next s := by rw [e, State.runKeep, State.run, p, Hw.setPower_self]

namespace Hw

variable (h : Hw) {i : Nat}

/-! ### Requests and the transport -/

@[simp] theorem conn_setConn (x : SpdmConn) : (h.setConn i x).conn i = x := NTable.get_set_same ..

/-- What a response leaves of a block, and what it sends. -/
theorem answered_says (x : SpdmConn) (r : List Byte) (p : Power) : let g := ((h.setConn i x).respond i r).setPower p
    g.conn i = x ∧ g.out = .spdm i r :: h.out ∧ g.regs = h.regs ∧ g.mem = h.mem ∧ g.cots = h.cots :=
  ⟨h.conn_setConn x, rfl, rfl, rfl, rfl⟩

theorem leBytes_one (v : Nat) : leBytes 1 v = [BitVec.ofNat 8 v] := by simp [leBytes]

theorem spdmError_says (code data : Nat) (p : Power) : let g := (h.spdmError i code data).setPower p
    g.out = .spdm i [0x12, 0x7F, BitVec.ofNat 8 code, BitVec.ofNat 8 data] :: h.out ∧ g.spdm = h.spdm ∧ g.regs = h.regs :=
  ⟨by rw [spdmError, leBytes_one, leBytes_one]; rfl, rfl, rfl⟩

theorem spdmAt_silent (ha : h.connAnswers i = false) (need : Nat) (f : Hw → SpdmConn → Hw) : h.spdmAt i need f = h := by
  simp [spdmAt, ha]

theorem withAlias_silent (ha : h.connAnswers i = false) (f : Hw → SpdmConn → BitVec 384 → Hw) : h.withAlias i f = h :=
  h.spdmAt_silent ha _ _

theorem spdmAt_early (ha : h.connAnswers i = true) {need : Nat} (hs : (h.conn i).stage < need) (f : Hw → SpdmConn → Hw) :
    h.spdmAt i need f = h.spdmError i 0x04 0 := by simp [spdmAt, ha, hs]

theorem spdmAt_reached (ha : h.connAnswers i = true) {need : Nat} (hs : need ≤ (h.conn i).stage) (f : Hw → SpdmConn → Hw) :
    h.spdmAt i need f = f h (h.conn i) := by simp [spdmAt, ha, Nat.not_lt.2 hs]

theorem withAlias_reached (ha : h.connAnswers i = true) (hs : 3 ≤ (h.conn i).stage) {key : BitVec 384}
    (hk : h.boot.aliasKey = some key) (f : Hw → SpdmConn → BitVec 384 → Hw) : h.withAlias i f = f h (h.conn i) key := by
  simp only [withAlias, spdmAt_reached h ha hs, hk]

/-- Without the transport no request is answered (R461). -/
theorem requests_silent (ha : h.connAnswers i = false) (req : List Byte) :
    h.getVersion i req = h ∧ h.getCapabilities i req = h ∧ h.negotiateAlgorithms i req = h ∧ h.getDigests i req = h ∧
      h.getCertificate i req = h ∧ h.challenge i req = h ∧ h.getMeasurements i req = h ∧ h.spdmUnsupported i req = h :=
  have silent := h.spdmAt_silent ha
  have alias_ := h.withAlias_silent ha
  ⟨silent _ _, silent _ _, silent _ _, alias_ _, alias_ _, alias_ _, alias_ _, by simp [spdmUnsupported, ha]⟩

/-! ### Free bytes -/

theorem length_freeBytes (n : Nat) : ∀ h : Hw, (freeBytes n h).1.length = 8 * n := by
  induction n with
  | zero => intro h; rfl
  | succ n ih =>
    intro h
    simp only [freeBytes, List.length_append, length_leBytes, ih]
    omega

/-- Drawing free bytes moves on the counter of free values alone. -/
theorem freeBytes_block (n : Nat) : ∀ h : Hw, ∃ k, (freeBytes n h).2 = { h with fresh := k } := by
  induction n with
  | zero => exact fun h => ⟨h.fresh, rfl⟩
  | succ n ih => exact fun h => ih h.bump

/-! ### The negotiation -/

theorem getVersion_eq (ha : h.connAnswers i = true) (req : List Byte) : h.getVersion i req =
    (h.setConn i { stage := 1, vca := req ++ [0x10, 0x04, 0, 0, 0, 1, 0, 0x12], m1 := [], l1 := [] }).respond i
      [0x10, 0x04, 0, 0, 0, 1, 0, 0x12] := h.spdmAt_reached ha (Nat.zero_le _) _

/-- A connection moves on to a stage with a request and its response in the transcript of the negotiation. -/
def negotiates (h : Hw) (i stage : Nat) (req r : List Byte) : Hw :=
  (h.setConn i { h.conn i with stage := stage, vca := (h.conn i).vca ++ req ++ r }).respond i r

theorem negotiates_says (stage : Nat) (req r : List Byte) (p : Power) : let g := (h.negotiates i stage req r).setPower p
    g.out = .spdm i r :: h.out ∧ (g.conn i).stage = stage ∧ (g.conn i).vca = (h.conn i).vca ++ req ++ r ∧ g.regs = h.regs ∧
      g.mem = h.mem := by
  obtain ⟨conn, out, regs, mem, -⟩ :=
    h.answered_says (i := i) { h.conn i with stage := stage, vca := (h.conn i).vca ++ req ++ r } r p
  exact ⟨out, congrArg SpdmConn.stage conn, congrArg SpdmConn.vca conn, regs, mem⟩

/-- The response to a GET_CAPABILITIES. -/
def capabilities : List Byte := [0x12, 0x61, 0, 0, 0, 20, 0, 0] ++ leBytes 4 0x36 ++ leBytes 8 Config.spdmSizes.toNat

theorem capabilities_layout : capabilities.length = 20 ∧ capabilities.take 12 = [0x12, 0x61, 0, 0, 0, 20, 0, 0, 0x36, 0, 0, 0] :=
  ⟨by simp only [capabilities, List.length_append, length_leBytes]; rfl, List.take_left' rfl⟩

theorem getCapabilities_eq (ha : h.connAnswers i = true) (hs : 1 ≤ (h.conn i).stage) (req : List Byte) :
    h.getCapabilities i req = h.negotiates i 2 req capabilities := h.spdmAt_reached ha hs _

/-- The response to a NEGOTIATE_ALGORITHMS. -/
def algorithms (req : List Byte) : List Byte :=
  [0x12, 0x63, 0, 0] ++ leBytes 2 36 ++ leBytes 1 (fromLe ((req.drop 6).take 1) &&& 1) ++ [0] ++ leBytes 4 4 ++
    leBytes 4 (fromLe ((req.drop 8).take 4) &&& 0x80) ++ leBytes 4 (fromLe ((req.drop 12).take 4) &&& 2) ++
    List.replicate 16 0

theorem algorithms_layout (req : List Byte) :
    (algorithms req).length = 36 ∧ (algorithms req).take 4 = [0x12, 0x63, 0, 0] := by
  refine ⟨by simp only [algorithms, List.length_append, length_leBytes, List.length_replicate]; rfl, ?_⟩
  simp only [algorithms, List.append_assoc]
  exact List.take_left' rfl

theorem negotiateAlgorithms_eq (ha : h.connAnswers i = true) (hs : 2 ≤ (h.conn i).stage) (req : List Byte) :
    h.negotiateAlgorithms i req = h.negotiates i 3 req (algorithms req) := h.spdmAt_reached ha hs _

/-! ### The derived key's chain -/

theorem getDigests_eq (ha : h.connAnswers i = true) (hs : 3 ≤ (h.conn i).stage) {key : BitVec 384}
    (hk : h.boot.aliasKey = some key) (req : List Byte) : h.getDigests i req =
      let r := [0x12, 0x01, 0, 1] ++ digestBytes (Crypto.sha384 (h.aliasChain key))
      (h.setConn i { h.conn i with m1 := (h.conn i).m1 ++ req ++ r, l1 := [] }).respond i r := h.withAlias_reached ha hs hk _

theorem getCertificate_eq (ha : h.connAnswers i = true) (hs : 3 ≤ (h.conn i).stage) {key : BitVec 384}
    (hk : h.boot.aliasKey = some key) {req : List Byte} (slot : (req.getD 2 0).toNat % 16 = 0)
    (off : fromLe ((req.drop 4).take 2) < (h.aliasChain key).length) : ∃ x : SpdmConn, h.getCertificate i req =
      let part := ((h.aliasChain key).drop (fromLe ((req.drop 4).take 2))).take (fromLe ((req.drop 6).take 2))
      (h.setConn i x).respond i ([0x12, 0x02, 0, 0] ++ leBytes 2 part.length ++
        leBytes 2 ((h.aliasChain key).length - fromLe ((req.drop 4).take 2) - part.length) ++ part) := by
  rw [getCertificate, h.withAlias_reached ha hs hk, if_neg (not_or.2 ⟨not_not_intro slot, Nat.not_le.2 off⟩)]
  exact ⟨_, rfl⟩

/-- A CHALLENGE without a measurement summary is answered with a nonce and the derived key's signature. -/
theorem challenge_eq (ha : h.connAnswers i = true) (hs : 3 ≤ (h.conn i).stage) {key : BitVec 384}
    (hk : h.boot.aliasKey = some key) {req : List Byte} (slot : req.getD 2 0 = 0) (summary : req.getD 3 0 = 0) :
    ∃ (nonce sig : List Byte) (k : Nat), nonce.length = 32 ∧ h.challenge i req =
      (({ h with fresh := k } : Hw).setConn i { h.conn i with m1 := [], l1 := [] }).respond i
        ([0x12, 0x03, 0, 1] ++ digestBytes (Crypto.sha384 (h.aliasChain key)) ++ nonce ++ [0, 0] ++ sig) := by
  obtain ⟨k, hk'⟩ := freeBytes_block 4 h
  rw [challenge, h.withAlias_reached ha hs hk, if_neg (not_not_intro slot)]
  simp only [summary, hk', BitVec.reduceEq, if_false, List.append_nil]
  exact ⟨_, _, k, length_freeBytes 4 h, rfl⟩

/-- A GET_MEASUREMENTS that asks for no signature is answered with the blocks as they stand and a nonce (R463). -/
theorem getMeasurements_eq (ha : h.connAnswers i = true) (hs : 3 ≤ (h.conn i).stage) {key : BitVec 384}
    (hk : h.boot.aliasKey = some key) {req : List Byte} (named : h.blocksOf (req.getD 3 0).toNat ≠ [])
    (index : (req.getD 3 0).toNat ≠ 0) (unsigned : bit (req.getD 2 0).toNat 0 = false) :
    ∃ (nonce : List Byte) (x : SpdmConn) (k : Nat), nonce.length = 32 ∧ h.getMeasurements i req =
      let blocks := h.blocksOf (req.getD 3 0).toNat
      (({ h with fresh := k } : Hw).setConn i x).respond i ([0x12, 0x60, 0, 0] ++ leBytes 1 blocks.length ++
        leBytes 3 blocks.flatten.length ++ blocks.flatten ++ nonce ++ [0, 0]) := by
  obtain ⟨k, hk'⟩ := freeBytes_block 4 h
  rw [getMeasurements, h.withAlias_reached ha hs hk]
  simp only [List.isEmpty_iff, named, index, unsigned, hk', false_and, if_false, Bool.false_eq_true]
  exact ⟨_, _, k, length_freeBytes 4 h, rfl⟩

end Hw

end Sys2Proof.Machine

namespace Sys2Proof

open Sys2Proof.Machine

/-- Settles O38: each request by its equation, ERROR responses by `spdmAt_early`. -/
theorem spdmResponder : Obligations.SpdmResponder := by
  refine ⟨fun s i req ha => ?silent, fun s i req ha => ⟨?version, fun hs => ?capabilitiesEarly, fun hs => ?algorithmsEarly,
    fun hs => ?digestsEarly, fun hs => ?capabilities, fun hs => ?algorithms, ?unsupported⟩,
    fun s i req key ha hs hk => ⟨?digests, fun slot off => ?certificate, fun slot summary => ?challenge,
      fun named index unsigned => ?measurements⟩⟩
  case silent =>
    obtain ⟨version, capabilities, algorithms, digests, certificate, challenge, measurements, unsupported⟩ :=
      s.hw.requests_silent ha req
    exact ⟨keep_idle (f := (·.getVersion i req)) rfl version, keep_idle (f := (·.getCapabilities i req)) rfl capabilities,
      keep_idle (f := (·.negotiateAlgorithms i req)) rfl algorithms, keep_idle (f := (·.getDigests i req)) rfl digests,
      keep_idle (f := (·.getCertificate i req)) rfl certificate, keep_idle (f := (·.challenge i req)) rfl challenge,
      keep_idle (f := (·.getMeasurements i req)) rfl measurements, keep_idle (f := (·.spdmUnsupported i req)) rfl unsupported⟩
  case version =>
    refine completes_keep (f := (·.getVersion i req)) rfl ?_
    simp only [s.hw.getVersion_eq ha]
    obtain ⟨conn, out, regs, mem, cots⟩ := s.hw.answered_says (i := i)
      { stage := 1, vca := req ++ [0x10, 0x04, 0, 0, 0, 1, 0, 0x12], m1 := [], l1 := [] } [0x10, 0x04, 0, 0, 0, 1, 0, 0x12]
      s.hw.power
    exact ⟨by rw [conn], by rw [conn], by rw [conn], by rw [conn], out, regs, mem, cots⟩
  case capabilitiesEarly =>
    refine completes_keep (f := (·.getCapabilities i req)) rfl ?_
    simp only [Hw.getCapabilities, s.hw.spdmAt_early ha hs]
    exact s.hw.spdmError_says _ _ _
  case algorithmsEarly =>
    refine completes_keep (f := (·.negotiateAlgorithms i req)) rfl ?_
    simp only [Hw.negotiateAlgorithms, s.hw.spdmAt_early ha hs]
    exact s.hw.spdmError_says _ _ _
  case digestsEarly =>
    refine completes_keep (f := (·.getDigests i req)) rfl ?_
    simp only [Hw.getDigests, Hw.withAlias, s.hw.spdmAt_early ha hs]
    exact s.hw.spdmError_says _ _ _
  case capabilities =>
    refine completes_keep (f := (·.getCapabilities i req)) rfl ⟨Hw.capabilities, ?_⟩
    obtain ⟨length, start⟩ := Hw.capabilities_layout
    simp only [s.hw.getCapabilities_eq ha hs]
    exact ⟨length, start, s.hw.negotiates_says 2 req _ _⟩
  case algorithms =>
    refine completes_keep (f := (·.negotiateAlgorithms i req)) rfl ⟨Hw.algorithms req, ?_⟩
    obtain ⟨length, start⟩ := Hw.algorithms_layout req
    simp only [s.hw.negotiateAlgorithms_eq ha hs]
    exact ⟨length, start, s.hw.negotiates_says 3 req _ _⟩
  case unsupported =>
    refine completes_keep (f := (·.spdmUnsupported i req)) rfl ?_
    simp only [Hw.spdmUnsupported, ha, if_true]
    exact s.hw.spdmError_says _ _ _
  case digests =>
    refine completes_keep (f := (·.getDigests i req)) rfl ?_
    simp only [s.hw.getDigests_eq ha hs hk]
    obtain ⟨conn, out, regs, mem, -⟩ := s.hw.answered_says (i := i) _ _ s.hw.power
    exact ⟨out, by rw [conn], regs, mem⟩
  case certificate =>
    refine completes_keep (f := (·.getCertificate i req)) rfl ?_
    obtain ⟨x, e⟩ := s.hw.getCertificate_eq ha hs hk slot off
    simp only [e]
    exact ⟨rfl, rfl, rfl⟩
  case challenge =>
    refine completes_keep (f := (·.challenge i req)) rfl ?_
    obtain ⟨nonce, sig, k, hn, e⟩ := s.hw.challenge_eq ha hs hk slot summary
    obtain ⟨conn, out, regs, mem, -⟩ := ({ s.hw with fresh := k } : Hw).answered_says (i := i)
      { s.hw.conn i with m1 := [], l1 := [] }
      ([0x12, 0x03, 0, 1] ++ digestBytes (Crypto.sha384 (s.hw.aliasChain key)) ++ nonce ++ [0, 0] ++ sig) s.hw.power
    rw [e]
    exact ⟨nonce, sig, hn, out, by rw [conn], by rw [conn], regs, mem⟩
  case measurements =>
    refine completes_keep (f := (·.getMeasurements i req)) rfl ?_
    obtain ⟨nonce, x, k, hn, e⟩ := s.hw.getMeasurements_eq ha hs hk named index unsigned
    rw [e]
    exact ⟨nonce, hn, rfl, rfl, rfl⟩

end Sys2Proof

/-! SUPPORT. The sideband target: transactions and their count, status bits, and the readings of sensors (R465 to R469, R497). -/

namespace Sys2Proof.Machine

/-- A sensor's reading whose effect leaves the block leaves the state. -/
theorem sense_idle {i : Instr} {s : State} {f : Hw → Hw} (e : exec i s = s.runSense f) (p : f s.hw = s.hw) :
    exec i s = .next s := by rw [e, State.runSense, State.run, p]; rfl

theorem bit_toNat_or_right (a : BitVec 8) {b : BitVec 8} {k : Nat} (hb : bit b.toNat k = true) :
    bit (a ||| b).toNat k = true := by
  rw [bit_eq_testBit] at hb ⊢
  rw [BitVec.toNat_or, Nat.testBit_or, hb, Bool.or_true]

namespace Hw

variable (h : Hw)

/-! ### Transactions (R465, R469) -/

theorem sideband_silent (hs : h.power.standby = false) (f : Hw → Hw) : h.sideband f = h := by simp [sideband, hs]

theorem sideband_counts (hs : h.power.standby = true) (f : Hw → Hw) : h.sideband f = (f h).countWrap F.SBD_CNT_XFERS := by
  simp [sideband, hs]

/-- The count of a transaction that leaves the count before it. -/
theorem xfers_counted {g : Hw} (k : g.fld F.SBD_CNT_XFERS = h.fld F.SBD_CNT_XFERS) :
    (g.countWrap F.SBD_CNT_XFERS).fld F.SBD_CNT_XFERS = (h.fld F.SBD_CNT_XFERS + 1) % 2 ^ 32 := by
  rw [fld_countWrap_same _ _ _ _ _ (by decide) (by decide), k]; rfl

theorem fld_counted (f : Fld) (d : F.SBD_CNT_XFERS.reg ≠ f.reg) (i j : Nat) :
    (h.countWrap F.SBD_CNT_XFERS).fld f i j = h.fld f i j := fld_setFld_reg h _ f _ _ _ _ _ d

/-! ### Status bits (R467) -/

/-- Raised status bits assert SMBALERT#. -/
def withStatus (h : Hw) (input temp cml : BitVec 8) : Hw :=
  { h with sbd := ⟨h.sbd.statusInput ||| input, h.sbd.statusTemp ||| temp, h.sbd.statusCml ||| cml, true⟩ }

/-- Beside them the assertion of SMBALERT# leaves the block, where it stood released. -/
theorem sbdRaise_eq (a b c : BitVec 8) : ∃ o, h.sbdRaise a b c = { h.withStatus a b c with out := o } := by
  unfold sbdRaise
  dsimp only
  split <;> exact ⟨_, rfl⟩

theorem sbdRaise_only (a b c : BitVec 8) : RecordsOnly (h.sbdRaise a b c) (h.withStatus a b c) := by
  obtain ⟨o, e⟩ := h.sbdRaise_eq a b c
  rw [e]
  constructor <;> intros <;> rfl

/-! ### Readings of sensors (R497) -/

/-- A crossing of a sensor's limit changes of the power controller which warnings stand, of the sideband the temperatures'
status bits with SMBALERT#, and what its record changes. -/
theorem tempCross_only (s t : Nat) : ∃ (p : Power) (b : Sideband), RecordsOnly (h.tempCross s t) { h with power := p, sbd := b } ∧
    b.statusInput = h.sbd.statusInput ∧ b.statusCml = h.sbd.statusCml := by
  unfold tempCross
  dsimp only
  generalize (if s = 1 then h.fld F.PWR_TLIM_HOT else h.fld F.PWR_TLIM_HBM) = lim
  split
  case isTrue =>
    have raised := sbdRaise_only { h with power := { h.power with warned := h.power.warned ++ [s] } } 0 (tempWarnBit s) 0
    refine ⟨_, _, RecordsOnly.ite _ ((RecordsOnly.raiseModule _ _ _ _ _).trans raised) raised, ?_, ?_⟩
    · exact BitVec.or_zero
    · exact BitVec.or_zero
  case isFalse =>
    split
    · exact ⟨_, h.sbd, RecordsOnly.refl _, rfl, rfl⟩
    · exact ⟨h.power, h.sbd, RecordsOnly.refl h, rfl, rfl⟩

theorem tempSense_eq (s t : Nat) : h.tempSense s t = h.tempShow s t ∨
    ∃ v, h.tempSense s t = ((h.tempShow s t).tempCross s t).setFld F.PWR_STAT_TWARN 0 0 v := by
  unfold tempSense
  dsimp only
  split
  · exact .inl rfl
  · exact .inr ⟨_, rfl⟩

/-- The field that shows a sensor's temperature. -/
def senseFld (s : Nat) : Fld :=
  match s with
  | 1 => F.PWR_SENSE_HOTSPOT
  | 2 => F.PWR_SENSE_HBMT
  | _ => F.PWR_SENSE_INLET

theorem senseFld_reg (s : Nat) : (senseFld s).reg = .PWR_SENSE := by rcases s with _ | _ | _ | s <;> rfl

theorem tempShow_eq (s t : Nat) : h.tempShow s t = h.setFld (senseFld s) 0 0 t := by
  rcases s with _ | _ | _ | s <;> rfl

/-- The inlet has no limit (R500). -/
theorem tempSense_inlet (t : Nat) : h.tempSense 3 t = h.tempShow 3 t := by simp [tempSense]

/-- PWR_SENSE shows a temperature that was read. -/
theorem tempSense_shows {s t : Nat} (ht : t < 2 ^ 8) : (h.tempSense s t).fld (senseFld s) = t := by
  have shown : (h.tempShow s t).fld (senseFld s) = t := by
    rw [tempShow_eq]
    unfold senseFld
    split <;> exact fld_setFld_lt _ _ _ _ _ (by decide) (by decide) ht
  obtain e | ⟨v, e⟩ := h.tempSense_eq s t
  · rw [e, shown]
  · obtain ⟨p, b, only, -⟩ := (h.tempShow s t).tempCross_only s t
    rw [e, fld_setFld_reg _ _ _ _ _ _ _ _ (by rw [senseFld_reg]; decide), only.fld_eq _ _ _ (by rw [senseFld_reg]; rfl)]
    exact shown

/-- g is h but for what sensors' readings can change: what PWR_SENSE and PWR_STAT show, what records change, and of the
sideband the temperatures' status bits with SMBALERT#. -/
structure Sensed (g h : Hw) : Prop where
  reg : ∀ n i j, recordReg n = false → n ≠ .PWR_SENSE → n ≠ .PWR_STAT → g.reg n i j = h.reg n i j
  cots : g.cots = h.cots
  input : g.sbd.statusInput = h.sbd.statusInput
  cml : g.sbd.statusCml = h.sbd.statusCml

namespace Sensed

variable {g h k : Hw}

theorem trans (a : Sensed g h) (b : Sensed h k) : Sensed g k where
  reg n i j hr hs ht := (a.reg n i j hr hs ht).trans (b.reg n i j hr hs ht)
  cots := a.cots.trans b.cots
  input := a.input.trans b.input
  cml := a.cml.trans b.cml

theorem fld_eq (a : Sensed g h) (f : Fld) (hr : recordReg f.reg = false) (hs : f.reg ≠ .PWR_SENSE) (ht : f.reg ≠ .PWR_STAT) :
    g.fld f = h.fld f := by simp only [fld, a.reg _ _ _ hr hs ht]

theorem senses (h : Hw) (f : Fld) (v : Nat) (hf : f.reg = .PWR_SENSE) : Sensed (h.setFld f 0 0 v) h :=
  ⟨fun _ _ _ _ hs _ => reg_setFld_reg h _ _ _ _ _ _ _ (hf ▸ hs.symm), rfl, rfl, rfl⟩

theorem shows (h : Hw) (f : Fld) (v : Nat) (hf : f.reg = .PWR_STAT) : Sensed (h.setFld f 0 0 v) h :=
  ⟨fun _ _ _ _ _ ht => reg_setFld_reg h _ _ _ _ _ _ _ (hf ▸ ht.symm), rfl, rfl, rfl⟩

theorem vinSense (h : Hw) (v : Nat) : Sensed (h.vinSense v) h :=
  (senses _ _ _ rfl).trans ⟨fun _ _ _ _ _ _ => rfl, rfl, rfl, rfl⟩

theorem tempSense (h : Hw) (s t : Nat) : Sensed (h.tempSense s t) h := by
  have shown : Sensed (h.tempShow s t) h := by
    rw [tempShow_eq]
    exact senses h _ _ (senseFld_reg s)
  obtain e | ⟨v, e⟩ := h.tempSense_eq s t
  · rw [e]; exact shown
  · obtain ⟨p, b, only, input, cml⟩ := (h.tempShow s t).tempCross_only s t
    have crossed : Sensed ((h.tempShow s t).tempCross s t) (h.tempShow s t) :=
      ⟨fun n i j hr _ _ => only.reg n i j hr, only.cots, by rw [only.sbd, input], by rw [only.sbd, cml]⟩
    rw [e]
    exact (shows _ _ _ rfl).trans (crossed.trans shown)

end Sensed

/-- A clearing of status bits sets none; SMBALERT# stays asserted with a status bit alone; of the STATUS_CML bits only the
Module-fatal state keeps one. -/
theorem clearStatus_says (v : Nat) (temps : List Nat) : let g := h.clearStatus v temps
    g.sbd.statusInput &&& ~~~ h.sbd.statusInput = 0 ∧
      (g.sbd.alert = true → ¬ (g.sbd.statusInput = 0 ∧ g.sbd.statusTemp = 0 ∧ g.sbd.statusCml = 0)) ∧
      (h.flag F.ERR_STAT_FATAL = false → g.sbd.statusCml = 0) ∧ g.cots = h.cots := by
  refine ⟨?_, fun a => ?_, fun f => ?_, ?_⟩
  · simp only [clearStatus]
    rw [BitVec.and_comm, ← BitVec.and_assoc, BitVec.and_comm (~~~ _), BitVec.and_not_self]
    exact BitVec.zero_and
  · simp only [clearStatus, Bool.and_eq_true, decide_eq_true_eq] at a ⊢
    exact a.2
  · simp only [clearStatus, f, Bool.false_eq_true, if_false]
    exact BitVec.and_zero
  · simp only [clearStatus]
    rw [apply_ite Hw.cots, emit_cots, ite_self]

/-- CLEAR_FAULTS reads the sensors, clears status bits and is counted. -/
theorem clearFaults_eq (hs : h.power.standby = true) (v : Nat) (temps : List Nat) :
    ∃ g : Hw, Sensed g h ∧ h.clearFaults v temps = (g.clearStatus v temps).countWrap F.SBD_CNT_XFERS := by
  rw [clearFaults, h.sideband_counts hs]
  exact ⟨_, (Sensed.tempSense _ 3 _).trans ((Sensed.tempSense _ 2 _).trans ((Sensed.tempSense _ 1 _).trans
    (Sensed.vinSense h v))), rfl⟩

end Hw

end Sys2Proof.Machine

namespace Sys2Proof.Machine

/-- A PMBus read that returns data changes nothing beside the count of transactions. -/
theorem keep_read {i : Instr} {s : State} (hs : s.hw.power.standby = true) (l : Hw → List Byte)
    (e : exec i s = s.runKeep fun h => h.sideband fun h => h.pmData (l h)) :
    exec i s = .next { s with hw := (s.hw.emit (.pmbus (l s.hw))).countWrap F.SBD_CNT_XFERS } := by
  rw [e, State.runKeep, State.run, Hw.sideband_counts _ hs]
  rfl

theorem ascii_tridun : ascii "TRIDUN" = [0x54, 0x52, 0x49, 0x44, 0x55, 0x4E] := by decide

theorem ascii_cxm4096 : ascii "CXM-4096" = [0x43, 0x58, 0x4D, 0x2D, 0x34, 0x30, 0x39, 0x36] := by decide

/-- An answered MCTP control message leaves with its response, and is counted. -/
theorem Hw.mctpReply_says (h : Hw) (hdr : Byte) (code done : Nat) (data : List Byte) (p : Power) :
    let g := ((h.mctpReply hdr code done data).countWrap F.SBD_CNT_XFERS).setPower p
    g.out = .mctp ([0, hdr &&& 0x5F, BitVec.ofNat 8 code, BitVec.ofNat 8 done] ++ data) :: h.out ∧
      g.fld F.SBD_CNT_XFERS = (h.fld F.SBD_CNT_XFERS + 1) % 2 ^ 32 ∧ g.mem = h.mem ∧
      g.fld F.SBD_CFG_EID = h.fld F.SBD_CFG_EID ∧ g.flag F.SBD_CFG_EIDV = h.flag F.SBD_CFG_EIDV := by
  have other (f : Fld) (d : F.SBD_CNT_XFERS.reg ≠ f.reg) :
      (((h.mctpReply hdr code done data).countWrap F.SBD_CNT_XFERS).setPower p).fld f = h.fld f :=
    Hw.fld_counted (h.mctpReply hdr code done data) f d 0 0
  refine ⟨?_, h.xfers_counted (g := h.mctpReply hdr code done data) rfl, rfl, other _ (by decide),
    Hw.flag_congr (other _ (by decide))⟩
  rw [Hw.mctpReply, Hw.leBytes_one, Hw.leBytes_one]
  rfl

/-- A read of a sensor's temperature shows it, returns it and is counted. -/
theorem Hw.readTemp_says {h : Hw} {k t : Nat} (hs : h.power.standby = true) (ht : t < 2 ^ 8) (p : Power) :
    let g := (h.readTemp k t).setPower p
    g.out = .pmbus (leBytes 2 (Config.linear11 t 1).toNat) :: (h.tempSense k t).out ∧ g.fld (Hw.senseFld k) = t ∧
      g.fld F.SBD_CNT_XFERS = (h.fld F.SBD_CNT_XFERS + 1) % 2 ^ 32 ∧ g.mem = (h.tempSense k t).mem ∧ g.cots = h.cots := by
  have sensed := Hw.Sensed.tempSense h k t
  have apart : F.SBD_CNT_XFERS.reg ≠ (Hw.senseFld k).reg := by rw [Hw.senseFld_reg]; decide
  rw [Hw.readTemp, h.sideband_counts hs]
  refine ⟨rfl, (Hw.fld_counted _ _ apart _ _).trans (h.tempSense_shows ht), ?_, rfl, sensed.cots⟩
  exact h.xfers_counted (g := (h.tempSense k t).pmLinear t 1) (sensed.fld_eq _ rfl (by decide) (by decide))

end Sys2Proof.Machine

namespace Sys2Proof

open Sys2Proof.Machine

/-- Settles O39: reads that return data by `keep_read`, sensors by what they show, MCTP by `mctpReply_says`. -/
theorem sidebandReads : Obligations.SidebandReads := by
  refine fun s hs => ⟨?data, fun v hv => ?pin, fun v hv => ?vin, fun t ht => ?hotspot, fun t ht => ?hbm, fun t ht => ?inlet,
    fun hdr eid op h1 h2 h3 => ?setEid, fun hdr => ?getEid, fun hdr type ht => ?versions, fun hdr => ?types⟩
  case data =>
    exact ⟨keep_read hs (fun _ => [0xD0]) rfl, keep_read hs (fun _ => [0x33]) rfl,
      (keep_read hs (fun _ => 6 :: ascii "TRIDUN") rfl).trans (by rw [ascii_tridun]),
      (keep_read hs (fun _ => 8 :: ascii "CXM-4096") rfl).trans (by rw [ascii_cxm4096]),
      keep_read hs (fun h => leBytes 1 h.statusBits) rfl, keep_read hs (fun h => leBytes 2 h.statusBits) rfl,
      keep_read hs (fun h => [h.sbd.statusInput]) rfl, keep_read hs (fun h => [h.sbd.statusTemp]) rfl,
      keep_read hs (fun h => [h.sbd.statusCml]) rfl,
      fun v => keep_read hs (fun _ => leBytes 2 (Config.linear11 v 1000).toNat) rfl⟩
  case pin =>
    refine completes_keep (f := (·.readPin v)) rfl ?_
    rw [Hw.readPin, s.hw.sideband_counts hs]
    have shown := s.hw.fld_setFld_lt F.PWR_SENSE_PIN 0 0 v (by decide) (by decide) hv
    exact ⟨rfl, (Hw.fld_counted _ _ (by decide) _ _).trans shown,
      s.hw.xfers_counted (Hw.fld_setFld_reg s.hw F.PWR_SENSE_PIN _ _ _ _ _ _ (by decide)), rfl, rfl⟩
  case vin =>
    refine completes_sense (f := (·.readVin v)) rfl ?_
    rw [Hw.readVin, s.hw.sideband_counts hs]
    have shown := ({ s.hw with power := { s.hw.power with vin := v } } : Hw).fld_setFld_lt F.PWR_SENSE_VIN 0 0 v
      (by decide) (by decide) hv
    exact ⟨rfl, (Hw.fld_counted _ _ (by decide) _ _).trans shown, rfl,
      s.hw.xfers_counted ((Hw.Sensed.vinSense s.hw v).fld_eq _ rfl (by decide) (by decide)), rfl, rfl⟩
  case hotspot =>
    refine completes_sense (f := (·.readTemp 1 t)) rfl ?_
    obtain ⟨out, shown, counted, -, cots⟩ := Hw.readTemp_says (k := 1) hs ht _
    exact ⟨by rw [out]; rfl, shown, counted, cots⟩
  case hbm =>
    refine completes_sense (f := (·.readTemp 2 t)) rfl ?_
    obtain ⟨out, shown, counted, -, cots⟩ := Hw.readTemp_says (k := 2) hs ht _
    exact ⟨by rw [out]; rfl, shown, counted, cots⟩
  case inlet =>
    refine completes_sense (f := (·.readTemp 3 t)) rfl ?_
    obtain ⟨out, shown, counted, mem, cots⟩ := Hw.readTemp_says (k := 3) hs ht _
    rw [Hw.tempSense_inlet, Hw.tempShow_eq] at out mem
    rw [Hw.setFld_out] at out
    rw [Hw.setFld_mem] at mem
    exact ⟨out, shown, counted, mem, cots⟩
  case setEid =>
    refine completes_keep (f := (·.setEndpointId hdr op eid)) rfl ?_
    rw [Hw.setEndpointId, s.hw.sideband_counts hs, if_pos ⟨h1, h2, h3⟩]
    obtain ⟨out, counted, mem, id, valid⟩ := Hw.mctpReply_says
      ((s.hw.setFld F.SBD_CFG_EID 0 0 eid.toNat).setFld F.SBD_CFG_EIDV 0 0 1) hdr 1 0 [0, eid, 0] s.hw.power
    refine ⟨out, id.trans ?_, valid.trans ?_, counted.trans ?_, mem⟩
    · rw [Hw.fld_setFld_bits _ _ _ _ _ _ _ _ (by decide) (by decide) (by decide)]
      exact Hw.fld_setFld_lt _ _ _ _ _ (by decide) (by decide) eid.isLt
    · rw [Hw.flag, Hw.fld_setFld_lt _ _ _ _ _ (by decide) (by decide) (by decide)]
      rfl
    · rw [Hw.fld_setFld_reg _ _ _ _ _ _ _ _ (by decide), Hw.fld_setFld_reg _ _ _ _ _ _ _ _ (by decide)]
  case getEid =>
    refine completes_keep (f := (·.getEndpointId hdr)) rfl ?_
    rw [Hw.getEndpointId, s.hw.sideband_counts hs]
    obtain ⟨out, counted, mem, -⟩ := s.hw.mctpReply_says hdr 2 0 [BitVec.ofNat 8 (s.hw.fld F.SBD_CFG_EID), 0, 0] s.hw.power
    exact ⟨out, counted, mem⟩
  case versions =>
    refine completes_keep (f := (·.getMctpVersionSupport hdr type)) rfl ?_
    rw [Hw.getMctpVersionSupport, s.hw.sideband_counts hs, if_pos ht]
    obtain ⟨out, counted, mem, -⟩ := s.hw.mctpReply_says hdr 4 0 (1 :: leBytes 4 (Config.mctpVersion type).toNat) s.hw.power
    exact ⟨out, counted, mem⟩
  case types =>
    refine completes_keep (f := (·.getMessageTypeSupport hdr)) rfl ?_
    rw [Hw.getMessageTypeSupport, s.hw.sideband_counts hs]
    obtain ⟨out, counted, mem, -⟩ := s.hw.mctpReply_says hdr 5 0 [1, 5] s.hw.power
    exact ⟨out, counted, mem⟩

/-- Settles O40: without standby power by `sideband_silent`; raised status bits by `sbdRaise_eq`, cleared ones by
`clearStatus_says`. -/
theorem sidebandStatus : Obligations.SidebandStatus := by
  refine ⟨fun s hdr eid type code op v temps hs => ?silent,
    fun s code hs => ⟨fun hc => ?unsupported, fun hc => ?readOnly, ?pec, ?timeout, fun ha => ?alert, fun ha => ?quiet⟩,
    fun s v temps hs => ?clear, fun s hdr eid op hs hn => ?badEid, fun s hdr type hs hn => ?badType⟩
  case silent =>
    have silent := s.hw.sideband_silent hs
    exact ⟨keep_idle (f := (·.setEndpointId hdr op eid)) rfl (silent _), keep_idle (f := (·.getEndpointId hdr)) rfl (silent _),
      keep_idle (f := (·.getMctpVersionSupport hdr type)) rfl (silent _),
      keep_idle (f := (·.getMessageTypeSupport hdr)) rfl (silent _), keep_idle (f := Hw.capability) rfl (silent _),
      keep_idle (f := Hw.statusByte) rfl (silent _), keep_idle (f := Hw.statusWord) rfl (silent _),
      keep_idle (f := Hw.statusInputRead) rfl (silent _), keep_idle (f := Hw.statusTemperature) rfl (silent _),
      keep_idle (f := Hw.statusCmlRead) rfl (silent _), keep_idle (f := (·.readIin v)) rfl (silent _),
      keep_idle (f := (·.readPin v)) rfl (silent _), keep_idle (f := Hw.pmbusRevision) rfl (silent _),
      keep_idle (f := Hw.mfrId) rfl (silent _), keep_idle (f := Hw.mfrModel) rfl (silent _),
      keep_idle (f := (·.unsupportedCommand code)) rfl (by simp [Hw.unsupportedCommand, hs]),
      keep_idle (f := Hw.pecError) rfl (by simp [Hw.pecError, hs]),
      keep_idle (f := Hw.alertResponse) rfl (by simp [Hw.alertResponse, hs]),
      keep_idle (f := Hw.smbusTimeout) rfl (by simp [Hw.smbusTimeout, hs]),
      sense_idle (f := (·.readVin v)) rfl (silent _), sense_idle (f := (·.readTemp 1 v)) rfl (silent _),
      sense_idle (f := (·.readTemp 2 v)) rfl (silent _), sense_idle (f := (·.readTemp 3 v)) rfl (silent _),
      sense_idle (f := (·.clearFaults v temps)) rfl (silent _)⟩
  case unsupported =>
    refine completes_keep (f := (·.unsupportedCommand code)) rfl ?_
    obtain ⟨o, e⟩ := s.hw.sbdRaise_eq 0 0 0x80
    simp only [Hw.unsupportedCommand, hs, hc, e, Bool.not_true, Bool.false_eq_true, if_false]
    have set := Hw.fld_setFld_lt (({ s.hw.withStatus 0 0 0x80 with out := o } : Hw).emit .nack) F.SBD_STAT_BADCMD 0 0 1
      (by decide) (by decide) (by decide)
    exact ⟨rfl, beq_iff_eq.2 set, bit_toNat_or_right _ (by decide), rfl,
      Hw.fld_setFld_reg (({ s.hw.withStatus 0 0 0x80 with out := o } : Hw).emit .nack) _ _ _ _ _ _ _ (by decide), rfl, rfl⟩
  case readOnly =>
    refine completes_keep (f := (·.unsupportedCommand code)) rfl ?_
    obtain ⟨o, e⟩ := s.hw.sbdRaise_eq 0 0 0x80
    simp only [Hw.unsupportedCommand, hs, hc, e, Bool.not_true, Bool.false_eq_true, if_false, if_true]
    exact ⟨Hw.flag_congr (Hw.fld_counted ({ s.hw.withStatus 0 0 0x80 with out := o } : Hw) _ (by decide) 0 0),
      bit_toNat_or_right _ (by decide), rfl, s.hw.xfers_counted (g := { s.hw.withStatus 0 0 0x80 with out := o }) rfl, rfl, rfl⟩
  case pec =>
    refine completes_keep (f := Hw.pecError) rfl ?_
    obtain ⟨o, e⟩ := s.hw.sbdRaise_eq 0 0 0x20
    simp only [Hw.pecError, hs, e, if_true]
    have set := Hw.fld_setFld_lt ({ s.hw.withStatus 0 0 0x20 with out := o } : Hw) F.SBD_STAT_PEC 0 0 1
      (by decide) (by decide) (by decide)
    exact ⟨beq_iff_eq.2 set, bit_toNat_or_right _ (by decide), rfl,
      Hw.fld_setFld_reg ({ s.hw.withStatus 0 0 0x20 with out := o } : Hw) _ _ _ _ _ _ _ (by decide), rfl, rfl⟩
  case timeout =>
    refine completes_keep (f := Hw.smbusTimeout) rfl ?_
    simp only [Hw.smbusTimeout, hs, if_true]
    have set := s.hw.fld_setFld_lt F.SBD_STAT_TIMEOUT 0 0 1 (by decide) (by decide) (by decide)
    exact ⟨beq_iff_eq.2 set, rfl, rfl, Hw.fld_setFld_reg s.hw _ _ _ _ _ _ _ (by decide), rfl, rfl⟩
  case alert =>
    refine completes_keep (f := Hw.alertResponse) rfl ?_
    simp only [Hw.alertResponse, hs, ha, Bool.and_self, if_true]
    rw [Hw.sideband_counts _ (by exact hs)]
    exact ⟨rfl, rfl, rfl, rfl, rfl, s.hw.xfers_counted rfl, rfl, rfl⟩
  case quiet => exact keep_idle (f := Hw.alertResponse) rfl (by simp [Hw.alertResponse, ha])
  case clear =>
    refine completes_sense (f := (·.clearFaults v temps)) rfl ?_
    obtain ⟨g, sensed, e⟩ := s.hw.clearFaults_eq hs v temps
    obtain ⟨input, alert, cml, cots⟩ := g.clearStatus_says v temps
    rw [e]
    refine ⟨sensed.input ▸ input, alert, fun f => cml ?_, cots.trans sensed.cots⟩
    rw [Hw.flag, sensed.fld_eq _ rfl (by decide) (by decide)]
    exact f
  case badEid =>
    refine completes_keep (f := (·.setEndpointId hdr op eid)) rfl ?_
    rw [Hw.setEndpointId, s.hw.sideband_counts hs, if_neg hn]
    obtain ⟨out, counted, mem, id, -⟩ := s.hw.mctpReply_says hdr 1 2 [] s.hw.power
    exact ⟨out, id, counted, mem⟩
  case badType =>
    refine completes_keep (f := (·.getMctpVersionSupport hdr type)) rfl ?_
    rw [Hw.getMctpVersionSupport, s.hw.sideband_counts hs, if_neg hn]
    obtain ⟨out, counted, mem, -⟩ := s.hw.mctpReply_says hdr 4 0x80 [] s.hw.power
    exact ⟨out, counted, mem⟩

end Sys2Proof

/-! SUPPORT. Warnings of the power controller, CCLK and module sleep (R472 to R476, R497, R505). -/

namespace Sys2Proof.Machine

/-- A command that ends module sleep leaves the rest of the power controller. -/
theorem completes_wakes {i : Instr} {s : State} {f : Hw → Hw} {P : Hw → Prop} (e : exec i s = s.runWake f)
    (w : (f s.hw).power.asleep = false) (p : P ((f s.hw).setPower { s.hw.power with asleep := false })) : Completes i s P :=
  ⟨_, e, rfl, by simpa only [w, Bool.false_and] using p⟩

namespace Hw

variable (h : Hw)

theorem flag_setFld_b2n {f : Fld} (b : Bool) (i j : Nat) (w : f.lo ≤ f.hi) (u : f.hi < 64) :
    (h.setFld f i j (b2n b)).flag f i j = b := by
  rw [flag, fld_setFld_b2n _ _ _ _ _ w u]
  cases b <;> rfl

theorem flag_setFld_one {f : Fld} (i j : Nat) (w : f.lo ≤ f.hi) (u : f.hi < 64) : (h.setFld f i j 1).flag f i j = true :=
  flag_setFld_b2n h true i j w u

theorem flag_setFld_zero {f : Fld} (i j : Nat) (w : f.lo ≤ f.hi) (u : f.hi < 64) : (h.setFld f i j 0).flag f i j = false :=
  flag_setFld_b2n h false i j w u

/-! ### VIN and PWRFAIL (R473, R475, R476) -/

/-- A change of LOWVIN shows it and VIN; its record changes nothing of them. -/
theorem lowvinChange_says (v : Nat) (on : Bool) : let g := h.lowvinChange v on
    g.flag F.PWR_STAT_LOWVIN = on ∧ g.power = { h.power with vin := v } ∧ g.sbd = h.sbd ∧ g.par = h.par ∧ g.cots = h.cots ∧
      g.gran = h.gran := by
  have only : RecordsOnly (h.lowvinChange v on) ((h.vinSense v).setFld F.PWR_STAT_LOWVIN 0 0 (b2n on)) :=
    RecordsOnly.ite _ (RecordsOnly.raiseModule _ _ _ _ _) (RecordsOnly.refl _)
  exact ⟨(only.flag_eq _ _ _ rfl).trans (flag_setFld_b2n _ _ _ _ (by decide) (by decide)), only.power, only.sbd, only.par,
    only.cots, only.gran⟩

/-- PWRFAIL raised shows itself and sets its status bit; beside that it leaves a record, and events of the PFs. -/
theorem pwrfailRaised_only (v : Nat) (byPin : Bool) :
    RecordsOnly (h.pwrfailRaised v byPin) ((h.setFld F.PWR_STAT_PWRFAIL 0 0 1).withStatus inputPwrfail 0 0) := by
  unfold pwrfailRaised
  have raised := (h.setFld F.PWR_STAT_PWRFAIL 0 0 1).sbdRaise_only inputPwrfail 0 0
  have told (g : Hw) : RecordsOnly (if g.flag F.ERR_STAT_FATAL then (g.eqFlip 0).eqFlip 129 else g.each [0, 1] fun h p =>
      if h.flag F.PWR_EVT_EN 0 p then h.event (129 * p) (h.fld F.PWR_EVT_VEC 0 p) else h) g :=
    RecordsOnly.ite _ ((RecordsOnly.eqFlip _ _).trans (RecordsOnly.eqFlip _ _))
      (RecordsOnly.each _ (fun h p => RecordsOnly.ite _ (RecordsOnly.event _ _ _) (RecordsOnly.refl _)) _ _)
  exact RecordsOnly.ite _ ((told _).trans ((RecordsOnly.raiseModule _ _ _ _ _).trans raised)) raised

/-- The sources of PWRFAIL as they stand, shown with VIN. -/
def warns (h : Hw) (pin droop : Bool) (v : Nat) : Hw :=
  (({ h with power := { h.power with vin := v, warnPin := pin, droop := droop } } : Hw).setFld F.PWR_SENSE_VIN 0 0 v).setFld
    F.PWR_STAT_WARN 0 0 (b2n (pin || droop))

theorem pwrfail_eq (hs : h.power.standby = true) (pin : Bool) (v mean : Nat) : h.pwrfail pin v mean =
    let droop := decide (v * 100 < mean * (100 - h.fld F.PWR_DROOP_PCT)) || decide (v < h.fld F.PWR_DROOP_ABS)
    if (pin && !h.power.warnPin) || (droop && !h.power.droop) then
      (h.warns pin droop v).pwrfailRaised v (pin && !h.power.warnPin)
    else h.warns pin droop v := by
  have pct : (h.vinSense v).fld F.PWR_DROOP_PCT = h.fld F.PWR_DROOP_PCT := fld_setFld_reg _ _ _ _ _ _ _ _ (by decide)
  have abs : (h.vinSense v).fld F.PWR_DROOP_ABS = h.fld F.PWR_DROOP_ABS := fld_setFld_reg _ _ _ _ _ _ _ _ (by decide)
  simp only [pwrfail, hs, pct, abs, Bool.not_true, Bool.false_eq_true, if_false]
  rfl

theorem warns_says (pin droop : Bool) (v : Nat) : let g := h.warns pin droop v
    g.flag F.PWR_STAT_WARN = (pin || droop) ∧ g.flag F.PWR_STAT_PWRFAIL = h.flag F.PWR_STAT_PWRFAIL := by
  refine ⟨flag_setFld_b2n _ _ _ _ (by decide) (by decide), flag_congr ?_⟩
  rw [warns, fld_setFld_bits _ _ _ _ _ _ _ _ (by decide) (by decide) (by decide),
    fld_setFld_reg _ _ _ _ _ _ _ _ (by decide)]
  rfl

/-! ### Module sleep (R474) -/

theorem tmrModes_power : h.tmrModes.power = h.power :=
  each_keeps (·.power) _ (fun h u => by dsimp only; split <;> rfl) _ h

/-- The modes of the timer units change no register but theirs. -/
theorem reg_tmrModes (n : RegName) (i j : Nat) (hn : n ∉ [RegName.RVE_PERF, .RVE_STAT, .TMR_STAT]) :
    h.tmrModes.reg n i j = h.reg n i j := by
  obtain ⟨⟨-, -, -, -, -, -, -, -, -, -, -, -, reg⟩, -⟩ := h.tmrModes_says 0
  simp only [List.mem_cons, List.not_mem_nil, or_false, not_or] at hn
  exact reg n i j hn.1 hn.2.1 hn.2.2

theorem fld_tmrModes (f : Fld) (i j : Nat) (hf : f.reg ∉ [RegName.RVE_PERF, .RVE_STAT, .TMR_STAT]) :
    h.tmrModes.fld f i j = h.fld f i j := by simp only [fld, h.reg_tmrModes _ _ _ hf]

theorem tmrModes_keeps : h.tmrModes.mem = h.mem ∧ h.tmrModes.cots = h.cots ∧ h.tmrModes.par = h.par := by
  obtain ⟨⟨mem, -, -, -, -, -, -, -, -, cots, par, -⟩, -⟩ := h.tmrModes_says 0
  exact ⟨mem, cots, par⟩

/-- What the end of module sleep leaves (R474). -/
theorem sleepEnds_says : let g := h.sleepEnds
    g.power = { h.power with asleep := false } ∧ g.flag F.PWR_STAT_SLEEP = false ∧ g.flag F.PWR_CTL_SLEEP = false ∧
      g.mem = h.mem ∧ g.cots = h.cots ∧ g.par = h.par ∧
      ∀ f : Fld, f.reg ∉ [RegName.RVE_PERF, .RVE_STAT, .TMR_STAT, .PWR_STAT, .PWR_CTL] → g.fld f = h.fld f := by
  obtain ⟨mem, cots, par⟩ := tmrModes_keeps ((({ h with power := { h.power with asleep := false } } : Hw).setFld
    F.PWR_STAT_SLEEP 0 0 0).setFld F.PWR_CTL_SLEEP 0 0 0)
  refine ⟨tmrModes_power _, ?stat, ?ctl, mem, cots, par, fun f hf => ?_⟩
  case stat =>
    exact (flag_congr ((fld_tmrModes _ _ _ _ (by decide)).trans (fld_setFld_reg _ _ _ _ _ _ _ _ (by decide)))).trans
      (flag_setFld_zero _ _ _ (by decide) (by decide))
  case ctl =>
    exact (flag_congr (fld_tmrModes _ _ _ _ (by decide))).trans (flag_setFld_zero _ _ _ (by decide) (by decide))
  · simp only [List.mem_cons, List.not_mem_nil, or_false, not_or] at hf
    obtain ⟨perf, rve, tmr, stat, ctl⟩ := hf
    rw [sleepEnds, fld_tmrModes _ _ _ _ (by simp [perf, rve, tmr]), fld_setFld_reg _ _ _ _ _ _ _ _ (Ne.symm ctl),
      fld_setFld_reg _ _ _ _ _ _ _ _ (Ne.symm stat)]
    rfl

/-- The banks of a list of parishes go into retention. -/
def retains (h : Hw) (l : List Nat) : Hw :=
  h.each l fun h n => (h.setReg .LRD_RETSTAT n 0 (BitVec.allOnes 64)).modParish n fun p => { p with banksWaking := [] }

theorem reg_retains {l : List Nat} {m : Nat} : ∀ {h : Hw}, (m ∈ l ∨ h.reg .LRD_RETSTAT m 0 = BitVec.allOnes 64) →
    (h.retains l).reg .LRD_RETSTAT m 0 = BitVec.allOnes 64 := by
  induction l with
  | nil => exact fun hm => hm.resolve_left List.not_mem_nil
  | cons n l ih =>
    intro h hm
    refine ih ?_
    rw [reg_modParish, reg_setReg]
    by_cases e : n = m
    · simp [e]
    · simpa [e, Ne.symm e] using hm

/-- What every write of a bank's retention keeps, the retention of a list keeps. -/
theorem retains_keeps {β : Type} (φ : Hw → β) (k : ∀ (h : Hw) (n : Nat) (q : Parish → Parish),
    φ ((h.setReg .LRD_RETSTAT n 0 (BitVec.allOnes 64)).modParish n q) = φ h) (l : List Nat) : φ (h.retains l) = φ h :=
  each_keeps φ (fun h n => (h.setReg .LRD_RETSTAT n 0 (BitVec.allOnes 64)).modParish n fun p => { p with banksWaking := [] })
    (fun h n => k h n _) l h

theorem fld_retains (l : List Nat) (f : Fld) (i j : Nat) (hf : RegName.LRD_RETSTAT ≠ f.reg) :
    (h.retains l).fld f i j = h.fld f i j :=
  h.retains_keeps (·.fld f i j) (fun h n q => by
    rw [fld_modParish, fld_setReg_reg h _ _ _ _ _ _ _ hf]) l

/-- The controller asleep. -/
def dozes (h : Hw) : Hw := { h with power := { h.power with asleep := true } }

/-- Sleep shown in the registers. -/
def sleepShown (h : Hw) : Hw := (h.dozes.setFld F.PWR_STAT_SLEEP 0 0 1).setFld F.PWR_CTL_SLEEP 0 0 1

theorem sleepEnters_eq :
    h.sleepEnters = ((h.sleepShown.retains (List.range 16)).setFld F.HBM_STAT_SR 0 0 0xF).tmrModes := by
  unfold sleepEnters sleepShown retains dozes
  with_reducible rfl

/-- What the entry of module sleep leaves: every bank in retention, every HBM stack in self-refresh (R474). -/
theorem sleepEnters_says : let g := h.sleepEnters
    g.power = { h.power with asleep := true } ∧ g.flag F.PWR_STAT_SLEEP = true ∧
      g.fld F.PWR_CTL_FORCE_RS = h.fld F.PWR_CTL_FORCE_RS ∧ (∀ n, n < 16 → g.reg .LRD_RETSTAT n 0 = BitVec.allOnes 64) ∧
      g.fld F.HBM_STAT_SR = 0xF ∧ g.cots = h.cots ∧ g.mem = h.mem := by
  have kept {β : Type} (φ : Hw → β) := h.sleepShown.retains_keeps φ
  obtain ⟨mem, cots, -⟩ := tmrModes_keeps ((h.sleepShown.retains (List.range 16)).setFld F.HBM_STAT_SR 0 0 0xF)
  rw [sleepEnters_eq]
  refine ⟨(tmrModes_power _).trans (kept (·.power) (fun _ _ _ => rfl) _), ?stat, ?force, fun n hn => ?banks, ?refresh,
    cots.trans (kept (·.cots) (fun _ _ _ => rfl) _), mem.trans (kept (·.mem) (fun _ _ _ => rfl) _)⟩
  case stat =>
    refine (flag_congr ?_).trans (flag_setFld_one h.dozes 0 0 (by decide) (by decide))
    rw [fld_tmrModes _ _ _ _ (by decide), fld_setFld_reg _ _ _ _ _ _ _ _ (by decide), fld_retains _ _ _ _ _ (by decide),
      sleepShown, fld_setFld_reg _ _ _ _ _ _ _ _ (by decide)]
  case force =>
    rw [fld_tmrModes _ _ _ _ (by decide), fld_setFld_reg _ _ _ _ _ _ _ _ (by decide), fld_retains _ _ _ _ _ (by decide),
      sleepShown, fld_setFld_bits _ _ _ _ _ _ _ _ (by decide) (by decide) (by decide),
      fld_setFld_reg _ _ _ _ _ _ _ _ (by decide)]
    rfl
  case banks =>
    rw [reg_tmrModes _ _ _ _ (by decide), reg_setFld_reg _ _ _ _ _ _ _ _ (by decide)]
    exact reg_retains (.inl (List.mem_range.2 hn))
  case refresh =>
    rw [fld_tmrModes _ _ _ _ (by decide)]
    exact fld_setFld_lt _ _ _ _ _ (by decide) (by decide) (by decide)

/-- A permitted write of SLEEP by a PF of PA or a core enters module sleep with FORCE_RS as written (R474). -/
theorem sleep_permitted {ag : Agent} (hv : h.sees ag .PWR_CTL 0 0 = true) (hm : h.maySleep = true)
    (hw : ag = .pf 0 ∨ ∃ r path, ag = .reeve r path) (rs : Bool) :
    h.sleep ag rs = (h.setFld F.PWR_CTL_FORCE_RS 0 0 (b2n rs)).sleepEnters := by
  have sleeps : bit (2 + b2n rs) 1 = true := by cases rs <;> decide
  have force : bits (2 + b2n rs) 0 0 = b2n rs := by cases rs <;> decide
  rcases hw with rfl | ⟨r, path, rfl⟩ <;>
    · simp only [sleep, pwrCtlWrite, sleeps, force, hm]
      exact h.guarded_open _ _ _ _ _ _ hv (by decide)

end Hw

end Sys2Proof.Machine

namespace Sys2Proof

open Sys2Proof.Machine

/-- Settles O59: VIN and the pins through what raising a sideband status leaves, module sleep through what its entry and its
end leave. -/
theorem powerWarnings : Obligations.PowerWarnings := by
  refine ⟨fun s v hv hs hl => ?lowSet, fun s v hv hs hl => ?lowClear, fun s v hv hs => ?ov, fun s pin v mean hs => ?pwrfail,
    fun s k t hs hk ht => ?temperature, fun s hs hc ha => ?cclk, fun s ag rs a hv hm hw => ?sleep, fun s ha => ?wakes⟩
  case lowSet =>
    refine completes_sense (f := (·.lowvinSet v)) rfl ?_
    obtain ⟨o, e⟩ := s.hw.sbdRaise_eq inputLow 0 0
    simp only [Hw.lowvinSet, hv, hs, hl, e, Bool.false_eq_true, not_false_eq_true, and_self, if_true]
    obtain ⟨low, power, sbd, par, cots, gran⟩ := Hw.lowvinChange_says { s.hw.withStatus inputLow 0 0 with out := o } v true
    exact ⟨low, by simp only [power, Hw.setPower_power]; rfl, congrArg Sideband.statusInput sbd, congrArg Sideband.alert sbd,
      par, cots, gran⟩
  case lowClear =>
    refine completes_sense (f := (·.lowvinClear v)) rfl ?_
    simp only [Hw.lowvinClear, hv, hs, hl, and_self, if_true]
    obtain ⟨low, power, sbd, par, cots, gran⟩ := s.hw.lowvinChange_says v false
    exact ⟨low, by simp only [power, Hw.setPower_power], sbd, par, cots, gran⟩
  case ov =>
    refine completes_sense (f := (·.ovWarning v)) rfl ?_
    obtain ⟨o, e⟩ := s.hw.sbdRaise_eq inputOv 0 0
    simp only [Hw.ovWarning, hv, hs, e, and_self, if_true]
    exact ⟨rfl, rfl, rfl, rfl, rfl, rfl, rfl, fun n i j hn => Hw.reg_setFld_reg _ _ _ _ _ _ _ _ hn.symm⟩
  case pwrfail =>
    refine completes_sense (f := (·.pwrfail pin v mean)) rfl ?_
    rw [s.hw.pwrfail_eq hs]
    dsimp only
    generalize (decide (v * 100 < mean * (100 - s.hw.fld F.PWR_DROOP_PCT)) ||
      decide (v < s.hw.fld F.PWR_DROOP_ABS)) = droop
    obtain ⟨warn, fail⟩ := s.hw.warns_says pin droop v
    generalize rises : ((pin && !s.hw.power.warnPin) || (droop && !s.hw.power.droop)) = r
    cases r
    case false => exact ⟨warn, rfl, rfl, rfl, rfl, nofun, fun _ => ⟨fail, rfl⟩⟩
    case true =>
      have only := (s.hw.warns pin droop v).pwrfailRaised_only v (pin && !s.hw.power.warnPin)
      have power : ((s.hw.warns pin droop v).pwrfailRaised v (pin && !s.hw.power.warnPin)).power =
          { s.hw.power with vin := v, warnPin := pin, droop := droop } := only.power
      simp only [if_true]
      refine ⟨?_, by simp only [power, Hw.setPower_power],  only.par, only.cots, only.gran, fun _ =>
        ⟨(only.flag_eq _ _ _ rfl).trans (Hw.flag_setFld_one _ _ _ (by decide) (by decide)),
          congrArg Sideband.statusInput only.sbd, congrArg Sideband.alert only.sbd⟩, nofun⟩
      exact (only.flag_eq _ _ _ rfl).trans ((Hw.flag_congr
        (Hw.fld_setFld_bits _ _ _ _ _ _ _ _ (by decide) (by decide) (by decide))).trans warn)
  case temperature =>
    refine completes_sense (f := (·.tempWarn k t)) rfl ?_
    have shown := s.hw.tempSense_shows (s := k) ht
    simp only [Hw.tempWarn, hs, if_true]
    simp only [Hw.fld_setPower, Hw.setPower_power, Hw.setPower_boot]
    refine ⟨?_, trivial, (s.hw.tempSense_keeps k t).1⟩
    rcases hk with rfl | rfl | rfl <;> simpa [Hw.senseFld] using shown
  case cclk =>
    refine completes_run (f := Hw.cclkSwitch) rfl ?_
    simp only [Hw.cclkSwitch, hs, hc, ha, Bool.not_false, Bool.and_self, if_true]
    refine ⟨rfl, ?_, rfl, rfl, rfl⟩
    rw [Bool.not_not]
    exact Hw.flag_setFld_b2n _ _ _ _ (by decide) (by decide)
  case sleep =>
    refine completes_live (f := (·.sleep ag rs)) rfl a ?_
    rw [s.hw.sleep_permitted hv hm hw rs]
    obtain ⟨power, stat, force, banks, refresh, cots, mem⟩ := (s.hw.setFld F.PWR_CTL_FORCE_RS 0 0 (b2n rs)).sleepEnters_says
    refine ⟨by simp only [power, Hw.setPower_power], stat, ?_, banks, refresh, cots, mem⟩
    exact (Hw.flag_congr force).trans (Hw.flag_setFld_b2n _ _ _ _ (by decide) (by decide))
  case wakes =>
    obtain ⟨power, stat, ctl, mem, cots, par, -⟩ := s.hw.sleepEnds_says
    have e : s.hw.sleepExit = s.hw.sleepEnds := if_pos ha
    refine completes_wakes (f := Hw.sleepExit) rfl (by rw [e, power]) ?_
    rw [e]
    exact ⟨rfl, stat, ctl, par, cots, mem⟩

end Sys2Proof

/-! SUPPORT. Claims, completions and notifications of the parish interrupt controllers (R387 to R396). -/

namespace Sys2Proof.Machine

/-- A number given by its bits, the lowest first: what it holds and its bound. -/
theorem sumBits_says (p : Nat → Bool) (k : Nat) :
    let n := (List.range k).foldl (fun acc b => acc + b2n (p b) * 2 ^ b) 0
    n < 2 ^ k ∧ ∀ b, n.testBit b = (decide (b < k) && p b) := by
  induction k with
  | zero => simp
  | succ k ih =>
    obtain ⟨lt, bits⟩ := ih
    simp only [List.range_succ, List.foldl_append, List.foldl_cons, List.foldl_nil]
    rw [Nat.add_comm, Nat.mul_comm]
    refine ⟨?_, fun b => ?_⟩
    · have : b2n (p k) ≤ 1 := by unfold b2n; split <;> omega
      have := Nat.mul_le_mul_left (2 ^ k) this
      rw [Nat.pow_succ]
      omega
    · rw [Nat.testBit_two_pow_mul_add _ lt, bits]
      rcases Nat.lt_trichotomy b k with l | rfl | l
      · simp [l, Nat.lt_succ_of_lt l]
      · cases p b <;> simp [b2n]
      · have far : ∀ q : Bool, (b2n q).testBit (b - k) = false := fun q => by
          obtain ⟨m, e⟩ : ∃ m, b - k = m + 1 := ⟨b - k - 1, by omega⟩
          cases q <;> simp [b2n, e, Nat.testBit_succ]
        simp [Nat.not_lt.2 (Nat.le_of_lt l), far, show ¬ b < k + 1 by omega]

/-- The only bit of a word. -/
theorem filter_bit_one {v b : Nat} (hv : ∀ j, j < 32 → bit v j = decide (j = b)) (hb : b < 32) :
    (List.range 32).filter (bit v) = [b] := by
  rw [List.filter_congr fun j hj => hv j (List.mem_range.1 hj)]
  exact (by decide : ∀ b < 32, (List.range 32).filter (fun j => decide (j = b)) = [b]) b hb

namespace Hw

variable (h : Hw)

/-- A word names the sources that its bits select. -/
theorem mem_wordBits {w v i : Nat} : i ∈ wordBits w v ↔ i / 32 = w ∧ bit v (i % 32) = true := by
  simp only [wordBits, List.mem_map, List.mem_filter, List.mem_range]
  constructor
  · rintro ⟨b, ⟨lt, on⟩, rfl⟩
    have : (32 * w + b) % 32 = b := by omega
    exact ⟨by omega, by rwa [this]⟩
  · rintro ⟨rfl, on⟩
    exact ⟨i % 32, ⟨by omega, on⟩, by omega⟩

theorem wordBits_one {w b v : Nat} (hv : ∀ j, j < 32 → bit v j = decide (j = b)) (hb : b < 32) : wordBits w v = [32 * w + b] := by
  rw [wordBits, filter_bit_one hv hb, List.map_singleton]

/-- The sources of a word for which a condition holds are those that its number selects. -/
theorem mem_wordBits_wordOf {w i : Nat} (p : Nat → Bool) : i ∈ wordBits w (wordOf w p) ↔ i / 32 = w ∧ p i = true := by
  rw [mem_wordBits, bit_eq_testBit, wordOf, (sumBits_says (fun b => p (32 * w + b)) 32).2]
  refine and_congr_right fun e => ?_
  have : 32 * w + i % 32 = i := by omega
  simp [this, Nat.mod_lt]

/-- What an answer leaves: it sends, and no more. -/
theorem answer_eq (ag : Agent) (v : Nat) : ∃ o, h.answer ag v = { h with out := o } := by
  unfold answer
  split
  · split <;> exact ⟨_, rfl⟩
  · exact ⟨_, rfl⟩

/-- A claim of a word: every source it may claim becomes active and is pending no more, and no other source changes (R389). -/
theorem picTakeRead_says (n w : Nat) : let g := (h.picTakeRead n w).2
    (∀ i, i / 32 = w → h.picClaims n i = true →
      i ∈ (g.parish n).pic.act ∧ ¬ i ∈ (g.parish n).pic.pend ∧ ¬ i ∈ (g.parish n).pic.notify) ∧
    ∀ i, ¬ (i / 32 = w ∧ h.picClaims n i = true) →
      (i ∈ (g.parish n).pic.act ↔ i ∈ (h.parish n).pic.act) ∧ (i ∈ (g.parish n).pic.pend ↔ i ∈ (h.parish n).pic.pend) := by
  have claimed (i : Nat) := mem_wordBits_wordOf (w := w) (i := i) (h.picClaims n)
  simp only [picTakeRead, parish_modParish, if_true, List.mem_append, List.mem_filter, Bool.not_eq_true', List.contains_eq_mem,
    decide_eq_false_iff_not, claimed]
  exact ⟨fun i e c => by simp [e, c], fun i no => by simp [no]⟩

/-- A delivery falls due in the controller's own queue alone. -/
theorem picDue_pic (n i m : Nat) : ((h.picDue n i).parish m).pic.act = (h.parish m).pic.act ∧
    ((h.picDue n i).parish m).pic.pend = (h.parish m).pic.pend := by
  unfold picDue
  dsimp only
  split
  · rw [parish_modParish]
    split
    case isTrue e => subst e; exact ⟨rfl, rfl⟩
    case isFalse => exact ⟨rfl, rfl⟩
  · exact ⟨rfl, rfl⟩

theorem picEvent_act (n i m : Nat) : ((h.picEvent n i).parish m).pic.act = (h.parish m).pic.act := by
  unfold picEvent
  dsimp only
  split
  · rfl
  · rw [(picDue_pic _ _ _ _).1, parish_modParish]
    split
    case isTrue e => subst e; rfl
    case isFalse => rfl

/-- The completion of an active edge source ends its activity (R389). -/
theorem picComplete_edge {n i : Nat} (ha : i ∈ (h.parish n).pic.act) (he : picIsLevel i = false) : let g := h.picComplete n i
    ¬ i ∈ (g.parish n).pic.act ∧ (g.parish n).pic.pend = (h.parish n).pic.pend ∧ g.regs = h.regs ∧ g.mem = h.mem ∧
      g.cots = h.cots := by
  simp [picComplete, ha, he, picDue_pic]

/-- A write of PIC_EN stores the enables; it makes nothing pending or active (R388). -/
theorem picEnWrite_says {ag : Agent} {n w : Nat} {v : Word} (hs : h.sees ag .PIC_EN n w = true)
    (hl : h.changesLocked ag .PIC_EN n w v.toNat = false) : let g := h.picEnWrite ag n w v
    g.fld F.PIC_EN_EN n w = v.toNat ∧ (g.parish n).pic.pend = (h.parish n).pic.pend ∧
      (g.parish n).pic.act = (h.parish n).pic.act ∧ g.mem = h.mem ∧ g.cots = h.cots := by
  dsimp only
  rw [picEnWrite, guarded_ok _ _ _ _ _ _ _ _ hs hl rfl]
  dsimp only
  refine ⟨(each_keeps (·.fld F.PIC_EN_EN n w) _ (fun h i => fld_picDue h n i _ _ _) _ _).trans ?stored,
    (each_keeps (fun h : Hw => (h.parish n).pic.pend) _ (fun h i => (h.picDue_pic n i n).2) _ _).trans (by simp),
    (each_keeps (fun h : Hw => (h.parish n).pic.act) _ (fun h i => (h.picDue_pic n i n).1) _ _).trans (by simp),
    each_keeps (·.mem) _ (fun h i => picDue_mem h n i) _ _, each_keeps (·.cots) _ (fun h i => picDue_cots h n i) _ _⟩
  case stored =>
    refine (fld_storeFields h .PIC_EN n w v.toNat F.PIC_EN_EN ⟨31, 0, .rw, 0⟩ (by decide) rfl (by decide)).trans ?_
    have := v.isLt
    simp only [Acc.store, bits, Nat.pow_zero, Nat.div_one]
    omega

/-! ### Notifications (R394, R396, R391) -/

/-- Source i of parish n is due no longer. -/
def notified (h : Hw) (n i : Nat) : Hw :=
  h.modParish n fun x => { x with pic := { x.pic with notify := x.pic.notify.filter (· ≠ i) } }

/-- A parish's controller sends the one notification that is due to its target. -/
theorem notification_one {n i t : Nat} (hi : (h.parish n).pic.notify = [i]) (ht : h.picTarget n i = some t) :
    h.notification n =
      let g := (h.notified n i).setFld F.PIC_RR_LAST n 0 t
      if t < 4 then g.setFld F.RVE_IRQ_PARISH 0 t (g.fld F.RVE_IRQ_PARISH 0 t ||| 2 ^ n)
      else g.event (129 * g.fld F.PIC_MSIX_PORT n (t - 4)) (g.fld F.PIC_MSIX_VEC n (t - 4)) := by
  have target (x : Parish → Parish) : (h.modParish n x).picTarget n i = some t := ht
  simp only [notification, hi, List.foldl_nil, target]
  rfl

theorem notified_notify {n i : Nat} (hi : (h.parish n).pic.notify = [i]) : ((h.notified n i).parish n).pic.notify = [] := by
  simp [notified, hi]

end Hw

end Sys2Proof.Machine

namespace Sys2Proof

open Sys2Proof.Machine

/-- Settles O28: a claim, a completion, an event and a notification of a parish's controller through the law of each. -/
theorem parishInterrupts : Obligations.ParishInterrupts := by
  refine ⟨fun s ag n w a hv => ?take, fun s ag n w b v a hv hl hb lt ha he => ?act,
    fun s ag n w b v a hv hl hb lt he => ⟨fun free => ?set, fun reserved => ?unused⟩, fun s ag n w v a hv hl => ?enable,
    fun s n i t a hi hn ht => ⟨fun core => ?toCore, fun fn lt => ?toFn⟩, fun s n i a hi => ?vanish⟩
  case take =>
    refine completes_live (f := (·.picTake ag n w)) rfl a ?_
    obtain ⟨claimed, others⟩ := s.hw.picTakeRead_says n w
    obtain ⟨o, e⟩ := (s.hw.picTakeRead n w).2.answer_eq ag (s.hw.picTakeRead n w).1
    simp only [Hw.picTake, hv, if_true, e]
    exact ⟨claimed, others, rfl, rfl, rfl⟩
  case act =>
    refine completes_live (f := (·.picAct ag n w v)) rfl a ?_
    rw [Hw.picAct, Hw.guarded_ok _ _ _ _ _ _ _ _ hv hl rfl, Hw.wordBits_one hb lt]
    exact s.hw.picComplete_edge ha he
  case set =>
    refine completes_live (f := (·.picSet ag n w v)) rfl a ?_
    rw [Hw.picSet, Hw.guarded_ok _ _ _ _ _ _ _ _ hv hl rfl, Hw.wordBits_one hb lt, List.filter_cons, List.filter_nil]
    simp only [he, free, Bool.not_false, decide_false, Bool.and_self, if_true]
    exact ⟨s.hw.picEvent_pends _ _, s.hw.picEvent_act _ _ _, s.hw.picEvent_regs _ _, s.hw.picEvent_mem _ _,
      s.hw.picEvent_cots _ _⟩
  case unused =>
    refine completesAs_live (f := (·.picSet ag n w v)) rfl a ?_
    rw [Hw.picSet, Hw.guarded_ok _ _ _ _ _ _ _ _ hv hl rfl, Hw.wordBits_one hb lt, List.filter_cons, List.filter_nil]
    simp only [reserved, and_self, decide_true, Bool.not_true, Bool.and_false, Bool.false_eq_true, if_false]
    rfl
  case enable => exact completes_live (f := (·.picEnWrite ag n w v)) rfl a (s.hw.picEnWrite_says hv hl)
  case toCore =>
    refine completes_live (f := (·.notification n)) rfl a ?_
    rw [s.hw.notification_one hi ht]
    simp only [core, if_true]
    refine ⟨s.hw.notified_notify hi, ?last, ?irq, rfl, rfl⟩
    case last =>
      exact (Hw.fld_setFld_reg _ _ _ _ _ _ _ _ (by decide)).trans (Hw.fld_setFld_lt _ _ _ _ _ (by decide) (by decide)
        (Nat.lt_of_lt_of_le core (by decide)))
    case irq =>
      refine (congrArg (bit · n) (Hw.fld_setFld_same _ F.RVE_IRQ_PARISH 0 t _ (by decide) (by decide))).trans ?_
      rw [bit_eq_testBit, show F.RVE_IRQ_PARISH.hi + 1 - F.RVE_IRQ_PARISH.lo = 16 from rfl, Nat.testBit_mod_two_pow]
      simp [hn]
  case toFn =>
    refine completes_live (f := (·.notification n)) rfl a ?_
    rw [s.hw.notification_one hi ht]
    simp only [Nat.not_lt.2 fn, if_false]
    have only := Hw.RecordsOnly.event ((s.hw.notified n i).setFld F.PIC_RR_LAST n 0 t)
    refine ⟨(congrArg (·.pic.notify) ((only _ _).parish_eq n)).trans (s.hw.notified_notify hi),
      ((only _ _).fld_eq _ _ _ rfl).trans (Hw.fld_setFld_lt _ _ _ _ _ (by decide) (by decide) lt), (only _ _).cots⟩
  case vanish =>
    refine completes_live (f := (·.vanishSample n i)) rfl a ?_
    simp only [Hw.vanishSample, List.contains_iff_mem.2 hi, if_true]
    split
    · exact ⟨rfl, by simp, rfl, rfl⟩
    · exact ⟨Hw.fld_setFld_lt _ _ _ _ _ (by decide) (by decide) (Nat.lt_of_le_of_lt (Nat.min_le_right _ _) (by decide)),
        by simp, rfl, rfl⟩

end Sys2Proof

/-! SUPPORT. The cottage interrupt blocks and their virtual timers (R387 to R404). -/

namespace Sys2Proof.Machine.Hw

variable (h : Hw)

theorem atStamp_run {c : Nat} (hr : (h.ctx c).st = .run) (f : Hw → Stamp → Hw) : h.atStamp c f = f h (h.stamp c) := if_pos hr

/-- The IO state of a cottage after a change of it. -/
theorem io_modIo (c : Nat) (f : CotIo → CotIo) : ((h.modIo c f).cot c).io = f (h.cot c).io := by simp

/-! ### Claims and completions (R389, R402) -/

/-- A load of CIB_TAKE makes every source that is pending, enabled and not active active and no longer pending. -/
theorem cibTakeLoad_says (c : Nat) : let g := (h.cibTakeLoad c).2
    let v := (h.cot c).io.pend &&& ~~~(h.cot c).io.act &&& BitVec.ofNat 32 (h.ioWord c 0x9004)
    (g.cot c).io.pend = (h.cot c).io.pend &&& ~~~v ∧ (g.cot c).io.act = (h.cot c).io.act ||| v ∧ g.ctx c = h.ctx c ∧
      g.regs = h.regs ∧ g.mem = h.mem :=
  ⟨congrArg CotIo.pend (io_modIo _ _ _), congrArg CotIo.act (io_modIo _ _ _), ctx_modIo _ _ _ _, rfl, rfl⟩

/-- A store to CIB_ACT ends the activity of the sources it names. -/
theorem cibComplete_says (c : Nat) (v : Word) : let g := h.cibComplete c v
    (g.cot c).io.act = (h.cot c).io.act &&& ~~~v ∧ (g.cot c).io.pend = (h.cot c).io.pend ∧ g.ctx c = h.ctx c ∧
      g.regs = h.regs ∧ g.mem = h.mem :=
  ⟨congrArg CotIo.act (io_modIo _ _ _), (congrArg CotIo.pend (h.io_modIo c _)).trans rfl, ctx_modIo _ _ _ _, rfl, rfl⟩

/-! ### Events (R387, R400) -/

theorem ofNat_two_pow_getLsbD {i j : Nat} (hj : j < 32) : (BitVec.ofNat 32 (2 ^ i)).getLsbD j = decide (j = i) := by
  rw [BitVec.getLsbD_ofNat, Nat.testBit_two_pow]
  simp [hj, eq_comm]

/-- An event makes its source pending; it changes no other source, and neither the activity nor the words nor the timers. -/
theorem cibEvent_io (c i : Nat) (st : Stamp) : let t := ((h.cibEvent c i st).cot c).io
    (∀ j, j < 32 → t.pend.getLsbD j = ((h.cot c).io.pend.getLsbD j || decide (j = i))) ∧ t.act = (h.cot c).io.act ∧
      t.words = (h.cot c).io.words ∧ t.timers = (h.cot c).io.timers := by
  dsimp only
  rw [cibEvent, io_modIo]
  dsimp only
  split
  case isTrue on =>
    refine ⟨fun j _ => ?_, rfl, rfl, rfl⟩
    rw [bit_eq_testBit, BitVec.testBit_toNat] at on
    by_cases e : j = i
    · simp [e, on]
    · simp [e]
  case isFalse => exact ⟨fun j hj => by rw [BitVec.getLsbD_or, ofNat_two_pow_getLsbD hj], rfl, rfl, rfl⟩

theorem cibEvent_keeps (c i : Nat) (st : Stamp) : let g := h.cibEvent c i st
    g.ctx c = h.ctx c ∧ g.regs = h.regs ∧ g.mem = h.mem ∧ g.par = h.par := ⟨ctx_modIo _ _ _ _, rfl, rfl, rfl⟩

/-- Events of a list of sources make those pending. -/
theorem cibEvents_io (c : Nat) (st : Stamp) (l : List Nat) : ∀ h : Hw, let g := h.each l fun h i => h.cibEvent c i st
    (∀ j, j < 32 → (g.cot c).io.pend.getLsbD j = ((h.cot c).io.pend.getLsbD j || decide (j ∈ l))) ∧
      (g.cot c).io.act = (h.cot c).io.act := by
  induction l with
  | nil => exact fun h => ⟨fun j _ => by simp [each], rfl⟩
  | cons i l ih =>
    intro h
    obtain ⟨pend, act⟩ := ih (h.cibEvent c i st)
    obtain ⟨pend₁, act₁, -⟩ := h.cibEvent_io c i st
    refine ⟨fun j hj => (pend j hj).trans ?_, act.trans act₁⟩
    rw [pend₁ j hj, Bool.or_assoc]
    simp

/-- A store to CIB_SET makes the soft sources it names pending (R400). -/
theorem cibSoft_says (c : Nat) (v : Word) (st : Stamp) : let g := h.cibSoft c v st
    (∀ i, i < 32 → (g.cot c).io.pend.getLsbD i =
      ((h.cot c).io.pend.getLsbD i || (decide (12 ≤ i ∧ i ≤ 15) && v.getLsbD i))) ∧
    (g.cot c).io.act = (h.cot c).io.act ∧ g.ctx c = h.ctx c ∧ g.regs = h.regs ∧ g.mem = h.mem := by
  obtain ⟨pend, act⟩ := cibEvents_io c st ([12, 13, 14, 15].filter (bit v.toNat)) h
  have keeps (h : Hw) (i : Nat) := h.cibEvent_keeps c i st
  refine ⟨fun i hi => (pend i hi).trans ?_, act, each_keeps (·.ctx c) _ (fun h i => (keeps h i).1) _ _,
    each_keeps (·.regs) _ (fun h i => (keeps h i).2.1) _ _, each_keeps (·.mem) _ (fun h i => (keeps h i).2.2.1) _ _⟩
  have soft : i ∈ [12, 13, 14, 15] ↔ 12 ≤ i ∧ i ≤ 15 := by simp only [List.mem_cons, List.not_mem_nil, or_false]; omega
  simp only [List.mem_filter, soft, bit_eq_testBit, BitVec.testBit_toNat]
  simp

/-! ### Virtual timers (R404) -/

theorem ioWord_setIoWord_ne {c a b : Nat} (v : Nat) (hab : a ≠ b) : (h.setIoWord c a v).ioWord c b = h.ioWord c b := by
  rw [ioWord, setIoWord, io_modIo]
  dsimp only
  rw [NTable.get_set_ne _ _ _ _ _ _ hab, ioWord]

theorem vtimer_setVtimer {c k : Nat} (x : VTimer) (hk : k < (h.cot c).io.timers.length) : (h.setVtimer c k x).vtimer c k = x := by
  rw [vtimer, setVtimer, io_modIo]
  simp [hk]

/-- A store to CIB_VT_CTL arms its timer a period ahead of its stamp, or disarms it. -/
theorem vtCtlStore_says {c k : Nat} (v : Word) (st : Stamp) (hk : k < (h.cot c).io.timers.length) : let g := h.vtCtlStore c k v st
    let p := max 1 (h.ioWord c (0x9024 + 0x10 * k))
    g.vtimer c k = ⟨if v.getLsbD 0 then some (absCount (h.cls c) st + p) else none, p⟩ ∧
      (g.cot c).io.pend = (h.cot c).io.pend ∧ g.ctx c = h.ctx c ∧ g.regs = h.regs ∧ g.mem = h.mem := by
  have period : (h.setIoWord c (0x9020 + 0x10 * k) (v.toNat % 4)).ioWord c (0x9024 + 0x10 * k) = h.ioWord c (0x9024 + 0x10 * k) :=
    h.ioWord_setIoWord_ne _ (by omega)
  have cls : (h.setIoWord c (0x9020 + 0x10 * k) (v.toNat % 4)).cls c = h.cls c := rfl
  have timers : k < ((h.setIoWord c (0x9020 + 0x10 * k) (v.toNat % 4)).cot c).io.timers.length := by
    rw [setIoWord, io_modIo]; exact hk
  simp only [vtCtlStore, period, cls, vtimer_setVtimer _ _ timers, bit_eq_testBit, BitVec.testBit_toNat]
  refine ⟨by split <;> rfl, ?_, ?_, rfl, rfl⟩
  · rw [setVtimer, io_modIo, setIoWord, io_modIo]
  · rw [setVtimer, ctx_modIo, setIoWord, ctx_modIo]

/-- A due firing raises the timer's source; a periodic timer goes on by its period, and a one-shot one ends. -/
theorem vtFire_says {c k a : Nat} (ha : (h.vtimer c k).next = some a) (hd : a ≤ absCount (h.cls c) (h.stamp c)) (hk : k < 4)
    (hl : k < (h.cot c).io.timers.length) : let g := h.vtFire c k
    (g.cot c).io.pend.getLsbD (2 + k) = true ∧
      (g.vtimer c k).next = (if bit (h.ioWord c (0x9020 + 0x10 * k)) 1 = true then some (a + (h.vtimer c k).per) else none) ∧
      g.ctx c = h.ctx c ∧ g.regs = h.regs ∧ g.mem = h.mem := by
  have due : h.vtDue c k = true := by simp [vtDue, ha, hd]
  obtain ⟨pend, -, words, timers⟩ := h.cibEvent_io c (2 + k) (stampAt (h.cls c) a)
  obtain ⟨ctx, regs, mem, -⟩ := h.cibEvent_keeps c (2 + k) (stampAt (h.cls c) a)
  have fired := pend (2 + k) (by omega)
  rw [decide_eq_true rfl, Bool.or_true] at fired
  simp only [vtFire, ha, due, if_true]
  have word : (h.cibEvent c (2 + k) (stampAt (h.cls c) a)).ioWord c (0x9020 + 0x10 * k) = h.ioWord c (0x9020 + 0x10 * k) := by
    rw [ioWord, words, ioWord]
  have per : ((h.cibEvent c (2 + k) (stampAt (h.cls c) a)).vtimer c k) = h.vtimer c k := by rw [vtimer, timers, vtimer]
  rw [← timers] at hl
  rw [word, per]
  generalize h.cibEvent c (2 + k) (stampAt (h.cls c) a) = g at *
  split
  · refine ⟨?_, congrArg VTimer.next (g.vtimer_setVtimer _ hl), ?_, regs, mem⟩
    · rw [setVtimer, io_modIo]; exact fired
    · rw [setVtimer, ctx_modIo, ctx]
  · have off (x : Hw) (v : Nat) : (x.setIoWord c (0x9020 + 0x10 * k) v).vtimer c k = x.vtimer c k := by
      rw [vtimer, setIoWord, io_modIo, vtimer]
    refine ⟨?_, ?_, ?_, regs, mem⟩
    · rw [setIoWord, io_modIo, setVtimer, io_modIo]; exact fired
    · rw [off, vtimer_setVtimer _ _ hl]
    · rw [setIoWord, ctx_modIo, setVtimer, ctx_modIo, ctx]

end Sys2Proof.Machine.Hw

namespace Sys2Proof

open Sys2Proof.Machine

/-- Settles O29: each access of a cottage in RUN is its law at the present stamp. -/
theorem cottageInterrupts : Obligations.CottageInterrupts := by
  refine ⟨fun s c a hr => ?take, fun s c v a hr => ?act, fun s c v a hr => ?set, fun s c k v a hr hk hl => ?arm,
    fun s c k t a hn hd hk hl => ?fire, fun s c k a hn => ?idle⟩
  case take =>
    refine completes_live (f := (·.cibTake c)) rfl a ?_
    rw [Hw.cibTake, s.hw.atStamp_run hr]
    exact s.hw.cibTakeLoad_says c
  case act =>
    refine completes_live (f := (·.cibAct c v)) rfl a ?_
    rw [Hw.cibAct, s.hw.atStamp_run hr]
    exact s.hw.cibComplete_says c v
  case set =>
    refine completes_live (f := (·.cibSet c v)) rfl a ?_
    rw [Hw.cibSet, s.hw.atStamp_run hr]
    exact s.hw.cibSoft_says c v _
  case arm =>
    refine completes_live (f := (·.cibVtCtl c k v)) rfl a ?_
    rw [Hw.cibVtCtl, s.hw.atStamp_run hr]
    exact s.hw.vtCtlStore_says v _ hl
  case fire => exact completes_live (f := (·.vtFire c k)) rfl a (s.hw.vtFire_says hn hd hk hl)
  case idle =>
    refine completesAs_live (f := (·.vtFire c k)) rfl a ?_
    simp only [Hw.vtFire, hn]

end Sys2Proof

/-! SUPPORT. The timer units: ticks, matches, captures, low-frequency steps, pair reads (R408 to R414). -/

namespace Sys2Proof.Machine.Hw

variable (h : Hw)

theorem flag_setFld_reg (f g : Fld) (i j v i' j' : Nat) (d : f.reg ≠ g.reg) : (h.setFld f i j v).flag g i' j' = h.flag g i' j' :=
  flag_congr (fld_setFld_reg _ _ _ _ _ _ _ _ d)

theorem flag_setFld_bits (f g : Fld) (i j v i' j' : Nat) (w : f.lo ≤ f.hi) (u : g.hi < 64) (d : g.hi < f.lo ∨ f.hi < g.lo) :
    (h.setFld f i j v).flag g i' j' = h.flag g i' j' := flag_congr (fld_setFld_bits _ _ _ _ _ _ _ _ w u d)

/-- What a step of a unit's status leaves: every register but the units' status, memory and cottages. -/
structure StatOnly (g h : Hw) : Prop where
  reg : ∀ n i j, n ≠ .TMR_STAT → g.reg n i j = h.reg n i j
  mem : g.mem = h.mem
  cots : g.cots = h.cots

namespace StatOnly

variable {h} {g k : Hw}

theorem trans (a : StatOnly g h) (b : StatOnly h k) : StatOnly g k :=
  ⟨fun n i j e => (a.reg n i j e).trans (b.reg n i j e), a.mem.trans b.mem, a.cots.trans b.cots⟩

theorem setFld (f : Fld) (i j v : Nat) (e : f.reg = .TMR_STAT) : StatOnly (h.setFld f i j v) h :=
  ⟨fun _ _ _ d => reg_setFld_reg _ _ _ _ _ _ _ _ (e ▸ d.symm), rfl, rfl⟩

theorem fld (a : StatOnly g h) (f : Fld) (i j : Nat) (e : f.reg ≠ .TMR_STAT) : g.fld f i j = h.fld f i j := by
  simp only [Hw.fld, a.reg _ _ _ e]

/-- The 64-bit quantities of the units stay with it. -/
theorem wide (a : StatOnly g h) (f : Fld) (u : Nat) (e : f.reg ≠ .TMR_STAT) : g.tmrWide f u = h.tmrWide f u := by
  have link : g.tmrLinked u = h.tmrLinked u := by
    rw [tmrLinked, tmrLinked, flag_congr (a.fld F.TMR_CTL_LINK 0 u (by decide))]
  rw [tmrWide, tmrWide, link, a.fld f 0 u e, a.fld f 0 (u + 1) e]

end StatOnly

/-! ### Matches and stops (R409) -/

theorem tmrMatch_regs (u : Nat) : (h.tmrMatch u).regs = (h.setFld F.TMR_STAT_MATCH 0 u 1).regs := by
  unfold tmrMatch
  dsimp only
  split
  · exact picEvent_regs _ _ _
  · rfl

theorem tmrMatch_only (u : Nat) : StatOnly (h.tmrMatch u) h := by
  refine ⟨fun n i j e => ?_, ?_, ?_⟩
  · rw [reg, tmrMatch_regs]; exact reg_setFld_reg _ _ _ _ _ _ _ _ e.symm
  all_goals unfold tmrMatch tmrEvent; dsimp only; split
  · exact picEvent_mem _ _ _
  · rfl
  · exact picEvent_cots _ _ _
  · rfl

/-- A match with MIE raises its source. -/
theorem tmrMatch_pends {u : Nat} (hm : h.flag F.TMR_CTL_MIE 0 u = true) :
    480 + u ∈ ((h.tmrMatch u).parish (h.fld F.TMR_CTL_PIC 0 u)).pic.pend := by
  have on : (h.setFld F.TMR_STAT_MATCH 0 u 1).flag F.TMR_CTL_MIE 0 u = true :=
    (h.flag_setFld_reg _ _ _ _ _ _ _ (by decide)).trans hm
  have pic : (h.setFld F.TMR_STAT_MATCH 0 u 1).fld F.TMR_CTL_PIC 0 u = h.fld F.TMR_CTL_PIC 0 u :=
    fld_setFld_reg _ _ _ _ _ _ _ _ (by decide)
  simp only [tmrMatch, on, if_true, tmrEvent, pic]
  exact picEvent_pends _ _ _

theorem flag_tmrMatch (f : Fld) (u i j : Nat) : (h.tmrMatch u).flag f i j = (h.setFld F.TMR_STAT_MATCH 0 u 1).flag f i j := by
  simp only [flag, fld, reg, tmrMatch_regs]

/-- A match event: MATCH and DWELL are set, RUN stays, and with MIE the source is pending. -/
theorem tmrHit_says (u : Nat) : let g := h.tmrHit u
    g.flag F.TMR_STAT_MATCH 0 u = true ∧ g.flag F.TMR_STAT_DWELL 0 u = true ∧
      g.flag F.TMR_STAT_RUN 0 u = h.flag F.TMR_STAT_RUN 0 u ∧
      (h.flag F.TMR_CTL_MIE 0 u = true → 480 + u ∈ (g.parish (h.fld F.TMR_CTL_PIC 0 u)).pic.pend) ∧ StatOnly g h := by
  refine ⟨?_, flag_setFld_one _ _ _ (by decide) (by decide), ?_, h.tmrMatch_pends,
    (StatOnly.setFld _ _ _ _ rfl).trans (h.tmrMatch_only u)⟩
  all_goals rw [tmrHit, flag_setFld_bits _ _ _ _ _ _ _ _ (by decide) (by decide) (by decide), flag_tmrMatch]
  · exact flag_setFld_one _ _ _ (by decide) (by decide)
  · exact flag_setFld_bits _ _ _ _ _ _ _ _ (by decide) (by decide) (by decide)

/-- A stop: RUN and DWELL are clear. -/
theorem tmrStops_says (u : Nat) : let g := h.tmrStops u
    g.flag F.TMR_STAT_RUN 0 u = false ∧ g.flag F.TMR_STAT_DWELL 0 u = false ∧
      g.flag F.TMR_STAT_MATCH 0 u = h.flag F.TMR_STAT_MATCH 0 u ∧ g.par = h.par ∧ StatOnly g h := by
  refine ⟨?_, flag_setFld_zero _ _ _ (by decide) (by decide), ?_, rfl,
    (StatOnly.setFld _ _ _ _ rfl).trans (StatOnly.setFld _ _ _ _ rfl)⟩
  all_goals rw [tmrStops, flag_setFld_bits _ _ _ _ _ _ _ _ (by decide) (by decide) (by decide)]
  · exact flag_setFld_zero _ _ _ (by decide) (by decide)
  · exact flag_setFld_bits _ _ _ _ _ _ _ _ (by decide) (by decide) (by decide)

/-- A unit that misses its compare value stops with MISSED. -/
theorem tmrMissed_says (u : Nat) : let g := (h.tmrStops u).setFld F.TMR_STAT_MISSED 0 u 1
    g.flag F.TMR_STAT_MISSED 0 u = true ∧ g.flag F.TMR_STAT_RUN 0 u = false ∧ g.par = h.par ∧ StatOnly g h := by
  obtain ⟨run, -, -, par, only⟩ := h.tmrStops_says u
  exact ⟨flag_setFld_one _ _ _ (by decide) (by decide),
    (flag_setFld_bits _ _ _ _ _ _ _ _ (by decide) (by decide) (by decide)).trans run, par,
    (StatOnly.setFld _ _ _ _ rfl).trans only⟩

/-! ### Counts, comparators and captures (R411, R413) -/

theorem setTmrWide_eq (f : Fld) (u v : Nat) (hf : f.reg ≠ .TMR_CTL) : h.setTmrWide f u v =
    if h.tmrLinked u then (h.setFld f 0 u v).setFld f 0 (u + 1) (v / 2 ^ 32) else h.setFld f 0 u v := by
  have link : (h.setFld f 0 u v).tmrLinked u = h.tmrLinked u := by rw [tmrLinked, tmrLinked, h.flag_setFld_reg _ _ _ _ _ _ _ hf]
  rw [setTmrWide, link]

/-- A store of a 64-bit quantity writes one register, of the unit and its other half. -/
theorem setTmrWide_only (f : Fld) (u v : Nat) : let g := h.setTmrWide f u v
    (∀ n i j, n ≠ f.reg → g.reg n i j = h.reg n i j) ∧ g.mem = h.mem ∧ g.cots = h.cots ∧ g.par = h.par ∧
      g.timers = h.timers := by
  unfold setTmrWide
  dsimp only
  split
  · exact ⟨fun n i j e => (reg_setFld_reg _ _ _ _ _ _ _ _ e.symm).trans (reg_setFld_reg _ _ _ _ _ _ _ _ e.symm),
      rfl, rfl, rfl, rfl⟩
  · exact ⟨fun n i j e => reg_setFld_reg _ _ _ _ _ _ _ _ e.symm, rfl, rfl, rfl, rfl⟩

theorem fld_setTmrWide_reg (f g : Fld) (u v i j : Nat) (e : g.reg ≠ f.reg) : (h.setTmrWide f u v).fld g i j = h.fld g i j := by
  simp only [fld, (h.setTmrWide_only f u v).1 _ _ _ e]

theorem flag_setTmrWide_reg (f g : Fld) (u v i j : Nat) (e : g.reg ≠ f.reg) : (h.setTmrWide f u v).flag g i j = h.flag g i j :=
  flag_congr (h.fld_setTmrWide_reg _ _ _ _ _ _ e)

/-- The low and the high half of what was stored. -/
theorem setTmrWide_halves (n : RegName) (u v : Nat) (hn : n ≠ .TMR_CTL) : let g := h.setTmrWide ⟨n, 31, 0⟩ u v
    g.fld ⟨n, 31, 0⟩ 0 u = v % 2 ^ 32 ∧ (h.tmrLinked u = true → g.fld ⟨n, 31, 0⟩ 0 (u + 1) = v / 2 ^ 32 % 2 ^ 32) := by
  have low : (h.setFld ⟨n, 31, 0⟩ 0 u v).fld ⟨n, 31, 0⟩ 0 u = v % 2 ^ 32 :=
    fld_setFld_same _ _ _ _ _ (Nat.zero_le _) (by show 31 < 64; decide)
  rw [setTmrWide_eq _ _ _ _ hn]
  split
  case isTrue =>
    exact ⟨(fld_setFld_ne _ _ _ _ _ _ _ _ (Nat.zero_le _) (by show 31 < 64; decide) (.inl (by simp))).trans low,
      fun _ => fld_setFld_same _ _ _ _ _ (Nat.zero_le _) (by show 31 < 64; decide)⟩
  case isFalse off => exact ⟨low, fun on => absurd on off⟩

theorem tmrTop_cases (u : Nat) : (h.tmrLinked u = true ∧ h.tmrTop u = 2 ^ 64 - 1) ∨
    (h.tmrLinked u = false ∧ h.tmrTop u = 2 ^ 32 - 1) := by
  unfold tmrTop
  cases h.tmrLinked u
  · exact .inr ⟨rfl, rfl⟩
  · exact .inl ⟨rfl, rfl⟩

/-- A quantity no greater than all ones of the count reads as it was stored. -/
theorem tmrWide_setTmrWide (n : RegName) (u v : Nat) (hn : n ≠ .TMR_CTL) (hv : v ≤ h.tmrTop u) :
    (h.setTmrWide ⟨n, 31, 0⟩ u v).tmrWide ⟨n, 31, 0⟩ u = v := by
  obtain ⟨low, high⟩ := h.setTmrWide_halves n u v hn
  have link : (h.setTmrWide ⟨n, 31, 0⟩ u v).tmrLinked u = h.tmrLinked u := by
    rw [tmrLinked, tmrLinked, h.flag_setTmrWide_reg _ _ _ _ _ _ hn.symm]
  rw [tmrWide, low, link]
  rcases h.tmrTop_cases u with ⟨on, top⟩ | ⟨off, top⟩
  · rw [high on, on, if_pos rfl]; omega
  · simp only [off, Bool.false_eq_true, if_false]; omega

/-- Another quantity stays. -/
theorem tmrWide_setTmrWide_reg (f g : Fld) (u v w : Nat) (hf : f.reg ≠ .TMR_CTL) (e : g.reg ≠ f.reg) :
    (h.setTmrWide f u v).tmrWide g w = h.tmrWide g w := by
  rw [tmrWide, tmrWide, tmrLinked, tmrLinked, h.flag_setTmrWide_reg _ _ _ _ _ _ hf.symm, h.fld_setTmrWide_reg _ _ _ _ _ _ e,
    h.fld_setTmrWide_reg _ _ _ _ _ _ e]

/-- The count as 64 bits gives back its halves. -/
theorem tmrWide_halves (n : RegName) (u : Nat) : h.tmrWide ⟨n, 31, 0⟩ u % 2 ^ 32 = h.fld ⟨n, 31, 0⟩ 0 u ∧
    (h.tmrLinked u = true → h.tmrWide ⟨n, 31, 0⟩ u / 2 ^ 32 % 2 ^ 32 = h.fld ⟨n, 31, 0⟩ 0 (u + 1)) := by
  have low : h.fld ⟨n, 31, 0⟩ 0 u < 2 ^ 32 := bits_lt _ _ _
  have high : h.fld ⟨n, 31, 0⟩ 0 (u + 1) < 2 ^ 32 := bits_lt _ _ _
  unfold tmrWide
  refine ⟨?_, fun on => ?_⟩
  · split <;> omega
  · rw [if_pos on]; omega

end Sys2Proof.Machine.Hw

namespace Sys2Proof.Machine.Hw

variable (h : Hw)

/-! ### The commands of an owner (R408, R409) -/

/-- The control of a unit tells nothing of the pair that the unit below it leads. -/
theorem tmrHigh_storeFields (u v : Nat) : (h.storeFields .TMR_CTL 0 u v).tmrHigh u = h.tmrHigh u := by
  unfold tmrHigh
  by_cases odd : u % 2 = 1
  · have below : ¬ (RegName.TMR_CTL = F.TMR_CTL_LINK.reg ∧ 0 = 0 ∧ u = u - 1) := by rintro ⟨-, -, e⟩; omega
    rw [storeFields, flag_congr (fld_setReg_ne _ _ _ _ _ F.TMR_CTL_LINK 0 (u - 1) below)]
  · rw [beq_false_of_ne odd, Bool.false_and, Bool.false_and]

/-- The modes of the units change no bit of a status but LF. -/
theorem fld_tmrModes_bits (f : Fld) (i j : Nat) (hf : f.hi < 64) (d : f.hi < F.TMR_STAT_LF.lo ∨ F.TMR_STAT_LF.hi < f.lo) :
    h.tmrModes.fld f i j = h.fld f i j := by
  refine each_keeps (·.fld f i j) _ (fun h u => ?_) _ h
  dsimp only
  split
  · rfl
  · exact fld_setFld_bits _ _ _ _ _ _ _ _ (by decide) hf d

theorem flag_tmrModes_bits (f : Fld) (i j : Nat) (hf : f.hi < 64) (d : f.hi < F.TMR_STAT_LF.lo ∨ F.TMR_STAT_LF.hi < f.lo) :
    h.tmrModes.flag f i j = h.flag f i j := flag_congr (h.fld_tmrModes_bits f i j hf d)

/-- The conditions of a unit that its owner arms (R408). -/
structure Armed (g h : Hw) (u : Nat) : Prop where
  run : g.flag F.TMR_STAT_RUN 0 u = true
  hit : g.flag F.TMR_STAT_MATCH 0 u = false
  missed : g.flag F.TMR_STAT_MISSED 0 u = false
  dwell : g.flag F.TMR_STAT_DWELL 0 u = false
  cmp : g.reg .TMR_CMP 0 u = h.reg .TMR_CMP 0 u
  mem : g.mem = h.mem
  cots : g.cots = h.cots

namespace Armed

variable {h} {g k : Hw} {u : Nat}

/-- The modes of the units leave them as they are. -/
theorem modes (a : Armed g h u) : Armed g.tmrModes h u := by
  obtain ⟨mem, cots, -⟩ := g.tmrModes_keeps
  exact ⟨(flag_tmrModes_bits _ _ _ _ (by decide) (by decide)).trans a.run,
    (flag_tmrModes_bits _ _ _ _ (by decide) (by decide)).trans a.hit,
    (flag_tmrModes_bits _ _ _ _ (by decide) (by decide)).trans a.missed,
    (flag_tmrModes_bits _ _ _ _ (by decide) (by decide)).trans a.dwell,
    (reg_tmrModes _ _ _ _ (by decide)).trans a.cmp, mem.trans a.mem, cots.trans a.cots⟩

/-- A count of 0 leaves them as they are. -/
theorem clear (a : Armed g h u) : Armed (g.setTmrWide F.TMR_CNT_CNT u 0) h u := by
  obtain ⟨reg, mem, cots, -⟩ := g.setTmrWide_only F.TMR_CNT_CNT u 0
  have stat (f : Fld) (e : f.reg ≠ .TMR_CNT) := g.flag_setTmrWide_reg F.TMR_CNT_CNT f u 0 0 u e
  exact ⟨(stat _ (by decide)).trans a.run, (stat _ (by decide)).trans a.hit, (stat _ (by decide)).trans a.missed,
    (stat _ (by decide)).trans a.dwell, (reg _ _ _ (by decide)).trans a.cmp, mem.trans a.mem, cots.trans a.cots⟩

end Armed

/-- The unit armed: RUN set, its other conditions clear. -/
def tmrArmed (h : Hw) (u : Nat) : Hw :=
  (((h.setFld F.TMR_STAT_RUN 0 u 1).setFld F.TMR_STAT_MATCH 0 u 0).setFld F.TMR_STAT_MISSED 0 u 0).setFld F.TMR_STAT_DWELL 0 u 0

theorem tmrArmed_says (u : Nat) : let g := h.tmrArmed u
    Armed g h u ∧ StatOnly g h := by
  have only : StatOnly (h.tmrArmed u) h :=
    (StatOnly.setFld _ _ _ _ rfl).trans ((StatOnly.setFld _ _ _ _ rfl).trans ((StatOnly.setFld _ _ _ _ rfl).trans
      (StatOnly.setFld _ _ _ _ rfl)))
  have apart (f g : Fld) (h : Hw) (v : Nat) (w : f.lo ≤ f.hi) (x : g.hi < 64) (d : g.hi < f.lo ∨ f.hi < g.lo) :=
    h.flag_setFld_bits f g 0 u v 0 u w x d
  refine ⟨⟨?run, ?hit, ?missed, flag_setFld_zero _ _ _ (by decide) (by decide), only.reg _ _ _ (by decide), only.mem,
    only.cots⟩, only⟩
  case run =>
    rw [tmrArmed, apart _ _ _ _ (by decide) (by decide) (by decide), apart _ _ _ _ (by decide) (by decide) (by decide),
      apart _ _ _ _ (by decide) (by decide) (by decide)]
    exact flag_setFld_one _ _ _ (by decide) (by decide)
  case hit =>
    rw [tmrArmed, apart _ _ _ _ (by decide) (by decide) (by decide), apart _ _ _ _ (by decide) (by decide) (by decide)]
    exact flag_setFld_zero _ _ _ (by decide) (by decide)
  case missed =>
    rw [tmrArmed, apart _ _ _ _ (by decide) (by decide) (by decide)]
    exact flag_setFld_zero _ _ _ (by decide) (by decide)

/-- The control stored by its owner's write. -/
def tmrStored (h : Hw) (u v : Nat) : Hw := h.storeFields .TMR_CTL 0 u (if u % 2 = 1 then setBits v 16 16 0 else v)

theorem tmrStored_mem (u v : Nat) : (h.tmrStored u v).mem = h.mem := by
  rw [tmrStored, storeFields, setReg_mem]

theorem tmrStored_cots (u v : Nat) : (h.tmrStored u v).cots = h.cots := by
  rw [tmrStored, storeFields, setReg_cots]

theorem tmrStored_reg (u v : Nat) (n : RegName) (i j : Nat) (hn : n ≠ .TMR_CTL) : (h.tmrStored u v).reg n i j = h.reg n i j :=
  reg_setReg_ne _ _ _ _ _ _ _ _ (by simp [hn.symm])

/-- What the owner's write of the control of a unit does beside storing it (R408). -/
theorem tmrCtlWrite_owner {ag : Agent} {u v : Nat} (hs : h.sees ag .TMR_CTL 0 u = true)
    (ho : h.ownsCode (h.fld F.TMR_OWN_OWNER 0 u) ag = true) (hv : bits v 22 20 ≤ 4) (hh : h.tmrHigh u = false) :
    h.tmrCtlWrite ag u v =
      (let g := h.tmrStored u v
      let g := if bit v 0 then if bit v 2 then (g.tmrArmed u).setTmrWide F.TMR_CNT_CNT u 0 else g.tmrArmed u else g
      if bit v 1 then g.tmrStops u else g).tmrModes := by
  have high : (h.tmrStored u v).tmrHigh u = false := (h.tmrHigh_storeFields _ _).trans hh
  rw [tmrCtlWrite, ho, decide_eq_true hv]
  dsimp only
  rw [Bool.and_self, guarded_open _ _ _ _ _ _ _ hs (by decide)]
  unfold tmrStored at high ⊢
  simp only [high, Bool.false_eq_true, if_false]
  rfl

/-- ARM without STOP: the unit runs from 0 with CLR, and from its count without. -/
theorem tmrArm_says {ag : Agent} {u v : Nat} (hs : h.sees ag .TMR_CTL 0 u = true)
    (ho : h.ownsCode (h.fld F.TMR_OWN_OWNER 0 u) ag = true) (hv : bits v 22 20 ≤ 4) (hh : h.tmrHigh u = false)
    (arm : bit v 0 = true) (stop : bit v 1 = false) : let g := h.tmrCtlWrite ag u v
    g.flag F.TMR_STAT_RUN 0 u = true ∧ g.flag F.TMR_STAT_MATCH 0 u = false ∧ g.flag F.TMR_STAT_MISSED 0 u = false ∧
      g.flag F.TMR_STAT_DWELL 0 u = false ∧
      g.fld F.TMR_CNT_CNT 0 u = (if bit v 2 = true then 0 else h.fld F.TMR_CNT_CNT 0 u) ∧
      g.reg .TMR_CMP 0 u = h.reg .TMR_CMP 0 u ∧ g.mem = h.mem ∧ g.cots = h.cots := by
  obtain ⟨armed, only⟩ := (h.tmrStored u v).tmrArmed_says u
  have cnt : ((h.tmrStored u v).tmrArmed u).fld F.TMR_CNT_CNT 0 u = h.fld F.TMR_CNT_CNT 0 u := by
    rw [only.fld _ _ _ (by decide)]
    simp only [fld, h.tmrStored_reg _ _ .TMR_CNT _ _ (by decide)]
  have cmp := h.tmrStored_reg u v .TMR_CMP 0 u (by decide)
  dsimp only
  rw [h.tmrCtlWrite_owner hs ho hv hh]
  simp only [arm, stop, if_true, Bool.false_eq_true, if_false, fld_tmrModes _ F.TMR_CNT_CNT _ _ (by decide)]
  split
  · obtain ⟨run, hit, missed, dwell, cmp', mem, cots⟩ := armed.clear.modes
    exact ⟨run, hit, missed, dwell, (setTmrWide_halves _ .TMR_CNT _ _ (by decide)).1, cmp'.trans cmp,
      mem.trans (h.tmrStored_mem u v), cots.trans (h.tmrStored_cots u v)⟩
  · obtain ⟨run, hit, missed, dwell, cmp', mem, cots⟩ := armed.modes
    exact ⟨run, hit, missed, dwell, cnt, cmp'.trans cmp, mem.trans (h.tmrStored_mem u v), cots.trans (h.tmrStored_cots u v)⟩

/-- STOP without ARM: the unit stops, and its count stays. -/
theorem tmrStop_says {ag : Agent} {u v : Nat} (hs : h.sees ag .TMR_CTL 0 u = true)
    (ho : h.ownsCode (h.fld F.TMR_OWN_OWNER 0 u) ag = true) (hv : bits v 22 20 ≤ 4) (hh : h.tmrHigh u = false)
    (arm : bit v 0 = false) (stop : bit v 1 = true) : let g := h.tmrCtlWrite ag u v
    g.flag F.TMR_STAT_RUN 0 u = false ∧ g.flag F.TMR_STAT_DWELL 0 u = false ∧
      g.fld F.TMR_CNT_CNT 0 u = h.fld F.TMR_CNT_CNT 0 u ∧ g.mem = h.mem ∧ g.cots = h.cots := by
  obtain ⟨run, dwell, -, -, only⟩ := (h.tmrStored u v).tmrStops_says u
  obtain ⟨mem, cots, -⟩ := ((h.tmrStored u v).tmrStops u).tmrModes_keeps
  dsimp only
  rw [h.tmrCtlWrite_owner hs ho hv hh]
  simp only [arm, stop, if_true, Bool.false_eq_true, if_false, flag_tmrModes_bits _ F.TMR_STAT_RUN _ _ (by decide) (by decide),
    flag_tmrModes_bits _ F.TMR_STAT_DWELL _ _ (by decide) (by decide), fld_tmrModes _ F.TMR_CNT_CNT _ _ (by decide)]
  refine ⟨run, dwell, (only.fld _ _ _ (by decide)).trans ?_, mem.trans (only.mem.trans (h.tmrStored_mem u v)),
    cots.trans (only.cots.trans (h.tmrStored_cots u v))⟩
  simp only [fld, h.tmrStored_reg _ _ .TMR_CNT _ _ (by decide)]

end Sys2Proof.Machine.Hw

namespace Sys2Proof.Machine.Hw

variable (h : Hw)

/-- A comparator stored: every other register, memory and cottages stay. -/
theorem tmrCmpStored_says (u v : Nat) : let g := h.storeFields .TMR_CMP 0 u v
    g.fld F.TMR_CMP_CMP 0 u = v % 2 ^ 32 ∧ (∀ n i j, n ≠ .TMR_CMP → g.reg n i j = h.reg n i j) ∧ g.mem = h.mem ∧
      g.cots = h.cots := by
  refine ⟨?_, fun n i j e => reg_setReg_ne _ _ _ _ _ _ _ _ (by simp [e.symm]), ?_, ?_⟩
  · refine (fld_storeFields h .TMR_CMP 0 u v F.TMR_CMP_CMP ⟨31, 0, .rw, 0xFFFFFFFF⟩ (by decide) rfl (by decide)).trans ?_
    simp only [Acc.store, bits, Nat.pow_zero, Nat.div_one]
  · rw [storeFields, setReg_mem]
  · rw [storeFields, setReg_cots]

/-- A write of the comparator by its owner: one that lands on the count of a running unit matches at once (R409). -/
theorem tmrCmpWrite_says {ag : Agent} {u : Nat} {v : Word} (hs : h.sees ag .TMR_CMP 0 u = true)
    (ho : h.ownsCode (h.fld F.TMR_OWN_OWNER 0 u) ag = true) (hh : h.tmrHigh u = false) : let g := h.tmrCmpWrite ag u v
    g.fld F.TMR_CMP_CMP 0 u = v.toNat ∧ g.fld F.TMR_CNT_CNT 0 u = h.fld F.TMR_CNT_CNT 0 u ∧
      (h.flag F.TMR_STAT_RUN 0 u = true → g.tmrWide F.TMR_CMP_CMP u = h.tmrWide F.TMR_CNT_CNT u →
        g.flag F.TMR_STAT_MATCH 0 u = true ∧ g.flag F.TMR_STAT_DWELL 0 u = true) ∧
      (¬ (h.flag F.TMR_STAT_RUN 0 u = true ∧ g.tmrWide F.TMR_CMP_CMP u = h.tmrWide F.TMR_CNT_CNT u) →
        g.reg .TMR_STAT 0 u = h.reg .TMR_STAT 0 u) ∧ g.mem = h.mem ∧ g.cots = h.cots := by
  obtain ⟨cmp, reg, mem, cots⟩ := h.tmrCmpStored_says u v.toNat
  rw [Nat.mod_eq_of_lt v.isLt] at cmp
  have fld' (f : Fld) (i j : Nat) (e : f.reg ≠ .TMR_CMP) :
      (h.storeFields .TMR_CMP 0 u v.toNat).fld f i j = h.fld f i j := by simp only [fld, reg _ _ _ e]
  have link : (h.storeFields .TMR_CMP 0 u v.toNat).tmrLinked u = h.tmrLinked u := by
    rw [tmrLinked, tmrLinked, flag_congr (fld' F.TMR_CTL_LINK _ _ (by decide))]
  have high : (h.storeFields .TMR_CMP 0 u v.toNat).tmrOf u = u := by
    rw [tmrOf, tmrHigh, flag_congr (fld' F.TMR_CTL_LINK _ _ (by decide)), ← tmrHigh, hh]; rfl
  have cnt : (h.storeFields .TMR_CMP 0 u v.toNat).tmrWide F.TMR_CNT_CNT u = h.tmrWide F.TMR_CNT_CNT u := by
    rw [tmrWide, tmrWide, link, fld' _ _ _ (by decide), fld' _ _ _ (by decide)]
  have run : (h.storeFields .TMR_CMP 0 u v.toNat).flag F.TMR_STAT_RUN 0 u = h.flag F.TMR_STAT_RUN 0 u :=
    flag_congr (fld' _ _ _ (by decide))
  dsimp only
  rw [tmrCmpWrite, ho, guarded_open _ _ _ _ _ _ _ hs (by decide)]
  simp only [tmrCmpLand, high, cnt, run]
  generalize h.storeFields .TMR_CMP 0 u v.toNat = g at *
  cases landed : (h.flag F.TMR_STAT_RUN 0 u && g.tmrWide F.TMR_CMP_CMP u == h.tmrWide F.TMR_CNT_CNT u) <;> dsimp only
  case false =>
    rw [Bool.and_eq_false_imp] at landed
    refine ⟨cmp, fld' _ _ _ (by decide), fun r e => absurd e (ne_of_beq_false (landed r)), fun _ => reg _ _ _ (by decide), mem, cots⟩
  case true =>
    rw [Bool.and_eq_true, beq_iff_eq] at landed
    obtain ⟨hit, dwell, -, -, only⟩ := g.tmrHit_says u
    rw [high]
    refine ⟨(only.fld _ _ _ (by decide)).trans cmp, (only.fld _ _ _ (by decide)).trans (fld' _ _ _ (by decide)),
      fun _ _ => ⟨hit, dwell⟩, fun no => absurd ⟨landed.1, (only.wide _ _ (by decide)).trans landed.2⟩ no, only.mem.trans mem,
      only.cots.trans cots⟩

/-! ### Ticks (R409) -/

/-- The count after a tick. -/
def ticked (h : Hw) (u : Nat) : Nat := (h.tmrWide F.TMR_CNT_CNT u + 1) % (h.tmrTop u + 1)

theorem timerTick_eq {u : Nat} (hh : h.tmrHigh u = false) (hr : h.flag F.TMR_STAT_RUN 0 u = true)
    (hl : h.flag F.TMR_STAT_LF 0 u = false) (hd : h.flag F.TMR_STAT_DWELL 0 u = false) : h.timerTick u none =
    let g := h.setTmrWide F.TMR_CNT_CNT u (h.ticked u)
    if h.ticked u = h.tmrWide F.TMR_CMP_CMP u then g.tmrHit u
    else if h.ticked u = h.tmrTop u then (g.tmrStops u).setFld F.TMR_STAT_MISSED 0 u 1 else g := by
  have cmp : (h.setTmrWide F.TMR_CNT_CNT u (h.ticked u)).tmrWide F.TMR_CMP_CMP u = h.tmrWide F.TMR_CMP_CMP u :=
    h.tmrWide_setTmrWide_reg _ _ _ _ _ (by decide) (by decide)
  have top : (h.setTmrWide F.TMR_CNT_CNT u (h.ticked u)).tmrTop u = h.tmrTop u := by
    rw [tmrTop, tmrTop, tmrLinked, tmrLinked, h.flag_setTmrWide_reg _ _ _ _ _ _ (by decide)]
  unfold ticked at cmp top ⊢
  simp only [timerTick, hd, hh, hr, hl, Bool.false_and, Bool.not_true, Bool.or_self, Bool.false_eq_true, if_false, Bool.or_false,
    beq_iff_eq, cmp, top]

/-- A tick of a running unit that does not dwell: its count, and what it does at the compare value and at all ones. -/
theorem timerTick_counts {u : Nat} (hh : h.tmrHigh u = false) (hr : h.flag F.TMR_STAT_RUN 0 u = true)
    (hl : h.flag F.TMR_STAT_LF 0 u = false) (hd : h.flag F.TMR_STAT_DWELL 0 u = false) : let g := h.timerTick u none
    let n := h.ticked u
    g.tmrWide F.TMR_CNT_CNT u = n ∧
      (n = h.tmrWide F.TMR_CMP_CMP u → g.flag F.TMR_STAT_MATCH 0 u = true ∧ g.flag F.TMR_STAT_DWELL 0 u = true ∧
        g.flag F.TMR_STAT_RUN 0 u = true ∧
        (h.flag F.TMR_CTL_MIE 0 u = true → 480 + u ∈ (g.parish (h.fld F.TMR_CTL_PIC 0 u)).pic.pend)) ∧
      (n ≠ h.tmrWide F.TMR_CMP_CMP u → n = h.tmrTop u → g.flag F.TMR_STAT_MISSED 0 u = true ∧
        g.flag F.TMR_STAT_RUN 0 u = false ∧ g.par = h.par) ∧
      (n ≠ h.tmrWide F.TMR_CMP_CMP u → n ≠ h.tmrTop u → g.reg .TMR_STAT 0 u = h.reg .TMR_STAT 0 u ∧ g.par = h.par) ∧
      g.mem = h.mem ∧ g.cots = h.cots := by
  obtain ⟨reg, mem, cots, par, -⟩ := h.setTmrWide_only F.TMR_CNT_CNT u (h.ticked u)
  have flags (f : Fld) (e : f.reg ≠ .TMR_CNT) := h.flag_setTmrWide_reg F.TMR_CNT_CNT f u (h.ticked u) 0 u e
  have wide : (h.setTmrWide F.TMR_CNT_CNT u (h.ticked u)).tmrWide F.TMR_CNT_CNT u = h.ticked u :=
    h.tmrWide_setTmrWide .TMR_CNT _ _ (by decide) (Nat.lt_succ_iff.1 (Nat.mod_lt _ (Nat.succ_pos _)))
  have mie := flags F.TMR_CTL_MIE (by decide)
  have pic := h.fld_setTmrWide_reg F.TMR_CNT_CNT F.TMR_CTL_PIC u (h.ticked u) 0 u (by decide)
  have running := (flags F.TMR_STAT_RUN (by decide)).trans hr
  have stat := reg .TMR_STAT 0 u (by decide)
  rw [h.timerTick_eq hh hr hl hd]
  generalize h.setTmrWide F.TMR_CNT_CNT u (h.ticked u) = g at *
  dsimp only
  by_cases hit : h.ticked u = h.tmrWide F.TMR_CMP_CMP u
  · obtain ⟨matched, dwell, run, pends, only⟩ := g.tmrHit_says u
    rw [if_pos hit]
    rw [mie, pic] at pends
    exact ⟨(only.wide _ _ (by decide)).trans wide, fun _ => ⟨matched, dwell, run.trans running, pends⟩, fun no => absurd hit no,
      fun no => absurd hit no, only.mem.trans mem, only.cots.trans cots⟩
  · rw [if_neg hit]
    by_cases top : h.ticked u = h.tmrTop u
    · obtain ⟨missed, run, par', only⟩ := g.tmrMissed_says u
      rw [if_pos top]
      exact ⟨(only.wide _ _ (by decide)).trans wide, fun e => absurd e hit, fun _ _ => ⟨missed, run, par'.trans par⟩,
        fun _ no => absurd top no, only.mem.trans mem, only.cots.trans cots⟩
    · rw [if_neg top]
      exact ⟨wide, fun e => absurd e hit, fun _ e => absurd e top, fun _ _ => ⟨stat, par⟩, mem, cots⟩

/-- A unit that does not run takes no tick. -/
theorem timerTick_stopped {u : Nat} (hd : h.flag F.TMR_STAT_DWELL 0 u = false)
    (hr : h.tmrHigh u = true ∨ h.flag F.TMR_STAT_RUN 0 u = false) : h.timerTick u none = h := by
  have idle : (h.tmrHigh u || !h.flag F.TMR_STAT_RUN 0 u || h.flag F.TMR_STAT_LF 0 u) = true := by
    rcases hr with e | e <;> simp [e]
  simp only [timerTick, hd, Bool.false_and, Bool.false_eq_true, if_false, idle, if_true]

/-- The tick after a match stops the unit. -/
theorem timerTick_dwells {u : Nat} (hl : h.flag F.TMR_STAT_LF 0 u = false) (hd : h.flag F.TMR_STAT_DWELL 0 u = true) :
    h.timerTick u none = h.tmrStops u := by
  have idle : ((h.tmrStops u).tmrHigh u || !(h.tmrStops u).flag F.TMR_STAT_RUN 0 u ||
      (h.tmrStops u).flag F.TMR_STAT_LF 0 u) = true := by
    simp [(h.tmrStops_says u).1]
  simp only [timerTick, hd, hl, Bool.not_false, Bool.and_self, if_true, idle]

/-! ### Captures (R411) -/

theorem tmrEvent_keeps (u base : Nat) : (h.tmrEvent u base).regs = h.regs ∧ (h.tmrEvent u base).mem = h.mem ∧
    (h.tmrEvent u base).cots = h.cots := ⟨picEvent_regs _ _ _, picEvent_mem _ _ _, picEvent_cots _ _ _⟩

/-- What a capture stores, before its source: the overrun, the count and the valid bit. -/
def tmrCaptured (h : Hw) (u : Nat) (n : RegName) (valid : Fld) : Hw :=
  let g := if h.flag valid 0 u then h.setFld F.TMR_STAT_CAPOVR 0 u 1 else h
  (g.setTmrWide ⟨n, 31, 0⟩ u (g.tmrWide F.TMR_CNT_CNT u)).setFld valid 0 u 1

theorem tmrCaptured_says (u : Nat) {n : RegName} {valid : Fld} (hn : n ∉ [RegName.TMR_CTL, .TMR_STAT, .TMR_CNT])
    (hv : valid.reg = .TMR_STAT) (hb : valid.lo ≤ valid.hi ∧ valid.hi < F.TMR_STAT_CAPOVR.lo) : let g := h.tmrCaptured u n valid
    g.fld ⟨n, 31, 0⟩ 0 u = h.fld F.TMR_CNT_CNT 0 u ∧ g.flag valid 0 u = true ∧
      (h.flag valid 0 u = true → g.flag F.TMR_STAT_CAPOVR 0 u = true) ∧
      (h.tmrLinked u = true → g.fld ⟨n, 31, 0⟩ 0 (u + 1) = h.fld F.TMR_CNT_CNT 0 (u + 1)) ∧
      (∀ k, g.fld F.TMR_CNT_CNT 0 k = h.fld F.TMR_CNT_CNT 0 k) ∧ g.mem = h.mem ∧ g.cots = h.cots := by
  simp only [List.mem_cons, List.not_mem_nil, or_false, not_or] at hn
  obtain ⟨ctl, stat, count⟩ := hn
  have spill : StatOnly (if h.flag valid 0 u then h.setFld F.TMR_STAT_CAPOVR 0 u 1 else h) h := by
    split
    · exact StatOnly.setFld _ _ _ _ rfl
    · exact ⟨fun _ _ _ _ => rfl, rfl, rfl⟩
  have shown (on : h.flag valid 0 u = true) :
      (if h.flag valid 0 u then h.setFld F.TMR_STAT_CAPOVR 0 u 1 else h).flag F.TMR_STAT_CAPOVR 0 u = true := by
    rw [if_pos on]; exact flag_setFld_one _ _ _ (by decide) (by decide)
  rw [tmrCaptured]
  generalize (if h.flag valid 0 u then h.setFld F.TMR_STAT_CAPOVR 0 u 1 else h) = g at *
  have link : g.tmrLinked u = h.tmrLinked u := by
    rw [tmrLinked, tmrLinked, flag_congr (spill.fld F.TMR_CTL_LINK 0 u (by decide))]
  obtain ⟨low, high⟩ := g.setTmrWide_halves n u (g.tmrWide F.TMR_CNT_CNT u) ctl
  obtain ⟨low', high'⟩ := g.tmrWide_halves .TMR_CNT u
  obtain ⟨-, mem, cots, -⟩ := g.setTmrWide_only ⟨n, 31, 0⟩ u (g.tmrWide F.TMR_CNT_CNT u)
  have last : StatOnly ((g.setTmrWide ⟨n, 31, 0⟩ u (g.tmrWide F.TMR_CNT_CNT u)).setFld valid 0 u 1)
      (g.setTmrWide ⟨n, 31, 0⟩ u (g.tmrWide F.TMR_CNT_CNT u)) := StatOnly.setFld _ _ _ _ hv
  have cnt (k : Nat) := spill.fld F.TMR_CNT_CNT 0 k (by decide)
  have lt : valid.hi < 64 := Nat.lt_trans hb.2 (by decide)
  refine ⟨?low, flag_setFld_one _ _ _ hb.1 lt, fun on => ?overrun, fun on => ?high, fun k => ?count,
    last.mem.trans (mem.trans spill.mem), last.cots.trans (cots.trans spill.cots)⟩
  case low => exact (last.fld _ _ _ stat).trans (low.trans (low'.trans (cnt u)))
  case high =>
    rw [← link] at on
    exact (last.fld _ _ _ stat).trans ((high on).trans ((high' on).trans (cnt (u + 1))))
  case overrun =>
    rw [flag_setFld_bits _ _ _ _ _ _ _ _ hb.1 (by decide) (.inr hb.2), flag_setTmrWide_reg _ _ _ _ _ _ _ (Ne.symm stat)]
    exact shown on
  case count =>
    rw [last.fld _ _ _ (by decide), fld_setTmrWide_reg _ _ _ _ _ _ _ (Ne.symm count)]
    exact cnt k

theorem timerCapture_eq {u : Nat} (hh : h.tmrHigh u = false) (r : Bool) : h.timerCapture u r =
    let g := h.tmrCaptured u (if r then .TMR_CAPR else .TMR_CAPF) (if r then F.TMR_STAT_CAPR_V else F.TMR_STAT_CAPF_V)
    if bit (g.fld F.TMR_CTL_CAPEV 0 u) (if r then 0 else 1) then g.tmrEvent u 496 else g := by
  cases r <;> simp only [timerCapture, hh, tmrCaptured, Bool.false_eq_true, if_false, if_true]

/-- A capture edge stores the count and shows it; its source takes nothing from that (R411). -/
theorem timerCapture_says {u : Nat} (hh : h.tmrHigh u = false) (r : Bool) : let g := h.timerCapture u r
    let reg := if r then F.TMR_CAPR_CAPR else F.TMR_CAPF_CAPF
    let valid := if r then F.TMR_STAT_CAPR_V else F.TMR_STAT_CAPF_V
    g.fld reg 0 u = h.fld F.TMR_CNT_CNT 0 u ∧ g.flag valid 0 u = true ∧
      (h.flag valid 0 u = true → g.flag F.TMR_STAT_CAPOVR 0 u = true) ∧
      (h.tmrLinked u = true → g.fld reg 0 (u + 1) = h.fld F.TMR_CNT_CNT 0 (u + 1)) ∧
      (∀ k, g.fld F.TMR_CNT_CNT 0 k = h.fld F.TMR_CNT_CNT 0 k) ∧ g.mem = h.mem ∧ g.cots = h.cots := by
  obtain ⟨n, valid, hn, hv, eq⟩ : ∃ (n : RegName) (valid : Fld), n ∉ [RegName.TMR_CTL, .TMR_STAT, .TMR_CNT] ∧
      (valid.reg = .TMR_STAT ∧ valid.lo ≤ valid.hi ∧ valid.hi < F.TMR_STAT_CAPOVR.lo) ∧
      ((if r then F.TMR_CAPR_CAPR else F.TMR_CAPF_CAPF) = ⟨n, 31, 0⟩ ∧
        (if r then F.TMR_STAT_CAPR_V else F.TMR_STAT_CAPF_V) = valid ∧ (if r then RegName.TMR_CAPR else .TMR_CAPF) = n) := by
    cases r
    · exact ⟨.TMR_CAPF, F.TMR_STAT_CAPF_V, by decide, by decide, rfl, rfl, rfl⟩
    · exact ⟨.TMR_CAPR, F.TMR_STAT_CAPR_V, by decide, by decide, rfl, rfl, rfl⟩
  have shown := h.tmrCaptured_says u hn hv.1 hv.2
  rw [h.timerCapture_eq hh r]
  simp only [eq.1, eq.2.1, eq.2.2]
  generalize bit ((h.tmrCaptured u n valid).fld F.TMR_CTL_CAPEV 0 u) (if r then 0 else 1) = b
  cases b
  · exact shown
  · obtain ⟨regs, mem, cots⟩ := (h.tmrCaptured u n valid).tmrEvent_keeps u 496
    simpa only [if_true, flag, fld_congr _ _ regs, mem, cots] using shown

/-! ### Low-frequency steps (R412) -/

theorem tmr_setTmr (u : Nat) (x : TimerUnit) : (h.setTmr u x).tmr u = x := NTable.get_set_same _ _ _ _

/-- The count after an LFCLK edge. -/
def tmrStepped (h : Hw) (u : Nat) : Nat :=
  min (h.tmrWide F.TMR_CNT_CNT u + ((h.tmr u).frac + 390625) / 2 ^ (7 + h.fld F.TMR_CTL_PRE 0 u)) (h.tmrTop u)

/-- The unit with the fraction carried. -/
def tmrCarried (h : Hw) (u : Nat) : Hw :=
  h.setTmr u { h.tmr u with frac := ((h.tmr u).frac + 390625) % 2 ^ (7 + h.fld F.TMR_CTL_PRE 0 u) }

/-- The unit with its count grown. -/
def tmrGrown (h : Hw) (u : Nat) : Hw := (h.tmrCarried u).setTmrWide F.TMR_CNT_CNT u (h.tmrStepped u)

theorem tmrGrown_says (u : Nat) : let g := h.tmrGrown u
    g.tmrWide F.TMR_CNT_CNT u = h.tmrStepped u ∧ (g.tmr u).frac = ((h.tmr u).frac + 390625) % 2 ^ (7 + h.fld F.TMR_CTL_PRE 0 u) ∧
      g.tmrWide F.TMR_CMP_CMP u = h.tmrWide F.TMR_CMP_CMP u ∧ g.mem = h.mem ∧ g.cots = h.cots := by
  obtain ⟨-, mem, cots, -, timers⟩ := (h.tmrCarried u).setTmrWide_only F.TMR_CNT_CNT u (h.tmrStepped u)
  refine ⟨tmrWide_setTmrWide (h.tmrCarried u) .TMR_CNT u _ (by decide) (Nat.min_le_right _ _), ?_,
    (h.tmrCarried u).tmrWide_setTmrWide_reg _ _ _ _ _ (by decide) (by decide), mem, cots⟩
  rw [tmrGrown, tmr, timers]
  exact congrArg TimerUnit.frac (h.tmr_setTmr u _)

theorem lfclkStep_eq {u : Nat} (hs : h.power.standby = true) (hf : h.flag F.ERR_STAT_FATAL = false) (hh : h.tmrHigh u = false)
    (hl : h.flag F.TMR_STAT_LF 0 u = true) (hr : h.flag F.TMR_STAT_RUN 0 u = true) (hd : h.flag F.TMR_STAT_DWELL 0 u = false) :
    h.lfclkStep u =
      if h.tmrWide F.TMR_CNT_CNT u < h.tmrWide F.TMR_CMP_CMP u ∧ h.tmrWide F.TMR_CMP_CMP u ≤ h.tmrStepped u then
        ((h.tmrGrown u).tmrMatch u).tmrStops u
      else if h.tmrStepped u = h.tmrTop u then ((h.tmrGrown u).tmrStops u).setFld F.TMR_STAT_MISSED 0 u 1
      else h.tmrGrown u := by
  obtain ⟨-, -, cmp, -⟩ := h.tmrGrown_says u
  unfold tmrGrown tmrStepped tmrCarried at *
  simp only [lfclkStep, hs, hf, hh, hl, hr, hd, Bool.not_true, Bool.or_self, Bool.false_eq_true, if_false, cmp]

/-- A match leaves the fractions and latches of the units. -/
theorem tmrMatch_timers (u : Nat) : (h.tmrMatch u).timers = h.timers := by
  unfold tmrMatch tmrEvent
  dsimp only
  split
  · exact picEvent_timers _ _ _
  · rfl

/-- An LFCLK edge in low-frequency mode. -/
theorem lfclkStep_says {u : Nat} (hs : h.power.standby = true) (hf : h.flag F.ERR_STAT_FATAL = false) (hh : h.tmrHigh u = false)
    (hl : h.flag F.TMR_STAT_LF 0 u = true) (hr : h.flag F.TMR_STAT_RUN 0 u = true) (hd : h.flag F.TMR_STAT_DWELL 0 u = false) :
    let g := h.lfclkStep u
    let c := h.tmrWide F.TMR_CNT_CNT u
    let n := h.tmrStepped u
    g.tmrWide F.TMR_CNT_CNT u = n ∧ (g.tmr u).frac = ((h.tmr u).frac + 390625) % 2 ^ (7 + h.fld F.TMR_CTL_PRE 0 u) ∧
      (c < h.tmrWide F.TMR_CMP_CMP u → h.tmrWide F.TMR_CMP_CMP u ≤ n →
        g.flag F.TMR_STAT_MATCH 0 u = true ∧ g.flag F.TMR_STAT_RUN 0 u = false) ∧
      (¬ (c < h.tmrWide F.TMR_CMP_CMP u ∧ h.tmrWide F.TMR_CMP_CMP u ≤ n) → n = h.tmrTop u →
        g.flag F.TMR_STAT_MISSED 0 u = true ∧ g.flag F.TMR_STAT_RUN 0 u = false) ∧
      g.mem = h.mem ∧ g.cots = h.cots := by
  obtain ⟨wide, frac, -, mem, cots⟩ := h.tmrGrown_says u
  rw [h.lfclkStep_eq hs hf hh hl hr hd]
  generalize h.tmrGrown u = g at *
  dsimp only
  by_cases hit : h.tmrWide F.TMR_CNT_CNT u < h.tmrWide F.TMR_CMP_CMP u ∧ h.tmrWide F.TMR_CMP_CMP u ≤ h.tmrStepped u
  · obtain ⟨run, -, matched, -, stops⟩ := (g.tmrMatch u).tmrStops_says u
    have only := stops.trans (g.tmrMatch_only u)
    have timers : ((g.tmrMatch u).tmrStops u).timers = g.timers := g.tmrMatch_timers u
    rw [if_pos hit]
    refine ⟨(only.wide _ _ (by decide)).trans wide, ?_, fun _ _ => ⟨matched.trans ?_, run⟩, fun no => absurd hit no,
      only.mem.trans mem, only.cots.trans cots⟩
    · rw [tmr, timers]; exact frac
    · rw [flag_tmrMatch]; exact flag_setFld_one _ _ _ (by decide) (by decide)
  · rw [if_neg hit]
    by_cases top : h.tmrStepped u = h.tmrTop u
    · obtain ⟨missed, run, -, only⟩ := g.tmrMissed_says u
      rw [if_pos top]
      exact ⟨(only.wide _ _ (by decide)).trans wide, frac, fun a b => absurd ⟨a, b⟩ hit, fun _ _ => ⟨missed, run⟩,
        only.mem.trans mem, only.cots.trans cots⟩
    · rw [if_neg top]
      exact ⟨wide, frac, fun a b => absurd ⟨a, b⟩ hit, fun _ e => absurd e top, mem, cots⟩

/-! ### Reads of a pair (R414) -/

/-- What a read of a pair's half by reader r leaves, of which it answers `v`: the reader's latch of the pair is `x`. -/
theorem pairRead_says (ag : Agent) (u r v : Nat) (x : Option Nat) :
    let g := (h.setTmr u { h.tmr u with latches := NTable.set none (h.tmr u).latches r x }).answer ag v
    NTable.get none (g.tmr u).latches r = x ∧
      (∀ r', r ≠ r' → NTable.get none (g.tmr u).latches r' = NTable.get none (h.tmr u).latches r') ∧
      (∀ p, ag = .pf p → h.barAnswers (129 * p) = true → g.out = .readData (129 * p) (BitVec.ofNat 64 v) :: h.out) ∧
      g.regs = h.regs ∧ g.mem = h.mem ∧ g.cots = h.cots := by
  have latch := h.tmr_setTmr u { h.tmr u with latches := NTable.set none (h.tmr u).latches r x }
  obtain ⟨o, e⟩ := (h.setTmr u { h.tmr u with latches := NTable.set none (h.tmr u).latches r x }).answer_eq ag v
  have sent (p : Nat) (hp : ag = .pf p) (hb : h.barAnswers (129 * p) = true) :
      ((h.setTmr u { h.tmr u with latches := NTable.set none (h.tmr u).latches r x }).answer ag v).out =
        .readData (129 * p) (BitVec.ofNat 64 v) :: h.out := by
    subst hp
    have bar : (h.setTmr u { h.tmr u with latches := NTable.set none (h.tmr u).latches r x }).barAnswers (129 * p) = true := hb
    simp only [answer, agentFn, bar, if_true]
    rfl
  have kept : ((h.setTmr u { h.tmr u with latches := NTable.set none (h.tmr u).latches r x }).answer ag v).tmr u =
      { h.tmr u with latches := NTable.set none (h.tmr u).latches r x } := by rw [e]; exact latch
  dsimp only
  rw [kept]
  refine ⟨NTable.get_set_same _ _ _ _, fun r' ne => NTable.get_set_ne _ _ _ _ _ _ ne, sent, ?_, ?_, ?_⟩
  all_goals rw [e]; rfl

theorem pairLowRead_eq {ag : Agent} {m r : Nat} (hl : h.flag F.TMR_CTL_LINK 0 (2 * m) = true) (hr : readerNo ag = some r) :
    h.pairLowRead ag m = (h.setTmr (2 * m) { h.tmr (2 * m) with
      latches := NTable.set none (h.tmr (2 * m)).latches r (some (h.fld F.TMR_CNT_CNT 0 (2 * m + 1))) }).answer ag
      (h.fld F.TMR_CNT_CNT 0 (2 * m)) := by
  have linked : h.tmrLinked (2 * m) = true := by simp [tmrLinked, hl]
  simp only [pairLowRead, tmrRead, hr, tmrCntRead, linked, if_true]

theorem pairHighRead_eq {ag : Agent} {m r : Nat} (hl : h.flag F.TMR_CTL_LINK 0 (2 * m) = true) (hr : readerNo ag = some r) :
    h.pairHighRead ag m = (h.setTmr (2 * m) { h.tmr (2 * m) with
      latches := NTable.set none (h.tmr (2 * m)).latches r none }).answer ag
      ((NTable.get none (h.tmr (2 * m)).latches r).getD (h.fld F.TMR_CNT_CNT 0 (2 * m + 1))) := by
  have odd : (2 * m + 1) % 2 = 1 := by omega
  have unlinked : h.tmrLinked (2 * m + 1) = false := by simp [tmrLinked, odd]
  have high : h.tmrHigh (2 * m + 1) = true := by simp [tmrHigh, odd, hl]
  simp only [pairHighRead, tmrRead, hr, tmrCntRead, unlinked, high, Bool.false_eq_true, if_false, if_true, Nat.add_sub_cancel]

end Sys2Proof.Machine.Hw

namespace Sys2Proof

open Sys2Proof.Machine

/-- Settles O30: each command of a timer unit through the law of what it does. -/
theorem timerUnits : Obligations.TimerUnits := by
  refine ⟨fun s ag u v a hs ho hv stop hh => ?arm, fun s ag u a hs ho hv arm stop hh => ?stop, fun s ag u v a hs ho hh => ?compare,
    fun s u a hh hr hl => ⟨fun hd => ?tick, fun hd => ?dwells⟩, fun s u a hd hr => ?idle, fun s u r a hh => ?capture,
    fun s u hs hf hh hl hr hd => ?step, fun s ag m r a hl hr => ?low, fun s ag m r a hl hr => ?high⟩
  case arm =>
    have arm : bit (v.toNat ||| 1) 0 = true := by simp [bit_eq_testBit]
    exact completes_live (f := (·.tmrArm ag u v)) rfl a (s.hw.tmrArm_says hs ho hv hh arm stop)
  case stop => exact completes_live (f := (·.tmrStop ag u)) rfl a (s.hw.tmrStop_says hs ho hv hh arm stop)
  case compare => exact completes_live (f := (·.tmrCmpWrite ag u v)) rfl a (s.hw.tmrCmpWrite_says hs ho hh)
  case tick => exact completes_live (f := (·.timerTick u none)) rfl a (s.hw.timerTick_counts hh hr hl hd)
  case dwells =>
    refine completes_live (f := (·.timerTick u none)) rfl a ?_
    rw [s.hw.timerTick_dwells hl hd]
    obtain ⟨run, dwell, -, -, only⟩ := s.hw.tmrStops_says u
    exact ⟨run, dwell, fun k => only.fld _ _ _ (by decide), only.mem, only.cots⟩
  case idle => exact completesAs_live (f := (·.timerTick u none)) rfl a (s.hw.timerTick_stopped hd hr)
  case capture => exact completes_live (f := (·.timerCapture u r)) rfl a (s.hw.timerCapture_says hh r)
  case step => exact completes_keep (f := (·.lfclkStep u)) rfl (s.hw.lfclkStep_says hs hf hh hl hr hd)
  case low =>
    refine completes_live (f := (·.pairLowRead ag m)) rfl a ?_
    rw [s.hw.pairLowRead_eq hl hr]
    obtain ⟨latch, others, sent, regs, mem, cots⟩ := s.hw.pairRead_says ag (2 * m) r (s.hw.fld F.TMR_CNT_CNT 0 (2 * m))
      (some (s.hw.fld F.TMR_CNT_CNT 0 (2 * m + 1)))
    exact ⟨latch, others, sent, fun _ => regs, mem, cots⟩
  case high =>
    refine completes_live (f := (·.pairHighRead ag m)) rfl a ?_
    rw [s.hw.pairHighRead_eq hl hr]
    obtain ⟨latch, others, sent, regs, mem, cots⟩ := s.hw.pairRead_says ag (2 * m) r
      ((NTable.get none (s.hw.tmr (2 * m)).latches r).getD (s.hw.fld F.TMR_CNT_CNT 0 (2 * m + 1))) none
    exact ⟨latch, others, sent, fun _ => regs, mem, cots⟩

end Sys2Proof

/-! SUPPORT. A step of a Treadle: which fields each part of it writes, and what it leaves in them (R430 to R438). -/

namespace Sys2Proof.Machine

/-- A field apart from those of a list and from the registers of records. -/
def Fld.apart (f : Fld) (l : List Fld) : Bool :=
  !Hw.recordReg f.reg && decide (f.hi < 64) &&
    l.all fun g => decide (g.lo ≤ g.hi) && (decide (g.reg ≠ f.reg) || decide (f.hi < g.lo) || decide (g.hi < f.lo))

namespace Hw

/-- g differs from h in the fields of a list and in the Treadles; it sends and stores nothing unless an interrupt is raised. -/
structure WritesOnly (l : List Fld) (irq : Bool) (g h : Hw) : Prop where
  fld : ∀ (f : Fld) (i j : Nat), f.apart l = true → g.fld f i j = h.fld f i j
  reg : ∀ (n : RegName) (i j : Nat), (!recordReg n && l.all fun f => decide (f.reg ≠ n)) = true → g.reg n i j = h.reg n i j
  cots : g.cots = h.cots
  still : irq = false → g.mem = h.mem ∧ g.out = h.out

namespace WritesOnly

variable {l m : List Fld} {irq : Bool} {g h k : Hw}

theorem refl : WritesOnly l irq h h := ⟨fun _ _ _ _ => rfl, fun _ _ _ _ => rfl, rfl, fun _ => ⟨rfl, rfl⟩⟩

theorem apart_append {f : Fld} : f.apart (l ++ m) = true ↔ f.apart l = true ∧ f.apart m = true := by
  simp only [Fld.apart, List.all_append, Bool.and_eq_true]
  exact ⟨fun ⟨a, b, c⟩ => ⟨⟨a, b⟩, a, c⟩, fun ⟨⟨a, b⟩, _, c⟩ => ⟨a, b, c⟩⟩

theorem trans (a : WritesOnly l irq g k) (b : WritesOnly m irq k h) : WritesOnly (l ++ m) irq g h where
  fld f i j e := (a.fld f i j (apart_append.1 e).1).trans (b.fld f i j (apart_append.1 e).2)
  reg n i j e := by
    rw [List.all_append, Bool.and_eq_true, Bool.and_eq_true] at e
    exact (a.reg n i j (by rw [e.1, e.2.1]; rfl)).trans (b.reg n i j (by rw [e.1, e.2.2]; rfl))
  cots := a.cots.trans b.cots
  still q := ⟨(a.still q).1.trans (b.still q).1, (a.still q).2.trans (b.still q).2⟩

theorem setFld (f : Fld) (i j v : Nat) : WritesOnly [f] irq (h.setFld f i j v) h where
  fld g i' j' e := by
    simp only [Fld.apart, List.all_cons, List.all_nil, Bool.and_true, Bool.and_eq_true, Bool.or_eq_true, decide_eq_true_eq] at e
    obtain ⟨⟨-, lt⟩, le, (ne | lo) | hi⟩ := e
    · exact fld_setFld_reg _ _ _ _ _ _ _ _ ne
    · exact fld_setFld_bits _ _ _ _ _ _ _ _ le lt (.inl lo)
    · exact fld_setFld_bits _ _ _ _ _ _ _ _ le lt (.inr hi)
  reg n i' j' e := by
    simp only [List.all_cons, List.all_nil, Bool.and_true, Bool.and_eq_true, decide_eq_true_eq] at e
    exact reg_setFld_reg _ _ _ _ _ _ _ _ e.2
  cots := setFld_cots _ _ _ _ _
  still _ := ⟨setFld_mem _ _ _ _ _, setFld_out _ _ _ _ _⟩

theorem setTrd (t : Nat) (x : Treadle) : WritesOnly [] irq (h.setTrd t x) h :=
  ⟨fun _ _ _ _ => rfl, fun _ _ _ _ => rfl, rfl, fun _ => ⟨rfl, rfl⟩⟩

theorem ofRecords (a : RecordsOnly g h) : WritesOnly [] true g h where
  fld f i j e := a.fld_eq f i j (by
    simp only [Fld.apart, Bool.and_eq_true, Bool.not_eq_true'] at e
    exact e.1.1)
  reg n i j e := a.reg n i j (by simpa using e)
  cots := a.cots
  still := nofun

theorem ite (c : Bool) (a : WritesOnly l irq g h) (b : WritesOnly l irq k h) : WritesOnly l irq (if c then g else k) h := by
  cases c
  · exact b
  · exact a

/-- A part of a step that a condition governs. -/
theorem when (c : Bool) (a : WritesOnly l irq g h) : WritesOnly l irq (if c then g else h) h := ite c a refl

theorem mono (a : WritesOnly l irq g h) (s : l ⊆ m) : WritesOnly m irq g h where
  fld f i j e := a.fld f i j (by
    simp only [Fld.apart, Bool.and_eq_true, List.all_eq_true] at e ⊢
    exact ⟨e.1, fun x hx => e.2 x (s hx)⟩)
  reg n i j e := a.reg n i j (by
    simp only [Bool.and_eq_true, List.all_eq_true] at e ⊢
    exact ⟨e.1, fun x hx => e.2 x (s hx)⟩)
  cots := a.cots
  still := a.still

theorem flag (a : WritesOnly l irq g h) (f : Fld) (i j : Nat) (e : f.apart l = true) : g.flag f i j = h.flag f i j :=
  flag_congr (a.fld f i j e)

end WritesOnly

variable (h : Hw)

@[simp] theorem trd_setTrd (t : Nat) (x : Treadle) : (h.setTrd t x).trd t = x := NTable.get_set_same _ _ _ _
theorem fld_setTrd (t : Nat) (x : Treadle) (f : Fld) (i j : Nat) : (h.setTrd t x).fld f i j = h.fld f i j := (rfl)
@[simp] theorem trd_setFld (f : Fld) (i j v t : Nat) : (h.setFld f i j v).trd t = h.trd t := by
  rw [trd, setFld_treadles, trd]

/-! ### Before a step: the program, the inputs and the entry (R431, R435) -/

/-- The Treadle as its step finds it, with the program in force. -/
def trdReady (h : Hw) (t inp i : Nat) : Hw :=
  ((h.setTrd t { h.trd t with pcfg := h.trdProgram t }).setFld F.TRD_STAT_IN 0 t inp).trdChange t i

theorem trdReady_says (t inp i : Nat) {irq : Bool} :
    WritesOnly [F.TRD_STAT_CHANGED_IN_STALL, F.TRD_STAT_IN] irq (h.trdReady t inp i) h ∧
      (h.trdReady t inp i).trd t = { h.trd t with pcfg := h.trdProgram t, committed := none, written := [] } := by
  refine ⟨?_, ?_⟩
  · exact (WritesOnly.setTrd _ _).trans ((WritesOnly.when _ (WritesOnly.setFld _ _ _ _)).trans
      ((WritesOnly.setFld F.TRD_STAT_IN 0 t inp).trans (WritesOnly.setTrd _ _)))
  · simp [trdReady, trdChange]

theorem treadleStep_eq {t pads : Nat} (parity : Bool) (he : h.flag F.TRD_CTL_EN 0 t = true) : ∃ inp i,
    h.treadleStep t pads parity =
      if parity then ((h.trdReady t inp i).trdStops t).raiseShared 1 .TRD 0x01 7 t none (detailOf .TRD [t, i])
      else if h.trdStalls t (h.trdEntry t pads) then (h.trdReady t inp i).setFld F.TRD_STAT_STALLED 0 t 1
      else (h.trdReady t inp i).trdActs t (h.trdEntry t pads) (bit inp 0) (h.trdDrawDue t (h.trdEntry t pads))
        (h.trdBindDue t (h.trdEntry t pads)) := by
  refine ⟨h.trdInputs t pads, h.fld F.TRD_STAT_STATE 0 t * 16 + h.trdInputs t pads, ?_⟩
  rw [treadleStep, he]
  rfl

/-! ### The parts of a step (R432, R434, R437) -/

/-- The word that a draw takes: the oldest of the TX FIFO, or the last word drawn where it is empty. -/
def drawnWord (x : Treadle) : Word := x.txf.headD x.lastDrawn

theorem trdDraw_says (t : Nat) {irq : Bool} : let g := h.trdDraw t
    WritesOnly [F.TRD_FIFO_EMPTY, F.TRD_STAT_SKC, F.TRD_SKEIN_BITS, F.TRD_STAT_UNDERRUN] irq g h ∧
      g.trd t = { h.trd t with txf := (h.trd t).txf.tail, lastDrawn := drawnWord (h.trd t) } ∧
      g.fld F.TRD_SKEIN_BITS 0 t = (drawnWord (h.trd t)).toNat ∧ g.fld F.TRD_STAT_SKC 0 t = 0 ∧
      g.flag F.TRD_FIFO_EMPTY 0 t = false ∧
      g.flag F.TRD_STAT_UNDERRUN 0 t = (h.flag F.TRD_STAT_UNDERRUN 0 t || (h.trd t).txf.isEmpty) := by
  have loads (k : Hw) (w : Word) :
      let g := ((k.setFld F.TRD_SKEIN_BITS 0 t w.toNat).setFld F.TRD_STAT_SKC 0 t 0).setFld F.TRD_FIFO_EMPTY 0 t 0
      WritesOnly [F.TRD_FIFO_EMPTY, F.TRD_STAT_SKC, F.TRD_SKEIN_BITS] irq g k ∧ g.fld F.TRD_SKEIN_BITS 0 t = w.toNat ∧
        g.fld F.TRD_STAT_SKC 0 t = 0 ∧ g.flag F.TRD_FIFO_EMPTY 0 t = false := by
    refine ⟨(WritesOnly.setFld _ _ _ _).trans ((WritesOnly.setFld _ _ _ _).trans (WritesOnly.setFld _ _ _ _)), ?_, ?_,
      flag_setFld_zero _ _ _ (by decide) (by decide)⟩
    · rw [fld_setFld_reg _ _ _ _ _ _ _ _ (by decide), fld_setFld_reg _ _ _ _ _ _ _ _ (by decide)]
      exact fld_setFld_lt _ _ _ _ _ (by decide) (by decide) w.isLt
    · rw [fld_setFld_reg _ _ _ _ _ _ _ _ (by decide)]
      exact fld_setFld_lt _ _ _ _ _ (by decide) (by decide) (by decide)
  unfold trdDraw drawnWord
  dsimp only
  split
  case h_1 w l e =>
    obtain ⟨only, skein, skc, empty⟩ := loads (h.setTrd t { h.trd t with txf := l, lastDrawn := w }) w
    refine ⟨(only.trans (WritesOnly.setTrd _ _)).mono (by simp), ?_, ?_, skc, empty, ?_⟩
    · simp [e]
    · rw [skein, e]; rfl
    · rw [only.flag _ _ _ (by decide), e]
      exact (Bool.or_false _).symm
  case h_2 e =>
    obtain ⟨only, skein, skc, empty⟩ := loads (h.setFld F.TRD_STAT_UNDERRUN 0 t 1) (h.trd t).lastDrawn
    refine ⟨only.trans (WritesOnly.setFld _ _ _ _), ?_, ?_, skc, empty, ?_⟩
    · rw [trd_setFld, trd_setFld, trd_setFld, trd_setFld]
      generalize h.trd t = x at e
      cases x
      subst e
      rfl
    · rw [skein, e]; rfl
    · rw [only.flag _ _ _ (by decide), e]
      simp [flag_setFld_one]

/-- The Skein and its count after a spin of a step, or none. -/
def spun (spin lsb : Bool) (w : Nat) : Nat := if spin then (if lsb then w / 2 else w * 2 % 2 ^ 32) else w

theorem trdSpin_says (t : Nat) (lsb : Bool) {irq : Bool} : let g := h.trdSpin t lsb
    WritesOnly [F.TRD_STAT_SKC, F.TRD_SKEIN_BITS] irq g h ∧
      (∃ b, g.trd t = { h.trd t with thread := b }) ∧ g.fld F.TRD_SKEIN_BITS 0 t = spun true lsb (h.fld F.TRD_SKEIN_BITS 0 t) ∧
      g.fld F.TRD_STAT_SKC 0 t = min 32 (h.fld F.TRD_STAT_SKC 0 t + 1) := by
  unfold trdSpin
  dsimp only
  refine ⟨((WritesOnly.setFld _ _ _ _).trans (WritesOnly.setFld _ _ _ _)).trans (WritesOnly.setTrd _ _),
    ⟨if lsb then bit (h.fld F.TRD_SKEIN_BITS 0 t) 0 else bit (h.fld F.TRD_SKEIN_BITS 0 t) 31, by simp⟩, ?_, ?_⟩
  · have lt : h.fld F.TRD_SKEIN_BITS 0 t < 2 ^ 32 := bits_lt _ _ _
    rw [fld_setFld_reg _ _ _ _ _ _ _ _ (by decide), fld_setFld_same _ _ _ _ _ (by decide) (by decide)]
    cases lsb
    · rfl
    · exact Nat.mod_eq_of_lt (Nat.lt_of_le_of_lt (Nat.div_le_self _ _) lt)
  · exact fld_setFld_lt _ _ _ _ _ (by decide) (by decide) (Nat.lt_of_le_of_lt (Nat.min_le_left _ _) (by decide))

theorem trdGather_says (t : Nat) (lsb in0 : Bool) {irq : Bool} : let g := h.trdGather t lsb in0
    WritesOnly [F.TRD_STAT_SHC, F.TRD_SHEAF_BITS] irq g h ∧ g.trd t = h.trd t := by
  exact ⟨(WritesOnly.setFld _ _ _ _).trans (WritesOnly.setFld _ _ _ _), by simp [trdGather]⟩

theorem trdCount_says (t cnt : Nat) {irq : Bool} : let g := h.trdCount t cnt
    WritesOnly [F.TRD_CNT_COUNT] irq g h ∧ g.trd t = h.trd t ∧
      g.fld F.TRD_CNT_COUNT 0 t = (if cnt = 1 then h.fld F.TRD_CNT_RELOAD 0 t
        else if cnt = 2 then h.fld F.TRD_CNT_COUNT 0 t - 1 else h.fld F.TRD_CNT_COUNT 0 t) := by
  have reload : h.fld F.TRD_CNT_RELOAD 0 t < 2 ^ 16 := bits_lt _ _ _
  have count : h.fld F.TRD_CNT_COUNT 0 t < 2 ^ 16 := bits_lt _ _ _
  unfold trdCount
  dsimp only
  split
  · exact ⟨WritesOnly.setFld _ _ _ _, trd_setFld _ _ _ _ _ _, fld_setFld_lt _ _ _ _ _ (by decide) (by decide) reload⟩
  · split
    · exact ⟨WritesOnly.setFld _ _ _ _, trd_setFld _ _ _ _ _ _,
        fld_setFld_lt _ _ _ _ _ (by decide) (by decide) (Nat.lt_of_le_of_lt (Nat.sub_le _ _) count)⟩
    · exact ⟨WritesOnly.refl, rfl, rfl⟩

/-- The RX FIFO after a bind. -/
def boundRxf (rxf : List Word) (sheaf : Nat) : List Word := if rxf.length < 8 then rxf ++ [BitVec.ofNat 32 sheaf] else rxf

theorem trdBind_says (t : Nat) {irq : Bool} : let g := h.trdBind t
    WritesOnly [F.TRD_STAT_SHC, F.TRD_SHEAF_BITS, F.TRD_STAT_OVERRUN] irq g h ∧
      g.trd t = { h.trd t with rxf := boundRxf (h.trd t).rxf (h.fld F.TRD_SHEAF_BITS 0 t) } ∧
      g.fld F.TRD_SHEAF_BITS 0 t = 0 ∧ g.fld F.TRD_STAT_SHC 0 t = 0 ∧
      g.flag F.TRD_STAT_OVERRUN 0 t = (h.flag F.TRD_STAT_OVERRUN 0 t || decide (8 ≤ (h.trd t).rxf.length)) := by
  have clears (k : Hw) : let g := (k.setFld F.TRD_SHEAF_BITS 0 t 0).setFld F.TRD_STAT_SHC 0 t 0
      WritesOnly [F.TRD_STAT_SHC, F.TRD_SHEAF_BITS] irq g k ∧ g.fld F.TRD_SHEAF_BITS 0 t = 0 ∧ g.fld F.TRD_STAT_SHC 0 t = 0 := by
    refine ⟨(WritesOnly.setFld _ _ _ _).trans (WritesOnly.setFld _ _ _ _), ?_,
      fld_setFld_lt _ _ _ _ _ (by decide) (by decide) (by decide)⟩
    rw [fld_setFld_reg _ _ _ _ _ _ _ _ (by decide)]
    exact fld_setFld_lt _ _ _ _ _ (by decide) (by decide) (by decide)
  unfold trdBind boundRxf
  dsimp only
  by_cases room : (h.trd t).rxf.length < 8
  · obtain ⟨only, sheaf, shc⟩ := clears (h.setTrd t { h.trd t with
      rxf := (h.trd t).rxf ++ [BitVec.ofNat 32 (h.fld F.TRD_SHEAF_BITS 0 t)] })
    rw [if_pos room, if_pos room]
    refine ⟨(only.trans (WritesOnly.setTrd _ _)).mono (by simp), by simp, sheaf, shc, ?_⟩
    rw [only.flag _ _ _ (by decide), decide_eq_false (Nat.not_le.2 room), Bool.or_false]
    rfl
  · obtain ⟨only, sheaf, shc⟩ := clears (h.setFld F.TRD_STAT_OVERRUN 0 t 1)
    rw [if_neg room, if_neg room]
    refine ⟨only.trans (WritesOnly.setFld _ _ _ _), by simp, sheaf, shc, ?_⟩
    rw [only.flag _ _ _ (by decide), decide_eq_true (Nat.not_lt.1 room), Bool.or_true]
    exact flag_setFld_one _ _ _ (by decide) (by decide)

theorem trdLevels_says (t : Nat) {irq : Bool} :
    WritesOnly [F.TRD_FIFO_RXLEVEL, F.TRD_FIFO_TXLEVEL] irq (h.trdLevels t) h ∧ (h.trdLevels t).trd t = h.trd t :=
  ⟨(WritesOnly.setFld _ _ _ _).trans (WritesOnly.setFld _ _ _ _), by simp [trdLevels]⟩

theorem trdEvt_says (t : Nat) : let g := h.trdEvt t
    WritesOnly [F.TRD_STAT_EVT] true g h ∧ g.trd t = h.trd t ∧ g.flag F.TRD_STAT_EVT 0 t = true := by
  have shown : (h.setFld F.TRD_STAT_EVT 0 t 1).flag F.TRD_STAT_EVT 0 t = true := flag_setFld_one _ _ _ (by decide) (by decide)
  unfold trdEvt
  dsimp only
  split
  · have only := RecordsOnly.event (h.setFld F.TRD_STAT_EVT 0 t 1)
      (129 * ((h.setFld F.TRD_STAT_EVT 0 t 1).fld F.TRD_OWN_OWNER 0 t - 5)) ((h.setFld F.TRD_STAT_EVT 0 t 1).fld F.TRD_CTL_VEC 0 t)
    refine ⟨(WritesOnly.ofRecords only).trans (WritesOnly.setFld _ _ _ _), ?_, (only.flag_eq _ _ _ rfl).trans shown⟩
    rw [trd, only.treadles, ← trd, trd_setFld]
  · exact ⟨WritesOnly.setFld _ _ _ _, trd_setFld _ _ _ _ _ _, shown⟩

/-! ### The parts in their order -/

theorem trdDrawn_says (t : Nat) (draw : Bool) {irq : Bool} : let g := if draw then h.trdDraw t else h
    WritesOnly [F.TRD_FIFO_EMPTY, F.TRD_STAT_SKC, F.TRD_SKEIN_BITS, F.TRD_STAT_UNDERRUN] irq g h ∧
      g.trd t = { h.trd t with txf := if draw then (h.trd t).txf.tail else (h.trd t).txf,
                               lastDrawn := if draw then drawnWord (h.trd t) else (h.trd t).lastDrawn } ∧
      g.fld F.TRD_SKEIN_BITS 0 t = (if draw then (drawnWord (h.trd t)).toNat else h.fld F.TRD_SKEIN_BITS 0 t) ∧
      g.fld F.TRD_STAT_SKC 0 t = (if draw then 0 else h.fld F.TRD_STAT_SKC 0 t) ∧
      (draw = true → g.flag F.TRD_FIFO_EMPTY 0 t = false) ∧
      g.flag F.TRD_STAT_UNDERRUN 0 t = (h.flag F.TRD_STAT_UNDERRUN 0 t || (draw && (h.trd t).txf.isEmpty)) := by
  cases draw
  · exact ⟨WritesOnly.refl, rfl, rfl, rfl, nofun, (Bool.or_false _).symm⟩
  · obtain ⟨only, trd, skein, skc, empty, underrun⟩ := h.trdDraw_says t (irq := irq)
    exact ⟨only, trd, skein, skc, fun _ => empty, underrun⟩

theorem trdSpun_says (t : Nat) (spin lsb : Bool) {irq : Bool} : let g := if spin then h.trdSpin t lsb else h
    WritesOnly [F.TRD_STAT_SKC, F.TRD_SKEIN_BITS] irq g h ∧
      (∃ b, (spin = false → b = (h.trd t).thread) ∧ g.trd t = { h.trd t with thread := b }) ∧
      g.fld F.TRD_SKEIN_BITS 0 t = spun spin lsb (h.fld F.TRD_SKEIN_BITS 0 t) ∧
      g.fld F.TRD_STAT_SKC 0 t = (if spin then min 32 (h.fld F.TRD_STAT_SKC 0 t + 1) else h.fld F.TRD_STAT_SKC 0 t) := by
  cases spin
  · exact ⟨WritesOnly.refl, ⟨_, fun _ => rfl, rfl⟩, rfl, rfl⟩
  · obtain ⟨only, ⟨b, trd⟩, skein, skc⟩ := h.trdSpin_says t lsb (irq := irq)
    exact ⟨only, ⟨b, nofun, trd⟩, skein, skc⟩

theorem trdGathered_says (t : Nat) (gather lsb in0 : Bool) {irq : Bool} : let g := if gather then h.trdGather t lsb in0 else h
    WritesOnly [F.TRD_STAT_SHC, F.TRD_SHEAF_BITS] irq g h ∧ g.trd t = h.trd t ∧
      (gather = false → g.fld F.TRD_SHEAF_BITS 0 t = h.fld F.TRD_SHEAF_BITS 0 t) := by
  cases gather
  · exact ⟨WritesOnly.refl, rfl, fun _ => rfl⟩
  · obtain ⟨only, trd⟩ := h.trdGather_says t lsb in0 (irq := irq)
    exact ⟨only, trd, nofun⟩

theorem trdBound_says (t : Nat) (bind : Bool) {irq : Bool} : let g := if bind then h.trdBind t else h
    WritesOnly [F.TRD_STAT_SHC, F.TRD_SHEAF_BITS, F.TRD_STAT_OVERRUN] irq g h ∧
      g.trd t = { h.trd t with rxf := if bind then boundRxf (h.trd t).rxf (h.fld F.TRD_SHEAF_BITS 0 t) else (h.trd t).rxf } ∧
      (bind = true → g.fld F.TRD_SHEAF_BITS 0 t = 0 ∧ g.fld F.TRD_STAT_SHC 0 t = 0) ∧
      (bind = false → g.fld F.TRD_SHEAF_BITS 0 t = h.fld F.TRD_SHEAF_BITS 0 t) ∧
      g.flag F.TRD_STAT_OVERRUN 0 t = (h.flag F.TRD_STAT_OVERRUN 0 t || (bind && decide (8 ≤ (h.trd t).rxf.length))) := by
  cases bind
  · exact ⟨WritesOnly.refl, rfl, nofun, fun _ => rfl, (Bool.or_false _).symm⟩
  · obtain ⟨only, trd, sheaf, shc, overrun⟩ := h.trdBind_says t (irq := irq)
    exact ⟨only, trd, fun _ => ⟨sheaf, shc⟩, nofun, overrun⟩

/-- A step up to its bind: the draw, the spin, the gather and the counter. -/
def trdMoved (h : Hw) (t e : Nat) (in0 draw bind : Bool) : Hw :=
  let p := (h.trd t).pcfg.toNat
  let h := h.setFld F.TRD_STAT_STALLED 0 t 0
  let h := if draw then h.trdDraw t else h
  let h := if bit e 17 then h.trdSpin t (bit p 12) else h
  let h := if bit e 16 then h.trdGather t (bit p 13) in0 else h
  let h := h.trdCount t (bits e 21 20)
  if bind then h.trdBind t else h

/-- What a step leaves once its FIFOs and shift registers have moved: the outputs, the state, the interrupt. -/
def trdLeaves (h : Hw) (t e : Nat) : Hw :=
  let out := if bit e 14 then setBits (bits e 9 6) 0 0 (b2n (h.trd t).thread) else bits e 9 6
  let h := (h.setFld F.TRD_STAT_OUT 0 t out).setTrd t { h.trd t with oe := bits e 13 10 }
  let h := h.setFld F.TRD_STAT_STATE 0 t (bits e 5 0)
  let h := if bit e 23 then h.trdEvt t else h
  h.trdLevels t

theorem trdActs_eq (t e : Nat) (in0 draw bind : Bool) :
    h.trdActs t e in0 draw bind = (h.trdMoved t e in0 draw bind).trdLeaves t e := by
  unfold trdActs trdMoved trdLeaves
  with_reducible rfl

/-- The fields that a step writes up to its bind. -/
def movedFields : List Fld := [F.TRD_STAT_SHC, F.TRD_SHEAF_BITS, F.TRD_STAT_OVERRUN, F.TRD_CNT_COUNT, F.TRD_STAT_SKC,
  F.TRD_SKEIN_BITS, F.TRD_FIFO_EMPTY, F.TRD_STAT_UNDERRUN, F.TRD_STAT_STALLED]

/-- What a step on entry e has moved: `draw` and `bind` say whether those are due, `p` is the program. -/
structure TrdMoved (g h : Hw) (t e p : Nat) (draw bind : Bool) : Prop where
  stalled : g.flag F.TRD_STAT_STALLED 0 t = false
  thread : bit e 17 = false → (g.trd t).thread = (h.trd t).thread
  txf : (g.trd t).txf = if draw then (h.trd t).txf.tail else (h.trd t).txf
  lastDrawn : (g.trd t).lastDrawn = if draw then drawnWord (h.trd t) else (h.trd t).lastDrawn
  rxf : ∃ sheaf, (bit e 16 = false → sheaf = h.fld F.TRD_SHEAF_BITS 0 t) ∧
    (g.trd t).rxf = if bind then boundRxf (h.trd t).rxf sheaf else (h.trd t).rxf
  skein : g.fld F.TRD_SKEIN_BITS 0 t =
    spun (bit e 17) (bit p 12) (if draw then (drawnWord (h.trd t)).toNat else h.fld F.TRD_SKEIN_BITS 0 t)
  skc : draw = true → g.fld F.TRD_STAT_SKC 0 t = b2n (bit e 17)
  empty : draw = true → g.flag F.TRD_FIFO_EMPTY 0 t = false
  underrun : g.flag F.TRD_STAT_UNDERRUN 0 t = (h.flag F.TRD_STAT_UNDERRUN 0 t || (draw && (h.trd t).txf.isEmpty))
  overrun : g.flag F.TRD_STAT_OVERRUN 0 t = (h.flag F.TRD_STAT_OVERRUN 0 t || (bind && decide (8 ≤ (h.trd t).rxf.length)))
  bound : bind = true → g.fld F.TRD_SHEAF_BITS 0 t = 0 ∧ g.fld F.TRD_STAT_SHC 0 t = 0
  sheaf : bit e 16 = false → bind = false → g.fld F.TRD_SHEAF_BITS 0 t = h.fld F.TRD_SHEAF_BITS 0 t
  count : g.fld F.TRD_CNT_COUNT 0 t = (if bits e 21 20 = 1 then h.fld F.TRD_CNT_RELOAD 0 t
    else if bits e 21 20 = 2 then h.fld F.TRD_CNT_COUNT 0 t - 1 else h.fld F.TRD_CNT_COUNT 0 t)

theorem trdMoved_says (t e : Nat) (in0 draw bind : Bool) {irq : Bool} : let g := h.trdMoved t e in0 draw bind
    WritesOnly movedFields irq g h ∧ TrdMoved g h t e (h.trd t).pcfg.toNat draw bind := by
  have starts : WritesOnly [F.TRD_STAT_STALLED] irq (h.setFld F.TRD_STAT_STALLED 0 t 0) h := WritesOnly.setFld _ _ _ _
  have started : (h.setFld F.TRD_STAT_STALLED 0 t 0).flag F.TRD_STAT_STALLED 0 t = false :=
    flag_setFld_zero _ _ _ (by decide) (by decide)
  have trd₀ := h.trd_setFld F.TRD_STAT_STALLED 0 t 0 t
  unfold trdMoved
  dsimp only
  generalize (h.trd t).pcfg.toNat = p
  generalize h.setFld F.TRD_STAT_STALLED 0 t 0 = a at *
  obtain ⟨draws, trd₁, skein₁, skc₁, empty₁, underrun₁⟩ := a.trdDrawn_says t draw (irq := irq)
  generalize (if draw then a.trdDraw t else a) = b at *
  obtain ⟨spins, ⟨th, still, trd₂⟩, skein₂, skc₂⟩ := b.trdSpun_says t (bit e 17) (bit p 12) (irq := irq)
  generalize (if bit e 17 then b.trdSpin t (bit p 12) else b) = c at *
  obtain ⟨gathers, trd₃, sheaf₃⟩ := c.trdGathered_says t (bit e 16) (bit p 13) in0 (irq := irq)
  generalize (if bit e 16 then c.trdGather t (bit p 13) in0 else c) = d at *
  obtain ⟨counts, trd₄, count₄⟩ := d.trdCount_says t (bits e 21 20) (irq := irq)
  generalize d.trdCount t (bits e 21 20) = f at *
  obtain ⟨binds, trd₅, bound₅, unbound₅, overrun₅⟩ := f.trdBound_says t bind (irq := irq)
  generalize (if bind then f.trdBind t else f) = g at *
  have whole := binds.trans (counts.trans (gathers.trans (spins.trans (draws.trans starts))))
  have upToDraw := binds.trans (counts.trans gathers)
  refine ⟨whole.mono (by decide), ?stalled, ?thread, by rw [trd₅, trd₄, trd₃, trd₂, trd₁, trd₀],
    by rw [trd₅, trd₄, trd₃, trd₂, trd₁, trd₀], ?rxf, ?skein, ?skc, ?empty, ?underrun, ?overrun, bound₅, ?sheaf, ?count⟩
  case stalled => exact ((binds.trans (counts.trans (gathers.trans (spins.trans draws)))).flag _ _ _ (by decide)).trans started
  case thread =>
    intro no
    rw [trd₅, trd₄, trd₃, trd₂]
    exact (still no).trans (by rw [trd₁, trd₀])
  case rxf =>
    refine ⟨f.fld F.TRD_SHEAF_BITS 0 t, fun no => ?_, by rw [trd₅, trd₄, trd₃, trd₂, trd₁, trd₀]⟩
    exact (counts.fld _ _ _ (by decide)).trans ((sheaf₃ no).trans ((spins.trans (draws.trans starts)).fld _ _ _ (by decide)))
  case skein =>
    rw [upToDraw.fld _ _ _ (by decide), skein₂, skein₁, trd₀, starts.fld _ _ _ (by decide)]
  case skc =>
    intro due
    rw [upToDraw.fld _ _ _ (by decide), skc₂, skc₁, if_pos due]
    cases bit e 17 <;> rfl
  case empty => exact fun due => ((upToDraw.trans spins).flag _ _ _ (by decide)).trans (empty₁ due)
  case underrun =>
    rw [(upToDraw.trans spins).flag _ _ _ (by decide), underrun₁, trd₀, starts.flag _ _ _ (by decide)]
  case overrun =>
    rw [overrun₅, (counts.trans (gathers.trans (spins.trans (draws.trans starts)))).flag _ _ _ (by decide), trd₄, trd₃, trd₂,
      trd₁, trd₀]
  case sheaf =>
    intro no unbound
    rw [unbound₅ unbound, counts.fld _ _ _ (by decide), sheaf₃ no]
    exact (spins.trans (draws.trans starts)).fld _ _ _ (by decide)
  case count =>
    have before := gathers.trans (spins.trans (draws.trans starts))
    rw [binds.fld _ _ _ (by decide), count₄, before.fld _ _ _ (by decide), before.fld _ _ _ (by decide)]

theorem trdRaised_says (t : Nat) (irq : Bool) : let g := if irq then h.trdEvt t else h
    WritesOnly [F.TRD_STAT_EVT] irq g h ∧ g.trd t = h.trd t ∧ g.flag F.TRD_STAT_EVT 0 t = (irq || h.flag F.TRD_STAT_EVT 0 t) := by
  cases irq
  · rw [if_neg Bool.false_ne_true, Bool.false_or]
    exact ⟨WritesOnly.refl, rfl, rfl⟩
  · rw [if_pos rfl, Bool.true_or]
    exact h.trdEvt_says t

theorem trdLeaves_says (t e : Nat) : let g := h.trdLeaves t e
    WritesOnly [F.TRD_FIFO_RXLEVEL, F.TRD_FIFO_TXLEVEL, F.TRD_STAT_EVT, F.TRD_STAT_STATE, F.TRD_STAT_OUT] (bit e 23) g h ∧
      g.trd t = { h.trd t with oe := bits e 13 10 } ∧ g.fld F.TRD_STAT_STATE 0 t = bits e 5 0 ∧
      g.fld F.TRD_STAT_OUT 0 t = (if bit e 14 then setBits (bits e 9 6) 0 0 (b2n (h.trd t).thread) else bits e 9 6) ∧
      g.flag F.TRD_STAT_EVT 0 t = (bit e 23 || h.flag F.TRD_STAT_EVT 0 t) := by
  have small : (if bit e 14 then setBits (bits e 9 6) 0 0 (b2n (h.trd t).thread) else bits e 9 6) < 2 ^ 4 := by
    have lt : bits e 9 6 < 2 ^ 4 := bits_lt _ _ _
    split
    · simp only [setBits, bits, Nat.pow_zero, Nat.div_one, Nat.mul_one]
      have : b2n (h.trd t).thread % 2 ^ (0 + 1 - 0) < 2 := Nat.mod_lt _ (by decide)
      rw [bits] at lt
      omega
    · exact lt
  unfold trdLeaves
  dsimp only
  generalize (if bit e 14 then setBits (bits e 9 6) 0 0 (b2n (h.trd t).thread) else bits e 9 6) = out at *
  have outs : WritesOnly [F.TRD_STAT_STATE, F.TRD_STAT_OUT] (bit e 23) (((h.setFld F.TRD_STAT_OUT 0 t out).setTrd t
      { h.trd t with oe := bits e 13 10 }).setFld F.TRD_STAT_STATE 0 t (bits e 5 0)) h :=
    (WritesOnly.setFld _ _ _ _).trans ((WritesOnly.setTrd _ _).trans (WritesOnly.setFld _ _ _ _))
  have trd₀ : (((h.setFld F.TRD_STAT_OUT 0 t out).setTrd t { h.trd t with oe := bits e 13 10 }).setFld F.TRD_STAT_STATE 0 t
      (bits e 5 0)).trd t = { h.trd t with oe := bits e 13 10 } := by rw [trd_setFld, trd_setTrd]
  have state₀ := fld_setFld_lt ((h.setFld F.TRD_STAT_OUT 0 t out).setTrd t { h.trd t with oe := bits e 13 10 })
    F.TRD_STAT_STATE 0 t (bits e 5 0) (by decide) (by decide) (bits_lt _ _ _)
  have out₀ : (((h.setFld F.TRD_STAT_OUT 0 t out).setTrd t { h.trd t with oe := bits e 13 10 }).setFld F.TRD_STAT_STATE 0 t
      (bits e 5 0)).fld F.TRD_STAT_OUT 0 t = out :=
    ((fld_setFld_bits _ _ _ _ _ _ _ _ (by decide) (by decide) (by decide)).trans (fld_setTrd _ _ _ _ _ _)).trans
      (fld_setFld_lt h F.TRD_STAT_OUT 0 t out (by decide) (by decide) small)
  generalize ((h.setFld F.TRD_STAT_OUT 0 t out).setTrd t { h.trd t with oe := bits e 13 10 }).setFld F.TRD_STAT_STATE 0 t
    (bits e 5 0) = a at *
  obtain ⟨raises, trd₁, evt₁⟩ := a.trdRaised_says t (bit e 23)
  generalize (if bit e 23 then a.trdEvt t else a) = b at *
  obtain ⟨levels, trd₂⟩ := b.trdLevels_says t (irq := bit e 23)
  have last := levels.trans raises
  refine ⟨last.trans outs, trd₂.trans (trd₁.trans trd₀), (last.fld _ _ _ (by decide)).trans state₀,
    (last.fld _ _ _ (by decide)).trans out₀, ?_⟩
  rw [levels.flag _ _ _ (by decide), evt₁, outs.flag _ _ _ (by decide)]

/-- The parts that come before a step's own say nothing of what it moves. -/
theorem TrdMoved.of_ready {g a h : Hw} {t e p : Nat} {draw bind irq : Bool} (m : TrdMoved g a t e p draw bind)
    (w : WritesOnly [F.TRD_STAT_CHANGED_IN_STALL, F.TRD_STAT_IN] irq a h) (thread : (a.trd t).thread = (h.trd t).thread)
    (txf : (a.trd t).txf = (h.trd t).txf) (lastDrawn : (a.trd t).lastDrawn = (h.trd t).lastDrawn)
    (rxf : (a.trd t).rxf = (h.trd t).rxf) : TrdMoved g h t e p draw bind := by
  have word : drawnWord (a.trd t) = drawnWord (h.trd t) := by rw [drawnWord, drawnWord, txf, lastDrawn]
  have sheaf := w.fld F.TRD_SHEAF_BITS 0 t (by decide)
  refine ⟨m.stalled, fun no => (m.thread no).trans thread, by rw [m.txf, txf], by rw [m.lastDrawn, word, lastDrawn], ?_, ?_, m.skc,
    m.empty, ?_, ?_, m.bound, fun no unbound => (m.sheaf no unbound).trans sheaf, ?_⟩
  · obtain ⟨x, hx, e⟩ := m.rxf
    exact ⟨x, fun no => (hx no).trans sheaf, by rw [e, rxf]⟩
  · rw [m.skein, word, w.fld _ _ _ (by decide)]
  · rw [m.underrun, txf, w.flag _ _ _ (by decide)]
  · rw [m.overrun, rxf, w.flag _ _ _ (by decide)]
  · rw [m.count, w.fld _ _ _ (by decide), w.fld _ _ _ (by decide)]

/-- A step that does not stall moves what its entry says, then leaves its outputs, state and interrupt (R432). -/
theorem treadleStep_acts {t pads e : Nat} (he : h.flag F.TRD_CTL_EN 0 t = true) (hn : h.trdEntry t pads = e)
    (hs : h.trdStalls t e = false) : ∃ m, h.treadleStep t pads false = m.trdLeaves t e ∧
      (∀ irq, WritesOnly (movedFields ++ [F.TRD_STAT_CHANGED_IN_STALL, F.TRD_STAT_IN]) irq m h) ∧
      TrdMoved m h t e (h.trdProgram t).toNat (h.trdDrawDue t e) (h.trdBindDue t e) := by
  subst hn
  obtain ⟨inp, i, step⟩ := h.treadleStep_eq (pads := pads) false he
  rw [hs] at step
  obtain ⟨-, trd⟩ := h.trdReady_says t inp i (irq := true)
  have moved := (h.trdReady t inp i).trdMoved_says t (h.trdEntry t pads) (bit inp 0) (h.trdDrawDue t (h.trdEntry t pads))
    (h.trdBindDue t (h.trdEntry t pads)) (irq := true)
  refine ⟨_, step.trans (trdActs_eq _ _ _ _ _ _), fun irq => ?_, ?_⟩
  · exact ((h.trdReady t inp i).trdMoved_says t _ _ _ _).1.trans (h.trdReady_says t inp i).1
  · have program : ((h.trdReady t inp i).trd t).pcfg = h.trdProgram t := by rw [trd]
    rw [program] at moved
    exact moved.2.of_ready (h.trdReady_says t inp i (irq := true)).1 (by rw [trd]) (by rw [trd]) (by rw [trd]) (by rw [trd])

/-- A step on an entry with a parity error, or one that stalls: what it leaves (R433, R438). -/
theorem treadleStep_parity {t pads : Nat} (he : h.flag F.TRD_CTL_EN 0 t = true) : let g := h.treadleStep t pads true
    WritesOnly [F.TRD_STAT_RUN, F.TRD_CTL_EN, F.TRD_STAT_CHANGED_IN_STALL, F.TRD_STAT_IN] true g h ∧
      g.trd t = { h.trd t with pcfg := h.trdProgram t, committed := none, written := [] } ∧
      g.flag F.TRD_CTL_EN 0 t = false ∧ g.flag F.TRD_STAT_RUN 0 t = false := by
  obtain ⟨inp, i, step⟩ := h.treadleStep_eq (pads := pads) true he
  obtain ⟨only, trd⟩ := h.trdReady_says t inp i (irq := true)
  have stops : WritesOnly [F.TRD_STAT_RUN, F.TRD_CTL_EN] true ((h.trdReady t inp i).trdStops t) (h.trdReady t inp i) :=
    (WritesOnly.setFld _ _ _ _).trans (WritesOnly.setFld _ _ _ _)
  have records := RecordsOnly.raiseShared ((h.trdReady t inp i).trdStops t) 1 .TRD 0x01 7 t none (detailOf .TRD [t, i])
  dsimp only
  rw [step, if_pos rfl]
  refine ⟨(WritesOnly.ofRecords records).trans (stops.trans only), ?_, ?_, ?_⟩
  · rw [Hw.trd, records.treadles, ← Hw.trd, trdStops, trd_setFld, trd_setFld, trd]
  · rw [records.flag_eq _ _ _ rfl, trdStops, flag_congr (fld_setFld_reg _ _ _ _ _ _ _ _ (by decide))]
    exact flag_setFld_zero _ _ _ (by decide) (by decide)
  · rw [records.flag_eq _ _ _ rfl]
    exact flag_setFld_zero _ _ _ (by decide) (by decide)

theorem treadleStep_stalls {t pads : Nat} (he : h.flag F.TRD_CTL_EN 0 t = true)
    (hs : h.trdStalls t (h.trdEntry t pads) = true) {irq : Bool} : let g := h.treadleStep t pads false
    WritesOnly [F.TRD_STAT_STALLED, F.TRD_STAT_CHANGED_IN_STALL, F.TRD_STAT_IN] irq g h ∧
      g.trd t = { h.trd t with pcfg := h.trdProgram t, committed := none, written := [] } ∧
      g.flag F.TRD_STAT_STALLED 0 t = true := by
  obtain ⟨inp, i, step⟩ := h.treadleStep_eq (pads := pads) false he
  obtain ⟨only, trd⟩ := h.trdReady_says t inp i (irq := irq)
  rw [hs] at step
  dsimp only
  rw [step, if_neg Bool.false_ne_true, if_pos rfl]
  exact ⟨(WritesOnly.setFld _ _ _ _).trans only, (trd_setFld _ _ _ _ _ _).trans trd, flag_setFld_one _ _ _ (by decide) (by decide)⟩

end Hw

end Sys2Proof.Machine

namespace Sys2Proof

open Sys2Proof.Machine

/-- Settles O31: a step by its three outcomes; one that acts, through the part of it that writes each field. -/
theorem treadleStep : Obligations.TreadleStep := by
  refine ⟨fun s t pads pe a he => ?off, fun s t pads a he => ?parity, fun s t pads a he hs => ?stall,
    fun s t pads e a he hn hs => ?acts⟩
  case off =>
    refine completesAs_live (f := (·.treadleStep t pads pe)) rfl a ?_
    rw [Hw.treadleStep, he]; rfl
  case parity =>
    refine completes_live (f := (·.treadleStep t pads true)) rfl a ?_
    obtain ⟨only, trd, en, run⟩ := s.hw.treadleStep_parity (pads := pads) he
    exact ⟨en, run, only.fld _ _ _ (by decide), (congrArg Treadle.oe trd :), only.cots⟩
  case stall =>
    refine completes_live (f := (·.treadleStep t pads false)) rfl a ?_
    obtain ⟨only, trd, stalled⟩ := s.hw.treadleStep_stalls he hs (irq := false)
    exact ⟨stalled, only.fld _ _ _ (by decide), only.fld _ _ _ (by decide), only.fld _ _ _ (by decide),
      only.fld _ _ _ (by decide), only.fld _ _ _ (by decide), only.reg _ _ _ (by decide), only.reg _ _ _ (by decide),
      only.reg _ _ _ (by decide), only.reg _ _ _ (by decide), (congrArg Treadle.txf trd :), (congrArg Treadle.rxf trd :),
      (congrArg Treadle.thread trd :), (congrArg Treadle.oe trd :), only.cots, (only.still rfl).1⟩
  case acts =>
    refine completes_live (f := (·.treadleStep t pads false)) rfl a ?_
    obtain ⟨m, step, before, moved⟩ := s.hw.treadleStep_acts he hn hs
    obtain ⟨after, trd, state, out, evt⟩ := m.trdLeaves_says t e
    rw [step]
    generalize m.trdLeaves t e = g at *
    obtain ⟨sheaf, gathered, rxf⟩ := moved.rxf
    refine ⟨(after.flag _ _ _ (by decide)).trans moved.stalled, state, (congrArg Treadle.oe trd :), fun no => ?out,
      fun yes => ?latched, (after.fld _ _ _ (by decide)).trans moved.count, ?evt, fun no => ?thread, fun no undrawn => ?skein, fun undrawn => ?txf,
      fun w l drawn full => ?draw, fun no unbound => ?sheaf, fun unbound => ?rxf, fun bound => ?bind,
      after.cots.trans (before true).cots, fun no => ?mem⟩
    case out => exact out.trans (if_neg (by rw [no]; exact Bool.false_ne_true))
    case latched =>
      refine (out.trans (if_pos yes)).trans ?_
      exact congrArg (fun b => setBits (bits e 9 6) 0 0 (b2n b)) (congrArg Treadle.thread trd).symm
    case evt => exact evt.trans (by rw [(before true).flag _ _ _ (by decide)])
    case thread => exact (congrArg Treadle.thread trd).trans (moved.thread no)
    case skein =>
      refine (after.fld _ _ _ (by decide)).trans (moved.skein.trans ?_)
      rw [no, undrawn]; rfl
    case txf => exact (congrArg Treadle.txf trd).trans (moved.txf.trans (by rw [undrawn]; rfl))
    case draw =>
      refine ⟨(congrArg Treadle.txf trd).trans (moved.txf.trans (by rw [drawn, full]; rfl)), fun no => ⟨?_, ?_⟩⟩
      · refine (after.fld _ _ _ (by decide)).trans (moved.skein.trans ?_)
        rw [no, drawn, Hw.drawnWord, full]; rfl
      · refine (after.fld _ _ _ (by decide)).trans ((moved.skc drawn).trans ?_)
        rw [no]; rfl
    case sheaf => exact (after.fld _ _ _ (by decide)).trans (moved.sheaf no unbound)
    case rxf => exact (congrArg Treadle.rxf trd).trans (rxf.trans (by rw [unbound]; rfl))
    case bind =>
      obtain ⟨sheaf₀, shc₀⟩ := moved.bound bound
      refine ⟨(after.fld _ _ _ (by decide)).trans sheaf₀, (after.fld _ _ _ (by decide)).trans shc₀, fun room no => ?_⟩
      refine (congrArg Treadle.rxf trd).trans (rxf.trans ?_)
      rw [bound, if_pos rfl, Hw.boundRxf, if_pos room, gathered no]
    case mem => exact (after.still no).1.trans ((before false).still rfl).1

/-- Settles O32: under NB a step acts, and its draw and bind are the laws of those parts on an empty and a full FIFO. -/
theorem treadleWithoutBlocking : Obligations.TreadleWithoutBlocking := by
  refine ⟨fun s t pads e a he hn nb => ?acts, fun t => rfl, fun s t pads e pe a he hn => ?keeps⟩
  case acts =>
    refine completes_live (f := (·.treadleStep t pads false)) rfl a ?_
    have hs : s.hw.trdStalls t e = false := by rw [Hw.trdStalls, nb]; rfl
    obtain ⟨m, step, before, moved⟩ := s.hw.treadleStep_acts he hn hs
    obtain ⟨after, trd, state, -, -⟩ := m.trdLeaves_says t e
    rw [step]
    generalize m.trdLeaves t e = g at *
    refine ⟨(after.flag _ _ _ (by decide)).trans moved.stalled, state, fun no => ?still, fun drawn dry => ?draw,
      fun bound full => ?bind⟩
    case still =>
      exact ⟨(after.still no).1.trans ((before false).still rfl).1, (after.still no).2.trans ((before false).still rfl).2⟩
    case draw =>
      have word : Hw.drawnWord (s.hw.trd t) = (s.hw.trd t).lastDrawn := by rw [Hw.drawnWord, dry]; rfl
      refine ⟨(after.fld _ _ _ (by decide)).trans (moved.skein.trans ?_), (after.fld _ _ _ (by decide)).trans (moved.skc drawn),
        (after.flag _ _ _ (by decide)).trans (moved.empty drawn), (after.flag _ _ _ (by decide)).trans (moved.underrun.trans ?_),
        (congrArg Treadle.txf trd).trans (moved.txf.trans ?_)⟩
      · rw [drawn, if_pos rfl, word]; rfl
      · rw [drawn, dry]; exact Bool.or_true _
      · rw [drawn, dry]; rfl
    case bind =>
      obtain ⟨sheaf, -, rxf⟩ := moved.rxf
      obtain ⟨sheaf₀, shc₀⟩ := moved.bound bound
      refine ⟨(congrArg Treadle.rxf trd).trans (rxf.trans ?_), (after.fld _ _ _ (by decide)).trans sheaf₀,
        (after.fld _ _ _ (by decide)).trans shc₀, (after.flag _ _ _ (by decide)).trans (moved.overrun.trans ?_)⟩
      · rw [bound, if_pos rfl, Hw.boundRxf, if_neg (Nat.not_lt.2 full)]
      · rw [bound, decide_eq_true full]; exact Bool.or_true _
  case keeps =>
    refine completes_live (f := (·.treadleStep t pads pe)) rfl a ?_
    cases pe
    case true =>
      obtain ⟨only, trd, -⟩ := s.hw.treadleStep_parity (pads := pads) he
      exact ⟨fun on => (only.flag _ _ _ (by decide)).trans on, fun on => (only.flag _ _ _ (by decide)).trans on,
        fun _ _ _ => nofun, fun _ => (congrArg Treadle.lastDrawn trd :)⟩
    case false =>
      cases hs : s.hw.trdStalls t e
      case true =>
        obtain ⟨only, trd, -⟩ := s.hw.treadleStep_stalls he (pads := pads) (by rw [hn]; exact hs) (irq := true)
        exact ⟨fun on => (only.flag _ _ _ (by decide)).trans on, fun on => (only.flag _ _ _ (by decide)).trans on,
          fun _ _ _ _ => nofun, fun _ => (congrArg Treadle.lastDrawn trd :)⟩
      case false =>
        obtain ⟨m, step, -, moved⟩ := s.hw.treadleStep_acts he hn hs
        obtain ⟨after, trd, -⟩ := m.trdLeaves_says t e
        rw [step]
        generalize m.trdLeaves t e = g at *
        refine ⟨fun on => ?_, fun on => ?_, fun w l full _ _ drawn => ?_, fun none => ?_⟩
        · exact (after.flag _ _ _ (by decide)).trans (moved.underrun.trans (by rw [on]; rfl))
        · exact (after.flag _ _ _ (by decide)).trans (moved.overrun.trans (by rw [on]; rfl))
        · refine (congrArg Treadle.lastDrawn trd).trans (moved.lastDrawn.trans ?_)
          rw [drawn, if_pos rfl, Hw.drawnWord, full]; rfl
        · refine (congrArg Treadle.lastDrawn trd).trans (moved.lastDrawn.trans ?_)
          rcases none with dry | no | no | undrawn
          · split
            · rw [Hw.drawnWord, dry]; rfl
            · rfl
          · exact nomatch no
          · exact nomatch no
          · rw [undrawn]; rfl

end Sys2Proof

/-! SUPPORT. The writes and reads of a Treadle's owner (R435 to R437). -/

namespace Sys2Proof.Machine.Hw

variable (h : Hw)

/-- The control stored by its owner's write. -/
def trdStored (h : Hw) (t v : Nat) : Hw := h.storeFields .TRD_CTL 0 t v

theorem trdStored_says (t v : Nat) : let g := h.trdStored t v
    g.fld F.TRD_CTL_START 0 t = bits v 29 24 ∧ g.flag F.TRD_CTL_EN 0 t = bit v 31 ∧
      (∀ n i j, n ≠ .TRD_CTL → g.reg n i j = h.reg n i j) ∧ g.mem = h.mem ∧ g.cots = h.cots ∧ g.trd t = h.trd t := by
  have stored (d : FieldDesc) (hd : d ∈ RegName.TRD_CTL.desc.fields) (hi : d.hi < 64) (rw : d.acc = .rw) :
      (h.trdStored t v).fld ⟨.TRD_CTL, d.hi, d.lo⟩ 0 t = bits v d.hi d.lo := by
    rw [trdStored, fld_storeFields h .TRD_CTL 0 t v ⟨.TRD_CTL, d.hi, d.lo⟩ d hd rfl hi, rw]; rfl
  refine ⟨stored ⟨29, 24, .rw, 0⟩ (by decide) (by decide) rfl, ?_,
    fun n i j e => reg_setReg_ne _ _ _ _ _ _ _ _ (by simp [e.symm]), ?_, ?_, ?_⟩
  · rw [flag, stored ⟨31, 31, .rw, 0⟩ (by decide) (by decide) rfl, bits_self]
    cases bit v 31 <;> rfl
  · rw [trdStored, storeFields, setReg_mem]
  · rw [trdStored, storeFields, setReg_cots]
  · rw [trd, trdStored, storeFields, setReg_treadles, ← trd]

theorem trdCtlWrite_owner {ag : Agent} {t v : Nat} (hs : h.sees ag .TRD_CTL 0 t = true) (ho : h.trdOwned ag t = true)
    (hv : bits v 23 12 < 2048) : h.trdCtlWrite ag t v =
      if bit v 31 && !h.flag F.TRD_CTL_EN 0 t then (h.trdStored t v).trdStart t
      else if !bit v 31 && h.flag F.TRD_CTL_EN 0 t then (h.trdStored t v).trdStops t else h.trdStored t v := by
  rw [trdCtlWrite, ho, decide_eq_true hv]
  dsimp only
  rw [Bool.and_self, guarded_open _ _ _ _ _ _ _ hs (by decide)]
  rfl

theorem treadleEnable_eq {ag : Agent} {t : Nat} {v : Word} (hs : h.sees ag .TRD_CTL 0 t = true) (ho : h.trdOwned ag t = true)
    (hv : bits (v.toNat ||| 2 ^ 31) 23 12 < 2048) (on : bit (v.toNat ||| 2 ^ 31) 31 = true)
    (off : h.flag F.TRD_CTL_EN 0 t = false) : h.treadleEnable ag t v = (h.trdStored t (v.toNat ||| 2 ^ 31)).trdStart t := by
  rw [treadleEnable, h.trdCtlWrite_owner hs ho hv, on, off]
  exact if_pos rfl

theorem treadleDisable_eq {ag : Agent} {t : Nat} {v : Word} (hs : h.sees ag .TRD_CTL 0 t = true) (ho : h.trdOwned ag t = true)
    (hv : bits (setBits v.toNat 31 31 0) 23 12 < 2048) (on : h.flag F.TRD_CTL_EN 0 t = true) :
    h.treadleDisable ag t v = (h.trdStored t (setBits v.toNat 31 31 0)).trdStops t := by
  have off : bit (setBits v.toNat 31 31 0) 31 = false := by
    rw [bit_eq_testBit, setBits_testBit _ _ _ _ _ (Nat.le_refl 31)]; simp
  rw [treadleDisable, h.trdCtlWrite_owner hs ho hv, off, on, if_neg (by decide), if_pos (by decide)]

/-- What the start of a Treadle leaves (R436). -/
structure TrdStarted (g h : Hw) (t : Nat) : Prop where
  only : WritesOnly [F.TRD_STAT_STALLED, F.TRD_CNT_COUNT, F.TRD_FIFO_EMPTY, F.TRD_STAT_SKC, F.TRD_STAT_SHC, F.TRD_SKEIN_BITS,
    F.TRD_SHEAF_BITS, F.TRD_STAT_RUN, F.TRD_STAT_STATE] false g h
  trd : g.trd t = { h.trd t with thread := false }
  run : g.flag F.TRD_STAT_RUN 0 t = true
  state : g.fld F.TRD_STAT_STATE 0 t = h.fld F.TRD_CTL_START 0 t
  sheaf : g.fld F.TRD_SHEAF_BITS 0 t = 0
  skein : g.fld F.TRD_SKEIN_BITS 0 t = 0
  shc : g.fld F.TRD_STAT_SHC 0 t = 0
  skc : g.fld F.TRD_STAT_SKC 0 t = 0
  empty : g.flag F.TRD_FIFO_EMPTY 0 t = true
  count : g.fld F.TRD_CNT_COUNT 0 t = h.fld F.TRD_CNT_RELOAD 0 t

theorem trdStart_says (t : Nat) : TrdStarted (h.trdStart t) h t := by
  have put {g : Hw} (f : Fld) (v : Nat) (w : f.lo ≤ f.hi) (u : f.hi < 64) (lt : v < 2 ^ (f.hi + 1 - f.lo)) :
      (g.setFld f 0 t v).fld f 0 t = v := fld_setFld_lt _ _ _ _ _ w u lt
  unfold trdStart
  dsimp only
  refine ⟨?only, by simp, ?run, ?state, ?sheaf, ?skein, ?shc, ?skc, ?empty, ?count⟩
  case only =>
    have write {g : Hw} (f : Fld) (v : Nat) : WritesOnly [f] false (g.setFld f 0 t v) g := WritesOnly.setFld _ _ _ _
    exact (write _ _).trans ((write _ _).trans ((write _ _).trans ((WritesOnly.setTrd _ _).trans ((write _ _).trans
      ((write _ _).trans ((write _ _).trans ((write _ _).trans ((write _ _).trans (write _ _)))))))))
  all_goals simp (disch := decide) only [flag, fld_setFld_reg, fld_setFld_bits, fld_setTrd]
  case run => rw [put _ _ (by decide) (by decide) (by decide)]; rfl
  case state => exact put _ _ (by decide) (by decide) (bits_lt _ _ _)
  case empty => rw [put _ _ (by decide) (by decide) (by decide)]; rfl
  case count => exact put _ _ (by decide) (by decide) (bits_lt _ _ _)
  all_goals exact put _ _ (by decide) (by decide) (by decide)

theorem trdStops_says (t : Nat) : let g := h.trdStops t
    WritesOnly [F.TRD_STAT_RUN, F.TRD_CTL_EN] false g h ∧ g.trd t = h.trd t ∧ g.flag F.TRD_CTL_EN 0 t = false ∧
      g.flag F.TRD_STAT_RUN 0 t = false := by
  refine ⟨(WritesOnly.setFld _ _ _ _).trans (WritesOnly.setFld _ _ _ _), by simp [trdStops], ?_,
    flag_setFld_zero _ _ _ (by decide) (by decide)⟩
  rw [trdStops, flag_setFld_reg _ _ _ _ _ _ _ _ (by decide)]
  exact flag_setFld_zero _ _ _ (by decide) (by decide)

/-- EN written 1 while it is 0 (R436). -/
theorem treadleEnable_says {ag : Agent} {t : Nat} {v : Word} (hs : h.sees ag .TRD_CTL 0 t = true) (ho : h.trdOwned ag t = true)
    (hv : bits (v.toNat ||| 2 ^ 31) 23 12 < 2048) (on : bit (v.toNat ||| 2 ^ 31) 31 = true)
    (off : h.flag F.TRD_CTL_EN 0 t = false) : let g := h.treadleEnable ag t v
    g.flag F.TRD_CTL_EN 0 t = true ∧ g.flag F.TRD_STAT_RUN 0 t = true ∧
      g.fld F.TRD_STAT_STATE 0 t = bits (v.toNat ||| 2 ^ 31) 29 24 ∧ g.fld F.TRD_SHEAF_BITS 0 t = 0 ∧
      g.fld F.TRD_SKEIN_BITS 0 t = 0 ∧ g.fld F.TRD_STAT_SHC 0 t = 0 ∧ g.fld F.TRD_STAT_SKC 0 t = 0 ∧
      (g.trd t).thread = false ∧ g.flag F.TRD_FIFO_EMPTY 0 t = true ∧
      g.fld F.TRD_CNT_COUNT 0 t = h.fld F.TRD_CNT_RELOAD 0 t ∧ (g.trd t).txf = (h.trd t).txf ∧
      (g.trd t).rxf = (h.trd t).rxf ∧ g.mem = h.mem ∧ g.cots = h.cots := by
  obtain ⟨start, en, reg, mem, cots, trd⟩ := h.trdStored_says t (v.toNat ||| 2 ^ 31)
  have started := (h.trdStored t (v.toNat ||| 2 ^ 31)).trdStart_says t
  have reload : (h.trdStored t (v.toNat ||| 2 ^ 31)).fld F.TRD_CNT_RELOAD 0 t = h.fld F.TRD_CNT_RELOAD 0 t := by
    simp only [fld, reg .TRD_CNT _ _ (by decide)]
  have unlatched := started.trd
  rw [trd] at unlatched
  rw [h.treadleEnable_eq hs ho hv on off]
  generalize (h.trdStored t (v.toNat ||| 2 ^ 31)).trdStart t = g at *
  exact ⟨(started.only.flag _ _ _ (by decide)).trans (en.trans on), started.run, started.state.trans start, started.sheaf,
    started.skein, started.shc, started.skc, by rw [unlatched], started.empty, started.count.trans reload, by rw [unlatched],
    by rw [unlatched], (started.only.still rfl).1.trans mem, started.only.cots.trans cots⟩

/-- EN written 0 while it is 1 (R436). -/
theorem treadleDisable_says {ag : Agent} {t : Nat} {v : Word} (hs : h.sees ag .TRD_CTL 0 t = true) (ho : h.trdOwned ag t = true)
    (hv : bits (setBits v.toNat 31 31 0) 23 12 < 2048) (on : h.flag F.TRD_CTL_EN 0 t = true) : let g := h.treadleDisable ag t v
    g.flag F.TRD_CTL_EN 0 t = false ∧ g.flag F.TRD_STAT_RUN 0 t = false ∧
      g.fld F.TRD_STAT_OUT 0 t = h.fld F.TRD_STAT_OUT 0 t ∧ g.trd t = h.trd t ∧ g.mem = h.mem ∧ g.cots = h.cots := by
  obtain ⟨-, -, reg, mem, cots, trd⟩ := h.trdStored_says t (setBits v.toNat 31 31 0)
  rw [h.treadleDisable_eq hs ho hv on]
  generalize h.trdStored t (setBits v.toNat 31 31 0) = g at *
  obtain ⟨only, kept, en, run⟩ := g.trdStops_says t
  have out : g.fld F.TRD_STAT_OUT 0 t = h.fld F.TRD_STAT_OUT 0 t := by simp only [fld, reg .TRD_STAT _ _ (by decide)]
  exact ⟨en, run, (only.fld _ _ _ (by decide)).trans out, kept.trans trd, (only.still rfl).1.trans mem, only.cots.trans cots⟩

/-! ### FIFO accesses and the program (R435, R437) -/

theorem trdCommit_eq {ag : Agent} {t : Nat} (hs : h.sees ag .TRD_CMD 0 t = true) (ho : h.trdOwned ag t = true) :
    h.treadleCommit ag t = h.setTrd t { h.trd t with committed := some ((h.reg .TRD_PCFG 0 t).setWidth 32) } := by
  rw [treadleCommit, trdCmdWrite, ho]
  have commit : bit 1 0 = true := rfl
  have flush : bit 1 1 = false := rfl
  simp only [commit, flush, Bool.false_and, Bool.not_false, Bool.and_self, if_true, Bool.false_eq_true, if_false]
  exact guarded_open _ _ _ _ _ _ _ hs (by decide)

theorem flush_eq {ag : Agent} {t : Nat} (hs : h.sees ag .TRD_CMD 0 t = true) (ho : h.trdOwned ag t = true) :
    h.flush ag t = if h.flag F.TRD_CTL_EN 0 t then h.refuse ag .TRD_CMD 0 t
      else (h.setTrd t { h.trd t with txf := [], rxf := [] }).trdLevels t := by
  have commit : bit 2 0 = false := rfl
  have flush : bit 2 1 = true := rfl
  simp only [Hw.flush, trdCmdWrite, ho, commit, flush, Bool.true_and, Bool.false_eq_true, if_true, if_false]
  cases h.flag F.TRD_CTL_EN 0 t
  · exact guarded_open _ _ _ _ _ _ _ hs (by decide)
  · exact guarded_refuses _ _ _ _ _ _ _ _ hs (.inr rfl)

/-- What a flush leaves: both FIFOs empty, and their levels at 0. -/
theorem emptied_says (t : Nat) : let g := (h.setTrd t { h.trd t with txf := [], rxf := [] }).trdLevels t
    (g.trd t).txf = [] ∧ (g.trd t).rxf = [] ∧ g.fld F.TRD_FIFO_TXLEVEL 0 t = 0 ∧ g.fld F.TRD_FIFO_RXLEVEL 0 t = 0 ∧
      g.mem = h.mem ∧ g.cots = h.cots := by
  have empty := h.trd_setTrd t { h.trd t with txf := [], rxf := [] }
  have set : WritesOnly [] false (h.setTrd t { h.trd t with txf := [], rxf := [] }) h := WritesOnly.setTrd _ _
  generalize h.setTrd t { h.trd t with txf := [], rxf := [] } = g at *
  obtain ⟨only, trd⟩ := g.trdLevels_says t (irq := false)
  refine ⟨by rw [trd, empty], by rw [trd, empty], ?_, ?_, (only.still rfl).1.trans (set.still rfl).1, only.cots.trans set.cots⟩
  · rw [trdLevels, empty, fld_setFld_bits _ _ _ _ _ _ _ _ (by decide) (by decide) (by decide)]
    exact fld_setFld_lt _ _ _ _ _ (by decide) (by decide) (Nat.two_pow_pos _)
  · rw [trdLevels, empty]
    exact fld_setFld_lt _ _ _ _ _ (by decide) (by decide) (Nat.two_pow_pos _)

theorem trdTxfWrite_eq {ag : Agent} {t : Nat} (v : Word) (hs : h.sees ag .TRD_TXF 0 t = true) (ho : h.trdOwned ag t = true) :
    h.trdTxfWrite ag t v = if (h.trd t).txf.length < 8 then (h.setTrd t { h.trd t with txf := (h.trd t).txf ++ [v] }).trdLevels t
      else h.setFld F.TRD_FIFO_TXDROP 0 t 1 := by
  rw [trdTxfWrite, ho, guarded_open _ _ _ _ _ _ _ hs (by decide)]

/-- A write of an entry of the table: the entry, and no other register. -/
theorem lutWrite_says {ag : Agent} {t i : Nat} (v : Word) (hs : h.sees ag .TRD_LUT 0 (1024 * t + i) = true)
    (ho : h.trdOwned ag t = true) : let g := h.lutWrite ag t i v
    g.regs = (h.setReg .TRD_LUT 0 (1024 * t + i) (v.setWidth 64)).regs ∧ g.mem = h.mem ∧ g.cots = h.cots := by
  dsimp only
  rw [lutWrite, ho, guarded_open _ _ _ _ _ _ _ hs (by decide)]
  dsimp only
  split <;> exact ⟨rfl, rfl, rfl⟩

end Sys2Proof.Machine.Hw

namespace Sys2Proof

open Sys2Proof.Machine

/-- Settles O33: each write of the owner by the law of what it stores. -/
theorem treadleCommands : Obligations.TreadleCommands := by
  refine ⟨fun s ag t v a hs ho hv on off => ?enable, fun s ag t v a hs ho hv on => ?disable,
    fun s ag t a hs ho => ⟨?commit, fun off => ?flush, fun on => ?running⟩,
    fun s ag t v a hs ho => ⟨fun room => ?push, fun full => ?dropped⟩,
    fun s ag t a hs => ⟨fun w l e => ?pop, fun e => ?dry⟩, fun s ag t i v a hs ho => ?entry⟩
  case enable => exact completes_live (f := (·.treadleEnable ag t v)) rfl a (s.hw.treadleEnable_says hs ho hv on off)
  case disable => exact completes_live (f := (·.treadleDisable ag t v)) rfl a (s.hw.treadleDisable_says hs ho hv on)
  case commit =>
    refine completes_live (f := (·.treadleCommit ag t)) rfl a ?_
    rw [s.hw.trdCommit_eq hs ho]
    refine ⟨?_, rfl, rfl, rfl⟩
    have held := s.hw.trd_setTrd t { s.hw.trd t with committed := some ((s.hw.reg .TRD_PCFG 0 t).setWidth 32) }
    exact (congrArg (fun x : Treadle => x.committed.getD x.pcfg) held :)
  case flush =>
    refine completes_live (f := (·.flush ag t)) rfl a ?_
    rw [s.hw.flush_eq hs ho, off, if_neg Bool.false_ne_true]
    exact s.hw.emptied_says t
  case running =>
    refine completesAs_live (f := (·.flush ag t)) rfl a ?_
    rw [s.hw.flush_eq hs ho, on, if_pos rfl]
  case push =>
    refine completes_live (f := (·.trdTxfWrite ag t v)) rfl a ?_
    rw [s.hw.trdTxfWrite_eq v hs ho, if_pos room]
    obtain ⟨only, trd⟩ := (s.hw.setTrd t { s.hw.trd t with txf := (s.hw.trd t).txf ++ [v] }).trdLevels_says t (irq := false)
    rw [Hw.trd_setTrd] at trd
    exact ⟨(congrArg Treadle.txf trd :), (congrArg Treadle.rxf trd :), (only.still rfl).1, only.cots⟩
  case dropped =>
    refine completesAs_live (f := (·.trdTxfWrite ag t v)) rfl a ?_
    rw [s.hw.trdTxfWrite_eq v hs ho, if_neg (Nat.not_lt.2 full)]
  case pop =>
    refine completesAs_live (f := (·.trdRxfRead ag t)) rfl a ?_
    simp only [Hw.trdRxfRead, hs, if_true, Hw.trdRxfTake, e]
  case dry =>
    refine completesAs_live (f := (·.trdRxfRead ag t)) rfl a ?_
    have nothing : (0 : Word).toNat = 0 := rfl
    simp only [Hw.trdRxfRead, hs, if_true, Hw.trdRxfTake, e, nothing]
  case entry =>
    refine completes_live (f := (·.lutWrite ag t i v)) rfl a ?_
    obtain ⟨regs, mem, cots⟩ := s.hw.lutWrite_says v hs ho
    have reg (n : RegName) (a b : Nat) : (s.hw.lutWrite ag t i v).reg n a b =
        (s.hw.setReg .TRD_LUT 0 (1024 * t + i) (v.setWidth 64)).reg n a b := by simp only [Hw.reg, regs]
    refine ⟨(reg _ _ _).trans (Hw.reg_setReg_same _ _ _ _ _), fun n x y ne => ?_, mem, cots⟩
    refine (reg _ _ _).trans (Hw.reg_setReg_ne _ _ _ _ _ _ _ _ ?_)
    rintro ⟨rfl, rfl, rfl⟩
    exact ne ⟨rfl, rfl, rfl⟩

end Sys2Proof

/-! SUPPORT. Lane configuration, hand-overs, GPIO, the security domain, wake and BELL_REF (R420 to R428). -/

namespace Sys2Proof.Machine

/-- The bits that a list of places takes from v. -/
theorem bit_foldl_setBits (v k : Nat) (l : List Nat) : ∀ acc : Nat,
    bit (l.foldl (fun acc i => setBits acc i i (bits v i i)) acc) k = if k ∈ l then bit v k else bit acc k := by
  have single (acc i : Nat) : bit (setBits acc i i (bits v i i)) k = if k = i then bit v i else bit acc k := by
    rw [bit_eq_testBit, setBits_testBit _ _ _ _ _ (Nat.le_refl i), bits_self, bit_eq_testBit, bit_eq_testBit]
    by_cases e : k = i
    · subst e
      cases v.testBit k <;> simp [b2n]
    · simp only [e, if_false]
      split
      · omega
      · rfl
  induction l with
  | nil => exact fun acc => rfl
  | cons i l ih =>
    intro acc
    rw [List.foldl_cons, ih, single]
    by_cases e : k = i
    · subst e; simp
    · simp [e]

namespace Hw

variable (h : Hw)

/-! ### Hand-overs (R420, R425) -/

theorem laneHold_setLaneHold (l k : Nat) (x : Option Bool) :
    (h.setLaneHold l x).laneHold k = if l = k then x else h.laneHold k := by
  by_cases e : l = k
  · subst e; rw [if_pos rfl]; exact NTable.get_set_same _ _ _ _
  · rw [if_neg e]; exact NTable.get_set_ne _ _ _ _ _ _ e

theorem setLaneHold_keeps (l : Nat) (x : Option Bool) : let g := h.setLaneHold l x
    (∀ (f : Fld) (i j : Nat), g.fld f i j = h.fld f i j) ∧ g.mem = h.mem ∧ g.cots = h.cots := ⟨fun _ _ _ => rfl, rfl, rfl⟩

/-- The configuration that a write has stored. -/
def laneStored (h : Hw) (l v : Nat) : Hw := h.storeFields .LAN_CFG 0 l v

theorem laneStored_says (l v : Nat) : let g := h.laneStored l v
    (∀ d ∈ RegName.LAN_CFG.desc.fields, g.fld ⟨.LAN_CFG, d.hi, d.lo⟩ 0 l = bits v d.hi d.lo) ∧
      (∀ k, g.laneHold k = h.laneHold k) ∧
      g.mem = h.mem ∧ g.cots = h.cots := by
  have plain : ∀ d ∈ RegName.LAN_CFG.desc.fields, d.acc = .rw ∧ d.hi < 64 := by decide
  refine ⟨fun d hd => ?_, fun k => ?_, ?_, ?_⟩
  · rw [laneStored, fld_storeFields h .LAN_CFG 0 l v ⟨.LAN_CFG, d.hi, d.lo⟩ d hd rfl (plain d hd).2, (plain d hd).1]; rfl
  · rw [laneHold, laneStored, storeFields, setReg_lanes, ← laneHold]
  · rw [laneStored, storeFields, setReg_mem]
  · rw [laneStored, storeFields, setReg_cots]

theorem laneSwitch_eq (l v : Nat) (present : Bool) : h.laneSwitch l v present =
    if bits v 27 20 ≠ bits (h.lanCfg l) 27 20 ∨ bits v 3 0 ≠ bits (h.lanCfg l) 3 0 then
      (h.laneStored l v).setLaneHold l (some (h.laneLevel l present)) else h.laneStored l v := by
  simp only [laneSwitch, laneStored, Bool.or_eq_true, bne_iff_ne]

/-- A write changes no locked field of a register that has none. -/
theorem changesLocked_none {n : RegName} (ag : Agent) (i j v : Nat) (k : n.desc.fields.all (fun f => f.acc != .rwl) = true) :
    h.changesLocked ag n i j v = false := by
  have none : (n.desc.fields.any fun f => f.acc == .rwl && bits (h.reg n i j).toNat f.hi f.lo != bits v f.hi f.lo) = false := by
    rw [List.any_eq_false]
    intro f hf
    have := List.all_eq_true.1 k f hf
    simp_all
  rw [changesLocked, none, Bool.and_false]

/-- A write of a Lane's configuration by its owner that leaves OWNER takes hold. -/
theorem functionSwitch_owner {ag : Agent} {l : Nat} {v : Word} (present : Bool) (hs : h.sees ag .LAN_CFG 0 l = true)
    (ho : h.ownsCode (h.fld F.LAN_CFG_OWNER 0 l) ag = true) (same : bits v.toNat 30 28 = h.fld F.LAN_CFG_OWNER 0 l)
    (seven : bits v.toNat 30 28 ≠ 7) : h.functionSwitch ag l v present = h.laneSwitch l v.toNat present := by
  have owner : h.ownsCode (bits (h.lanCfg l) 30 28) ag = true := ho
  have kept : bits v.toNat 30 28 = bits (h.lanCfg l) 30 28 := same
  have unlocked := h.changesLocked_none (n := .LAN_CFG) ag 0 l v.toNat (by decide)
  refine h.guarded_ok ag .LAN_CFG 0 l v.toNat _ (fun h => h.laneSwitch l v.toNat present) hs unlocked ?_
  rw [owner, ← kept, decide_eq_true seven, bne_self_eq_false]
  rfl

theorem functionSwitch_says {ag : Agent} {l : Nat} {v : Word} (present : Bool) (hs : h.sees ag .LAN_CFG 0 l = true)
    (ho : h.ownsCode (h.fld F.LAN_CFG_OWNER 0 l) ag = true) (same : bits v.toNat 30 28 = h.fld F.LAN_CFG_OWNER 0 l)
    (seven : bits v.toNat 30 28 ≠ 7) : let g := h.functionSwitch ag l v present
    g.fld F.LAN_CFG_FUNC 0 l = bits v.toNat 3 0 ∧ g.fld F.LAN_CFG_SIG 0 l = bits v.toNat 23 20 ∧
      g.fld F.LAN_CFG_UNIT 0 l = bits v.toNat 27 24 ∧ g.fld F.LAN_CFG_OWNER 0 l = h.fld F.LAN_CFG_OWNER 0 l ∧
      g.laneHold l = (if bits v.toNat 27 20 ≠ bits (h.lanCfg l) 27 20 ∨ bits v.toNat 3 0 ≠ bits (h.lanCfg l) 3 0
        then some (h.laneLevel l present) else h.laneHold l) ∧
      (∀ k, l ≠ k → g.laneHold k = h.laneHold k) ∧ g.mem = h.mem ∧ g.cots = h.cots := by
  obtain ⟨stored, hold, mem, cots⟩ := h.laneStored_says l v.toNat
  have func := stored ⟨3, 0, .rw, 0⟩ (by decide)
  have sig := stored ⟨23, 20, .rw, 0⟩ (by decide)
  have unit := stored ⟨27, 24, .rw, 0⟩ (by decide)
  have owner := (stored ⟨30, 28, .rw, 0⟩ (by decide)).trans same
  rw [h.functionSwitch_owner present hs ho same seven, h.laneSwitch_eq]
  generalize h.laneStored l v.toNat = g at *
  dsimp only
  by_cases moves : bits v.toNat 27 20 ≠ bits (h.lanCfg l) 27 20 ∨ bits v.toNat 3 0 ≠ bits (h.lanCfg l) 3 0
  · rw [if_pos moves, if_pos moves]
    obtain ⟨fld, mem', cots'⟩ := g.setLaneHold_keeps l (some (h.laneLevel l present))
    exact ⟨(fld _ _ _).trans func, (fld _ _ _).trans sig, (fld _ _ _).trans unit, (fld _ _ _).trans owner,
      (g.laneHold_setLaneHold _ _ _).trans (if_pos rfl),
      fun k ne => (g.laneHold_setLaneHold _ _ _).trans ((if_neg ne).trans (hold k)), mem'.trans mem,
      cots'.trans cots⟩
  · rw [if_neg moves, if_neg moves]
    exact ⟨func, sig, unit, owner, hold l, fun k _ => hold k, mem, cots⟩

/-! ### LAN_OUT and LAN_SEC (R421, R423) -/

/-- A write of LAN_OUT takes hold in the masked Lanes that the writer owns, and in no other. -/
theorem lanOutWrite_says {ag : Agent} {b : Nat} (v : Word) (hs : h.sees ag .LAN_OUT 0 b = true) {i : Nat} (hi : i < 16) :
    bit ((h.lanOutWrite ag b v).fld F.LAN_OUT_VAL 0 b) i =
      if bit v.toNat (16 + i) = true ∧ h.ownsCode (bits (h.lanCfg (16 * b + i)) 30 28) ag = true then bit v.toNat i
      else bit (h.fld F.LAN_OUT_VAL 0 b) i := by
  have stored (val : Nat) : bit ((h.setFld F.LAN_OUT_VAL 0 b val).fld F.LAN_OUT_VAL 0 b) i = bit val i := by
    rw [fld_setFld_same _ _ _ _ _ (by decide) (by decide), bit_eq_testBit, bit_eq_testBit,
      show F.LAN_OUT_VAL.hi + 1 - F.LAN_OUT_VAL.lo = 16 from rfl, Nat.testBit_mod_two_pow, decide_eq_true hi, Bool.true_and]
  simp only [lanOutWrite, hs, Bool.not_true, Bool.false_eq_true, if_false]
  have written := stored ((((List.range 16).filter fun i => bit v.toNat (16 + i)).filter fun i =>
    h.ownsCode (bits (h.lanCfg (16 * b + i)) 30 28) ag).foldl (fun acc i => setBits acc i i (bits v.toNat i i)) (h.fld F.LAN_OUT_VAL 0 b))
  rw [bit_foldl_setBits] at written
  simp only [List.mem_filter, List.mem_range, hi, true_and] at written
  split
  · exact written
  · rw [(RecordsOnly.refuse _ _ _ _ _).fld_eq _ _ _ rfl]
    exact written

/-- The one write of LAN_SEC sets CORE and LOCK. -/
theorem lanSecWrite_says {ag : Agent} (v : Word) (hs : h.sees ag .LAN_SEC 0 0 = true) (hl : h.flag F.LAN_SEC_LOCK = false) :
    let g := h.lanSecWrite ag v
    g.flag F.LAN_SEC_LOCK = true ∧ g.fld F.LAN_SEC_CORE = bits v.toNat 1 0 ∧ g.mem = h.mem ∧ g.cots = h.cots := by
  dsimp only
  rw [lanSecWrite, hl, Bool.not_false, guarded_open _ _ _ _ _ _ _ hs (by decide)]
  refine ⟨flag_setFld_one _ _ _ (by decide) (by decide), ?_, ?_, ?_⟩
  · rw [fld_setFld_bits _ _ _ _ _ _ _ _ (by decide) (by decide) (by decide)]
    exact fld_storeFields h .LAN_SEC 0 0 v.toNat F.LAN_SEC_CORE ⟨1, 0, .rw, 0⟩ (by decide) rfl (by decide)
  · rw [setFld_mem, storeFields, setReg_mem]
  · rw [setFld_cots, storeFields, setReg_cots]

/-! ### Wake and BELL_REF (R427, R428) -/

theorem wakeLane_says {l : Nat} (ha : h.power.asleep = true) (hs : h.power.standby = true) (hw : bit (h.lanCfg l) 15 = true)
    (hl : l < 48) : let g := h.wakeLane l
    g.power.asleep = false ∧ g.flag F.LAN_WAKE_VALID = true ∧ g.fld F.LAN_WAKE_LANE = l ∧ g.flag F.PWR_STAT_SLEEP = false ∧
      g.mem = h.mem ∧ g.cots = h.cots := by
  obtain ⟨power, stat, -, mem, cots, -, kept⟩ := ((h.setFld F.LAN_WAKE_VALID 0 0 1).setFld F.LAN_WAKE_LANE 0 0 l).sleepEnds_says
  simp only [wakeLane, ha, hs, hw, Bool.and_self, if_true]
  refine ⟨by rw [power], ?_, ?_, stat, ?_, ?_⟩
  · rw [flag, kept _ (by decide), ← flag, flag_setFld_bits _ _ _ _ _ _ _ _ (by decide) (by decide) (by decide)]
    exact flag_setFld_one _ _ _ (by decide) (by decide)
  · rw [kept _ (by decide)]
    exact fld_setFld_lt _ _ _ _ _ (by decide) (by decide) (Nat.lt_of_lt_of_le hl (by decide))
  · rw [mem, setFld_mem, setFld_mem]
  · rw [cots, setFld_cots, setFld_cots]

/-- An edge that reaches a list of parishes. -/
theorem refEdge_each {n : Nat} (l : List Nat) : ∀ h : Hw, n ∈ l ∨ (h.parish n).refEdge = true →
    ((h.each l fun h m => h.modParish m fun p => { p with refEdge := true }).parish n).refEdge = true := by
  induction l with
  | nil => exact fun h hn => hn.resolve_left List.not_mem_nil
  | cons m l ih =>
    intro h hn
    refine ih _ ?_
    rw [parish_modParish]
    by_cases e : m = n
    · exact .inr (by rw [if_pos e])
    · rw [if_neg e]
      exact hn.imp (fun mem => (List.mem_cons.1 mem).resolve_left (Ne.symm e)) id

theorem bellRefEdge_says (hl : (h.laneOf 14 0 0).isSome = true) : let g := h.bellRefEdge
    (∀ n, n < 16 → (g.parish n).refEdge = true) ∧ g.regs = h.regs ∧ g.mem = h.mem ∧ g.cots = h.cots := by
  have some : (h.laneOf 14 0 0).isNone = false := by rw [← Option.not_isSome, hl]; rfl
  rw [bellRefEdge, some, if_neg Bool.false_ne_true]
  exact ⟨fun n hn => refEdge_each _ h (.inl (List.mem_range.2 hn)),
    each_keeps (·.regs) (fun h n => h.modParish n fun p => { p with refEdge := true }) (fun _ _ => rfl) _ h,
    each_keeps (·.mem) (fun h n => h.modParish n fun p => { p with refEdge := true }) (fun _ _ => rfl) _ h,
    each_keeps (·.cots) (fun h n => h.modParish n fun p => { p with refEdge := true }) (fun _ _ => rfl) _ h⟩

/-- The loss of a Bell's source: no edge of it, no cottage, and its status and source where its Bell runs locked. -/
theorem bellSourceLost_says (n : Nat) : let g := h.bellSourceLost n
    (g.parish n).refEdge = (h.parish n).refEdge ∧ g.cots = h.cots ∧
      ((h.parish n).srcInForce ≠ 0 → (h.parish n).bellRuns = true → (h.parish n).lockLostNow = false →
        g.flag F.BEL_STAT_LOCK_LOST n = true ∧ 257 ∈ (g.parish n).pic.pend) := by
  unfold bellSourceLost
  dsimp only
  split
  case isTrue =>
    refine ⟨?_, ?_, fun _ _ _ => ⟨?_, picEvent_pends _ _ _⟩⟩
    · simp [draw]
    · simp [draw]
    · rw [flag_picEvent, (RecordsOnly.raiseParish _ _ _ _ _ _).flag_eq _ _ _ rfl, draw, flag_bump,
        flag_setFld_bits _ _ _ _ _ _ _ _ (by decide) (by decide) (by decide)]
      exact flag_setFld_one _ _ _ (by decide) (by decide)
  case isFalse no => exact ⟨rfl, rfl, fun f r l => absurd (by simp [f, r, l]) no⟩

theorem bellRefLost_says (n : Nat) : let g := h.bellRefLost n
    (g.parish n).refEdge = false ∧
      ((h.parish n).srcInForce = 2 → (h.parish n).bellRuns = true → (h.parish n).lockLostNow = false →
        g.flag F.BEL_STAT_LOCK_LOST n = true ∧ 257 ∈ (g.parish n).pic.pend) ∧
      ((h.parish n).srcInForce ≠ 2 → g.regs = h.regs) ∧ g.cots = h.cots := by
  obtain ⟨edge, cots, lost⟩ := (h.modParish n fun p => { p with refEdge := false }).bellSourceLost_says n
  have parish : (h.modParish n fun p => { p with refEdge := false }).parish n = { h.parish n with refEdge := false } := by
    rw [parish_modParish, if_pos rfl]
  rw [parish] at edge lost
  have same : ((h.modParish n fun p => { p with refEdge := false }).parish n).srcInForce = (h.parish n).srcInForce := by
    rw [parish]
  unfold bellRefLost
  dsimp only
  rw [same]
  by_cases force : (h.parish n).srcInForce = 2
  · rw [if_pos force]
    exact ⟨edge, fun _ runs locked => lost (by rw [force]; decide) runs locked, fun no => absurd force no, cots⟩
  · rw [if_neg force]
    exact ⟨by rw [parish], fun yes => absurd yes force, fun _ => rfl, rfl⟩

end Hw

end Sys2Proof.Machine

namespace Sys2Proof

open Sys2Proof.Machine

/-- Settles O34: each command of the Lanes by the law of what it stores, wake by the end of sleep, and the loss of BELL_REF by
the loss of a Bell's source. -/
theorem laneCommands : Obligations.LaneCommands := by
  refine ⟨fun s ag l v present a hs ho same seven => ?switch, fun s l a => ?take, fun s ag b v a hs => ?out,
    fun s ag v a hs => ⟨fun free => ?secure, fun locked => ?locked⟩, fun s l ha hs hw hl => ?wake, fun s l ha => ?awake,
    fun s a hl => ?edge, fun s a hl => ?noLane, fun s n a => ?lost⟩
  case switch =>
    exact completes_live (f := (·.functionSwitch ag l v present)) rfl a (s.hw.functionSwitch_says present hs ho same seven)
  case take =>
    refine completes_live (f := (·.handoverTake l)) rfl a ?_
    have hold (k : Nat) := s.hw.laneHold_setLaneHold l k none
    exact ⟨(hold l).trans (if_pos rfl), fun k ne => (hold k).trans (if_neg ne), rfl, rfl, rfl⟩
  case out => exact completes_live (f := (·.lanOutWrite ag b v)) rfl a fun i hi => s.hw.lanOutWrite_says v hs hi
  case secure => exact completes_live (f := (·.lanSecWrite ag v)) rfl a (s.hw.lanSecWrite_says v hs free)
  case locked =>
    refine completesAs_live (f := (·.lanSecWrite ag v)) rfl a ?_
    rw [Hw.lanSecWrite, locked]
    exact Hw.guarded_refuses _ _ _ _ _ _ _ _ hs (.inr rfl)
  case wake =>
    obtain ⟨asleep, valid, lane, stat, mem, cots⟩ := s.hw.wakeLane_says ha hs hw hl
    exact completes_wakes (f := (·.wakeLane l)) rfl asleep ⟨rfl, valid, lane, stat, mem, cots⟩
  case awake =>
    have idle : s.hw.wakeLane l = s.hw := by rw [Hw.wakeLane, ha]; rfl
    have rests : { s.hw.power with asleep := s.hw.power.asleep && (s.hw.power.asleep || s.hw.act) } = s.hw.power := by
      rw [ha, Bool.false_and, ← ha]
    have same : (s.hw.wakeLane l).setPower { s.hw.power with
        asleep := (s.hw.wakeLane l).power.asleep && (s.hw.power.asleep || s.hw.act) } = s.hw := by rw [idle, rests]; rfl
    exact congrArg (fun h => Host.Outcome.next { s with hw := h }) same
  case edge => exact completes_live (f := Hw.bellRefEdge) rfl a (s.hw.bellRefEdge_says hl)
  case noLane =>
    refine completesAs_live (f := Hw.bellRefEdge) rfl a ?_
    rw [Hw.bellRefEdge, hl]; rfl
  case lost =>
    refine completes_live (f := (·.bellRefLost n)) rfl a ?_
    exact s.hw.bellRefLost_says n

end Sys2Proof

/-! SUPPORT. The bytes and frames of the UART, SPI and I2C units (R429). -/

namespace Sys2Proof.Machine.Hw

variable (h : Hw)

/-- A register of a peripheral unit but OWN takes its owner's write. -/
theorem peripheralWrite_owner {ag : Agent} {n : RegName} {count own u k : Nat} (v : Nat) (act : Hw → Hw) (hk : k ≠ own)
    (hs : h.sees ag n 0 (count * u + k) = true) (ho : h.ownsCode ((h.reg n 0 (count * u + own)).toNat % 8) ag = true)
    (hn : n.desc.fields.all (fun f => f.acc != .rwl) = true) : h.peripheralWrite ag n count own u k v act = act h := by
  rw [peripheralWrite, if_neg hk, ho]
  exact h.guarded_open _ _ _ _ _ _ hs hn

/-- What leaves by an output signal. -/
theorem carried_says (func unit sig : Nat) (x : Out) : let g := h.carried func unit sig x
    g.out = (if (h.laneOf func unit sig).isSome = true then x :: h.out else h.out) ∧ g.regs = h.regs ∧ g.mem = h.mem ∧
      g.cots = h.cots := by
  unfold carried
  dsimp only
  split
  · exact ⟨rfl, rfl, rfl, rfl⟩
  · exact ⟨rfl, rfl, rfl, rfl⟩

/-- The Lanes stay with the registers of the units. -/
theorem laneOf_setReg (n : RegName) (i j : Nat) (v : BitVec 64) (func unit sig : Nat) (hn : n ≠ .LAN_CFG) :
    (h.setReg n i j v).laneOf func unit sig = h.laneOf func unit sig := by
  have cfg (l : Nat) : (h.setReg n i j v).lanCfg l = h.lanCfg l := by
    rw [lanCfg, lanCfg, reg_setReg_ne _ _ _ _ _ _ _ _ (by simp [hn])]
  have hold (l : Nat) : (h.setReg n i j v).laneHold l = h.laneHold l := by rw [laneHold, laneHold, setReg_lanes]
  simp only [laneOf, cfg, hold]

/-- A bit of a UART's status set. -/
def uartStatus (h : Hw) (u k : Nat) : Hw :=
  h.setReg .LAN_UART 0 (6 * u + 2) (BitVec.ofNat 64 (setBits (h.reg .LAN_UART 0 (6 * u + 2)).toNat k k 1))

theorem uartStatus_says {u k : Nat} (hk : k < 64) : let g := h.uartStatus u k
    bit (g.reg .LAN_UART 0 (6 * u + 2)).toNat k = true ∧ g.uartFifo u = h.uartFifo u ∧ g.mem = h.mem ∧ g.cots = h.cots := by
  dsimp only
  rw [uartStatus, reg_setReg_same, uartFifo, uartFifo, setReg_uartRx, setReg_mem, setReg_cots]
  refine ⟨?_, rfl, rfl, rfl⟩
  rw [BitVec.toNat_ofNat, bit_eq_testBit, Nat.testBit_mod_two_pow, ← bit_eq_testBit, bit_setBits_one]
  simp [hk]

/-- A byte at a UART with a Lane for RX: into the FIFO, or a bit of the status. -/
theorem uartRxByte_eq {u : Nat} (b : Byte) (err : Nat) (hl : (h.laneOf 9 u 1).isSome = true) : h.uartRxByte u b err =
    if err = 1 ∨ err = 2 then h.uartStatus u err else if 16 ≤ (h.uartFifo u).length then h.uartStatus u 0
    else { h with uartRx := NTable.set [] h.uartRx u (h.uartFifo u ++ [b]) } := by
  have carries : (h.laneOf 9 u 1).isNone = false := by rw [← Option.not_isSome, hl]; rfl
  rw [uartRxByte, carries]
  rfl

theorem uartRxByte_says {u : Nat} (b : Byte) (err : Nat) (hl : (h.laneOf 9 u 1).isSome = true) : let g := h.uartRxByte u b err
    g.uartFifo u = (if err ≠ 1 ∧ err ≠ 2 ∧ (h.uartFifo u).length < 16 then h.uartFifo u ++ [b] else h.uartFifo u) ∧
      (err = 1 ∨ err = 2 → bit (g.reg .LAN_UART 0 (6 * u + 2)).toNat err = true) ∧
      (err ≠ 1 → err ≠ 2 → 16 ≤ (h.uartFifo u).length → bit (g.reg .LAN_UART 0 (6 * u + 2)).toNat 0 = true) ∧
      g.mem = h.mem ∧ g.cots = h.cots := by
  dsimp only
  rw [h.uartRxByte_eq b err hl]
  by_cases bad : err = 1 ∨ err = 2
  · obtain ⟨status, fifo, mem, cots⟩ := h.uartStatus_says (u := u) (k := err) (by omega)
    rw [if_pos bad, if_neg (by rintro ⟨one, two, -⟩; exact bad.elim one two)]
    exact ⟨fifo, fun _ => status, fun one two => absurd bad (by simp [one, two]), mem, cots⟩
  · obtain ⟨one, two⟩ := not_or.1 bad
    rw [if_neg bad]
    by_cases full : 16 ≤ (h.uartFifo u).length
    · obtain ⟨status, fifo, mem, cots⟩ := h.uartStatus_says (u := u) (k := 0) (by decide)
      rw [if_pos full, if_neg (fun well => Nat.not_lt.2 full well.2.2)]
      exact ⟨fifo, fun e => absurd e bad, fun _ _ _ => status, mem, cots⟩
    · rw [if_neg full, if_pos ⟨one, two, Nat.not_le.1 full⟩]
      exact ⟨NTable.get_set_same _ _ _ _, fun e => absurd e bad, fun _ _ e => absurd e full, rfl, rfl⟩

/-- A frame of an SPI unit. -/
theorem spiTx_says {ag : Agent} {u : Nat} (v miso : Word) (hs : h.sees ag .LAN_SPI 0 (7 * u + 3) = true)
    (ho : h.ownsCode ((h.reg .LAN_SPI 0 (7 * u + 6)).toNat % 8) ag = true) : let g := h.spiTx ag u v miso
    g.out = (if (h.laneOf 10 u 1).isSome = true then .spi u v :: h.out else h.out) ∧
      g.reg .LAN_SPI 0 (7 * u + 4) = (if (h.laneOf 10 u 2).isSome = true then miso.setWidth 64 else 0) ∧ g.mem = h.mem ∧
      g.cots = h.cots := by
  dsimp only
  rw [spiTx, h.peripheralWrite_owner _ _ (by decide) hs ho (by decide)]
  dsimp only
  generalize word : (if (h.laneOf 10 u 2).isSome = true then miso else 0) = w
  have shown : w.setWidth 64 = (if (h.laneOf 10 u 2).isSome = true then miso.setWidth 64 else 0) := by
    rw [← word]; split <;> rfl
  have lane : ((h.setReg .LAN_SPI 0 (7 * u + 3) (v.setWidth 64)).setReg .LAN_SPI 0 (7 * u + 4) (w.setWidth 64)).laneOf 10 u 1 =
      h.laneOf 10 u 1 := by rw [laneOf_setReg _ _ _ _ _ _ _ _ (by decide), laneOf_setReg _ _ _ _ _ _ _ _ (by decide)]
  obtain ⟨out, regs, mem, cots⟩ := ((h.setReg .LAN_SPI 0 (7 * u + 3) (v.setWidth 64)).setReg .LAN_SPI 0 (7 * u + 4)
    (w.setWidth 64)).carried_says 10 u 1 (.spi u v)
  refine ⟨?_, ?_, ?_, ?_⟩
  · rw [out, lane, setReg_out, setReg_out]
  · rw [reg, regs, ← reg, reg_setReg_same, shown]
  · rw [mem, setReg_mem, setReg_mem]
  · rw [cots, setReg_cots, setReg_cots]

/-- A transaction of an I2C unit. -/
theorem i2cCmd_says {ag : Agent} {u : Nat} (v data status : Word) (hs : h.sees ag .LAN_I2C 0 (7 * u + 4) = true)
    (ho : h.ownsCode ((h.reg .LAN_I2C 0 (7 * u + 6)).toNat % 8) ag = true) : let g := h.i2cCmd ag u v data status
    g.out = (if (h.laneOf 11 u 1).isSome = true then .i2c u v :: h.out else h.out) ∧
      g.reg .LAN_I2C 0 (7 * u + 3) = data.setWidth 64 ∧ g.reg .LAN_I2C 0 (7 * u + 5) = status.setWidth 64 ∧ g.mem = h.mem ∧
      g.cots = h.cots := by
  dsimp only
  rw [i2cCmd, h.peripheralWrite_owner _ _ (by decide) hs ho (by decide)]
  have lane : (((h.setReg .LAN_I2C 0 (7 * u + 4) (v.setWidth 64)).setReg .LAN_I2C 0 (7 * u + 3) (data.setWidth 64)).setReg .LAN_I2C 0
      (7 * u + 5) (status.setWidth 64)).laneOf 11 u 1 = h.laneOf 11 u 1 := by
    rw [laneOf_setReg _ _ _ _ _ _ _ _ (by decide), laneOf_setReg _ _ _ _ _ _ _ _ (by decide),
      laneOf_setReg _ _ _ _ _ _ _ _ (by decide)]
  obtain ⟨out, regs, mem, cots⟩ := (((h.setReg .LAN_I2C 0 (7 * u + 4) (v.setWidth 64)).setReg .LAN_I2C 0 (7 * u + 3)
    (data.setWidth 64)).setReg .LAN_I2C 0 (7 * u + 5) (status.setWidth 64)).carried_says 11 u 1 (.i2c u v)
  refine ⟨?_, ?_, ?_, ?_, ?_⟩
  · rw [out, lane, setReg_out, setReg_out, setReg_out]
  · rw [reg, regs, ← reg, reg_setReg_ne _ _ _ _ _ _ _ _ (by omega), reg_setReg_same]
  · rw [reg, regs, ← reg, reg_setReg_same]
  · rw [mem, setReg_mem, setReg_mem, setReg_mem]
  · rw [cots, setReg_cots, setReg_cots, setReg_cots]

end Sys2Proof.Machine.Hw

namespace Sys2Proof

open Sys2Proof.Machine

/-- Settles O35: a write of TX, a byte received, an SPI frame and an I2C transaction, each by the law of it. -/
theorem peripheralBytes : Obligations.PeripheralBytes := by
  refine ⟨fun s ag u b a hs => ⟨fun ho => ?sent, fun no => ?refused⟩, fun s u err b a hl => ?received,
    fun s u err b a hl => ?noLane,
    fun s ag u v miso a hs ho => ?frame, fun s ag u v data status a hs ho => ?transaction⟩
  case sent =>
    refine completesAs_live (f := (·.uartTx ag u b)) rfl a ?_
    rw [Hw.uartTx, s.hw.peripheralWrite_owner _ _ (by decide) hs ho (by decide)]
    rfl
  case refused =>
    refine completesAs_live (f := (·.uartTx ag u b)) rfl a ?_
    rw [Hw.uartTx, Hw.peripheralWrite, if_neg (by decide), no]
    exact Hw.guarded_refuses _ _ _ _ _ _ _ _ hs (.inr rfl)
  case received => exact completes_live (f := (·.uartRxByte u b err)) rfl a (s.hw.uartRxByte_says b err hl)
  case noLane =>
    refine completesAs_live (f := (·.uartRxByte u b err)) rfl a ?_
    rw [Hw.uartRxByte, hl]
    rfl
  case frame => exact completes_live (f := (·.spiTx ag u v miso)) rfl a (s.hw.spiTx_says v miso hs ho)
  case transaction => exact completes_live (f := (·.i2cCmd ag u v data status)) rfl a (s.hw.i2cCmd_says v data status hs ho)

end Sys2Proof
